-- ==== Sys2Proof/Word.lean ====
section
/-! DEFINITION. The byte and word types of the module's memories and registers, and the keyed list
that holds sparse contents (R7, R8). -/

namespace Sys2Proof

/-- One byte. -/
abbrev Byte := BitVec 8

/-- Bytes at ascending addresses, or in wire order. -/
abbrev Bytes := List Byte

/-- A sparse map held as plain data: keys strictly rising (`kwfFrom`). -/
abbrev KMap (α : Type) := List (Nat × α)

end Sys2Proof
end

