-- ==== Sys2Proof/Machine/Types.lean ====
section
/-! DEFINITION. The data that commands carry and that a loaded schedule image holds: ring names,
host data, formats, instruction words of every unit, stream descriptors, maps, claims. -/

namespace Sys2Proof.Machine

/-- A ring: the administrative ring or the ring of a context (R329). -/
inductive RingId where
  | admin
  | ctx (n : Nat)
  deriving DecidableEq, Repr

/-- What a module read of host memory returns (R328, R342). -/
inductive HostData where
  | ok (b : Bytes)
  | poison
  | error
  | timeout
  deriving DecidableEq, Repr

/-- What the symbol code makes of one codeword of a read (R240): nothing, one symbol corrected, uncorrectable, or one of the
two ways in which an error over three or more symbols delivers wrong data. `line` counts the lines of the read from 0. -/
inductive Ecc where
  | ok
  | corrected (line codeword symbol : Nat)
  | uncorrectable (line codeword : Nat)
  | miscorrected (line codeword symbol : Nat) (data : BitVec 256)
  | unseen (line codeword : Nat) (data : BitVec 256)
  deriving DecidableEq, Repr

/-- Where a deck transfer lands (R133, R135, R234); into stacked memory, with what the read of a
write-combining entry that it displaces finds (R238). -/
inductive DeckDest where
  | pier (p : Nat)
  | loc (span : Nat)
  | memory (ecc : Ecc)
  deriving DecidableEq, Repr

/-- The physical layer's verdict on a received frame (R268 rows 1 and 2): an intact frame with its continuation
fragments, the codewords that FEC corrected and the symbols it corrected on each lane (R269). -/
inductive PhyStatus where
  | ok (express : Bool) (fragments codewords : Nat) (symbols : List Nat)
  | fecError (codewords : Nat)
  | pcsError
  | assemblyError
  | smdError
  deriving DecidableEq, Repr

/-- A unit that a step claims, in the numbering of R14 (DETAIL_KIND UNIT of R354). -/
inductive UnitRef where
  | pier (p : Nat)
  | vector (s : Nat)
  | table (s : Nat)
  | gather (s : Nat)
  | keystone (b : Nat)
  | abutment (q : Nat)
  deriving DecidableEq, Repr

/-- The six number formats of R26. -/
inductive Fmt where
  | bf16 | fp16 | e4m3 | e5m2 | fp32 | fp64
  deriving DecidableEq, Repr

/-- The paths from the module into host memory (R349). -/
inductive HwPath where
  | status | event | ctrl | result | release | offload | shadow | mirror
  deriving DecidableEq, Repr

/-- The work that issued a module read of host memory (R342). -/
inductive HrOwner where
  | prefetch (step desc tile : Nat)
  | stream (step desc tile : Nat)
  | master (step tensor block : Nat)
  | load (ctx block : Nat)
  | install (slot block : Nat)
  deriving DecidableEq, Repr

/-- Service states of R314. -/
inductive Service where
  | running | stopping | stopped
  deriving DecidableEq, Repr

/-- Step states of R170; `hold` is the decision hold of R289. -/
inductive StepState where
  | queued | admitted | running | staged | hold | committed
  deriving DecidableEq, Repr

/-- How a step was admitted (R165, R166, R167, R169). -/
inductive AdmitKind where
  | realTime | bestEffort | lent
  deriving DecidableEq, Repr

/-- Operating modes of R394. -/
inductive PMode where
  | startup | test | recovery | normal
  deriving DecidableEq, Repr

/-- One write of a step into a memory: the nominal cycle orders it, and the rank the writes of one nominal cycle (R134,
R235). -/
structure WriteRec (α : Type) where
  step : Nat
  cycle : Nat
  addr : Nat
  val : α
  rank : Nat := 0
  deriving DecidableEq, Repr

/-- A memory with the writes of the steps that still run: what stood there before, and the log. -/
structure Vers (α : Type) where
  base : KMap α := []
  log : List (WriteRec α) := []
  deriving DecidableEq, Repr

/-- Kinds of pier instruction with their fields (R56, R57, R133). -/
inductive PierOp where
  | mma (bank : Nat) (acc : Bool) (fmtA fmtB : Fmt) (ta tb : Bool) (aSlot bSlot kb : Nat)
  | fill (sideB : Bool) (fmt : Fmt) (slot addr : Nat)
  | drain (bank : Nat) (toFeeder : Bool) (fmt : Fmt) (sideB : Bool) (addr : Nat)
  | bankWrite (bank addr : Nat)
  | flagClear (record : Bool)
  | tileIn (desc addr : Nat)
  | tileOut (desc addr : Nat)
  | blocksIn (desc addr nb : Nat)
  | blocksOut (desc addr nb : Nat)
  deriving DecidableEq, Repr

/-- A pier instruction (R53). -/
structure PierIns where
  cycle : Nat
  mask : BitVec 64
  op : PierOp
  deriving DecidableEq, Repr

/-- A vector- or table-station instruction (R136). -/
structure VecIns where
  vop : Nat
  prec : Bool
  bcast : Bool
  srcA : Nat
  srcB : Nat
  srcC : Nat
  dst : Nat
  cycle : Nat
  arg : Nat
  deriving DecidableEq, Repr

/-- A keystone entry (R214). -/
structure KeyIns where
  kop : Nat
  desc : Nat
  tensor : Nat
  cycle : Nat
  first : Nat
  blocks : Nat
  deriving DecidableEq, Repr

/-- A fabric-list entry (R282). -/
structure FabIns where
  fop : Nat
  desc : Nat
  node : Nat
  cycle : Nat
  flow : Nat
  srcIndex : Nat
  span : Nat
  deriving DecidableEq, Repr

/-- A stream descriptor (R122); `rows` and `cols` are R and C, `map` is none for 0xFFFF. -/
structure Desc where
  fmt : Fmt
  packed : Bool
  negInf : Bool
  rows : Nat
  cols : Nat
  space : Nat
  span : Nat
  tiles : Nat
  base : Nat
  rowTiles : Nat
  stride0 : Nat
  stride1 : Nat
  map : Option Nat
  pred : Nat
  posRow : Nat
  posCol : Nat
  predArg : Nat
  stash : Nat
  deriving DecidableEq, Repr

/-- A binding-table entry (R184). -/
structure Bind where
  kind : Nat
  stream : Nat
  source : Nat
  filled : Bool
  cycle : Nat
  count : Nat
  aux : Nat
  deriving DecidableEq, Repr

/-- A block map (R90, R148); bit i of `bits` is block i in row-major block order. -/
structure BlockMap where
  mask : Bool
  rowsB : Nat
  colsB : Nat
  bits : Nat
  deriving DecidableEq, Repr

/-- A chain binding (R148). -/
structure ChainBind where
  pier : Nat
  array : Nat
  bank : Nat
  byRow : Bool
  map : Nat
  line : Nat
  first : Nat
  deriving DecidableEq, Repr

/-- A routing descriptor (R103); counts are the true counts. -/
structure Routing where
  tokens : Nat
  experts : Nat
  topk : Nat
  gate : Bool
  spill : Bool
  cf : Nat
  sf : Nat
  score : Nat
  token : Nat
  dispatch : Nat
  deriving DecidableEq, Repr

/-- A function table (R140) with its place (KIND 0x08 of R147). -/
structure TableRec where
  span : Nat
  line : Nat
  expMode : Bool
  sym : Nat
  belowExt : Bool
  aboveExt : Bool
  deriv : Bool
  eLo : Nat
  pair : Nat
  lo : Nat
  m : Int
  lowValue : Nat
  highValue : Nat
  zeroValue : Nat
  infPos : Nat
  infNeg : Nat
  coef : List (Nat × Nat × Nat)
  deriving DecidableEq, Repr

/-- A claim or grant entry (R155). -/
structure Claim where
  res : Nat
  unit : Nat
  amount : Nat
  detail : Nat
  deriving DecidableEq, Repr

/-- A timing entry (R149). -/
structure Timing where
  kind : Nat
  id : Nat
  cycle : Nat
  arg1 : Nat
  arg2 : Nat
  deriving DecidableEq, Repr

/-- A loaded schedule image (R146 to R149, R184, R282). `reads` and `writes` are the descriptors its lists
read and write, `staged` the staging bytes that no binding can change, `fabricAt` the offset of its fabric
lists, `nulls` the pier and first line of each pair of null lines (R95), `spoiled` that a line of it cannot be read (R243). -/
structure Image where
  digest : BitVec 512 := 0
  bytes : Nat := 0
  length : Nat := 0
  finalSlack : Nat := 0
  zeroSkip : Bool := false
  stashDepth : Nat := 0
  piers : KMap (List PierIns) := []
  vectors : KMap (List VecIns) := []
  tables : KMap (List VecIns) := []
  keystones : KMap (List KeyIns) := []
  parts : List Nat := []
  thinRole : Nat := 0
  deadlineMs : Nat := 0
  fabrics : KMap (List FabIns) := []
  descs : List Desc := []
  binds : List Bind := []
  maps : List BlockMap := []
  chains : List ChainBind := []
  routings : List Routing := []
  tabs : List TableRec := []
  claims : List (List Claim) := []
  timing : List Timing := []
  placed : Bool := false
  frames : Nat := 0
  reads : List Nat := []
  writes : List Nat := []
  staged : Nat := 0
  fabricAt : Nat := 0
  nulls : List (Nat × Nat) := []
  spoiled : Bool := false
  deriving DecidableEq, Repr

/-- Where an arithmetic event fell: the fields of the three record layouts (R84, R143, R218). -/
inductive EventAt where
  | pier (drain : Bool) (array row col kIndex bank : Nat)
  | station (tile row col instr : Nat)
  | keystone (tensor block element stage : Nat)
  deriving DecidableEq, Repr

/-- An arithmetic event of a unit: its nominal cycle and the flags it raised, and whether a FLAG_CLEAR
has since cleared its effect on the sticky flags or on the record (R83 to R86, R144). -/
structure Event where
  cycle : Nat
  place : EventAt
  cause : Nat
  flagLive : Bool := true
  recLive : Bool := true
  deriving DecidableEq, Repr

/-- A FLAG_CLEAR that a unit has run: its nominal cycle, the arrays it selects on a pier, and whether it clears the
record too. Events of lower nominal cycle are cleared whenever they are raised (R86, R144, R218). -/
structure FlagClr where
  cycle : Nat
  mask : BitVec 64
  record : Bool
  deriving DecidableEq, Repr

/-- A FILL of which source lines have still to land: `wait` counts them from ADDR (R62, R134). -/
structure OpenFill where
  cycle : Nat
  arrays : List Nat
  sideB : Bool
  fmt : Fmt
  slot : Nat
  addr : Nat
  wait : List Nat
  deriving DecidableEq, Repr

/-- A matrix instruction on one array whose k-steps have not all fired: how many have, and what they have built, the
bank, whether a product has been added and the k index in the chain (R52, R73, R74). -/
structure MmaRun where
  array : Nat
  cycle : Nat
  bank : Nat
  acc : Bool
  fmtA : Fmt
  fmtB : Fmt
  ta : Bool
  tb : Bool
  aSlot : Nat
  bSlot : Nat
  kb : Nat
  fired : Nat := 0
  vals : List (BitVec 32) := []
  started : Bool := false
  kIdx : Nat := 0
  deriving DecidableEq, Repr

/-- The activity of an array: the first cycle not yet counted, from the start of the step preamble on, and the cells
that fired in the four cycles before it, oldest first (R77). -/
structure Ramp where
  next : Nat := 0
  last : List Nat := [0, 0, 0, 0]
  deriving DecidableEq, Repr

/-- A stream movement into a tile store that has not wholly landed (R133, R134). -/
structure Inbound where
  pier : Nat
  desc : Nat
  first : Nat
  blocks : Nat
  line : Nat
  cycle : Nat
  landed : Nat := 0
  deriving DecidableEq, Repr

/-- One present block of a stream on the deck, with its version tag (R127, R198) and the nominal
cycle of the instruction that produced it. -/
structure StreamBlock where
  bytes : Bytes
  tag : Nat
  cycle : Nat
  deriving DecidableEq, Repr

/-- A dispatch-table record (R109); status 0 primary, 1 spill, 2 dropped. -/
structure Dispatch where
  token : Nat
  expert : Nat
  rank : Nat
  status : Nat
  row : Nat
  gate : Nat
  deriving DecidableEq, Repr

/-- A host write held in STAGING until release (R171). -/
structure StagedWrite where
  cycle : Nat
  desc : Nat
  addr : Nat
  bytes : Bytes
  deriving DecidableEq, Repr

/-- A model-store write in flight (R299, R303, R304, R248, R463). -/
inductive StoreWrite where
  | copyA (slot : Nat) (cmd : Option (RingId × Nat))
  | copyB (slot : Nat) (cmd : Option (RingId × Nat))
  | directory (slot : Nat) (cmd : Option (RingId × Nat))
  | repairSlot (slot : Nat)
  | repairBlock (slot block : Nat) (copyB : Bool)
  | retire (stack granule spare : Nat) (seq : Option Nat)
  | withdraw (frame : Nat)
  deriving DecidableEq, Repr

/-- Identity of a Slory flow (R277, "A flow is identified by"). -/
structure FlowKey where
  tag : Nat := 0
  srcDomain : Nat := 0
  src : Nat := 0
  dst : Nat := 0
  step : Nat := 0
  attempt : Nat := 0
  flow : Nat := 0
  deriving DecidableEq, Repr

/-- What crosses the module's boundaries outward (R3), as the model records it. -/
inductive Output where
  | msix (vec : Nat) (addr : BitVec 64) (data : BitVec 32)
  | regRead (off size : Nat) (value : BitVec 64)
  | hostObserved (path : HwPath) (addr : Nat) (bytes : Bytes)
  | frame (port : Nat) (bytes : Bytes)
  | pldm (bytes : Bytes)
  | pldmSensor (id : Nat) (value : Int)
  | pldmEvent (code : Nat) (detail : BitVec 128)
  | updateResult (cls : Nat) (outcome : Nat)
  | mctp (bytes : Bytes)
  | unsupportedCmd (typ : Nat)
  | snoopAnswer (addr : Nat)
  | unsupportedRequest (addr : Nat)
  | i3cAddress (addr : Nat)
  | aerCorrectable (status : Nat)
  | viral
  | faultN (asserted : Bool)
  | linkUp (up : Bool)
  deriving DecidableEq, Repr

end Sys2Proof.Machine
end

