-- ==== Sys2Proof/Syntax.lean ====
section
/-! DEFINITION. The commands the block takes: one constructor per row of spec/opcode_table.json.
Operands: `r` a ring, `st` a step number, `p` a pier, `sp` a span, `b` a stack or keystone, `q` a port,
`n` a context, `seq` the CMD_HEAD of a command's fetch (or a frame's SEQ), `stall` the cycles the unit stalled at this issue, `dry` its entrance-cycles of lag. -/

namespace Sys2Proof

open Sys2Proof.Machine (RingId HostData DeckDest Ecc PhyStatus UnitRef)

inductive Instr where
  /-- NOP (R366). Command that does nothing and writes a reply. -/
  | nop (r : RingId)
  /-- CTX_CREATE (R366). Administrative command that checks and creates a context with its ring, windows, grant and frame reservation, and writes its control line. -/
  | ctxCreate (r : RingId) (pages : List HostData)
  /-- CTX_DESTROY (R381). Administrative command that ends a context's commands and steps, discards its buffered writes, scrubs its frames and units, withdraws its slots, then replies. -/
  | ctxDestroy (r : RingId)
  /-- CTX_QUERY (R367). Command that writes the 256-byte context record into the result buffer. -/
  | ctxQuery (r : RingId)
  /-- SCHED_LOAD (R150). Command that reads a schedule image over CXL, applies every structural check and then the grant checks, and places the image in an image slot. -/
  | schedLoad (r : RingId) (image : HostData)
  /-- SCHED_UNLOAD (R366). Command that empties an image slot that no queued or admitted step uses, freeing its tables and learned values. -/
  | schedUnload (r : RingId)
  /-- TIMETABLE_SET (R163). Administrative command that checks a timetable and installs it at the next period boundary, or at once, or removes it. -/
  | timetableSet (r : RingId)
  /-- STEP_RUN (R366). Command that checks bindings and admission limits and queues a step, which replies when it ends. -/
  | stepRun (r : RingId)
  /-- STEP_KILL (R366). Command that kills an admitted step, or removes a queued step, unless its commit or vote point has passed. -/
  | stepKill (r : RingId)
  /-- WEIGHTS_LOAD (R305). Command that installs a store image into a slot, or loads tensors into a context from the store, host, fabric or masters, in pending or direct mode. -/
  | weightsLoad (r : RingId) (head : HostData)
  /-- WEIGHTS_SWAP (R317). Command that stops the service, waits for admitted steps to end and makes every pending copy live. -/
  | weightsSwap (r : RingId)
  /-- SERVICE_STOP (R315). Command that moves the service to STOPPING, draining or ending queued steps by the DRAIN bit. -/
  | serviceStop (r : RingId)
  /-- SERVICE_START (R316). Command that returns a STOPPED service to RUNNING when no registered tensor is unloaded. -/
  | serviceStart (r : RingId)
  /-- OPT_CONFIG (R366). Command that replaces the optimiser header and groups, registers or changes tensors and sets the thinning period. -/
  | optConfig (r : RingId)
  /-- CKPT_STREAM_START (R227). Command that starts a checkpoint stream as sender or partner; the partner reserves its region at once. -/
  | ckptStreamStart (r : RingId)
  /-- CKPT_STREAM_STOP (R366). Command that stops an active checkpoint stream, or releases the partner's region. -/
  | ckptStreamStop (r : RingId)
  /-- CKPT_RESTORE (R228). Command that rebuilds masters, moments and update counts from a partner's base and complete log, and makes them live with one flip. -/
  | ckptRestore (r : RingId) (fetched : Bytes)
  /-- FENCE (R346). Command that fences the context's write-combining entries and waits for global observation of its earlier host writes before replying. -/
  | fence (r : RingId) (eccs : List Ecc := [])
  /-- PAGE_RETIRE (R248). Administrative command that retires a granule of a stack into a spare granule, or withdraws its frame when the pool is empty. -/
  | pageRetire (r : RingId) (eccs : List Ecc) (fence : List Ecc := [])
  /-- POWER_CAP_SET (R397). Administrative command that sets the module cap, within CAP_LIMIT_W, and starts the walk-down when it lowers the cap. -/
  | powerCapSet (r : RingId)
  /-- ENERGY_READ (R408). Command that writes the context's energy record, or on the administrative ring the module's energy record. -/
  | energyRead (r : RingId)
  /-- FABRIC_CONFIG (R259). Administrative command that checks and applies a node record and port records, retraining each configured port. -/
  | fabricConfig (r : RingId)
  /-- GROUP_SET (R293). Command that replaces the context's coupled group. -/
  | groupSet (r : RingId)
  /-- ATTEST_REPORT (R391). Command that captures and writes a signed module or context attestation report with certificates. -/
  | attestReport (r : RingId)
  /-- DIAG_RUN (R366). Administrative command that enters test mode and runs a diagnostic test while no context exists. -/
  | diagRun (r : RingId)
  /-- COMMAND_FETCH (R334). The module fetches the command entry at CMD_HEAD once a command is pending and a status entry can be reserved, checks it and starts it in ring order. -/
  | commandFetch (r : RingId) (entry : HostData) (param : HostData)
  /-- COMMAND_TIMEOUT (R369). TIMEOUT_MS expires on an accepted command, which ends with ST_TIMEOUT and leaves the state its table gives. -/
  | commandTimeout (r : RingId) (seq : Nat)
  /-- DB_CTX (R333). Host write of a context doorbell sets CMD_TAIL and/or STATUS_HEAD after testing each field. -/
  | dbCtx (n : Nat) (size : Nat) (high : Bool) (v : BitVec 64)
  /-- DB_ADMIN (R333). Host write of the administrative doorbell sets CMD_TAIL and/or STATUS_HEAD after testing each field. -/
  | dbAdmin (size : Nat) (high : Bool) (v : BitVec 64)
  /-- COAL_US (R338). The coalescing time after the first unconsumed status entry expires and the ring's MSI-X vector is sent. -/
  | coalUs (r : RingId)
  /-- MSIX_RATE_WINDOW (R446). The 1 µs limit on vectors 257 to 259 ends and one message covers the sets that fell within it. -/
  | msixRateWindow (vec : Nat)
  /-- MSIX_TABLE_WRITE (R337). Host write of an MSI-X table entry; unmasking a vector with its pending bit set sends the message. -/
  | msixTableWrite (off : Nat) (size : Nat) (v : BitVec 64)
  /-- RST_CONTROL (R451). A write of the key 0x4C5A_0001 to RST_CONTROL starts a register reset in every state. -/
  | rstControl (size : Nat) (high : Bool) (v : BitVec 64)
  /-- RST_ADMIN_INSTALL (R450). A write of GO checks the administrative ring record and installs it, or reports ST_BAD_PARAM or ST_BUSY. -/
  | rstAdminInstall (size : Nat) (high : Bool) (v : BitVec 64)
  /-- ERR_LOG_SELECT (R444). A write of ERR_LOG_SELECT copies one log slot into ERR_LOG_ENTRY0 to ERR_LOG_ENTRY3 in one cycle. -/
  | errLogSelect (size : Nat) (high : Bool) (v : BitVec 64)
  /-- ERR_LOG_ACK (R445). A write of ERR_LOG_ACK removes log entries up to TIME, and with PRIOR also entries from earlier boots. -/
  | errLogAck (size : Nat) (high : Bool) (v : BitVec 64)
  /-- W1C_WRITE (R438). A write of 1s to a W1C field such as ERR_INT_STATUS, PWR_EVENT_STATUS or LINK_CHANGE clears those bits unless hardware sets them in the same cycle. -/
  | w1cWrite (off : Nat) (size : Nat) (v : BitVec 64) (sets : BitVec 64)
  /-- RC_REGISTER_READ (R436). An 8-byte read or low-half read of an RC counter returns its value and clears it in the same cycle. -/
  | rcRegisterRead (off : Nat) (size : Nat)
  /-- LOW_HALF_READ (R435). A 4-byte read of a register's low half returns bits [31:0] and copies bits [63:32] into the read latch. -/
  | lowHalfRead (off : Nat) (size : Nat)
  /-- REGISTER_WRITE (R437). A write to a register with no row of its own stores RW halves and ignores RO and RC fields. -/
  | registerWrite (off : Nat) (size : Nat) (v : BitVec 64)
  /-- MALFORMED_REGISTER_ACCESS (R325). An unaligned, wrong-size or unimplemented-offset access completes with no effect and advances the malformed-access count. -/
  | malformedRegisterAccess (off : Nat) (size : Nat) (read : Bool)
  /-- MMA (R56). Matrix instruction that issues K k-steps from feeder slots into one bank, overwriting or adding. -/
  | mma (st : Nat) (p : Nat) (stall : Nat) (dry : Nat)
  /-- FILL (R57). Pier instruction that moves one block from the tile store into a feeder slot of every selected array, setting or clearing the skip mark. -/
  | fill (st : Nat) (p : Nat) (stall : Nat) (dry : Nat)
  /-- DRAIN (R70). Pier instruction that reads a bank row by row, converts it and writes it to the tile store or the array's own feeder. -/
  | drain (st : Nat) (p : Nat) (stall : Nat) (dry : Nat)
  /-- BANK_WRITE (R68). Pier instruction that writes one FP32 block from the tile store into a bank, beginning a chain. -/
  | bankWrite (st : Nat) (p : Nat) (stall : Nat) (dry : Nat)
  /-- FLAG_CLEAR (R86). Pier instruction that clears the sticky flags of selected arrays, and optionally the first-occurrence record, for events of earlier nominal cycle. -/
  | flagClear (st : Nat) (p : Nat) (stall : Nat) (dry : Nat)
  /-- TILE_IN (R133). Pier instruction that takes the next tile of a stream from the deck into the tile store. -/
  | tileIn (st : Nat) (p : Nat) (stall : Nat) (dry : Nat)
  /-- TILE_OUT (R133). Pier instruction that sends store lines out as the next tile of a stream. -/
  | tileOut (st : Nat) (p : Nat) (stall : Nat) (dry : Nat)
  /-- BLOCKS_IN (R133). Pier instruction that takes the next NB blocks of a stream into the tile store. -/
  | blocksIn (st : Nat) (p : Nat) (stall : Nat) (dry : Nat)
  /-- BLOCKS_OUT (R133). Pier instruction that sends NB blocks out as the next blocks of a stream. -/
  | blocksOut (st : Nat) (p : Nat) (stall : Nat) (dry : Nat)
  /-- DECK_ARRIVAL (R134). Flits of a stream land in a tile store or local store, making lines valid and setting zero tags. -/
  | deckArrival (st : Nat) (desc : Nat) (dest : DeckDest)
  /-- BEARING_READ_RETURN (R152). A bearing delivers a read 96 cycles after its request, checked by ECC, or fails the reading step on an uncorrectable or poisoned line. -/
  | bearingReadReturn (st : Nat) (desc : Nat) (eccs : List Ecc)
  /-- ADD (R137). Vector-station operation a + b. -/
  | add (st : Nat) (sp : Nat) (stall : Nat)
  /-- SUB (R137). Vector-station operation a − b. -/
  | sub (st : Nat) (sp : Nat) (stall : Nat)
  /-- MUL (R137). Vector-station operation a × b. -/
  | mul (st : Nat) (sp : Nat) (stall : Nat)
  /-- FMA (R137). Vector-station fused multiply-add with one rounding. -/
  | fma (st : Nat) (sp : Nat) (stall : Nat)
  /-- MIN (R137). Vector-station minimum under R41. -/
  | min (st : Nat) (sp : Nat) (stall : Nat)
  /-- MAX (R137). Vector-station maximum under R41. -/
  | max (st : Nat) (sp : Nat) (stall : Nat)
  /-- CMP (R137). Vector-station comparison LT, LE or EQ giving 1.0 or +0.0. -/
  | cmp (st : Nat) (sp : Nat) (stall : Nat)
  /-- ABS (R137). Vector-station absolute value. -/
  | abs (st : Nat) (sp : Nat) (stall : Nat)
  /-- NEG (R137). Vector-station sign inversion. -/
  | neg (st : Nat) (sp : Nat) (stall : Nat)
  /-- CVT (R137). Vector-station conversion into DST's format. -/
  | cvt (st : Nat) (sp : Nat) (stall : Nat)
  /-- SCALE (R137). Vector-station multiplication by 2^ARG with one rounding. -/
  | scale (st : Nat) (sp : Nat) (stall : Nat)
  /-- SELECT (R137). Vector-station choice of a or b by c. -/
  | select (st : Nat) (sp : Nat) (stall : Nat)
  /-- DIV (R137). Vector-station correctly rounded division. -/
  | div (st : Nat) (sp : Nat) (stall : Nat)
  /-- SQRT (R137). Vector-station correctly rounded square root. -/
  | sqrt (st : Nat) (sp : Nat) (stall : Nat)
  /-- RECIP (R137). Vector-station correctly rounded reciprocal. -/
  | recip (st : Nat) (sp : Nat) (stall : Nat)
  /-- RSQRT (R137). Vector-station correctly rounded reciprocal square root. -/
  | rsqrt (st : Nat) (sp : Nat) (stall : Nat)
  /-- ROW_SUM (R138). Vector-station per-row sum in the fixed tree and block order. -/
  | rowSum (st : Nat) (sp : Nat) (stall : Nat)
  /-- ROW_MAX (R138). Vector-station per-row maximum in the fixed order. -/
  | rowMax (st : Nat) (sp : Nat) (stall : Nat)
  /-- ROW_SUMSQ (R138). Vector-station per-row sum of squares in the fixed order. -/
  | rowSumsq (st : Nat) (sp : Nat) (stall : Nat)
  /-- PART_ADD (R49). Vector-station ordered sum of FP32 partials in ascending source index. -/
  | partAdd (st : Nat) (sp : Nat) (stall : Nat)
  /-- POS (R139). Vector-station write of an exact row- or column-position tile. -/
  | pos (st : Nat) (sp : Nat) (stall : Nat)
  /-- TRANSPOSE (R137). Vector-station exact transpose of a tile. -/
  | transpose (st : Nat) (sp : Nat) (stall : Nat)
  /-- VECTOR_FLAG_CLEAR (R144). Vector-station instruction that clears its flags, and optionally its record, for events of earlier nominal cycle. -/
  | vectorFlagClear (st : Nat) (sp : Nat) (stall : Nat)
  /-- EVAL (R141). Table-station evaluation of a piecewise-quadratic table at each input. -/
  | eval (st : Nat) (sp : Nat) (stall : Nat)
  /-- DERIV_MUL (R142). Table-station product of the output gradient and the derivative table evaluated at the saved input. -/
  | derivMul (st : Nat) (sp : Nat) (stall : Nat)
  /-- TABLE_FLAG_CLEAR (R144). Table-station instruction that clears its flags and optionally its record. -/
  | tableFlagClear (st : Nat) (sp : Nat) (stall : Nat)
  /-- ACCEPT (R214). Keystone entry that takes gradient blocks into its buffer and sums their squares for the norm. -/
  | accept (st : Nat) (b : Nat) (stall : Nat)
  /-- UPDATE (R211). Keystone entry that updates blocks by the group's rule into shadow slots, derives the working copy and stages delta words. -/
  | update (st : Nat) (b : Nat) (stall : Nat) (eccs : List Ecc)
  /-- UPDATE_LIST (R117). Keystone entry that updates the listed blocks of a block list and carries the others' working copy. -/
  | updateList (st : Nat) (b : Nat) (stall : Nat) (eccs : List Ecc)
  /-- KEYSTONE_FLAG_CLEAR (R218). Keystone entry that clears its flags and optionally its record. -/
  | keystoneFlagClear (st : Nat) (b : Nat) (stall : Nat)
  /-- SEND (R282). Fabric-list entry that sends a stream as a Slory flow to a peer. -/
  | send (st : Nat) (q : Nat) (stall : Nat)
  /-- RECV (R277). Fabric-list entry that declares a flow received from a peer into a stream. -/
  | recv (st : Nat) (q : Nat) (stall : Nat)
  /-- RED_SEND (R284). Fabric-list entry that sends an FP32 contribution with its source index to the shard owner. -/
  | redSend (st : Nat) (q : Nat) (stall : Nat)
  /-- RED_RECV (R284). Fabric-list entry that adds contributions in ascending source index on a vector station. -/
  | redRecv (st : Nat) (q : Nat) (stall : Nat)
  /-- SPLIT_SEND (R293). Fabric-list entry that sends stream bytes to a coupled-group member. -/
  | splitSend (st : Nat) (q : Nat) (stall : Nat)
  /-- SPLIT_RECV (R293). Fabric-list entry that places a split flow directly into a vector-station local store. -/
  | splitRecv (st : Nat) (q : Nat) (stall : Nat)
  /-- NORM (R286). Fabric-list entry that sends the module's FP64 norm sum to the leader. -/
  | norm (st : Nat) (q : Nat) (stall : Nat)
  /-- ACC (R288). Fabric-list entry that writes a gradient into an accumulator's shadow slot, or adds it to the live slot. -/
  | acc (st : Nat) (q : Nat) (stall : Nat)
  /-- ROUTING (R107). Gather-station routing that ranks scores, assigns window rows and writes the dispatch table and tokens. -/
  | routing (st : Nat) (sp : Nat) (cycle : Nat) (ri : Nat) (win : Nat)
  /-- COMBINE (R110). Gather-station combine of expert outputs by gate in rank order. -/
  | combine (st : Nat) (sp : Nat) (cycle : Nat) (ri : Nat) (win : Nat) (dst : Nat)
  /-- COMBINE_BWD (R186). Gather-station backward of the combine, writing window and gate gradients. -/
  | combineBwd (st : Nat) (sp : Nat) (bi : Nat) (win : Nat)
  /-- DISPATCH_BWD (R187). Gather-station backward of the dispatch, writing token gradients. -/
  | dispatchBwd (st : Nat) (sp : Nat) (bi : Nat)
  /-- BLOCK_LIST_BUILD (R114). Gather station builds a block list from an FP32 gradient stream, ending the step if CAPACITY is exceeded. -/
  | blockListBuild (st : Nat) (sp : Nat) (cycle : Nat) (src : Nat) (dst : Nat) (stall : Nat)
  /-- SPARSE_EMBEDDING_LIST (R116). Gather station builds an embedding gradient block list from the step's token ids. -/
  | sparseEmbeddingList (st : Nat) (sp : Nat) (cycle : Nat) (ids : List Nat) (src : Nat) (dst : Nat) (stall : Nat)
  /-- PREFETCH (R189). At its CYCLE the landing begins reading a stream's tiles from host memory into a staging ring ahead of use. -/
  | prefetch (st : Nat) (desc : Nat)
  /-- SLOT_START (R165). A valid timetable slot begins: best-effort steps not yet committed are killed and the owner's oldest queued step is admitted. -/
  | slotStart (i : Nat)
  /-- SLOT_END (R166). A slot ends; a real-time step still before its commit point runs on and an overrun is counted. -/
  | slotEnd (i : Nat)
  /-- PERIOD_BOUNDARY (R163). A timetable period boundary passes and a waiting accepted table, or a removal, takes effect. -/
  | periodBoundary
  /-- BEST_EFFORT_ADMISSION (R167). The module admits a queued best-effort step outside slots, in context turn order, when its claims are free and it fits before the next slot. -/
  | bestEffortAdmission
  /-- BUBBLE (R169). A lendable bubble of a real-time step begins and may host one queued step of another context. -/
  | bubble (st : Nat) (bub : Nat) (n : Nat)
  /-- PREAMBLE_START (R151). The step preamble begins at the arithmetic-cycle boundary after the second tick following the admission decision. -/
  | preambleStart (st : Nat)
  /-- PREAMBLE_END (R79). The 32-cycle preamble ends and the step enters Running at image cycle 0. -/
  | preambleEnd (st : Nat)
  /-- PHASE (R158). A unit begins a phase and its offset is checked against the phase's slack. -/
  | phase (st : Nat) (u : UnitRef) (m : Nat) (energies : List (Nat × Nat))
  /-- WAIT (R161). A wait point is reached and the module continues, runs a fill segment, or waits for the awaited tile. -/
  | wait (st : Nat) (w : Nat)
  /-- FINAL_SLACK_EXCEEDED (R158). A unit's offset exceeds FINAL_SLACK while its last instruction is unfinished, and the step ends with ST_CONTRACT_SLIP. -/
  | finalSlackExceeded (st : Nat) (u : UnitRef)
  /-- COMMIT_POINT (R171). The step reaches its commit point: flags are compared with the trap mask, staged effects become irrevocable, versions flip and claims are released. -/
  | commitPoint (st : Nat) (energies : List (Nat × Nat))
  /-- RELEASE_COMPLETE (R171). The release of a committed step's host writes, delta records and mirrors completes, STAGING and HOST are released and the reply is written. -/
  | releaseComplete (st : Nat) (bad : List Nat) (badDelta : Bool)
  /-- POINTER_SWITCH (R317). Once no step of the context is admitted, pending copies become live, resident ranges are refilled and the load generation advances. -/
  | pointerSwitch (n : Nat)
  /-- RETIREMENT_COPY (R248). Once no step of the owner is admitted, the granule is fenced, copied to a spare and redirected, and the record is written. -/
  | retirementCopy (b : Nat) (g : Nat) (eccs : List Ecc) (fence : List Ecc := [])
  /-- CKPT_BASE_SEND (R227). Once no publishing step is admitted, the sender sends BASE records of every live plane and an END record. -/
  | ckptBaseSend (n : Nat) (slow : List HostData)
  /-- UNIT_SCRUB (R381). Once no admitted step claims a unit of a destroyed context, its feeders, banks, stores and records are zeroed. -/
  | unitScrub (n : Nat) (u : UnitRef)
  /-- ETHERNET_FRAME_RECEIVE (R268). A received frame is checked in order and discarded and counted, or passed on. -/
  | ethernetFrameReceive (q : Nat) (phy : PhyStatus) (frame : Bytes)
  /-- PFC_FRAME (R267). A received PFC frame pauses an enabled priority for its quanta, or is counted and ignored. -/
  | pfcFrame (q : Nat) (frame : Bytes)
  /-- PAUSE_FRAME (R267). A received 802.3x PAUSE frame is counted and ignored. -/
  | pauseFrame (q : Nat) (frame : Bytes)
  /-- ARP_REQUEST (R268). A received ARP request for IPV4_ADDR is answered with a reply. -/
  | arpRequest (q : Nat) (frame : Bytes)
  /-- NEIGHBOUR_SOLICITATION (R268). A received neighbour solicitation for IPV6_ADDR is answered with an advertisement. -/
  | neighbourSolicitation (q : Nat) (frame : Bytes)
  /-- VERIFY_FRAME (R264). A received 802.3br verify or respond frame is handled by the verify procedure. -/
  | verifyFrame (q : Nat) (respond : Bool)
  /-- PFC_REPEAT (R267). 16,384 quanta pass while a priority stays above threshold and the PFC frame is sent again. -/
  | pfcRepeat (q : Nat) (prio : Nat)
  /-- PAUSE_EXPIRY (R267). The pause time of a paused priority runs out and frames of that priority may start. -/
  | pauseExpiry (q : Nat) (prio : Nat)
  /-- PAUSE_STORM (R431). A priority stays paused for 100 ms and the port ignores PFC for it for 1 s. -/
  | pauseStorm (q : Nat) (prio : Nat)
  /-- PAUSE_IGNORE_END (R431). The 1 s ignore period of a pause storm ends and PFC is obeyed again. -/
  | pauseIgnoreEnd (q : Nat) (prio : Nat)
  /-- FRAME_TRANSMIT (R262). A whole frame in a transmit buffer starts on the wire, pre-empted by express frames where enabled. -/
  | frameTransmit (q : Nat)
  /-- PORT_LINK_UP (R260). A port's link training succeeds and the port counts as up. -/
  | portLinkUp (q : Nat) (inverted : Nat := 0)
  /-- PORT_LINK_DOWN (R260). A port's link goes down, losing any frame being sent, and LINK_CHANGE is set. -/
  | portLinkDown (q : Nat)
  /-- PORT_TRAINING_TIMEOUT (R260). A port has not trained within 2 s and a link record is logged while training continues. -/
  | portTrainingTimeout (q : Nat)
  /-- VERIFY_DONE (R264). The 802.3br verify procedure succeeds and pre-emption starts, or fails and stays off. -/
  | verifyDone (q : Nat) (ok : Bool)
  /-- WRITE (R277). A received Slory WRITE frame is checked and its payload placed at OFFSET in its flow. -/
  | write
  /-- REDUCE (R284). A received Slory REDUCE frame delivers a contribution or norm sum, added in source-index order. -/
  | reduce
  /-- BCAST (R312). A received broadcast segment is digest-checked, processed and relayed to its children. -/
  | bcast (children : List Nat)
  /-- SPLIT (R293). A received SPLIT frame is placed directly into a local store. -/
  | split
  /-- DELTA (R226). A received DELTA frame is appended to the partner's active log half, rebasing when needed. -/
  | delta
  /-- ACK (R279). A received ACK releases acknowledged frames of a flow, and an END acknowledgement completes a checkpoint step. -/
  | ack
  /-- NAK (R278). A received NAK makes the sender resend the named frame at once. -/
  | nak
  /-- VOTE_REPEAT (R290). The leader receives a VOTE_REPEAT and decides DECIDE_REPEAT, or DECIDE_END at the repeat limit. -/
  | voteRepeat
  /-- VOTE_FAIL (R290). The leader receives a VOTE_FAIL and decides DECIDE_END with its status and origin. -/
  | voteFail
  /-- VOTE_RECEIVE (R290). The leader receives a VOTE_OK and decides DECIDE_COMMIT when all P votes are VOTE_OK. -/
  | voteReceive
  /-- DECIDE_COMMIT (R291). A participant receives DECIDE_COMMIT and its staged effects become irrevocable and are released. -/
  | decideCommit
  /-- DECIDE_REPEAT (R291). A participant receives DECIDE_REPEAT and kills the attempt, re-admitting the step with ATTEMPT + 1. -/
  | decideRepeat
  /-- DECIDE_END (R291). A participant receives DECIDE_END and ends the step with the given status and origin. -/
  | decideEnd
  /-- COLLECTIVE_DEADLINE (R290). DEADLINE_MS passes at the leader without P votes and it decides a repeat or an end. -/
  | collectiveDeadline (n : Nat) (step : Nat)
  /-- DECISION_HOLD_TIMEOUT (R291). No decision arrives within DEADLINE_MS after the vote; the step ends with ST_TIMEOUT and the context is marked diverged. -/
  | decisionHoldTimeout (st : Nat)
  /-- RETRANSMISSION_TIMER (R278). RETX_US passes without acknowledgement of a frame or decision, and it is resent. -/
  | retransmissionTimer (flow : Nat) (seq : Nat)
  /-- ACK_TIMER (R279). 2 µs after the first unacknowledged arrival the receiver sends an ACK. -/
  | ackTimer (flow : Nat)
  /-- STREAM_TIMEOUT (R227). Delta records stay unacknowledged for the stream timeout, the checkpoint stream breaks and its records are freed. -/
  | streamTimeout (n : Nat)
  /-- WRITE_COMBINING_IDLE_FLUSH (R237). No write reaches a write-combining entry for 2 µs and it is written out. -/
  | writeCombiningIdleFlush (b : Nat) (line : Nat) (ecc : Ecc)
  /-- CORRECTED_REWRITE (R240). A line corrected on read is rewritten through a spare bearing access unless a later write entered the buffer. -/
  | correctedRewrite (b : Nat) (line : Nat)
  /-- REFRESH (R252). The refresh interval expires and a bank of each channel is refreshed. -/
  | refresh (b : Nat)
  /-- PATROL_SCRUB (R241). Patrol scrub reads a line, correcting or poisoning it and logging as a read does. -/
  | patrolScrub (b : Nat) (line : Nat) (ecc : Ecc) (twin : Bool)
  /-- DRAM_SENSOR_READ (R252). Every 32 µs the bearing reads its core-die sensors and changes the refresh rate across 85 °C. -/
  | dramSensorRead (b : Nat) (temps : List Int)
  /-- PARITY_RETRY (R246). 24 bearing cycles after a parity error the transfer is repeated, declaring the stack lost after the third retry fails. -/
  | parityRetry (pa : Nat) (src : Nat) (ok : Bool)
  /-- CHANNEL_NO_RESPONSE (R247). A channel gives no alert and no data for 256 bearing cycles and the stack is declared lost. -/
  | channelNoResponse (pa : Nat) (src : Nat)
  /-- HOST_WRITE_GO (R327). The host returns GO for a module write, which becomes globally observed. -/
  | hostWriteGo (id : Nat)
  /-- HOST_READ_COMPLETION (R342). Data returns for a module read of host memory, or poison or an error completion ends the work that issued it. -/
  | hostReadCompletion (id : Nat) (d : HostData)
  /-- HOST_READ_TIMEOUT (R342). A module read of host memory returns no data within 50 ms and the issuing work ends with ST_MEM_UE. -/
  | hostReadTimeout (id : Nat)
  /-- GO_TIMEOUT (R431). No GO arrives within 50 ms for a module write and the issuing step or command ends with ST_MEM_UE. -/
  | goTimeout (id : Nat)
  /-- HOST_SNOOP (R326). A snoop from the host is answered at once. -/
  | hostSnoop (addr : Nat)
  /-- CXL_MEM_REQUEST (R431). A CXL.mem request is answered with Unsupported Request. -/
  | cxlMemRequest (addr : Nat)
  /-- CXL_LINK_UP (R418). The CXL link trains at the highest mode both ends support. -/
  | cxlLinkUp (rate : Nat) (width : Nat)
  /-- CXL_LINK_RETRAIN (R321). The link retrains to another mode and admitted steps share the new capacity. -/
  | cxlLinkRetrain (rate : Nat) (width : Nat)
  /-- HOST_LINK_DOWN (R430). The CXL link goes down without a reset; steps run on and host writes wait. -/
  | hostLinkDown
  /-- HOST_LINK_DOWN_10S (R430). The host link stays down for 10 s and the module becomes device-fatal. -/
  | hostLinkDown10s
  /-- POWER_GOOD (R453). The busbar holds at or above 48.0 V for 10 ms after soft start and a cold boot begins. -/
  | powerGood
  /-- POWER_LOST (R453). The busbar falls below its limits long enough and all rails turn off at once. -/
  | powerLost
  /-- INPUT_OVERVOLTAGE (R453). The busbar exceeds 60.0 V for 1 ms or 62.0 V at any time and the input is disconnected. -/
  | inputOvervoltage
  /-- PERST_N_ASSERT (R421). PERST_N asserted for at least 100 µs starts a fundamental reset held at ROM. -/
  | perstNAssert
  /-- PERST_N_DEASSERT (R418). PERST_N is deasserted and the sequence leaves ROM and the CXL link trains. -/
  | perstNDeassert
  /-- FLR (R421). A function-level reset from the host performs a full device reset. -/
  | flr
  /-- LINK_RESET (R421). A CXL hot reset or link disable from the host performs a full device reset. -/
  | linkReset
  /-- MANAGEMENT_RESET (R421). PLDM firmware activation or an MCTP reset request performs a full device reset. -/
  | managementReset
  /-- ROM (R385). The boot ROM verifies the loader, copy A then copy B, or stays in RECOVERY. -/
  | rom
  /-- LOADER (R385). The loader verifies the firmware and the configuration record. -/
  | loader
  /-- FIRMWARE (R416). Firmware starts on the control cores. -/
  | firmware
  /-- RECORDS (R416). Firmware reads counters, advances the boot counter, reads the persistent records and starts identity derivation. -/
  | records
  /-- INTERLOCK (R415). The coolant condition holds for 1 s and the compute-die and stack rails are enabled. -/
  | interlock
  /-- INTERLOCK_WARNING (R420). The coolant condition is still unmet at 3 s and every 10 s after, and a warning event is raised. -/
  | interlockWarning
  /-- RAILS (R416). The compute-die and stack rails finish ramping. -/
  | rails
  /-- STACK_TRAIN (R417). Interface training of all channels completes, or a failure makes the boot end in FATAL. -/
  | stackTrain (failed : List Nat)
  /-- MEM_INIT (R251). Every line of every stack is written with zero data and valid check symbols. -/
  | memInit
  /-- SELF_TEST (R416). Arrays, stations, deck, viaduct and keystones are tested and the firmware counter is updated. -/
  | selfTest (ok : Bool)
  /-- IDENTITY (R390). Identity derivation ends and the identity key is available, or fails and the boot ends in FATAL. -/
  | identity (ok : Bool)
  /-- READY (R419). Boot completes, the module enters normal mode and repairs single-copy store slots. -/
  | ready
  /-- CONTROL_CORE_WATCHDOG (R425). A control core's watchdog expires and the core takes a non-maskable entry, or on second expiry the module becomes device-fatal. -/
  | controlCoreWatchdog (core : Nat)
  /-- COMMAND_PROGRESS_WATCHDOG (R425). A ring has had an eligible command unfetched for 100 ms and the module becomes device-fatal. -/
  | commandProgressWatchdog (r : RingId)
  /-- MANAGEMENT_CONTROLLER_WATCHDOG (R425). The management controller's watchdog expires and it restarts alone. -/
  | managementControllerWatchdog
  /-- POWER_MEASUREMENT (R398). Every 1 µs the power stages measure busbar input power, updating means and the slope-limit window. -/
  | powerMeasurement (mw : Nat)
  /-- FALL (R402). A span's real firing falls below half its recent average in a 1 µs interval and its filler floor begins. -/
  | fall (sp : Nat) (avg : Nat)
  /-- CAP_DECISION (R400). Every 10 µs and at admissions, phase starts, commits, votes and kills the controller recomputes S and the span shares. -/
  | capDecision (pfix : Nat) (meas : List (Nat × Nat)) (walk : Nat)
  /-- LOGIC_SENSOR_READ (R410). Every 10 µs the logic sensors are read, raising threshold events, the limit or the trip. -/
  | logicSensorRead (temps : List Int)
  /-- COOLANT_SENSOR_READ (R410). Every 100 ms the inlet, outlet and flow are read, setting the flow cap and flow alarm. -/
  | coolantSensorRead (inlet : Int) (outlet : Int) (flow : Nat)
  /-- THERMAL_CAP_UPDATE (R412). Every 1 ms the thermal cap is lowered or raised from the group readings, and at a limit S goes to 16,000. -/
  | thermalCapUpdate
  /-- FLOW_TRIP (R413). Flow stays below 1.0 L/min for 1 s and the rails are removed, making the module device-fatal. -/
  | flowTrip
  /-- POWER_STAGE_FAULT (R394). A power-stage alarm or fault occurs, entering recovery or making the module device-fatal. -/
  | powerStageFault (stage : Nat) (fatal : Bool)
  /-- DROOP (R406). A droop detector fires, stretching the clock in start-up, test and recovery, or being counted in normal mode. -/
  | droop (d : Nat)
  /-- DROOP_HOLD_END (R406). 256 cycles after the last firing the droop stretch returns linearly to the controller's S. -/
  | droopHoldEnd
  /-- RECOVERY_EXIT (R394). 100 ms pass with no entry condition holding and the module leaves recovery mode. -/
  | recoveryExit
  /-- I3C_ADDRESS_ASSIGNMENT (R461). SETDASA or ENTDAA gives the management controller a dynamic address. -/
  | i3cAddressAssignment (addr : Nat)
  /-- MCTP_CONTROL_MESSAGE (R462). An MCTP control message is answered. -/
  | mctpControlMessage (msg : Bytes)
  /-- PLDM_BASE (R462). A PLDM type 0 base message is answered. -/
  | pldmBase (msg : Bytes)
  /-- PLDM_SENSOR_READING (R462). A PLDM type 2 request reads a numeric sensor from its register field. -/
  | pldmSensorReading (id : Nat)
  /-- PLDM_FIRMWARE_UPDATE (R463). A PLDM type 5 transfer checks and writes a loader, firmware, configuration record or store image component. -/
  | pldmFirmwareUpdate (cls : Nat) (image : Bytes)
  /-- ACTIVATE_FIRMWARE (R463). ActivateFirmware makes a written loader or firmware take effect through a management reset. -/
  | activateFirmware
  /-- ERROR_UNSUPPORTED_CMD (R462). An MCTP message of another type is answered with ERROR_UNSUPPORTED_CMD. -/
  | errorUnsupportedCmd (typ : Nat)
  /-- STORE_READ_COMPLETION (R299). A read of a model-store block completes and its SHA-512 digest is checked; on failure the other copy is read, or the load ends with ST_MEM_UE. -/
  | storeReadCompletion (n : Nat) (blk : Nat) (good : Bool)
  /-- STORE_WRITE_COMPLETION (R303). A model-store write completes: an image copy, a directory entry, a slot repair or a persistent record, which lets the next stage of installation or repair proceed. -/
  | storeWriteCompletion (i : Nat)
  /-- REBASE_COMPLETE (R226). The partner finishes folding a closed log half into the base, frees the half and resumes acknowledging records. -/
  | rebaseComplete (n : Nat)
  /-- MANAGEMENT_CONTROLLER_RESTART (R425). The management controller completes its lone restart within 200 ms and its MCTP endpoint is reachable again. -/
  | managementControllerRestart
  /-- DIAG_TEST_COMPLETE (R366). The diagnostic test of DIAG_RUN finishes, writes its results, replies, and test mode is left. -/
  | diagTestComplete (failed : Nat)
  /-- COMMAND_WORK_ACCESS (R234). A bearing access left free by claims serves command work, such as image placement, load arrivals or zeroing a destroyed context's frames, and completes that work. -/
  | commandWorkAccess (r : RingId) (seq : Nat) (host : List HostData := [])
  /-- CXL_CORRECTABLE_ERROR (R428). A correctable error arises on the CXL link and is reported by AER and an advisory log entry. -/
  | cxlCorrectableError (aer : Nat)
  /-- CONTROL_CORE_MEMORY_ERROR (R428). An error arises in a control core's memory or in package-shared memory, and is either corrected and logged as advisory or makes the module device-fatal. -/
  | controlCoreMemoryError (what : Nat) (corrected : Bool)
  deriving DecidableEq, Repr

end Sys2Proof
end

