-- ==== Sys2Proof/Config.lean ====
section
/-! DEFINITION. What an implementation or its manufacture fixes and the manual does not state, and the
free values: constants without a body, of which nothing can be proved. -/

namespace Sys2Proof.Config

/-- Free values (log entry 6): value `i` of a run is unconstrained. -/
opaque freeValue : Nat → BitVec 64

/-- Serial number of the module (R440). -/
opaque serial : BitVec 64

/-- Silicon stepping (R440). -/
opaque stepping : BitVec 8

/-- INSTR of the events of an addition that a fabric entry starts at a station: no list of the station holds it. The arguments
are the abutment and the entry's index in its list (R143, log entry 40). -/
opaque addInstr : Nat → Nat → Nat

/-- The frame, counted among the frames of the context, that holds a page of a tensor's storage: no address names it. The
arguments are the tensor, the area (0 to 5 a ring copy, 8 and 9 the slots of masters and moments) and the page
(R196, R204, log entry 20). -/
opaque tensorFrame : Nat → Nat → Nat → Nat

/-- Calibrated energy, in nJ, of one event of a consumer of R408: 0 arrays, 1 stores, 2 deck, 3 stations,
4 memory, 5 fabric, 6 host (R384). -/
opaque eventEnergy : Nat → Nat

/-- Calibrated full-rate energy per arithmetic cycle of one unit of a claim resource code, in 2 pJ (R399). -/
opaque claimEnergy : Nat → Nat

/-- Calibrated energy, in fJ, of one filler firing (R384, R400). -/
opaque fillerFiring : Nat

/-- Calibrated idle energy per arithmetic cycle of a span, in 2 pJ (R400). -/
opaque spanIdle : Nat → Nat

/-- DETAIL of a log entry whose content R428 names without a layout: the code and the values it holds (log entry 84). -/
opaque errDetail : Nat → List Int → BitVec 128

/-- The DER-encoded device certificate (R390). -/
opaque deviceCert : Bytes

/-- The DER-encoded CA certificate (R390). -/
opaque caCert : Bytes

/-- SHA-512 digest of the identity public key (R391). -/
opaque identityDigest : BitVec 512

/-- The identity-key signature over a message; the first argument is the salt's free value (R386, R391). -/
opaque identitySign : BitVec 64 → Bytes → Bytes

/-- Whether a vendor key chained to the root signed an object (R385, R386): the certificate chains are
not in the manual. -/
opaque vendorSigned : Bytes → Bool

/-- VERSION of a loader or firmware object, whose layout the manual does not give (R389). -/
opaque objectVersion : Bytes → Nat

/-- The declared rollback floor of a firmware object (R389). -/
opaque objectFloor : Bytes → Nat

/-- The signature bytes that follow the record of manufacture (R387). -/
opaque factorySignature : Bytes

end Sys2Proof.Config
end

