-- ==== Sys2Proof/Machine/State.lean ====
section
/-! DEFINITION. Everything the spec gives the module, as plain data, and the machine right after a
power-on reset. Each field's docstring names the rule that gives it and its width. -/

namespace Sys2Proof.Machine

/-- Reasons a step can stop. The manual gives the module no undefined behaviour (R10), so no meaning
raises one; the constructor stands for a state whose queue names a command on a unit number outside
R14 (raised by nothing today; safe). -/
inductive Fault where
  | noSuchUnit
  deriving DecidableEq, Repr

/-- Reasons a command has no meaning. -/
inductive Refusal where
  /-- Raised by a dispatch arm whose command has no meaning yet (safe). -/
  | notModelled (mnemonic : String)
  deriving DecidableEq, Repr

/-- One 32-byte error-log entry (R427). -/
structure LogEntry where
  /-- R427 (17_startup_reset_errors.md); 16. -/
  code : Nat := 0
  /-- R427 (17_startup_reset_errors.md); 3. -/
  severity : Nat := 0
  /-- R427 (17_startup_reset_errors.md); 1. -/
  prior : Bool := false
  /-- R427 (17_startup_reset_errors.md); 1+8. -/
  ctx : Option Nat := none
  /-- R427 (17_startup_reset_errors.md); 32 sat. -/
  count : Nat := 0
  /-- R427 (17_startup_reset_errors.md); 64. -/
  time : Nat := 0
  /-- R427 (17_startup_reset_errors.md); 128. -/
  detail : BitVec 128 := 0
  deriving DecidableEq, Repr

/-- Per code and context: occurrences since boot, time of the last entry made, and its slot (R427). -/
structure LogHist where
  /-- R427 (17_startup_reset_errors.md); 16. -/
  code : Nat := 0
  /-- R427 (17_startup_reset_errors.md); 1+8. -/
  ctx : Option Nat := none
  /-- R427 (17_startup_reset_errors.md); 32 sat. -/
  count : Nat := 0
  /-- R427 (17_startup_reset_errors.md); 64. -/
  lastTime : Option Nat := none
  /-- R427 (17_startup_reset_errors.md); 10. -/
  slot : Option Nat := none
  deriving DecidableEq, Repr

/-- Error log and interrupt status block (R427, R443). -/
structure ErrLog where
  /-- R427 (17_startup_reset_errors.md); 1024 x 256. -/
  slots : KMap LogEntry := []
  /-- R443 (18_registers.md); 10. -/
  newest : Nat := 0
  /-- R443 (18_registers.md); 64. -/
  written : Nat := 0
  /-- R443 (18_registers.md); 64 RC. -/
  dropped : Nat := 0
  /-- R443 (18_registers.md); 64 RC. -/
  malformed : Nat := 0
  /-- R443 (18_registers.md); 10. -/
  select : Nat := 0
  /-- R443 (18_registers.md); 4 x 64. -/
  entry : BitVec 256 := 0
  /-- R443 (18_registers.md); 1 W1C. -/
  logged : Bool := false
  /-- R443 (18_registers.md); 1 W1C. -/
  fatalBit : Bool := false
  /-- R443 (18_registers.md); 1 W1C. -/
  droppedBit : Bool := false
  /-- R427 (17_startup_reset_errors.md); per code and context. -/
  hist : List LogHist := []
  deriving DecidableEq, Repr

/-- Boot sequence, reset cause, pins and rails (R416 to R426, R449, R453, R457, R458). -/
structure Boot where
  /-- R453 (19_module_hardware.md); 1. -/
  powered : Bool := true
  /-- R449 (18_registers.md); 8. -/
  stage : Nat := 0x01
  /-- R449 (18_registers.md); 4. -/
  cause : Nat := 0x1
  /-- R457 (19_module_hardware.md); pin. -/
  perstN : Bool := true
  /-- R416 (17_startup_reset_errors.md); 1. -/
  cold : Bool := true
  /-- R419 (17_startup_reset_errors.md); 1. -/
  ready : Bool := false
  /-- R415 (16_power_and_thermal.md); 1. -/
  railsOn : Bool := false
  /-- R413 (16_power_and_thermal.md); 1. -/
  railsRemoved : Bool := false
  /-- R390 (15_tenancy_and_security.md); 1. -/
  idReady : Bool := false
  /-- R426 (17_startup_reset_errors.md); 1. -/
  fatal : Bool := false
  /-- R322 (13_host_link_and_ordering.md); 1. -/
  viral : Bool := false
  /-- R449 (18_registers.md); 64. -/
  readyTime : Nat := 0
  /-- R251 (09_stacked_memory.md); 1. -/
  memInit : Bool := false
  /-- R421 (17_startup_reset_errors.md); 1. -/
  pciDefaults : Bool := true
  /-- R418 (17_startup_reset_errors.md); 1. -/
  cxlTraining : Bool := true
  /-- R385 (15_tenancy_and_security.md); copy booted. -/
  loaderCopy : Nat := 0
  /-- R385 (15_tenancy_and_security.md); copy booted. -/
  fwCopy : Nat := 0
  /-- R385 (15_tenancy_and_security.md); 512. -/
  loaderMeas : BitVec 512 := 0
  /-- R385 (15_tenancy_and_security.md); 512. -/
  fwMeas : BitVec 512 := 0
  /-- R440 (18_registers.md); 32. -/
  fwVersion : Nat := 0
  /-- R440 (18_registers.md); 32. -/
  cfgVersion : Nat := 0
  deriving DecidableEq, Repr

/-- Timebase and arithmetic clock (R18, R396). -/
structure Clock where
  /-- R440 (18_registers.md); 64. -/
  uptime : Nat := 0
  /-- R18 (01_device_overview.md); model. -/
  acc : Nat := 0
  /-- R6 (00_scope.md); count. -/
  cycles : Nat := 0
  deriving DecidableEq, Repr

/-- Read latch and the reset and boot block registers that software writes (R435, R449). -/
structure Regs where
  /-- R435 (18_registers.md); 32 per register. -/
  latch : Option (Nat × BitVec 32) := none
  /-- R449 (18_registers.md); 4 x 64 RW. -/
  adminRec : BitVec 256 := 0
  /-- R449 (18_registers.md); 16. -/
  adminStatus : Nat := 0
  /-- R449 (18_registers.md); 8. -/
  adminOffset : Nat := 0
  /-- R449 (18_registers.md); 32. -/
  installs : Nat := 0
  deriving DecidableEq, Repr

/-- One MSI-X table entry of 16 B (R324, R337). -/
structure MsixEntry where
  /-- R324 (13_host_link_and_ordering.md); 64. -/
  addr : BitVec 64 := 0
  /-- R324 (13_host_link_and_ordering.md); 32. -/
  data : BitVec 32 := 0
  /-- R337 (13_host_link_and_ordering.md); 32. -/
  control : BitVec 32 := 1
  deriving DecidableEq, Repr

/-- MSI-X table, pending bits and the 1 us limit of vectors 257 to 259 (R324, R337, R446). -/
structure Msix where
  /-- R324 (13_host_link_and_ordering.md); 512 x 16 B. -/
  table : KMap MsixEntry := []
  /-- R324 (13_host_link_and_ordering.md); 512. -/
  pend : List Nat := []
  /-- R446 (18_registers.md); 3. -/
  window : List Nat := []
  /-- R446 (18_registers.md); 3. -/
  owed : List Nat := []
  deriving DecidableEq, Repr

/-- A module write to host memory that is not yet globally observed (R327). -/
structure HostWrite where
  /-- R327 (13_host_link_and_ordering.md); model. -/
  id : Nat := 0
  /-- R345 (13_host_link_and_ordering.md); 8. -/
  ctx : Option Nat := none
  /-- R349 (13_host_link_and_ordering.md); enum. -/
  path : HwPath := .result
  /-- R344 (13_host_link_and_ordering.md); id. -/
  ring : Option RingId := none
  /-- R327 (13_host_link_and_ordering.md); 64. -/
  addr : Nat := 0
  /-- R327 (13_host_link_and_ordering.md); bytes. -/
  bytes : Bytes := []
  /-- R344 (13_host_link_and_ordering.md); ids. -/
  after : List Nat := []
  /-- R430 (17_startup_reset_errors.md); 1. -/
  sent : Bool := true
  /-- R424 (17_startup_reset_errors.md); 1. -/
  lost : Bool := false
  /-- R431 (17_startup_reset_errors.md); step that issued it. -/
  step : Option Nat := none
  /-- R191 (07_training_dataflow.md); nominal cycle of an off-load write. -/
  cycle : Nat := 0
  /-- R345 (13_host_link_and_ordering.md); issued for a context that has since been destroyed. -/
  former : Bool := false
  deriving DecidableEq, Repr

/-- A module read of host memory that has not completed (R328, R342). -/
structure HostRead where
  /-- R342 (13_host_link_and_ordering.md); model. -/
  id : Nat := 0
  /-- R342 (13_host_link_and_ordering.md); 8. -/
  ctx : Option Nat := none
  /-- R342 (13_host_link_and_ordering.md); enum. -/
  owner : HrOwner := .prefetch 0 0 0
  /-- R339 (13_host_link_and_ordering.md); 48. -/
  addr : Nat := 0
  /-- R342 (13_host_link_and_ordering.md); bytes. -/
  len : Nat := 0
  /-- R189 (07_training_dataflow.md); bytes that arrived ahead of an earlier tile. -/
  data : Option Bytes := none
  /-- R342 (13_host_link_and_ordering.md); the read has failed. -/
  failed : Bool := false
  deriving DecidableEq, Repr

/-- What the module's configuration space presents (R322): constants that no row changes. The host reads them through CXL.io, for
which the spec lays out no register. -/
structure CxlIdent where
  /-- R322 (13_host_link_and_ordering.md); Type 1: CXL.io and CXL.cache. -/
  deviceType : Nat := 1
  /-- R322 (13_host_link_and_ordering.md); 1. -/
  memCapable : Bool := false
  /-- R322 (13_host_link_and_ordering.md); functions. -/
  functions : Nat := 1
  /-- R322 (13_host_link_and_ordering.md); 24. -/
  classCode : Nat := 0x120000
  /-- R322 (13_host_link_and_ordering.md); BAR0 bytes. -/
  bar0Bytes : Nat := 1048576
  /-- R322 (13_host_link_and_ordering.md); BAR0 is 64-bit. -/
  bar0Wide : Bool := true
  /-- R322 (13_host_link_and_ordering.md); BAR0 is prefetchable. -/
  bar0Prefetch : Bool := false
  /-- R322 (13_host_link_and_ordering.md); device cache bytes, as the DVSEC reports them. -/
  cacheBytes : Nat := 1048576
  /-- R322 (13_host_link_and_ordering.md); MSI-X vectors. -/
  vectors : Nat := 512
  deriving DecidableEq, Repr

/-- CXL link and the traffic in flight on it (R320, R327, R440 ID_LINK). -/
structure HostIf where
  /-- R322 (13_host_link_and_ordering.md); constants. -/
  ident : CxlIdent := {}
  /-- R440 (18_registers.md); 1. -/
  up : Bool := false
  /-- R440 (18_registers.md); 2. -/
  rate : Nat := 0
  /-- R440 (18_registers.md); 5. -/
  width : Nat := 0
  /-- R440 (18_registers.md); 24 sat. -/
  retrains : Nat := 0
  /-- R327 (13_host_link_and_ordering.md); queue. -/
  writes : List HostWrite := []
  /-- R342 (13_host_link_and_ordering.md); queue. -/
  reads : List HostRead := []
  /-- R327 (13_host_link_and_ordering.md); model. -/
  nextId : Nat := 0
  deriving DecidableEq, Repr

/-- Ring record (R329). -/
structure RingRec where
  /-- R329 (13_host_link_and_ordering.md); 64. -/
  cmdBase : Nat := 0
  /-- R329 (13_host_link_and_ordering.md); 64. -/
  statusBase : Nat := 0
  /-- R329 (13_host_link_and_ordering.md); 64. -/
  ctrlBase : Nat := 0
  /-- R329 (13_host_link_and_ordering.md); 4. -/
  cmdLog2 : Nat := 0
  /-- R329 (13_host_link_and_ordering.md); 4. -/
  statusLog2 : Nat := 0
  /-- R329 (13_host_link_and_ordering.md); 12. -/
  coalCount : Nat := 0
  /-- R329 (13_host_link_and_ordering.md); 12. -/
  coalUs : Nat := 0
  deriving DecidableEq, Repr

/-- A status reply or event entry before it is laid out (R353, R354). -/
structure Reply where
  /-- R353 (14_commands.md); 16. -/
  status : Nat := 0
  /-- R353 (14_commands.md); 16. -/
  opcode : Nat := 0
  /-- R353 (14_commands.md); 32. -/
  seq : Nat := 0
  /-- R353 (14_commands.md); 8+1. -/
  ctx : Option Nat := none
  /-- R354 (14_commands.md); 3. -/
  kind : Nat := 0
  /-- R353 (14_commands.md); 1. -/
  skipped : Bool := false
  /-- R353 (14_commands.md); 1. -/
  truncated : Bool := false
  /-- R353 (14_commands.md); 1. -/
  committed : Bool := false
  /-- R353 (14_commands.md); 8. -/
  flags : Nat := 0
  /-- R355 (14_commands.md); 8. -/
  event : Nat := 0
  /-- R353 (14_commands.md); 32. -/
  detail0 : Nat := 0
  /-- R353 (14_commands.md); 64. -/
  detail1 : Nat := 0
  /-- R353 (14_commands.md); 64. -/
  result : Nat := 0
  deriving DecidableEq, Repr

/-- A command that has been fetched and has not replied (R334, R356, R360). -/
structure Cmd where
  /-- R334 (14_commands.md); 32. -/
  seq : Nat := 0
  /-- R351 (14_commands.md); 16. -/
  opcode : Nat := 0
  /-- R351 (14_commands.md); 512. -/
  desc : BitVec 512 := 0
  /-- R352 (14_commands.md); bytes. -/
  param : Bytes := []
  /-- R356 (14_commands.md); 1. -/
  accepted : Bool := false
  /-- R369 (14_commands.md); 64. -/
  since : Nat := 0
  /-- R345 (13_host_link_and_ordering.md); reply. -/
  held : Option Reply := none
  /-- R346 (13_host_link_and_ordering.md); write id a FENCE waits below. -/
  upTo : Option Nat := none
  /-- R234 (09_stacked_memory.md); count. -/
  jobs : Nat := 0
  deriving DecidableEq, Repr

/-- One ring: the administrative ring or a context ring (R331 to R336, R338, R359). -/
structure Ring where
  /-- R329 (13_host_link_and_ordering.md); 32 B. -/
  rcd : RingRec := {}
  /-- R332 (13_host_link_and_ordering.md); 32. -/
  cmdTail : BitVec 32 := 0
  /-- R331 (13_host_link_and_ordering.md); 32. -/
  cmdHead : BitVec 32 := 0
  /-- R332 (13_host_link_and_ordering.md); 32. -/
  statusHead : BitVec 32 := 0
  /-- R331 (13_host_link_and_ordering.md); 32. -/
  statusTail : BitVec 32 := 0
  /-- R359 (14_commands.md); 32. -/
  expSeq : BitVec 32 := 0
  /-- R353 (14_commands.md); 32. -/
  eventSeq : Nat := 0
  /-- R336 (13_host_link_and_ordering.md); 32 sat. -/
  eventsLost : Nat := 0
  /-- R336 (13_host_link_and_ordering.md); 32 sat. -/
  dbErrors : Nat := 0
  /-- R334 (13_host_link_and_ordering.md); queue. -/
  cmds : List Cmd := []
  /-- R338 (13_host_link_and_ordering.md); 1. -/
  coalArmed : Bool := false
  /-- R338 (13_host_link_and_ordering.md); 32. -/
  coalBase : BitVec 32 := 0
  deriving DecidableEq, Repr

/-- Host-memory window with the pages of its page list (R339, R340). -/
structure Window where
  /-- R339 (13_host_link_and_ordering.md); 48. -/
  base : Nat := 0
  /-- R339 (13_host_link_and_ordering.md); 4. -/
  kind : Nat := 0
  /-- R339 (13_host_link_and_ordering.md); 1. -/
  read : Bool := false
  /-- R339 (13_host_link_and_ordering.md); 1. -/
  write : Bool := false
  /-- R340 (13_host_link_and_ordering.md); 64 each. -/
  pages : List Nat := []
  deriving DecidableEq, Repr

/-- Optimiser group record with its points (R208). -/
structure OptGroup where
  /-- R208 (08_keystones_and_optimiser_state.md); 2. -/
  rule : Nat := 0
  /-- R208 (08_keystones_and_optimiser_state.md); 1. -/
  sched : Bool := false
  /-- R208 (08_keystones_and_optimiser_state.md); 32. -/
  beta1 : Nat := 0
  /-- R208 (08_keystones_and_optimiser_state.md); 32. -/
  beta2 : Nat := 0
  /-- R208 (08_keystones_and_optimiser_state.md); 32. -/
  eps : Nat := 0
  /-- R208 (08_keystones_and_optimiser_state.md); 32. -/
  wd : Nat := 0
  /-- R208 (08_keystones_and_optimiser_state.md); 32. -/
  lrPeak : Nat := 0
  /-- R208 (08_keystones_and_optimiser_state.md); 32. -/
  lrStart : Nat := 0
  /-- R208 (08_keystones_and_optimiser_state.md); 32. -/
  lrMin : Nat := 0
  /-- R208 (08_keystones_and_optimiser_state.md); 32. -/
  warmup : Nat := 0
  /-- R208 (08_keystones_and_optimiser_state.md); 32. -/
  decay : Nat := 0
  /-- R208 (08_keystones_and_optimiser_state.md); 64 x 64. -/
  points : List (Nat × Nat) := []
  deriving DecidableEq, Repr

/-- A registered tensor (R206) with its ring ages and loaded mark (R196, R305). -/
structure Tensor where
  /-- R206 (08_keystones_and_optimiser_state.md); 12. -/
  num : Nat := 0
  /-- R206 (08_keystones_and_optimiser_state.md); 1. -/
  frozen : Bool := false
  /-- R206 (08_keystones_and_optimiser_state.md); 1. -/
  slow : Bool := false
  /-- R206 (08_keystones_and_optimiser_state.md); 2. -/
  wfmt : Nat := 0
  /-- R206 (08_keystones_and_optimiser_state.md); 4. -/
  group : Nat := 0
  /-- R206 (08_keystones_and_optimiser_state.md); 1. -/
  lists : Bool := false
  /-- R206 (08_keystones_and_optimiser_state.md); 6 signed. -/
  scaleExp : Int := 0
  /-- R206 (08_keystones_and_optimiser_state.md); 32. -/
  blocks : Nat := 0
  /-- R206 (08_keystones_and_optimiser_state.md); 32. -/
  shardFirst : Nat := 0
  /-- R206 (08_keystones_and_optimiser_state.md); 32. -/
  shardBlocks : Nat := 0
  /-- R206 (08_keystones_and_optimiser_state.md); 64. -/
  window : Nat := 0
  /-- R305 (12_model_store_and_weights.md); 1. -/
  loaded : Bool := false
  /-- R196 (07_training_dataflow.md); D+1 ring copies. -/
  ages : List Nat := []
  deriving DecidableEq, Repr

/-- Sender side of a checkpoint stream (R227). -/
structure CkptStream where
  /-- R364 (14_commands.md); 15. -/
  peer : Nat := 0
  /-- R364 (14_commands.md); 1. -/
  peerDomain : Nat := 0
  /-- R227 (08_keystones_and_optimiser_state.md); 32. -/
  timeoutMs : Nat := 0
  /-- R355 (14_commands.md); 63. -/
  lastAcked : Nat := 0
  /-- R227 (08_keystones_and_optimiser_state.md); 1. -/
  baseAcked : Bool := false
  /-- R227 (08_keystones_and_optimiser_state.md); 1. -/
  baseSent : Bool := false
  /-- R366 (14_commands.md); SEQ of CKPT_STREAM_STOP. -/
  stopping : Option Nat := none
  /-- R226 (08_keystones_and_optimiser_state.md); records by commit. -/
  unacked : List (Nat × Bytes) := []
  deriving DecidableEq, Repr

/-- Partner region: base and two log halves (R226). -/
structure Partner where
  /-- R364 (14_commands.md); 15. -/
  peer : Nat := 0
  /-- R364 (14_commands.md); 1. -/
  peerDomain : Nat := 0
  /-- R374 (15_tenancy_and_security.md); frames of the region. -/
  frames : Nat := 0
  /-- R226 (08_keystones_and_optimiser_state.md); 16. -/
  m : Nat := 0
  /-- R226 (08_keystones_and_optimiser_state.md); words. -/
  base : KMap (BitVec 32) := []
  /-- R228 (08_keystones_and_optimiser_state.md); 63. -/
  baseSeq : Nat := 0
  /-- R224 (08_keystones_and_optimiser_state.md); 16 x 32. -/
  counts : List Nat := []
  /-- R226 (08_keystones_and_optimiser_state.md); active log half. -/
  half : List (Nat × Bytes) := []
  /-- R226 (08_keystones_and_optimiser_state.md); closed log half. -/
  closed : Option (List (Nat × Bytes)) := none
  /-- R228 (08_keystones_and_optimiser_state.md); a folded record failed its CRC. -/
  broken : Bool := false
  deriving DecidableEq, Repr

/-- Energy record of one context (R408). -/
structure Energy where
  /-- R408 (16_power_and_thermal.md); 64 sat. -/
  step : Nat := 0
  /-- R408 (16_power_and_thermal.md); 64 sat. -/
  repeatE : Nat := 0
  /-- R408 (16_power_and_thermal.md); 64 sat. -/
  queue : Nat := 0
  /-- R408 (16_power_and_thermal.md); 64 sat. -/
  arrays : Nat := 0
  /-- R408 (16_power_and_thermal.md); 64 sat. -/
  stores : Nat := 0
  /-- R408 (16_power_and_thermal.md); 64 sat. -/
  deck : Nat := 0
  /-- R408 (16_power_and_thermal.md); 64 sat. -/
  stations : Nat := 0
  /-- R408 (16_power_and_thermal.md); 64 sat. -/
  memory : Nat := 0
  /-- R408 (16_power_and_thermal.md); 64 sat. -/
  fabric : Nat := 0
  /-- R408 (16_power_and_thermal.md); 64 sat. -/
  host : Nat := 0
  /-- R408 (16_power_and_thermal.md); 64 sat. -/
  steps : Nat := 0
  deriving DecidableEq, Repr

/-- A running WEIGHTS_LOAD (R303, R305, R308, R311). -/
structure LoadJob where
  /-- R311 (12_model_store_and_weights.md); 32. -/
  seq : Nat := 0
  /-- R364 (14_commands.md); 1. -/
  target : Nat := 0
  /-- R364 (14_commands.md); 2. -/
  source : Nat := 0
  /-- R364 (14_commands.md); 1. -/
  direct : Bool := false
  /-- R364 (14_commands.md); 4. -/
  slot : Nat := 0
  /-- R364 (14_commands.md); 4. -/
  fanout : Nat := 0
  /-- R364 (14_commands.md); 15. -/
  reader : Nat := 0
  /-- R292 (11_slory_and_collectives.md); the node that sends this receiver its segments. -/
  parent : Option Nat := none
  /-- R292 (11_slory_and_collectives.md); the nodes that this receiver relays to. -/
  relays : List Nat := []
  /-- R302 (12_model_store_and_weights.md); slot of the base image of XOR-coded tensors. -/
  baseSlot : Option Nat := none
  /-- R302 (12_model_store_and_weights.md); its header to DATA_OFFSET. -/
  baseHead : Bytes := []
  /-- R310 (12_model_store_and_weights.md); frames drawn for the pending copies. -/
  reserved : Nat := 0
  /-- R306 (12_model_store_and_weights.md); load records. -/
  records : List (Nat × Nat × Nat × Bool) := []
  /-- R365 (14_commands.md); node ids. -/
  receivers : List Nat := []
  /-- R300 (12_model_store_and_weights.md); header to DATA_OFFSET. -/
  head : Bytes := []
  /-- R299 (12_model_store_and_weights.md); 1 MiB blocks read. -/
  blocks : KMap Bytes := []
  /-- R319 (12_model_store_and_weights.md); blocks read from copy B. -/
  retry : List Nat := []
  /-- R299 (12_model_store_and_weights.md); block count. -/
  total : Nat := 0
  /-- R303 (12_model_store_and_weights.md); 0 read, 1 write A, 2 write B, 3 directory, 4 place. -/
  stage : Nat := 0
  deriving DecidableEq, Repr

/-- One context (R366 CTX_CREATE, R367, R372 to R384). -/
structure Ctx where
  /-- R364 (14_commands.md); 1 real-time. -/
  cls : Bool := false
  /-- R364 (14_commands.md); 3. -/
  stashD : Nat := 0
  /-- R45 (02_number_formats.md); 8. -/
  trapMask : Nat := 0
  /-- R364 (14_commands.md); 8. -/
  repeatLimit : Nat := 0
  /-- R364 (14_commands.md); 32. -/
  tag : BitVec 32 := 0
  /-- R374 (15_tenancy_and_security.md); reserved frames. -/
  frames : List Nat := []
  /-- R374 (15_tenancy_and_security.md); frames drawn. -/
  drawn : Nat := 0
  /-- R373 (15_tenancy_and_security.md); virtual page to frame. -/
  pageMap : KMap Nat := []
  /-- R339 (13_host_link_and_ordering.md); 64. -/
  windows : List Window := []
  /-- R155 (06_schedule_contract.md); R155 layout. -/
  grants : List Claim := []
  /-- R391 (15_tenancy_and_security.md); 512. -/
  grantDigest : BitVec 512 := 0
  /-- R314 (12_model_store_and_weights.md); 2. -/
  service : Service := .stopped
  /-- R314 (12_model_store_and_weights.md); 32. -/
  loadGen : BitVec 32 := 0
  /-- R219 (08_keystones_and_optimiser_state.md); 1. -/
  table : Bool := false
  /-- R219 (08_keystones_and_optimiser_state.md); 63. -/
  vseq : Nat := 0
  /-- R367 (14_commands.md); 1. -/
  diverged : Bool := false
  /-- R287 (11_slory_and_collectives.md); 6. -/
  thinPos : Nat := 0
  /-- R366 (14_commands.md); 7. -/
  thinN : Nat := 1
  /-- R205 (08_keystones_and_optimiser_state.md); 32. -/
  maxNorm : Nat := 0
  /-- R205 (08_keystones_and_optimiser_state.md); 1. -/
  skipNonfinite : Bool := false
  /-- R208 (08_keystones_and_optimiser_state.md); 16. -/
  groups : List OptGroup := []
  /-- R206 (08_keystones_and_optimiser_state.md); 4096. -/
  tensors : List Tensor := []
  /-- R219 (08_keystones_and_optimiser_state.md); 2 slots x 16 x 32. -/
  counts : KMap Nat := []
  /-- R202 (08_keystones_and_optimiser_state.md); 2 tables, 1 bit per shard block. -/
  parity : KMap Bool := []
  /-- R202 (08_keystones_and_optimiser_state.md); 2 slots FP32. -/
  masters : KMap (BitVec 32) := []
  /-- R202 (08_keystones_and_optimiser_state.md); 2 slots x 2 planes FP32. -/
  moments : KMap (BitVec 32) := []
  /-- R196 (07_training_dataflow.md); version ring. -/
  copies : KMap (BitVec 16) := []
  /-- R305 (12_model_store_and_weights.md); pending copy. -/
  pendingMasters : KMap (BitVec 32) := []
  /-- R305 (12_model_store_and_weights.md); pending copy. -/
  pendingMoments : KMap (BitVec 32) := []
  /-- R305 (12_model_store_and_weights.md); pending copy. -/
  pendingCopies : KMap (BitVec 16) := []
  /-- R305 (12_model_store_and_weights.md); tensors with a pending copy. -/
  pendingTensors : List Nat := []
  /-- R288 (11_slory_and_collectives.md); 2 slots FP32. -/
  acc : KMap (BitVec 32) := []
  /-- R288 (11_slory_and_collectives.md); 1 per accumulator. -/
  accParity : KMap Bool := []
  /-- R297 (11_slory_and_collectives.md); block lists held by accumulator slots, with CAPACITY. -/
  accLists : KMap (Nat × List (Nat × Nat × List Nat)) := []
  /-- R150 (06_schedule_contract.md); 16 slots. -/
  images : KMap Image := []
  /-- R200 (07_training_dataflow.md); 1 per resident range. -/
  resParity : KMap Bool := []
  /-- R293 (11_slory_and_collectives.md); 8 node ids. -/
  group : List Nat := []
  /-- R227 (08_keystones_and_optimiser_state.md); stream. -/
  sender : Option CkptStream := none
  /-- R226 (08_keystones_and_optimiser_state.md); region. -/
  partner : Option Partner := none
  /-- R311 (12_model_store_and_weights.md); job. -/
  load : Option LoadJob := none
  /-- R392 (15_tenancy_and_security.md); 512. -/
  weightLog : BitVec 512 := 0
  /-- R408 (16_power_and_thermal.md); record. -/
  energy : Energy := {}
  /-- R367 (14_commands.md); 32. -/
  lastStep : Nat := 0
  /-- R367 (14_commands.md); 32. -/
  overruns : Nat := 0
  /-- R367 (14_commands.md); 32. -/
  ttKills : Nat := 0
  /-- R367 (14_commands.md); 5 x 32. -/
  pierEvents : List Nat := [0,0,0,0,0]
  /-- R367 (14_commands.md); 5 x 32. -/
  stationEvents : List Nat := [0,0,0,0,0]
  /-- R367 (14_commands.md); 5 x 32. -/
  keyEvents : List Nat := [0,0,0,0,0]
  /-- R367 (14_commands.md); 32. -/
  droppedPairs : Nat := 0
  /-- R367 (14_commands.md); 32. -/
  spilledPairs : Nat := 0
  /-- R381 (15_tenancy_and_security.md); SEQ of CTX_DESTROY. -/
  destroying : Option Nat := none
  /-- R381 (15_tenancy_and_security.md); units still to scrub. -/
  scrubUnits : List Nat := []
  /-- R381 (15_tenancy_and_security.md); frames still to zero. -/
  scrubFrames : List Nat := []
  /-- R248 (09_stacked_memory.md); stack, granule, SEQ. -/
  retiring : List (Nat × Nat × Nat) := []
  /-- R317 (12_model_store_and_weights.md); SEQ of WEIGHTS_SWAP. -/
  swapWait : Option (Nat × Bool) := none
  /-- R227 (08_keystones_and_optimiser_state.md); SEQ of CKPT_STREAM_START. -/
  ckptWait : Option Nat := none
  /-- R399 (16_power_and_thermal.md); e[slot][m][s], 2 pJ. -/
  learned : KMap Nat := []
  /-- R404 (16_power_and_thermal.md); learned gaps, us, and the demand after each, 2 pJ. -/
  gaps : KMap (Nat × Nat) := []
  deriving DecidableEq, Repr

/-- Counts of the energy-bearing events of one attempt (R383, R384). -/
structure Activity where
  /-- R383 (15_tenancy_and_security.md); count. -/
  arrays : Nat := 0
  /-- R383 (15_tenancy_and_security.md); count. -/
  stores : Nat := 0
  /-- R383 (15_tenancy_and_security.md); count. -/
  deck : Nat := 0
  /-- R383 (15_tenancy_and_security.md); count. -/
  stations : Nat := 0
  /-- R383 (15_tenancy_and_security.md); count. -/
  memory : Nat := 0
  /-- R383 (15_tenancy_and_security.md); count. -/
  fabric : Nat := 0
  /-- R383 (15_tenancy_and_security.md); count. -/
  host : Nat := 0
  deriving DecidableEq, Repr

/-- What a stream of a step has delivered on the deck so far (R123, R132, R198). -/
structure StreamSt where
  /-- R123 (05_streams_and_stations.md); present blocks that units of the step have produced, in order. -/
  blocks : List StreamBlock := []
  /-- R152 (05_streams_and_stations.md); present blocks that storage has returned, in order. -/
  fetched : List StreamBlock := []
  /-- R133 (05_streams_and_stations.md); position per consumer unit. -/
  pos : KMap Nat := []
  /-- R133 (05_streams_and_stations.md); position per producer pier. -/
  outPos : KMap Nat := []
  /-- R123 (05_streams_and_stations.md); blocks moved to or from storage. -/
  memPos : Nat := 0
  /-- R113 (04_sparsity.md); the stream carries a block list. -/
  list : Bool := false
  deriving DecidableEq, Repr

/-- Sequencer of one unit in a step: next instruction, slip, phase (R55, R76, R145, R158, R218). -/
structure UnitSt where
  /-- R55 (03_arrays_and_piers.md); index. -/
  next : Nat := 0
  /-- R76 (03_arrays_and_piers.md); 32 sat. -/
  slip : Nat := 0
  /-- R76 (03_arrays_and_piers.md); 32 sat. -/
  entrance : Nat := 0
  /-- R158 (06_schedule_contract.md); entries begun. -/
  phase : Nat := 0
  /-- R86 (03_arrays_and_piers.md); sticky flags (R83) and first-occurrence record (R84) are the OR and the minimum over these. -/
  events : List Event := []
  /-- R87 (03_arrays_and_piers.md); 5 x 32 sat. -/
  counters : List Nat := [0,0,0,0,0]
  /-- R86 (03_arrays_and_piers.md); FLAG_CLEARs run. -/
  clears : List FlagClr := []
  /-- R134 (05_streams_and_stations.md); FILLs with lines still to land. -/
  fills : List OpenFill := []
  /-- R73 (03_arrays_and_piers.md); k-steps still to fire. -/
  mmas : List MmaRun := []
  /-- R77 (03_arrays_and_piers.md); activity per array. -/
  ramps : KMap Ramp := []
  /-- R78 (03_arrays_and_piers.md); filler products fired. -/
  filler : Nat := 0
  /-- R158 (06_schedule_contract.md); PHASE entries whose first instruction has issued. -/
  begun : Nat := 0
  /-- R161 (06_schedule_contract.md); inside a fill segment, the index at which the list goes on after it. -/
  resume : Option Nat := none
  /-- R161 (06_schedule_contract.md); fill segments this unit has entered: wait point and order. -/
  ran : List (Nat × Nat) := []
  deriving DecidableEq, Repr

/-- A step from STEP_RUN to its end (R170 to R174). -/
structure Step where
  /-- R170 (06_schedule_contract.md); model. -/
  id : Nat := 0
  /-- R172 (06_schedule_contract.md); 8. -/
  ctx : Nat := 0
  /-- R366 (14_commands.md); 32. -/
  seq : Nat := 0
  /-- R345 (13_host_link_and_ordering.md); 1. -/
  fence : Bool := false
  /-- R364 (14_commands.md); 4. -/
  slot : Nat := 0
  /-- R364 (14_commands.md); 32. -/
  number : Nat := 0
  /-- R365 (14_commands.md); DESC, BASE. -/
  bindings : List (Nat × Nat) := []
  /-- R351 (14_commands.md); 64. -/
  resultAddr : Nat := 0
  /-- R351 (14_commands.md); 32. -/
  resultBytes : Nat := 0
  /-- R170 (06_schedule_contract.md); enum. -/
  state : StepState := .queued
  /-- R166 (06_schedule_contract.md); enum. -/
  kind : AdmitKind := .bestEffort
  /-- R169 (06_schedule_contract.md); step id. -/
  lender : Option Nat := none
  /-- R291 (11_slory_and_collectives.md); 8. -/
  attempt : Nat := 0
  /-- R151 (06_schedule_contract.md); ticks. -/
  admitted : Nat := 0
  /-- R79 (03_arrays_and_piers.md); cycle of image cycle 0. -/
  start : Nat := 0
  /-- R168 (06_schedule_contract.md); 1. -/
  rerun : Bool := false
  /-- R368 (14_commands.md); 32. -/
  boundGen : Nat := 0
  /-- R210 (08_keystones_and_optimiser_state.md); per group FP32. -/
  scalars : List (Nat × List Nat) := []
  /-- R55 (03_arrays_and_piers.md); sequencers. -/
  units : KMap UnitSt := []
  /-- R123 (05_streams_and_stations.md); streams. -/
  streams : KMap StreamSt := []
  /-- R134 (05_streams_and_stations.md); transfers not yet landed. -/
  inbound : List Inbound := []
  /-- R152 (06_schedule_contract.md); streams with a bearing read in flight. -/
  reads : List Nat := []
  /-- R171 (06_schedule_contract.md); host writes held in STAGING. -/
  staged : List StagedWrite := []
  /-- R220 (08_keystones_and_optimiser_state.md); staged delta words. -/
  deltas : List (Nat × Nat × Nat × List (BitVec 32)) := []
  /-- R220 (08_keystones_and_optimiser_state.md); updated blocks. -/
  shadowParity : List (Nat × Nat) := []
  /-- R220 (08_keystones_and_optimiser_state.md); tensors with a new ring copy. -/
  shadowCopies : List Nat := []
  /-- R214 (08_keystones_and_optimiser_state.md); gradient buffer. -/
  gradBuf : KMap (BitVec 32) := []
  /-- R213 (08_keystones_and_optimiser_state.md); per keystone FP64. -/
  norms : KMap Nat := []
  /-- R213 (08_keystones_and_optimiser_state.md); FP64 S. -/
  total : Option Nat := none
  /-- R213 (08_keystones_and_optimiser_state.md); 1. -/
  skipped : Bool := false
  /-- R288 (11_slory_and_collectives.md); accumulators written. -/
  accWritten : List Nat := []
  /-- R200 (07_training_dataflow.md); resident ranges written. -/
  shadowRanges : List Nat := []
  /-- R169 (06_schedule_contract.md); bubbles lent. -/
  lent : List Nat := []
  /-- R161 (06_schedule_contract.md); fill segments run. -/
  usedSegs : List (Nat × Nat) := []
  /-- R161 (06_schedule_contract.md); wait points decided for good. -/
  waits : List Nat := []
  /-- R161 (06_schedule_contract.md); 1. -/
  waiting : Bool := false
  /-- R109 (04_sparsity.md); dispatch tables. -/
  routes : KMap (List Dispatch) := []
  /-- R112 (04_sparsity.md); 32. -/
  dropped : Nat := 0
  /-- R112 (04_sparsity.md); 32. -/
  spilled : Nat := 0
  /-- R112 (04_sparsity.md); 256 x 32 per routing. -/
  rowsUsed : KMap Nat := []
  /-- R289 (11_slory_and_collectives.md); SUB sent. -/
  vote : Option Nat := none
  /-- R291 (11_slory_and_collectives.md); ticks. -/
  voteAt : Nat := 0
  /-- R217 (08_keystones_and_optimiser_state.md); slow-tier masters that have arrived, FP32. -/
  slowMasters : KMap (BitVec 32) := []
  /-- R172 (06_schedule_contract.md); ring copies of each tensor by age, bound at admission. -/
  boundAges : List (Nat × List Nat) := []
  /-- R384 (15_tenancy_and_security.md); counts. -/
  activity : Activity := {}
  /-- R383 (15_tenancy_and_security.md); counts of attempts killed and re-run. -/
  killed : Activity := {}
  deriving DecidableEq, Repr

/-- On-die memories of the piers and stations, versioned by nominal cycle (R60, R67, R80, R134, R135). -/
structure PierMem where
  /-- R80 (03_arrays_and_piers.md); 1024 x 4096 x 64 B. -/
  tile : Vers Byte := {}
  /-- R60 (03_arrays_and_piers.md); 65536 x 4 KiB. -/
  feeder : Vers Byte := {}
  /-- R62 (03_arrays_and_piers.md); 8 per slot. -/
  valid : Vers Bool := {}
  /-- R63 (03_arrays_and_piers.md); 1 per slot, with its cause (0 none, 1 zero tags, 2 null lines). -/
  skip : Vers Nat := {}
  /-- R67 (03_arrays_and_piers.md); 4194304 x 4 FP32. -/
  bank : Vers (BitVec 32) := {}
  /-- R84 (03_arrays_and_piers.md); k index of the chain in each bank. -/
  chain : Vers Nat := {}
  /-- R100 (04_sparsity.md); 1 zero tag per line. -/
  zero : Vers Bool := {}
  /-- R135 (05_streams_and_stations.md); 32 x 1 MiB. -/
  loc : Vers Byte := {}
  deriving DecidableEq, Repr

/-- One write-combining entry (R236). -/
structure WcEntry where
  /-- R236 (09_stacked_memory.md); 31. -/
  line : Nat := 0
  /-- R236 (09_stacked_memory.md); 128. -/
  mask : BitVec 128 := 0
  /-- R236 (09_stacked_memory.md); 128 B. -/
  data : BitVec 1024 := 0
  /-- R236 (09_stacked_memory.md); 8. -/
  ctx : Nat := 0
  /-- R237 (09_stacked_memory.md); step id. -/
  step : Option Nat := none
  deriving DecidableEq, Repr

/-- Per-stack state of a bearing (R236 to R252). -/
structure Stack where
  /-- R236 (09_stacked_memory.md); 1024 entries, oldest first. -/
  wc : List WcEntry := []
  /-- R240 (09_stacked_memory.md); count. -/
  corrected : Nat := 0
  /-- R240 (09_stacked_memory.md); count. -/
  poisonedReads : Nat := 0
  /-- R246 (09_stacked_memory.md); count. -/
  retries : Nat := 0
  /-- R242 (09_stacked_memory.md); per EVENT 32 sat. -/
  eventCounts : KMap Nat := []
  /-- R240 (09_stacked_memory.md); corrected lines per granule. -/
  granuleCorr : KMap Nat := []
  /-- R240 (09_stacked_memory.md); corrected line, write stamp. -/
  rewrites : List (Nat × Nat) := []
  /-- R246 (09_stacked_memory.md); retries so far of each transfer in flight, by line. -/
  parityTry : KMap Nat := []
  /-- R448 (18_registers.md); 8 x 16, 1/16 C. -/
  sensors : List Int := [0,0,0,0,0,0,0,0]
  /-- R252 (09_stacked_memory.md); above 85 C. -/
  hot : Bool := false
  /-- R252 (09_stacked_memory.md); 1.95 us interval in force. -/
  fast : Bool := false
  /-- R252 (09_stacked_memory.md); count. -/
  refreshes : Nat := 0
  /-- R247 (09_stacked_memory.md); 1. -/
  lost : Bool := false
  /-- R241 (09_stacked_memory.md); next line. -/
  patrol : Nat := 0
  deriving DecidableEq, Repr

/-- Stacked memory (R230 to R253). -/
structure Stacked where
  /-- R231 (09_stacked_memory.md); 256 GiB + spares. -/
  mem : Vers Byte := {}
  /-- R240 (09_stacked_memory.md); poisoned 32 B codewords. -/
  poison : List Nat := []
  /-- R230 (09_stacked_memory.md); 8. -/
  stk : KMap Stack := []
  /-- R374 (15_tenancy_and_security.md); frames reserved. -/
  reserved : List Nat := []
  /-- R248 (09_stacked_memory.md); retirements whose context has been destroyed: stack, granule, SEQ. -/
  retiring : List (Nat × Nat × Nat) := []
  deriving DecidableEq, Repr

/-- Timetable slot entry (R162). -/
structure SlotEnt where
  /-- R162 (06_schedule_contract.md); 27. -/
  start : Nat := 0
  /-- R162 (06_schedule_contract.md); 27. -/
  len : Nat := 0
  /-- R162 (06_schedule_contract.md); 8. -/
  owner : Nat := 0
  /-- R162 (06_schedule_contract.md); 1. -/
  lend : Bool := false
  /-- R162 (06_schedule_contract.md); 1. -/
  valid : Bool := false
  deriving DecidableEq, Repr

/-- One timetable (R162). -/
structure TimeTab where
  /-- R162 (06_schedule_contract.md); 27. -/
  period : Nat := 0
  /-- R162 (06_schedule_contract.md); 1024. -/
  slots : List SlotEnt := []
  deriving DecidableEq, Repr

/-- Timetable and admission state (R162 to R169). -/
structure Sched where
  /-- R163 (06_schedule_contract.md); table in force. -/
  table : Option TimeTab := none
  /-- R163 (06_schedule_contract.md); accepted table or removal. -/
  waiting : Option (Option TimeTab) := none
  /-- R163 (06_schedule_contract.md); tick of period start. -/
  origin : Nat := 0
  /-- R165 (06_schedule_contract.md); slots begun and not ended. -/
  active : List Nat := []
  /-- R166 (06_schedule_contract.md); begun slots whose first admission waits for claims. -/
  owing : List Nat := []
  /-- R165 (06_schedule_contract.md); begun slots in which a step of the owner has committed and the next is due. -/
  follows : List Nat := []
  /-- R167 (06_schedule_contract.md); 8. -/
  lastCtx : Nat := 255
  /-- R170 (06_schedule_contract.md); model. -/
  nextStep : Nat := 0
  deriving DecidableEq, Repr

/-- Port record (R258). -/
structure PortRec where
  /-- R258 (10_ethernet_ports.md); 3. -/
  lanes : Nat := 0
  /-- R258 (10_ethernet_ports.md); 1. -/
  medium : Bool := false
  /-- R258 (10_ethernet_ports.md); 1. -/
  autoneg : Bool := false
  /-- R258 (10_ethernet_ports.md); 1. -/
  vlanEn : Bool := false
  /-- R258 (10_ethernet_ports.md); 1. -/
  preemptEn : Bool := false
  /-- R258 (10_ethernet_ports.md); 1. -/
  verifyEn : Bool := false
  /-- R258 (10_ethernet_ports.md); 2. -/
  addFrag : Nat := 0
  /-- R258 (10_ethernet_ports.md); 3. -/
  pcpExpress : Nat := 0
  /-- R258 (10_ethernet_ports.md); 3. -/
  pcpBulk : Nat := 0
  /-- R258 (10_ethernet_ports.md); 8. -/
  pfcTx : Nat := 0
  /-- R258 (10_ethernet_ports.md); 8. -/
  pfcRx : Nat := 0
  /-- R258 (10_ethernet_ports.md); 12. -/
  vid : Nat := 0
  /-- R258 (10_ethernet_ports.md); 14. -/
  maxFrame : Nat := 0
  /-- R258 (10_ethernet_ports.md); 8. -/
  hopLimit : Nat := 0
  /-- R258 (10_ethernet_ports.md); 48, first octet first. -/
  mac : Nat := 0
  /-- R258 (10_ethernet_ports.md); 32, first octet first. -/
  ipv4 : Nat := 0
  /-- R258 (10_ethernet_ports.md); 128, first octet first. -/
  ipv6 : Nat := 0
  deriving DecidableEq, Repr

/-- A frame in a transmit buffer (R262). -/
structure TxFrame where
  /-- R262 (10_ethernet_ports.md); frame. -/
  bytes : Bytes := []
  /-- R257 (10_ethernet_ports.md); 8. -/
  ctx : Option Nat := none
  /-- R257 (10_ethernet_ports.md); id. -/
  step : Option Nat := none
  /-- R261 (10_ethernet_ports.md); 3. -/
  prio : Nat := 0
  deriving DecidableEq, Repr

/-- One Ethernet port (R254 to R270). -/
structure Port where
  /-- R258 (10_ethernet_ports.md); 64 B. -/
  rcd : PortRec := {}
  /-- R270 (10_ethernet_ports.md); 1. -/
  up : Bool := false
  /-- R260 (10_ethernet_ports.md); 1. -/
  training : Bool := false
  /-- R270 (10_ethernet_ports.md); 2. -/
  verify : Nat := 0
  /-- R270 (10_ethernet_ports.md); 1. -/
  preempt : Bool := false
  /-- R270 (10_ethernet_ports.md); 1 W1C. -/
  linkChange : Bool := false
  /-- R270 (10_ethernet_ports.md); 8. -/
  paused : Nat := 0
  /-- R269 (10_ethernet_ports.md); tick per priority. -/
  pausedAt : KMap Nat := []
  /-- R267 (10_ethernet_ports.md); per priority. -/
  quanta : KMap Nat := []
  /-- R269 (10_ethernet_ports.md); quanta of the pause under way that are counted. -/
  counted : KMap Nat := []
  /-- R431 (17_startup_reset_errors.md); 8. -/
  ignore : Nat := 0
  /-- R267 (10_ethernet_ports.md); bytes per priority of 512 KiB. -/
  rxHeld : KMap Nat := []
  /-- R267 (10_ethernet_ports.md); 8. -/
  pfcOn : Nat := 0
  /-- R262 (10_ethernet_ports.md); 128 entries, 32 KiB. -/
  express : List TxFrame := []
  /-- R262 (10_ethernet_ports.md); 256 KiB. -/
  bulk : List TxFrame := []
  /-- R262 (10_ethernet_ports.md); pre-emptable frame being sent, or cut for express frames. -/
  onWire : Option TxFrame := none
  /-- R264 (10_ethernet_ports.md); 1. -/
  cut : Bool := false
  /-- R264 (10_ethernet_ports.md); times that frame has been cut. -/
  cuts : Nat := 0
  /-- R262 (10_ethernet_ports.md); express frame being sent. -/
  expressWire : Option TxFrame := none
  /-- R257 (10_ethernet_ports.md); token buckets: key 0 work outside steps, else step id + 1; bits, tick of the last change. -/
  buckets : KMap (Nat × Nat) := []
  /-- R255 (10_ethernet_ports.md); LANES and MEDIUM that auto-negotiation advertises. -/
  advert : Option (Nat × Bool) := none
  /-- R255 (10_ethernet_ports.md); lanes whose polarity training has found inverted and corrects. -/
  polarity : Nat := 0
  /-- R266 (10_ethernet_ports.md); waiting outside the express buffer. -/
  expressWait : List TxFrame := []
  /-- R262 (10_ethernet_ports.md); waiting to enter the bulk buffer. -/
  bulkWait : List TxFrame := []
  /-- R269 (10_ethernet_ports.md); 46 x 64 RC. -/
  counters : KMap Nat := []
  deriving DecidableEq, Repr

/-- Port entry of the node record (R271). -/
structure PortEnt where
  /-- R271 (11_slory_and_collectives.md); 48. -/
  nextHop : Nat := 0
  /-- R271 (11_slory_and_collectives.md); 32. -/
  v4 : Nat := 0
  /-- R271 (11_slory_and_collectives.md); 112. -/
  v6 : Nat := 0
  deriving DecidableEq, Repr

/-- Node record (R271). -/
structure NodeRec where
  /-- R271 (11_slory_and_collectives.md); 15. -/
  node : Nat := 0
  /-- R271 (11_slory_and_collectives.md); 1. -/
  domain : Nat := 0
  /-- R271 (11_slory_and_collectives.md); 16. -/
  port : Nat := 0
  /-- R271 (11_slory_and_collectives.md); 10. -/
  retxUs : Nat := 0
  /-- R271 (11_slory_and_collectives.md); 8. -/
  ports : List PortEnt := []
  deriving DecidableEq, Repr

/-- Sending side of a Slory flow (R278). -/
structure TxFlow where
  /-- R277 (11_slory_and_collectives.md); model. -/
  id : Nat := 0
  /-- R277 (11_slory_and_collectives.md); identity. -/
  key : FlowKey := {}
  /-- R275 (11_slory_and_collectives.md); 8. -/
  op : Nat := 0
  /-- R281 (11_slory_and_collectives.md); 3. -/
  port : Nat := 0
  /-- R274 (11_slory_and_collectives.md); 16. -/
  srcIndex : Nat := 0
  /-- R276 (11_slory_and_collectives.md); frames by SEQ. -/
  frames : List (Nat × Bytes) := []
  /-- R279 (11_slory_and_collectives.md); acknowledged SEQs. -/
  acked : List Nat := []
  /-- R278 (11_slory_and_collectives.md); frames sent. -/
  sentUpTo : Nat := 0
  /-- R278 (11_slory_and_collectives.md); step. -/
  stepId : Option Nat := none
  /-- R296 (11_slory_and_collectives.md); 1. -/
  dstDom : Nat := 0
  /-- R276 (11_slory_and_collectives.md); 8. -/
  ctx : Nat := 0
  /-- R431 (17_startup_reset_errors.md); tick at which a NAK last made a SEQ be resent. -/
  nakAt : KMap Nat := []
  deriving DecidableEq, Repr

/-- Receiving side of a Slory flow (R277, R279). -/
structure RxFlow where
  /-- R277 (11_slory_and_collectives.md); model. -/
  id : Nat := 0
  /-- R277 (11_slory_and_collectives.md); identity. -/
  key : FlowKey := {}
  /-- R275 (11_slory_and_collectives.md); 8. -/
  op : Nat := 0
  /-- R277 (11_slory_and_collectives.md); payload by SEQ. -/
  data : KMap Bytes := []
  /-- R277 (11_slory_and_collectives.md); OFFSET by SEQ. -/
  offs : KMap Nat := []
  /-- R277 (11_slory_and_collectives.md); SEQ of the LAST frame. -/
  last : Option Nat := none
  /-- R279 (11_slory_and_collectives.md); frames since the last ACK. -/
  sinceAck : Nat := 0
  /-- R279 (11_slory_and_collectives.md); gap already named. -/
  nakFor : Option Nat := none
  /-- R277 (11_slory_and_collectives.md); step. -/
  stepId : Option Nat := none
  /-- R274 (11_slory_and_collectives.md); 16. -/
  srcIndex : Nat := 0
  /-- R279 (11_slory_and_collectives.md); tick of the last NAK. -/
  nakAt : Nat := 0
  /-- R277 (11_slory_and_collectives.md); its bytes have been taken. -/
  done : Bool := false
  deriving DecidableEq, Repr

/-- A Slory frame passed to the transport (R268, R274). -/
structure RxFrame where
  /-- R268 (10_ethernet_ports.md); 3. -/
  port : Nat := 0
  /-- R280 (11_slory_and_collectives.md); 128. -/
  srcIp : Nat := 0
  /-- R272 (11_slory_and_collectives.md); 1. -/
  v6 : Bool := false
  /-- R267 (10_ethernet_ports.md); 3. -/
  prio : Nat := 0
  /-- R269 (10_ethernet_ports.md); frame length. -/
  octets : Nat := 0
  /-- R274 (11_slory_and_collectives.md); UDP payload. -/
  udp : Bytes := []
  /-- R290 (11_slory_and_collectives.md); array cycle of the arrival. -/
  at_ : Nat := 0
  deriving DecidableEq, Repr

/-- Leader of one attempt of a multi-module step (R290). -/
structure Leader where
  /-- R290 (11_slory_and_collectives.md); 8. -/
  ctx : Nat := 0
  /-- R290 (11_slory_and_collectives.md); 32. -/
  step : Nat := 0
  /-- R290 (11_slory_and_collectives.md); 8. -/
  attempt : Nat := 0
  /-- R290 (11_slory_and_collectives.md); nodes whose vote is VOTE_OK. -/
  ok : List Nat := []
  /-- R290 (11_slory_and_collectives.md); SUB, STATUS, ORIGIN. -/
  decided : Option (Nat × Nat × Nat) := none
  /-- R286 (11_slory_and_collectives.md); FP64 by SRC_INDEX. -/
  normSums : KMap Nat := []
  deriving DecidableEq, Repr

/-- Slory transport (R271 to R296). -/
structure Slory where
  /-- R271 (11_slory_and_collectives.md); 288 B. -/
  node : Option NodeRec := none
  /-- R268 (10_ethernet_ports.md); receive buffer. -/
  rx : List RxFrame := []
  /-- R278 (11_slory_and_collectives.md); flows. -/
  tx : List TxFlow := []
  /-- R277 (11_slory_and_collectives.md); flows. -/
  rxFlows : List RxFlow := []
  /-- R290 (11_slory_and_collectives.md); collectives. -/
  leaders : List Leader := []
  /-- R281 (11_slory_and_collectives.md); 13 x 64 RC. -/
  counters : KMap Nat := []
  /-- R277 (11_slory_and_collectives.md); model. -/
  nextFlow : Nat := 0
  deriving DecidableEq, Repr

/-- One copy of a store image (R299, R300). -/
structure StoreCopy where
  /-- R300 (12_model_store_and_weights.md); up to DATA_OFFSET. -/
  head : Bytes := []
  /-- R299 (12_model_store_and_weights.md); 1 MiB blocks. -/
  blocks : KMap Bytes := []
  /-- R303 (12_model_store_and_weights.md); directory entry valid. -/
  valid : Bool := false
  deriving DecidableEq, Repr

/-- One slot of the model store (R298, R303, R319). -/
structure StoreSlot where
  /-- R298 (12_model_store_and_weights.md); copy A. -/
  a : StoreCopy := {}
  /-- R298 (12_model_store_and_weights.md); copy B. -/
  b : StoreCopy := {}
  /-- R319 (12_model_store_and_weights.md); 1. -/
  damaged : Bool := false
  /-- R303 (12_model_store_and_weights.md); 1. -/
  busy : Bool := false
  /-- R304 (12_model_store_and_weights.md); 1. -/
  repair : Bool := false
  deriving DecidableEq, Repr

/-- One copy of a loader or firmware object (R385, R389). -/
structure FwCopy where
  /-- R385 (15_tenancy_and_security.md); signed object. -/
  bytes : Bytes := []
  /-- R385 (15_tenancy_and_security.md); signature verifies. -/
  ok : Bool := true
  /-- R389 (15_tenancy_and_security.md); 32. -/
  version : Nat := 0
  /-- R389 (15_tenancy_and_security.md); 32. -/
  floor : Nat := 0
  deriving DecidableEq, Repr

/-- A configuration record and its signature (R387). -/
structure CfgRec where
  /-- R387 (15_tenancy_and_security.md); 8,192 B. -/
  bytes : Bytes := []
  /-- R472 (15_tenancy_and_security.md); signature verifies. -/
  ok : Bool := true
  deriving DecidableEq, Repr

/-- Model store: non-volatile state (R298, R250, R389, R429). -/
structure Store where
  /-- R298 (12_model_store_and_weights.md); 16 slots. -/
  slots : KMap StoreSlot := []
  /-- R385 (15_tenancy_and_security.md); copies A and B. -/
  loader : List FwCopy := [{},{}]
  /-- R385 (15_tenancy_and_security.md); copies A and B. -/
  firmware : List FwCopy := [{},{}]
  /-- R472 (15_tenancy_and_security.md); record in force. -/
  cfgForce : CfgRec := {}
  /-- R387 (15_tenancy_and_security.md); copies A and B. -/
  cfg : List CfgRec := [{},{}]
  /-- R388 (15_tenancy_and_security.md); 1. -/
  ownerOnce : Bool := false
  /-- R389 (15_tenancy_and_security.md); 32. -/
  fwCounter : Nat := 0
  /-- R389 (15_tenancy_and_security.md); 32. -/
  cfgCounter : Nat := 0
  /-- R389 (15_tenancy_and_security.md); 32. -/
  bootCounter : Nat := 0
  /-- R250 (09_stacked_memory.md); stack,granule to spare. -/
  retired : KMap Nat := []
  /-- R250 (09_stacked_memory.md); 131,072 bits. -/
  withdrawn : List Nat := []
  /-- R247 (09_stacked_memory.md); 8. -/
  lostStacks : List Nat := []
  /-- R413 (16_power_and_thermal.md); trip record. -/
  trip : Option LogEntry := none
  /-- R429 (17_startup_reset_errors.md); 16 entries. -/
  summary : List LogEntry := []
  /-- R420 (17_startup_reset_errors.md); unreadable copies of a persistent record: 0 to 2. -/
  badRecords : Nat := 0
  /-- R303 (12_model_store_and_weights.md); writes in flight. -/
  writing : List StoreWrite := []
  deriving DecidableEq, Repr

/-- Power, thermal and coolant state (R394 to R415, R448). -/
structure Power where
  /-- R448 (18_registers.md); 2. -/
  mode : PMode := .startup
  /-- R394 (16_power_and_thermal.md); recovery condition in force. -/
  recovery : Bool := false
  /-- R448 (18_registers.md); 10 bits. -/
  state : Nat := 0
  /-- R448 (18_registers.md); 10 bits W1C. -/
  events : Nat := 0
  /-- R448 (18_registers.md); 32 mW. -/
  mean10 : Nat := 0
  /-- R448 (18_registers.md); 32 mW. -/
  mean1ms : Nat := 0
  /-- R403 (16_power_and_thermal.md); mW. -/
  prev1ms : Nat := 0
  /-- R398 (16_power_and_thermal.md); 1 us samples, mW. -/
  samples : List Nat := []
  /-- R448 (18_registers.md); 12 W. -/
  setCap : Nat := 2500
  /-- R387 (15_tenancy_and_security.md); 12 W. -/
  capLimit : Nat := 2500
  /-- R448 (18_registers.md); 12 W. -/
  thermalCap : Nat := 2500
  /-- R448 (18_registers.md); 12 W. -/
  flowCap : Nat := 2500
  /-- R448 (18_registers.md); 14. -/
  stretch : Nat := 1000
  /-- R448 (18_registers.md); 14. -/
  controller : Nat := 1000
  /-- R448 (18_registers.md); 64 nJ. -/
  measured : Nat := 0
  /-- R409 (16_power_and_thermal.md); 64 nJ. -/
  attributed : Nat := 0
  /-- R409 (16_power_and_thermal.md); 64 nJ. -/
  adminQueue : Nat := 0
  /-- R448 (18_registers.md); 64 nJ. -/
  filler : Nat := 0
  /-- R448 (18_registers.md); 64 RC. -/
  slopeExceeded : Nat := 0
  /-- R448 (18_registers.md); 4 x 16. -/
  temps : List Int := [0,0,0,0]
  /-- R448 (18_registers.md); 32 mL/min. -/
  flow : Nat := 0
  /-- R448 (18_registers.md); 32 x 32 mW. -/
  shares : KMap Nat := []
  /-- R448 (18_registers.md); 32 x 32, 2 pJ. -/
  learnedNow : KMap Nat := []
  /-- R448 (18_registers.md); 34 x 64 RC. -/
  droop : KMap Nat := []
  /-- R448 (18_registers.md); 38 x 16. -/
  logic : KMap Int := []
  /-- R400 (16_power_and_thermal.md); mW. -/
  pFix : Nat := 0
  /-- R403 (16_power_and_thermal.md); tick of the last change R403 excepts. -/
  slopeExempt : Option Nat := none
  /-- R404 (16_power_and_thermal.md); gap under way per span: tick, context, key. -/
  gapOpen : KMap (Nat × Nat × Nat) := []
  /-- R401 (16_power_and_thermal.md); consecutive decisions over share. -/
  overCount : KMap Nat := []
  /-- R402 (16_power_and_thermal.md); span, tick of its fall, A_s in per-mille. -/
  falls : List (Nat × Nat × Nat) := []
  /-- R79 (03_arrays_and_piers.md); stop ramps: span, array cycle at which each goes on, and what the array has fired. -/
  stops : List (Nat × Nat × Ramp) := []
  /-- R398 (16_power_and_thermal.md); walk-down start tick and power. -/
  walk : Option (Nat × Nat) := none
  /-- R406 (16_power_and_thermal.md); 1. -/
  droopHold : Bool := false
  /-- R407 (16_power_and_thermal.md); ticks of recent firings. -/
  droopRecent : List Nat := []
  /-- R407 (16_power_and_thermal.md); tick of the last advisory per detector. -/
  droopLogged : KMap Nat := []
  /-- R412 (16_power_and_thermal.md); 1. -/
  logicLimit : Bool := false
  /-- R412 (16_power_and_thermal.md); 1. -/
  dramLimit : Bool := false
  /-- R394 (16_power_and_thermal.md); power-stage alarm. -/
  alarm : Bool := false
  /-- R394 (16_power_and_thermal.md); DIAG_RUN in progress. -/
  testing : Bool := false
  /-- R404 (16_power_and_thermal.md); S required by the slope walk. -/
  slopeS : Nat := 1000
  deriving DecidableEq, Repr

/-- Management controller (R425, R461 to R464). -/
structure Mgmt where
  /-- R457 (19_module_hardware.md); 4 pins. -/
  strap : Nat := 0
  /-- R461 (19_module_hardware.md); 7. -/
  dynAddr : Option Nat := none
  /-- R425 (17_startup_reset_errors.md); 1. -/
  restarting : Bool := false
  /-- R462 (19_module_hardware.md); 8. -/
  eid : Nat := 0
  /-- R462 (19_module_hardware.md); 8. -/
  tid : Nat := 0
  /-- R463 (19_module_hardware.md); components written since boot. -/
  written : List Nat := []
  /-- R425 (17_startup_reset_errors.md); 16 watchdogs. -/
  coreTries : KMap Nat := []
  deriving DecidableEq, Repr

/-- DIAG_RUN in progress (R366). -/
structure Diag where
  /-- R366 (14_commands.md); 32. -/
  seq : Nat := 0
  /-- R364 (14_commands.md); 8. -/
  test : Nat := 0
  deriving DecidableEq, Repr

/-- The whole block: everything the spec gives the module, and the queue of waiting commands. -/
structure State where
  /-- MODEL; queue. -/
  pending : List Instr := []
  /-- R416 (17_startup_reset_errors.md); group. -/
  boot : Boot := {}
  /-- R18 (01_device_overview.md); group. -/
  clk : Clock := {}
  /-- R449 (18_registers.md); group. -/
  regs : Regs := {}
  /-- R443 (18_registers.md); group. -/
  err : ErrLog := {}
  /-- R337 (13_host_link_and_ordering.md); group. -/
  msix : Msix := {}
  /-- R320 (13_host_link_and_ordering.md); group. -/
  host : HostIf := {}
  /-- R329 (13_host_link_and_ordering.md); ring. -/
  admin : Option Ring := none
  /-- R329 (13_host_link_and_ordering.md); 256 rings. -/
  rings : KMap Ring := []
  /-- R372 (15_tenancy_and_security.md); 256 contexts. -/
  ctxs : KMap Ctx := []
  /-- R170 (06_schedule_contract.md); steps. -/
  steps : List Step := []
  /-- R162 (06_schedule_contract.md); group. -/
  sched : Sched := {}
  /-- R80 (03_arrays_and_piers.md); group. -/
  pm : PierMem := {}
  /-- R231 (09_stacked_memory.md); group. -/
  sm : Stacked := {}
  /-- R254 (10_ethernet_ports.md); 8 ports. -/
  ports : KMap Port := []
  /-- R274 (11_slory_and_collectives.md); group. -/
  slory : Slory := {}
  /-- R298 (12_model_store_and_weights.md); group. -/
  store : Store := {}
  /-- R394 (16_power_and_thermal.md); group. -/
  power : Power := {}
  /-- R461 (19_module_hardware.md); group. -/
  mgmt : Mgmt := {}
  /-- R366 (14_commands.md); test in progress. -/
  diag : Option Diag := none
  /-- MODEL; counter. -/
  free : Nat := 0
  /-- MODEL; boundary trace, newest first. -/
  out : List Output := []
  deriving DecidableEq, Repr

/-- The machine right after a power-on reset: power good, stage STANDBY, every field at the value the
spec states for reset, or at the value log entries 2 to 4 name. -/
def State.reset : State := {}

end Sys2Proof.Machine
end

