-- ==== Sys2Proof/Machine/Ops.lean ====
section
/-! DEFINITION. The named operations every meaning is built from: sparse maps, memories versioned by
nominal cycle, bit fields and byte orders, and the accessors of contexts, rings and steps. -/

namespace Sys2Proof.Machine

/-! ### Sparse maps -/

/-- The entry of key `k`. -/
def kfind {α : Type} : KMap α → Nat → Option α
  | [], _ => none
  | (j, v) :: t, k => if j = k then some v else kfind t k

/-- Sets the entry of key `k`, keeping the keys strictly rising. -/
def kput {α : Type} : KMap α → Nat → α → KMap α
  | [], k, v => [(k, v)]
  | (j, w) :: t, k, v =>
    if k < j then (k, v) :: (j, w) :: t
    else if k = j then (k, v) :: t
    else (j, w) :: kput t k v

/-- Removes the entry of key `k`. -/
def kdel {α : Type} (m : KMap α) (k : Nat) : KMap α := m.filter fun e => decide (e.1 ≠ k)

/-- What key `k` reads as, `d` standing for an unlisted key. -/
def kget {α : Type} (d : α) (m : KMap α) (k : Nat) : α := (kfind m k).getD d

/-- Writes key `k` in the canonical form: writing what an unlisted key reads as removes the entry. -/
def kset {α : Type} [DecidableEq α] (d : α) (m : KMap α) (k : Nat) (v : α) : KMap α :=
  if v = d then kdel m k else kput m k v

/-- Every key is above `lo`, the keys rise strictly and no entry equals `d`. -/
def kwfFrom {α : Type} [DecidableEq α] (d : α) : Option Nat → KMap α → Bool
  | _, [] => true
  | lo, (j, v) :: t => (match lo with | none => true | some l => decide (l < j)) && decide (v ≠ d) && kwfFrom d (some j) t

/-- The canonical form of a sparse memory. -/
def kwf {α : Type} [DecidableEq α] (d : α) (m : KMap α) : Bool := kwfFrom d none m

/-- The canonical form of stacked memory, in which an unlisted byte reads as 0 (R419). -/
abbrev Memory.wf (m : KMap Byte) : Bool := kwf 0 m

/-- Applies `f` to the entry of key `k`, or to `d` where there is none. -/
def kupd {α : Type} (d : α) (m : KMap α) (k : Nat) (f : α → α) : KMap α := kput m k (f (kget d m k))

/-- Writes `xs` at the keys `k`, `k + 1` and so on. -/
def ksetRun {α : Type} [DecidableEq α] (d : α) (m : KMap α) (k : Nat) : List α → KMap α
  | [] => m
  | x :: xs => ksetRun d (kset d m k x) (k + 1) xs

/-- Reads `n` keys from `k` on. -/
def kgetRun {α : Type} (d : α) (m : KMap α) (k n : Nat) : List α := (List.range n).map fun i => kget d m (k + i)

/-! ### Memories versioned by nominal cycle (R134, R235) -/

/-- The latest entry of step `st` for address `a` that a read of nominal cycle `cyc` may see. A write
of nominal cycle `c` is logged at `c + 1`; an entry at 0 keeps what stood there at admission. -/
def vlast {α : Type} (st cyc a : Nat) : List (WriteRec α) → Option (Nat × α) → Option (Nat × α)
  | [], acc => acc
  | w :: t, acc =>
    if decide (w.step = st ∧ w.addr = a ∧ w.cycle ≤ cyc) &&
        (match acc with | none => true | some (c, _) => decide (c ≤ w.cycle)) then
      vlast st cyc a t (some (w.cycle, w.val))
    else vlast st cyc a t acc

/-- What step `st` reads at address `a` at nominal cycle `cyc`: its own writes of earlier nominal cycle,
otherwise what stood there before (R134, R235). -/
def vread {α : Type} (d : α) (v : Vers α) (st cyc a : Nat) : α :=
  match vlast st cyc a v.log none with
  | some (_, x) => x
  | none => kget d v.base a

/-- A write of step `st` at nominal cycle `cyc`. -/
def vwrite {α : Type} (v : Vers α) (st cyc a : Nat) (x : α) : Vers α :=
  { v with log := v.log ++ [⟨st, cyc + 1, a, x, 0⟩] }

/-- Writes `xs` at consecutive addresses from `a` on. -/
def vwriteRun {α : Type} (v : Vers α) (st cyc a : Nat) : List α → Vers α
  | [] => v
  | x :: xs => vwriteRun (vwrite v st cyc a x) st cyc (a + 1) xs

/-- Places a write behind those of its nominal cycle that rank below it, so that of the writes of one cycle the highest
rank stands (R235). -/
def ranked {α : Type} (w : WriteRec α) : List (WriteRec α) → List (WriteRec α)
  | [] => [w]
  | e :: t => if e.step = w.step ∧ e.addr = w.addr ∧ e.cycle = w.cycle ∧ w.rank < e.rank then w :: e :: t else e :: ranked w t

/-- Writes `xs` at consecutive addresses from `a` on, with a rank within the nominal cycle (R235). -/
def vputRun {α : Type} (v : Vers α) (st cyc rank a : Nat) : List α → Vers α
  | [] => v
  | x :: xs => vputRun { v with log := ranked ⟨st, cyc + 1, a, x, rank⟩ v.log } st cyc rank (a + 1) xs

/-- Reads `n` consecutive addresses. -/
def vreadRun {α : Type} (d : α) (v : Vers α) (st cyc a n : Nat) : List α :=
  (List.range n).map fun i => vread d v st cyc (a + i)

/-- Whether step `st` has written address `a` at a nominal cycle before `cyc` (R59, R470). -/
def vwritten {α : Type} (v : Vers α) (st cyc a : Nat) : Bool :=
  v.log.any fun w => decide (w.step = st ∧ w.addr = a ∧ w.cycle ≤ cyc ∧ 0 < w.cycle)

/-- The largest nominal cycle in a log, so that a read "after everything" can be named. -/
def vhorizon {α : Type} (v : Vers α) : Nat := (v.log.map (·.cycle)).foldl max 0

/-- What step `st` leaves at address `a`. -/
def vfinal {α : Type} (d : α) (v : Vers α) (st a : Nat) : α := vread d v st (vhorizon v) a

/-- What each step of `others`, admitted before, goes on seeing at addresses that change for the steps after it (R235). -/
def keepOld {α : Type} (d : α) (v : Vers α) (others addrs : List Nat) : List (WriteRec α) :=
  others.flatMap fun o => addrs.map fun a => ⟨o, 0, a, kget d v.base a, 0⟩

/-- Ends step `st`: its writes become what stands there, and each step of `others`, admitted before, goes
on seeing what stood there (R235). -/
def vcommit {α : Type} [DecidableEq α] (d : α) (v : Vers α) (st : Nat) (others : List Nat) : Vers α :=
  let mine := v.log.filter fun w => decide (w.step = st ∧ 0 < w.cycle)
  let keep := keepOld d v others (mine.map (·.addr))
  { base := mine.foldl (fun b w => kset d b w.addr (vfinal d v st w.addr)) v.base
    log := keep ++ v.log.filter fun w => decide (w.step ≠ st) }

/-- Discards the writes of step `st` (R88). -/
def vdrop {α : Type} (v : Vers α) (st : Nat) : Vers α :=
  { v with log := v.log.filter fun w => decide (w.step ≠ st) }

/-- A write of command work: it stands there at once for every step but those of `others`, which were admitted before
(R235). -/
def vpoke {α : Type} [DecidableEq α] (d : α) (v : Vers α) (others : List Nat) (a : Nat) (x : α) : Vers α :=
  { base := kset d v.base a x, log := keepOld d v others [a] ++ v.log }

/-- Command work writes a run. -/
def vpokeRun {α : Type} [DecidableEq α] (d : α) (v : Vers α) (others : List Nat) (a : Nat) (xs : List α) : Vers α :=
  { base := ksetRun d v.base a xs, log := keepOld d v others ((List.range xs.length).map (a + ·)) ++ v.log }

/-- Removes every entry of a key range: a scrub to what an unlisted key reads as (R381). -/
def kclear {α : Type} (m : KMap α) (lo n : Nat) : KMap α :=
  m.filter fun e => decide (e.1 < lo ∨ lo + n ≤ e.1)

/-- A scrub of an address range. -/
def vclear {α : Type} (v : Vers α) (lo n : Nat) : Vers α := { v with base := kclear v.base lo n }

/-! ### Bit fields and byte orders (R7, R8) -/

/-- Field [hi:lo] of a number. -/
def fld (x hi lo : Nat) : Nat := (x >>> lo) % 2 ^ (hi + 1 - lo)

/-- Bit [n] of a number. -/
def bit (x n : Nat) : Bool := x.testBit n

/-- 1 or 0. -/
def b2n (b : Bool) : Nat := if b then 1 else 0

/-- The number that little-endian bytes hold. -/
def leNat : Bytes → Nat
  | [] => 0
  | b :: t => b.toNat + 256 * leNat t

/-- `n` little-endian bytes of a number. -/
def leBytes : Nat → Nat → Bytes
  | 0, _ => []
  | n + 1, x => BitVec.ofNat 8 x :: leBytes n (x / 256)

/-- The number that bytes hold in network byte order. -/
def beNat (b : Bytes) : Nat := leNat b.reverse

/-- `n` bytes of a number in network byte order. -/
def beBytes (n x : Nat) : Bytes := (leBytes n x).reverse

/-- `n` bytes from offset `o`; bytes beyond the end read as 0. -/
def slice (b : Bytes) (o n : Nat) : Bytes :=
  let t := (b.drop o).take n
  t ++ List.replicate (n - t.length) 0

/-- The little-endian number in `n` bytes at offset `o`. -/
def leAt (b : Bytes) (o n : Nat) : Nat := leNat (slice b o n)

/-- The two's-complement reading of a `w`-bit field. -/
def signed (w x : Nat) : Int := if x < 2 ^ (w - 1) then (x : Int) else (x : Int) - 2 ^ w

/-- Saturating increment. -/
def satAdd (lim x n : Nat) : Nat := min lim (x + n)

/-- The largest 32-bit value. -/
def max32 : Nat := 4294967295

/-- The largest 64-bit value. -/
def max64 : Nat := 18446744073709551615

/-- Quotient rounded up. -/
def ceilDiv (a b : Nat) : Nat := (a + b - 1) / b

/-- Replaces item `i` of a list. -/
def setAt {α : Type} (l : List α) (i : Nat) (x : α) : List α := l.set i x

/-- Sum of a list. -/
def total (l : List Nat) : Nat := l.foldl (· + ·) 0

/-- Item-wise saturating sum of counters. -/
def addCounters (a b : List Nat) : List Nat := List.zipWith (satAdd max32) a b

/-! ### Free values (values the manual leaves open) -/

/-- Takes one free value: nothing constrains it. -/
def takeFree (s : State) : BitVec 64 × State := (Config.freeValue s.free, { s with free := s.free + 1 })

/-! ### Contexts, rings, steps -/

/-- The version word (R219): TABLE in [0], SEQ in [63:1]. -/
def Ctx.versionWord (c : Ctx) : Nat := b2n c.table + 2 * (c.vseq % 2 ^ 63)

/-- Context `n`, if it exists. -/
def ctxOf (s : State) (n : Nat) : Option Ctx := kfind s.ctxs n

/-- Sets context `n`. -/
def setCtx (s : State) (n : Nat) (c : Ctx) : State := { s with ctxs := kput s.ctxs n c }

/-- Changes context `n` where it exists. -/
def updCtx (s : State) (n : Nat) (f : Ctx → Ctx) : State :=
  match ctxOf s n with
  | some c => setCtx s n (f c)
  | none => s

/-- The ring named `r`, if it exists. -/
def ringOf (s : State) : RingId → Option Ring
  | .admin => s.admin
  | .ctx n => kfind s.rings n

/-- Sets the ring named `r`. -/
def setRing (s : State) : RingId → Ring → State
  | .admin, x => { s with admin := some x }
  | .ctx n, x => { s with rings := kput s.rings n x }

/-- Changes the ring named `r` where it exists. -/
def updRing (s : State) (r : RingId) (f : Ring → Ring) : State :=
  match ringOf s r with
  | some x => setRing s r (f x)
  | none => s

/-- The context a ring belongs to; the administrative ring belongs to none. -/
def RingId.ctxNo : RingId → Option Nat
  | .admin => none
  | .ctx n => some n

/-- Step number `i` of the module. -/
def stepOf (s : State) (i : Nat) : Option Step := s.steps.find? fun x => decide (x.id = i)

/-- Removes a step. -/
def dropStep (s : State) (i : Nat) : State := { s with steps := s.steps.filter fun y => decide (y.id ≠ i) }

/-- The image a step runs. -/
def imageOf (s : State) (x : Step) : Option Image := (ctxOf s x.ctx).bind fun c => kfind c.images x.slot

/-! ### Units of a step: lists and fill segments (R55, R161) -/

/-- Changes the unit state of a unit of a step. -/
def Step.unit (x : Step) (k : Nat) : UnitSt := kget {} x.units k

/-- Sets the unit state of a unit of a step. -/
def Step.setUnit (x : Step) (k : Nat) (u : UnitSt) : Step := { x with units := kput x.units k u }

/-- The CYCLEs of the instructions of a unit's list, by the unit's key; a gather station has none. -/
def Image.cyclesOf (img : Image) (k : Nat) : List Nat :=
  if k < 2000 then (kget [] img.piers k).map (·.cycle)
  else if k < 2100 then (kget [] img.vectors (k - 2000)).map (·.cycle)
  else if k < 2200 then (kget [] img.tables (k - 2100)).map (·.cycle)
  else if k < 2300 then []
  else if k < 2400 then (kget [] img.keystones (k - 2300)).map (·.cycle)
  else (kget [] img.fabrics (k - 2400)).map (·.cycle)

/-- The keys of the units with a list. -/
def Image.listKeys (img : Image) : List Nat :=
  img.piers.map (·.1) ++ img.vectors.map (2000 + ·.1) ++ img.tables.map (2100 + ·.1) ++ img.keystones.map (2300 + ·.1) ++
    img.fabrics.map (2400 + ·.1)

/-- The WAIT entry of a wait point. -/
def waitOf (img : Image) (w : Nat) : Option Timing := img.timing.find? fun t => decide (t.kind = 3 ∧ t.id = w)

/-- Fill segments of a wait point, by ascending order number. -/
def segsOf (img : Image) (w : Nat) : List Timing :=
  (img.timing.filter fun t => decide (t.kind = 4 ∧ t.id = w)).mergeSort fun a b => decide (a.arg2 ≤ b.arg2)

/-- A fill segment that the step runs at its wait point: the CYCLE of the wait point, and where the segment lies in a list of
instructions of the CYCLEs `cs`, from its first index up to the index after its last. -/
def segAt (img : Image) (cs : List Nat) (q : Nat × Nat) : Option (Nat × Nat × Nat) :=
  match waitOf img q.1, (segsOf img q.1).find? fun g => decide (g.arg2 = q.2) with
  | some t, some g =>
    some (t.cycle, (cs.filter fun c => decide (c < g.cycle)).length, (cs.filter fun c => decide (c < g.cycle + g.arg1)).length)
  | _, _ => none

/-- A unit at the end of a fill segment goes back to where the segment was called in. -/
def UnitSt.leave (img : Image) (cs : List Nat) (u : UnitSt) : UnitSt :=
  match u.resume, u.ran.getLast?.bind (segAt img cs) with
  | some r, some g => if g.2.2 ≤ u.next then { u with next := r, resume := none } else u
  | _, _ => u

/-- At the tail position of a segment that it has run, a unit skips it. -/
def UnitSt.skipTails (img : Image) (cs : List Nat) (u : UnitSt) : UnitSt :=
  u.ran.foldl (fun u _ =>
    match (u.ran.filterMap (segAt img cs)).find? fun g => decide (g.2.1 ≤ u.next ∧ u.next < g.2.2) with
    | some g => { u with next := g.2.2 }
    | none => u) u

/-- From a wait point on, a unit runs the segments that the step has called in there. -/
def UnitSt.enter (img : Image) (x : Step) (cs : List Nat) (u : UnitSt) : UnitSt :=
  match x.usedSegs.find? fun q => !u.ran.contains q && (match segAt img cs q, cs[u.next]? with
      | some g, some c => decide (g.1 ≤ c ∧ g.2.1 < g.2.2)
      | _, _ => false) with
  | some q => match segAt img cs q with
    | some g => { u with next := g.2.1, resume := some u.next, ran := u.ran ++ [q] }
    | none => u
  | none => u

/-- A unit at its next instruction: its list in order, but for the fill segments run ahead (R161). -/
def UnitSt.located (img : Image) (x : Step) (cs : List Nat) (u : UnitSt) : UnitSt :=
  if x.usedSegs = [] then u
  else
    let u := u.leave img cs
    if u.resume.isSome then u else (u.skipTails img cs).enter img x cs

/-- A unit of a step at its next instruction. -/
def Image.unitAt (img : Image) (x : Step) (k : Nat) : UnitSt := (x.unit k).located img x (img.cyclesOf k)

/-- The cycle of the next instruction of a unit; none when its list is done. -/
def nextCycle (img : Image) (x : Step) (k : Nat) : Option Nat := (img.cyclesOf k)[(img.unitAt x k).next]?

/-- Whether a unit has issued the instruction of index `i` of its list. -/
def Image.hasIssued (img : Image) (x : Step) (k i : Nat) : Bool :=
  let u := img.unitAt x k
  decide (i < u.resume.getD u.next) || u.ran.any fun q =>
    match segAt img (img.cyclesOf k) q with
    | some g => decide (g.2.1 ≤ i ∧ i < g.2.2 ∧ (u.resume.isNone ∨ u.ran.getLast? ≠ some q ∨ i < u.next))
    | none => false

/-- Whether every unit of a step has issued its last instruction, every movement into a tile store has landed and every
k-step has fired (R170). -/
def Image.finished (img : Image) (x : Step) : Bool :=
  (img.listKeys.all fun k => (nextCycle img x k).isNone) && x.inbound.isEmpty && x.units.all fun e => e.2.fills.isEmpty && e.2.mmas.isEmpty

/-- A running step whose units have all finished is staged (R170). -/
def settle (s : State) (x : Step) : Step :=
  match imageOf s x with
  | some img => if x.state = .running ∧ img.finished x then { x with state := .staged } else x
  | none => x

/-- Sets a step. -/
def setStep (s : State) (x : Step) : State :=
  { s with steps := s.steps.map fun y => if y.id = x.id then settle s x else y }

/-- Whether the units of a step are at work: running, or staged with landings still to come. -/
def StepState.working : StepState → Bool
  | .running | .staged => true
  | _ => false

/-- Whether a step holds claims: admitted, running or staged (R170). -/
def StepState.live : StepState → Bool
  | .admitted | .running | .staged => true
  | _ => false

/-- Whether a step counts as admitted for a service stop or a swap (R315): a step in decision hold does,
and so does one killed for re-run. -/
def Step.countsAdmitted (x : Step) : Bool := x.state.live || decide (x.state = .hold) || x.rerun

/-- Whether some step of context `n` counts as admitted. -/
def ctxBusy (s : State) (n : Nat) : Bool := s.steps.any fun x => decide (x.ctx = n) && x.countsAdmitted

/-- The key under which a step keeps a unit's sequencer. -/
def UnitRef.key : UnitRef → Nat
  | .pier p => p
  | .vector s => 2000 + s
  | .table s => 2100 + s
  | .gather s => 2200 + s
  | .keystone b => 2300 + b
  | .abutment q => 2400 + q

/-- The unit of a key. -/
def keyUnit (k : Nat) : UnitRef :=
  if k < 2000 then .pier k else if k < 2100 then .vector (k - 2000) else if k < 2200 then .table (k - 2100)
  else if k < 2300 then .gather (k - 2200) else if k < 2400 then .keystone (k - 2300) else .abutment (k - 2400)

/-- The kind and index of a unit as DETAIL_KIND UNIT of R354 lays them out. -/
def UnitRef.detail : UnitRef → Nat
  | .pier p => 16 * p
  | .vector s => 1 + 16 * s
  | .table s => 2 + 16 * s
  | .gather s => 3 + 16 * s
  | .keystone b => 4 + 16 * b
  | .abutment q => 5 + 16 * q

/-- The stream state of descriptor `d` of a step. -/
def Step.stream (x : Step) (d : Nat) : StreamSt := kget {} x.streams d

/-- Sets the stream state of descriptor `d`. -/
def Step.setStream (x : Step) (d : Nat) (t : StreamSt) : Step := { x with streams := kput x.streams d t }

/-- Stack `b` of stacked memory. -/
def stackOf (s : State) (b : Nat) : Stack := kget {} s.sm.stk b

/-- Sets stack `b`. -/
def setStack (s : State) (b : Nat) (k : Stack) : State := { s with sm := { s.sm with stk := kput s.sm.stk b k } }

/-- Port `q`. -/
def portOf (s : State) (q : Nat) : Port := kget {} s.ports q

/-- Sets port `q`. -/
def setPort (s : State) (q : Nat) (p : Port) : State := { s with ports := kput s.ports q p }

/-- Advances counter `i` of port `q` (R269). -/
def bumpPort (s : State) (q i n : Nat) : State :=
  let p := portOf s q
  setPort s q { p with counters := kset 0 p.counters i (satAdd max64 (kget 0 p.counters i) n) }

/-- Advances transport counter `i` (R281). -/
def bumpSlory (s : State) (i n : Nat) : State :=
  { s with slory := { s.slory with counters := kset 0 s.slory.counters i (satAdd max64 (kget 0 s.slory.counters i) n) } }

/-- Records something that crosses a boundary. -/
def emit (s : State) (o : Output) : State := { s with out := o :: s.out }

/-- Whether boot is complete (R419): the module has reached READY since the reset. -/
def isReady (s : State) : Bool := s.boot.ready

/-- What an empty queue does: one timebase tick of 10 ns, 7,500 / S arithmetic cycles (R18, R396). -/
def tick (s : State) : State :=
  if s.boot.powered then
    let a := s.clk.acc + 7500
    { s with clk := { uptime := satAdd max64 s.clk.uptime 1, acc := a % s.power.stretch, cycles := s.clk.cycles + a / s.power.stretch } }
  else s

end Sys2Proof.Machine
end

