-- ==== Sys2Proof/Machine/Float.lean ====
section
/-! DEFINITION. The six number formats and their arithmetic, exactly and with one rounding to nearest,
ties to even (R26 to R41). A result comes with the flags it raises, in the bit positions of R42. -/

namespace Sys2Proof.Machine

/-- A decoded value: NaN, an infinity, or (−1)^neg × m × 2^e. -/
inductive FV where
  | nan
  | inf (neg : Bool)
  | fin (neg : Bool) (m : Nat) (e : Int)
  deriving DecidableEq, Repr

/-! ### The formats (R26) -/

/-- Exponent bits. -/
def Fmt.ebits : Fmt → Nat
  | .bf16 => 8 | .fp16 => 5 | .e4m3 => 4 | .e5m2 => 5 | .fp32 => 8 | .fp64 => 11

/-- Fraction bits. -/
def Fmt.fbits : Fmt → Nat
  | .bf16 => 7 | .fp16 => 10 | .e4m3 => 3 | .e5m2 => 2 | .fp32 => 23 | .fp64 => 52

/-- Width in bits. -/
def Fmt.width (f : Fmt) : Nat := 1 + f.ebits + f.fbits

/-- Width in bytes. -/
def Fmt.size (f : Fmt) : Nat := f.width / 8

/-- Exponent bias. -/
def Fmt.bias (f : Fmt) : Nat := 2 ^ (f.ebits - 1) - 1

/-- Biased exponent of all ones. -/
def Fmt.etop (f : Fmt) : Nat := 2 ^ f.ebits - 1

/-- Encoding of the sign bit. -/
def Fmt.sbit (f : Fmt) : Nat := 2 ^ (f.ebits + f.fbits)

/-- +Inf of a format that has it (R27). -/
def Fmt.infEnc (f : Fmt) : Nat := f.etop <<< f.fbits

/-- The default NaN (R27, R28). -/
def Fmt.dnan (f : Fmt) : Nat :=
  match f with
  | .e4m3 => 0x7F
  | _ => f.infEnc + 2 ^ (f.fbits - 1)

/-- The largest finite encoding (R27). -/
def Fmt.maxEnc (f : Fmt) : Nat :=
  match f with
  | .e4m3 => 0x7E
  | _ => f.infEnc - 1

/-- A sign over a magnitude encoding. -/
def Fmt.withSign (f : Fmt) (neg : Bool) (mag : Nat) : Nat := if neg then f.sbit + mag else mag

/-- The value of an encoding (R26); every NaN encoding is NaN (R28). -/
def fdec (f : Fmt) (x : Nat) : FV :=
  let neg := x.testBit (f.ebits + f.fbits)
  let e := (x >>> f.fbits) % 2 ^ f.ebits
  let m := x % 2 ^ f.fbits
  if f = .e4m3 ∧ e = 15 ∧ m = 7 then .nan
  else if f ≠ .e4m3 ∧ e = f.etop then (if m = 0 then .inf neg else .nan)
  else if e = 0 then .fin neg m (1 - (f.bias : Int) - f.fbits)
  else .fin neg (2 ^ f.fbits + m) ((e : Int) - f.bias - f.fbits)

/-! ### Rounding (R38) -/

/-- Divides by 2^d, to nearest with ties to even. -/
def rneShift (m d : Nat) : Nat :=
  let q := m >>> d
  let r := m % 2 ^ d
  if d = 0 then m
  else if r > 2 ^ (d - 1) ∨ (r = 2 ^ (d - 1) ∧ q % 2 = 1) then q + 1 else q

/-- The magnitude encoding of m × 2^e rounded to the precision of `f`, subnormals included, with an unbounded
exponent: an encoding above the largest finite one is an overflow. -/
def roundMag (f : Fmt) (m : Nat) (e : Int) : Nat :=
  if m = 0 then 0
  else
    let emin : Int := 1 - (f.bias : Int)
    let top : Int := max ((m.log2 : Int) + e) emin
    let q : Int := top - f.fbits
    let sig := if q ≤ e then m <<< (e - q).toNat else rneShift m (q - e).toNat
    ((top - emin).toNat <<< f.fbits) + sig

/-- Whether m × 2^e exceeds m' × 2^e'. -/
def magGt (m : Nat) (e : Int) (m' : Nat) (e' : Int) : Bool :=
  if e ≤ e' then decide (m' <<< (e' - e).toNat < m) else decide (m' < m <<< (e - e').toNat)

/-- Conversion into `f` under R38: the encoding and the flags. -/
def fcvt (f : Fmt) : FV → Nat × Nat
  | .nan => (f.dnan, 0)
  | .inf neg => if f = .e4m3 then (f.withSign neg f.maxEnc, 16) else (f.withSign neg f.infEnc, 0)
  | .fin neg m e =>
    if f = .e4m3 ∨ f = .e5m2 then
      match fdec f f.maxEnc with
      | .fin _ mm me => if magGt m e mm me then (f.withSign neg f.maxEnc, 16) else (f.withSign neg (roundMag f m e), 0)
      | _ => (f.dnan, 0)
    else
      let r := roundMag f m e
      if f.maxEnc < r then (f.withSign neg f.infEnc, 8) else (f.withSign neg r, 0)

/-- Conversion from one format to another (R38, R39). -/
def fconv (src dst : Fmt) (x : Nat) : Nat × Nat := fcvt dst (fdec src x)

/-! ### Classes -/

/-- Whether a value is NaN. -/
def FV.isNan : FV → Bool
  | .nan => true
  | _ => false

/-- Whether a value is finite. -/
def FV.isFin : FV → Bool
  | .fin _ _ _ => true
  | _ => false

/-- Whether a value is a zero. -/
def FV.isZero : FV → Bool
  | .fin _ m _ => decide (m = 0)
  | _ => false

/-- The sign of a value that has one. -/
def FV.neg : FV → Bool
  | .nan => false
  | .inf n => n
  | .fin n _ _ => n

/-- The value with the other sign. -/
def FV.flip : FV → FV
  | .nan => .nan
  | .inf n => .inf (!n)
  | .fin n m e => .fin (!n) m e

/-- The magnitude. -/
def FV.magn : FV → FV
  | .nan => .nan
  | .inf _ => .inf false
  | .fin _ m e => .fin false m e

/-- The value times 2^k. -/
def FV.scale (k : Int) : FV → FV
  | .fin n m e => .fin n m (e + k)
  | x => x

/-! ### Arithmetic with one rounding (R32 to R35, R41) -/

/-- The exact sum of two finite values, with the zero-sign rule of R34. -/
def finAdd (n₁ : Bool) (m₁ : Nat) (e₁ : Int) (n₂ : Bool) (m₂ : Nat) (e₂ : Int) : FV :=
  let e := min e₁ e₂
  let a : Int := ((m₁ <<< (e₁ - e).toNat : Nat) : Int)
  let b : Int := ((m₂ <<< (e₂ - e).toNat : Nat) : Int)
  let s : Int := (if n₁ then -a else a) + (if n₂ then -b else b)
  if s = 0 then .fin (n₁ && n₂ && decide (m₁ = 0 ∧ m₂ = 0)) 0 0
  else .fin (decide (s < 0)) s.natAbs e

/-- Sum without the NI flag: IV for infinities of opposite sign, OV for an overflow (R33, R34). -/
def faddV (f : Fmt) (x y : FV) : Nat × Nat :=
  match x, y with
  | .nan, _ => (f.dnan, 0)
  | _, .nan => (f.dnan, 0)
  | .inf a, .inf b => if a = b then (f.withSign a f.infEnc, 0) else (f.dnan, 4)
  | .inf a, .fin _ _ _ => (f.withSign a f.infEnc, 0)
  | .fin _ _ _, .inf b => (f.withSign b f.infEnc, 0)
  | .fin n₁ m₁ e₁, .fin n₂ m₂ e₂ => fcvt f (finAdd n₁ m₁ e₁ n₂ m₂ e₂)

/-- The exact product of two values, with ZI for 0 × Inf (R32). -/
def mulV (x y : FV) : FV × Nat :=
  match x, y with
  | .nan, _ => (.nan, 0)
  | _, .nan => (.nan, 0)
  | .inf a, .inf b => (.inf (a != b), 0)
  | .inf a, .fin b m _ => if m = 0 then (.nan, 2) else (.inf (a != b), 0)
  | .fin a m _, .inf b => if m = 0 then (.nan, 2) else (.inf (a != b), 0)
  | .fin n₁ m₁ e₁, .fin n₂ m₂ e₂ => (.fin (n₁ != n₂) (m₁ * m₂) (e₁ + e₂), 0)

/-- NI where an operand is NaN (R42). -/
def niOf (xs : List FV) : Nat := if xs.any FV.isNan then 1 else 0

/-- Product of R32: NI, then ZI, then one rounding with OV. -/
def fmulV (f : Fmt) (x y : FV) : Nat × Nat :=
  let p := mulV x y
  let r := fcvt f p.1
  (r.1, niOf [x, y] ||| p.2 ||| r.2)

/-- One k-step of one cell (R33): `first` is true for the first product of an overwrite instruction. -/
def mac (bank : BitVec 32) (a b : FV) (first : Bool) : BitVec 32 × Nat :=
  let p := fmulV .fp32 a b
  if first then (BitVec.ofNat 32 p.1, p.2)
  else
    let s := faddV .fp32 (fdec .fp32 bank.toNat) (fdec .fp32 p.1)
    (BitVec.ofNat 32 s.1, p.2 ||| s.2)

/-- Station addition (R41). -/
def fadd (f : Fmt) (x y : FV) : Nat × Nat :=
  let s := faddV f x y
  (s.1, niOf [x, y] ||| s.2)

/-- Station subtraction. -/
def fsub (f : Fmt) (x y : FV) : Nat × Nat := fadd f x y.flip

/-- Fused multiply-add: 0 × Inf gives the default NaN before the addend is considered (R41). -/
def ffma (f : Fmt) (x y z : FV) : Nat × Nat :=
  let p := mulV x y
  if p.2 = 0 then
    let s := faddV f p.1 z
    (s.1, niOf [x, y, z] ||| s.2)
  else (f.dnan, p.2)

/-- Strict order of values that are not NaN, −0 below +0 where `zeros` holds. -/
def fltV (zeros : Bool) (x y : FV) : Bool :=
  match x, y with
  | .nan, _ => false
  | _, .nan => false
  | .inf a, .inf b => a && !b
  | .inf a, .fin _ _ _ => a
  | .fin _ _ _, .inf b => !b
  | .fin n₁ m₁ e₁, .fin n₂ m₂ e₂ =>
    if m₁ = 0 ∧ m₂ = 0 then zeros && n₁ && !n₂
    else
      match finAdd n₁ m₁ e₁ (!n₂) m₂ e₂ with
      | .fin neg m _ => neg && decide (m ≠ 0)
      | _ => false

/-- Equality of values, ±0 equal; NaN equals nothing. -/
def feqV (x y : FV) : Bool := !x.isNan && !y.isNan && !fltV false x y && !fltV false y x

/-- Minimum and maximum: the default NaN with NI on a NaN, −0 below +0 (R41). -/
def fminV (f : Fmt) (x y : FV) : Nat × Nat :=
  if niOf [x, y] = 1 then (f.dnan, 1) else fcvt f (if fltV true y x then y else x)

/-- See `fminV`. -/
def fmaxV (f : Fmt) (x y : FV) : Nat × Nat :=
  if niOf [x, y] = 1 then (f.dnan, 1) else fcvt f (if fltV true x y then y else x)

/-- Correctly rounded division, with the special cases of R43. -/
def fdivV (f : Fmt) (x y : FV) : Nat × Nat :=
  match x, y with
  | .nan, _ => (f.dnan, 1)
  | _, .nan => (f.dnan, 1)
  | .inf _, .inf _ => (f.dnan, 4)
  | .inf a, .fin b _ _ => (f.withSign (a != b) f.infEnc, 0)
  | .fin a _ _, .inf b => (f.withSign (a != b) 0, 0)
  | .fin a m₁ e₁, .fin b m₂ e₂ =>
    if m₂ = 0 then (if m₁ = 0 then (f.dnan, 4) else (f.withSign (a != b) f.infEnc, 8))
    else
      let k := f.fbits + 4 + m₂.log2
      let q := (m₁ <<< k) / m₂
      let sticky := if (m₁ <<< k) % m₂ = 0 then 0 else 1
      fcvt f (.fin (a != b) (2 * q + sticky) (e₁ - e₂ - k - 1))

/-- Integer square root of `x`, found bit by bit below 2^n. -/
def isqrtGo (x : Nat) : Nat → Nat → Nat
  | 0, r => r
  | n + 1, r => if (r + 2 ^ n) * (r + 2 ^ n) ≤ x then isqrtGo x n (r + 2 ^ n) else isqrtGo x n r

/-- Integer square root. -/
def isqrt (x : Nat) : Nat := isqrtGo x (x.log2 / 2 + 1) 0

/-- m × 2^e with an even exponent. -/
def evenExp (m : Nat) (e : Int) : Nat × Int := if e % 2 = 0 then (m, e) else (2 * m, e - 1)

/-- Correctly rounded square root; −0 gives −0, another negative operand IV (R43, R137). -/
def fsqrtV (f : Fmt) : FV → Nat × Nat
  | .nan => (f.dnan, 1)
  | .inf n => if n then (f.dnan, 4) else (f.infEnc, 0)
  | .fin n m e =>
    if m = 0 then (f.withSign n 0, 0)
    else if n then (f.dnan, 4)
    else
      let x := evenExp m e
      let k := f.fbits + 3
      let y := x.1 <<< (2 * k)
      let r := isqrt y
      fcvt f (.fin false (2 * r + (if r * r = y then 0 else 1)) (x.2 / 2 - k - 1))

/-- Correctly rounded reciprocal square root (R43, R137). -/
def frsqrtV (f : Fmt) : FV → Nat × Nat
  | .nan => (f.dnan, 1)
  | .inf n => if n then (f.dnan, 4) else (0, 0)
  | .fin n m e =>
    if m = 0 then (f.withSign n f.infEnc, 8)
    else if n then (f.dnan, 4)
    else
      let x := evenExp m e
      let k := f.fbits + 4 + x.1.log2
      let y := 2 ^ (2 * k)
      let r := isqrt (y / x.1)
      fcvt f (.fin false (2 * r + (if r * r * x.1 = y then 0 else 1)) (-(x.2 / 2) - k - 1))

/-- The value of an FP32 word. -/
def dec32 (x : Nat) : FV := fdec .fp32 x

/-- The value of an FP64 word. -/
def dec64 (x : Nat) : FV := fdec .fp64 x

end Sys2Proof.Machine
end

