-- ==== Sys2Proof/Machine/Operands.lean ====
section
/-! DEFINITION. Operand forms: tiles and blocks (R119 to R121), stream descriptors and their addresses
(R122, R123), predicates and fill values (R99, R125), tags (R198), feeder slots (R60, R61) and the
sequencers that issue the instructions of a unit's list (R55, R136, R158). -/

namespace Sys2Proof.Machine

/-! ### Tiles and blocks -/

/-- Blocks of a tile (R119). -/
def Desc.nb (d : Desc) : Nat := (d.rows / 8) * (d.cols / 8)

/-- Bytes of one block (R120). -/
def Desc.blockBytes (d : Desc) : Nat := 64 * d.fmt.size

/-- Whether block `i` of a tile is present under the descriptor's map (R90, R92). -/
def present (img : Image) (d : Desc) (i : Nat) : Bool :=
  match d.map with
  | none => true
  | some m =>
    match img.maps[m]? with
    | some b => b.bits.testBit i
    | none => true

/-- Present blocks of a tile, in block order. -/
def presentIdx (img : Image) (d : Desc) : List Nat := (List.range d.nb).filter (present img d)

/-- Number of present blocks of a tile. -/
def presentCount (img : Image) (d : Desc) : Nat := (presentIdx img d).length

/-- Present blocks of a whole stream. -/
def streamLen (img : Image) (d : Desc) : Nat := presentCount img d * d.tiles

/-- Address of tile `n` (R123). -/
def tileAddr (d : Desc) (n : Nat) : Nat := d.base + (n % d.rowTiles) * d.stride0 + (n / d.rowTiles) * d.stride1

/-- Byte offset of block `i` within a stored tile: spaced under R120, packed under R121. -/
def blockOff (img : Image) (d : Desc) (i : Nat) : Nat :=
  if d.packed then d.blockBytes * ((presentIdx img d).filter fun j => decide (j < i)).length else d.blockBytes * i

/-- Address of the `k`-th present block of a stream, counted from block 0 of tile 0. -/
def blockAddr (img : Image) (d : Desc) (k : Nat) : Nat :=
  let p := presentCount img d
  tileAddr d (k / p) + blockOff img d ((presentIdx img d).getD (k % p) 0)

/-- Byte offset of element (i, j) of a spaced tile (R120). -/
def elemOff (d : Desc) (i j : Nat) : Nat :=
  d.fmt.size * (64 * ((i / 8) * (d.cols / 8) + j / 8) + 8 * (i % 8) + j % 8)

/-- Fill value of absent blocks and predicated elements (R99). Its table has no FP64 column: NEG_INF of an FP64 stream is -Inf (DESIGN
CHOICE, log entry 91). -/
def fillBits (d : Desc) : Nat :=
  if d.negInf then (if d.fmt = .e4m3 then 0xFE else d.fmt.withSign true d.fmt.infEnc) else 0

/-- Row and column position of element (i, j) of tile `n` (R125). -/
def posOf (d : Desc) (n i j : Nat) : Nat × Nat :=
  (d.posRow + (n / d.rowTiles) * d.rows + i, d.posCol + (n % d.rowTiles) * d.cols + j)

/-- Whether the predicate keeps element (i, j) of tile `n` (R125). -/
def keeps (d : Desc) (n i j : Nat) : Bool :=
  let p := posOf d n i j
  match d.pred with
  | 1 => decide (p.2 ≤ p.1)
  | 2 => decide (p.1 < p.2 + d.predArg ∧ p.2 ≤ p.1)
  | 3 => decide (p.1 < d.predArg)
  | 4 => decide (p.2 < d.predArg)
  | _ => true

/-- The bits of element `e` of a block. -/
def blockElem (f : Fmt) (b : Bytes) (e : Nat) : Nat := leAt b (e * f.size) f.size

/-- The bytes of a block from its 64 elements. -/
def blockOf (f : Fmt) (xs : List Nat) : Bytes := xs.flatMap (leBytes f.size)

/-- Whether every element of a line is +0 or −0 in format `f` (R100). -/
def allZero (f : Fmt) (b : Bytes) : Bool :=
  (List.range (b.length / f.size)).all fun e => decide (blockElem f b e % f.sbit = 0)

/-! ### Descriptors of a step -/

/-- Descriptor `i` of a step's image, with the BASE that STEP_RUN bound to it (R122, R365). -/
def descOf (img : Image) (x : Step) (i : Nat) : Option Desc :=
  (img.descs[i]?).map fun d =>
    match x.bindings.find? fun b => decide (b.1 = i) with
    | some b => { d with base := b.2 }
    | none => d

/-- The binding-table entry of a kind that names stream `i` (R184). -/
def bindOf (img : Image) (kind i : Nat) : Option Bind :=
  img.binds.find? fun b => decide (b.kind = kind ∧ b.stream = i)

/-! ### Tags (R198) -/

/-- The stored tag of tile `n` of a stream: as read from storage for a stream of SPACE 00b, else as produced; 7 stands for
the tag of the same tile of the TAG source (R198). -/
def deliveredTag (img : Image) (x : Step) (i : Nat) (d : Desc) (n : Nat) : Option Nat :=
  let k := n * presentCount img d
  let t := x.stream i
  ((if d.space = 0 then t.fetched[k]? else none).or t.blocks[k]?).map (·.tag)

/-- The tag of tile `n` of stream `i`, following TAG entries; none where the tile, or the tile it takes its tag from, has not
been produced (R198). -/
def tagOf (img : Image) (x : Step) : Nat → Nat → Nat → Option Nat
  | 0, _, _ => none
  | f + 1, i, n =>
    match descOf img x i with
    | none => none
    | some d =>
      match deliveredTag img x i d n with
      | none => none
      | some t =>
        if t ≠ 7 then some t
        else match bindOf img 1 i with
          | some b => tagOf img x f b.source n
          | none => none

/-- The tag tile `n` of stream `i` takes, `dflt` standing for the rows of R198 that name no TAG source;
none where the source tile has not been produced. -/
def tagFor (img : Image) (x : Step) (i n dflt : Nat) : Option Nat :=
  match descOf img x i, bindOf img 1 i with
  | some d, some b => if d.stash = 7 then tagOf img x (img.binds.length + 1) b.source n else some dflt
  | _, _ => some dflt

/-- The tag of tile `n` as a station reads it, once it is known. -/
def readTag (img : Image) (x : Step) (i n : Nat) (d : Desc) : Option Nat :=
  match tagOf img x (img.binds.length + 1) i n with
  | some t => some t
  | none => tagFor img x i n d.stash

/-! ### Stacked-memory addresses (R231, R232, R248, R373, R375) -/

/-- Stack of a physical address: PA[14:12] XOR PA[17:15] (R232). -/
def paStack (pa : Nat) : Nat := fld pa 14 12 ^^^ fld pa 17 15

/-- Channel of a physical address (R232). -/
def paChannel (pa : Nat) : Nat := fld pa 11 7

/-- Channel-local address {PA[37:15], PA[6:0]}, within the channel's 1 GiB (R232). -/
def paChannelLocal (pa : Nat) : Nat := (pa >>> 15) * 2 ^ 7 + pa % 2 ^ 7

/-- Granule of a physical address within its stack (R248). -/
def paGranule (pa : Nat) : Nat := fld pa 37 19

/-- Line within the granule, in ascending physical address (R242). -/
def paLine (pa : Nat) : Nat := fld pa 18 15 * 32 + paChannel pa

/-- Stack-local address SA[34:0] = (PA[37:15], PA[11:0]) (R232). -/
def paLocal (pa : Nat) : Nat := (pa >>> 15) * 2 ^ 12 + pa % 2 ^ 12

/-- The first granule of the spare pool (R231). -/
def spareFirst : Nat := 523776

/-- Key of a granule of a stack. -/
def granKey (b g : Nat) : Nat := b * 524288 + g

/-- Where an access goes: a retired granule is redirected to its spare (R248 action 4). -/
def resolve (s : State) (pa : Nat) : Nat :=
  match kfind s.store.retired (granKey (paStack pa) (paGranule pa)) with
  | some k => (spareFirst + k) * 524288 + pa % 524288
  | none => pa

/-- First byte of the host-window part of a virtual space (R373). -/
def windowBase : Nat := 274877906944

/-- The physical address of a mapped virtual address of a context (R375). -/
def paOf (c : Ctx) (va : Nat) : Option Nat := (kfind c.pageMap (va / 2097152)).map fun f => f * 2097152 + va % 2097152

/-- Reads `n` bytes of a context's stacked-memory range as step `st` sees them at nominal cycle `cyc` (R235). -/
def readVa (s : State) (c : Ctx) (st cyc va n : Nat) : Bytes :=
  (List.range n).map fun i =>
    match paOf c (va + i) with
    | some pa => vread 0 s.sm.mem st cyc (resolve s pa)
    | none => 0

/-! ### Station reads and writes -/

/-- First byte of a span's local store. -/
def locBase (sp : Nat) : Nat := sp * 1048576

/-- Whether a vector operation reads SRC_B (R137). -/
def vopUsesB (v : Nat) : Bool := v ∈ [0x01, 0x02, 0x03, 0x04, 0x05, 0x06, 0x07, 0x0C, 0x10]

/-- Whether a vector operation reads SRC_C. -/
def vopUsesC (v : Nat) : Bool := v ∈ [0x04, 0x0C]

/-- Whether a vector operation reads SRC_A and writes DST: all but POS and FLAG_CLEAR read, all but FLAG_CLEAR write. -/
def vopUsesA (v : Nat) : Bool := decide (v ≠ 0x30 ∧ v ≠ 0x3F)

/-- Whether a vector instruction reads stream `i`. -/
def vopReads (q : VecIns) (i : Nat) : Bool :=
  (vopUsesA q.vop && decide (q.srcA = i)) || (vopUsesB q.vop && decide (q.srcB = i)) || (vopUsesC q.vop && decide (q.srcC = i))

/-- The nominal cycle at which a pier's list first moves block `k` of stream `i` out. `pos` counts the blocks moved before. -/
def movedOutAt (img : Image) (i k : Nat) : List PierIns → Nat → Option Nat
  | [], _ => none
  | q :: t, pos =>
    let n := match q.op with
      | .tileOut e _ => if e = i then ((img.descs[i]?).map (presentCount img)).getD 0 else 0
      | .blocksOut e _ n => if e = i then n else 0
      | _ => 0
    if pos ≤ k ∧ k < pos + n then some q.cycle else movedOutAt img i k t (pos + n)

/-- The nominal cycles of the instructions that produce block `k` of stream `i`: the CYCLE of the pier or station
instruction, of the fabric entry or of the binding; a routing has none, and counts as 0 (R134, R235, R470). -/
def producedAt (img : Image) (i k : Nat) : List Nat :=
  (img.piers.filterMap fun p => movedOutAt img i k p.2 0) ++
    ((img.vectors ++ img.tables).flatMap fun v => v.2.filterMap fun q => if q.vop ≠ 0x3F ∧ q.dst = i then some q.cycle else none) ++
    (img.fabrics.flatMap fun v => v.2.filterMap fun q => if q.desc = i ∧ (q.fop = 2 ∨ q.fop = 4 ∨ q.fop = 6) then some q.cycle else none) ++
    (img.binds.filterMap fun w => if (w.kind = 6 ∧ (w.count = i ∨ w.aux = i)) ∨ (w.kind = 7 ∧ w.aux = i) then some w.cycle else none) ++
    (img.routings.filterMap fun r => if r.dispatch = i then some 0 else none)

/-- Whether a block of the step, of nominal cycle below `cyc`, has still to reach its place in storage among the `n` bytes at
`a` of SPACE `d.space`: the write is in flight or to come (R134, R235, R470). -/
def writeAhead (img : Image) (x : Step) (d : Desc) (cyc a n : Nat) : Bool :=
  img.writes.any fun j =>
    match descOf img x j with
    | none => false
    | some e =>
      decide (e.space = d.space ∧ (d.space = 1 → e.span = d.span)) && (bindOf img 2 j).isNone &&
        ((List.range (streamLen img e)).any fun m =>
          decide ((x.stream j).memPos ≤ m ∧ blockAddr img e m < a + n ∧ a < blockAddr img e m + e.blockBytes) &&
            (producedAt img j m).any fun p => decide (p < cyc))

/-- Whether a stream of SPACE 00b lies in the context's stacked memory at its own addresses: not in a ring copy and not in a
host window (R181, R339). -/
def inMemory (img : Image) (d : Desc) (i : Nat) : Bool := decide (d.space = 0 ∧ d.base < windowBase) && (bindOf img 2 i).isNone

/-- The bytes of the `k`-th present block of a stream for a consumer of nominal cycle `cyc`: from the deck, from what storage
has returned, from the local store for SPACE 01b (R151). A stream in stacked memory reads as the writes of earlier nominal
cycle left it, and waits for those still to come (R235, R470). -/
def sourceBlock (s : State) (img : Image) (x : Step) (i : Nat) (d : Desc) (cyc k : Nat) : Option Bytes :=
  let a := blockAddr img d k
  let ready := !writeAhead img x d cyc a d.blockBytes
  if d.space = 1 then
    if decide (k < streamLen img d) && ready then some (vreadRun 0 s.pm.loc x.id cyc (locBase d.span + a) d.blockBytes) else none
  else if d.space = 0 then
    match (x.stream i).fetched[k]?, ctxOf s x.ctx with
    | some b, some c => if !inMemory img d i then some b.bytes else if ready then some (readVa s c x.id cyc a d.blockBytes) else none
    | _, _ => none
  else ((x.stream i).blocks[k]?).map (·.bytes)

/-- The blocks of tile `n` as a station reads them, in block order, none standing for an absent block; the
whole answer is none where a present block has not arrived. -/
def tileBlocks (s : State) (img : Image) (x : Step) (i : Nat) (d : Desc) (cyc n : Nat) : Option (List (Option Bytes)) :=
  (List.range d.nb).mapM fun b =>
    if present img d b then
      (sourceBlock s img x i d cyc (n * presentCount img d + ((presentIdx img d).filter fun j => decide (j < b)).length)).map some
    else some none

/-- The bits of element (i, j) of tile `n` as a station reads it (R99, R125). -/
def tileElem (d : Desc) (bs : List (Option Bytes)) (n i j : Nat) : Nat :=
  if keeps d n i j then
    match (bs[(i / 8) * (d.cols / 8) + j / 8]?).join with
    | some b => blockElem d.fmt b (8 * (i % 8) + j % 8)
    | none => fillBits d
  else fillBits d

/-- All tiles of a stream. -/
def streamTiles (s : State) (img : Image) (x : Step) (i : Nat) (d : Desc) (cyc : Nat) : Option (List (List (Option Bytes))) :=
  (List.range d.tiles).mapM (tileBlocks s img x i d cyc)

/-- Appends blocks to a stream on the deck. -/
def produce (x : Step) (i : Nat) (bs : List StreamBlock) : Step :=
  let t := x.stream i
  { x.setStream i { t with blocks := t.blocks ++ bs } with activity := { x.activity with deck := x.activity.deck + bs.length } }

/-- Blocks of a stream reach the deck from its storage (R152, R189). -/
def fetch (x : Step) (i : Nat) (bs : List StreamBlock) : Step :=
  let t := x.stream i
  { x.setStream i { t with fetched := t.fetched ++ bs } with activity := { x.activity with deck := x.activity.deck + bs.length } }

/-- A station writes the present blocks of a tile: into its own local store for a stream of SPACE 01b on its
span, otherwise onto the deck. `elem` gives the bits of each element; `tag` the tile's tag. -/
def stationWrite (s : State) (img : Image) (x : Step) (sp i : Nat) (d : Desc) (cyc n tag : Nat) (elem : Nat → Nat → Nat) :
    State × Step :=
  let blk := fun b => blockOf d.fmt ((List.range 64).map fun e => elem (8 * (b / (d.cols / 8)) + e / 8) (8 * (b % (d.cols / 8)) + e % 8))
  let bs := (presentIdx img d).map fun b => (b, blk b)
  let x' := produce x i (bs.map fun b => ⟨b.2, tag, cyc⟩)
  if d.space = 1 ∧ d.span = sp then
    let loc := bs.foldl (fun m b => vwriteRun m x.id cyc (locBase sp + tileAddr d n + blockOff img d b.1) b.2) s.pm.loc
    let t := x'.stream i
    ({ s with pm := { s.pm with loc := loc } }, x'.setStream i { t with memPos := t.memPos + bs.length })
  else (s, x')

/-! ### Feeder slots (R60, R61) -/

/-- Global index of array `i` of pier `p` (R14). -/
def arrayNo (p i : Nat) : Nat := 64 * p + i

/-- A slot counted in 64-byte units: slots 2s and 2s + 1 of an 8-bit format are slot s of a 16-bit one (R60). -/
def slotUnit (f : Fmt) (slot : Nat) : Nat := if f.size = 2 then 2 * slot else slot

/-- First byte of a feeder slot among all feeders. -/
def slotKey (a : Nat) (sideB : Bool) (f : Fmt) (slot : Nat) : Nat := a * 4096 + b2n sideB * 2048 + 64 * slotUnit f slot

/-- Key of a slot's skipped-block mark. -/
def markKey (a : Nat) (sideB : Bool) (f : Fmt) (slot : Nat) : Nat := a * 64 + b2n sideB * 32 + slotUnit f slot

/-- Key of element (r, c) of a bank. -/
def bankKey (a bank r c : Nat) : Nat := (a * 4 + bank) * 64 + 8 * r + c

/-- First byte of a tile-store line. -/
def lineKey (p line : Nat) : Nat := p * 262144 + line * 64

/-- Lines one block takes in a tile store (R133). -/
def blockLines (f : Fmt) : Nat := f.size

/-- Selected arrays of a mask, in order of rank (R58). -/
def maskArrays (m : BitVec 64) : List Nat := (List.range 64).filter fun i => m.getLsbD i

/-! ### Resident ranges (R200) -/

/-- Key of a resident range: pier, live first line, shadow first line and COUNT identify it. -/
def rangeKey (b : Bind) : Nat := ((b.aux * 4096 + b.stream) * 4096 + b.cycle) * 4097 + b.count

/-- The line that holds an instruction's line of a pier, under the parity of the ranges. -/
def residentLine (img : Image) (c : Ctx) (p line : Nat) : Nat :=
  match img.binds.find? fun b => decide (b.kind = 5 ∧ b.aux = p ∧
      ((b.stream ≤ line ∧ line < b.stream + b.count) ∨ (b.cycle ≤ line ∧ line < b.cycle + b.count))) with
  | some b =>
    if kget false c.resParity (rangeKey b) then
      (if b.stream ≤ line ∧ line < b.stream + b.count then b.cycle + (line - b.stream) else b.stream + (line - b.cycle))
    else line
  | none => line

/-- The shadow range that a line belongs to. -/
def shadowOf (img : Image) (p line : Nat) : Option Nat :=
  (img.binds.find? fun b => decide (b.kind = 5 ∧ b.aux = p ∧ b.cycle ≤ line ∧ line < b.cycle + b.count)).map rangeKey

/-- Whether a line is one of the null lines of a pier (R95). -/
def nullLine (img : Image) (p line : Nat) : Bool := img.nulls.any fun n => decide (n.1 = p ∧ n.2 ≤ line ∧ line < n.2 + 2)

/-- The line from which the blocks of a stream movement count: a spaced tile keeps the places of its absent blocks, so the
first present block of a whole tile stands above ADDR by the blocks that are absent before it; a run of blocks begins with
its first block at ADDR (R92, R120, R133). -/
def moveBase (img : Image) (d : Desc) (tile : Bool) (addr : Nat) : Nat :=
  if tile && !d.packed then addr + blockLines d.fmt * (presentIdx img d).headD 0 else addr

/-- The line offset, from the first block moved, of the `j`-th block of a stream movement that begins at
position `first` (R133). -/
def moveLine (img : Image) (d : Desc) (first j : Nat) : Nat :=
  let c := presentCount img d
  let absIdx := fun k => (k / c) * d.nb + (presentIdx img d).getD (k % c) 0
  blockLines d.fmt * (if d.packed then j else absIdx (first + j) - absIdx first)

/-- Whether a stream movement of the step into line `line` of pier `p`, of nominal cycle below `cyc`, has not
landed there yet (R134). -/
def awaitsLine (img : Image) (x : Step) (p line cyc : Nat) : Bool :=
  x.inbound.any fun w =>
    match img.descs[w.desc]? with
    | none => false
    | some d =>
      decide (w.pier = p ∧ w.cycle < cyc) &&
        ((List.range w.blocks).any fun j =>
          let l := w.line + moveLine img d w.first j
          decide (w.landed ≤ j ∧ l ≤ line ∧ line < l + blockLines d.fmt))

/-! ### Issue (R55, R75, R136, R158) -/

/-- The PHASE entries an instruction of cycle `cyc` has passed. -/
def phasesDue (img : Image) (cyc : Nat) : Nat := (img.timing.filter fun t => decide (t.kind = 1 ∧ t.cycle ≤ cyc)).length

/-- The PHASE entries of an image, in order. -/
def Image.phases (img : Image) : List Timing := img.timing.filter fun t => decide (t.kind = 1)

/-- Whether the module has decided every wait point up to cycle `cyc` (R161). -/
def waitsDone (img : Image) (x : Step) (cyc : Nat) : Bool :=
  img.timing.all fun t => !decide (t.kind = 3 ∧ t.cycle ≤ cyc) || x.waits.contains t.id

/-- The displacement of an instruction of cycle `cyc` by the fill segments run so far: from the wait point up to the
segment's tail position (R161). -/
def displacement (img : Image) (x : Step) (cyc : Nat) : Nat :=
  total (x.usedSegs.map fun u =>
    match waitOf img u.1, (segsOf img u.1).find? fun g => decide (g.arg2 = u.2) with
    | some t, some g => if t.cycle ≤ cyc ∧ cyc < g.cycle then g.arg1 else 0
    | _, _ => 0)

/-- The offset of a unit: its slip and the displacement at its next instruction. -/
def offsetOf (img : Image) (x : Step) (k : Nat) : Nat :=
  (x.unit k).slip + (match nextCycle img x k with | some c => displacement img x c | none => 0)

/-- The first phase that an instruction of cycle `cyc` begins and whose slack the unit's offset exceeds; `stall` is the slip of this
issue (R158). -/
def latePhase (img : Image) (x : Step) (u : UnitSt) (cyc stall : Nat) : Option Timing :=
  ((img.phases.take (phasesDue img cyc)).drop u.begun).find? fun t => decide (t.arg1 < u.slip + stall + displacement img x cyc)

/-- The next instruction of a unit's list in a running step, once the unit has begun its phase and the wait points before it are
decided. -/
def nextIns {α : Type} (s : State) (st key : Nat) (listOf : Image → List α) (cycleOf : α → Nat) :
    Option (Step × Image × Ctx × UnitSt × α) :=
  match stepOf s st with
  | none => none
  | some x =>
    match ctxOf s x.ctx with
    | none => none
    | some c =>
      match kfind c.images x.slot with
      | none => none
      | some img =>
        let u := (x.unit key).located img x ((listOf img).map cycleOf)
        match (listOf img)[u.next]? with
        | none => none
        | some ins =>
          if x.state = .running ∧ phasesDue img (cycleOf ins) ≤ u.phase ∧ (u.resume.isSome ∨ waitsDone img x (cycleOf ins)) then
            some (x, img, c, u, ins)
          else none

/-- The unit after issuing one instruction, with the slip of this issue (R76, R145). -/
def UnitSt.issued (u : UnitSt) (stall dry : Nat) : UnitSt :=
  { u with next := u.next + 1, begun := max u.begun u.phase, slip := satAdd max32 u.slip stall, entrance := satAdd max32 u.entrance dry }

/-- The unit waiting at its next instruction: only the slip advances. -/
def UnitSt.waited (u : UnitSt) (stall dry : Nat) : UnitSt :=
  { u with slip := satAdd max32 u.slip stall, entrance := satAdd max32 u.entrance dry }

/-- Leaves the step with a unit that waits. -/
def waitUnit (s : State) (x : Step) (key : Nat) (u : UnitSt) (stall dry : Nat) : State :=
  setStep s (x.setUnit key (u.waited stall dry))

/-- Counts the flags of one event (R87, R145). -/
def countFlags (cs : List Nat) (f : Nat) : List Nat :=
  (List.range 5).map fun i => satAdd max32 (cs.getD i 0) (b2n (f.testBit i))

/-- Whether a FLAG_CLEAR clears the flag effect of an event: of earlier nominal cycle and, on a pier, in a selected
array (R86). -/
def FlagClr.hitsFlag (k : FlagClr) (cyc : Nat) (pl : EventAt) : Bool :=
  decide (cyc < k.cycle) && (match pl with | .pier _ a _ _ _ _ => k.mask.getLsbD a | _ => true)

/-- Whether a FLAG_CLEAR clears the effect of an event on the record. -/
def FlagClr.hitsRec (k : FlagClr) (cyc : Nat) : Bool := k.record && decide (cyc < k.cycle)

/-- Adds an event to a unit where it raises a flag; a FLAG_CLEAR of later nominal cycle that has already run clears its
effect, whatever the order in which the two come about (R50, R86, R144). -/
def UnitSt.raise (u : UnitSt) (cyc : Nat) (pl : EventAt) (f : Nat) : UnitSt :=
  if f = 0 then u
  else { u with events := u.events ++ [⟨cyc, pl, f, !u.clears.any (·.hitsFlag cyc pl), !u.clears.any (·.hitsRec cyc)⟩]
                counters := countFlags u.counters f }

/-! ### The activity ramp (R77 to R79) -/

/-- The cells that R77's second rule keeps firing `d` cycles before a scheduled k-step. -/
def rampFloor (d : Nat) : Nat := if 0 < d ∧ d < 32 then 64 - 8 * ceilDiv d 4 else 0

/-- One cycle in which `real` cells fire products and the second rule asks for `floor`: the array tops up with the fewest
filler products (R77, R78). -/
def Ramp.cycle (r : Ramp) (real floor : Nat) : Ramp × Nat :=
  let t := max real (max (r.last.headD 0 - 8) floor)
  ({ next := r.next + 1, last := r.last.drop 1 ++ [t] }, t - real)

/-- `n` cycles without real work, the next scheduled k-step in cycle `t`: the filler products fired. -/
def Ramp.idle (t : Nat) : Nat → Ramp → Ramp × Nat
  | 0, r => (r, 0)
  | n + 1, r =>
    let q := r.cycle 0 (rampFloor (t - r.next))
    let z := Ramp.idle t n q.1
    (z.1, q.2 + z.2)

/-- Brings an array up to the k-step of cycle `t`, in which `real` cells fire: a stop ramp, a rest, a start ramp and the
cycle itself. After 32 idle cycles no filler is left running. A cycle with a scheduled k-step that is skipped is held by
the first rule only (DEDUCED, log entry 87). -/
def Ramp.kStep (r : Ramp) (t real : Nat) : Ramp × Nat :=
  let n := t - r.next
  let q := if n ≤ 64 then Ramp.idle t n r
    else
      let d := Ramp.idle t 32 r
      let z := Ramp.idle t 32 { next := t - 32, last := [0, 0, 0, 0] }
      (z.1, d.2 + z.2)
  let k := q.1.cycle real 0
  (k.1, q.2 + k.2)

/-- The filler products of the stop ramp that follows the last k-step of a step (R79). -/
def Ramp.stop (r : Ramp) : Nat := (Ramp.idle 0 32 r).2

/-- The filler products that the arrays of a step have fired, their stop ramps with them (R77 to R79). -/
def fillerCount (x : Step) : Nat :=
  total (x.units.map fun u => u.2.filler + total (u.2.ramps.map fun r => r.2.stop))

/-- The stop ramps that begin as a step gives its arrays up: the span, the array cycle at which the ramp goes on, and what the
array has fired (R77, R79). -/
def Step.stopRamps (x : Step) : List (Nat × Nat × Ramp) :=
  (x.units.filter fun u => decide (u.1 < 1024)).flatMap fun u => u.2.ramps.map fun r => (u.1 / 32, x.start + r.2.next + u.2.slip, r.2)

/-- Filler products that a stop ramp fires `k` cycles on: none after 32. -/
def Ramp.later (r : Ramp) (k : Nat) : Nat := if k < 32 then ((Ramp.idle 0 k r).1.cycle 0 0).2 else 0

end Sys2Proof.Machine
end

