-- ==== Sys2Proof/Machine/Flags.lean ====
section
/-! DEFINITION. Sticky flags, first-occurrence records and event counters of a unit, and the flag summary
of a step (R42 to R45, R83 to R87, R143 to R145, R218). -/

namespace Sys2Proof.Machine

/-- The rank that orders events of one nominal cycle: STAGE, ARRAY, ROW, COL for a pier (R85); TILE, ROW, COL
for a station (R144); TENSOR, BLOCK, ELEMENT for a keystone (R218). -/
def EventAt.rank : EventAt → List Nat
  | .pier drain a r c _ _ => [b2n drain, a, r, c]
  | .station t r c _ => [t, r, c]
  | .keystone t b e _ => [t, b, e]

/-- Lexicographic order. -/
def lexLt : List Nat → List Nat → Bool
  | [], _ => false
  | _ :: _, [] => false
  | a :: s, b :: t => decide (a < b) || (decide (a = b) && lexLt s t)

/-- Whether event `a` comes before event `b`. -/
def Event.before (a b : Event) : Bool :=
  decide (a.cycle < b.cycle) || (decide (a.cycle = b.cycle) && lexLt a.place.rank b.place.rank)

/-- The earliest event of a list whose effect on the record has not been cleared. -/
def firstEvent : List Event → Option Event
  | [] => none
  | e :: t =>
    match firstEvent t with
    | none => if e.recLive then some e else none
    | some f => if e.recLive && !f.before e then some e else some f

/-- The sticky flags of a unit: the OR of its events that no FLAG_CLEAR has cleared (R83, R86). -/
def stickyOf (u : UnitSt) : Nat := u.events.foldl (fun a e => if e.flagLive then a ||| e.cause else a) 0

/-- The sticky flags of one array of a pier (R83). -/
def arraySticky (u : UnitSt) (i : Nat) : Nat :=
  u.events.foldl (fun a e =>
    match e.place with
    | .pier _ j _ _ _ _ => if e.flagLive ∧ j = i then a ||| e.cause else a
    | _ => a) 0

/-- The flag summary of a step (R44). -/
def flagSummary (x : Step) : Nat := x.units.foldl (fun a e => a ||| stickyOf e.2) 0

/-- Runs a FLAG_CLEAR on a unit: events of earlier nominal cycle lose their effect, those raised before and those that
are raised later (R86, R144, R218). -/
def UnitSt.clear (u : UnitSt) (k : FlagClr) : UnitSt :=
  { u with clears := u.clears ++ [k], events := u.events.map fun e =>
      { e with flagLive := e.flagLive && !k.hitsFlag e.cycle e.place, recLive := e.recLive && !k.hitsRec e.cycle } }

/-- FLAG_CLEAR of nominal cycle `n` on the arrays that `sel` selects of a pier (R86). -/
def clearPier (u : UnitSt) (n : Nat) (sel : BitVec 64) (record : Bool) : UnitSt := u.clear ⟨n, sel, record⟩

/-- FLAG_CLEAR of nominal cycle `n` on a station or keystone (R144, R218). -/
def clearStation (u : UnitSt) (n : Nat) (record : Bool) : UnitSt := u.clear ⟨n, 0, record⟩

/-- The 16-byte record of a unit, as a number, in the layouts of R84, R143 and R218; the key names the unit. -/
def recordBits (key : Nat) (e : Event) : Nat :=
  match e.place with
  | .pier drain a r c k bank =>
    k + a * 2 ^ 16 + r * 2 ^ 22 + c * 2 ^ 25 + bank * 2 ^ 28 + b2n drain * 2 ^ 30 + 2 ^ 31 + e.cause * 2 ^ 32 +
      key * 2 ^ 48 + (e.cycle % 2 ^ 32) * 2 ^ 64
  | .station t r c i =>
    r + c * 2 ^ 8 + (t % 65536) * 2 ^ 16 + e.cause * 2 ^ 32 + 2 ^ 37 + ((key - 2000) / 100) * 2 ^ 38 +
      (key % 100) * 2 ^ 40 + (e.cycle % 2 ^ 32) * 2 ^ 64 + (i % 65536) * 2 ^ 96
  | .keystone t b el st =>
    t + (key % 100) * 2 ^ 12 + st * 2 ^ 15 + e.cause * 2 ^ 17 + 2 ^ 22 + b * 2 ^ 32 + el * 2 ^ 64 + (e.cycle % 2 ^ 32) * 2 ^ 96

/-- The records of a step that hold an event, by ascending unit key. -/
def stepRecords (x : Step) : List Nat :=
  x.units.filterMap fun u => (firstEvent u.2.events).map (recordBits u.1)

/-- The sums of the event counters over the units whose key lies in [lo, hi) (R87, R145). -/
def eventSums (x : Step) (lo hi : Nat) : List Nat :=
  (x.units.filter fun u => decide (lo ≤ u.1 ∧ u.1 < hi)).foldl (fun a u => addCounters a u.2.counters) [0, 0, 0, 0, 0]

end Sys2Proof.Machine
end

