-- ==== Sys2Proof/Machine/Net.lean ====
section
/-! DEFINITION. Frames: checksums and CRCs, Ethernet, IP and UDP encapsulation (R261, R263), the Slory header
(R274), addresses (R272), transmit buffers (R262, R266), flows (R276 to R278) and barrier tokens (R289). -/

namespace Sys2Proof.Machine

/-! ### Checksums -/

/-- One byte of a reflected CRC with polynomial `poly`. -/
def crcByte (poly c b : Nat) : Nat :=
  (List.range 8).foldl (fun c _ => if c % 2 = 1 then (c / 2) ^^^ poly else c / 2) (c ^^^ b)

/-- CRC-32 of 802.3 (R263). -/
def crc32 (b : Bytes) : Nat := (b.foldl (fun c x => crcByte 0xEDB88320 c x.toNat) 0xFFFFFFFF) ^^^ 0xFFFFFFFF

/-- CRC-32C (R224, R300). -/
def crc32c (b : Bytes) : Nat := (b.foldl (fun c x => crcByte 0x82F63B78 c x.toNat) 0xFFFFFFFF) ^^^ 0xFFFFFFFF

/-- Sum of the 16-bit words of bytes in network order. -/
def sum16 : Bytes → Nat
  | [] => 0
  | [a] => a.toNat * 256
  | a :: b :: t => a.toNat * 256 + b.toNat + sum16 t

/-- Folds a sum to 16 bits in ones' complement. -/
def fold16 (x : Nat) : Nat :=
  let y := x % 65536 + x / 65536
  let y := y % 65536 + y / 65536
  y % 65536 + y / 65536

/-- The Internet checksum of bytes. -/
def inetSum (b : Bytes) : Nat := 65535 - fold16 (sum16 b)

/-! ### Addresses (R272) -/

/-- The address of node `n` of domain `d` on a port: whether it is IPv6, and its value. -/
def slotAddr (e : PortEnt) (d n : Nat) : Bool × Nat :=
  if e.v6 ≠ 0 then (true, e.v6 * 65536 + d * 32768 + n) else (false, e.v4 + d * 32768 + n)

/-- The lowest-numbered port that is up (R281). -/
def lowestUp (s : State) : Option Nat := (List.range 8).find? fun q => (portOf s q).up

/-! ### Encapsulation (R261, R263) -/

/-- A UDP datagram with its checksum over the pseudo-header. -/
def udpBytes (v6 : Bool) (src dst : Nat) (sport dport : Nat) (b : Bytes) : Bytes :=
  let n := 8 + b.length
  let pseudo := if v6 then beBytes 16 src ++ beBytes 16 dst ++ beBytes 4 n ++ beBytes 4 17
    else beBytes 4 src ++ beBytes 4 dst ++ beBytes 2 17 ++ beBytes 2 n
  let head := beBytes 2 sport ++ beBytes 2 dport ++ beBytes 2 n
  let c := inetSum (pseudo ++ head ++ b)
  head ++ beBytes 2 (if c = 0 then 65535 else c) ++ b

/-- An IP packet around a payload of protocol `proto`. -/
def ipBytes (v6 : Bool) (hops src dst proto : Nat) (b : Bytes) : Bytes :=
  if v6 then
    beBytes 4 (6 * 2 ^ 28) ++ beBytes 2 b.length ++ beBytes 1 proto ++ beBytes 1 hops ++ beBytes 16 src ++ beBytes 16 dst ++ b
  else
    let a := beBytes 2 0x4500 ++ beBytes 2 (20 + b.length) ++ beBytes 2 0 ++ beBytes 2 0x4000 ++ beBytes 1 hops ++ beBytes 1 proto
    let t := beBytes 4 src ++ beBytes 4 dst
    a ++ beBytes 2 (inetSum (a ++ beBytes 2 0 ++ t)) ++ t ++ b

/-- An Ethernet II frame: the tag of the port's VLAN, padding to 64 B and the FCS. -/
def etherBytes (p : PortRec) (dst typ : Nat) (tag : Option Nat) (b : Bytes) : Bytes :=
  let h := beBytes 6 dst ++ beBytes 6 p.mac ++
    (match tag with | some pcp => beBytes 2 0x8100 ++ beBytes 2 (pcp * 8192 + p.vid) | none => []) ++ beBytes 2 typ ++ b
  let h := h ++ List.replicate (60 - h.length) 0
  h ++ leBytes 4 (crc32 h)

/-- The tag of a class on a port (R261). -/
def classTag (p : PortRec) (express : Bool) : Option Nat := if p.vlanEn then some (if express then p.pcpExpress else p.pcpBulk) else none

/-- The priority of a class for PFC: 0 on an untagged port (R261). -/
def classPrio (p : PortRec) (express : Bool) : Nat := (classTag p express).getD 0

/-! ### Transmit buffers (R262, R266) -/

/-- Bytes in a buffer. -/
def bufBytes (l : List TxFrame) : Nat := total (l.map (·.bytes.length))

/-- A whole frame is ready for the wire: it enters the buffer of its class, or waits outside a full one. -/
def enqueueFrame (s : State) (q : Nat) (express : Bool) (f : TxFrame) : State :=
  let p := portOf s q
  if express then
    if p.expressWait = [] ∧ p.express.length < 128 ∧ bufBytes p.express + f.bytes.length ≤ 32768 then setPort s q { p with express := p.express ++ [f] }
    else bumpPort (setPort s q { p with expressWait := p.expressWait ++ [f] }) q 9 1
  else if p.bulkWait = [] ∧ bufBytes p.bulk + f.bytes.length ≤ 262144 then setPort s q { p with bulk := p.bulk ++ [f] }
  else setPort s q { p with bulkWait := p.bulkWait ++ [f] }

/-! ### Pauses (R267, R269) -/

/-- Bits per second of a port's data rate, in Gb/s (R254). -/
def Port.gbps (p : Port) : Nat := match p.rcd.lanes with | 1 => 200 | 2 => 400 | 3 => 800 | 4 => 1600 | _ => 0

/-- Whole pause quanta of 512 bit times since a priority was last paused, at most the quanta given. -/
def Port.elapsed (p : Port) (prio now : Nat) : Nat := min (kget 0 p.quanta prio) ((now - kget 0 p.pausedAt prio) * 10 * p.gbps / 512)

/-- Counts pause quanta of a priority in the counters of its class (R269). -/
def countPause (s : State) (q prio n : Nat) : State :=
  let p := portOf s q
  let s := if prio = classPrio p.rcd true then bumpPort s q 7 n else s
  if prio = classPrio p.rcd false then bumpPort s q 8 n else s

/-- Counts the quanta of a priority's pause that have passed by now. -/
def settlePause (q : Nat) (s : State) (prio : Nat) : State :=
  let p := portOf s q
  if p.paused.testBit prio then
    let n := p.elapsed prio s.clk.uptime
    let s := countPause s q prio (n - kget 0 p.counted prio)
    setPort s q { portOf s q with counted := kset 0 (portOf s q).counted prio n }
  else s

/-- Counts the quanta of every pause of a port that have passed by now. -/
def settlePort (s : State) (q : Nat) : State := (List.range 8).foldl (settlePause q) s

/-! ### Slory frames (R272, R274, R276) -/

/-- The 32-byte header. -/
def sloryHeader (op dom src tag step flow dst seq off len attempt : Nat) (last : Bool) (sub srcIndex : Nat) : Bytes :=
  beBytes 4 (2 ^ 28 + op * 2 ^ 16 + dom * 2 ^ 15 + src) ++ beBytes 4 tag ++ beBytes 4 step ++ beBytes 4 (flow * 65536 + dst) ++
    beBytes 4 seq ++ beBytes 4 off ++ beBytes 4 (len * 65536 + attempt * 256 + b2n last * 128 + sub) ++ beBytes 4 (srcIndex * 65536)

/-- Whether an opcode is of the express class (R275). -/
def opExpress (op : Nat) : Bool := op ∈ [0x10, 0x11, 0x12]

/-- Sends a UDP payload to node `n` of domain `d` on port `q`; to this module itself it does not leave (log entry
22). The receive port of such a frame is written 8. -/
def sendSlory (s : State) (q d n op : Nat) (udp : Bytes) (ctx step : Option Nat) : State :=
  match s.slory.node with
  | none => s
  | some nd =>
    if n = nd.node ∧ d = nd.domain then
      { s with slory := { s.slory with rx := s.slory.rx ++ [{ port := 8, srcIp := 0, v6 := false, prio := 0, octets := udp.length, udp := udp, at_ := s.clk.cycles }] } }
    else
      let p := (portOf s q).rcd
      let e := nd.ports.getD q {}
      let dst := slotAddr e d n
      let src := slotAddr e nd.domain nd.node
      let x := opExpress op
      let ip := ipBytes dst.1 p.hopLimit src.2 dst.2 17 (udpBytes dst.1 src.2 dst.2 nd.port nd.port udp)
      enqueueFrame s q x ⟨etherBytes p e.nextHop (if dst.1 then 0x86DD else 0x0800) (classTag p x) ip, ctx, step, classPrio p x⟩

/-- Payload bytes of every frame but the last of a flow on a port (R276). -/
def flowP (s : State) (q : Nat) : Nat :=
  let p := (portOf s q).rcd
  let v6 := match s.slory.node with | some nd => decide ((nd.ports.getD q {}).v6 ≠ 0) | none => false
  let h := (if v6 then 98 else 78) + (if p.vlanEn then 4 else 0)
  min 8192 (128 * ((p.maxFrame - h) / 128))

/-- The payloads of a flow, cut at `n` bytes; an empty flow is one empty frame. -/
def flowCut (n : Nat) : Nat → Bytes → List Bytes
  | 0, _ => []
  | fuel + 1, b => if b.length ≤ n ∨ n = 0 then [b] else b.take n :: flowCut n fuel (b.drop n)

/-- The frames of a flow (R274, R276): sequence number and UDP payload. -/
def flowFrames (p dom src : Nat) (k : FlowKey) (op srcIndex sub : Nat) (b : Bytes) : List (Nat × Bytes) :=
  let cs := flowCut p (b.length + 1) b
  (List.range cs.length).map fun i =>
    let c := cs.getD i []
    (i, sloryHeader op dom src k.tag k.step k.flow k.dst i (i * p / 128) c.length k.attempt (decide (i + 1 = cs.length)) sub srcIndex ++ c)

/-- Sends the frames of a flow that its window of 512 admits (R278). -/
def pumpFlow (s : State) (f : TxFlow) : State :=
  let open_ := f.sentUpTo - f.acked.length
  let n := min (512 - open_) (f.frames.length - f.sentUpTo)
  let s := ((f.frames.drop f.sentUpTo).take n).foldl (fun s fr => sendSlory s f.port f.dstDom f.key.dst f.op fr.2 (some f.ctx) f.stepId) s
  { s with slory := { s.slory with tx := s.slory.tx.map fun g => if g.id = f.id then { g with sentUpTo := f.sentUpTo + n } else g } }

/-- Begins a flow of bytes toward a node. `dstDom` is this domain but for delta flows (R295). -/
def startFlow (s : State) (ctx : Nat) (op q dstDom dst step attempt flow srcIndex sub : Nat) (stepId : Option Nat) (b : Bytes) : State :=
  match s.slory.node, ctxOf s ctx with
  | some nd, some c =>
    let k : FlowKey := ⟨c.tag.toNat, nd.domain, nd.node, dst, step, attempt, flow⟩
    let f : TxFlow := { id := s.slory.nextFlow, key := k, op := op, port := q, srcIndex := srcIndex, stepId := stepId, dstDom := dstDom, ctx := ctx,
                        frames := flowFrames (flowP s q) nd.domain nd.node k op srcIndex sub b }
    pumpFlow { s with slory := { s.slory with tx := s.slory.tx ++ [f], nextFlow := s.slory.nextFlow + 1 } } f
  | _, _ => s

/-! ### The barrier (R289) -/

/-- Whether a step spans several modules (R283). -/
def Image.multi (img : Image) : Bool := decide (1 < img.parts.length)

/-- The leader: the participant with the lowest node id (R286). -/
def Image.leader (img : Image) : Nat := img.parts.headD 0

/-- ST and ORIGIN of a token's payload (R275). -/
def tokenBytes (status node dom : Nat) : Bytes := leBytes 2 status ++ leBytes 2 (node + dom * 32768) ++ List.replicate 12 0

/-- Begins a flow outside the fabric lists on the lowest-numbered port that is up. The manual gives such a flow no
FLOW number: it is a free value (log entry 6), under which the receiver's ACK names it. -/
def startOpenFlow (s : State) (ctx op dstDom dst step attempt sub : Nat) (stepId : Option Nat) (b : Bytes) : State :=
  let f := takeFree s
  startFlow f.2 ctx op ((lowestUp s).getD 0) dstDom dst step attempt (f.1.toNat % 65536) 0 sub stepId b

/-- Sends a barrier token. -/
def sendToken (s : State) (ctx dst step attempt sub status node dom : Nat) (stepId : Option Nat) : State :=
  match s.slory.node with
  | none => s
  | some nd => startOpenFlow s ctx 0x12 nd.domain dst step attempt sub stepId (tokenBytes status node dom)

/-- A step gives its arrays up: the filler that they have fired, stop ramps included, is booked to the filler counter, and the stop
ramps run on (R78, R79, R383). -/
def bookFiller (s : State) (x : Step) : State :=
  if x.state.live then
    { s with power := { s.power with
      filler := satAdd max64 s.power.filler (fillerCount x * Config.fillerFiring / 1000000)
      stops := (s.power.stops.filter fun r => decide (s.clk.cycles < r.2.1 + 32)) ++ x.stopRamps } }
  else s

/-- A participant votes and enters decision hold: its units stop (R289). -/
def castVote (s : State) (x : Step) (img : Image) (sub status : Nat) : State :=
  match s.slory.node with
  | none => s
  | some nd =>
    let s := setStep (bookFiller s x) { x with state := .hold, vote := some sub, voteAt := s.clk.uptime }
    sendToken s x.ctx img.leader x.number x.attempt sub status nd.node nd.domain (some x.id)

end Sys2Proof.Machine
end

