-- ==== Sys2Proof/Machine/Report.lean ====
section
/-! DEFINITION. What leaves the module about its work: host writes and rings (R327, R334 to R336, R344),
status replies and event entries (R353 to R355), interrupts (R337, R338, R446), the error log (R427, R428),
device-fatal (R426, R429), and the end of a step (R44, R87, R171, R173, R368, R471). -/

namespace Sys2Proof.Machine

/-! ### Status codes (R371) -/

/-- ST_OK. -/
def stOk : Nat := 0x0000
/-- ST_BAD_OPCODE. -/
def stBadOpcode : Nat := 0x0001
/-- ST_BAD_PARAM. -/
def stBadParam : Nat := 0x0002
/-- ST_NO_RESOURCE. -/
def stNoResource : Nat := 0x0003
/-- ST_CTX_STOPPED. -/
def stCtxStopped : Nat := 0x0004
/-- ST_KILLED. -/
def stKilled : Nat := 0x0005
/-- ST_STEP_REPEAT. -/
def stStepRepeat : Nat := 0x0006
/-- ST_MEM_UE. -/
def stMemUe : Nat := 0x0007
/-- ST_ARITH_TRAP. -/
def stArithTrap : Nat := 0x0008
/-- ST_CONTRACT_SLIP. -/
def stContractSlip : Nat := 0x0009
/-- ST_TIMEOUT. -/
def stTimeout : Nat := 0x000A
/-- ST_AUTH_FAIL. -/
def stAuthFail : Nat := 0x000B
/-- ST_DEVICE_FATAL. -/
def stDeviceFatal : Nat := 0x000C
/-- ST_BUSY. -/
def stBusy : Nat := 0x000D

/-! ### Host writes (R327, R343, R424) -/

/-- Issues a write to host memory. It stays in flight until HOST_WRITE_GO; while the link is down it waits in
the landing (R430). -/
def issueWrite (s : State) (ctx : Option Nat) (path : HwPath) (ring : Option RingId) (addr : Nat) (b : Bytes)
    (after : List Nat) : State :=
  { s with host := { s.host with
      writes := s.host.writes ++ [{ id := s.host.nextId, ctx := ctx, path := path, ring := ring, addr := addr, bytes := b, after := after, sent := s.host.up }]
      nextId := s.host.nextId + 1 } }

/-- Issues a module read of host memory. -/
def issueRead (s : State) (ctx : Option Nat) (owner : HrOwner) (addr len : Nat) : State :=
  { s with host := { s.host with reads := s.host.reads ++ [{ id := s.host.nextId, ctx := ctx, owner := owner, addr := addr, len := len }], nextId := s.host.nextId + 1 } }

/-- Marks the writes issued since `s` as those of step `st`, of nominal cycle `cyc`. -/
def tagWrites (s t : State) (st cyc : Nat) : State :=
  { t with host := { t.host with writes := t.host.writes.map fun w =>
      if s.host.nextId ≤ w.id then { w with step := some st, cycle := cyc } else w } }

/-- Whether a write is one that the context in force has issued: not one of a former context of its number, nor one that a
reset has cut off (R345, R424). -/
def HostWrite.ofCtx (w : HostWrite) (ctx : Option Nat) : Bool := decide (w.ctx = ctx) && !w.former && !w.lost

/-- Whether a write of context `ctx` with an id below `upTo` is not globally observed (R345, R346). -/
def writesOpen (s : State) (ctx : Option Nat) (upTo : Nat) : Bool :=
  s.host.writes.any fun w => w.ofCtx ctx && decide (w.id < upTo)

/-- Whether slow-tier masters that a command of context `ctx` has written, with ids below `upTo`, are not yet all globally
observed (R317, R349). -/
def slowOpen (s : State) (ctx : Option Nat) (upTo : Nat) : Bool :=
  s.host.writes.any fun w => w.ofCtx ctx && decide (w.path = .shadow ∧ w.step = none ∧ w.id < upTo)

/-! ### Energy (R383, R384, R408) -/

/-- Sum of two activity counts. -/
def Activity.plus (a b : Activity) : Activity :=
  ⟨a.arrays + b.arrays, a.stores + b.stores, a.deck + b.deck, a.stations + b.stations, a.memory + b.memory,
    a.fabric + b.fabric, a.host + b.host⟩

/-- Energy of an activity in nJ, per consumer in the order of R408. -/
def Activity.energies (a : Activity) : List Nat :=
  [a.arrays * Config.eventEnergy 0, a.stores * Config.eventEnergy 1, a.deck * Config.eventEnergy 2, a.stations * Config.eventEnergy 3,
    a.memory * Config.eventEnergy 4, a.fabric * Config.eventEnergy 5, a.host * Config.eventEnergy 6]

/-- Total energy of an activity. -/
def Activity.energy (a : Activity) : Nat := total a.energies

/-- Books an activity to the consumer fields of a record. -/
def Energy.book (e : Energy) (a : Activity) : Energy :=
  { e with
    arrays := satAdd max64 e.arrays (a.energies.getD 0 0), stores := satAdd max64 e.stores (a.energies.getD 1 0)
    deck := satAdd max64 e.deck (a.energies.getD 2 0), stations := satAdd max64 e.stations (a.energies.getD 3 0)
    memory := satAdd max64 e.memory (a.energies.getD 4 0), fabric := satAdd max64 e.fabric (a.energies.getD 5 0)
    host := satAdd max64 e.host (a.energies.getD 6 0) }

/-- Books a step that ends: all its attempts, in one update (R384). -/
def bookStep (s : State) (x : Step) : State :=
  let a := x.activity.plus x.killed
  let s := { s with power := { s.power with attributed := satAdd max64 s.power.attributed a.energy } }
  updCtx s x.ctx fun c => { c with energy :=
    { c.energy.book a with
      step := satAdd max64 c.energy.step a.energy
      repeatE := satAdd max64 c.energy.repeatE x.killed.energy
      steps := satAdd max64 c.energy.steps 1 } }

/-- Books command work of a ring: to the context's queue energy, or to the administrative queue (R383). -/
def bookQueue (s : State) (r : RingId) (a : Activity) : State :=
  match r with
  | .admin => { s with power := { s.power with adminQueue := satAdd max64 s.power.adminQueue a.energy } }
  | .ctx n =>
    let s := { s with power := { s.power with attributed := satAdd max64 s.power.attributed a.energy } }
    updCtx s n fun c => { c with energy := { c.energy.book a with queue := satAdd max64 c.energy.queue a.energy } }

/-- Books a command that ends to its ring (R383, R384): the bearing accesses and the host traffic that its work took are
free values, since the manual does not count them (log entry 6). -/
def bookCmd (s : State) (r : RingId) : State :=
  let f := takeFree s
  let g := takeFree f.2
  bookQueue g.2 r { memory := f.1.toNat % 4294967296, host := g.1.toNat % 4294967296 }

/-! ### Status entries and control lines (R335, R336, R344, R353) -/

/-- The 32 bytes of a status reply or an event entry (R353). -/
def replyBytes (r : Reply) : Bytes :=
  leBytes 4 (r.status + r.opcode * 2 ^ 16) ++ leBytes 4 r.seq ++
    leBytes 4 (r.ctx.getD 0 + b2n r.ctx.isSome * 2 ^ 8 + r.kind * 2 ^ 9 + b2n r.skipped * 2 ^ 12 + b2n r.truncated * 2 ^ 13 +
      b2n r.committed * 2 ^ 14 + r.flags * 2 ^ 16 + r.event * 2 ^ 24) ++
    leBytes 4 r.detail0 ++ leBytes 8 r.detail1 ++ leBytes 8 r.result

/-- The 64 bytes of a control line (R336). -/
def ctrlBytes (g : Ring) : Bytes :=
  leBytes 4 g.statusTail.toNat ++ leBytes 4 g.cmdHead.toNat ++ leBytes 4 g.eventsLost ++ leBytes 4 g.dbErrors ++
    List.replicate 48 0

/-- Writes the control line of a ring, after the writes `after`. -/
def writeCtrl (s : State) (r : RingId) (after : List Nat) : State :=
  match ringOf s r with
  | none => s
  | some g => issueWrite s r.ctxNo .ctrl (some r) g.rcd.ctrlBase (ctrlBytes g) after

/-- The entries of a ring's status ring that are not globally observed yet: a control line waits for all of them (R344). -/
def openEntries (s : State) (r : RingId) : List Nat :=
  (s.host.writes.filter fun w => decide (w.ring = some r ∧ (w.path = .status ∨ w.path = .event)) && w.ofCtx r.ctxNo).map (·.id)

/-- Writes one entry at STATUS_TAIL, advances it and writes the control line (R335, R336, R344). -/
def postEntry (s : State) (r : RingId) (path : HwPath) (b : Bytes) : State :=
  match ringOf s r with
  | none => s
  | some g =>
    let s := issueWrite s r.ctxNo path (some r) (g.rcd.statusBase + 32 * (g.statusTail.toNat % 2 ^ g.rcd.statusLog2)) b []
    writeCtrl (setRing s r { g with statusTail := g.statusTail + 1 }) r (openEntries s r)

/-- Status entries written and not consumed. -/
def Ring.unconsumed (g : Ring) : Nat := (g.statusTail - g.statusHead).toNat

/-- Status entries reserved: written and not consumed, and one per fetched command without a reply (R334). -/
def Ring.reserved (g : Ring) : Nat := g.unconsumed + g.cmds.length

/-- The command of a ring that was fetched at `seq`. -/
def Ring.cmd (g : Ring) (seq : Nat) : Option Cmd := g.cmds.find? fun c => decide (c.seq = seq)

/-- Changes the command of a ring that was fetched at `seq`. -/
def updCmd (s : State) (r : RingId) (seq : Nat) (f : Cmd → Cmd) : State :=
  updRing s r fun g => { g with cmds := g.cmds.map fun c => if c.seq = seq then f c else c }

/-- SEQ of a descriptor (R351): what a reply carries. The field `seq` of a command is the CMD_HEAD of its fetch, by which the
module itself tells commands apart, whatever SEQ the host gives them. -/
def Cmd.seqNo (c : Cmd) : Nat := fld c.desc.toNat 63 32

/-- CFENCE of a descriptor (R351). -/
def Cmd.cfence (c : Cmd) : Bool := c.desc.getLsbD 16

/-- Books the work of a command that was accepted; one that was not changes nothing (R357, R383). -/
def bookAccepted (s : State) (r : RingId) (seq : Nat) : State :=
  if (((ringOf s r).bind fun g => g.cmd seq).map (·.accepted)).getD false then bookCmd s r else s

/-- Writes the reply of a command and forgets the command: the ring's next command may begin. -/
def postReply (s : State) (r : RingId) (seq : Nat) (y : Reply) : State :=
  postEntry (updRing (bookAccepted s r seq) r fun g => { g with cmds := g.cmds.filter fun c => decide (c.seq ≠ seq) }) r .status (replyBytes y)

/-- CONTEXT of a reply (R353): the context of the ring; on the administrative ring, the CONTEXT that CTX_CREATE or CTX_DESTROY
names. DEDUCED: "Context concerned". -/
def Cmd.concerned (c : Cmd) (r : RingId) : Option Nat :=
  match r.ctxNo with
  | some n => some n
  | none => if c.opcode = 0x0010 ∨ c.opcode = 0x0011 then some (fld c.desc.toNat 295 288) else none

/-- Ring A, ring C, long, and whether TIMEOUT_MS may be given (R363). -/
def opInfo (op : Nat) : Option (Bool × Bool × Bool × Bool) :=
  match op with
  | 0x0001 => some (true, true, false, false)
  | 0x0010 => some (true, false, false, false)
  | 0x0011 => some (true, false, true, false)
  | 0x0012 => some (false, true, false, false)
  | 0x0020 => some (false, true, true, true)
  | 0x0021 => some (false, true, false, false)
  | 0x0030 => some (true, false, false, false)
  | 0x0040 => some (false, true, true, false)
  | 0x0041 => some (false, true, false, false)
  | 0x0050 => some (true, true, true, true)
  | 0x0051 => some (false, true, true, false)
  | 0x0052 => some (false, true, false, false)
  | 0x0053 => some (false, true, false, false)
  | 0x0060 => some (false, true, false, false)
  | 0x0070 => some (false, true, true, true)
  | 0x0071 => some (false, true, true, false)
  | 0x0072 => some (false, true, true, true)
  | 0x0080 => some (false, true, true, false)
  | 0x0090 => some (true, false, true, true)
  | 0x00A0 => some (true, false, false, false)
  | 0x00A1 => some (true, true, false, false)
  | 0x00B0 => some (true, false, false, false)
  | 0x00B1 => some (false, true, false, false)
  | 0x00C0 => some (true, true, false, false)
  | 0x00F0 => some (true, false, true, true)
  | _ => none

/-- Whether an opcode is marked long (R363). -/
def opLong (op : Nat) : Bool := match opInfo op with | some (_, _, l, _) => l | none => false

/-- Whether a fetched command of a ring has begun: every one fetched before it has replied, or is long and accepted (R360). -/
def begun (g : Ring) (c : Cmd) : Bool := (g.cmds.takeWhile fun k => decide (k.seq ≠ c.seq)).all fun k => k.accepted && opLong k.opcode

/-- Whether the reply of a command still waits: under CFENCE, or of FENCE, for every write of an id below `upTo` (R345, R346);
of a command that copies slow-tier masters, for those (R308, R317). -/
def Cmd.waits (s : State) (r : RingId) (c : Cmd) (upTo : Nat) : Bool :=
  ((c.cfence || (c.accepted && decide (c.opcode = 0x0080))) && writesOpen s r.ctxNo upTo) ||
    (c.accepted && decide (c.opcode = 0x0050 ∨ c.opcode = 0x0051 ∨ c.opcode = 0x0072) && slowOpen s r.ctxNo upTo)

/-- Writes every held reply of a ring whose command has begun and whose awaited writes are all observed (R345, R346, R360). -/
def releaseHeld (s : State) (r : RingId) : State :=
  match ringOf s r with
  | none => s
  | some g => g.cmds.foldl (fun s c =>
      match c.held, c.upTo with
      | some y, some n =>
        if c.waits s r n || !(((ringOf s r).map fun g => begun g c).getD false) then s else postReply s r c.seq y
      | _, _ => s) s

/-- Ends a command with a reply: at once, or once the writes that the reply awaits are globally observed (R345, R317). What the ring has fetched behind it may then begin. -/
def endCmd (s : State) (r : RingId) (seq : Nat) (y : Reply) : State :=
  match (ringOf s r).bind fun g => g.cmd seq with
  | none => s
  | some c =>
    let y := { y with opcode := c.opcode, seq := c.seqNo, ctx := c.concerned r }
    if c.waits s r s.host.nextId then
      updCmd s r seq fun c => { c with held := some y, upTo := some s.host.nextId }
    else releaseHeld (postReply s r seq y) r

/-- A reply with a status alone. -/
def plain (status : Nat) : Reply := { status := status }

/-- DETAIL_KIND FIELD (R354): the space and the byte offset of a field. -/
def fieldReply (status space off : Nat) : Reply := { status := status, kind := 1, detail0 := space, detail1 := off }

/-- DETAIL_KIND RESOURCE. -/
def resourceReply (code unit : Nat) : Reply := { status := stNoResource, kind := 2, detail0 := code + unit * 256 }

/-- DETAIL_KIND MEMORY: 0 stacked memory, 1 host memory, 2 model store. -/
def memoryReply (space d1 : Nat) : Reply := { status := stMemUe, kind := 4, detail0 := space, detail1 := d1 }

/-! ### Interrupts (R337, R338, R446) -/

/-- The MSI-X table entry of a vector. -/
def vecEntry (s : State) (vec : Nat) : MsixEntry := kget {} s.msix.table vec

/-- Sends a vector, or sets its pending bit where its entry masks it (R337). -/
def sendVector (s : State) (vec : Nat) : State :=
  let e := vecEntry s vec
  if e.control.getLsbD 0 then
    { s with msix := { s.msix with pend := if s.msix.pend.contains vec then s.msix.pend else s.msix.pend ++ [vec] } }
  else emit s (.msix vec e.addr e.data)

/-- Raises vector 257, 258 or 259: at most one message in any microsecond (R446). -/
def raiseVector (s : State) (vec : Nat) : State :=
  if s.msix.window.contains vec then
    { s with msix := { s.msix with owed := if s.msix.owed.contains vec then s.msix.owed else s.msix.owed ++ [vec] } }
  else if (vecEntry s vec).control.getLsbD 0 then sendVector s vec
  else sendVector { s with msix := { s.msix with window := s.msix.window ++ [vec] } } vec

/-- The vector of a ring (R337). -/
def RingId.vector : RingId → Nat
  | .admin => 256
  | .ctx n => n

/-- Entries that count toward the next message: those not consumed and written since the last message. -/
def Ring.fresh (g : Ring) : Nat := min g.unconsumed (g.statusTail - g.coalBase).toNat

/-- Sends the vector of a ring and restarts both coalescing conditions (R338). -/
def sendRing (s : State) (r : RingId) : State :=
  match ringOf s r with
  | none => s
  | some g => sendVector (setRing s r { g with coalBase := g.statusTail, coalArmed := false }) r.vector

/-- Entries that a control line with STATUS_TAIL = `tail` counts toward the next message. -/
def Ring.freshAt (g : Ring) (tail : Nat) : Nat :=
  let t := BitVec.ofNat 32 tail
  if (g.statusTail - t).toNat ≤ g.fresh then g.fresh - (g.statusTail - t).toNat else 0

/-- Whether entries that a control line counts make a message due at once: the count condition, or COAL_US = 0 (R338). -/
def Ring.due (g : Ring) (n : Nat) : Bool := decide (0 < n ∧ 0 < g.rcd.coalCount ∧ (g.rcd.coalCount ≤ n ∨ g.rcd.coalUs = 0))

/-- The STATUS_TAIL that an issued control line of a ring carries. -/
def HostWrite.tail (w : HostWrite) : Nat := leAt w.bytes 0 4

/-- After control line `w` is observed: a message that its entries make due, unless an earlier control line that made it due is
still in flight; else the time condition starts (R338, R344). -/
def ringInterrupt (s : State) (r : RingId) (w : HostWrite) : State :=
  match ringOf s r with
  | none => s
  | some g =>
    let n := g.freshAt w.tail
    let earlier := s.host.writes.any fun v => decide (v.ring = some r ∧ v.path = .ctrl ∧ v.id < w.id) && v.ofCtx r.ctxNo && g.due (g.freshAt v.tail)
    if g.rcd.coalCount = 0 ∨ n = 0 then s
    else if g.due n then (if earlier then s else sendRing s r)
    else setRing s r { g with coalArmed := true }

/-! ### Event entries (R335, R355) -/

/-- Posts an event entry on a ring, or counts it lost (R335). -/
def postEventOn (s : State) (r : RingId) (y : Reply) : State :=
  match ringOf s r with
  | none => s
  | some g =>
    if g.reserved < 2 ^ g.rcd.statusLog2 then
      let g' := { g with eventSeq := (g.eventSeq + 1) % 2 ^ 32 }
      postEntry (setRing s r g') r .event (replyBytes { y with opcode := 0, seq := g'.eventSeq, ctx := r.ctxNo })
    else setRing s r { g with eventsLost := satAdd max32 g.eventsLost 1 }

/-- Posts an event entry on a context's ring. -/
def postEvent (s : State) (n : Nat) (y : Reply) : State := postEventOn s (.ctx n) y

/-! ### The error log (R427, R428) -/

/-- Severity of a code: 0 ADVISORY, 1 PARTNER, 2 LINK, 3 WORK, 4 ENVIRONMENT, 5 FATAL (R428). -/
def sevOf (code : Nat) : Nat :=
  if code ∈ [0x0101, 0x0103, 0x0106, 0x0107, 0x0201, 0x0301, 0x0401, 0x0403, 0x0406, 0x0501, 0x0503, 0x0801, 0x0901, 0x0B01, 0x0B02] then 0
  else if code ∈ [0x0603, 0x0604, 0x0701, 0x0806, 0x0807] then 1
  else if code ∈ [0x0601, 0x0602, 0x0803, 0x0804] then 2
  else if code ∈ [0x0102, 0x0202, 0x0502, 0x0702, 0x0703, 0x0802] then 3
  else if code ∈ [0x0902, 0x0903, 0x0A01, 0x0A02, 0x0A03, 0x0A05] then 4
  else 5

/-- Whether entry `a` is older than entry `b`: an entry of an earlier boot is older than every entry of this one, and TIME, which
restarts at boot, orders the entries of one boot (R427). -/
def LogEntry.older (a b : LogEntry) : Bool := (a.prior && !b.prior) || (decide (a.prior = b.prior) && decide (a.time < b.time))

/-- The oldest entry among those of the severities `sel`: its slot. -/
def oldestOf (slots : KMap LogEntry) (sel : Nat → Bool) : Option Nat :=
  (slots.foldl (fun acc e =>
    if sel e.2.severity then
      match acc with
      | none => some e
      | some o => if e.2.older o.2 then some e else some o
    else acc) (none : Option (Nat × LogEntry))).map (·.1)

/-- The slot a new entry takes: an empty one, else the oldest ADVISORY or PARTNER, else the oldest LINK or
ENVIRONMENT, else none (R427). -/
def logSlot (slots : KMap LogEntry) : Option Nat :=
  if slots.length < 1024 then (List.range 1024).find? fun i => (kfind slots i).isNone
  else
    match oldestOf slots fun v => decide (v ≤ 1) with
    | some i => some i
    | none => oldestOf slots fun v => decide (v = 2 ∨ v = 4)

/-- The occurrence history of a code and context. -/
def histOf (e : ErrLog) (code : Nat) (ctx : Option Nat) : LogHist :=
  (e.hist.find? fun h => decide (h.code = code ∧ h.ctx = ctx)).getD ⟨code, ctx, 0, none, none⟩

/-- Replaces the history of a code and context. -/
def setHist (e : ErrLog) (h : LogHist) : ErrLog :=
  { e with hist := h :: e.hist.filter fun k => !decide (k.code = h.code ∧ k.ctx = h.ctx) }

/-- Logs an occurrence of an error: at most one entry in 1 ms per code and context (R427); an entry of a
severity other than ADVISORY and PARTNER raises vector 257 (R428, R446). -/
def logErr (s : State) (code : Nat) (ctx : Option Nat) (detail : BitVec 128) : State :=
  let e := s.err
  let h := histOf e code ctx
  let h := { h with count := satAdd max32 h.count 1 }
  let recent := match h.lastTime with | none => false | some t => decide (s.clk.uptime < t + 100000)
  if recent then
    let slots := match h.slot with
      | some i => (match kfind e.slots i with
        | some y => if y.code = code ∧ y.ctx = ctx ∧ some y.time = h.lastTime then kput e.slots i { y with count := h.count } else e.slots
        | none => e.slots)
      | none => e.slots
    { s with err := setHist { e with slots := slots } h }
  else
    match logSlot e.slots with
    | none =>
      raiseVector { s with err := setHist { e with dropped := satAdd max64 e.dropped 1, droppedBit := true } h } 257
    | some i =>
      let y : LogEntry := ⟨code, sevOf code, false, ctx, h.count, s.clk.uptime, detail⟩
      let e := setHist { e with slots := kput e.slots i y, newest := i, written := satAdd max64 e.written 1 }
        { h with lastTime := some s.clk.uptime, slot := some i }
      if sevOf code ≤ 1 then { s with err := e } else raiseVector { s with err := { e with logged := true } } 257

/-- A running step whose image is loaded. -/
def runningStep (s : State) (st : Nat) : Option (Step × Image) :=
  match stepOf s st with
  | none => none
  | some x => if x.state = .running then (imageOf s x).map fun img => (x, img) else none

/-- A step whose units are at work, or staged, with its image. -/
def workingStep (s : State) (st : Nat) : Option (Step × Image) :=
  match stepOf s st with
  | none => none
  | some x => if x.state.working then (imageOf s x).map fun img => (x, img) else none

/-! ### Ending a step (R88, R173, R368, R471) -/

/-- The other steps whose view of a memory must not change. -/
def otherLive (s : State) (x : Step) : List Nat := (s.steps.filter fun y => y.state.live && decide (y.id ≠ x.id)).map (·.id)

/-- Discards what a step wrote on the dies (R88). -/
def dropDies (pm : PierMem) (st : Nat) : PierMem :=
  { tile := vdrop pm.tile st, feeder := vdrop pm.feeder st, valid := vdrop pm.valid st, skip := vdrop pm.skip st
    bank := vdrop pm.bank st, chain := vdrop pm.chain st, zero := vdrop pm.zero st, loc := vdrop pm.loc st }

/-- What a step's writes to stacked memory leave when it ends with a status: each byte holds its former value
or a value the step wrote, by a free value (R471). The steps admitted before go on seeing what stood there (R235). -/
def openWrites (s : State) (x : Step) : State :=
  let os := otherLive s x
  let s' := s.sm.mem.log.foldl (fun (p : State × Vers Byte) w =>
      if w.step = x.id ∧ 0 < w.cycle then
        let f := takeFree p.1
        (f.2, if f.1.getLsbD 0 then vpoke 0 p.2 os w.addr w.val else p.2)
      else p) (s, s.sm.mem)
  { s'.1 with sm := { s'.1.sm with mem := vdrop s'.2 x.id } }

/-- What a kill for re-run leaves in stacked memory: the writes made before the kill stay (R471). -/
def keepWrites (s : State) (x : Step) : State :=
  { s with sm := { s.sm with mem := vcommit 0 s.sm.mem x.id (otherLive s x) } }

/-- Key of the learned energy e[m][s] of an image slot (R399). -/
def learnKey (slot m sp : Nat) : Nat := 8192 * slot + 32 * m + sp

/-- The span of a unit key; none for keystones and abutments. -/
def keySpan (k : Nat) : Option Nat := if k < 1024 then some (k / 32) else if k < 2300 then some (k % 100) else none

/-- A learned value after a measured one (R399): it rises at once and falls by a quarter. -/
def learn (e x : Nat) : Nat := if e < x then x else e - (e - x) / 4

/-- The claim estimate of a span: the full-rate energy per cycle of every unit of it that claim list 0 holds. -/
def claimEstimate (img : Image) (sp : Nat) : Nat :=
  total (((img.claims.headD []).filter fun k =>
    (decide (k.res ≤ 3) && decide (k.unit / 32 = sp)) || (decide (k.res = 4 ∨ k.res = 5) && decide (k.unit = sp)) ||
      (decide (k.res = 6 ∧ k.unit < 128) && decide (k.unit / 4 = sp))).map fun k => k.amount * Config.claimEnergy k.res)

/-- The learned value of a phase number and span; an unlisted one is the claim estimate. -/
def learnedOf (c : Ctx) (slot : Nat) (img : Image) (m sp : Nat) : Nat :=
  if m < 256 then (kfind c.learned (learnKey slot m sp)).getD (claimEstimate img sp) else claimEstimate img sp

/-- Ends the occurrence of phase number `m` on a span with the measured value `v`; phases above 255 keep the claim
estimate. -/
def learnPhase (c : Ctx) (slot : Nat) (img : Image) (m sp v : Nat) : Ctx :=
  if m < 256 then { c with learned := kput c.learned (learnKey slot m sp) (learn (learnedOf c slot img m sp) v) } else c

/-- The phases in progress on the spans of a step: phase number and span. -/
def openPhases (img : Image) (x : Step) : List (Nat × Nat) :=
  (x.units.filterMap fun u =>
    match keySpan u.1, (img.phases)[u.2.phase - 1]? with
    | some sp, some t => if u.2.phase = 0 then none else some (t.id, sp)
    | _, _ => none).eraseDups

/-- A kill ends the phases in progress; the energies measured until then are free values (R399, log entry 6). -/
def learnKill (s : State) (x : Step) : State :=
  match imageOf s x with
  | none => s
  | some img => (openPhases img x).foldl (fun s p =>
      let f := takeFree s
      updCtx f.2 x.ctx fun c => learnPhase c x.slot img p.1 p.2 (f.1.toNat % 2 ^ 32)) s

/-- Removes what a step has in flight outside the dies: host reads it issued and Slory flows (R173). -/
def dropFlight (s : State) (x : Step) : State :=
  { s with
    host := { s.host with reads := s.host.reads.filter fun r =>
        match r.owner with
        | .prefetch i _ _ => decide (i ≠ x.id)
        | .stream i _ _ => decide (i ≠ x.id)
        | .master i _ _ => decide (i ≠ x.id)
        | _ => true }
    slory := { s.slory with tx := s.slory.tx.filter fun f => decide (f.stepId ≠ some x.id)
                            rxFlows := s.slory.rxFlows.filter fun f => decide (f.stepId ≠ some x.id) } }

/-- Gives up the claim of a step: its entries stay, held by no step (R237, R239). -/
def wcRelease (s : State) (st : Nat) : State :=
  { s with sm := { s.sm with stk := s.sm.stk.map fun q =>
      (q.1, { q.2 with wc := q.2.wc.map fun e => if e.step = some st then { e with step := none } else e }) } }

/-- The first-occurrence records a reply carries, and how many fit in the result buffer (R368). -/
def recordsFit (x : Step) : List Nat × Nat :=
  let rs := stepRecords x
  (rs, min rs.length (x.resultBytes / 16))

/-- Whether an end leaves records: the flag summary is not 0 and the step ran (R368). -/
def writesRecords (x : Step) : Bool := decide (flagSummary x ≠ 0) && decide (x.state ≠ .queued)

/-- The reply of STEP_RUN (R368): the step's own fields over a status and its detail. -/
def stepReply (x : Step) (y : Reply) : Reply :=
  let n := if writesRecords x then (recordsFit x).2 else 0
  { y with
    flags := flagSummary x
    skipped := y.skipped || x.skipped
    truncated := writesRecords x && decide ((recordsFit x).2 < (recordsFit x).1.length)
    detail0 := if y.kind = 0 then x.boundGen else y.detail0
    result := x.number + x.attempt * 2 ^ 32 + n * 2 ^ 48 }

/-- The host pages of a virtual address (R339): its host physical address. -/
def hostAddr (c : Ctx) (va : Nat) : Option Nat :=
  (c.windows.find? fun w => decide (w.base ≤ va ∧ va < w.base + w.pages.length * 2097152)).bind fun w =>
    (w.pages[(va - w.base) / 2097152]?).map fun p => p + (va - w.base) % 2097152

/-- Splits a byte run at 64-byte lines, as the landing writes it (R326). -/
def hostRuns : Nat → Nat → Bytes → List (Nat × Bytes)
  | 0, _, _ => []
  | fuel + 1, a, b =>
    match b with
    | [] => []
    | _ =>
      let n := 64 - a % 64
      (a, b.take n) :: hostRuns fuel (a + n) (b.drop n)

/-- Writes bytes at a virtual address of a context, line by line, once the writes `after` are observed. -/
def writeHostAfter (s : State) (n : Nat) (path : HwPath) (va : Nat) (b : Bytes) (after : List Nat) : State :=
  match ctxOf s n with
  | none => s
  | some c => (hostRuns (b.length / 64 + 2) va b).foldl (fun s q =>
      match hostAddr c q.1 with
      | some pa => issueWrite s (some n) path (some (.ctx n)) pa q.2 after
      | none => s) s

/-- Writes bytes at a virtual address of a context, line by line. -/
def writeHostVa (s : State) (n : Nat) (path : HwPath) (va : Nat) (b : Bytes) : State := writeHostAfter s n path va b []

/-- The ids of the writes that `t` has issued since `s`. -/
def issuedSince (s t : State) : List Nat := List.range' s.host.nextId (t.host.nextId - s.host.nextId)

/-- Writes bytes to the result buffer of a command: a host physical address on the administrative ring, a
virtual one on a context's (R352). -/
def writeResult (s : State) (r : RingId) (addr : Nat) (b : Bytes) : State :=
  match r with
  | .admin => (hostRuns (b.length / 64 + 2) addr b).foldl (fun s q => issueWrite s none .result (some .admin) q.1 q.2 []) s
  | .ctx n => writeHostVa s n .result addr b

/-- After a step has ended: with no step left admitted, STOPPING becomes STOPPED (R314). -/
def stoppingEnd (s : State) (n : Nat) : State :=
  match ctxOf s n with
  | none => s
  | some c =>
    if c.service = .stopping ∧ !(s.steps.any fun y => decide (y.ctx = n)) then setCtx s n { c with service := .stopped } else s

/-- The event sums of a step that committed or trapped become the context's (R87, R112, R145). -/
def noteSums (s : State) (x : Step) : State :=
  updCtx s x.ctx fun c => { c with
    pierEvents := eventSums x 0 2000, stationEvents := eventSums x 2000 2300, keyEvents := eventSums x 2300 2400 }

/-- Writes a step's records, books its energy, replies and forgets the step. -/
def replyStep (s : State) (x : Step) (y : Reply) : State :=
  let s := if writesRecords x then
      writeResult s (.ctx x.ctx) x.resultAddr (((recordsFit x).1.take (recordsFit x).2).flatMap (leBytes 16)) else s
  let s := endCmd (bookStep s x) (.ctx x.ctx) x.seq (stepReply x y)
  stoppingEnd (dropStep s x.id) x.ctx

/-- A change that the slope limit does not cover (R403). -/
def slopeChange (s : State) : State := { s with power := { s.power with slopeExempt := some s.clk.uptime } }

/-- The spans of which an image's claim list 0 holds a pier or a station. -/
def Image.spans (img : Image) : List Nat :=
  (((img.claims.headD []).filterMap fun k =>
    if k.res = 1 ∨ k.res = 2 ∨ k.res = 3 then some (k.unit / 32) else if k.res = 4 ∨ k.res = 5 then some k.unit else none)).eraseDups

/-- Key of a learned gap (R404): point 0 is the commit or vote point, 1 + w the wait point w. -/
def gapKey (slot point sp : Nat) : Nat := 262144 * slot + 32 * point + sp

/-- A gap begins on every span of a step. -/
def openGaps (s : State) (x : Step) (img : Image) (point : Nat) : State :=
  let m := img.spans.foldl (fun m sp => kput m sp (s.clk.uptime, x.ctx, gapKey x.slot point sp)) s.power.gapOpen
  { s with power := { s.power with gapOpen := m } }

/-- The next real activity of a span ends its gap: the length in whole microseconds and the demand after it are learned;
a WAIT longer than its learned gap is a change that the slope limit does not cover (R403, R404). -/
def closeGap (img : Image) (s : State) (sp : Nat) : State :=
  match kfind s.power.gapOpen sp with
  | none => s
  | some (t, n, k) =>
    let us := (s.clk.uptime - t) / 100
    let old := (ctxOf s n).bind fun c => kfind c.gaps k
    let long := decide (32 ≤ k % 262144) && (match old with | some g => decide (g.1 < us) | none => false)
    let s := updCtx { s with power := { s.power with gapOpen := kdel s.power.gapOpen sp } } n fun c =>
      { c with gaps := kput c.gaps k (us, claimEstimate img sp) }
    if long then slopeChange s else s

/-- Ends the gaps of every span of an image. -/
def closeGaps (s : State) (img : Image) : State := img.spans.foldl (closeGap img) s

/-- What a kill leaves of the step for its reply: a trap keeps flags and records; any other end discards them, with the counters
(R44, R45, R88). -/
def Step.ended (x : Step) (status : Nat) : Step := if status = stArithTrap then x else { x with units := [] }

/-- A kill that ends a step with a status: its staged state is discarded (R88, R173). The event sums of a step that ends with
ST_ARITH_TRAP become the context's (R87). -/
def endStep (s : State) (x : Step) (y : Reply) : State :=
  let s := bookFiller s x
  let s := if x.state.live ∨ x.state = .hold then openWrites { learnKill (slopeChange s) x with pm := dropDies s.pm x.id } x else s
  let s := if y.status = stArithTrap then noteSums s x else s
  replyStep (wcRelease (dropFlight s x) x.id) (x.ended y.status) y

/-- A cause within the module ends a step: a step of one module ends with its status; a participant of a
multi-module step stops and votes VOTE_FAIL with the status (R289). -/
def failStep (s : State) (x : Step) (y : Reply) : State :=
  match imageOf s x with
  | some img => if img.multi ∧ s.slory.node.isSome then (if x.state.live then castVote s x img 3 y.status else s) else endStep s x y
  | none => endStep s x y

/-- DETAIL_KIND UNIT: the unit and the phase number (R354). -/
def slipReply (u : UnitRef) (phase : Nat) : Reply := { status := stContractSlip, kind := 3, detail0 := u.detail + phase * 65536 }

/-- A step fails a phase check or the final check (R158); in a multi-module step the participant votes VOTE_REPEAT
when it has waited for a fabric flow with no fill segment left, else VOTE_FAIL (R289). -/
def slipStep (s : State) (x : Step) (img : Image) (u : UnitRef) (phase : Nat) : State :=
  if img.multi ∧ s.slory.node.isSome ∧ x.waiting then castVote s x img 2 stContractSlip else failStep s x (slipReply u phase)

/-- A unit issues an instruction of cycle `cyc`, to the state `go`: where it begins a phase with an offset beyond the phase's
slack, the step ends instead (R158). -/
def issueOr (s : State) (img : Image) (x : Step) (key : Nat) (u : UnitSt) (cyc stall : Nat) (go : State) : State :=
  match latePhase img x u cyc stall with
  | some t => slipStep s x img (keyUnit key) t.id
  | none => go

/-- The failed read that stands where one of the streams `ds` of a step goes on: its data would be the next to reach a consumer
(R342). -/
def brokenRead (s : State) (x : Step) (ds : List Nat) : Option HostRead :=
  s.host.reads.find? fun r => r.failed && (match r.owner with
    | .prefetch i d k | .stream i d k => decide (i = x.id ∧ k = (x.stream d).fetched.length) && ds.contains d
    | _ => false)

/-- A unit waits at its next instruction for blocks of the streams `ds`. Where the data it waits for cannot be delivered, the
step ends with ST_MEM_UE (R342). -/
def waitFor (s : State) (x : Step) (key : Nat) (u : UnitSt) (stall dry : Nat) (ds : List Nat) : State :=
  match brokenRead s x ds with
  | some r => failStep s x (memoryReply 1 r.addr)
  | none => waitUnit s x key u stall dry

/-- A kill for re-run: everything of the attempt goes and the step waits ahead of its context's other steps,
with its binding (R168, R172). -/
def rerunStep (s : State) (x : Step) (attempt : Nat) : State :=
  let s := bookFiller s x
  let s := wcRelease (dropFlight (keepWrites { learnKill (slopeChange s) x with pm := dropDies s.pm x.id } x) x) x.id
  let y : Step := { id := x.id, ctx := x.ctx, seq := x.seq, fence := x.fence, slot := x.slot, number := x.number,
                    bindings := x.bindings, resultAddr := x.resultAddr, resultBytes := x.resultBytes, attempt := attempt,
                    rerun := true, boundGen := x.boundGen, boundAges := x.boundAges, scalars := x.scalars,
                    killed := x.killed.plus x.activity }
  { s with steps := y :: s.steps.filter fun z => decide (z.id ≠ x.id) }

/-! ### Device-fatal (R362, R426, R429, R458) -/

/-- Ends every step of the module with ST_DEVICE_FATAL; a step past its commit point has committed. -/
def fatalSteps (s : State) : State :=
  s.steps.foldl (fun s x =>
    if x.state = .committed then replyStep s x { status := stDeviceFatal, committed := true }
    else endStep s x (plain stDeviceFatal)) s

/-- Ends every command of a ring that has not replied with ST_DEVICE_FATAL; a reply held back keeps its other fields, COMMITTED
among them (R353, R362). -/
def fatalRing (s : State) (r : RingId) : State :=
  match ringOf s r with
  | none => s
  | some g => g.cmds.foldl (fun s c => postReply s r c.seq
      (match c.held with
      | some y => { y with status := stDeviceFatal }
      | none => { status := stDeviceFatal, opcode := c.opcode, seq := c.seqNo, ctx := c.concerned r })) s

/-- A link that was up goes down: LINK_CHANGE, the counters, vector 258; frames being sent are lost, the quanta of a
pause are counted (R262, R269, R270). -/
def dropLink (s : State) (q : Nat) : State :=
  let p := portOf s q
  if p.up then
    let s := bumpPort (bumpPort (settlePort s q) q 37 1) q 10 (b2n p.onWire.isSome + b2n p.expressWire.isSome)
    let p := portOf s q
    raiseVector (setPort s q { p with
      up := false, onWire := none, expressWire := none, cut := false, cuts := 0, preempt := false, verify := 0, linkChange := true, paused := 0
      quanta := [], pausedAt := [], counted := [], express := p.express.filter fun f => decide (f.prio ≠ 9) }) 258
  else s

/-- The transmitters of every port go to electrical idle: nothing is on a wire or waits to be (R424, R426). -/
def idlePorts (s : State) : State :=
  s.ports.foldl (fun s p =>
    let s := dropLink s p.1
    setPort s p.1 { portOf s p.1 with training := false, advert := none, express := [], bulk := [], expressWait := [], bulkWait := [] }) s

/-- The newest `n` entries of the log, newest first. -/
def newestEntries (e : ErrLog) (n : Nat) : List LogEntry :=
  ((e.slots.map (·.2)).mergeSort fun a b => !a.older b).take n

/-- The module becomes device-fatal; a later FATAL cause changes nothing else (R426, R432). -/
def becomeFatal (s : State) (code : Nat) (ctx : Option Nat) (detail : BitVec 128) : State :=
  if s.boot.fatal then s
  else
    let fatalEntry : LogEntry := ⟨code, 5, false, ctx, 1, s.clk.uptime, detail⟩
    let earlier := (newestEntries s.err 16).filter fun e => !decide (e.code = code ∧ e.time = s.clk.uptime)
    let s := { s with
      boot := { s.boot with fatal := true, viral := true, stage := 0xF0 }
      power := { s.power with slopeExempt := some s.clk.uptime }
      err := { s.err with fatalBit := true }
      store := { s.store with summary := (fatalEntry :: earlier).take 16 } }
    let s := raiseVector s 257
    let s := fatalSteps s
    let s := (s.rings.map fun q => RingId.ctx q.1).foldl fatalRing (fatalRing s .admin)
    emit (emit (emit (idlePorts s) .viral) (.faultN true)) (.pldmEvent code detail)

/-- Logs a FATAL error and becomes device-fatal. -/
def logFatal (s : State) (code : Nat) (ctx : Option Nat) (detail : BitVec 128) : State :=
  becomeFatal (logErr s code ctx detail) code ctx detail

end Sys2Proof.Machine
end

