-- ==== Sys2Proof/Machine/Mem.lean ====
section
/-! DEFINITION. Stacked memory: owners (R231, R248), command work's reads, the write-combining buffer (R236 to R239), and the outcomes of a checked read (R240 to R243). -/

namespace Sys2Proof.Machine

/-! ### Addresses -/

/-- The context that owns a frame (R231). -/
def frameOwner (s : State) (f : Nat) : Option Nat := (s.ctxs.find? fun q => q.2.frames.contains f).map (·.1)

/-- The context that owns the frame of a resolved address: a spare granule serves the frame of the granule that it
replaces (R248). -/
def ownerOf (s : State) (pa : Nat) : Option Nat :=
  if pa < spareFirst * 524288 then frameOwner s (pa / 2097152)
  else
    (s.store.retired.find? fun e => decide (e.1 / 524288 = paStack pa ∧ spareFirst + e.2 = pa / 524288)).bind fun e =>
      frameOwner s (e.1 % 524288 / 4)

/-- Reads `n` bytes of a context's stacked-memory range as command work sees them. -/
def peekVa (s : State) (c : Ctx) (va n : Nat) : Bytes :=
  (List.range n).map fun i =>
    match paOf c (va + i) with
    | some pa => kget 0 s.sm.mem.base (resolve s pa)
    | none => 0

/-! ### Memory error records (R242) -/

/-- SOURCE of a memory error record. -/
inductive MemSource where
  | stepRead | writeOut | patrol | command
  deriving DecidableEq, Repr

/-- The code of SOURCE. -/
def MemSource.code : MemSource → Nat
  | .stepRead => 0 | .writeOut => 1 | .patrol => 2 | .command => 3

/-- The record of R242; `count` is the occurrences of EVENT on the stack. -/
def memRecord (event b chan : Nat) (src : MemSource) (ctx : Option Nat) (symbol gran line codeword time count : Nat) : BitVec 128 :=
  BitVec.ofNat 128 (event + b * 2 ^ 4 + chan * 2 ^ 7 + src.code * 2 ^ 12 + b2n ctx.isSome * 2 ^ 14 + ctx.getD 0 * 2 ^ 16 +
    symbol * 2 ^ 24 + gran * 2 ^ 32 + line * 2 ^ 51 + codeword * 2 ^ 60 + min max32 (time / 1024) * 2 ^ 64 + count * 2 ^ 96)

/-- Counts an event of a stack and gives its record. -/
def noteMem (s : State) (event pa : Nat) (src : MemSource) (symbol codeword : Nat) : State × BitVec 128 :=
  let b := paStack pa
  let k := stackOf s b
  let n := satAdd max32 (kget 0 k.eventCounts event) 1
  (setStack s b { k with eventCounts := kset 0 k.eventCounts event n },
    memRecord event b (paChannel pa) src (ownerOf s pa) symbol (paGranule pa) (paLine pa) codeword s.clk.uptime n)

/-- Logs a memory event under its code 0x0100 + EVENT (R428). -/
def logMem (s : State) (event pa : Nat) (src : MemSource) (symbol codeword : Nat) : State × BitVec 128 :=
  let r := noteMem s event pa src symbol codeword
  (logErr r.1 (0x0100 + event) (ownerOf s pa) r.2, r.2)

/-! ### Poison and corrections (R240) -/

/-- Codeword index of a physical address. -/
def cwOf (pa : Nat) : Nat := pa / 32

/-- The four codewords of the line that holds a physical address. -/
def lineCws (pa : Nat) : List Nat := (List.range 4).map (pa / 128 * 4 + ·)

/-- Whether a line reads as poisoned. -/
def linePoisoned (s : State) (pa : Nat) : Bool := (lineCws pa).any s.sm.poison.contains

/-- Writes the poison pattern over a line. -/
def poisonLine (s : State) (pa : Nat) : State :=
  { s with sm := { s.sm with poison := s.sm.poison ++ (lineCws pa).filter fun c => !s.sm.poison.contains c } }

/-- A plain write of codewords clears their poison. -/
def cleanCws (s : State) (cs : List Nat) : State :=
  { s with sm := { s.sm with poison := s.sm.poison.filter fun c => !cs.contains c } }

/-- One corrected symbol: the counters advance, a rewrite is owed, and at 16 lines of a granule an advisory
record is logged. -/
def noteCorrected (s : State) (pa codeword symbol : Nat) (src : MemSource) : State :=
  let b := paStack pa
  let k := stackOf s b
  let n := kget 0 k.granuleCorr (paGranule pa) + 1
  let s := setStack s b { k with corrected := satAdd max64 k.corrected 1, granuleCorr := kset 0 k.granuleCorr (paGranule pa) n,
                                 rewrites := k.rewrites ++ [(pa / 128, 0)] }
  if n = 16 then (logMem s 1 pa src symbol codeword).1 else s

/-- A poisoned line was read: the poisoned-read counter advances, with no new record. -/
def notePoisonedRead (s : State) (pa : Nat) : State :=
  let k := stackOf s (paStack pa)
  setStack s (paStack pa) { k with poisonedReads := satAdd max64 k.poisonedReads 1 }

/-- A fresh uncorrectable codeword: the line is poisoned, a record logged, and the owner's vector sent. -/
def noteUncorrectable (s : State) (pa codeword : Nat) (src : MemSource) : State × BitVec 128 :=
  let r := logMem (poisonLine s pa) 2 pa src 63 codeword
  (match ownerOf s pa with | some n => sendVector r.1 n | none => r.1, r.2)

/-- The line of a read that a verdict is about. -/
def Ecc.line : Ecc → Nat
  | .ok => 0
  | .corrected l _ _ | .uncorrectable l _ | .miscorrected l _ _ _ | .unseen l _ _ => l

/-- The verdict on a read of one line. -/
def Ecc.alone : Ecc → Ecc
  | .ok => .ok
  | .corrected _ w y => .corrected 0 w y
  | .uncorrectable _ w => .uncorrectable 0 w
  | .miscorrected _ w y d => .miscorrected 0 w y d
  | .unseen _ w d => .unseen 0 w d

/-- A codeword that is delivered wrong: until it is written again every reader gets the wrong data (R240). -/
def corruptCw (s : State) (pa cw : Nat) (data : BitVec 256) : State :=
  let a := pa / 128 * 128 + 32 * (cw % 4)
  let bs := leBytes 32 data.toNat
  { s with sm := { s.sm with mem :=
      { base := ksetRun 0 s.sm.mem.base a bs
        log := s.sm.mem.log.map fun w => if a ≤ w.addr ∧ w.addr < a + 32 then { w with val := bs.getD (w.addr - a) 0 } else w } } }

/-- One verdict on the line at `pa`: the state after it, and the record of a fresh uncorrectable codeword. -/
def checkOne (src : MemSource) (pa : Nat) (q : State × Option (BitVec 128)) (e : Ecc) : State × Option (BitVec 128) :=
  match e with
  | .ok => q
  | .corrected _ cw sy => (noteCorrected q.1 pa cw sy src, q.2)
  | .uncorrectable _ cw => let r := noteUncorrectable q.1 pa cw src; (r.1, q.2.or (some r.2))
  | .miscorrected _ cw sy d => (corruptCw (noteCorrected q.1 pa cw sy src) pa cw d, q.2)
  | .unseen _ cw d => (corruptCw q.1 pa cw d, q.2)

/-- The read of one line: a poisoned line counts as a poisoned read and fails, else the verdicts on it take effect. -/
def checkLine (eccs : List Ecc) (src : MemSource) (q : State × Option (BitVec 128)) (e : Nat × Nat) : State × Option (BitVec 128) :=
  if linePoisoned q.1 e.2 then
    let s := notePoisonedRead q.1 e.2
    (s, q.2.or (some (memRecord 2 (paStack e.2) (paChannel e.2) src (ownerOf s e.2) 63 (paGranule e.2) (paLine e.2) 0 s.clk.uptime
      (kget 0 (stackOf s (paStack e.2)).eventCounts 2))))
  else (eccs.filter fun v => decide (v.line = e.1)).foldl (checkOne src e.2) q

/-- The outcome of a checked read of the lines at `pas`, with the verdicts of the symbol code: the state after it, and the
record of the first line that cannot be delivered (R240, R243). -/
def checkLines (s : State) (pas : List Nat) (eccs : List Ecc) (src : MemSource) : State × Option (BitVec 128) :=
  ((List.range pas.length).zip pas).foldl (checkLine eccs src) (s, none)

/-! ### Storage of tensors and images (R196, R204, R374) -/

/-- Where byte `o` of an area of a tensor's storage lies: in one of the context's frames, which no address names (log entry
20). -/
def tensorPa (s : State) (c : Ctx) (num area o : Nat) : Nat :=
  resolve s (c.frames.getD (Config.tensorFrame num area (o / 2097152) % max 1 c.frames.length) 0 * 2097152 + o % 2097152)

/-- Area of a slot of a plane: 0 the masters, 1 and 2 the moments. -/
def planeArea (plane : Nat) (slot : Bool) : Nat := 8 + 2 * plane + b2n slot

/-- The wrong data that the verdicts of a read deliver: line, codeword and bytes (R240). -/
def wrongData (eccs : List Ecc) : List (Nat × Nat × Bytes) :=
  eccs.filterMap fun e => match e with
    | .miscorrected l w _ d | .unseen l w d => some (l, w, leBytes 32 d.toNat)
    | _ => none

/-- Writes of a whole area of a tensor clear the poison of its `pages` pages. -/
def cleanArea (s : State) (c : Ctx) (num area pages : Nat) : State :=
  cleanCws s (s.sm.poison.filter fun w => (List.range pages).any fun p => decide (tensorPa s c num area (p * 2097152) / 2097152 = w / 65536))

/-- The status reply of work that met an uncorrectable line: DETAIL1 is the low half of the record (R354). -/
def memUe (rec : BitVec 128) : Reply := memoryReply 0 (rec.toNat % 2 ^ 64)

/-! ### Write combining (R236 to R239) -/

/-- The number of entries a step may hold on bearing `b` (R237): floor(1,024 × L / 16). -/
def wcShare (img : Image) (b : Nat) : Nat :=
  (((img.claims.headD []).filter fun c => decide (c.res = 7 ∧ c.unit = b)).foldl (fun a c => a + c.amount) 0) * 1024 / 16

/-- Whether codeword `i` of an entry is wholly valid. -/
def WcEntry.full (e : WcEntry) (i : Nat) : Bool := (List.range 32).all fun j => e.mask.getLsbD (32 * i + j)

/-- Whether codeword `i` of an entry is untouched. -/
def WcEntry.empty (e : WcEntry) (i : Nat) : Bool := (List.range 32).all fun j => !e.mask.getLsbD (32 * i + j)

/-- Whether an entry is written with no read: every codeword wholly valid or wholly untouched (R238). -/
def WcEntry.plain (e : WcEntry) : Bool := (List.range 4).all fun i => e.full i || e.empty i

/-- Removes the entry of a line from the buffer of a stack. -/
def wcDrop (s : State) (b line : Nat) : State :=
  let k := stackOf s b
  setStack s b { k with wc := k.wc.filter fun e => decide (e.line ≠ line) }

/-- A step that owns a failed write-out ends with ST_MEM_UE before its commit point (R238). -/
def failOwner (s : State) (e : WcEntry) (rec : BitVec 128) : State :=
  match e.step.bind (stepOf s) with
  | some x => if x.state.live then failStep s x (memUe rec) else s
  | none => s

/-- Writes an entry out (R238): plainly, or after a read whose verdict is `ecc`. -/
def wcOut (s : State) (b : Nat) (e : WcEntry) (ecc : Ecc) : State :=
  let s := wcDrop s b e.line
  let pa := e.line * 128
  if e.plain then cleanCws s (((List.range 4).filter e.full).map (e.line * 4 + ·))
  else
    match checkLines s [pa] [ecc.alone] .writeOut with
    | (s, none) => s
    | (s, some rec) => failOwner (poisonLine s pa) e rec

/-- The oldest entry of a step. -/
def wcOldest (k : Stack) (st : Option Nat) : Option WcEntry := k.wc.find? fun e => decide (e.step = st)

/-- Merges bytes into an entry at byte offset `off` of its line. -/
def WcEntry.merge (e : WcEntry) (off : Nat) (bs : Bytes) : WcEntry :=
  let n := bs.length
  let m : BitVec 128 := (BitVec.ofNat 128 (2 ^ n - 1)) <<< off
  let dm : BitVec 1024 := (BitVec.ofNat 1024 (2 ^ (8 * n) - 1)) <<< (8 * off)
  { e with mask := e.mask ||| m, data := (e.data &&& ~~~dm) ||| ((BitVec.ofNat 1024 (leNat bs)) <<< (8 * off)) }

/-- Makes room for a new entry of a step: its share, then the buffer of 1,024 entries (R236, R237). -/
def wcRoom (s : State) (b share : Nat) (st : Option Nat) (ecc : Ecc) : State :=
  let k := stackOf s b
  if st.isSome ∧ share ≤ (k.wc.filter fun e => decide (e.step = st)).length then
    match wcOldest k st with
    | some e => wcOut s b e ecc
    | none => s
  else if 1024 ≤ k.wc.length then
    match k.wc.head? with
    | some e => wcOut s b e ecc
    | none => s
  else s

/-- A write of bytes within one line enters the write-combining buffer (R236). -/
def wcWrite (s : State) (pa : Nat) (bs : Bytes) (ctx : Nat) (st : Option Nat) (share : Nat) (ecc : Ecc) : State :=
  let b := paStack pa
  let line := pa / 128
  let s := if (stackOf s b).wc.any fun e => decide (e.line = line) then s
    else
      let s := wcRoom s b share st ecc
      let k := stackOf s b
      setStack s b { k with wc := k.wc ++ [⟨line, 0, 0, ctx, st⟩] }
  let k := stackOf s b
  match k.wc.find? fun e => decide (e.line = line) with
  | none => s
  | some e =>
    let e' := e.merge (pa % 128) bs
    let s := setStack s b { k with wc := k.wc.map fun q => if q.line = line then e' else q, rewrites := k.rewrites.filter fun q => decide (q.1 ≠ line) }
    if e'.mask = BitVec.allOnes 128 then wcOut s b e' .ok else s

/-- Splits a run of bytes at line boundaries. -/
def lineRuns : Nat → Nat → Bytes → List (Nat × Bytes)
  | 0, _, _ => []
  | fuel + 1, a, b =>
    match b with
    | [] => []
    | _ =>
      let n := 128 - a % 128
      (a, b.take n) :: lineRuns fuel (a + n) (b.drop n)

/-- A step writes bytes of its stacked-memory range at nominal cycle `cyc`, the stream's descriptor
index as its rank (R235, R236, R471). -/
def storeVa (s : State) (img : Image) (c : Ctx) (x : Step) (cyc rank va : Nat) (bs : Bytes) (ecc : Ecc) : State :=
  (lineRuns (bs.length / 128 + 2) va bs).foldl (fun s r =>
    match paOf c r.1 with
    | none => s
    | some pa =>
      let pa := resolve s pa
      let s := { s with sm := { s.sm with mem := vputRun s.sm.mem x.id cyc rank pa r.2 } }
      wcWrite s pa r.2 x.ctx (some x.id) (wcShare img (paStack pa)) ecc) s

/-- A step writes bytes of an area of a tensor's storage: they enter the write-combining buffers (R236). -/
def storeTensor (s : State) (img : Image) (c : Ctx) (x : Step) (num area o : Nat) (bs : Bytes) (ecc : Ecc) : State :=
  (lineRuns (bs.length / 128 + 2) o bs).foldl (fun s r =>
    let pa := tensorPa s c num area r.1
    wcWrite s pa r.2 x.ctx (some x.id) (wcShare img (paStack pa)) ecc) s

/-- Writes one entry out at a fence; `eccs` holds the verdicts of the read-modify-write reads still to come, in order. -/
def fenceOut (b : Nat) (q : State × List Ecc) (e : WcEntry) : State × List Ecc :=
  if e.plain then (wcOut q.1 b e .ok, q.2) else (wcOut q.1 b e (q.2.headD .ok), q.2.drop 1)

/-- Fences the entries that `sel` names: each is written out, stack after stack (R239); `eccs` gives the verdicts of the reads
that this takes, in order. -/
def wcFence (s : State) (sel : WcEntry → Bool) (eccs : List Ecc) : State :=
  ((List.range 8).foldl (fun q b => ((stackOf q.1 b).wc.filter sel).foldl (fenceOut b) q) (s, eccs)).1

/-- Discards the entries that `sel` names, without write-out (R239). -/
def wcDiscard (s : State) (sel : WcEntry → Bool) : State :=
  { s with sm := { s.sm with stk := s.sm.stk.map fun q => (q.1, { q.2 with wc := q.2.wc.filter fun e => !sel e }) } }

/-- Takes a frame of the context's reservation for a virtual page, unless it is mapped (R374). -/
def mapPage (c : Ctx) (page : Nat) : Ctx :=
  match kfind c.pageMap page with
  | some _ => c
  | none =>
    match c.frames.find? fun f => !(c.pageMap.any fun e => decide (e.2 = f)) with
    | some f => { c with pageMap := kput c.pageMap page f, drawn := c.drawn + 1 }
    | none => c

end Sys2Proof.Machine
end

