-- ==== Sys2Proof/Machine/Pier.lean ====
section
/-! DEFINITION. Pier instructions: matrix products, feeder fills, drains, bank writes, flag clears and
stream movement (chapters 03 to 05). The operand `stall` counts the cycles the pier stalled at this turn under R75, `dry`
its entrance-cycles under R76; neither changes a result (R74). -/

namespace Sys2Proof.Machine

/-! ### Operand reads -/

/-- The value at stored element (u, v) of a feeder slot, at nominal cycle `cyc` (R60). -/
def slotElem (s : State) (st a : Nat) (sideB : Bool) (f : Fmt) (slot cyc u v : Nat) : FV :=
  fdec f (leNat (vreadRun 0 s.pm.feeder st cyc (slotKey a sideB f slot + (8 * u + v) * f.size) f.size))

/-- The value at entrance `j` of a feeder at position `k` of a k-block (R61). `byCol` reads stored columns. -/
def entrance (s : State) (st a : Nat) (sideB : Bool) (f : Fmt) (slot cyc k : Nat) (byCol : Bool) (j : Nat) : FV :=
  if byCol then slotElem s st a sideB f slot cyc j k else slotElem s st a sideB f slot cyc k j

/-- The skipped-block mark of a slot: 0 none, 1 zero tags, 2 null lines (R63, R64). -/
def slotMark (s : State) (st a : Nat) (sideB : Bool) (f : Fmt) (slot cyc : Nat) : Nat :=
  vread 0 s.pm.skip st cyc (markKey a sideB f slot)

/-- The 64 elements of a bank as a step reads them at nominal cycle `cyc`. -/
def bankVals (s : State) (st a bank cyc : Nat) : List (BitVec 32) := vreadRun 0 s.pm.bank st cyc (bankKey a bank 0 0) 64

/-! ### MMA (R52, R56, R61 to R65, R73, R74) -/

/-- Whether the lanes of one feeder can deliver the k-step at position `k` of a block in nominal cycle `t`: in an orientation
that reads stored columns every row must be valid, else the row of the k-step (R61, R62). With ZERO_SKIP the block's mark
is settled by its last line, so the k-step waits for the whole block (R101). -/
def lanesReady (s : State) (st a : Nat) (sideB : Bool) (f : Fmt) (slot t k : Nat) (byCol whole : Bool) : Bool :=
  (if byCol || whole then List.range 8 else [k]).all fun r => vread false s.pm.valid st t (8 * markKey a sideB f slot + r)

/-- Whether the next k-step of a matrix instruction finds its operands in both feeders (R73). -/
def MmaRun.ready (s : State) (st p : Nat) (whole : Bool) (m : MmaRun) : Bool :=
  let a := arrayNo p m.array
  lanesReady s st a false m.fmtA (m.aSlot + m.fired / 8) (m.cycle + m.fired) (m.fired % 8) (!m.ta) whole &&
    lanesReady s st a true m.fmtB (m.bSlot + m.fired / 8) (m.cycle + m.fired) (m.fired % 8) m.tb whole

/-- The instruction at its first k-step: the bank and the k index of the chain it adds to (R47). -/
def MmaRun.begun (s : State) (st p : Nat) (m : MmaRun) : MmaRun :=
  if m.fired = 0 then
    { m with vals := bankVals s st (arrayNo p m.array) m.bank m.cycle
             kIdx := if m.acc then vread 0 s.pm.chain st m.cycle (4 * arrayNo p m.array + m.bank) else 0 }
  else m

/-- The next k-step of one array: 64 products (R51, R52), the events they raise and how many fired. A k-step of a marked
slot fires no cell (R63); one of a slot filled from null lines does not count in the chain (R96). -/
def MmaRun.fire (s : State) (st p : Nat) (m : MmaRun) : MmaRun × List (Nat × EventAt × Nat) × Nat :=
  let m := m.begun s st p
  let a := arrayNo p m.array
  let t := m.cycle + m.fired
  let b := m.fired / 8
  let ma := slotMark s st a false m.fmtA (m.aSlot + b) t
  let mb := slotMark s st a true m.fmtB (m.bSlot + b) t
  if ma ≠ 0 ∨ mb ≠ 0 then
    ({ m with fired := m.fired + 1, kIdx := if ma = 2 ∨ mb = 2 then m.kIdx else m.kIdx + 1 }, [], 0)
  else
    let av := (List.range 8).map (entrance s st a false m.fmtA (m.aSlot + b) t (m.fired % 8) (!m.ta))
    let bv := (List.range 8).map (entrance s st a true m.fmtB (m.bSlot + b) t (m.fired % 8) m.tb)
    let res := (List.range 64).map fun e =>
      mac (m.vals.getD e 0) (av.getD (e / 8) .nan) (bv.getD (e % 8) .nan) (!m.acc && !m.started)
    ({ m with fired := m.fired + 1, vals := res.map (·.1), started := true, kIdx := m.kIdx + 1 },
      ((List.range 64).zip res).filterMap (fun q =>
        if q.2.2 = 0 then none else some (t, .pier false m.array (q.1 / 8) (q.1 % 8) m.kIdx m.bank, q.2.2)),
      64)

/-- A matrix instruction of one array on its way, with what it has raised, the cells that fired and its activity. -/
structure MmaWork where
  run : MmaRun
  events : List (Nat × EventAt × Nat) := []
  fired : Nat := 0
  ramp : Ramp := {}
  filler : Nat := 0
  deriving DecidableEq, Repr

/-- Fires up to `n` k-steps, in ascending order: each whose nominal cycle is not above `lim` and whose operands are valid.
`lim` is the cycle of the pier's next instruction, whose writes no k-step up to it sees (R55, R134). -/
def MmaWork.go (s : State) (st p : Nat) (whole : Bool) (lim : Option Nat) : Nat → MmaWork → MmaWork
  | 0, w => w
  | n + 1, w =>
    if (match lim with | some l => decide (w.run.cycle + w.run.fired ≤ l) | none => true) && w.run.ready s st p whole then
      let r := w.run.fire s st p
      let k := w.ramp.kStep (w.run.cycle + w.run.fired + 32) r.2.2
      MmaWork.go s st p whole lim n ⟨r.1, w.events ++ r.2.1, w.fired + r.2.2, k.1, w.filler + k.2⟩
    else w

/-- The bank after the last k-step: it takes its new value and its chain's k index at that nominal cycle. An overwrite of
which every product is skipped leaves +0.0 (R63). -/
def MmaRun.finish (pm : PierMem) (st p : Nat) (m : MmaRun) : PierMem :=
  let a := arrayNo p m.array
  let last := m.cycle + 8 * m.kb - 1
  { pm with bank := vwriteRun pm.bank st last (bankKey a m.bank 0 0) (if !m.acc && !m.started then List.replicate 64 0 else m.vals)
            chain := vwrite pm.chain st last (4 * a + m.bank) m.kIdx }

/-- Adds events to a unit. -/
def UnitSt.raiseAll (u : UnitSt) (evs : List (Nat × EventAt × Nat)) : UnitSt :=
  evs.foldl (fun u e => u.raise e.1 e.2.1 e.2.2) u

/-- Takes one matrix instruction of a pier as far as it goes; `left` holds those that still have k-steps to fire, and an array
fires nothing of an instruction before the one ahead of it is done (R74). -/
def runMma (st p : Nat) (whole : Bool) (lim : Option Nat) (q : State × UnitSt × List MmaRun × Nat) (m : MmaRun) :
    State × UnitSt × List MmaRun × Nat :=
  let (s, u, left, fired) := q
  if left.any fun l => decide (l.array = m.array) then (s, u, left ++ [m], fired)
  else
    let w := MmaWork.go s st p whole lim (8 * m.kb - m.fired) { run := m, ramp := kget {} u.ramps m.array }
    let u := u.raiseAll w.events
    let u := { u with ramps := kput u.ramps m.array w.ramp, filler := u.filler + w.filler }
    if w.run.fired < 8 * m.kb then (s, u, left ++ [w.run], fired + w.fired)
    else ({ s with pm := w.run.finish s.pm st p }, u, left, fired + w.fired)

/-! ### FILL (R57, R62, R64, R95, R101) -/

/-- The mark a FILL gives its slot: null lines always skip, lines tagged zero skip where ZERO_SKIP is 1. -/
def fillMark (s : State) (img : Image) (c : Ctx) (st p cyc addr n : Nat) : Nat :=
  let ls := (List.range n).map (addr + ·)
  if ls.all (nullLine img p) then 2
  else if img.zeroSkip && ls.all (fun l => vread false s.pm.zero st cyc (4096 * p + residentLine img c p l)) then 1 else 0

/-- The bytes of `n` lines from `addr` as a step reads them. -/
def readLines (s : State) (img : Image) (c : Ctx) (st p cyc addr n : Nat) : Bytes :=
  (List.range n).flatMap fun l => vreadRun 0 s.pm.tile st cyc (lineKey p (residentLine img c p (addr + l))) 64

/-- Writes one slot of one feeder with its mark and its eight valid bits. -/
def writeSlot (pm : PierMem) (st cyc a : Nat) (sideB : Bool) (f : Fmt) (slot : Nat) (b : Bytes) (mark : Nat) : PierMem :=
  { pm with feeder := vwriteRun pm.feeder st cyc (slotKey a sideB f slot) b
            skip := vwrite pm.skip st cyc (markKey a sideB f slot) mark
            valid := vwriteRun pm.valid st cyc (8 * markKey a sideB f slot) (List.replicate 8 true) }

/-- Brings source line `l` of a FILL into a slot: its bytes, and the valid bits of the stored rows it holds (R62). -/
def writeSlotLine (pm : PierMem) (st cyc a : Nat) (sideB : Bool) (f : Fmt) (slot l : Nat) (b : Bytes) : PierMem :=
  let rows := 8 / blockLines f
  { pm with feeder := vwriteRun pm.feeder st cyc (slotKey a sideB f slot + 64 * l) b
            valid := vwriteRun pm.valid st cyc (8 * markKey a sideB f slot + rows * l) (List.replicate rows true) }

/-- Invalidates the rows of a slot, which a FILL has begun to write (R62), with the mark of a FILL whose lines have not all
landed. -/
def openSlot (pm : PierMem) (st cyc a : Nat) (sideB : Bool) (f : Fmt) (slot mark : Nat) : PierMem :=
  { pm with skip := vwrite pm.skip st cyc (markKey a sideB f slot) mark
            valid := vwriteRun pm.valid st cyc (8 * markKey a sideB f slot) (List.replicate 8 false) }

/-- Delivers the lines of a FILL that have landed to the slot of every selected array, and with the last of them its mark
(R58, R62, R64): the memories, and the lines still to come. -/
def OpenFill.deliver (s : State) (img : Image) (c : Ctx) (x : Step) (p : Nat) (k : OpenFill) : PierMem × List Nat :=
  let here := k.wait.filter fun l => !awaitsLine img x p (k.addr + l) k.cycle
  let left := k.wait.filter fun l => awaitsLine img x p (k.addr + l) k.cycle
  let pm := k.arrays.foldl (fun pm i =>
    here.foldl (fun pm l => writeSlotLine pm x.id k.cycle (arrayNo p i) k.sideB k.fmt k.slot l
      (readLines s img c x.id p k.cycle (k.addr + l) 1)) pm) s.pm
  if left = [] ∧ here ≠ [] then
    let mk := fillMark s img c x.id p k.cycle k.addr (blockLines k.fmt)
    (k.arrays.foldl (fun pm i => { pm with skip := vwrite pm.skip x.id k.cycle (markKey (arrayNo p i) k.sideB k.fmt k.slot) mk }) pm, [])
  else (pm, left)

/-- Delivers what has landed for one FILL of a pier. -/
def deliverFill (img : Image) (c : Ctx) (x : Step) (p : Nat) (q : State × List OpenFill) (k : OpenFill) : State × List OpenFill :=
  let r := k.deliver q.1 img c x p
  ({ q.1 with pm := r.1 }, if r.2 = [] then q.2 else q.2 ++ [{ k with wait := r.2 }])

/-- Takes the work of a pier forward: landed lines reach the slots that wait for them, and every k-step fires that is due and
finds its operands (R62, R73, R74). -/
def pierAdvance (s : State) (img : Image) (c : Ctx) (x : Step) (p : Nat) : State :=
  let u := x.unit p
  let f := u.fills.foldl (deliverFill img c x p) (s, [])
  let lim := nextCycle img x p
  let r := u.mmas.foldl (runMma x.id p img.zeroSkip lim) (f.1, { u with fills := f.2 }, [], 0)
  let x := x.setUnit p { r.2.1 with mmas := r.2.2.1 }
  setStep r.1 { x with activity := { x.activity with arrays := x.activity.arrays + r.2.2.2 } }

/-- The k-steps of an array that its list has scheduled up to nominal cycle `cyc` and that have not fired: the lag of its
slowest entrance (R73, R75). -/
def UnitSt.lag (u : UnitSt) (cyc array : Nat) : Nat :=
  total (u.mmas.map fun m => if m.array = array then min (8 * m.kb) (cyc + 1 - m.cycle) - m.fired else 0)

/-- Whether a pier must stall before it issues anything in nominal cycle `cyc`: an entrance would lag by more than 8 k-steps
(R75). -/
def UnitSt.overLag (u : UnitSt) (cyc : Nat) : Bool := u.mmas.any fun m => decide (8 < u.lag cyc m.array)

/-- A pier's turn: the next instruction of its list issues through `run`, which answers none where it is of another kind and
some none where it must wait. A stall leaves the instruction where it is (R55, R75, R134). -/
def pierTurn (st p stall dry : Nat) (run : State → Step → Image → Ctx → PierIns → Option (Option (State × Step))) (s : State) :
    Host.Outcome State Fault Refusal :=
  match nextIns s st p (fun img => kget [] img.piers p) (·.cycle) with
  | none => .next s
  | some (x, img, c, u, ins) =>
    match run s (x.setUnit p (u.issued stall dry)) img c ins with
    | none => .next s
    | some none => .next (waitUnit s x p u stall dry)
    | some (some (t, y)) =>
      if u.overLag ins.cycle then .next (waitUnit s x p u stall dry)
      else .next (issueOr s img x p u ins.cycle stall (pierAdvance t img c y p))

/-- Issues an MMA over the selected arrays of a pier. `kb` is the number of k-blocks. -/
def issueMma (x : Step) (p cyc : Nat) (mask : BitVec 64) (bank : Nat) (acc : Bool) (fa fb : Fmt) (ta tb : Bool) (aSlot bSlot kb : Nat) : Step :=
  let u := x.unit p
  x.setUnit p { u with mmas := u.mmas ++ (maskArrays mask).map fun i => { array := i, cycle := cyc, bank := bank, acc := acc, fmtA := fa,
                                                                          fmtB := fb, ta := ta, tb := tb, aSlot := aSlot, bSlot := bSlot, kb := kb } }

/-- MMA (R56). -/
def execMma (st p stall dry : Nat) (s : State) : Host.Outcome State Fault Refusal :=
  pierTurn st p stall dry (fun s x _ _ ins =>
    match ins.op with
    | .mma bank acc fa fb ta tb aSlot bSlot kb => some (some (s, issueMma x p ins.cycle ins.mask bank acc fa fb ta tb aSlot bSlot kb))
    | _ => none) s

/-- A FILL invalidates a slot of every selected array; its block follows line by line as the lines land (R58, R62). A FILL of
null lines marks the slot at once (R95). -/
def issueFill (s : State) (img : Image) (x : Step) (p cyc : Nat) (mask : BitVec 64) (sideB : Bool) (f : Fmt) (slot addr : Nat) : State × Step :=
  let n := blockLines f
  let mk := if (List.range n).all fun l => nullLine img p (addr + l) then 2 else 0
  let pm := (maskArrays mask).foldl (fun pm i => openSlot pm x.id cyc (arrayNo p i) sideB f slot mk) s.pm
  let u := x.unit p
  let x := x.setUnit p { u with fills := u.fills ++ [⟨cyc, maskArrays mask, sideB, f, slot, addr, List.range n⟩] }
  ({ s with pm := pm }, { x with activity := { x.activity with stores := x.activity.stores + n } })

/-- FILL (R57). The rows of a line that has not landed stay invalid, and the lanes that need them run dry (R62, R134). -/
def execFill (st p stall dry : Nat) (s : State) : Host.Outcome State Fault Refusal :=
  pierTurn st p stall dry (fun s x img _ ins =>
    match ins.op with
    | .fill sideB f slot addr => some (some (issueFill s img x p ins.cycle ins.mask sideB f slot addr))
    | _ => none) s

/-! ### DRAIN (R58, R69, R70) -/

/-- The 64 elements of a drained bank with the flags of each conversion; FP32 bits leave unchanged (R69). -/
def drainElems (f : Fmt) (vals : List (BitVec 32)) : List (Nat × Nat) :=
  vals.map fun v => if f = .fp32 then (v.toNat, 0) else fconv .fp32 f v.toNat

/-- Writes whole lines of a pier's tile store, with their zero tags in format `f` (R100). -/
def writeLines (pm : PierMem) (img : Image) (c : Ctx) (st cyc p : Nat) (f : Fmt) (addr : Nat) (b : Bytes) : PierMem :=
  (List.range (b.length / 64)).foldl (fun pm l =>
    let line := residentLine img c p (addr + l)
    let lb := slice b (64 * l) 64
    { pm with tile := vwriteRun pm.tile st cyc (lineKey p line) lb
              zero := vwrite pm.zero st cyc (4096 * p + line) (allZero f lb) }) pm

/-- The shadow ranges that lines of a write belong to are written by the step (R200). -/
def noteShadow (img : Image) (x : Step) (p addr n : Nat) : Step :=
  { x with shadowRanges := x.shadowRanges ++
      ((List.range n).filterMap fun l => shadowOf img p (addr + l)).eraseDups.filter fun k => !x.shadowRanges.contains k }

/-- A DRAIN of every selected array: to tile-store lines by rank, or back into its own feeder. -/
def issueDrain (s : State) (img : Image) (c : Ctx) (x : Step) (p cyc : Nat) (mask : BitVec 64)
    (bank : Nat) (toFeeder : Bool) (f : Fmt) (sideB : Bool) (addr : Nat) : State × Step :=
  let sel := maskArrays mask
  let rs := sel.map fun i => (i, drainElems f (bankVals s x.id (arrayNo p i) bank cyc))
  let evs := rs.flatMap fun r => ((List.range 64).zip r.2).filterMap fun e =>
    if e.2.2 = 0 then none else some (cyc + e.1 / 8 + 1, EventAt.pier true r.1 (e.1 / 8) (e.1 % 8) 0 bank, e.2.2)
  let pm := (rs.zip (List.range sel.length)).foldl (fun pm r =>
    let b := blockOf f (r.1.2.map (·.1))
    if toFeeder then writeSlot pm x.id cyc (arrayNo p r.1.1) sideB f addr b 0
    else writeLines pm img c x.id cyc p f (addr + r.2 * blockLines f) b) s.pm
  let x := if toFeeder then x else noteShadow img x p addr (sel.length * blockLines f)
  let x := x.setUnit p ((x.unit p).raiseAll evs)
  ({ s with pm := pm }, { x with activity := { x.activity with stores := x.activity.stores + sel.length * blockLines f } })

/-- Whether a scheduled add into a bank of a selected array has still to complete (R75). -/
def UnitSt.addsOpen (u : UnitSt) (cyc : Nat) (mask : BitVec 64) (bank : Nat) : Bool :=
  u.mmas.any fun m => decide (m.bank = bank ∧ m.cycle < cyc) && mask.getLsbD m.array

/-- DRAIN (R70). It stalls the pier while an add into its bank has still to complete (R75). -/
def execDrain (st p stall dry : Nat) (s : State) : Host.Outcome State Fault Refusal :=
  pierTurn st p stall dry (fun s x img c ins =>
    match ins.op with
    | .drain bank toFeeder f sideB addr =>
      if (x.unit p).addsOpen ins.cycle ins.mask bank then some none
      else some (some (issueDrain s img c x p ins.cycle ins.mask bank toFeeder f sideB addr))
    | _ => none) s

/-! ### BANK_WRITE (R58, R68) -/

/-- A BANK_WRITE: one FP32 block per selected array, by rank; it begins a chain. -/
def issueBankWrite (s : State) (img : Image) (c : Ctx) (x : Step) (p cyc : Nat) (mask : BitVec 64) (bank addr : Nat) : State × Step :=
  let sel := maskArrays mask
  let pm := (sel.zip (List.range sel.length)).foldl (fun pm r =>
    let b := readLines s img c x.id p cyc (addr + 4 * r.2) 4
    let a := arrayNo p r.1
    { pm with bank := vwriteRun pm.bank x.id cyc (bankKey a bank 0 0) ((List.range 64).map fun e => BitVec.ofNat 32 (leAt b (4 * e) 4))
              chain := vwrite pm.chain x.id cyc (4 * a + bank) 0 }) s.pm
  ({ s with pm := pm }, { x with activity := { x.activity with stores := x.activity.stores + 4 * sel.length } })

/-- BANK_WRITE (R68). It stalls the pier while a source line has not landed (R134). -/
def execBankWrite (st p stall dry : Nat) (s : State) : Host.Outcome State Fault Refusal :=
  pierTurn st p stall dry (fun s x img c ins =>
    match ins.op with
    | .bankWrite bank addr =>
      if (List.range (4 * (maskArrays ins.mask).length)).any fun l => awaitsLine img x p (addr + l) ins.cycle then some none
      else some (some (issueBankWrite s img c x p ins.cycle ins.mask bank addr))
    | _ => none) s

/-! ### FLAG_CLEAR (R86) -/

/-- FLAG_CLEAR of a pier: the selected arrays' flags and, with RECORD, the pier's record. -/
def execFlagClear (st p stall dry : Nat) (s : State) : Host.Outcome State Fault Refusal :=
  pierTurn st p stall dry (fun s x _ _ ins =>
    match ins.op with
    | .flagClear record => some (some (s, x.setUnit p (clearPier (x.unit p) ins.cycle ins.mask record)))
    | _ => none) s

/-! ### Stream movement (R133, R134, R198) -/

/-- Takes the next `n` present blocks of a stream into the store: the transfer is under way until it lands. -/
def issueIn (x : Step) (p cyc desc n addr : Nat) : Step :=
  let t := x.stream desc
  let first := kget 0 t.pos p
  let x := x.setStream desc { t with pos := kput t.pos p (first + n) }
  { x with inbound := x.inbound ++ [⟨p, desc, first, n, addr, cyc, 0⟩] }

/-- Whether the lines of the next `n` blocks out have all landed and their tags are known (R134, R198). -/
def outReady (img : Image) (x : Step) (d : Desc) (p cyc desc n addr : Nat) : Bool :=
  let first := kget 0 (x.stream desc).outPos p
  (List.range n).all fun j =>
    (List.range (blockLines d.fmt)).all (fun l => !awaitsLine img x p (addr + moveLine img d first j + l) cyc) &&
      (tagFor img x desc ((first + j) / presentCount img d) 0).isSome

/-- Sends the next `n` present blocks of a stream out of the store. -/
def issueOut (s : State) (img : Image) (c : Ctx) (x : Step) (d : Desc) (p cyc desc n addr : Nat) : Step :=
  let t := x.stream desc
  let first := kget 0 t.outPos p
  let bs := (List.range n).map fun j =>
    (⟨readLines s img c x.id p cyc (addr + moveLine img d first j) (blockLines d.fmt),
      (tagFor img x desc ((first + j) / presentCount img d) 0).getD 0, cyc⟩ : StreamBlock)
  produce (x.setStream desc { t with outPos := kput t.outPos p (first + n) }) desc bs

/-- A stream movement out: it stalls the pier while a line has not landed (R134). `tile` marks a TILE_OUT. -/
def moveOut (s : State) (img : Image) (c : Ctx) (x : Step) (tile : Bool) (p cyc desc n addr : Nat) : Option (Option (State × Step)) :=
  (descOf img x desc).map fun d =>
    let at_ := moveBase img d tile addr
    if outReady img x d p cyc desc n at_ then some (s, issueOut s img c x d p cyc desc n at_) else none

/-- Present blocks of one tile of stream `desc`. -/
def tileBlocksOf (img : Image) (desc : Nat) : Nat :=
  match img.descs[desc]? with
  | some d => presentCount img d
  | none => 0

/-- TILE_IN (R133). -/
def execTileIn (st p stall dry : Nat) (s : State) : Host.Outcome State Fault Refusal :=
  pierTurn st p stall dry (fun s x img _ ins =>
    match ins.op with
    | .tileIn desc addr =>
      (img.descs[desc]?).map fun d => some (s, issueIn x p ins.cycle desc (tileBlocksOf img desc) (moveBase img d true addr))
    | _ => none) s

/-- TILE_OUT (R133). -/
def execTileOut (st p stall dry : Nat) (s : State) : Host.Outcome State Fault Refusal :=
  pierTurn st p stall dry (fun s x img c ins =>
    match ins.op with
    | .tileOut desc addr => moveOut s img c x true p ins.cycle desc (tileBlocksOf img desc) addr
    | _ => none) s

/-- BLOCKS_IN (R133). -/
def execBlocksIn (st p stall dry : Nat) (s : State) : Host.Outcome State Fault Refusal :=
  pierTurn st p stall dry (fun s x _ _ ins =>
    match ins.op with
    | .blocksIn desc addr n => some (some (s, issueIn x p ins.cycle desc n addr))
    | _ => none) s

/-- BLOCKS_OUT (R133). -/
def execBlocksOut (st p stall dry : Nat) (s : State) : Host.Outcome State Fault Refusal :=
  pierTurn st p stall dry (fun s x img c ins =>
    match ins.op with
    | .blocksOut desc addr n => moveOut s img c x false p ins.cycle desc n addr
    | _ => none) s

end Sys2Proof.Machine
end

