-- ==== Sys2Proof/Machine/Deck.lean ====
section
/-! DEFINITION. Movement between the deck and what holds a stream at its other end: tile stores (R133, R134),
local stores (R135), stacked memory through the bearings (R152, R235, R236), and host memory through the landing
(R171, R189 to R191). -/

namespace Sys2Proof.Machine

/-! ### Version rings (R196, R197) -/

/-- Key of word `e` of ring copy `k` of tensor `n`. -/
def copyKey (n k e : Nat) : Nat := (n * 8 + k) * 1099511627776 + e

/-- The working format of WFMT (R206): 00b BF16, 01b FP16, 10b E4M3, 11b E5M2. -/
def wfmtOf (w : Nat) : Fmt := match w with | 0 => .bf16 | 1 => .fp16 | 2 => .e4m3 | _ => .e5m2

/-- A registered tensor of a context. -/
def tensorOf (c : Ctx) (n : Nat) : Option Tensor := c.tensors.find? fun t => decide (t.num = n)

/-- The ring copy that age `a` of a tensor refers to; a frozen tensor has one copy (R181, R196). -/
def ringCopy (t : Tensor) (a : Nat) : Nat := if t.frozen then 0 else t.ages.getD a 0

/-- The ring copy of age `a` under the binding that a step took at its admission (R172). -/
def boundCopy (x : Step) (t : Tensor) (a : Nat) : Nat :=
  if t.frozen then 0 else (((x.boundAges.find? fun b => decide (b.1 = t.num)).map (·.2)).getD t.ages).getD a 0

/-- A ring copy that no age of the tensor refers to (R196). -/
def freeCopy (t : Tensor) : Nat := ((List.range 6).find? fun k => !t.ages.contains k).getD 0

/-- Writes bytes into a ring copy from byte offset `o` on. -/
def putCopy (c : Ctx) (t : Tensor) (k o : Nat) (bs : Bytes) : Ctx :=
  let w := (wfmtOf t.wfmt).size
  { c with copies := ksetRun 0 c.copies (copyKey t.num k (o / w)) ((List.range (bs.length / w)).map fun i => BitVec.ofNat 16 (leAt bs (i * w) w)) }

/-- The free ring copy of a tensor, made a bit copy of the age-0 one before blocks of it are written (R212). -/
def wholeCopy (c : Ctx) (t : Tensor) : Ctx :=
  let lo := copyKey t.num (ringCopy t 0) 0
  let hi := copyKey t.num (freeCopy t) 0
  let live := c.copies.filter fun e => decide (lo ≤ e.1 ∧ e.1 < lo + 1099511627776)
  { c with copies := live.foldl (fun m e => kput m (e.1 - lo + hi) e.2) (kclear c.copies hi 1099511627776) }

/-- Notes that the step writes a tensor's new working copy. -/
def noteCopy (x : Step) (n : Nat) : Step := if x.shadowCopies.contains n then x else { x with shadowCopies := x.shadowCopies ++ [n] }

/-- Bytes of a ring copy from byte offset `o`. -/
def copyBytes (c : Ctx) (t : Tensor) (k o n : Nat) : Bytes :=
  let w := (wfmtOf t.wfmt).size
  (List.range n).map fun i =>
    let v := (kget 0 c.copies (copyKey t.num k ((o + i) / w))).toNat
    BitVec.ofNat 8 (v / 256 ^ ((o + i) % w))

/-! ### Bearing reads (R152, R197, R198, R235, R243) -/

/-- The present blocks of tile `n` of a stream of SPACE 00b that storage returns with tag `tag`: those of the bound ring copy
for a weight stream. A stream in stacked memory at its own addresses is read at each consumer's nominal cycle (R235), so
that its blocks here only say that they are at hand. -/
def memBlocks (img : Image) (c : Ctx) (x : Step) (i : Nat) (d : Desc) (n tag : Nat) : List StreamBlock :=
  (presentIdx img d).map fun b =>
    ⟨match (bindOf img 2 i).bind fun w => tensorOf c w.count with
      | some t => copyBytes c t (boundCopy x t tag) (tileAddr d n + blockOff img d b) d.blockBytes
      | none => [], tag, 0⟩

/-- Byte offsets of the lines that the present blocks of tile `n` take, from the stream's addresses. -/
def tileOffsets (img : Image) (d : Desc) (n : Nat) : List Nat :=
  ((presentIdx img d).flatMap fun b =>
    let a := tileAddr d n + blockOff img d b
    (List.range (ceilDiv (a % 128 + d.blockBytes) 128)).map fun l => a / 128 * 128 + 128 * l).eraseDups

/-- The tensor and the ring copy that a stream reads with tag `tag` (R181, R196). -/
def weightOf (img : Image) (c : Ctx) (x : Step) (i tag : Nat) : Option (Tensor × Nat) :=
  ((bindOf img 2 i).bind fun w => tensorOf c w.count).map fun t => (t, boundCopy x t tag)

/-- The sequencers' read of the step's own schedule image has met a line that cannot be delivered: the step ends, and
SCHED_LOAD of the image is required again (R243). -/
def imageRead (s : State) (c : Ctx) (x : Step) (img : Image) (eccs : List Ecc) : State :=
  match checkLines s ((List.range (ceilDiv img.bytes 128)).map fun l => tensorPa s c (4096 + x.slot) 0 (128 * l)) eccs .stepRead with
  | (s, none) => s
  | (s, some rec) =>
    failStep (updCtx s x.ctx fun c => { c with images := kput c.images x.slot { img with spoiled := true } }) x (memUe rec)

/-- BEARING_READ_RETURN: the next tile of a stored stream reaches the deck, or the step ends with ST_MEM_UE on a
line that cannot be delivered (R152, R240, R243). `eccs` is what the symbol code reports. A descriptor that the image has not
stands for the read of the image itself. -/
def execBearingReadReturn (st desc : Nat) (eccs : List Ecc) (s : State) : Host.Outcome State Fault Refusal :=
  match stepOf s st with
  | none => .next s
  | some x =>
    match ctxOf s x.ctx, imageOf s x with
    | some c, some img =>
      match descOf img x desc with
      | none => .next (if x.state.working then imageRead s c x img eccs else s)
      | some d =>
        let n := (x.stream desc).fetched.length / max 1 (presentCount img d)
        if !x.state.working ∨ d.space ≠ 0 ∨ d.tiles ≤ n ∨ ((bindOf img 2 desc).isNone ∧ windowBase ≤ d.base) then .next s
        else
          match tagFor img x desc n d.stash with
          | none => .next s
          | some tag =>
            let os := tileOffsets img d n
            let pas := match weightOf img c x desc tag with
              | some (t, k) => os.map (tensorPa s c t.num k)
              | none => os.filterMap fun a => (paOf c a).map (resolve s)
            match checkLines s pas eccs .stepRead with
            | (s, some rec) => .next (failStep s x (memUe rec))
            | (s, none) =>
              let s := match weightOf img c x desc tag with
                | some (t, k) => updCtx s x.ctx fun c => (wrongData eccs).foldl (fun c e => putCopy c t k (os.getD e.1 0 + 32 * e.2.1) e.2.2) c
                | none => s
              let x := fetch x desc (memBlocks img ((ctxOf s x.ctx).getD c) x desc d n tag)
              .next (setStep s { x with activity := { x.activity with memory := x.activity.memory + pas.length } })
    | _, _ => .next s

/-! ### Deck arrivals (R133 to R135, R171, R190) -/

/-- Lands one block of a transfer in a tile store, setting or clearing the zero tags of its lines (R100). -/
def landBlock (pm : PierMem) (img : Image) (c : Ctx) (x : Step) (w : Inbound) (d : Desc) (j : Nat) (b : Bytes) : PierMem :=
  (List.range (blockLines d.fmt)).foldl (fun pm l =>
    let line := residentLine img c w.pier (w.line + moveLine img d w.first j + l)
    let lb := slice b (64 * l) 64
    { pm with tile := vwriteRun pm.tile x.id w.cycle (lineKey w.pier line) lb
              zero := vwrite pm.zero x.id w.cycle (4096 * w.pier + line) (allZero d.fmt lb) }) pm

/-- Lands every delivered block of a transfer: the pier memories, and how many blocks have landed. -/
def landAll (s : State) (img : Image) (c : Ctx) (x : Step) (w : Inbound) (d : Desc) : PierMem × Nat :=
  (List.range w.blocks).foldl (fun p j =>
    if j = p.2 then
      match (if j < w.landed then none else sourceBlock s img x w.desc d w.cycle (w.first + j)) with
      | some b => (landBlock p.1 img c x w d j b, j + 1)
      | none => if j < w.landed then (p.1, j + 1) else p
    else p) (s.pm, 0)

/-- The shadow ranges that the lines of a transfer belong to. -/
def inboundShadows (img : Image) (x : Step) (w : Inbound) (d : Desc) : Step :=
  (List.range w.blocks).foldl (fun x j => noteShadow img x w.pier (w.line + moveLine img d w.first j) (blockLines d.fmt)) x

/-- Blocks of a prefetched stream that the landing has been asked for: at hand or in flight. -/
def blocksAsked (s : State) (x : Step) (desc : Nat) : Nat :=
  (x.stream desc).fetched.length + (s.host.reads.filter fun r => match r.owner with
    | .prefetch i e _ => decide (i = x.id ∧ e = desc)
    | _ => false).length

/-- Blocks of stream `i` that pier `p` has landed, where its list moves the stream in. -/
def landedAt (x : Step) (i p : Nat) (l : List PierIns) : Option Nat :=
  if l.any fun q => match q.op with | .tileIn d _ | .blocksIn d _ _ => decide (d = i) | _ => false then
    some (kget 0 (x.stream i).pos p - total ((x.inbound.filter fun w => decide (w.pier = p ∧ w.desc = i)).map fun w => w.blocks - w.landed))
  else none

/-- Blocks that a station, keystone or abutment has consumed of a stream: it takes each block as it arrives once its first
entry that reads the stream is the next to issue, and none before. -/
def takenBy (img : Image) (x : Step) (i key : Nat) (reads : List Bool) : Option Nat :=
  match reads.findIdx? id with
  | some k => some (if (List.range k).all (img.hasIssued x key) then (x.stream i).fetched.length else 0)
  | none => none

/-- Blocks of a stream that every consumer of the image's lists has consumed (R189). -/
def consumed (img : Image) (x : Step) (i : Nat) : Nat :=
  let ns := (img.piers.filterMap fun p => landedAt x i p.1 p.2) ++
    (img.vectors.filterMap fun v => takenBy img x i (2000 + v.1) (v.2.map fun q => vopReads q i)) ++
    (img.tables.filterMap fun v => takenBy img x i (2100 + v.1) (v.2.map fun q => decide (q.vop ≠ 0x3F ∧ (q.srcA = i ∨ (q.vop = 2 ∧ q.srcB = i))))) ++
    (img.keystones.filterMap fun v => takenBy img x i (2300 + v.1) (v.2.map fun q => decide (q.kop ≠ 4 ∧ q.desc = i))) ++
    (img.fabrics.filterMap fun v => takenBy img x i (2400 + v.1) (v.2.map fun q => decide (q.desc = i ∧ (q.fop = 1 ∨ q.fop = 3 ∨ q.fop = 5 ∨ q.fop = 8))))
  match ns with
  | [] => (x.stream i).fetched.length
  | h :: t => t.foldl min h

/-- Tops up the reads of a prefetched stream in ascending order: tile n is fetched only when tile n − COUNT has been consumed,
and only its present blocks are read (R92, R189). -/
def prefetchMore (s : State) (img : Image) (x : Step) (b : Bind) (d : Desc) : State :=
  let n := presentCount img d
  let first := blocksAsked s x b.stream
  let room := min (streamLen img d) ((consumed img x b.stream / max 1 n + b.count) * n)
  (List.range (room - first)).foldl (fun s k =>
    issueRead s (some x.ctx) (.prefetch x.id b.stream (first + k)) (blockAddr img d (first + k)) d.blockBytes) s

/-- Flits of stream `desc` land in a pier's tile store, for its oldest transfer of that stream. -/
def landPier (s : State) (img : Image) (c : Ctx) (x : Step) (desc p : Nat) (d : Desc) : State :=
  match x.inbound.find? fun w => decide (w.pier = p ∧ w.desc = desc) with
  | none => pierAdvance s img c x p
  | some w =>
    let r := landAll s img c x w d
    match (if r.2 = w.landed then brokenRead s x [desc] else none) with
    | some rd => failStep s x (memoryReply 1 rd.addr)
    | none =>
    let rest := x.inbound.erase w
    let x := inboundShadows img { x with activity := { x.activity with deck := x.activity.deck + (r.2 - w.landed) } } w d
    let x := { x with inbound := if w.blocks ≤ r.2 then rest else { w with landed := r.2 } :: rest }
    let s := pierAdvance { s with pm := r.1 } img c x p
    match bindOf img 3 desc, stepOf s x.id with
    | some b, some x => prefetchMore s img x b d
    | _, _ => s

/-- Flits of a stream of SPACE 01b land in the local store of its span. -/
def landLocal (s : State) (img : Image) (x : Step) (desc : Nat) (d : Desc) : State :=
  let t := x.stream desc
  let ks := (List.range t.blocks.length).filter fun k => decide (t.memPos ≤ k)
  let loc := ks.foldl (fun m k =>
    match t.blocks[k]? with
    | some b => vwriteRun m x.id b.cycle (locBase d.span + blockAddr img d k) b.bytes
    | none => m) s.pm.loc
  setStep { s with pm := { s.pm with loc := loc } } (x.setStream desc { t with memPos := t.blocks.length })

/-- Whether a virtual address lies in a window of kind OFFLOAD (0010b) or GENERAL (0001b) (R339). -/
def windowKind (c : Ctx) (va : Nat) : Nat :=
  ((c.windows.find? fun w => decide (w.base ≤ va ∧ va < w.base + w.pages.length * 2097152)).map (·.kind)).getD 0

/-- The next block of a stream of SPACE 00b reaches its storage: stacked memory, the free ring copy of the tensor
that a WEIGHT entry names (R285), staging for a GENERAL window, or the host at once for an OFFLOAD stream (R171,
R190). -/
def landMemory (s : State) (img : Image) (c : Ctx) (x : Step) (desc : Nat) (d : Desc) (ecc : Ecc) : State :=
  let t := x.stream desc
  match t.blocks[t.memPos]? with
  | none => s
  | some b =>
    let va := blockAddr img d t.memPos
    let x := x.setStream desc { t with memPos := t.memPos + 1 }
    match (bindOf img 2 desc).bind fun w => tensorOf c w.count with
    | some k =>
      let c := if x.shadowCopies.contains k.num then c else wholeCopy c k
      let s := setStep (setCtx s x.ctx (putCopy c k (freeCopy k) va b.bytes)) (noteCopy x k.num)
      storeTensor s img c x k.num (freeCopy k) va b.bytes ecc
    | none =>
    if va < windowBase then
      let x := { x with activity := { x.activity with memory := x.activity.memory + 1 } }
      storeVa (setStep s x) img c x b.cycle desc va b.bytes ecc
    else
      let x := { x with activity := { x.activity with host := x.activity.host + 1 } }
      if (bindOf img 4 desc).isSome then tagWrites s (writeHostVa (setStep s x) x.ctx .offload va b.bytes) x.id b.cycle
      else setStep s { x with staged := x.staged ++ [⟨b.cycle, desc, va, b.bytes⟩] }

/-- DECK_ARRIVAL (R134). Only a stream that the image writes is carried to its storage. -/
def execDeckArrival (st desc : Nat) (dest : DeckDest) (s : State) : Host.Outcome State Fault Refusal :=
  match stepOf s st with
  | none => .next s
  | some x =>
    match ctxOf s x.ctx, imageOf s x with
    | some c, some img =>
      match descOf img x desc with
      | none => .next s
      | some d =>
        if !x.state.working then .next s
        else
          match dest with
          | .pier p => .next (landPier s img c x desc p d)
          | .loc sp => if d.space = 1 ∧ d.span = sp then .next (landLocal s img x desc d) else .next s
          | .memory ecc => if d.space = 0 ∧ img.writes.contains desc then .next (landMemory s img c x desc d ecc) else .next s
    | _, _ => .next s

/-! ### Prefetch (R189, R191) -/

/-- PREFETCH (R189): from its CYCLE on, the landing fetches tiles in ascending order. -/
def execPrefetch (st desc : Nat) (s : State) : Host.Outcome State Fault Refusal :=
  match runningStep s st with
  | none => .next s
  | some (x, img) =>
    match bindOf img 3 desc, descOf img x desc with
    | some b, some d => .next (prefetchMore s img x b d)
    | _, _ => .next s

end Sys2Proof.Machine
end

