-- ==== Sys2Proof/Machine/OptMath.lean ====
section
/-! DEFINITION. Arithmetic of the optimiser's schedule: correctly rounded cosine and power in FP64, the
learning rate (R209) and the scalars of a group (R210). -/

namespace Sys2Proof.Machine

/-- An FP64 result of one operation. -/
abbrev F64 := Nat

/-- An FP32 word widened to FP64, exactly. -/
def d32 (x : Nat) : F64 := (fconv .fp32 .fp64 x).1

/-- An integer in FP64. -/
def dNat (n : Nat) : F64 := (fcvt .fp64 (.fin false n 0)).1

/-- FP64 sum. -/
def dAdd (a b : F64) : F64 := (fadd .fp64 (dec64 a) (dec64 b)).1
/-- FP64 difference. -/
def dSub (a b : F64) : F64 := (fsub .fp64 (dec64 a) (dec64 b)).1
/-- FP64 product. -/
def dMul (a b : F64) : F64 := (fmulV .fp64 (dec64 a) (dec64 b)).1
/-- FP64 quotient. -/
def dDiv (a b : F64) : F64 := (fdivV .fp64 (dec64 a) (dec64 b)).1
/-- FP64 square root. -/
def dSqrt (a : F64) : F64 := (fsqrtV .fp64 (dec64 a)).1
/-- Rounds to FP32 once. -/
def dTo32 (a : F64) : Nat := (fconv .fp64 .fp32 a).1

/-! ### Cosine (R209) -/

/-- Fraction bits of the fixed-point cosine. -/
def cosBits : Nat := 320

/-- Terms of the cosine series from term `k` on: x² in fixed point, the term before, the sum so far. -/
def cosGo (x2 : Nat) : Nat → Nat → Nat → Int → Int
  | 0, _, _, acc => acc
  | n + 1, k, t, acc =>
    let t' := t * x2 / 2 ^ cosBits / ((2 * k + 1) * (2 * k + 2))
    cosGo x2 n (k + 1) t' (if k % 2 = 0 then acc - t' else acc + t')

/-- cos of a value m × 2^e of magnitude at most 4, correctly rounded in FP64: 80 terms in 320 fraction bits leave
an error far below any rounding boundary of FP64 arguments (log entry 23). -/
def dCos (a : F64) : F64 :=
  match dec64 a with
  | .fin _ m e =>
    let x := if 0 ≤ e then m * 2 ^ (e.toNat + cosBits) else m * 2 ^ cosBits / 2 ^ (-e).toNat
    let c := cosGo (x * x / 2 ^ cosBits) 80 0 (2 ^ cosBits) (2 ^ cosBits)
    (fcvt .fp64 (.fin (decide (c < 0)) c.natAbs (-(cosBits : Int)))).1
  | _ => Fmt.fp64.dnan

/-! ### Power (R210) -/

/-- Keeps 320 bits of a mantissa, with the lowest set where bits were lost. -/
def trim (m : Nat) (e : Int) : Nat × Int :=
  let d := m.log2 + 1 - 320
  if m.log2 < 320 then (m, e)
  else ((m >>> d) ||| (if m % 2 ^ d = 0 then 0 else 1), e + d)

/-- Square and multiply over the bits of the exponent, highest first. -/
def powGo (m : Nat) (e : Int) (n : Nat) : Nat → Nat × Int → Nat × Int
  | 0, r => r
  | k + 1, r =>
    let q := trim (r.1 * r.1) (2 * r.2)
    powGo m e n k (if n.testBit k then trim (q.1 * m) (q.2 + e) else q)

/-- x^n of an FP32 word in [0, 1), correctly rounded in FP64 (log entry 23). -/
def dPow (x n : Nat) : F64 :=
  match dec32 x with
  | .fin _ m e => let r := powGo m e n (n.log2 + 1) (1, 0); (fcvt .fp64 (.fin false r.1 r.2)).1
  | _ => Fmt.fp64.dnan

/-! ### The learning rate (R209) -/

/-- pi in FP64. -/
def dPi : F64 := 0x400921FB54442D18

/-- The points from the largest index with STEP at most `s` on. -/
def pointsFrom (s : Nat) : List (Nat × Nat) → List (Nat × Nat)
  | p :: q :: t => if q.1 ≤ s then pointsFrom s (q :: t) else p :: q :: t
  | l => l

/-- x of R209 for update count `t`. -/
def lrX (g : OptGroup) (t : Nat) : F64 :=
  if t ≤ g.warmup then
    dAdd (d32 g.lrStart) (dDiv (dMul (dSub (d32 g.lrPeak) (d32 g.lrStart)) (dNat t)) (dNat g.warmup))
  else
    let s := t - g.warmup
    if !g.sched then
      let u := dDiv (dNat (min s g.decay)) (dNat g.decay)
      dAdd (d32 g.lrMin) (dDiv (dMul (dSub (d32 g.lrPeak) (d32 g.lrMin)) (dAdd (dNat 1) (dCos (dMul dPi u)))) (dNat 2))
    else
      let first := g.points.headD (0, 0)
      let last := g.points.getLastD (0, 0)
      if s ≤ first.1 then d32 first.2
      else if last.1 ≤ s then d32 last.2
      else
        match pointsFrom s g.points with
        | a :: b :: _ =>
          dAdd (d32 a.2) (dDiv (dMul (dSub (d32 b.2) (d32 a.2)) (dNat (s - a.1))) (dNat (b.1 - a.1)))
        | _ => d32 last.2

/-- The learning rate for update count `t` (R209). -/
def lrOf (g : OptGroup) (t : Nat) : Nat := dTo32 (lrX g t)

/-- The scalars of R210 for the update count `t` that the step will reach: lr, decay, c1, c2, and for AdamW step and
rb2, as FP32 words. -/
def scalarsOf (g : OptGroup) (t : Nat) : List Nat :=
  let one := dNat 1
  let lr := lrOf g t
  let c := fun b => dTo32 (dSub one (d32 b))
  [lr, dTo32 (dSub one (dMul (d32 lr) (d32 g.wd))), c g.beta1, c g.beta2] ++
    (if g.rule = 1 then
      [dTo32 (dDiv (d32 lr) (dSub one (dPow g.beta1 t))), dTo32 (dDiv one (dSqrt (dSub one (dPow g.beta2 t))))]
     else [0, 0])

/-- The live update count of a group (R219). -/
def groupCount (c : Ctx) (g : Nat) : Nat := kget 0 c.counts (16 * b2n c.table + g)

/-- The scalars of every group of a context, bound at admission (R210). -/
def groupScalars (c : Ctx) : List (Nat × List Nat) :=
  (List.range c.groups.length).filterMap fun i => (c.groups[i]?).map fun g => (i, scalarsOf g (groupCount c i + 1))

end Sys2Proof.Machine
end

