-- ==== Sys2Proof/Machine/Stations.lean ====
section
/-! DEFINITION. What every station instruction shares: reading operand tiles, widening, converting the
result into DST's format, writing tiles with their tags, and raising events in the lane-group order of R144. -/

namespace Sys2Proof.Machine

/-- The computation format of PREC (R136). -/
def precFmt (prec : Bool) : Fmt := if prec then .fp64 else .fp32

/-- An operand in the computation precision: narrower formats widen exactly (R39, R137); an FP64 operand of an
FP32 operation is rounded under R38 (DEDUCED, log entry 14). -/
def widen (cf f : Fmt) (bits : Nat) : FV × Nat :=
  let v := fdec f bits
  if cf = .fp32 ∧ f = .fp64 then
    let r := fcvt .fp32 v
    (dec32 r.1, r.2)
  else (v, 0)

/-- Lane-group of element (i, j) of tile `n` in processing order: blocked order, tile after tile (R144; DEDUCED,
log entry 14). -/
def laneGroup (d : Desc) (lanes n i j : Nat) : Nat :=
  (n * d.rows * d.cols + 64 * ((i / 8) * (d.cols / 8) + j / 8) + 8 * (i % 8) + j % 8) / lanes

/-- A result that one element of a station instruction gives: its bits in DST's format and its flags. -/
abbrev ElemFn := Nat → Nat → Nat → Nat × Nat

/-- Elements (i, j) of the present blocks of a tile, in blocked order. -/
def tileElems (img : Image) (d : Desc) : List (Nat × Nat) :=
  (presentIdx img d).flatMap fun b =>
    (List.range 64).map fun e => (8 * (b / (d.cols / 8)) + e / 8, 8 * (b % (d.cols / 8)) + e % 8)

/-- Writes every tile of DST and raises the events of a station's work in unit state `u`. `fn n i j` is the result at
element (i, j) of DST's tile `n`; `at_ n i j` the nominal cycle and the place its event is recorded under. -/
def stationFold (s : State) (img : Image) (x : Step) (sp : Nat) (u : UnitSt) (dst : Nat) (d : Desc) (cyc : Nat)
    (tag : Nat → Nat) (fn : ElemFn) (at_ : Nat → Nat → Nat → Nat × EventAt) : State × Step × UnitSt :=
  let r := (List.range d.tiles).foldl (fun (p : State × Step × UnitSt) n =>
    let w := stationWrite p.1 img p.2.1 sp dst d cyc n (tag n) fun i j => (fn n i j).1
    let u := (tileElems img d).foldl (fun u e =>
      let a := at_ n e.1 e.2
      u.raise a.1 a.2 (fn n e.1 e.2).2) p.2.2
    (w.1, w.2, u)) (s, x, u)
  (r.1, { r.2.1 with activity := { r.2.1.activity with stations := r.2.1.activity.stations + d.tiles * d.rows * d.cols } }, r.2.2)

/-- The tags that the tiles of a station's result are stored with (R127, R198), `tag` giving the tag that SRC_A passes; none
while one is not known. -/
def dstTags (d : Desc) (tag : Nat → Option Nat) : Option (List Nat) :=
  (List.range d.tiles).mapM fun n => if d.stash = 7 then some 7 else tag n

/-- A station instruction: its results, its events and its issue under unit `key`; it waits while a tag it passes on is not
known. -/
def stationRun (s : State) (img : Image) (x : Step) (key sp : Nat) (u : UnitSt) (stall dst : Nat) (d : Desc) (cyc : Nat)
    (tag : Nat → Option Nat) (fn : ElemFn) (at_ : Nat → Nat → Nat → Nat × EventAt) : State :=
  match dstTags d tag with
  | none => waitUnit s x key u stall 0
  | some ts =>
    let r := stationFold s img x sp u dst d cyc (ts.getD · 0) fn at_
    issueOr s img x key u cyc stall (setStep r.1 (r.2.1.setUnit key (r.2.2.issued stall 0)))

/-- The operand tiles of a descriptor, where the instruction uses the operand. -/
def operandTiles (s : State) (img : Image) (x : Step) (used : Bool) (i cyc : Nat) :
    Option (Option (Desc × List (List (Option Bytes)))) :=
  if used then
    match descOf img x i with
    | none => none
    | some d => (streamTiles s img x i d cyc).map fun t => some (d, t)
  else some none

/-- The bits of an element of an operand, 0 where the instruction does not use it. -/
def operandBits (o : Option (Desc × List (List (Option Bytes)))) (n i j : Nat) : Nat :=
  match o with
  | some (d, ts) => tileElem d (ts.getD n []) n i j
  | none => 0

/-- The format of an operand. -/
def operandFmt (o : Option (Desc × List (List (Option Bytes)))) : Fmt :=
  match o with
  | some (d, _) => d.fmt
  | none => .fp32

/-- The tile of SRC_B that goes with tile `n` of SRC_A: the same tile, or under BCAST with one tile per grid row
the tile of the grid row (R136; DEDUCED, log entry 14). -/
def bTile (da : Desc) (b : Option (Desc × List (List (Option Bytes)))) (bcast : Bool) (n : Nat) : Nat :=
  match b with
  | some (db, _) => if bcast ∧ db.tiles ≠ da.tiles then n / da.rowTiles else n
  | none => n

end Sys2Proof.Machine
end

