-- ==== Sys2Proof/Machine/Gather.lean ====
section
/-! DEFINITION. The gather station: expert routing and combine, their backward passes, and sparse block lists
(R103 to R117, R186, R187). The manual gives the gather station no instruction list: the operands of these
commands carry the issue cycle and the streams that the image's window assignment fixes (log entry 16). -/

namespace Sys2Proof.Machine

/-! ### Whole streams as matrices -/

/-- A stream a gather station has read: its descriptor and its tiles. -/
abbrev Mat := Desc × List (List (Option Bytes))

/-- The tile, and the row and column in it, of a global element of a stream (R123). -/
def Desc.locate (d : Desc) (r c : Nat) : Nat × Nat × Nat := ((r / d.rows) * d.rowTiles + c / d.cols, r % d.rows, c % d.cols)

/-- Global row and column of element (i, j) of tile `n`. -/
def Desc.globalPos (d : Desc) (n i j : Nat) : Nat × Nat := ((n / d.rowTiles) * d.rows + i, (n % d.rowTiles) * d.cols + j)

/-- Columns of the whole stream. -/
def Desc.width (d : Desc) : Nat := d.rowTiles * d.cols

/-- Element (r, c) of a stream, widened to FP32 bits (R39). -/
def Mat.elem (m : Mat) (r c : Nat) : Nat :=
  let l := m.1.locate r c
  (fconv m.1.fmt .fp32 (tileElem m.1 (m.2.getD l.1 []) l.1 l.2.1 l.2.2)).1

/-- The bits of element (r, c) in format `f`: copied unchanged where the formats agree. -/
def Mat.copy (m : Mat) (f : Fmt) (r c : Nat) : Nat :=
  let l := m.1.locate r c
  let b := tileElem m.1 (m.2.getD l.1 []) l.1 l.2.1 l.2.2
  if m.1.fmt = f then b else (fconv m.1.fmt f b).1

/-- Reads a whole stream, or none while part of it has not arrived. -/
def readMat (s : State) (img : Image) (x : Step) (i cyc : Nat) : Option Mat :=
  match descOf img x i with
  | none => none
  | some d => (streamTiles s img x i d cyc).map fun t => (d, t)

/-- The unit of a gather station before work of cycle `cyc`: it has begun the phases up to there (R158). -/
def gatherUnit (img : Image) (x : Step) (sp cyc : Nat) : UnitSt :=
  let u := x.unit (2200 + sp)
  { u with phase := max u.phase (phasesDue img cyc) }

/-- Leaves the gather station waiting for the streams `ds` (R145): one cycle of slip, at most FINAL_SLACK in all (R158). -/
def gatherWait (s : State) (img : Image) (x : Step) (sp : Nat) (ds : List Nat) : State :=
  let u := x.unit (2200 + sp)
  if img.finalSlack ≤ u.slip then slipStep s x img (.gather sp) 0xFFFF else waitFor s x (2200 + sp) u 1 0 ds

/-- Blocks of raw bytes as a stream's blocks, the last one padded with zeros. -/
def rawBlocks (n : Nat) (b : Bytes) (cyc : Nat) : List StreamBlock :=
  (List.range (ceilDiv b.length n)).map fun k => ⟨slice b (n * k) n, 0, cyc⟩

/-! ### Routing (R103 to R109) -/

/-- Whether score `a` of expert `i` ranks above score `b` of expert `j` (R106). -/
def ranksAbove (a : FV) (i : Nat) (b : FV) (j : Nat) : Bool :=
  match a.isNan, b.isNan with
  | true, true => decide (i < j)
  | true, false => false
  | false, true => true
  | false, false => fltV false b a || (!fltV false a b && decide (i < j))

/-- The experts of a token by rank: expert `i` has rank r when exactly r experts rank above it. -/
def topK (score : Nat → FV) (e k : Nat) : List Nat :=
  (List.range k).map fun r =>
    ((List.range e).find? fun i => decide (((List.range e).filter fun j => ranksAbove (score j) j (score i) i).length = r)).getD 0

/-- The gates of a token: the scores, or renormalised over the selected ranks (R107). -/
def gatesOf (gate : Bool) (g : List Nat) : List Nat × Nat :=
  if gate then
    let sum := match g with
      | [] => (0, 0)
      | h :: t => t.foldl (fun p x => let r := fadd .fp32 (dec32 p.1) (dec32 x); (r.1, p.2 ||| r.2)) (h, 0)
    if (dec32 sum.1).isZero then (g.map fun _ => 0, sum.2)
    else
      let q := g.map fun x => fdivV .fp32 (dec32 x) (dec32 sum.1)
      (q.map (·.1), q.foldl (fun f x => f ||| x.2) sum.2)
  else (g, 0)

/-- C and S of R105. -/
def windowRows (r : Routing) (factor : Nat) : Nat := 8 * ceilDiv (r.tokens * r.topk * factor) (r.experts * 2048)

/-- What assignment has used so far: rows per expert, spill rows per expert, drops, and the records. -/
structure RouteAcc where
  used : KMap Nat := []
  spilled : KMap Nat := []
  dropped : Nat := 0
  recs : List Dispatch := []
  deriving DecidableEq, Repr

/-- Assigns one pair (R107). -/
def assign (r : Routing) (a : RouteAcc) (t e rank gate : Nat) : RouteAcc :=
  let u := kget 0 a.used e
  let sp := kget 0 a.spilled e
  if u < windowRows r r.cf then
    { a with used := kput a.used e (u + 1), recs := a.recs ++ [⟨t, e, rank, 0, u, gate⟩] }
  else if r.spill && decide (sp < windowRows r r.sf) then
    { a with spilled := kput a.spilled e (sp + 1), recs := a.recs ++ [⟨t, e, rank, 1, sp, gate⟩] }
  else { a with dropped := a.dropped + 1, recs := a.recs ++ [⟨t, e, rank, 2, 0, gate⟩] }

/-- The routing of all tokens, rank by rank: `sel` and `gates` give the experts and gates of a token. -/
def assignAll (r : Routing) (sel gates : Nat → List Nat) : RouteAcc :=
  (List.range r.topk).foldl (fun a rank =>
    (List.range r.tokens).foldl (fun a t => assign r a t ((sel t).getD rank 0) rank ((gates t).getD rank 0)) a) {}

/-- The record of token `t` at rank `rank`. -/
def recordOf (recs : List Dispatch) (t rank : Nat) : Option Dispatch := recs.find? fun d => decide (d.token = t ∧ d.rank = rank)

/-- A dispatch-table record (R109). -/
def dispatchBytes (d : Dispatch) : Bytes :=
  leBytes 4 (d.token + d.expert * 2 ^ 16 + d.rank * 2 ^ 24 + d.status * 2 ^ 27) ++ leBytes 4 d.row ++ leBytes 4 d.gate ++ leBytes 4 0

/-- The dispatch table in record order t × k + r, then the 256 row counters (R109, R112). -/
def dispatchTable (r : Routing) (a : RouteAcc) : Bytes :=
  ((List.range r.tokens).flatMap fun t => (List.range r.topk).flatMap fun k =>
    match recordOf a.recs t k with
    | some d => dispatchBytes d
    | none => []) ++ (List.range 256).flatMap fun e => leBytes 4 (kget 0 a.used e)

/-- The row of the window stream that a kept record names: primary windows in expert order, then spill windows. -/
def windowRow (r : Routing) (d : Dispatch) : Nat :=
  if d.status = 0 then d.expert * windowRows r r.cf + d.row
  else r.experts * windowRows r r.cf + d.expert * windowRows r r.sf + d.row

/-- The record that a row of the window stream belongs to. -/
def recordAt (r : Routing) (recs : List Dispatch) (row : Nat) : Option Dispatch :=
  recs.find? fun d => decide (d.status ≠ 2 ∧ windowRow r d = row)

/-- Tokens, dispatch table and counters of a routing (R107 to R109, R112). A gather station has no instruction list and no SRC_A: the
INSTR of its events counts the gather commands issued before, and TILE is that of the score stream for events of the gates and
of the result for others (R143; DESIGN CHOICE, log entry 90). -/
def routeStep (s : State) (img : Image) (x : Step) (sp cyc ri win : Nat) (r : Routing) (dt dw : Desc) (sc tok : Mat) : State :=
  let key := 2200 + sp
  let score := fun t e => dec32 (sc.elem t e)
  let sel := fun t => topK (score t) r.experts r.topk
  let gates := fun t => gatesOf r.gate ((sel t).map fun e => sc.elem t e)
  let a := assignAll r sel (fun t => (gates t).1)
  let place := fun t e (u : UnitSt) =>
    let l := sc.1.locate t e
    (cyc + laneGroup sc.1 512 l.1 l.2.1 l.2.2, EventAt.station l.1 l.2.1 l.2.2 u.next)
  let u := (List.range r.tokens).foldl (fun u t =>
    let u := (List.range r.experts).foldl (fun u e => u.raise (place t e u).1 (place t e u).2 (niOf [score t e])) u
    let e := (sel t).headD 0
    u.raise (place t e u).1 (place t e u).2 (gates t).2) (gatherUnit img x sp cyc)
  let x := produce x r.dispatch (rawBlocks dt.blockBytes (dispatchTable r a) cyc)
  let x := { x with
    routes := kput x.routes ri a.recs
    dropped := satAdd max32 x.dropped a.dropped
    spilled := satAdd max32 x.spilled (total (a.spilled.map (·.2)))
    rowsUsed := (List.range 256).foldl (fun m e => kset 0 m (ri * 256 + e) (kget 0 a.used e)) x.rowsUsed }
  stationRun s img x key sp u 0 win dw cyc (fun n => readTag img x r.token n tok.1)
    (fun n i j =>
      let p := dw.globalPos n i j
      match recordAt r a.recs p.1 with
      | some d => (tok.copy dw.fmt d.token p.2, 0)
      | none => (0, 0))
    (fun n i j => (cyc + laneGroup dw 512 n i j, .station n i j u.next))

/-- ROUTING (R107): `ri` the routing, `win` the stream of its windows. -/
def execRouting (st sp cycle ri win : Nat) (s : State) : Host.Outcome State Fault Refusal :=
  match workingStep s st with
  | none => .next s
  | some (x, img) =>
    match img.routings[ri]? with
    | none => .next s
    | some r =>
      match readMat s img x r.score cycle, readMat s img x r.token cycle, descOf img x r.dispatch, descOf img x win with
      | some sc, some tok, some dt, some dw => .next (routeStep s img x sp cycle ri win r dt dw sc tok)
      | _, _, _, _ => .next (gatherWait s img x sp [r.score, r.token])

/-! ### Combine (R110) -/

/-- One element of the combine of token `t`: the records in rank order, `y` the expert output of a record. -/
def combineElem (recs : List Dispatch) (topk t : Nat) (y : Dispatch → Nat) : Nat × Nat :=
  let o := (List.range topk).foldl (fun (acc : Option Nat × Nat) r =>
    match recordOf recs t r with
    | none => acc
    | some d =>
      if d.status = 2 then acc
      else
        let p := fmulV .fp32 (dec32 d.gate) (dec32 (y d))
        match acc.1 with
        | none => (some p.1, acc.2 ||| p.2)
        | some o =>
          let q := fadd .fp32 (dec32 o) (dec32 p.1)
          (some q.1, acc.2 ||| p.2 ||| q.2)) (none, 0)
  (o.1.getD 0, o.2)

/-- COMBINE (R110): `win` the stream of expert outputs in the layout of the windows, `dst` the result stream. -/
def execCombine (st sp cycle ri win dst : Nat) (s : State) : Host.Outcome State Fault Refusal :=
  match workingStep s st with
  | none => .next s
  | some (x, img) =>
    match img.routings[ri]?, kfind x.routes ri with
    | some r, some recs =>
      match readMat s img x win cycle, descOf img x dst with
      | some y, some d =>
        let u := gatherUnit img x sp cycle
        .next (stationRun s img x (2200 + sp) sp u 0 dst d cycle (fun n => readTag img x win n y.1)
          (fun n i j =>
            let p := d.globalPos n i j
            let o := combineElem recs r.topk p.1 fun q => y.elem (windowRow r q) p.2
            let c := fconv .fp32 d.fmt o.1
            (c.1, o.2 ||| c.2))
          (fun n i j => (cycle + laneGroup d 512 n i j, .station n i j u.next)))
      | _, _ => .next (gatherWait s img x sp [win])
    | _, _ => .next s

/-! ### Backward of the routing (R186, R187) -/

/-- A per-row sum over `h` columns in the tree and order of R138. -/
def gateSum (h : Nat) (e : Nat → Nat × Nat) : Nat × Nat :=
  let blocks := (List.range (h / 8)).map fun v =>
    let at_ := fun k => e (8 * v + k)
    let add := fun (p q : Nat × Nat) => let r := fadd .fp32 (dec32 p.1) (dec32 q.1); (r.1, r.2 ||| p.2 ||| q.2)
    add (add (add (at_ 0) (at_ 1)) (add (at_ 2) (at_ 3))) (add (add (at_ 4) (at_ 5)) (add (at_ 6) (at_ 7)))
  match blocks with
  | [] => (0, 0)
  | b :: t => t.foldl (fun p q => let r := fadd .fp32 (dec32 p.1) (dec32 q.1); (r.1, r.2 ||| p.2 ||| q.2)) b

/-- COMBINE_BWD of binding `bi` (R186): `win` the stream of expert outputs. Window gradients, then gate gradients. -/
def execCombineBwd (st sp bi win : Nat) (s : State) : Host.Outcome State Fault Refusal :=
  match workingStep s st with
  | none => .next s
  | some (x, img) =>
    match img.binds[bi]? with
    | none => .next s
    | some b =>
      match img.routings[b.stream]?, kfind x.routes b.stream with
      | some r, some recs =>
        match readMat s img x b.source b.cycle, readMat s img x win b.cycle, descOf img x b.count, descOf img x b.aux with
        | some dout, some y, some dw, some dg =>
          let tag := fun n => readTag img x b.source n dout.1
          if (dstTags dw tag).isNone || (dstTags dg tag).isNone then .next (gatherWait s img x sp [])
          else if b.kind = 6 then
            let key := 2200 + sp
            let u := gatherUnit img x sp b.cycle
            if (latePhase img x u b.cycle 0).isSome then .next (issueOr s img x key u b.cycle 0 s) else
            let s := stationRun s img x key sp u 0 b.count dw b.cycle tag
              (fun n i j =>
                let p := dw.globalPos n i j
                match recordAt r recs p.1 with
                | some d => fmulV .fp32 (dec32 d.gate) (dec32 (dout.elem d.token p.2))
                | none => (0, 0))
              (fun n i j => (b.cycle + laneGroup dw 512 n i j, .station n i j u.next))
            match stepOf s st with
            | none => .next s
            | some x =>
              .next (stationRun s img x key sp { x.unit key with next := u.next } 0 b.aux dg b.cycle tag
                (fun n i j =>
                  let p := dg.globalPos n i j
                  match recordOf recs p.1 p.2 with
                  | some d =>
                    if p.2 < r.topk ∧ d.status ≠ 2 then
                      gateSum dout.1.width fun h => fmulV .fp32 (dec32 (dout.elem p.1 h)) (dec32 (y.elem (windowRow r d) h))
                    else (0, 0)
                  | none => (0, 0))
                (fun n i j => (b.cycle + laneGroup dg 512 n i j, .station n i j u.next)))
          else .next s
        | _, _, _, _ => .next (gatherWait s img x sp [b.source, win])
      | _, _ => .next s

/-- DISPATCH_BWD of binding `bi` (R187): the ranks that were not dropped, added in ascending rank order. -/
def execDispatchBwd (st sp bi : Nat) (s : State) : Host.Outcome State Fault Refusal :=
  match workingStep s st with
  | none => .next s
  | some (x, img) =>
    match img.binds[bi]? with
    | none => .next s
    | some b =>
      match img.routings[b.stream]?, kfind x.routes b.stream with
      | some r, some recs =>
        match readMat s img x b.source b.cycle, descOf img x b.aux with
        | some dw, some d =>
          if b.kind = 7 then
            let u := gatherUnit img x sp b.cycle
            .next (stationRun s img x (2200 + sp) sp u 0 b.aux d b.cycle (fun n => readTag img x b.source n dw.1)
              (fun n i j =>
                let p := d.globalPos n i j
                let kept := (List.range r.topk).filterMap fun k => (recordOf recs p.1 k).filter fun q => decide (q.status ≠ 2)
                match kept.map fun q => dw.elem (windowRow r q) p.2 with
                | [] => (0, 0)
                | h :: t => t.foldl (fun a v => let q := fadd .fp32 (dec32 a.1) (dec32 v); (q.1, a.2 ||| q.2)) (h, 0))
              (fun n i j => (b.cycle + laneGroup d 512 n i j, .station n i j u.next)))
          else .next s
        | _, _ => .next (gatherWait s img x sp [b.source])
      | _, _ => .next s

/-! ### Block lists (R113 to R116) -/

/-- A block-list entry: its key and its 64 FP32 words. -/
abbrev ListEntry := Nat × Nat × List Nat

/-- The bytes of a block list (R113). -/
def listBytes (cap : Nat) (es : List ListEntry) : Bytes :=
  leBytes 4 es.length ++ leBytes 4 cap ++ leBytes 8 0 ++
    es.flatMap fun e => leBytes 4 e.1 ++ leBytes 2 e.2.1 ++ leBytes 2 0 ++ e.2.2.flatMap (leBytes 4)

/-- Every block of a stream in ascending key order, with its elements. -/
def allBlocks (m : Mat) : List ListEntry :=
  (List.range ((m.1.tiles / m.1.rowTiles) * (m.1.rows / 8))).flatMap fun br =>
    (List.range (m.1.width / 8)).map fun bc =>
      (br, bc, (List.range 64).map fun e => m.elem (8 * br + e / 8) (8 * bc + e % 8))

/-- CAPACITY of a block-list stream: the entries its storage holds after the 16-byte header (R113, R114; DEDUCED, log entry 24). -/
def listCapacity (img : Image) (i : Nat) : Nat :=
  ((img.descs[i]?).map fun e => (e.tiles * e.nb * e.blockBytes - 16) / 264).getD 0

/-- Hands a block list to its stream, or ends the step where it needs more than CAPACITY entries (R114). -/
def emitList (s : State) (img : Image) (x : Step) (sp dst cap cyc stall : Nat) (u : UnitSt) (d : Desc) (es : List ListEntry) : State :=
  issueOr s img x (2200 + sp) u cyc stall <|
  if cap < es.length then failStep s x (fieldReply stContractSlip 4 dst)
  else
    let x := produce x dst (rawBlocks d.blockBytes (listBytes cap es) cyc)
    let x := x.setStream dst { x.stream dst with list := true }
    setStep s (x.setUnit (2200 + sp) (u.issued stall 0))

/-- BLOCK_LIST_BUILD (R114), issued `stall` cycles late: the blocks of the FP32 stream `src` whose 64 elements are not all ±0. A stream of another format is
none that the station builds a list from. -/
def execBlockListBuild (st sp cycle src dst stall : Nat) (s : State) : Host.Outcome State Fault Refusal :=
  match workingStep s st with
  | none => .next s
  | some (x, img) =>
    if (descOf img x src).map (·.fmt) ≠ some .fp32 then .next s else
    match readMat s img x src cycle, descOf img x dst with
    | some m, some d =>
      .next (emitList s img x sp dst (listCapacity img dst) cycle stall (gatherUnit img x sp cycle) d
        ((allBlocks m).filter fun e => e.2.2.any fun w => decide (w % 2 ^ 31 ≠ 0)))
    | _, _ => .next (gatherWait s img x sp [src])

/-- The gradient row of an id at column `c`: its positions in ascending order, onto the lowest one (R116). -/
def idRow (ids : List Nat) (m : Mat) (id c : Nat) : Nat × Nat :=
  match (List.range ids.length).filter fun p => decide (ids.getD p 0 = id) with
  | [] => (0, 0)
  | h :: t => t.foldl (fun a p => let q := fadd .fp32 (dec32 a.1) (dec32 (m.elem p c)); (q.1, a.2 ||| q.2)) (m.elem h c, 0)

/-- The block rows that hold a used id, ascending. -/
def usedBlockRows (ids : List Nat) : List Nat :=
  (ids.foldl (fun (m : KMap Unit) i => kput m (i / 8) ()) []).map (·.1)

/-- SPARSE_EMBEDDING_LIST (R116): `ids` the step's token ids, `src` their FP32 output-gradient rows. -/
def execSparseEmbeddingList (st sp cycle : Nat) (ids : List Nat) (src dst stall : Nat) (s : State) : Host.Outcome State Fault Refusal :=
  match workingStep s st with
  | none => .next s
  | some (x, img) =>
    if (descOf img x src).map (·.fmt) ≠ some .fp32 then .next s else
    match readMat s img x src cycle, descOf img x dst with
    | some m, some d =>
      let u := gatherUnit img x sp cycle
      let u := (usedBlockRows ids).foldl (fun u br =>
        (List.range 8).foldl (fun u k => (List.range m.1.width).foldl (fun u c =>
          let l := m.1.locate k c
          u.raise (cycle + laneGroup m.1 512 l.1 l.2.1 l.2.2) (.station br k (c % 256) u.next) (idRow ids m (8 * br + k) c).2) u) u) u
      .next (emitList s img x sp dst (listCapacity img dst) cycle stall u d
        ((usedBlockRows ids).flatMap fun br => (List.range (m.1.width / 8)).map fun bc =>
          (br, bc, (List.range 64).map fun e => (idRow ids m (8 * br + e / 8) (8 * bc + e % 8)).1)))
    | _, _ => .next (gatherWait s img x sp [src])

end Sys2Proof.Machine
end

