-- ==== Sys2Proof/Machine/Commands.lean ====
section
/-! DEFINITION. Command packets: fetching, the checks of R356 rows 1 to 5 with the argument layouts of R364
and R365, and the two commands that only order (NOP, FENCE). -/

namespace Sys2Proof.Machine

/-! ### Descriptor fields (R351, R364) -/

/-- Field [hi:lo] of a descriptor. -/
def Cmd.fld (c : Cmd) (hi lo : Nat) : Nat := Sys2Proof.Machine.fld c.desc.toNat hi lo

/-- TIMEOUT_MS. -/
def Cmd.timeoutMs (c : Cmd) : Nat := c.fld 95 64
/-- PARAM_BYTES. -/
def Cmd.paramBytes (c : Cmd) : Nat := c.fld 127 96
/-- PARAM_ADDR. -/
def Cmd.paramAddr (c : Cmd) : Nat := c.fld 191 128
/-- RESULT_ADDR. -/
def Cmd.resultAddr (c : Cmd) : Nat := c.fld 255 192
/-- RESULT_BYTES. -/
def Cmd.resultBytes (c : Cmd) : Nat := c.fld 287 256

/-- An argument field: its first and last bit and whether a value is legal. -/
abbrev ArgSpec := Nat × Nat × (Nat → Bool)

/-- A field without a range of its own. -/
def anyVal : Nat → Bool := fun _ => true

/-- The argument fields of an opcode in ascending bit order, with the ranges of R364. -/
def argSpecs (op : Nat) : List ArgSpec :=
  match op with
  | 0x0010 => [(288, 295, anyVal), (296, 296, anyVal), (297, 299, fun v => decide (v ≤ 4)), (304, 311, fun v => decide (v < 32)),
      (312, 319, anyVal), (320, 351, fun v => decide (v ≠ 0)), (352, 383, fun v => decide (1 ≤ v ∧ v ≤ 130048)),
      (384, 391, fun v => decide (v ≤ 64)), (392, 407, anyVal)]
  | 0x0011 => [(288, 295, anyVal)]
  | 0x0020 => [(288, 291, anyVal), (320, 383, fun v => decide (v % 128 = 0))]
  | 0x0021 => [(288, 291, anyVal)]
  | 0x0030 => [(288, 319, fun v => decide (v = 0 ∨ (10000 ≤ v ∧ v ≤ 100000000))), (320, 330, fun v => decide (v ≤ 1024))]
  | 0x0040 => [(288, 291, anyVal), (320, 351, anyVal), (352, 363, anyVal)]
  | 0x0041 => [(288, 319, anyVal), (320, 320, anyVal)]
  | 0x0050 => [(288, 288, anyVal), (289, 290, anyVal), (291, 291, anyVal), (292, 295, anyVal), (296, 299, fun v => decide (v ≤ 8)),
      (304, 318, anyVal), (320, 335, fun v => decide (v ≤ 4096)), (336, 351, fun v => decide (v ≤ 32767)), (352, 415, anyVal)]
  | 0x0051 => [(288, 288, anyVal)]
  | 0x0052 => [(288, 288, anyVal)]
  | 0x0060 => [(288, 293, anyVal), (294, 298, fun v => decide (v ≤ 16)), (300, 312, fun v => decide (v ≤ 4096))]
  | 0x0070 => [(288, 288, anyVal), (296, 310, anyVal), (311, 311, anyVal), (312, 343, fun v => decide (v = 0 ∨ (10 ≤ v ∧ v ≤ 60000))),
      (344, 359, anyVal), (360, 391, anyVal)]
  | 0x0071 => [(288, 288, anyVal)]
  | 0x0072 => [(288, 302, anyVal), (303, 303, anyVal), (304, 318, anyVal), (319, 319, anyVal)]
  | 0x0090 => [(288, 290, anyVal), (291, 309, anyVal)]
  | 0x00A0 => [(288, 299, fun v => decide (600 ≤ v ∧ v ≤ 2500))]
  | 0x00B0 => [(288, 295, anyVal), (296, 296, anyVal)]
  | 0x00B1 => [(288, 291, fun v => decide (1 ≤ v ∧ v ≤ 8))]
  | 0x00F0 => [(288, 295, fun v => decide (1 ≤ v ∧ v ≤ 4))]
  | _ => []

/-- Ranges that involve two arguments, named by the bit of the field at fault (R364). -/
def argPairs (op : Nat) (c : Cmd) : Option Nat :=
  match op with
  | 0x0030 =>
    if c.fld 330 320 = 0 then (if c.fld 319 288 = 0 then none else some 288) else (if c.fld 319 288 = 0 then some 288 else none)
  | 0x0041 => if c.fld 320 320 = 1 ∧ c.fld 319 288 ≠ 0 then some 288 else none
  | 0x0050 =>
    let target := c.fld 288 288
    let src := c.fld 290 289
    if target = 1 ∧ src ≠ 1 then some 289
    else if target = 1 ∧ c.fld 291 291 ≠ 0 then some 291
    else if c.fld 299 296 ≠ 0 ∧ (src ≠ 0 ∨ target = 1) then some 296
    else if src ≠ 2 ∧ c.fld 318 304 ≠ 0 then some 304
    else if (target = 0 ∧ c.fld 335 320 = 0) ∨ (target = 1 ∧ c.fld 335 320 ≠ 0) then some 320
    else if (c.fld 299 296 = 0 ∧ c.fld 351 336 ≠ 0) ∨ (c.fld 299 296 ≠ 0 ∧ c.fld 351 336 = 0) then some 336
    else if src ≠ 1 ∧ c.fld 415 352 ≠ 0 then some 352
    else none
  | 0x0070 =>
    if c.fld 288 288 = 1 then
      (if c.fld 343 312 ≠ 0 then some 312 else if c.fld 359 344 = 0 then some 344 else none)
    else (if c.fld 359 344 ≠ 0 then some 344 else if c.fld 391 360 ≠ 0 then some 360 else none)
  | _ => none

/-- Whether an opcode is listed and legal on a ring (R363); WEIGHTS_LOAD on ring A has target STORE, on ring C
target CONTEXT. -/
def opLegal (r : RingId) (c : Cmd) : Bool :=
  match opInfo c.opcode with
  | none => false
  | some (a, k, _, _) =>
    match r with
    | .admin => a && (decide (c.opcode ≠ 0x0050) || c.desc.getLsbD 288)
    | .ctx _ => k && (decide (c.opcode ≠ 0x0050) || !c.desc.getLsbD 288)

/-- The bytes a parameter block must have, where the descriptor alone fixes them (R365). -/
def paramNeed (c : Cmd) : Option Nat :=
  match c.opcode with
  | 0x0010 => some (32 + 32 * c.fld 391 384 + 16 * c.fld 407 392)
  | 0x0030 => some (8 * c.fld 330 320)
  | 0x0040 => some (16 * c.fld 363 352)
  | 0x0050 => some (32 * c.fld 335 320 + ceilDiv (2 * c.fld 351 336) 16 * 16)
  | 0x0060 => none
  | 0x00B0 => some (288 * c.fld 296 296 + 64 * ((List.range 8).filter fun q => c.desc.getLsbD (288 + q)).length)
  | 0x00B1 => some 16
  | 0x00C0 => some 64
  | _ => some 0

/-- Whether bytes lie in windows of kind GENERAL with READ (`wr` false) or WRITE (`wr` true) (R339, R352). -/
def inGeneral (c : Ctx) (wr : Bool) (va n : Nat) : Bool :=
  (List.range ((va + n + 2097151) / 2097152 - va / 2097152)).all fun k =>
    let a := (va / 2097152 + k) * 2097152
    c.windows.any fun w => decide (w.kind = 1 ∧ w.base ≤ a ∧ a < w.base + w.pages.length * 2097152) && (if wr then w.write else w.read)

/-- Whether an address range of a command may be used on its ring: anything on the administrative ring, window
bytes on a context's (R352). -/
def addrOk (s : State) (r : RingId) (wr : Bool) (va n : Nat) : Bool :=
  match r with
  | .admin => true
  | .ctx k => match ctxOf s k with
    | some c => decide (n = 0) || inGeneral c wr va n
    | none => false

/-- The first reserved gap of the arguments that holds a set bit: the bit at which the gap begins. -/
def gapFault (c : Cmd) : Nat → List ArgSpec → Option Nat
  | at_, [] => if at_ ≤ 511 ∧ c.fld 511 at_ ≠ 0 then some at_ else none
  | at_, (lo, hi, _) :: t => if at_ < lo ∧ c.fld (lo - 1) at_ ≠ 0 then some at_ else gapFault c (hi + 1) t

/-- Row 4 of R356: the bit of the first field at fault, in the order of the row's words. -/
def fieldFault (s : State) (r : RingId) (c : Cmd) : Option Nat :=
  let tmo := match opInfo c.opcode with | some (_, _, _, t) => t | none => false
  if c.fld 31 17 ≠ 0 then some 17
  else
    match gapFault c 288 (argSpecs c.opcode) with
    | some b => some b
    | none =>
      if c.timeoutMs > 3600000 ∨ (!tmo ∧ c.timeoutMs ≠ 0) then some 64
      else
        match (argSpecs c.opcode).find? fun a => !a.2.2 (c.fld a.2.1 a.1) with
        | some a => some a.1
        | none =>
          match argPairs c.opcode c with
          | some b => some b
          | none =>
            if c.paramBytes > 2097152 ∨ (match paramNeed c with | some n => decide (c.paramBytes ≠ n) | none => false) = true then some 96
            else if c.paramAddr % 16 ≠ 0 ∨ (c.paramBytes = 0 ∧ c.paramAddr ≠ 0) ∨ !addrOk s r false c.paramAddr c.paramBytes then some 128
            else if c.resultAddr % 64 ≠ 0 ∨ (c.resultBytes = 0 ∧ c.resultAddr ≠ 0) ∨ !addrOk s r true c.resultAddr c.resultBytes then some 192
            else if c.resultBytes > 16777216 then some 256
            else none

/-! ### Fetching (R334, R342, R356, R359, R360) -/

/-- Whether a command is eligible to be fetched (R334). -/
def eligible (g : Ring) : Bool := decide (g.cmdHead ≠ g.cmdTail) && decide (g.reserved < 2 ^ g.rcd.statusLog2 - 1)

/-- The administrative ring is always served; a context's ring until its destruction begins (R366). -/
def ringLive (s : State) (r : RingId) : Bool :=
  match r with
  | .admin => true
  | .ctx n => match ctxOf s n with | some c => c.destroying.isNone | none => false

/-- The command that a 64-byte entry holds, fetched at `head`. -/
def cmdOf (b : Bytes) (head now : Nat) : Cmd :=
  { seq := head, opcode := leAt b 0 2, desc := BitVec.ofNat 512 (leNat (slice b 0 64)), param := [], accepted := false,
    since := now, held := none, upTo := none, jobs := 0 }

/-- Checks 1 to 5 of R356: the reply of the first that fails. -/
def preCheck (s : State) (r : RingId) (g : Ring) (c : Cmd) (param : HostData) : Option Reply :=
  if s.boot.fatal then some (plain stDeviceFatal)
  else if !opLegal r c then some (fieldReply stBadOpcode 0 0)
  else if c.seqNo ≠ g.expSeq.toNat then some (fieldReply stBadParam 0 4)
  else
    match fieldFault s r c with
    | some b => some (fieldReply stBadParam 0 (b / 8))
    | none =>
      if c.paramBytes = 0 then none
      else match param with
        | .ok _ => none
        | _ => some (memoryReply 1 c.paramAddr)

/-- The bytes of host data; none for poison, an error or a timeout. -/
def HostData.bytes : HostData → Option Bytes
  | .ok b => some b
  | _ => none

/-- A ring fetch that returns no data: the entry is not executed, an event entry names its position (R342). -/
def fetchFailed (s : State) (r : RingId) (g : Ring) : State :=
  let addr := g.rcd.cmdBase + 64 * (g.cmdHead.toNat % 2 ^ g.rcd.cmdLog2)
  let s := logErr s 0x0802 r.ctxNo (BitVec.ofNat 128 addr)
  let s := setRing s r { g with cmdHead := g.cmdHead + 1 }
  postEventOn (writeCtrl s r (openEntries s r)) r { memoryReply 1 addr with event := 3, result := g.cmdHead.toNat }

/-- A command that fails a check of rows 1 to 5 replies, once it begins (R356, R360). -/
def failFetched (s : State) (r : RingId) (c : Cmd) (y : Reply) : State :=
  if ((ringOf s r).map fun g => begun g c).getD true then endCmd s r c.seq y
  else updCmd s r c.seq fun c => { c with held := some { y with opcode := c.opcode, seq := c.seqNo, ctx := c.concerned r }, upTo := some 0 }

/-- A fetched command enters the ring's list; one that fails a check does not run (R356, R357). -/
def fetched (s : State) (r : RingId) (g : Ring) (c : Cmd) (param : HostData) : State :=
  let c := { c with param := ((param.bytes).getD []).take c.paramBytes }
  let out := preCheck s r g c param
  let seqOff := decide (c.seqNo ≠ g.expSeq.toNat)
  let s := setRing s r { g with cmdHead := g.cmdHead + 1, expSeq := BitVec.ofNat 32 (c.seqNo + 1), cmds := g.cmds ++ [c] }
  let s := writeCtrl s r (openEntries s r)
  match out with
  | none => s
  | some y =>
    let s := if seqOff && decide (y.status = stBadParam) then logErr s 0x0807 r.ctxNo (Config.errDetail 0x0807 [r.vector]) else s
    let s := if y.status = stMemUe then logErr s 0x0802 r.ctxNo (BitVec.ofNat 128 c.paramAddr) else s
    failFetched s r c y

/-- COMMAND_FETCH (R334): `entry` is what the read of the command entry returns, `param` what the read of its
parameter block returns. -/
def execCommandFetch (r : RingId) (entry param : HostData) (s : State) : Host.Outcome State Fault Refusal :=
  match ringOf s r with
  | none => .next s
  | some g =>
    if eligible g && ringLive s r then
      match entry with
      | .ok b => .next (fetched s r g (cmdOf b g.cmdHead.toNat s.clk.uptime) param)
      | _ => .next (fetchFailed s r g)
    else .next s

/-! ### Running a command -/

/-- Whether a command of a context's ring waits for an administrative command of the same timebase tick, which goes first
(R361). -/
def adminFirst (s : State) (r : RingId) : Bool :=
  match r, s.admin with
  | .ctx _, some g => g.cmds.any fun c => begun g c && !c.accepted && c.held.isNone && decide (c.since = s.clk.uptime)
  | _, _ => false

/-- The fetched command of ring `r` with opcode `op` that has begun and is not accepted yet (R356 row 6, R360, R361). -/
def curCmd (s : State) (r : RingId) (op : Nat) : Option Cmd :=
  if adminFirst s r then none
  else (ringOf s r).bind fun g => g.cmds.find? fun c => decide (c.opcode = op) && !c.accepted && c.held.isNone && begun g c

/-- Marks a command accepted (R356). Behind a long one, the next may then begin, and reply where it has failed a check (R360). -/
def acceptCmd (s : State) (r : RingId) (seq : Nat) : State :=
  releaseHeld (updCmd s r seq fun c => { c with accepted := true, since := s.clk.uptime }) r

/-- Replies ST_OK with a result (R363). -/
def endOk (s : State) (r : RingId) (c : Cmd) (result : Nat) : State :=
  endCmd (acceptCmd s r c.seq) r c.seq { status := stOk, result := result }

/-- Refuses a command, naming a field of the descriptor by its first bit (R354, R357). -/
def refuseField (s : State) (r : RingId) (c : Cmd) (status bitNo : Nat) : State := endCmd s r c.seq (fieldReply status 0 (bitNo / 8))

/-- Refuses a command with a status and no detail. -/
def refusePlain (s : State) (r : RingId) (c : Cmd) (status : Nat) : State := endCmd s r c.seq (plain status)

/-- Runs `f` on the current command of a ring with opcode `op`. -/
def withCmd (s : State) (r : RingId) (op : Nat) (f : Cmd → State) : State :=
  match curCmd s r op with
  | some c => f c
  | none => s

/-- Runs `f` on the current command of a context's ring, with its context. -/
def withCtxCmd (s : State) (r : RingId) (op : Nat) (f : Nat → Ctx → Cmd → State) : State :=
  match r with
  | .admin => s
  | .ctx n =>
    match ctxOf s n, curCmd s r op with
    | some k, some c => f n k c
    | _, _ => s

/-- NOP: replies (R366). -/
def execNop (r : RingId) (s : State) : Host.Outcome State Fault Refusal :=
  .next (withCmd s r 0x0001 fun c => endOk s r c 0)

/-- FENCE (R346): fences the context's write-combining entries, then waits until every write issued for the
context before is globally observed. `eccs` is what the symbol code reports of the reads that the fence takes (R239). -/
def execFence (r : RingId) (s : State) (eccs : List Ecc := []) : Host.Outcome State Fault Refusal :=
  .next (withCtxCmd s r 0x0080 fun n _ c =>
    endCmd (acceptCmd (wcFence s (fun e => decide (e.ctx = n)) eccs) r c.seq) r c.seq (plain stOk))

end Sys2Proof.Machine
end

