-- ==== Sys2Proof/Machine/Grants.lean ====
section
/-! DEFINITION. Records that create a context: ring records (R329, R330), windows with their page lists
(R339, R340), claim and grant entries (R155, R467), and the comparison of claims with grants (R156, R157,
R163). -/

namespace Sys2Proof.Machine

/-! ### Ring records (R329, R330) -/

/-- The ring record in 32 bytes. -/
def ringRecOf (b : Bytes) : RingRec :=
  let x := leNat (slice b 0 32)
  { cmdBase := fld x 63 0, statusBase := fld x 127 64, ctrlBase := fld x 191 128, cmdLog2 := fld x 195 192,
    statusLog2 := fld x 199 196, coalCount := fld x 211 200, coalUs := fld x 223 212 }

/-- The byte ranges of a ring: command ring, status ring and control line, as first byte and length. -/
def ringSpans (g : RingRec) : List (Nat × Nat) :=
  [(g.cmdBase, 64 * 2 ^ g.cmdLog2), (g.statusBase, 32 * 2 ^ g.statusLog2), (g.ctrlBase, 64)]

/-- Whether two byte ranges share a byte. -/
def overlaps (a b : Nat × Nat) : Bool := decide (a.1 < b.1 + b.2 ∧ b.1 < a.1 + a.2)

/-- Every ring range of the contexts. -/
def ctxSpans (s : State) : List (Nat × Nat) := s.rings.flatMap fun q => ringSpans q.2.rcd

/-- Every ring range of the module. -/
def allSpans (s : State) : List (Nat × Nat) :=
  (match s.admin with | some g => ringSpans g.rcd | none => []) ++ ctxSpans s

/-- Host pages of every window of every context. -/
def allPages (s : State) : List Nat := s.ctxs.flatMap fun q => q.2.windows.flatMap (·.pages)

/-- Byte offset of the field of a ring record that fails R330, compared with the ring ranges `others` and the
host pages `pages`. -/
def ringFault (b : Bytes) (others : List (Nat × Nat)) (pages : List Nat) : Option Nat :=
  let g := ringRecOf b
  if g.cmdBase % 4096 ≠ 0 then some 0
  else if g.statusBase % 4096 ≠ 0 then some 8
  else if g.ctrlBase % 64 ≠ 0 then some 16
  else if g.cmdLog2 < 4 ∨ 12 < g.cmdLog2 then some 24
  else if g.statusLog2 < g.cmdLog2 ∨ 12 < g.statusLog2 then some 24
  else if leAt b 28 4 ≠ 0 then some 28
  else
    match ringSpans g with
    | [c, t, k] =>
      if others.any (overlaps c) then some 0
      else if others.any (overlaps t) || overlaps t c then some 8
      else if others.any (overlaps k) || overlaps k c || overlaps k t then some 16
      else
        let hit := fun x => pages.any fun p => overlaps x (p, 2097152)
        if hit c then some 0 else if hit t then some 8 else if hit k then some 16 else none
    | _ => none

/-! ### Windows (R339, R340) -/

/-- A window record without its pages, and the address of its page list. -/
def windowOf (b : Bytes) (o : Nat) (pages : List Nat) : Window :=
  let x := leAt b o 32
  { base := fld x 47 0, kind := fld x 99 96, read := bit x 100, write := bit x 101, pages := pages }

/-- PAGES of a window record. -/
def windowPages (b : Bytes) (o : Nat) : Nat := leAt b (o + 8) 4

/-- The bytes of virtual space a window covers. -/
def Window.range (w : Window) : Nat × Nat := (w.base, w.pages.length * 2097152)

/-- A failure of R340: the space (with the window record's index for a page list) and the offset. -/
abbrev SpaceOff := Nat × Nat

/-- The first fault of a window record at offset `o` of the parameter block, before its page list is read;
`seen` are the windows of the lower records. -/
def windowFieldFault (b : Bytes) (o : Nat) (seen : List Window) : Option SpaceOff :=
  let x := leAt b o 32
  let base := fld x 47 0
  let n := fld x 95 64
  if base % 2097152 ≠ 0 then some (1, o)
  else if fld x 63 48 ≠ 0 then some (1, o + 6)
  else if n = 0 ∨ 65536 < n then some (1, o + 8)
  else if fld x 99 96 ≠ 1 ∧ fld x 99 96 ≠ 2 then some (1, o + 12)
  else if fld x 127 102 ≠ 0 then some (1, o + 12)
  else if fld x 191 128 % 8 ≠ 0 then some (1, o + 16)
  else if fld x 255 192 ≠ 0 then some (1, o + 24)
  else if !bit x 100 && !bit x 101 then some (1, o + 12)
  else if 281474976710656 < base + n * 2097152 then some (1, o + 8)
  else if base < windowBase || seen.any (fun w => overlaps w.range (base, n * 2097152)) then some (1, o)
  else none

/-- The first fault of the entries of a page list (R340). -/
def pageFault (i : Nat) (entries taken : List Nat) (spans : List (Nat × Nat)) : Option SpaceOff :=
  let sp := 5 + i * 16
  let idx := List.range entries.length
  let at_ := fun k => entries.getD k 0
  match idx.find? fun k => decide (at_ k % 2097152 ≠ 0) with
  | some k => some (sp, 8 * k)
  | none =>
    match idx.find? fun k => taken.contains (at_ k) || (entries.take k).contains (at_ k) with
    | some k => some (sp, 8 * k)
    | none => (idx.find? fun k => spans.any (overlaps (at_ k, 2097152))).map fun k => (sp, 8 * k)

/-- What reading the window records gives: the windows, a fault, or a page list that could not be read with its
address. -/
inductive WindowRead where
  | good (ws : List Window)
  | fault (f : SpaceOff)
  | unread (addr : Nat)
  deriving DecidableEq, Repr

/-- Takes the `n` window records from offset 32 on, one at a time (R340). -/
def readWindows (s : State) (b : Bytes) (spans : List (Nat × Nat)) : Nat → List HostData → List Window → WindowRead
  | 0, _, ws => .good ws
  | n + 1, lists, ws =>
    let i := ws.length
    let o := 32 + 32 * i
    match windowFieldFault b o ws with
    | some f => .fault f
    | none =>
      match lists with
      | .ok raw :: rest =>
        let entries := (List.range (windowPages b o)).map fun k => leAt raw (8 * k) 8
        match pageFault i entries (allPages s ++ ws.flatMap (·.pages)) spans with
        | some f => .fault f
        | none =>
          let w := windowOf b o entries
          if w.kind = 2 ∧ !(w.read && w.write) then .fault (1, o + 12) else readWindows s b spans n rest (ws ++ [w])
      | _ => .unread (leAt b (o + 16) 8)

/-! ### Claim and grant entries (R155, R467) -/

/-- Number of set bits of the low `n` bits. -/
def popcount (n x : Nat) : Nat := ((List.range n).filter x.testBit).length

/-- The claim or grant entry at offset `o`. -/
def claimOf (b : Bytes) (o : Nat) : Claim :=
  let x := leAt b o 16
  { res := fld x 7 0, unit := fld x 31 8, amount := fld x 63 32, detail := fld x 127 64 }

/-- Whether a router has a mesh neighbour in a direction: 0 east, 1 south, 2 west, 3 north; rows count south
(R128; DEDUCED, log entry 17). -/
def hasNeighbour (router dir : Nat) : Bool :=
  let x := router % 4
  let y := router % 16 / 4
  match dir with
  | 0 => decide (x < 3)
  | 1 => decide (y < 3)
  | 2 => decide (0 < x)
  | _ => decide (0 < y)

/-- Whether a UNIT exists for a resource (R467). -/
def claimUnitOk (res unit : Nat) : Bool :=
  match res with
  | 1 | 2 | 3 => decide (unit < 1024)
  | 4 | 5 => decide (unit < 32)
  | 6 => if unit < 128 then hasNeighbour (unit / 4) (unit % 4) else decide (unit ≤ 132)
  | 7 | 8 | 9 => decide (unit < 8)
  | 10 | 11 | 12 => decide (unit = 0)
  | _ => false

/-- The channels of a deck link (R467). -/
def deckWidth (unit : Nat) : Nat := if unit < 128 then 8 else if unit < 132 then 10 else 2

/-- How many bits a DETAIL mask may use, for the resources whose DETAIL is a set. -/
def maskWidth (res unit : Nat) : Option Nat :=
  match res with
  | 1 => some 64
  | 2 => some 4
  | 5 => some 3
  | 6 => some (deckWidth unit)
  | _ => none

/-- The largest AMOUNT a unit can hold (R467). -/
def amountTop (res unit frames : Nat) : Nat :=
  match res with
  | 1 => 64 | 2 => 4 | 3 => 4096 | 4 => 8192 | 5 => 1 | 6 => deckWidth unit | 7 => 15 | 8 => 4294967295
  | 9 => 1600 | 10 => 96000 | 11 => 2048 * frames | 12 => 1500000032 | _ => 0

/-- Byte offset within the entry of the first field outside R467; `claim` tells a claim from a grant. -/
def claimFault (claim : Bool) (frames : Nat) (c : Claim) : Option Nat :=
  if c.res = 0 ∨ 12 < c.res ∨ (claim ∧ c.res = 12) then some 0
  else if !claimUnitOk c.res c.unit then some 1
  else if c.amount < (if c.res = 12 then 33 else 1) ∨ amountTop c.res c.unit frames < c.amount then some 4
  else
    match maskWidth c.res c.unit with
    | some w =>
      if c.res ≠ 5 ∧ (if claim then c.amount ≠ popcount w c.detail else popcount w c.detail < c.amount) then some 4
      else if c.detail = 0 ∨ 2 ^ w ≤ c.detail then some 8 else none
    | none =>
      if c.res = 3 then (if 4096 < c.detail + c.amount then some 8 else none)
      else if c.res = 4 then (if 8192 < c.detail + c.amount then some 8 else none)
      else if c.detail ≠ 0 then some 8 else none

/-- The first fault of a list of entries at offset `o`: an entry outside R467, or a second entry for a RESOURCE
and UNIT. -/
def claimsFault (claim : Bool) (frames : Nat) (b : Bytes) (o : Nat) : Nat → List Claim → Option Nat
  | 0, _ => none
  | n + 1, seen =>
    let at_ := o + 16 * seen.length
    let c := claimOf b at_
    match claimFault claim frames c with
    | some f => some (at_ + f)
    | none =>
      if seen.any fun d => decide (d.res = c.res ∧ d.unit = c.unit) then some at_
      else claimsFault claim frames b o n (seen ++ [c])

/-- The `n` entries at offset `o`. -/
def claimList (b : Bytes) (o n : Nat) : List Claim := (List.range n).map fun i => claimOf b (o + 16 * i)

/-- The entry of a list for a resource and unit. -/
def claimFor (l : List Claim) (res unit : Nat) : Option Claim := l.find? fun c => decide (c.res = res ∧ c.unit = unit)

/-- Whether the set of `a` lies in the set of `b` (R156): lines for codes 3 and 4, a mask for 1, 2, 5 and 6. -/
def setWithin (a b : Claim) : Bool :=
  match a.res with
  | 3 | 4 => decide (b.detail ≤ a.detail ∧ a.detail + a.amount ≤ b.detail + b.amount)
  | 1 | 2 | 5 | 6 => decide (a.detail &&& b.detail = a.detail)
  | _ => true

/-- Whether a grant covers a claim (R156, R467). -/
def granted (grants : List Claim) (c : Claim) : Bool :=
  match claimFor grants c.res c.unit with
  | some g => decide (c.amount ≤ g.amount) && setWithin c g
  | none => false

/-- The first claim that a list of grants does not cover, in ascending code and then unit (R156). -/
def firstExcess (grants claims : List Claim) : Option Claim :=
  let bad := claims.filter fun c => !granted grants c
  bad.foldl (fun a c => match a with
    | none => some c
    | some d => if c.res < d.res ∨ (c.res = d.res ∧ c.unit < d.unit) then some c else some d) none

/-- Whether two entries of one resource and unit share an element of their sets. -/
def setsMeet (a b : Claim) : Bool :=
  match a.res with
  | 3 | 4 => overlaps (a.detail, a.amount) (b.detail, b.amount)
  | 1 | 2 | 5 | 6 => decide (a.detail &&& b.detail ≠ 0)
  | _ => false

/-- Whether two lists hold a common element of a resource of codes 0x01 to 0x06 on one unit (R157, R163). For BANKS the set of a
pier is its bank mask, whatever the arrays (DEDUCED, log entry 17). -/
def listsMeet (a b : List Claim) : Bool :=
  a.any fun x => b.any fun y => decide (x.res = y.res ∧ x.unit = y.unit) && setsMeet x y

/-- The amount a list holds of a resource on a unit. -/
def heldOf (l : List Claim) (res unit : Nat) : Nat := ((claimFor l res unit).map (·.amount)).getD 0

/-! ### Capacities (R157, R163, R257, R320) -/

/-- Claimable HOST capacity of the link mode in force, in MB/s: rate code 2 is 64 GT/s, 1 is 32 GT/s (R320, R440). -/
def hostCapacity (s : State) : Nat :=
  (if s.host.rate = 2 then 96000 else if s.host.rate = 1 then 46000 else 0) * s.host.width / 16

/-- Claimable FABRIC rate of a port in half Gb/s for its LANES code (R254). -/
def portRate2 (lanes : Nat) : Nat :=
  match lanes with
  | 1 => 375 | 2 => 750 | 3 => 1500 | 4 => 3000 | _ => 0

/-- Whether a total of a bounded resource fits what the unit provides (R157); KEYSTONE cycles lie within the
keystone cycles of the step, and STAGING within the context's frames, which R374 reserves. -/
def fitsUnit (s : State) (res unit amount : Nat) : Bool :=
  match res with
  | 7 => decide (amount ≤ 15)
  | 8 => decide (amount ≤ 4294967295)
  | 9 => decide (2 * amount ≤ portRate2 (portOf s unit).rcd.lanes)
  | 10 => decide (amount ≤ hostCapacity s)
  | _ => true

end Sys2Proof.Machine
end

