-- ==== Sys2Proof/Machine/Sha.lean ====
section
/-! DEFINITION. SHA-512 and the verification of RSASSA-PSS with RSA-4096, exponent 65,537, SHA-512, MGF1 with
SHA-512 and a 64-byte salt (R386). The algorithms are those of FIPS 180-4 and RFC 8017: PRESUMED, log entry 18. -/

namespace Sys2Proof.Machine

/-! ### SHA-512 -/

/-- The largest number of at most `bits` bits whose `k`-th power does not exceed `n`, decided bit by bit from the top. -/
def shaRoot (k n : Nat) : Nat → Nat → Nat
  | 0, r => r
  | bits + 1, r => shaRoot k n bits (if (r + 2 ^ bits) ^ k ≤ n then r + 2 ^ bits else r)

/-- The first 64 bits of the fraction of the `k`-th root of `p`. -/
def rootFraction (k p : Nat) : BitVec 64 := BitVec.ofNat 64 (shaRoot k (p * 2 ^ (64 * k)) 72 0)

/-- The first `n` primes. -/
def primesTo (n : Nat) : List Nat :=
  ((List.range 410).filter fun p => decide (2 ≤ p) && (List.range 21).all fun d => decide (d < 2 ∨ p ≤ d ∨ p % d ≠ 0)).take n

/-- Round constants: cube roots of the first 80 primes. -/
def shaK : List (BitVec 64) := (primesTo 80).map (rootFraction 3)

/-- Initial hash value: square roots of the first 8 primes. -/
def shaH0 : List (BitVec 64) := (primesTo 8).map (rootFraction 2)

/-- The exclusive or of `x` turned right by each of `rs`. -/
def turned (x : BitVec 64) (rs : List Nat) : BitVec 64 := (rs.map x.rotateRight).foldl (· ^^^ ·) 0

/-- The big-endian word of eight bytes. -/
def shaWord (b : Bytes) : BitVec 64 := BitVec.ofNat 64 (beNat b)

/-- The 80 words of the message schedule of a block: 16 words of the message, then 64 made from the words 2, 7, 15 and 16
places back; the list is built newest first. -/
def shaSchedule (block : Bytes) : List (BitVec 64) :=
  ((List.range 80).foldl (fun w i =>
    (if i < 16 then shaWord (slice block (8 * i) 8)
     else (turned (w.getD 1 0) [19, 61] ^^^ (w.getD 1 0 >>> 6)) + w.getD 6 0 +
       (turned (w.getD 14 0) [1, 8] ^^^ (w.getD 14 0 >>> 7)) + w.getD 15 0) :: w) []).reverse

/-- One round on the eight working variables, a first, with the sum of its round constant and message word. -/
def shaRound (v : List (BitVec 64)) (kw : BitVec 64) : List (BitVec 64) :=
  let x := fun i => v.getD i 0
  let chosen := x 6 ^^^ (x 4 &&& (x 5 ^^^ x 6))
  let majority := (x 0 &&& (x 1 ||| x 2)) ||| (x 1 &&& x 2)
  let t := x 7 + turned (x 4) [14, 18, 41] + chosen + kw
  (t + turned (x 0) [28, 34, 39] + majority) :: v.take 3 ++ (x 3 + t) :: (v.drop 4).take 3

/-- Compresses one 128-byte block into the hash value. -/
def shaBlock (h : List (BitVec 64)) (block : Bytes) : List (BitVec 64) :=
  List.zipWith (· + ·) h ((List.zipWith (· + ·) shaK (shaSchedule block)).foldl shaRound h)

/-- Compresses blocks while fuel lasts. -/
def shaBlocks : Nat → List (BitVec 64) → Bytes → List (BitVec 64)
  | 0, h, _ => h
  | n + 1, h, b => shaBlocks n (shaBlock h (b.take 128)) (b.drop 128)

/-- The padded message: 0x80, zeros, and the length in bits as 16 big-endian bytes. -/
def shaPad (b : Bytes) : Bytes :=
  let z := (239 - b.length % 128) % 128
  b ++ [0x80#8] ++ List.replicate z 0 ++ beBytes 16 (8 * b.length)

/-- SHA-512: 64 bytes. -/
def sha512 (b : Bytes) : Bytes :=
  let p := shaPad b
  (shaBlocks (p.length / 128) shaH0 p).flatMap fun w => beBytes 8 w.toNat

/-- A digest as a number whose byte i is digest byte i. -/
def shaBits (b : Bytes) : BitVec 512 := BitVec.ofNat 512 (leNat (sha512 b))

/-! ### RSASSA-PSS verification -/

/-- x to the power 65,537 modulo n. -/
def rsaPublic (n x : Nat) : Nat := ((List.range 16).foldl (fun y _ => y * y % n) (x % n)) * x % n

/-- MGF1 with SHA-512. -/
def mgf1 (seed : Bytes) (len : Nat) : Bytes :=
  ((List.range (ceilDiv len 64)).flatMap fun i => sha512 (seed ++ beBytes 4 i)).take len

/-- EMSA-PSS verification of an encoded message of 512 bytes (4,095 bits) against a message digest. -/
def pssVerify (em digest : Bytes) : Bool :=
  let db := em.take 447
  let h := (em.drop 447).take 64
  let mask := mgf1 h 447
  let x := List.zipWith (· ^^^ ·) db mask
  let x := match x with | [] => [] | y :: t => (y &&& 0x7F#8) :: t
  decide (em.length = 512) && decide (em.getLast? = some 0xBC#8) && !(em.headD 0).getLsbD 7 &&
    decide (x.take 382 = List.replicate 382 0) && decide (x.getD 382 0 = 0x01#8) &&
    decide (sha512 (List.replicate 8 0 ++ digest ++ x.drop 383) = h)

/-- Whether a 512-byte signature, most significant byte first, verifies a digest under a public modulus. -/
def rsaVerify (n : Nat) (sig digest : Bytes) : Bool :=
  let x := beNat sig
  decide (sig.length = 512) && decide (n ≠ 0) && decide (x < n) && pssVerify (beBytes 512 (rsaPublic n x)) digest

end Sys2Proof.Machine
end

