-- ==== Sys2Proof/Machine/Contexts.lean ====
section
/-! DEFINITION. Contexts: CTX_CREATE, CTX_DESTROY with its scrub, CTX_QUERY, GROUP_SET (R366, R367, R372 to
R382). -/

namespace Sys2Proof.Machine

/-! ### CTX_CREATE -/

/-- Takes `need` frames in ascending order from `f` on, skipping those in use (R374). -/
def takeFrames (used : Nat → Bool) : Nat → Nat → Nat → Option (List Nat)
  | _, _, 0 => some []
  | 0, _, _ + 1 => none
  | k + 1, f, n + 1 => if used f then takeFrames used k (f + 1) (n + 1) else (takeFrames used k (f + 1) n).map (f :: ·)

/-- The frames a new context takes: allocatable, not reserved, not withdrawn (R231, R249, R374). -/
def newFrames (s : State) (need : Nat) : Option (List Nat) :=
  takeFrames (fun f => s.sm.reserved.contains f || s.store.withdrawn.contains f) 130048 0 need

/-- A refusal that names a field of the parameter block or an entry of a page list. -/
def refuseAt (s : State) (r : RingId) (c : Cmd) (f : SpaceOff) : State := endCmd s r c.seq (fieldReply stBadParam f.1 f.2)

/-- The context that an accepted CTX_CREATE makes (R366). -/
def newCtx (c : Cmd) (ws : List Window) (frames : List Nat) : Ctx :=
  { cls := c.desc.getLsbD 296, stashD := c.fld 299 297, trapMask := c.fld 311 304, repeatLimit := c.fld 319 312
    tag := BitVec.ofNat 32 (c.fld 351 320), frames := frames, windows := ws
    grants := claimList c.param (32 + 32 * ws.length) (c.fld 407 392), grantDigest := shaBits c.param }

/-- The checks of CTX_CREATE after row 4, in the order of R366, and its effect. -/
def ctxCreate (s : State) (r : RingId) (c : Cmd) (lists : List HostData) : State :=
  let n := c.fld 295 288
  if (ctxOf s n).isSome then refusePlain s r c stBusy
  else if s.ctxs.any fun q => decide (q.2.tag.toNat = c.fld 351 320) then refuseField s r c stBadParam 320
  else
    match ringFault c.param (allSpans s) (allPages s) with
    | some o => refuseAt s r c (1, o)
    | none =>
      match readWindows s c.param (ringSpans (ringRecOf c.param) ++ allSpans s) (c.fld 391 384) lists [] with
      | .fault f => refuseAt s r c f
      | .unread a => endCmd (logErr s 0x0802 none (BitVec.ofNat 128 a)) r c.seq (memoryReply 1 a)
      | .good ws =>
        let pages := total (ws.map (·.pages.length))
        if 65536 < pages ∨ 524288 < pages + (allPages s).length then endCmd s r c.seq (resourceReply 0x11 0)
        else
          match claimsFault false (c.fld 383 352) c.param (32 + 32 * ws.length) (c.fld 407 392) [] with
          | some o => refuseAt s r c (1, o)
          | none =>
            match newFrames s (c.fld 383 352) with
            | none => endCmd s r c.seq (resourceReply 0x10 0)
            | some fs =>
              let s := setCtx s n (newCtx c ws fs)
              let s := { s with sm := { s.sm with reserved := s.sm.reserved ++ fs }, rings := kput s.rings n { rcd := ringRecOf c.param } }
              endOk (writeCtrl s (.ctx n) []) r c (c.fld 351 320)

/-- CTX_CREATE: `lists` is what the reads of the page lists return, window record after window record. -/
def execCtxCreate (r : RingId) (lists : List HostData) (s : State) : Host.Outcome State Fault Refusal :=
  .next (withCmd s r 0x0010 fun c => ctxCreate s r c lists)

/-! ### CTX_DESTROY (R366, R381) -/

/-- Ends the steps of a context with ST_KILLED. A kill does nothing to a step past its commit point: its release goes on (R173,
R350). -/
def killSteps (s : State) (n : Nat) : State :=
  (s.steps.filter fun x => decide (x.ctx = n ∧ x.state ≠ .committed)).foldl (fun s x => endStep s ((stepOf s x.id).getD x) (plain stKilled)) s

/-- Whether a command of a ring is the STEP_RUN of a step that has committed. -/
def committedRun (s : State) (r : RingId) (c : Cmd) : Bool :=
  s.steps.any fun x => decide (r = .ctx x.ctx ∧ x.seq = c.seq ∧ x.state = .committed)

/-- Ends every command of a ring that has not replied with ST_KILLED; a reply already held back takes the status, but for that of a
step that has committed. -/
def killCmds (s : State) (r : RingId) : State :=
  match ringOf s r with
  | none => s
  | some g => g.cmds.foldl (fun s c =>
      match c.held with
      | some y => updCmd s r c.seq fun c => { c with held := some { y with status := if y.committed then y.status else stKilled } }
      | none => if committedRun s r c then s else endCmd s r c.seq (plain stKilled)) s

/-- Removes the frames and Slory traffic of a context that wait to be sent or assembled (R381 row 2). -/
def dropTraffic (s : State) (n : Nat) (tag : BitVec 32) : State :=
  let keep := fun (f : TxFrame) => decide (f.ctx ≠ some n)
  { s with
    ports := s.ports.map fun p => (p.1, { p.2 with
      express := p.2.express.filter keep, bulk := p.2.bulk.filter keep
      expressWait := p.2.expressWait.filter keep, bulkWait := p.2.bulkWait.filter keep })
    host := { s.host with reads := s.host.reads.filter fun q => decide (q.ctx ≠ some n) }
    slory := { s.slory with
      tx := s.slory.tx.filter fun f => decide (f.key.tag ≠ tag.toNat)
      rxFlows := s.slory.rxFlows.filter fun f => decide (f.key.tag ≠ tag.toNat)
      leaders := s.slory.leaders.filter fun l => decide (l.ctx ≠ n) } }

/-- The keys of the units in a context's grant, as UNIT_SCRUB takes them: piers, stations, keystones. -/
def grantUnits (c : Ctx) : List Nat :=
  (c.grants.flatMap fun g =>
    match g.res with
    | 1 | 2 | 3 => [g.unit]
    | 4 => [2000 + g.unit]
    | 5 => ((List.range 3).filter g.detail.testBit).map fun i => 2000 + 100 * i + g.unit
    | 8 => [2300 + g.unit]
    | _ => []).eraseDups

/-- Row 2 of R381, once no step of the context is left: its write-combining entries, frames, flows and delta records go. -/
def destroyTraffic (s : State) (n : Nat) (tag : BitVec 32) : State :=
  if s.steps.any fun x => decide (x.ctx = n) then s
  else updCtx (dropTraffic (wcDiscard s fun e => decide (e.ctx = n)) n tag) n fun c => { c with sender := none }

/-- CTX_DESTROY once accepted: rows 1 and 2 of R381, and what rows 3 and 4 still have to do. -/
def beginDestroy (s : State) (n : Nat) (k : Ctx) (seq : Nat) : State :=
  let s := destroyTraffic (killCmds (killSteps s n) (.ctx n)) n k.tag
  updCtx s n fun c => { c with
    load := none, ckptWait := none, swapWait := none
    pendingMasters := [], pendingMoments := [], pendingCopies := [], pendingTensors := []
    destroying := some seq, scrubUnits := grantUnits c, scrubFrames := (c.pageMap.map (·.2)) }

/-- Withdraws the slots of a context from a table (R164). -/
def withdrawSlots (n : Nat) (t : TimeTab) : TimeTab :=
  { t with slots := t.slots.map fun e => if e.owner = n then { e with valid := false } else e }

/-- Whether a slot of the table in force belongs to another context than `n`. -/
def slotOfOther (s : State) (n i : Nat) : Bool :=
  match s.sched.table.bind fun t => t.slots[i]? with | some e => decide (e.owner ≠ n) | none => true

/-- Rows 5 and 6 of R381 and the reply, once nothing is left to end or to scrub. -/
def finishDestroy (s : State) (n : Nat) : State :=
  match ctxOf s n, ringOf s (.ctx n) with
  | some k, some g =>
    match k.destroying with
    | none => s
    | some seq =>
      if k.scrubUnits ≠ [] ∨ k.scrubFrames ≠ [] ∨ g.cmds ≠ [] ∨ (s.steps.any fun x => decide (x.ctx = n)) then s
      else
        let s := { s with
          ctxs := kdel s.ctxs n, rings := kdel s.rings n
          host := { s.host with writes := s.host.writes.map fun w => if w.ctx = some n then { w with former := true } else w }
          sm := { s.sm with reserved := s.sm.reserved.filter (fun f => !k.frames.contains f), retiring := s.sm.retiring ++ k.retiring }
          sched := { s.sched with
            table := s.sched.table.map (withdrawSlots n), waiting := s.sched.waiting.map fun t => t.map (withdrawSlots n)
            active := s.sched.active.filter (slotOfOther s n), follows := s.sched.follows.filter (slotOfOther s n) } }
        endCmd s .admin seq (plain stOk)
  | _, _ => s

/-- CTX_DESTROY. -/
def execCtxDestroy (r : RingId) (s : State) : Host.Outcome State Fault Refusal :=
  .next (withCmd s r 0x0011 fun c =>
    let n := c.fld 295 288
    match ctxOf s n with
    | none => refuseField s r c stBadParam 288
    | some k =>
      if k.destroying.isSome then refuseField s r c stBusy 288
      else finishDestroy (beginDestroy (acceptCmd s r c.seq) n k c.seq) n)

/-- Zeroes a pier: feeders, valid bits and marks, banks, tile store, zero tags (R381 row 4). -/
def scrubPier (pm : PierMem) (p : Nat) : PierMem :=
  { pm with
    tile := vclear pm.tile (262144 * p) 262144, feeder := vclear pm.feeder (4096 * 64 * p) (4096 * 64)
    valid := vclear pm.valid (512 * 64 * p) (512 * 64), skip := vclear pm.skip (64 * 64 * p) (64 * 64)
    bank := vclear pm.bank (256 * 64 * p) (256 * 64), chain := vclear pm.chain (4 * 64 * p) (4 * 64)
    zero := vclear pm.zero (4096 * p) 4096 }

/-- Zeroes what a unit holds: a pier's memories, or a span's local store for its stations. The flags, records
and buffers of stations and keystones belong to steps, and none is left. -/
def scrubUnit (s : State) (u : UnitRef) : State :=
  match u with
  | .pier p => { s with pm := scrubPier s.pm p }
  | .vector sp | .table sp | .gather sp => { s with pm := { s.pm with loc := vclear s.pm.loc (1048576 * sp) 1048576 } }
  | _ => s

/-- Whether an admitted step claims a unit (R155). -/
def unitClaimed (s : State) (u : UnitRef) : Bool :=
  s.steps.any fun x => x.state.live &&
    ((imageOf s x).map fun img => (img.claims.headD []).any fun c =>
      match u with
      | .pier p => decide ((c.res = 1 ∨ c.res = 2 ∨ c.res = 3) ∧ c.unit = p)
      | .vector sp | .table sp | .gather sp => decide ((c.res = 4 ∨ c.res = 5) ∧ c.unit = sp)
      | .keystone b => decide (c.res = 8 ∧ c.unit = b)
      | .abutment q => decide (c.res = 9 ∧ c.unit = q)).getD false

/-- UNIT_SCRUB (R381 row 4): after the frames, once no admitted step claims the unit. -/
def execUnitScrub (n : Nat) (u : UnitRef) (s : State) : Host.Outcome State Fault Refusal :=
  match ctxOf s n with
  | none => .next s
  | some k =>
    if k.destroying.isSome ∧ k.scrubFrames = [] ∧ !(s.steps.any fun x => decide (x.ctx = n)) ∧ k.scrubUnits.contains u.key ∧ !unitClaimed s u then
      .next (finishDestroy (updCtx (scrubUnit s u) n fun c => { c with scrubUnits := c.scrubUnits.erase u.key }) n)
    else .next s

/-- The bytes of the stack-`b` part of a frame that a retired granule's spare holds are zeroed with it (R248). -/
def scrubSpares (s : State) (f : Nat) (m : Vers Byte) : Vers Byte :=
  s.store.retired.foldl (fun m e =>
    let g := e.1 % 524288
    if g / 4 = f then vclear m ((spareFirst + e.2) * 524288) 524288 else m) m

/-- Zeroes one frame (R381 row 3). -/
def scrubFrame (s : State) (f : Nat) : State :=
  { s with sm := { s.sm with
      mem := scrubSpares s f (vclear s.sm.mem (f * 2097152) 2097152)
      poison := s.sm.poison.filter fun c => decide (c / 65536 ≠ f) } }

/-! ### CTX_QUERY (R367) -/

/-- Five 32-bit sums. -/
def sums5 (l : List Nat) : Bytes := (List.range 5).flatMap fun i => leBytes 4 (l.getD i 0)

/-- SERVICE of R314 as CTX_QUERY shows it. -/
def Service.code : Service → Nat
  | .running => 0 | .stopping => 1 | .stopped => 2

/-- Steps of a context that wait in its queue. -/
def queuedSteps (s : State) (n : Nat) : List Step := s.steps.filter fun x => decide (x.ctx = n ∧ x.state = .queued)

/-- The 256-byte record. -/
def queryBytes (s : State) (n : Nat) (c : Ctx) : Bytes :=
  leBytes 4 (c.service.code + b2n c.diverged * 4 + b2n c.sender.isSome * 8 + c.thinPos * 16) ++ leBytes 4 c.loadGen.toNat ++
    leBytes 8 c.versionWord ++ leBytes 4 c.lastStep ++ leBytes 4 c.overruns ++ leBytes 4 c.ttKills ++
    leBytes 4 (queuedSteps s n).length ++ sums5 c.pierEvents ++ sums5 c.stationEvents ++ sums5 c.keyEvents ++
    leBytes 4 c.droppedPairs ++ leBytes 4 c.spilledPairs ++ List.replicate 156 0

/-- CTX_QUERY. -/
def execCtxQuery (r : RingId) (s : State) : Host.Outcome State Fault Refusal :=
  .next (withCtxCmd s r 0x0012 fun n k c =>
    if c.resultBytes < 256 then refuseField s r c stBadParam 256
    else endOk (writeResult s r c.resultAddr (queryBytes s n k)) r c 0)

/-! ### GROUP_SET (R293, R366) -/

/-- The member ids of the parameter block. -/
def groupMembers (c : Cmd) : List Nat := (List.range (c.fld 291 288)).map fun i => leAt c.param (2 * i) 2

/-- Byte offset of the first entry that is no node id of this domain, does not ascend, or pads with bits set. -/
def groupFault (c : Cmd) : Option Nat :=
  let ms := groupMembers c
  match (List.range ms.length).find? fun i => decide (32768 ≤ ms.getD i 0 ∨ (0 < i ∧ ms.getD i 0 ≤ ms.getD (i - 1) 0)) with
  | some i => some (2 * i)
  | none => ((List.range (16 - 2 * ms.length)).find? fun i => decide (leAt c.param (2 * ms.length + i) 1 ≠ 0)).map (2 * ms.length + ·)

/-- GROUP_SET: a list without this module's node names the MEMBERS argument. -/
def execGroupSet (r : RingId) (s : State) : Host.Outcome State Fault Refusal :=
  .next (withCtxCmd s r 0x00B1 fun n k c =>
    if ctxBusy s n then refusePlain s r c stBusy
    else
      match groupFault c with
      | some o => refuseAt s r c (1, o)
      | none =>
        match s.slory.node with
        | some nd =>
          if (groupMembers c).contains nd.node then endOk (setCtx s n { k with group := groupMembers c }) r c 0
          else refuseField s r c stBadParam 288
        | none => refuseField s r c stBadParam 288)

end Sys2Proof.Machine
end

