-- ==== Sys2Proof/Machine/ImageParse.lean ====
section
/-! DEFINITION. Reading a schedule image: header, section directory, lists, descriptors, maps, routings,
tables, claim lists and timing entries (R53 to R57, R103, R122, R133, R136, R140, R146 to R149, R155, R184,
R214, R282). -/

namespace Sys2Proof.Machine

/-! ### Header and directory (R146, R147) -/

/-- A section of an image: its kind, COUNT, OFFSET, BYTES and the offset of its directory entry. -/
structure Sect where
  kind : Nat
  count : Nat
  off : Nat
  bytes : Nat
  entry : Nat
  deriving DecidableEq, Repr

/-- A list of a section: the unit its prefix names, the offset of the prefix and of its first entry, and its
entry count. -/
structure ListAt where
  unit : Nat
  pre : Nat
  off : Nat
  n : Nat
  deriving DecidableEq, Repr

/-- The section directory (R147). -/
def directory (b : Bytes) : List Sect :=
  (List.range (leAt b 21 1)).map fun i =>
    let e := 128 + 16 * i
    ⟨leAt b e 1, leAt b (e + 4) 4, leAt b (e + 8) 4, leAt b (e + 12) 4, e⟩

/-- The section of a kind. -/
def sect (d : List Sect) (kind : Nat) : Option Sect := d.find? fun s => decide (s.kind = kind)

/-- The lists of a section whose lists begin with a 16-byte prefix holding a count in [63:32], each followed by
`count` entries of 16 bytes; none where the counts and BYTES disagree. -/
def listsGo (b : Bytes) (unitOf : Nat → Nat) (stop : Nat) : Nat → Nat → List ListAt → Option (List ListAt)
  | 0, at_, acc => if at_ = stop then some acc else none
  | n + 1, at_, acc =>
    if at_ + 16 ≤ stop then
      let c := leAt b (at_ + 4) 4
      listsGo b unitOf stop n (at_ + 16 + 16 * c) (acc ++ [⟨unitOf (leAt b at_ 4), at_, at_ + 16, c⟩])
    else none

/-- The unit that the prefix of a list names (R147, R214, R282). -/
def unitField (kind x : Nat) : Nat :=
  match kind with
  | 1 => x % 1024
  | 2 => x % 32 + 100 * (x / 256 % 2)
  | _ => x % 8

/-- Where the abutment lists of the fabric section begin: after the prefix and the padded participant list. -/
def fabricListsOff (b : Bytes) (s : Sect) : Nat := s.off + 32 + ceilDiv (2 * leAt b s.off 2) 16 * 16

/-- The lists of a pier, station, keystone or fabric section. -/
def listsOf (b : Bytes) (s : Sect) : Option (List ListAt) :=
  listsGo b (unitField s.kind) (s.off + s.bytes) s.count (if s.kind = 4 then fabricListsOff b s else s.off) []

/-- The claim lists: a 16-byte prefix holding COUNT in [31:0] before each (R155). -/
def claimLists (b : Bytes) (stop : Nat) : Nat → Nat → List ListAt → Option (List ListAt)
  | 0, at_, acc => if at_ = stop then some acc else none
  | n + 1, at_, acc =>
    if at_ + 16 ≤ stop then
      let c := leAt b at_ 4
      claimLists b stop n (at_ + 16 + 16 * c) (acc ++ [⟨acc.length, at_, at_ + 16, c⟩])
    else none

/-- The lists of the section of a kind; empty where the image has none. -/
def listsIn (b : Bytes) (d : List Sect) (kind : Nat) : List ListAt := ((sect d kind).bind (listsOf b)).getD []

/-- The claim lists of the image. -/
def claimListsIn (b : Bytes) (d : List Sect) : List ListAt :=
  ((sect d 9).bind fun s => claimLists b (s.off + s.bytes) s.count s.off []).getD []

/-! ### Instructions -/

/-- A 2-bit format code (R56). -/
def fmt2 (x : Nat) : Fmt := match x % 4 with | 0 => .bf16 | 1 => .fp16 | 2 => .e4m3 | _ => .e5m2

/-- A stream format code (R122); codes above 5 are illegal. -/
def fmt4 (x : Nat) : Fmt := match x with | 0 => .bf16 | 1 => .fp16 | 2 => .e4m3 | 3 => .e5m2 | 4 => .fp32 | _ => .fp64

/-- The pier instruction at an offset (R53 to R57, R133); an illegal OP reads as FLAG_CLEAR and is refused. -/
def pierInsAt (b : Bytes) (o : Nat) : PierIns :=
  let x := leAt b o 4
  { cycle := leAt b (o + 4) 4
    mask := BitVec.ofNat 64 (leAt b (o + 8) 8)
    op :=
      match x % 16 with
      | 1 => .mma (fld x 5 4) (bit x 6) (fmt2 (fld x 9 8)) (fmt2 (fld x 11 10)) (bit x 12) (bit x 13) (fld x 20 16) (fld x 25 21) (fld x 28 26 + 1)
      | 2 => .fill (bit x 4) (fmt2 (fld x 7 6)) (fld x 12 8) (fld x 27 16)
      | 3 => .drain (fld x 5 4) (bit x 6) (if fld x 10 8 = 4 then .fp32 else fmt2 (fld x 10 8)) (bit x 11)
          (if bit x 6 then fld x 20 16 else fld x 27 16)
      | 4 => .bankWrite (fld x 5 4) (fld x 27 16)
      | 8 => .tileIn (fld x 15 4) (fld x 27 16)
      | 9 => .tileOut (fld x 15 4) (fld x 27 16)
      | 10 => .blocksIn (fld x 15 4) (fld x 27 16) (fld x 31 28 + 1)
      | 11 => .blocksOut (fld x 15 4) (fld x 27 16) (fld x 31 28 + 1)
      | _ => .flagClear (bit x 4) }

/-- The vector- or table-station instruction at an offset (R136). -/
def vecInsAt (b : Bytes) (o : Nat) : VecIns :=
  let x := leAt b o 16
  { vop := fld x 7 0, prec := bit x 8, bcast := bit x 9, srcA := fld x 27 16, srcB := fld x 39 28, srcC := fld x 51 40
    dst := fld x 63 52, cycle := fld x 95 64, arg := fld x 111 96 }

/-- The keystone entry at an offset (R214); `blocks` is the true count. -/
def keyInsAt (b : Bytes) (o : Nat) : KeyIns :=
  let x := leAt b o 16
  { kop := fld x 3 0, desc := fld x 15 4, tensor := fld x 27 16, cycle := fld x 63 32, first := fld x 95 64, blocks := fld x 111 96 + 1 }

/-- The fabric entry at an offset (R282). -/
def fabInsAt (b : Bytes) (o : Nat) : FabIns :=
  let x := leAt b o 16
  { fop := fld x 3 0, desc := fld x 15 4, node := fld x 30 16, cycle := fld x 63 32, flow := fld x 79 64
    srcIndex := fld x 95 80, span := fld x 100 96 }

/-- The entries of a list. -/
def entriesOf {α : Type} (f : Bytes → Nat → α) (b : Bytes) (l : ListAt) : List α :=
  (List.range l.n).map fun i => f b (l.off + 16 * i)

/-- The lists of a section as a map from unit to entries. -/
def listMap {α : Type} (f : Bytes → Nat → α) (b : Bytes) (ls : List ListAt) : KMap (List α) :=
  ls.foldl (fun m l => kput m l.unit (entriesOf f b l)) []

/-! ### Descriptors, bindings, maps, routings, tables -/

/-- The stream descriptor at an offset (R122). -/
def descAt (b : Bytes) (o : Nat) : Desc :=
  let x := leAt b o 64
  { fmt := fmt4 (fld x 3 0), packed := bit x 4, negInf := bit x 5, rows := 8 * (fld x 12 8 + 1), cols := 8 * (fld x 20 16 + 1)
    space := fld x 25 24, span := fld x 31 27, tiles := fld x 63 32 + 1, base := fld x 111 64, rowTiles := fld x 159 128 + 1
    stride0 := fld x 191 160, stride1 := fld x 239 192, map := if fld x 255 240 = 65535 then none else some (fld x 255 240)
    pred := fld x 259 256, posRow := fld x 287 264, posCol := fld x 311 288, predArg := fld x 335 312, stash := fld x 338 336 }

/-- Offset of descriptor `i`. -/
def descOff (d : List Sect) (i : Nat) : Nat := ((sect d 5).map (·.off)).getD 0 + 64 * i

/-- The stream descriptors. -/
def descsIn (b : Bytes) (d : List Sect) : List Desc :=
  match sect d 5 with
  | none => []
  | some s => (List.range s.count).map fun i => descAt b (s.off + 64 * i)

/-- Offset of binding-table entry `i` (R184). -/
def bindOff (d : List Sect) (i : Nat) : Nat := ((sect d 5).map fun s => s.off + 64 * s.count).getD 0 + 16 * i

/-- The binding-table entry at an offset (R184). -/
def bindAt (b : Bytes) (o : Nat) : Bind :=
  let x := leAt b o 16
  { kind := fld x 3 0, stream := fld x 15 4, source := fld x 27 16, filled := bit x 28, cycle := fld x 63 32
    count := fld x 79 64, aux := fld x 91 80 }

/-- The binding table. -/
def bindsIn (b : Bytes) (d : List Sect) : List Bind :=
  match sect d 5 with
  | none => []
  | some s => (List.range ((s.bytes - 64 * s.count) / 16)).map fun i => bindAt b (bindOff d i)

/-- The map entry at an offset, its bits read from the section (R90, R148). -/
def mapAt (b : Bytes) (s : Sect) (o : Nat) : BlockMap :=
  let x := leAt b o 16
  let n := (fld x 12 8 + 1) * (fld x 20 16 + 1)
  { mask := bit x 0, rowsB := fld x 12 8 + 1, colsB := fld x 20 16 + 1, bits := leAt b (s.off + fld x 63 32) (8 * ceilDiv n 64) }

/-- The maps of the image. -/
def mapsIn (b : Bytes) (d : List Sect) : List BlockMap :=
  match sect d 6 with
  | none => []
  | some s => (List.range s.count).map fun i => mapAt b s (s.off + 16 * i)

/-- Where the map words of the sparsity section begin: the lowest BITS offset of any map, else the end of the section (R147). -/
def mapWords (b : Bytes) (s : Sect) : Nat := ((List.range s.count).map fun i => leAt b (s.off + 16 * i + 4) 4).foldl min s.bytes

/-- Number of chain bindings: they fill the bytes up to the lowest BITS offset of any map. -/
def chainCount (b : Bytes) (s : Sect) : Nat := (mapWords b s - 16 * s.count) / 16

/-- Offset of chain binding `i`. -/
def chainOff (s : Sect) (i : Nat) : Nat := s.off + 16 * s.count + 16 * i

/-- The chain binding at an offset (R148). -/
def chainAt (b : Bytes) (o : Nat) : ChainBind :=
  let x := leAt b o 16
  { pier := fld x 9 0, array := fld x 15 10, bank := fld x 17 16, byRow := bit x 18, map := fld x 47 32, line := fld x 63 48, first := fld x 95 64 }

/-- The chain bindings of the image. -/
def chainsIn (b : Bytes) (d : List Sect) : List ChainBind :=
  match sect d 6 with
  | none => []
  | some s => (List.range (chainCount b s)).map fun i => chainAt b (chainOff s i)

/-- The routing descriptor at an offset (R103); counts are true counts. -/
def routingAt (b : Bytes) (o : Nat) : Routing :=
  let x := leAt b o 16
  { tokens := fld x 15 0 + 1, experts := fld x 23 16 + 1, topk := fld x 26 24 + 1, gate := bit x 27, spill := decide (fld x 29 28 = 1)
    cf := fld x 47 32, sf := fld x 63 48, score := fld x 79 64, token := fld x 95 80, dispatch := fld x 111 96 }

/-- The routing descriptors. -/
def routingsIn (b : Bytes) (d : List Sect) : List Routing :=
  match sect d 7 with
  | none => []
  | some s => (List.range s.count).map fun i => routingAt b (s.off + 16 * i)

/-- Offset of table `i`: the table entries, then the tables, each aligned to 128 B (R140, R147). -/
def tableOff (s : Sect) (i : Nat) : Nat := s.off + ceilDiv (16 * s.count) 128 * 128 + ceilDiv 12352 128 * 128 * i

/-- The table of entry `i`. -/
def tableAt (b : Bytes) (s : Sect) (i : Nat) : TableRec :=
  let e := leAt b (s.off + 16 * i) 16
  let o := tableOff s i
  let x := leAt b o 64
  { span := fld e 4 0, line := fld e 44 32, expMode := decide (fld x 1 0 = 1), sym := fld x 3 2, belowExt := decide (fld x 5 4 = 1)
    aboveExt := decide (fld x 7 6 = 1), deriv := bit x 8, eLo := fld x 23 16, pair := fld x 47 32, lo := fld x 95 64
    m := signed 8 (fld x 103 96), lowValue := fld x 159 128, highValue := fld x 191 160, zeroValue := fld x 223 192
    infPos := fld x 255 224, infNeg := fld x 287 256
    coef := (List.range 1024).map fun k => (leAt b (o + 64 + 12 * k) 4, leAt b (o + 68 + 12 * k) 4, leAt b (o + 72 + 12 * k) 4) }

/-- The tables of the image. -/
def tablesIn (b : Bytes) (d : List Sect) : List TableRec :=
  match sect d 8 with
  | none => []
  | some s => (List.range s.count).map (tableAt b s)

/-- The timing entry at an offset (R149). -/
def timingAt (b : Bytes) (o : Nat) : Timing :=
  let x := leAt b o 16
  { kind := fld x 3 0, id := fld x 15 4, cycle := fld x 63 32, arg1 := fld x 95 64, arg2 := fld x 127 96 }

/-- The timing entries of the image. -/
def timingIn (b : Bytes) (d : List Sect) : List Timing :=
  match sect d 10 with
  | none => []
  | some s => (List.range s.count).map fun i => timingAt b (s.off + 16 * i)

/-- The participant list (R282); empty for an image without the fabric section. -/
def partsIn (b : Bytes) (d : List Sect) : List Nat :=
  match sect d 4 with
  | none => []
  | some s => (List.range (leAt b s.off 2)).map fun i => leAt b (s.off + 32 + 2 * i) 2

/-- The station lists of one unit kind: 0 vector, 1 table. -/
def stationMap (b : Bytes) (d : List Sect) (unit : Nat) : KMap (List VecIns) :=
  listMap vecInsAt b (((listsIn b d 2).filter fun l => decide (l.unit / 100 = unit)).map fun l => { l with unit := l.unit % 100 })

/-- The image that the bytes hold. -/
def imageIn (b : Bytes) : Image :=
  let d := directory b
  { digest := shaBits b, bytes := leAt b 8 4, length := leAt b 12 4, finalSlack := leAt b 16 4, zeroSkip := bit (leAt b 20 1) 0
    stashDepth := fld (leAt b 20 1) 3 1
    piers := listMap pierInsAt b (listsIn b d 1), vectors := stationMap b d 0, tables := stationMap b d 1
    keystones := listMap keyInsAt b (listsIn b d 3), parts := partsIn b d
    thinRole := ((sect d 4).map fun s => fld (leAt b s.off 4) 17 16).getD 0
    deadlineMs := ((sect d 4).map fun s => leAt b (s.off + 4) 4).getD 0
    fabrics := listMap fabInsAt b (listsIn b d 4), descs := descsIn b d, binds := bindsIn b d, maps := mapsIn b d
    chains := chainsIn b d, routings := routingsIn b d, tabs := tablesIn b d
    claims := (claimListsIn b d).map fun l => claimList b l.off l.n, timing := timingIn b d
    fabricAt := ((sect d 4).map (·.off)).getD 0 }

end Sys2Proof.Machine
end

