-- ==== Sys2Proof/Machine/ImageCheck.lean ====
section
/-! DEFINITION. The structural checks of SCHED_LOAD (R150): header and directory, block maps and chains,
descriptors, the binding table, stations, keystones, the fabric, routings, tables and timing. Each answers the
byte offset, in the image, of the first field at fault. The order between the tables of different rules is the
model's (log entry 19). -/

namespace Sys2Proof.Machine

/-- A check: nothing where `ok` holds, else the offset. -/
def need (ok : Bool) (off : Nat) : Option Nat := if ok then none else some off

/-- The first fault of a list of checks. -/
def faults (l : List (Option Nat)) : Option Nat := l.findSome? id

/-- The first fault of a table of `n` checks over several entries: check after check, each over the entries in order. -/
def byRow (n : Nat) (es : List (List (Option Nat))) : Option Nat := (List.range n).findSome? fun r => es.findSome? fun e => (e[r]?).join

/-- Reserved fields [hi:lo] of a word at an offset. -/
def reservedOk (x o : Nat) (fs : List (Nat × Nat)) : Option Nat :=
  faults (fs.map fun f => need (decide (fld x f.1 f.2 = 0)) (o + f.2 / 8))

/-! ### Header and directory (R146, R147, R196) -/

/-- The header, with the context's stash depth. -/
def headerFault (b : Bytes) (stashD : Nat) : Option Nat :=
  let n := leAt b 8 4
  let len := leAt b 12 4
  let f := leAt b 20 1
  faults [
    need (decide (leAt b 0 4 = 0x4C5A0601)) 0, need (decide (leAt b 4 2 = 1)) 4, need (decide (leAt b 6 2 = 0)) 6,
    need (decide (n % 128 = 0 ∧ 128 ≤ n ∧ n ≤ 1073741824)) 8, need (decide (1 ≤ len ∧ len ≤ 750000000)) 12,
    need (decide (leAt b 16 4 ≤ len)) 16, need (decide (fld f 3 1 ≤ 4 ∧ fld f 3 1 ≤ stashD)) 20, need (decide (fld f 7 4 = 0)) 20,
    need (decide (1 ≤ leAt b 21 1 ∧ leAt b 21 1 ≤ 32 ∧ 128 + 16 * leAt b 21 1 ≤ n)) 21,
    (List.range 106).findSome? fun i => need (decide (leAt b (22 + i) 1 = 0)) (22 + i)]

/-- One directory entry against the lower ones. -/
def entryFault (b : Bytes) (dir : List Sect) (i : Nat) (s : Sect) : Option Nat :=
  let low := dir.take i
  faults [
    need (decide (1 ≤ s.kind ∧ s.kind ≤ 10) && !low.any fun t => decide (t.kind = s.kind)) s.entry,
    need (decide (leAt b (s.entry + 1) 3 = 0)) (s.entry + 1),
    need (decide (s.off % 128 = 0 ∧ 128 + 16 * dir.length ≤ s.off) && !low.any fun t => overlaps (s.off, s.bytes) (t.off, t.bytes)) (s.entry + 8),
    need (decide (s.off + s.bytes ≤ leAt b 8 4)) (s.entry + 12)]

/-- Whether COUNT, the counts of the prefixes and BYTES of a section agree (R147). -/
def countOk (b : Bytes) (s : Sect) : Bool :=
  match s.kind with
  | 1 | 2 | 3 => (listsOf b s).isSome
  | 4 => decide (32 ≤ s.bytes) && (listsOf b s).isSome
  | 5 => decide (s.count ≤ 4096 ∧ 64 * s.count ≤ s.bytes ∧ (s.bytes - 64 * s.count) % 16 = 0)
  | 6 => decide (16 * s.count ≤ s.bytes) && decide ((mapWords b s - 16 * s.count) % 16 = 0 ∧ (s.bytes - mapWords b s) % 8 = 0) &&
      (List.range s.count).all fun i =>
        let o := leAt b (s.off + 16 * i + 4) 4
        let x := leAt b (s.off + 16 * i) 4
        decide (16 * s.count ≤ o ∧ o + 8 * ceilDiv ((fld x 12 8 + 1) * (fld x 20 16 + 1)) 64 ≤ s.bytes)
  | 7 | 10 => decide (s.bytes = 16 * s.count)
  | 8 => decide (s.count ≤ 256) && decide (s.count = 0 ∨ tableOff s (s.count - 1) + 12352 ≤ s.off + s.bytes) &&
      decide (s.off + s.bytes ≤ tableOff s s.count)
  | 9 => (claimLists b (s.off + s.bytes) s.count s.off []).isSome
  | _ => true

/-- The directory and the counts of every section. -/
def directoryFault (b : Bytes) (d : List Sect) : Option Nat :=
  ((List.range d.length).findSome? fun i => (d[i]?).bind (entryFault b d i)).or
    (d.findSome? fun s => need (countOk b s) (s.entry + 4))

/-- Unit prefixes: the reserved bits of a prefix, and no unit listed twice (R147). -/
def prefixFault (b : Bytes) (d : List Sect) : Option Nat :=
  [(1, [(31, 10)]), (2, [(7, 5), (31, 9)]), (3, [(31, 3)]), (4, [(31, 3)])].findSome? fun k =>
    let ls := listsIn b d k.1
    (List.range ls.length).findSome? fun i =>
      (ls[i]?).bind fun l => faults [
        reservedOk (leAt b l.pre 4) l.pre k.2, need (decide (leAt b (l.pre + 8) 8 = 0)) (l.pre + 8),
        need (!(ls.take i).any fun m => decide (m.unit = l.unit)) l.pre]

/-! ### Uses of streams -/

/-- A use of a stream by a unit: 0 pier, 1 vector, 2 table, 3 gather, 4 keystone, 5 abutment, 6 load, 7 the vector station that
adds for the fabric (R282). `first` and `blocks` are the present blocks a pier moves; no blocks stand for the whole stream. `rate` is the scheduled rate
in elements per arithmetic cycle; 0 leaves it to the attachment. -/
structure Use where
  desc : Nat
  write : Bool
  cycle : Nat
  off : Nat
  kind : Nat
  unit : Nat
  first : Nat := 0
  blocks : Nat := 0
  rate : Nat := 0
  deriving DecidableEq, Repr

/-- A use of a whole stream. -/
def wholeUse (desc : Nat) (write : Bool) (cycle off kind unit : Nat) : Use :=
  { desc := desc, write := write, cycle := cycle, off := off, kind := kind, unit := unit }

/-- Elements per arithmetic cycle of a station instruction (R137, R142). -/
def opRate (table : Bool) (i : VecIns) : Nat :=
  if table then 128 else if i.vop ∈ [0x10, 0x11, 0x12, 0x13] then (if i.prec then 16 else 64) else if i.prec then 128 else 512

/-- Uses by the station instruction at an offset. -/
def stationUses (table : Bool) (unit o : Nat) (i : VecIns) : List Use :=
  let k := if table then 2 else 1
  let a := if table then decide (i.vop ≠ 0x3F) else vopUsesA i.vop
  let bb := if table then decide (i.vop = 2) else vopUsesB i.vop
  let cc := !table && vopUsesC i.vop
  ((if a then [wholeUse i.srcA false i.cycle (o + 2) k unit] else []) ++ (if bb then [wholeUse i.srcB false i.cycle (o + 3) k unit] else []) ++
    (if cc then [wholeUse i.srcC false i.cycle (o + 5) k unit] else []) ++
    (if i.vop = 0x3F then [] else [wholeUse i.dst true i.cycle (o + 6) k unit])).map fun u => { u with rate := opRate table i }

/-- Uses by the pier instruction at an offset, `first` the present blocks its pier moved before in the same direction. -/
def pierUses (img : Image) (unit o : Nat) (i : PierIns) (first : Nat → Nat) : List Use :=
  let tile := fun d => ((img.descs[d]?).map (presentCount img)).getD 0
  match i.op with
  | .tileIn d _ => [⟨d, false, i.cycle, o, 0, unit, first d, tile d, 0⟩]
  | .blocksIn d _ n => [⟨d, false, i.cycle, o, 0, unit, first d, n, 0⟩]
  | .tileOut d _ => [⟨d, true, i.cycle, o, 0, unit, first d, tile d, 0⟩]
  | .blocksOut d _ n => [⟨d, true, i.cycle, o, 0, unit, first d, n, 0⟩]
  | _ => []

/-- Uses by the list of a pier, each with its place in the stream (R133). -/
def pierListUses (b : Bytes) (img : Image) (l : ListAt) : List Use :=
  (List.range l.n).foldl (fun (us : List Use) i =>
    let o := l.off + 16 * i
    let ins := pierInsAt b o
    let out := match ins.op with | .tileOut _ _ | .blocksOut _ _ _ => true | _ => false
    us ++ pierUses img l.unit o ins fun d => total ((us.filter fun u => decide (u.desc = d ∧ u.write = out)).map (·.blocks))) []

/-- Uses by the fabric entry at an offset (R282). The vector station of SPAN adds what RED_RECV and ACC name (R284, R288);
`me` is this node: its own contribution goes over the deck to the station that adds it. -/
def fabUses (all : List (Nat × Nat × FabIns)) (me unit o : Nat) (i : FabIns) : List Use :=
  match i.fop with
  | 1 | 5 => [wholeUse i.desc false i.cycle o 5 unit]
  | 3 =>
    if i.desc = 0 then []
    else if i.node = me then
      match all.find? fun q => decide (q.2.2.fop = 4 ∧ q.2.2.flow = i.flow) with
      | some q => [wholeUse i.desc false i.cycle o 7 q.2.2.span]
      | none => []
    else [wholeUse i.desc false i.cycle o 5 unit]
  | 2 | 6 => [wholeUse i.desc true i.cycle o 5 unit]
  | 4 => [wholeUse i.desc true i.cycle o 7 i.span]
  | 8 => [wholeUse i.desc false i.cycle o 7 i.span]
  | _ => []

/-- The fabric entries with their port, offset and entry. -/
def fabEntries (b : Bytes) (d : List Sect) : List (Nat × Nat × FabIns) :=
  (listsIn b d 4).flatMap fun l => (List.range l.n).map fun i => (l.unit, l.off + 16 * i, fabInsAt b (l.off + 16 * i))

/-- The span whose gather station runs the image's routings and lists, where claim list 0 names one alone; 32 where the image
does not fix it (DEDUCED, log entry 16). -/
def gatherSpan (img : Image) : Nat :=
  match (img.claims.headD []).filter fun w => decide (w.res = 5) && w.detail.testBit 2 with
  | [w] => w.unit
  | _ => 32

/-- Every use of a stream in the image, section after section; `me` is this node. -/
def usesIn (b : Bytes) (d : List Sect) (img : Image) (me : Nat) : List Use :=
  let each := fun (ls : List ListAt) (f : ListAt → Nat → List Use) => ls.flatMap fun l => (List.range l.n).flatMap fun i => f l (l.off + 16 * i)
  let fabs := fabEntries b d
  let g := gatherSpan img
  (listsIn b d 1).flatMap (pierListUses b img) ++
    each (listsIn b d 2) (fun l o => stationUses (decide (l.unit / 100 = 1)) (l.unit % 100) o (vecInsAt b o)) ++
    each (listsIn b d 3) (fun l o =>
      let k := keyInsAt b o
      if k.desc = 0 then [] else [wholeUse k.desc false k.cycle o 4 l.unit]) ++
    fabs.flatMap (fun q => fabUses fabs me q.1 q.2.1 q.2.2) ++
    ((List.range img.binds.length).flatMap fun i =>
      match img.binds[i]? with
      | none => []
      | some w =>
        let o := bindOff d i
        match w.kind with
        | 5 => if w.filled then [wholeUse w.source false 0 (o + 2) 6 w.aux] else []
        | 6 => [wholeUse w.source false w.cycle (o + 2) 3 g, wholeUse w.count true w.cycle (o + 8) 3 g, wholeUse w.aux true w.cycle (o + 10) 3 g]
        | 7 => [wholeUse w.source false w.cycle (o + 2) 3 g, wholeUse w.aux true w.cycle (o + 10) 3 g]
        | _ => []) ++
    (match sect d 7 with
    | none => []
    | some s => (List.range s.count).flatMap fun i =>
        let o := s.off + 16 * i
        let r := routingAt b o
        [wholeUse r.score false 0 (o + 8) 3 g, wholeUse r.token false 0 (o + 10) 3 g, wholeUse r.dispatch true 0 (o + 12) 3 g])

/-! ### Maps and chain bindings (R90, R148) -/

/-- Map entries: reserved fields, and no bit beyond the last block. -/
def mapFault (b : Bytes) (d : List Sect) : Option Nat :=
  match sect d 6 with
  | none => none
  | some s => (List.range s.count).findSome? fun i =>
      let o := s.off + 16 * i
      let m := mapAt b s o
      faults [reservedOk (leAt b o 4) o [(7, 1), (15, 13), (31, 21)], need (decide (leAt b (o + 8) 8 = 0)) (o + 8),
        need (decide (m.bits < 2 ^ (m.rowsB * m.colsB))) (o + 4)]

/-! ### Descriptors (R124) -/

/-- Bytes a tile of a descriptor spans in storage. -/
def tileSpan (img : Image) (e : Desc) : Nat := e.blockBytes * (if e.packed then presentCount img e else e.nb)

/-- The descriptor at `o`, with the uses of the image. -/
def descFault (b : Bytes) (img : Image) (us : List Use) (i o : Nat) (e : Desc) : Option Nat :=
  let x := leAt b o 64
  let mine := us.filter fun u => decide (u.desc = i)
  faults [
    reservedOk x o [(7, 6), (15, 13), (23, 21), (26, 26), (127, 112), (263, 260), (511, 339)],
    need (decide (e.span = 0 ∨ e.space = 1)) (o + 3),
    need (decide (fld x 3 0 ≤ 5)) o, need (decide (e.space ≠ 3)) (o + 3),
    need (decide (e.fmt ≠ .fp64) || (decide (e.space ≠ 2) && mine.all fun u => decide (u.kind = 1 ∨ u.kind = 7))) o,
    need (!e.packed || e.map.isSome) o,
    need (match e.map with | none => true | some m => (match img.maps[m]? with | some w => decide (w.rowsB * 8 = e.rows ∧ w.colsB * 8 = e.cols) | none => false)) (o + 30),
    (if e.space = 2 then faults [need (decide (e.base = 0)) (o + 8), need (decide (e.stride0 = 0)) (o + 20), need (decide (e.stride1 = 0)) (o + 24)]
     else faults [need (decide (e.base % 128 = 0)) (o + 8), need (decide (e.stride0 % 128 = 0)) (o + 20), need (decide (e.stride1 % 128 = 0)) (o + 24)]),
    need (decide (e.space ≠ 1) || (List.range e.tiles).all fun n => decide (tileAddr e n + tileSpan img e ≤ 1048576)) (o + 8),
    need (decide (e.pred ≤ 4)) (o + 32), need (if e.pred ≤ 1 then decide (e.predArg = 0) else decide (1 ≤ e.predArg)) (o + 39),
    need (decide (e.pred = 0) || mine.all fun u => decide (u.kind ≠ 0) || u.write) (o + 32),
    need (decide (e.posRow + ceilDiv e.tiles e.rowTiles * e.rows ≤ 16777216)) (o + 33),
    need (decide (e.posCol + min e.tiles e.rowTiles * e.cols ≤ 16777216)) (o + 36),
    need (decide (e.stash = 7 ∨ (e.stash ≤ 4 ∧ e.stash ≤ img.stashDepth))) (o + 42)]

/-- Every descriptor in turn. -/
def descsFault (b : Bytes) (d : List Sect) (img : Image) (us : List Use) : Option Nat :=
  (List.range img.descs.length).findSome? fun i => (img.descs[i]?).bind (descFault b img us i (descOff d i))

/-- Every use names a descriptor of the image. -/
def usesFault (img : Image) (us : List Use) : Option Nat :=
  us.findSome? fun u => need (decide (u.desc < img.descs.length)) u.off

/-! ### Addresses (R123, R341, R470) -/

/-- The byte runs of the present blocks of a stream. -/
def streamRuns (img : Image) (e : Desc) : List (Nat × Nat) :=
  (List.range e.tiles).flatMap fun n => (presentIdx img e).map fun k => (tileAddr e n + blockOff img e k, e.blockBytes)

/-- Whether a byte run lies in windows of a kind with the access. -/
def runInWindow (c : Ctx) (kind : Nat) (rd wr : Bool) (r : Nat × Nat) : Bool :=
  (List.range ((r.1 + r.2 + 2097151) / 2097152 - r.1 / 2097152)).all fun k =>
    let a := (r.1 / 2097152 + k) * 2097152
    c.windows.any fun w => decide (w.kind = kind ∧ w.base ≤ a ∧ a < w.base + w.pages.length * 2097152) && (!rd || w.read) && (!wr || w.write)

/-- Whether a stream of SPACE 00b addresses bytes the context has: its stacked-memory range, or windows of the
kind its bindings give it, with the access its uses need (R341). -/
def streamPlaced (c : Ctx) (img : Image) (us : List Use) (i : Nat) (e : Desc) : Bool :=
  let mine := us.filter fun u => decide (u.desc = i)
  let off := (bindOf img 3 i).isSome || (bindOf img 4 i).isSome
  (streamRuns img e).all fun r =>
    if r.1 + r.2 ≤ windowBase ∧ !off then true
    else runInWindow c (if off then 2 else 1) (mine.any fun u => !u.write) (mine.any fun u => u.write) r

/-- Whether the window of a slow-tier tensor, which an update reads and writes, lies in a host-memory window with READ and WRITE
(R204, R341). -/
def slowWindowOpen (c : Ctx) (t : Tensor) : Bool :=
  c.windows.any fun w => w.read && w.write && decide (w.base ≤ t.window ∧ t.window + 512 * t.shardBlocks + 64 ≤ w.base + w.pages.length * 2097152)

/-- The addresses that the image fixes (R341): BASE is named, and for the masters of a slow-tier tensor that a keystone updates the
TENSOR of its entry. -/
def addressFault (b : Bytes) (d : List Sect) (c : Ctx) (img : Image) (us : List Use) : Option Nat :=
  ((List.range img.descs.length).findSome? fun i =>
    (img.descs[i]?).bind fun e =>
      need (decide (e.space ≠ 0) || (bindOf img 2 i).isSome || (us.all fun u => decide (u.desc ≠ i)) || streamPlaced c img us i e) (descOff d i + 8)).or
  ((listsIn b d 3).findSome? fun l => (List.range l.n).findSome? fun i =>
    let o := l.off + 16 * i
    let k := keyInsAt b o
    need (!decide (k.kop = 2 ∨ k.kop = 3) || (match tensorOf c k.tensor with | some t => !t.slow || slowWindowOpen c t | none => true)) (o + 2))

/-- Lines of a local store that a stream of SPACE 01b occupies. -/
def localLines (img : Image) (e : Desc) : List Nat :=
  ((streamRuns img e).flatMap fun r => (List.range (ceilDiv (r.1 % 128 + r.2) 128)).map fun k => r.1 / 128 + k).eraseDups

/-- Local-store lines of the image's tables on a span. -/
def tableLines (img : Image) (sp : Nat) : List Nat :=
  (img.tabs.filter fun t => decide (t.span = sp)).flatMap fun t => (List.range 97).map (t.line + ·)

/-- Lines of a local store that the `k`-th present block of a stream of SPACE 01b takes part of. -/
def blockLocalLines (img : Image) (e : Desc) (k : Nat) : List Nat :=
  let a := blockAddr img e k
  (List.range (ceilDiv (a % 128 + e.blockBytes) 128)).map (a / 128 + ·)

/-- Whether some block that the step writes below nominal cycle `cyc` lies in a line of a span's local store. -/
def lineWritten (img : Image) (sp cyc l : Nat) : Bool :=
  (List.range img.descs.length).any fun j =>
    match img.descs[j]? with
    | none => false
    | some f => decide (f.space = 1 ∧ f.span = sp) && (List.range (streamLen img f)).any fun m =>
        (blockLocalLines img f m).contains l && (producedAt img j m).any fun p => decide (p < cyc)

/-- The present blocks of its stream that a use covers. -/
def Use.blockList (img : Image) (e : Desc) (u : Use) : List Nat :=
  (List.range (if u.blocks = 0 then streamLen img e else u.blocks)).map (u.first + ·)

/-- A read of a local-store line must follow a write of it by the step at an earlier nominal cycle, unless a table lies there;
and no use writes a table's lines (R470). A routing issues after all the image's lists have begun, so any write precedes its
reads (DEDUCED, log entry 16). -/
def localFault (img : Image) (us : List Use) : Option Nat :=
  us.findSome? fun u =>
    (img.descs[u.desc]?).bind fun e =>
      if e.space ≠ 1 then none
      else
        let ls := ((u.blockList img e).flatMap (blockLocalLines img e)).eraseDups
        let tabs := tableLines img e.span
        if u.write then need (ls.all fun l => !tabs.contains l) u.off
        else need (ls.all fun l => tabs.contains l || lineWritten img e.span (if u.kind = 3 ∧ u.cycle = 0 then 2 ^ 32 else u.cycle) l) u.off

/-! ### The binding table (R185) -/

/-- KIND, reserved fields and the fields an entry must leave 0. -/
def bindFields (x o : Nat) (w : Bind) : Option Nat :=
  let z := fun (k : Bool) (n off : Nat) => if k then need (decide (n = 0)) off else none
  let k := fun l => l.contains w.kind
  faults [
    need (decide (1 ≤ w.kind ∧ w.kind ≤ 7)) o, reservedOk x o [(31, 29), (127, 92)],
    z (k [2, 3, 4]) w.source (o + 2), z (!k [5]) (b2n w.filled) (o + 3), z (k [1, 2, 4]) w.cycle (o + 4),
    z (k [1, 4, 7]) w.count (o + 8), z (k [1, 2, 3, 4]) w.aux (o + 10),
    if k [3, 5] then need (decide (1 ≤ w.count ∧ w.count ≤ 4096)) (o + 8) else none]

/-- Descriptor indices that an entry holds, with their offsets. -/
def bindDescs (o : Nat) (w : Bind) : List (Nat × Nat) :=
  match w.kind with
  | 1 => [(w.stream, o), (w.source, o + 2)]
  | 2 | 3 | 4 => [(w.stream, o)]
  | 5 => if w.filled then [(w.source, o + 2)] else []
  | 6 => [(w.source, o + 2), (w.count, o + 8), (w.aux, o + 10)]
  | 7 => [(w.source, o + 2), (w.aux, o + 10)]
  | _ => []

/-- Whether following TAG entries from a stream comes back to a visited stream. -/
def tagLoops (img : Image) : Nat → Nat → List Nat → Bool
  | 0, _, _ => true
  | n + 1, i, seen =>
    match bindOf img 1 i with
    | none => false
    | some b => if seen.contains b.source then true else tagLoops img n b.source (b.source :: seen)

/-- The live and the shadow range of a RESIDENT entry. -/
def liveRange (w : Bind) : Nat × Nat := (w.stream, w.count)
/-- The shadow range. -/
def shadowRange (w : Bind) : Nat × Nat := (w.cycle, w.count)

/-- Whether a range of lines meets the live or the shadow range of a RESIDENT entry. -/
def rangeMeets (r : Nat × Nat) (b : Bind) : Bool := overlaps r (liveRange b) || overlaps r (shadowRange b)

/-- Whether two RESIDENT entries of one pier share a line. -/
def rangesMeet (a b : Bind) : Bool := decide (a.aux = b.aux) && (rangeMeets (liveRange a) b || rangeMeets (shadowRange a) b)

/-- Rows 4 of a stream's grid: its rows and columns in elements. -/
def gridRows (e : Desc) : Nat := ceilDiv e.tiles e.rowTiles * e.rows
/-- Columns of a stream's grid. -/
def gridCols (e : Desc) : Nat := e.rowTiles * e.cols

/-- Whether a stream holds a matrix of `rows` × `cols`: a full grid of `cols` columns and of the least tile rows that hold
`rows` (R104, R186, R187; that the last tile may be part empty is DEDUCED, log entry 89). -/
def holdsMatrix (e : Desc) (rows cols : Nat) : Bool :=
  decide (e.tiles % e.rowTiles = 0 ∧ e.tiles / e.rowTiles = ceilDiv rows e.rows ∧ gridCols e = cols)

/-- H of a routing: the width of its token activations (R103). -/
def Routing.width (img : Image) (r : Routing) : Nat := ((img.descs[r.token]?).map gridCols).getD 0

/-- Rows of a routing's windows, primary and spill (R105). -/
def Routing.rows (r : Routing) : Nat := r.experts * (windowRows r r.cf + if r.spill then windowRows r r.sf else 0)

/-- The stream checks of COMBINE_BWD and DISPATCH_BWD (R186, R187): T × H for the output gradient and the token gradient, the
routing's windows for the window gradients, T × 8 for the gate gradients, FP32 for what they name as FP32. -/
def bwdFault (img : Image) (o : Nat) (w : Bind) : Option Nat :=
  if w.kind ≠ 6 ∧ w.kind ≠ 7 then none
  else
    match img.routings[w.stream]? with
    | none => some o
    | some r =>
      let isFp := fun i => match img.descs[i]? with | some e => decide (e.fmt = .fp32) | none => false
      let is := fun i rows cols => match img.descs[i]? with | some e => holdsMatrix e rows cols | none => false
      let h := r.width img
      if w.kind = 6 then
        faults [need (is w.source r.tokens h) (o + 2), need (isFp w.count && is w.count r.rows h) (o + 8),
          need (isFp w.aux && is w.aux r.tokens 8) (o + 10)]
      else faults [need (isFp w.source && is w.source r.rows h) (o + 2), need (isFp w.aux && is w.aux r.tokens h) (o + 10)]

/-- Kibibytes of a STAGING claim. -/
def stagingClaim (img : Image) : Nat := heldOf (img.claims.headD []) 11 0

/-- The binding table, check after check of R185 but for its last two; `others` are the RESIDENT entries of the context's other
loaded images. A stream bound by both PREFETCH and OFFLOAD is named by the KIND of the OFFLOAD entry (DESIGN CHOICE, log
entry 89). -/
def bindsFault (b : Bytes) (d : List Sect) (c : Ctx) (img : Image) (others : List Bind) : Option Nat :=
  let bs := img.binds
  let each := fun (f : Nat → Nat → Bind → Option Nat) => (List.range bs.length).findSome? fun i => (bs[i]?).bind (f i (bindOff d i))
  let desc := fun i => img.descs[i]?
  faults [
    each fun _ o w => bindFields (leAt b o 16) o w,
    each fun _ o w => (bindDescs o w).findSome? fun q => need (decide (q.1 < img.descs.length)) q.2,
    each fun i o w => if w.kind ≤ 4 then need (!(bs.take i).any fun v => decide (v.kind = w.kind ∧ v.stream = w.stream)) o else none,
    each fun _ o w => if w.kind = 1 then need (match desc w.stream with | some e => decide (e.stash = 7) | none => false) o else none,
    (List.range img.descs.length).findSome? fun i => (desc i).bind fun e => need (decide (e.stash ≠ 7) || (bindOf img 1 i).isSome) (descOff d i + 42),
    each fun _ o w => if w.kind = 1 then need (!tagLoops img (bs.length + 1) w.stream [w.stream]) (o + 2) else none,
    each fun _ o w => if w.kind = 1 then
        need (match desc w.stream, desc w.source with | some e, some f => decide (e.tiles ≤ f.tiles) | _, _ => false) (o + 2) else none,
    each fun _ o w => if w.kind = 2 then
        need (match desc w.stream, tensorOf c w.count with
          | some e, some t => decide (e.space = 0) && (List.range e.tiles).all fun n => decide (tileAddr e n + tileSpan img e ≤ t.blocks * 64 * (wfmtOf t.wfmt).size)
          | _, _ => false) (o + 8) else none,
    each fun _ o w => if w.kind = 3 ∨ w.kind = 4 then
        need (match desc w.stream with | some e => decide (e.space = 0) && (streamRuns img e).all (runInWindow c 2 true true) | none => false) o else none,
    each fun _ o w => if w.kind = 4 then need (bindOf img 3 w.stream).isNone o else none,
    each fun i o w => if w.kind = 3 then
        need (decide (total (((bs.take (i + 1)).filter fun v => decide (v.kind = 3)).map fun v =>
          match desc v.stream with | some e => v.count * presentCount img e * e.blockBytes | none => 0) ≤ 1024 * stagingClaim img)) (o + 8) else none,
    each fun i o w => if w.kind = 5 then faults [
        need (decide (w.stream + w.count ≤ 4096) && !(bs.take i).any fun v => decide (v.kind = 5 ∧ v.aux = w.aux) && rangeMeets (liveRange w) v) o,
        need (decide (w.cycle + w.count ≤ 4096) && !overlaps (liveRange w) (shadowRange w) &&
          !(bs.take i).any fun v => decide (v.kind = 5 ∧ v.aux = w.aux) && rangeMeets (shadowRange w) v) (o + 4),
        need ((img.claims.headD []).any fun k => decide (k.res = 3 ∧ k.unit = w.aux)) (o + 10)] else none,
    each fun _ o w => if w.kind = 5 then
        need (if w.filled then
            (match desc w.source with
            | some e => decide (e.space = 0 ∧ e.fmt ≠ .fp64 ∧ streamLen img e * blockLines e.fmt = w.count)
            | none => false)
          else decide (w.source = 0)) (o + 2) else none,
    each fun _ o w => if w.kind = 5 then
        need (others.all fun v => !rangesMeet v w || decide (v.aux = w.aux ∧ v.stream = w.stream ∧ v.cycle = w.cycle ∧ v.count = w.count)) o else none]

/-- The last row of R185: the routing and the streams of the backward entries. -/
def backwardFault (d : List Sect) (img : Image) : Option Nat :=
  (List.range img.binds.length).findSome? fun i => (img.binds[i]?).bind (bwdFault img (bindOff d i))

/-! ### Stations (R136, R137, R142) -/

/-- Whether a VOP value is listed (R137). -/
def vopOk (v : Nat) : Bool :=
  v ∈ [1, 2, 3, 4, 5, 6, 7, 8, 9, 0xA, 0xB, 0xC, 0x10, 0x11, 0x12, 0x13, 0x20, 0x21, 0x22, 0x28, 0x30, 0x38, 0x3F]

/-- ARG of a vector operation. -/
def argOk (v arg : Nat) : Bool :=
  match v with
  | 0x07 => decide (arg ≤ 2)
  | 0x0B => decide (-300 ≤ signed 16 arg ∧ signed 16 arg ≤ 300)
  | 0x28 => true
  | 0x30 | 0x3F => decide (arg ≤ 1)
  | _ => decide (arg = 0)

/-- Shape agreement of two streams. -/
def sameShape (e f : Desc) : Bool := decide (e.rows = f.rows ∧ e.cols = f.cols)

/-- Shapes of the operands and the result (R137): offset of the first that disagrees. The result of TRANSPOSE has the operand's
shape transposed (DESIGN CHOICE, log entry 89). -/
def shapeFault (img : Image) (table : Bool) (o : Nat) (i : VecIns) : Option Nat :=
  let useB := if table then decide (i.vop = 2) else vopUsesB i.vop
  match img.descs[i.srcA]?, img.descs[i.dst]? with
  | some a, some t =>
    let row := !table && i.vop ∈ [0x20, 0x21, 0x22]
    faults [
      (if useB then (img.descs[i.srcB]?).bind fun e =>
        need (if i.bcast then decide (e.rows = a.rows ∧ e.cols = 8) else sameShape a e) (o + 3) else none),
      (if !table && vopUsesC i.vop then (img.descs[i.srcC]?).bind fun e => need (sameShape a e) (o + 5) else none),
      need (if row then decide (t.rows = a.rows ∧ t.cols = 8)
        else if !table ∧ i.vop = 0x38 then decide (t.rows = a.cols ∧ t.cols = a.rows) else sameShape a t) (o + 6)]
  | _, _ => none

/-- The station instruction at an offset, after one of cycle `prev`. BCAST on an operation without SRC_B, and PREC where it
selects nothing, are refused (DESIGN CHOICE, log entry 89). -/
def stationFault (b : Bytes) (img : Image) (table : Bool) (sp prev o : Nat) (i : VecIns) : Option Nat :=
  let x := leAt b o 16
  let flag := decide (i.vop = 0x3F)
  let useA := if table then !flag else vopUsesA i.vop
  let useB := if table then decide (i.vop = 2) else vopUsesB i.vop
  faults [
    need (if table then decide (i.vop = 1 ∨ i.vop = 2 ∨ i.vop = 0x3F) else vopOk i.vop) o,
    need (!(i.prec && (table || flag || decide (i.vop = 0x30)))) (o + 1), need (!i.bcast || useB) (o + 1),
    reservedOk x o [(15, 10), (127, 112)],
    need (useA || decide (i.srcA = 0)) (o + 2), need (useB || decide (i.srcB = 0)) (o + 3),
    need ((!table && vopUsesC i.vop) || decide (i.srcC = 0)) (o + 5), need (!flag || decide (i.dst = 0)) (o + 6),
    need (decide (prev ≤ i.cycle)) (o + 8),
    (if table then
      (if flag then need (decide (i.arg ≤ 1)) (o + 12)
       else need (match img.tabs[i.arg]? with | some t => decide (t.span = sp) && (decide (i.vop = 1) || t.deriv) | none => false) (o + 12))
     else need (argOk i.vop i.arg) (o + 12)),
    (stationUses table sp o i).findSome? fun u => need (decide (u.desc < img.descs.length)) u.off,
    (if flag || (!table && decide (i.vop = 0x30)) then none else shapeFault img table o i),
    (if !table ∧ i.vop = 0x30 then (img.descs[i.dst]?).bind fun e => need (decide (e.fmt = .fp32)) (o + 6) else none)]

/-- Every station list. -/
def stationsFault (b : Bytes) (d : List Sect) (img : Image) : Option Nat :=
  (listsIn b d 2).findSome? fun l => (List.range l.n).findSome? fun i =>
    let o := l.off + 16 * i
    stationFault b img (decide (l.unit / 100 = 1)) (l.unit % 100) (if i = 0 then 0 else leAt b (o - 8) 4) o (vecInsAt b o)

/-! ### Keystones (R182, R215, R217) -/

/-- The keystone lists with their entries and offsets: keystone, offset, entry. -/
def keyEntries (b : Bytes) (d : List Sect) : List (Nat × Nat × KeyIns) :=
  (listsIn b d 3).flatMap fun l => (List.range l.n).map fun i => (l.unit, l.off + 16 * i, keyInsAt b (l.off + 16 * i))

/-- The shard blocks an entry covers (R214). -/
def KeyIns.covers (k : KeyIns) : List Nat := (List.range k.blocks).map fun i => k.first + 8 * i

/-- The rule of a tensor's group. -/
def ruleOf (c : Ctx) (t : Tensor) : Nat := ((c.groups[t.group]?).map (·.rule)).getD 0

/-- Cycles per block of an UPDATE (R216, R217): two for buffered AdamW. -/
def updateCycles (c : Ctx) (t : Tensor) (buffered : Bool) : Nat := if ruleOf c t = 1 ∧ buffered then 2 else 1

/-- Cycles of an entry from issue to its last shadow write (R217). -/
def keyCost (c : Ctx) (img : Image) (k : KeyIns) : Nat :=
  match k.kop, tensorOf c k.tensor with
  | 1, _ => 40 + k.blocks
  | 2, some t => 40 + updateCycles c t (decide (k.desc = 0)) * k.blocks
  | 3, some t => 40 + updateCycles c t false * min (listCapacity img k.desc) k.blocks + ceilDiv k.blocks 4
  | 4, _ => 1
  | _, _ => 0

/-- Whether clipping or skipping is enabled (R205). -/
def normNeeded (c : Ctx) : Bool := decide (c.maxNorm ≠ 0) || c.skipNonfinite

/-- The end of the last ACCEPT of an image (R217). -/
def Image.acceptEnd (img : Image) : Nat :=
  (img.keystones.flatMap fun l => (l.2.filter fun k => decide (k.kop = 1)).map fun k => k.cycle + 40 + k.blocks).foldl max 0

/-- The WAIT entry for the leader's total. WAIT names a stream and the total is none: it is taken to be the first at or after the
end of the last ACCEPT, whatever it awaits (DESIGN CHOICE, log entry 89). -/
def totalWait (img : Image) : Option Timing := img.timing.find? fun w => decide (w.kind = 3 ∧ img.acceptEnd ≤ w.cycle)

/-- When the norm is known (R215): in a single-module image at the end of the last ACCEPT, else at the WAIT entry for the
leader's total. -/
def normReady (img : Image) : Nat :=
  if img.multi then ((totalWait img).map (·.cycle)).getD (2 ^ 32) else img.acceptEnd

/-- The checks of R215 on one keystone entry, in the order of its table. -/
def keyRows (b : Bytes) (c : Ctx) (img : Image) (all : List (Nat × Nat × KeyIns)) (unit o prev : Nat) (k : KeyIns) : List (Option Nat) :=
  let x := leAt b o 16
  let t := tensorOf c k.tensor
  let clr := decide (k.kop = 4)
  let upd := decide (k.kop = 2 ∨ k.kop = 3)
  let blocks := fun (f : Tensor → Option Nat) => if clr then none else t.bind f
  [faults [
      need (decide (1 ≤ k.kop ∧ k.kop ≤ 4)) o, reservedOk x o [(31, 28), (127, 112)], need (decide (prev ≤ k.cycle)) (o + 4),
      if clr then faults [need (decide (k.tensor = 0)) (o + 2), need (decide (k.first ≤ 1)) (o + 8), need (decide (k.blocks = 1)) (o + 12)] else none],
    faults [need (match k.kop with | 4 => decide (k.desc = 0) | 2 => true | _ => decide (k.desc ≠ 0)) o,
      need (decide (k.desc = 0 ∨ k.desc < img.descs.length)) o],
    if clr then none else need (match t with | some t => !t.frozen && (decide (k.kop ≠ 3) || t.lists) | none => false) (o + 2),
    blocks fun t => faults [
      need (decide (k.first % 8 = unit ∧ k.first < t.shardBlocks)) (o + 8),
      need (decide (k.first + 8 * (k.blocks - 1) < t.shardBlocks)) (o + 12)],
    if !upd then none else blocks fun t =>
      let hits := (all.filter fun q => decide ((q.2.2.kop = 2 ∨ q.2.2.kop = 3) ∧ q.2.2.tensor = k.tensor)).flatMap fun q => q.2.2.covers
      need ((List.range t.shardBlocks).all fun j => decide (hits.count j = 1)) (o + 2),
    need (!(decide (k.kop = 2 ∧ k.desc ≠ 0) && normNeeded c)) o,
    need (!upd || !normNeeded c || decide (normReady img ≤ k.cycle)) (o + 4),
    (if k.kop = 2 ∧ k.desc = 0 then
      need ((List.range k.blocks).all fun i => all.any fun q => decide (q.2.2.kop = 1 ∧ q.2.2.tensor = k.tensor) &&
        (match q.2.2.covers.findIdx? (· == k.first + 8 * i) with
         | some m => decide (q.2.2.cycle + m + 8 ≤ k.cycle + i * ((t.map fun t => updateCycles c t true).getD 1))
         | none => false)) (o + 4) else none),
    need (decide (k.cycle + keyCost c img k ≤ img.length + img.finalSlack)) (o + 4)]

/-- Every keystone list; and one gradient stream per tensor (R182). -/
def keystonesFault (b : Bytes) (d : List Sect) (c : Ctx) (img : Image) : Option Nat :=
  let all := keyEntries b d
  ((listsIn b d 3).findSome? fun l => byRow 9 ((List.range l.n).map fun i =>
    let o := l.off + 16 * i
    keyRows b c img all l.unit o (if i = 0 then 0 else leAt b (o - 12) 4) (keyInsAt b o))).or
  ((List.range all.length).findSome? fun i => (all[i]?).bind fun q =>
    need (decide (q.2.2.kop = 4 ∨ q.2.2.desc = 0) || (all.take i).all fun p =>
      decide (p.2.2.tensor ≠ q.2.2.tensor ∨ p.2.2.desc = 0 ∨ p.2.2.kop = 4 ∨ p.2.2.desc = q.2.2.desc)) q.2.1)

/-! ### The fabric (R282, R283) -/

/-- Whether an entry sends; the others receive or act locally. -/
def FabIns.sends (k : FabIns) : Bool := k.fop ∈ [1, 3, 5]

/-- Whether the stream of a fabric entry reads or takes the working copy of a frozen tensor (R182, R184). -/
def FabIns.frozen (c : Ctx) (img : Image) (k : FabIns) : Bool :=
  decide (k.fop ≠ 7 ∧ !(k.fop = 3 ∧ k.desc = 0)) &&
    (match (bindOf img 2 k.desc).bind fun w => tensorOf c w.count with | some t => t.frozen | none => false)

/-- The checks of R283 on one fabric entry, in the order of its table, the participant list apart. -/
def fabRows (b : Bytes) (me : Nat) (c : Ctx) (img : Image) (all : List (Nat × Nat × FabIns)) (idx o prev : Nat) (k : FabIns) : List (Option Nat) :=
  let x := leAt b o 16
  let z := fun (p : Bool) (n off : Nat) => if p then none else need (decide (n = 0)) off
  let dir := fun (q : FabIns) => if q.sends then 1 else if q.fop ∈ [2, 4, 6] then 2 else 0
  [faults [
      reservedOk x o [(31, 31), (127, 101)], need (decide (1 ≤ k.fop ∧ k.fop ≤ 8)) o, need (decide (prev ≤ k.cycle)) (o + 4),
      z (k.fop ∈ [1, 2, 3, 5, 6]) k.node (o + 2), z (k.fop ∈ [3, 4]) k.srcIndex (o + 10), z (k.fop ∈ [4, 8]) k.span (o + 12),
      z (decide (k.fop ≠ 7)) k.desc o, need (decide (k.desc < img.descs.length) || decide (k.desc = 0 ∧ (k.fop = 7 ∨ k.fop = 3))) o],
    none,
    (if k.fop ∈ [1, 2, 5, 6] then need (img.parts.contains k.node && decide (k.node ≠ me)) (o + 2)
     else if k.fop = 3 then need (img.parts.contains k.node) (o + 2) else none),
    faults [
      if k.fop = 5 ∨ k.fop = 6 then need (c.group.contains k.node) (o + 2) else none,
      if k.fop = 6 then need (match img.descs[k.desc]? with | some e => decide (e.space = 1) | none => false) o else none],
    faults [
      need (!((all.take idx).any fun q => decide (dir q.2.2 ≠ 0 ∧ dir q.2.2 = dir k ∧ q.2.2.node = k.node ∧ q.2.2.flow = k.flow))) (o + 8),
      if k.fop = 3 ∧ k.node = me then need (all.any fun q => decide (q.2.2.fop = 4 ∧ q.2.2.flow = k.flow)) (o + 8) else none],
    (if k.fop = 4 ∨ k.fop = 8 then need ((img.claims.headD []).any fun w => decide (w.res = 5 ∧ w.unit = k.span) && w.detail.testBit 0) (o + 12) else none),
    (if k.fop = 8 then need (decide (img.thinRole = 1 ∨ img.thinRole = 2)) o
     else if k.fop = 3 ∧ k.desc = 0 then need (decide (img.thinRole = 2)) o else none),
    (if k.fop = 7 then need (!((all.take idx).any fun q => decide (q.2.2.fop = 7)) && normNeeded c &&
        img.keystones.any fun l => l.2.any fun e => decide (e.kop = 1)) o else none)]

/-- Whether a list rises strictly. -/
def risesStrictly : List Nat → Bool
  | a :: b :: t => decide (a < b) && risesStrictly (b :: t)
  | _ => true

/-- This node's id; 65,536, which no node has, without a node record. -/
def ownNode (s : State) : Nat := (s.slory.node.map (·.node)).getD 65536

/-- The first row of R283 on the prefix of the fabric section. -/
def fabPrefix (b : Bytes) (sc : Sect) (img : Image) : List (Option Nat) :=
  [faults [
    reservedOk (leAt b sc.off 4) sc.off [(31, 18)],
    (List.range 24).findSome? fun i => need (decide (leAt b (sc.off + 8 + i) 1 = 0)) (sc.off + 8 + i),
    need (decide (img.thinRole ≤ 2)) (sc.off + 2), need (decide (1 ≤ img.deadlineMs ∧ img.deadlineMs ≤ 60000)) (sc.off + 4)]]

/-- The second row of R283: the participant list. -/
def partsFault (b : Bytes) (sc : Sect) (s : State) (img : Image) (empty : Bool) : Option Nat :=
  let p := leAt b sc.off 2
  let pad := fabricListsOff b sc - (sc.off + 32 + 2 * p)
  faults [
    need (decide (1 ≤ p ∧ p ≤ 32768) && img.parts.all (fun n => decide (n < 32768)) && risesStrictly img.parts &&
      (List.range pad).all (fun i => decide (leAt b (sc.off + 32 + 2 * p + i) 1 = 0))) sc.off,
    if p = 1 then need empty sc.off else need (match s.slory.node with | some n => img.parts.contains n.node | none => false) sc.off]

/-- The fabric section: the rows of R283, and no frozen tensor (R182). -/
def fabricFault (b : Bytes) (d : List Sect) (s : State) (c : Ctx) (img : Image) : Option Nat :=
  match sect d 4 with
  | none => none
  | some sc =>
    let all := fabEntries b d
    let rows := (List.range all.length).map fun i =>
      match all[i]? with
      | none => []
      | some q =>
        let prev := match (if i = 0 then none else all[i - 1]?) with | some r => if r.1 = q.1 then r.2.2.cycle else 0 | none => 0
        fabRows b (ownNode s) c img all i q.2.1 prev q.2.2
    (byRow 8 ([none, partsFault b sc s img (decide (all = []))] :: fabPrefix b sc img :: rows)).or
      ((all.find? fun q => q.2.2.frozen c img).map (·.2.1))

/-! ### Routings (R104) -/

/-- The routing descriptor at an offset (R104): T × E′ scores in FP32 or BF16, T × H token activations, and a dispatch stream
that holds the T × k records and the 256 counters (R109, R112; the last is DEDUCED, log entry 89). -/
def routingFault (b : Bytes) (img : Image) (o : Nat) : Option Nat :=
  let x := leAt b o 16
  let r := routingAt b o
  faults [
    need (decide (r.topk ≤ r.experts)) (o + 3), need (decide (fld x 29 28 ≤ 1)) (o + 3), reservedOk x o [(31, 30)],
    need (decide (256 ≤ r.cf ∧ r.cf ≤ 2048)) (o + 4),
    need (if r.spill then decide (1 ≤ r.sf ∧ r.sf ≤ 2048) else decide (r.sf = 0)) (o + 6),
    need (match img.descs[r.score]? with
      | some e => decide (e.fmt = .fp32 ∨ e.fmt = .bf16) && holdsMatrix e r.tokens (8 * ceilDiv r.experts 8)
      | none => false) (o + 8),
    need (match img.descs[r.token]? with | some e => holdsMatrix e r.tokens (gridCols e) | none => false) (o + 10),
    need (match img.descs[r.dispatch]? with
      | some e => decide (16 * (r.tokens * r.topk) + 1024 ≤ e.tiles * e.nb * e.blockBytes)
      | none => false) (o + 12), reservedOk x o [(127, 112)]]

/-- Every routing descriptor. -/
def routingsFault (b : Bytes) (d : List Sect) (img : Image) : Option Nat :=
  match sect d 7 with
  | none => none
  | some s => (List.range s.count).findSome? fun i => routingFault b img (s.off + 16 * i)

/-! ### Function tables (R140) -/

/-- Whether FP32 bits are finite. -/
def fin32 (x : Nat) : Bool := decide (x / 2 ^ 23 % 256 ≠ 255)

/-- Whether FP32 bits are a multiple of 2^m. -/
def multipleOf (x : Nat) (m : Int) : Bool :=
  match dec32 x with
  | .fin _ k e => decide (k = 0) || (if m ≤ e then true else decide (k % 2 ^ (m - e).toNat = 0))
  | _ => false

/-- The table of entry `i`. -/
def tableFault (b : Bytes) (s : Sect) (i : Nat) : Option Nat :=
  let e := s.off + 16 * i
  let o := tableOff s i
  let x := leAt b o 64
  let t := tableAt b s i
  let lin := decide (fld x 1 0 = 0)
  faults [
    reservedOk (leAt b e 16) e [(31, 5), (127, 45)], need (decide (t.line + 97 ≤ 8192)) (e + 4),
    need (decide (fld x 1 0 ≤ 1)) o, need (decide (fld x 3 2 ≤ 2) && (!lin || decide (t.sym = 0))) o, need (decide (fld x 5 4 ≤ 1 ∧ fld x 7 6 ≤ 1)) o,
    reservedOk x o [(15, 9), (31, 24), (63, 48), (127, 104), (511, 288)],
    need (lin || decide (1 ≤ t.eLo ∧ t.eLo ≤ 223)) (o + 2), need (decide (t.pair = 65535 ∨ t.pair < s.count)) (o + 4),
    need (!lin || (decide (-126 ≤ t.m ∧ t.m ≤ 117))) (o + 12), need (!lin || (fin32 t.lo && multipleOf t.lo t.m)) (o + 8),
    need (fin32 t.lowValue) (o + 16), need (fin32 t.highValue) (o + 20), need (fin32 t.zeroValue) (o + 24), need (fin32 t.infPos) (o + 28),
    need (fin32 t.infNeg) (o + 32),
    (List.range 3072).findSome? fun k => need (fin32 (leAt b (o + 64 + 4 * k) 4)) (o + 64 + 4 * k)]

/-- Every table. -/
def tablesFault (b : Bytes) (d : List Sect) : Option Nat :=
  match sect d 8 with
  | none => none
  | some s => (List.range s.count).findSome? (tableFault b s)

/-! ### Timing (R149, R160, R161) -/

/-- Whether a stream holds the windows of a routing as its gather station writes them: it has no storage, no list of the image
writes it, and it has their shape (DEDUCED, log entry 41). -/
def windowStream (img : Image) (us : List Use) (r : Routing) (i : Nat) : Bool :=
  match img.descs[i]? with
  | some e => decide (e.space = 2) && !(us.any fun u => u.write && decide (u.desc = i)) &&
      (holdsMatrix e r.rows (r.width img) || holdsMatrix e (r.experts * windowRows r r.cf) (r.width img))
  | none => false

/-- The instructions of a capacity window (R160): those that read the windows of its routing, from its CYCLE, or for the first
window from any cycle, up to the next window of the routing. -/
def windowUses (img : Image) (us : List Use) (r : Routing) (t : Timing) : List Use :=
  let peers := (img.timing.filter fun w => decide (w.kind = 2 ∧ w.id = t.id)).map (·.cycle)
  us.filter fun u => !u.write && windowStream img us r u.desc &&
    (decide (t.cycle ≤ u.cycle) || peers.all fun c => decide (t.cycle ≤ c)) && peers.all fun c => decide (c ≤ t.cycle ∨ u.cycle < c)

/-- Whether a WAIT may name a stream (R161): one of the fabric, one that a host window may hold (R365 binds its BASE anew), or any
where the image waits for the leader's total, which is no stream (R215; DEDUCED, log entry 41). -/
def waitSource (img : Image) (i : Nat) : Bool :=
  (match img.descs[i]? with | some e => decide (e.space = 0) | none => false) ||
    img.fabrics.any fun f => f.2.any fun e => decide (e.fop = 7 ∨ (e.desc = i ∧ (e.fop = 2 ∨ e.fop = 4 ∨ e.fop = 6)))

/-- The timing entry at an offset, after one of cycle `prev`. -/
def timeFault (b : Bytes) (img : Image) (us : List Use) (o prev : Nat) (t : Timing) : Option Nat :=
  let x := leAt b o 16
  faults [
    need (decide (1 ≤ t.kind ∧ t.kind ≤ 5)) o, reservedOk x o [(31, 16)], need (decide (prev ≤ t.cycle)) (o + 4),
    match t.kind with
    | 1 => need (decide (t.arg2 = 0)) (o + 12)
    | 2 => (match img.routings[t.id]? with
        | none => some o
        | some r => faults [
            need (decide (t.arg2 = windowRows r r.cf ∨ (r.spill ∧ t.arg2 = windowRows r r.sf))) (o + 12),
            need ((windowUses img us r t).all fun u => decide (t.cycle ≤ u.cycle)) (o + 4),
            need ((windowUses img us r t).all fun u => decide (u.cycle < t.cycle + t.arg1)) (o + 8)])
    | 3 => faults [
        need (decide (t.arg1 < img.descs.length) && waitSource img t.arg1) (o + 8),
        need (decide (t.arg2 ≤ 8) && decide ((segsOf img t.id).map (·.arg2) = List.range t.arg2)) (o + 12),
        (segsOf img t.id).findSome? fun g => img.timing.findSome? fun p =>
          need (!decide (p.kind = 1 ∧ t.cycle ≤ p.cycle ∧ p.cycle ≤ g.cycle) || decide (total ((segsOf img t.id).map (·.arg1)) ≤ p.arg1)) (o + 12)]
    | 4 => need (img.timing.any fun w => decide (w.kind = 3 ∧ w.id = t.id)) o
    | _ => need (decide (1 ≤ t.arg2 ∧ t.arg2 < img.claims.length)) (o + 12)]

/-- Every timing entry. -/
def timingFault (b : Bytes) (d : List Sect) (img : Image) (us : List Use) : Option Nat :=
  match sect d 10 with
  | none => none
  | some s => (List.range s.count).findSome? fun i =>
      let o := s.off + 16 * i
      timeFault b img us o (if i = 0 then 0 else leAt b (o - 12) 4) (timingAt b o)

/-! ### Claim lists (R155, R467) -/

/-- Every claim list. -/
def claimListsFault (b : Bytes) (d : List Sect) (frames : Nat) : Option Nat :=
  (claimListsIn b d).findSome? fun l =>
    (faults [need (decide (leAt b (l.pre + 4) 12 = 0)) (l.pre + 4)]).or (claimsFault true frames b l.off l.n [])

end Sys2Proof.Machine
end

