-- ==== Sys2Proof/Machine/PierCheck.lean ====
section
/-! DEFINITION. The checks of SCHED_LOAD on pier lists: R59 row by row for each instruction, the stream
positions of R133, the resident lines of R185 and R200, the chain limit of R47, and the chains that follow a
weight map (R94). -/

namespace Sys2Proof.Machine

/-- A pier instruction with its offset and, for a stream movement, the position it starts from (R133). -/
structure PIns where
  ins : PierIns
  off : Nat
  first : Nat
  deriving DecidableEq, Repr

/-- The descriptor and the direction of a stream movement: outward is true. -/
def PierOp.move : PierOp → Option (Nat × Bool)
  | .tileIn d _ => some (d, false)
  | .blocksIn d _ _ => some (d, false)
  | .tileOut d _ => some (d, true)
  | .blocksOut d _ _ => some (d, true)
  | _ => none

/-- Blocks a stream movement moves. -/
def PierOp.moved (img : Image) : PierOp → Nat
  | .tileIn d _ => tileBlocksOf img d
  | .tileOut d _ => tileBlocksOf img d
  | .blocksIn _ _ n => n
  | .blocksOut _ _ n => n
  | _ => 0

/-- The list with every stream position. -/
def withPositions (img : Image) : List (PierIns × Nat) → KMap Nat → List PIns
  | [], _ => []
  | (i, o) :: t, pos =>
    match i.op.move with
    | none => ⟨i, o, 0⟩ :: withPositions img t pos
    | some (d, out) =>
      let k := 2 * d + b2n out
      ⟨i, o, kget 0 pos k⟩ :: withPositions img t (kput pos k (kget 0 pos k + i.op.moved img))

/-- The annotated list at a list position. -/
def pierList (b : Bytes) (img : Image) (l : ListAt) : List PIns :=
  withPositions img ((List.range l.n).map fun i => (pierInsAt b (l.off + 16 * i), l.off + 16 * i)) []

/-! ### What an instruction reads and writes -/

/-- Lines of one block run of a format. -/
def blockRun (f : Fmt) (a : Nat) : List Nat := (List.range (blockLines f)).map (a + ·)

/-- Whether an operation moves a whole tile (R133). -/
def PierOp.wholeTile : PierOp → Bool
  | .tileIn _ _ | .tileOut _ _ => true
  | _ => false

/-- Lines of a stream movement with the stream's format. -/
def moveLines (img : Image) (q : PIns) (d addr : Nat) : List (Nat × Fmt) :=
  match img.descs[d]? with
  | none => []
  | some e =>
    let at_ := moveBase img e q.ins.op.wholeTile addr
    (List.range (q.ins.op.moved img)).flatMap fun j => (blockRun e.fmt (at_ + moveLine img e q.first j)).map fun l => (l, e.fmt)

/-- Tile-store lines an instruction reads, with the format it reads them in. -/
def PIns.linesRead (img : Image) (q : PIns) : List (Nat × Fmt) :=
  match q.ins.op with
  | .fill _ f _ a => (blockRun f a).map fun l => (l, f)
  | .bankWrite _ a => (List.range (maskArrays q.ins.mask).length).flatMap fun r => (blockRun .fp32 (a + 4 * r)).map fun l => (l, .fp32)
  | .tileOut d a => moveLines img q d a
  | .blocksOut d a _ => moveLines img q d a
  | _ => []

/-- Tile-store lines an instruction writes, with their format and the cycles in which each is written (R70, R133). -/
def PIns.linesWritten (img : Image) (q : PIns) : List (Nat × Fmt × Nat × Nat) :=
  let c := q.ins.cycle
  match q.ins.op with
  | .drain _ false f _ a =>
    let n := blockLines f
    (List.range (maskArrays q.ins.mask).length).flatMap fun r =>
      (List.range n).map fun l => (a + n * r + l, f, c + 4 + 8 / n * l, c + 3 + 8 / n * (l + 1))
  | .tileIn d a => (moveLines img q d a).map fun l => (l.1, l.2, c, c)
  | .blocksIn d a _ => (moveLines img q d a).map fun l => (l.1, l.2, c, c)
  | _ => []

/-- The pairs of null lines that the image declares: a RESIDENT entry of two lines that SCHED_LOAD fills with +0 and of whose
shadow the pier's list writes no line, so that the lines stay +0 (R95; DEDUCED, log entry 88). -/
def nullPairs (img : Image) : List (Nat × Nat) :=
  img.binds.filterMap fun w =>
    if decide (w.kind = 5 ∧ w.count = 2) && !w.filled &&
        ((withPositions img ((kget [] img.piers w.aux).map fun i => (i, 0)) []).all fun q =>
          (q.linesWritten img).all fun l => decide (l.1 < w.cycle ∨ w.cycle + 2 ≤ l.1)) then
      some (w.aux, w.stream)
    else none

/-- The image with its null lines. -/
def withNulls (img : Image) : Image := { img with nulls := nullPairs img }

/-- A pier has at most one pair of null lines (R95): the offset of the entry that declares a second one. -/
def nullsFault (d : List Sect) (img : Image) : Option Nat :=
  (List.range img.binds.length).findSome? fun i =>
    (img.binds[i]?).bind fun w =>
      need (decide (w.kind ≠ 5) || !img.nulls.contains (w.aux, w.stream) || !(img.binds.take i).any fun v => decide (v.kind = 5 ∧ v.aux = w.aux) && img.nulls.contains (v.aux, v.stream)) (bindOff d i)

/-- The feeder slot an instruction writes: side, format, slot, and the cycles of the write (R70, R151). -/
def PIns.slotWritten (q : PIns) : Option (Bool × Fmt × Nat × Nat × Nat) :=
  match q.ins.op with
  | .fill sd f sl _ => some (sd, f, sl, q.ins.cycle + 3, q.ins.cycle + 3)
  | .drain _ true f sd sl => some (sd, f, sl, q.ins.cycle + 4, q.ins.cycle + 11)
  | _ => none

/-- The bank an instruction writes, and the cycles of the write (R65, R68). -/
def PIns.bankWritten (q : PIns) : Option (Nat × Nat × Nat) :=
  match q.ins.op with
  | .mma bk _ _ _ _ _ _ _ kb => some (bk, q.ins.cycle + 5, q.ins.cycle + 8 * kb + 4)
  | .bankWrite bk _ => some (bk, q.ins.cycle + 1, q.ins.cycle + 8)
  | _ => none

/-- The bank an instruction reads as its own operand: an accumulating MMA or a DRAIN. -/
def PIns.bankRead (q : PIns) : Option Nat :=
  match q.ins.op with
  | .mma bk true _ _ _ _ _ _ _ => some bk
  | .drain bk _ _ _ _ => some bk
  | _ => none

/-- The 64-byte units that a slot covers (R60). -/
def slotUnits (f : Fmt) (slot : Nat) : List Nat := if f.size = 2 then [2 * slot, 2 * slot + 1] else [slot]

/-- The last write of a slot unit of an array before a cycle; `pre` holds the lower instructions, latest first. -/
def slotWriter (pre : List PIns) (c arr : Nat) (sd : Bool) (unit : Nat) : Option PIns :=
  pre.find? fun q => decide (q.ins.cycle < c) && q.ins.mask.getLsbD arr &&
    (match q.slotWritten with | some (sd', f, sl, _, _) => decide (sd' = sd) && (slotUnits f sl).contains unit | none => false)

/-- Whether a slot reads whole, at its format, from one earlier write. -/
def slotReady (pre : List PIns) (c arr : Nat) (sd : Bool) (f : Fmt) (slot : Nat) : Bool :=
  (slotUnits f slot).all fun u =>
    match slotWriter pre c arr sd u with
    | some q => (match q.slotWritten with | some (_, g, sl, _, _) => decide (g = f ∧ sl = slot) | none => false)
    | none => false

/-- Whether the last write of a slot is a FILL from the null lines of the pier (R95). -/
def slotNull (img : Image) (p : Nat) (pre : List PIns) (c arr : Nat) (sd : Bool) (f : Fmt) (slot : Nat) : Bool :=
  match slotWriter pre c arr sd ((slotUnits f slot).headD 0) with
  | some q => (match q.ins.op with | .fill _ g _ a => (blockRun g a).all (nullLine img p) | _ => false)
  | none => false

/-- Whether k-block `k` of an MMA is a pad k-block on an array (R94, R95). -/
def padBlock (img : Image) (p : Nat) (pre : List PIns) (q : PIns) (arr k : Nat) : Bool :=
  match q.ins.op with
  | .mma _ _ fa fb _ _ sa sb _ => slotNull img p pre q.ins.cycle arr false fa (sa + k) || slotNull img p pre q.ins.cycle arr true fb (sb + k)
  | _ => false

/-- Whether a line lies in the live range of a pier. -/
def isLive (img : Image) (p l : Nat) : Bool := img.binds.any fun w => decide (w.kind = 5 ∧ w.aux = p ∧ w.stream ≤ l ∧ l < w.stream + w.count)

/-- Whether a line lies in a shadow range of a pier. -/
def isShadow (img : Image) (p l : Nat) : Bool := img.binds.any fun w => decide (w.kind = 5 ∧ w.aux = p ∧ w.cycle ≤ l ∧ l < w.cycle + w.count)

/-- Whether a scratch line has been written, in the format in which it is read, before a cycle. -/
def lineReady (img : Image) (pre : List PIns) (c l : Nat) (f : Fmt) : Bool :=
  match pre.find? fun q => decide (q.ins.cycle < c) && (q.linesWritten img).any fun w => decide (w.1 = l) with
  | some q => (q.linesWritten img).any fun w => decide (w.1 = l ∧ w.2.1 = f)
  | none => false

/-- Whether two inclusive cycle ranges meet. -/
def meets (a b : Nat × Nat) : Bool := decide (a.1 ≤ b.2 ∧ b.1 ≤ a.2)

/-- Whether two instructions of a pier write a line, bank or slot in one cycle. -/
def writesClash (img : Image) (q r : PIns) : Bool :=
  let both := decide (q.ins.mask &&& r.ins.mask ≠ 0)
  (match q.bankWritten, r.bankWritten with
    | some a, some b => both && decide (a.1 = b.1) && meets a.2 b.2
    | _, _ => false) ||
  (match q.slotWritten, r.slotWritten with
    | some (s1, f1, n1, t1), some (s2, f2, n2, t2) => both && decide (s1 = s2) && (slotUnits f1 n1).any (slotUnits f2 n2).contains && meets t1 t2
    | _, _ => false) ||
  ((q.linesWritten img).any fun a => (r.linesWritten img).any fun b => decide (a.1 = b.1) && meets a.2.2 b.2.2)

/-! ### R59, row by row -/

/-- Reserved fields and illegal values of an instruction (R56, R57, R133). -/
def pierReserved (x o : Nat) : Option Nat :=
  match x % 16 with
  | 1 => reservedOk x o [(7, 7), (15, 14), (31, 29)]
  | 2 => reservedOk x o [(5, 5), (15, 13), (31, 28)]
  | 3 =>
    if bit x 6 then faults [reservedOk x o [(7, 7)], need (decide (fld x 10 8 ≤ 3)) (o + 1), reservedOk x o [(15, 12), (27, 21), (31, 28)]]
    else faults [reservedOk x o [(7, 7)], need (decide (fld x 10 8 ≤ 4)) (o + 1), need (!bit x 11) (o + 1), reservedOk x o [(15, 12), (31, 28)]]
  | 4 => reservedOk x o [(15, 6), (31, 28)]
  | 5 => reservedOk x o [(31, 5)]
  | 8 | 9 => reservedOk x o [(31, 28)]
  | _ => none

/-- The highest slot of a format (R59). -/
def slotTop (f : Fmt) : Nat := if f.size = 2 then 15 else 31

/-- Whether two formats obey the same-format rule (R30). -/
def sameFormat (a b : Fmt) : Bool := if a.size = 2 ∨ b.size = 2 then decide (a = b) else true

/-- Stream positions (R133): within the stream, and tile movements on tile boundaries. -/
def positionOk (img : Image) (q : PIns) : Bool :=
  match q.ins.op.move with
  | none => true
  | some (d, _) =>
    match img.descs[d]? with
    | none => false
    | some e =>
      let n := presentCount img e
      decide (q.first + q.ins.op.moved img ≤ streamLen img e) &&
        (match q.ins.op with
        | .tileIn _ _ => decide (q.first % max 1 n = 0 ∧ 0 < n)
        | .tileOut _ _ => decide (q.first % max 1 n = 0 ∧ 0 < n)
        | _ => true)

/-- The k-step rows: overlap, dependent use and overwrites before a drain, for an MMA. -/
def mmaTiming (pre : List PIns) (q : PIns) (bk : Nat) (acc : Bool) (fa fb : Fmt) (sa sb kb : Nat) : Option Nat :=
  let c := q.ins.cycle
  let o := q.off
  let shares := fun (r : PIns) => decide (r.ins.mask &&& q.ins.mask ≠ 0)
  let arrs := maskArrays q.ins.mask
  faults [
    need (pre.all fun r => match r.ins.op with | .mma _ _ _ _ _ _ _ _ k => !shares r || decide (r.ins.cycle + 8 * k ≤ c) | _ => true) (o + 4),
    need (arrs.all fun a => (List.range kb).all fun k => slotReady pre c a false fa (sa + k)) (o + 2),
    need (arrs.all fun a => (List.range kb).all fun k => slotReady pre c a true fb (sb + k)) (o + 2),
    (if acc then faults [
      need (arrs.all fun a => pre.any fun r => decide (r.ins.cycle < c) && r.ins.mask.getLsbD a && (match r.bankWritten with | some w => decide (w.1 = bk) | none => false)) o,
      need (arrs.all fun a => pre.any fun r => decide (r.ins.cycle < c) && r.ins.mask.getLsbD a &&
        (match r.ins.op with | .mma b2 false _ _ _ _ _ _ _ => decide (b2 = bk) | .bankWrite b2 _ => decide (b2 = bk) | _ => false)) o,
      need (pre.all fun r => match r.ins.op with | .bankWrite b2 _ => !shares r || decide (b2 ≠ bk ∨ r.ins.cycle + 4 ≤ c) | _ => true) (o + 4)] else none),
    need (arrs.all fun a => [(false, fa, sa), (true, fb, sb)].all fun sd => (List.range kb).all fun k =>
      match slotWriter pre c a sd.1 ((slotUnits sd.2.1 (sd.2.2 + k)).headD 0) with
      | some r => (match r.ins.op with
          | .drain b2 true _ _ _ =>
            (match pre.find? fun m => decide (m.ins.cycle < r.ins.cycle) && m.ins.mask.getLsbD a && (match m.bankWritten with | some w => decide (w.1 = b2) | none => false) with
            | some m => (match m.ins.op with | .mma _ _ _ _ _ _ _ _ k3 => decide (m.ins.cycle + 8 * k3 + 17 ≤ c) | _ => true)
            | none => true)
          | _ => true)
      | none => true) (o + 4),
    need (pre.all fun r => match r.ins.op with | .drain b2 _ _ _ _ => !shares r || decide (b2 ≠ bk ∨ r.ins.cycle + 2 ≤ c) | _ => true) (o + 4)]

/-- The products a chain has counted, per array and bank, after an instruction; and whether one exceeds 65,536
(R47, R96). -/
def chainCounts (img : Image) (p : Nat) (pre : List PIns) (q : PIns) (cnt : KMap Nat) : KMap Nat × Bool :=
  match q.ins.op with
  | .mma bk acc _ _ _ _ _ _ kb =>
    (maskArrays q.ins.mask).foldl (fun r a =>
      let n := 8 * ((List.range kb).filter fun k => !padBlock img p pre q a k).length
      let t := (if acc then kget 0 r.1 (4 * a + bk) else 0) + n
      (kput r.1 (4 * a + bk) t, r.2 || decide (65536 < t))) (cnt, false)
  | .bankWrite bk _ => ((maskArrays q.ins.mask).foldl (fun m a => kput m (4 * a + bk) 0) cnt, false)
  | _ => (cnt, false)

/-- One instruction against every row of R59; `pre` holds the lower instructions, latest first. -/
def pierFault (b : Bytes) (img : Image) (p prev : Nat) (pre : List PIns) (q : PIns) (past : Bool) : Option Nat :=
  let o := q.off
  let x := leAt b o 4
  let c := q.ins.cycle
  let rd := q.linesRead img
  let wr := q.linesWritten img
  faults [
    need (x % 16 ∈ [1, 2, 3, 4, 5, 8, 9, 10, 11]) o,
    need (if q.ins.op.move.isSome then decide (q.ins.mask = 1) else decide (q.ins.mask ≠ 0)) (o + 8),
    need (decide (prev ≤ c)) (o + 4), pierReserved x o,
    (match q.ins.op with | .mma _ _ fa fb _ _ _ _ _ => need (sameFormat fa fb) (o + 1) | _ => none),
    (match q.ins.op with
    | .mma _ _ fa fb _ _ sa sb kb => faults [need (decide (sa + kb ≤ slotTop fa + 1)) (o + 2), need (decide (sb + kb ≤ slotTop fb + 1)) (o + 2)]
    | .fill _ f sl _ => need (decide (sl ≤ slotTop f)) (o + 1)
    | .drain _ true f _ sl => need (decide (sl ≤ slotTop f)) (o + 2)
    | _ => none),
    need (positionOk img q) o,
    need ((rd.all fun l => decide (l.1 ≤ 4095)) && wr.all fun l => decide (l.1 ≤ 4095)) (o + 2),
    (match q.ins.op with
    | .mma bk acc fa fb _ _ sa sb kb => mmaTiming pre q bk acc fa fb sa sb kb
    | _ => none),
    (match q.ins.op with
    | .drain bk _ _ _ _ => faults [
        need ((maskArrays q.ins.mask).all fun a => pre.any fun r => decide (r.ins.cycle < c) && r.ins.mask.getLsbD a && (match r.bankWritten with | some w => decide (w.1 = bk) | none => false)) o,
        need (pre.all fun r => match r.ins.op with
          | .mma b2 _ _ _ _ _ _ _ kb => decide (r.ins.mask &&& q.ins.mask = 0) || decide (b2 ≠ bk ∨ r.ins.cycle + 8 * kb + 5 ≤ c)
          | _ => true) (o + 4)]
    | _ => none),
    need (rd.all fun l => isLive img p l.1 || isShadow img p l.1 || lineReady img pre c l.1 l.2) (o + 2),
    need (pre.all fun r => !writesClash img r q) (o + 4), need (!past) (o + 4)]

/-- A whole list. -/
def pierListGo (b : Bytes) (img : Image) (p : Nat) : List PIns → List PIns → KMap Nat → Option Nat
  | [], _, _ => none
  | q :: t, pre, cnt =>
    let r := chainCounts img p pre q cnt
    match pierFault b img p ((pre.head?).map (·.ins.cycle) |>.getD 0) pre q r.2 with
    | some o => some o
    | none => pierListGo b img p t (q :: pre) r.1

/-- The last row but one of R185 on a pier's list: no instruction reads a shadow line or writes a live line, and either every line
of a shadow range is written or none. -/
def shadowFault (img : Image) (p : Nat) (l : List PIns) : Option Nat :=
  (l.findSome? fun q => need (((q.linesRead img).all fun x => !isShadow img p x.1) && (q.linesWritten img).all fun x => !isLive img p x.1) (q.off + 2)).or <|
  img.binds.findSome? fun w =>
    if w.kind = 5 ∧ w.aux = p then
      let hits := fun (q : PIns) => (q.linesWritten img).any fun x => decide (w.cycle ≤ x.1 ∧ x.1 < w.cycle + w.count)
      match l.find? hits with
      | none => none
      | some q => need ((List.range w.count).all fun i => l.any fun r => (r.linesWritten img).any fun x => decide (x.1 = w.cycle + i)) (q.off + 2)
    else none

/-! ### Chains that follow a weight map (R94) -/

/-- The k-blocks of the chain that begins at index `first` of a list on an array and bank: for each, the offset
of its MMA and whether it is a pad. `pre` holds the lower instructions, latest first. -/
def chainBlocks (img : Image) (p arr bk : Nat) : List PIns → List PIns → Bool → List (Nat × Bool)
  | [], _, _ => []
  | q :: t, pre, begun =>
    if q.ins.mask.getLsbD arr then
      match q.ins.op with
      | .mma b2 acc _ _ _ _ _ _ kb =>
        if b2 = bk then
          (if begun && !acc then []
           else ((List.range kb).map fun k => (q.off, padBlock img p pre q arr k)) ++ chainBlocks img p arr bk t (q :: pre) true)
        else chainBlocks img p arr bk t (q :: pre) begun
      | .bankWrite b2 _ => if b2 = bk then [] else chainBlocks img p arr bk t (q :: pre) begun
      | _ => chainBlocks img p arr bk t (q :: pre) begun
    else chainBlocks img p arr bk t (q :: pre) begun

/-- What a map line requires of a chain, in order: true for a pad k-block, false for a present block. -/
def chainNeeds (m : BlockMap) (byRow : Bool) (line : Nat) : List Bool :=
  let n := if byRow then m.colsB else m.rowsB
  let bitAt := fun u => m.bits.testBit (if byRow then line * m.colsB + u else u * m.colsB + line)
  (List.range (ceilDiv n 8)).flatMap fun g =>
    let here := (List.range (min 8 (n - 8 * g))).filter fun k => bitAt (8 * g + k)
    if here = [] then [true] else here.map fun _ => false

/-- Compares a chain with what its map line requires, and answers each failed check of R94 with the offset it names: 1 the
blocks in order, 2 a missing pad, 3 a k-block in a pad's place that is not filled from null lines, 4 a surplus. Where a
block stands in a pad's place and more blocks follow than the line has, it counts as the pad's k-block with a wrong slot. `last`
is the offset of the MMA before. -/
def chainGo : Nat → List Bool → List (Nat × Bool) → Nat → List (Nat × Nat)
  | 0, _, _, _ => []
  | _, [], bs, _ => bs.map fun q => (4, q.1 + 4)
  | n + 1, w :: t, [], last => (if w then 2 else 1, last + 4) :: chainGo n t [] last
  | n + 1, w :: t, (o, isPad) :: r, _ =>
    let due := ((w :: t).filter (!·)).length
    let left := (((o, isPad) :: r).filter (!·.2)).length
    if w = isPad then chainGo n t r o
    else if w then
      (if due < left then (3, o + 2) :: chainGo n t r o else (2, o + 4) :: chainGo n t ((o, isPad) :: r) o)
    else if due ≤ left then (4, o + 4) :: chainGo n (w :: t) r o
    else (1, o + 4) :: chainGo n t r o

/-- The first check of R94 that a chain fails: the offset named by its first failure. -/
def chainCheck (want : List Bool) (have_ : List (Nat × Bool)) (last : Nat) : Option Nat :=
  let fs := chainGo (want.length + have_.length) want have_ last
  [1, 2, 3, 4].findSome? fun k => (fs.find? fun f => decide (f.1 = k)).map (·.2)

/-- One chain binding. -/
def chainFault (b : Bytes) (d : List Sect) (img : Image) (o : Nat) (k : ChainBind) : Option Nat :=
  let x := leAt b o 16
  match (listsIn b d 1).find? fun l => decide (l.unit = k.pier) with
  | none => some o
  | some l =>
    let ps := pierList b img l
    faults [
      reservedOk x o [(31, 19), (127, 96)],
      need (match img.maps[k.map]? with | some m => !m.mask | none => false) (o + 4),
      need (match img.maps[k.map]? with | some m => decide (k.line < (if k.byRow then m.rowsB else m.colsB)) | none => false) (o + 6),
      need (match ps[k.first]? with
        | some q => q.ins.mask.getLsbD k.array && (match q.ins.op with | .mma bk _ _ _ _ _ _ _ _ => decide (bk = k.bank) | _ => false)
        | none => false) (o + 8),
      (img.maps[k.map]?).bind fun m =>
        let want := chainNeeds m k.byRow k.line
        let have_ := chainBlocks img k.pier k.array k.bank (ps.drop k.first) (ps.take k.first).reverse false
        chainCheck want have_ (l.off + 16 * k.first)]

/-- The shadow and live lines of every pier list (R185). -/
def shadowsFault (b : Bytes) (d : List Sect) (img : Image) : Option Nat :=
  (listsIn b d 1).findSome? fun l => shadowFault img l.unit (pierList b img l)

/-- Every pier list and the chain bindings. -/
def piersFault (b : Bytes) (d : List Sect) (img : Image) : Option Nat :=
  ((listsIn b d 1).findSome? fun l =>
    pierListGo b img l.unit (pierList b img l) [] []).or
  (match sect d 6 with
  | none => none
  | some s => (List.range img.chains.length).findSome? fun i => (img.chains[i]?).bind (chainFault b d img (chainOff s i)))

end Sys2Proof.Machine
end

