-- ==== Sys2Proof/Machine/Coverage.lean ====
section
/-! DEFINITION. What an image uses (R156): arrays, banks, lines, stations, deck links by the routes of R128 and
R129, bearings (R233), staging (R468), and whether claim list 0 covers it; and the independence of fill segments
(R161). The image does not fix where a prefetch ring lies: its stream counts on every bearing (log entry 20). -/

namespace Sys2Proof.Machine

/-! ### Deck routes (R128, R129) -/

/-- Where a transfer ends. -/
inductive DeckEnd where
  | router (sp : Nat)
  | bearing (b : Nat)
  | landing
  deriving DecidableEq, Repr

/-- Span index of the router at column x, row y of a die. -/
def routerAt (die x y : Nat) : Nat := 16 * die + 4 * y + x

/-- Links along a row: DECK units 4 × router + direction. -/
def rowLinks (die y x1 x2 : Nat) : List Nat :=
  if x1 ≤ x2 then (List.range (x2 - x1)).map fun k => 4 * routerAt die (x1 + k) y
  else (List.range (x1 - x2)).map fun k => 4 * routerAt die (x1 - k) y + 2

/-- Links along a column. -/
def colLinks (die x y1 y2 : Nat) : List Nat :=
  if y1 ≤ y2 then (List.range (y2 - y1)).map fun k => 4 * routerAt die x (y1 + k) + 1
  else (List.range (y1 - y2)).map fun k => 4 * routerAt die x (y1 - k) + 3

/-- Links from one router to another: the row, the column, and the source row's viaduct between dies. -/
def routeLinks (a b : Nat) : List Nat :=
  let da := a / 16
  let db := b / 16
  let xa := a % 4
  let ya := a % 16 / 4
  let xb := b % 4
  let yb := b % 16 / 4
  if da = db then rowLinks da ya xa xb ++ colLinks da xb ya yb
  else
    let out := if da = 0 then 3 else 0
    let back := if da = 0 then 0 else 3
    rowLinks da ya xa out ++ [128 + ya] ++ rowLinks db ya back xb ++ colLinks db xb ya yb

/-- The routers an end attaches to, by ascending column; the landing on the die of the other end. -/
def attach (die : Nat) : DeckEnd → List Nat
  | .router sp => [sp]
  | .bearing b =>
    let j := b % 4
    let y := if j < 2 then 0 else 3
    [routerAt (b / 4) (2 * (j % 2)) y, routerAt (b / 4) (2 * (j % 2) + 1) y]
  | .landing => [routerAt die 0 0]

/-- The die of an end; the landing is on die A. -/
def DeckEnd.die : DeckEnd → Nat
  | .router sp => sp / 16
  | .bearing b => b / 4
  | .landing => 0

/-- The links of a transfer: the shortest of the routes its attachments allow. -/
def transferLinks (a b : DeckEnd) : List Nat :=
  let cross := match a, b with
    | .landing, e => if e.die = 1 then [132] else []
    | e, .landing => if e.die = 1 then [132] else []
    | _, _ => []
  let rs := (attach b.die a).flatMap fun p => (attach a.die b).map fun q => routeLinks p q
  cross ++ (match rs with
    | [] => []
    | r :: t => t.foldl (fun m r => if r.length < m.length then r else m) r)

/-- The deck end of a use's unit: piers, stations and fabric additions at their span, keystones at their bearing, abutments at
routers (0, j) of die A and (3, j) of die B. -/
def Use.deckEnd (u : Use) : DeckEnd :=
  match u.kind with
  | 0 => .router (u.unit / 32)
  | 4 => .bearing u.unit
  | 5 => .router (routerAt (u.unit / 4) (if u.unit < 4 then 0 else 3) (u.unit % 4))
  | _ => .router u.unit

/-- Stacks that a stream's present blocks touch (R232, R233). -/
def streamStacks (img : Image) (e : Desc) : List Nat :=
  ((streamRuns img e).flatMap fun r => (List.range (ceilDiv (r.1 % 128 + r.2) 128)).map fun k => paStack (r.1 + 128 * k)).eraseDups

/-- Where a stream is stored. A prefetch ring lies in hidden frames over all stacks (R189; DEDUCED, log entry 20). -/
def streamEnds (img : Image) (i : Nat) (e : Desc) : List DeckEnd :=
  match e.space with
  | 0 =>
    if (bindOf img 2 i).isSome ∨ e.base < windowBase then (streamStacks img e).map .bearing
    else if (bindOf img 3 i).isSome then (List.range 8).map .bearing
    else [.landing]
  | 1 => [.router e.span]
  | _ => []

/-- Whether the image fixes where a use's unit lies: a resident range is filled at load, and a gather station only where claim
list 0 names one alone (log entry 16). -/
def Use.placed (u : Use) : Bool := decide (u.kind ≠ 6 ∧ ¬(u.kind = 3 ∧ u.unit = 32))

/-- Links that the uses of a stream need: to and from its storage, or from its producer for a stream of the
deck alone. -/
def useLinks (img : Image) (us : List Use) (u : Use) : List Nat :=
  match img.descs[u.desc]? with
  | none => []
  | some e =>
    if !u.placed then []
    else if e.space = 2 then
      (if u.write then [] else (us.filter fun w => w.write && decide (w.desc = u.desc) && w.placed).flatMap fun w => transferLinks w.deckEnd u.deckEnd)
    else (streamEnds img u.desc e).flatMap fun z => if u.write then transferLinks u.deckEnd z else transferLinks z u.deckEnd

/-- Links that no use of a stream shows: from an abutment to the station that adds its contributions (R284), and from the
landing to the prefetch rings (R189), each with the offset that needs it. -/
def extraLinks (b : Bytes) (d : List Sect) (img : Image) : List (Nat × List Nat) :=
  ((fabEntries b d).filterMap fun q =>
    if q.2.2.fop = 4 then some (q.2.1, transferLinks (wholeUse 0 false 0 0 5 q.1).deckEnd (.router q.2.2.span)) else none) ++
  ((List.range img.binds.length).filterMap fun i => (img.binds[i]?).bind fun w =>
    if w.kind = 3 then some (bindOff d i, (List.range 8).flatMap fun n => transferLinks .landing (.bearing n)) else none)

/-! ### Staging (R468) -/

/-- Delta words per block of a rule, at most: 512 B for one moment, 768 B for two (R216). -/
def deltaBytes (c : Ctx) (t : Tensor) : Nat := if ruleOf c t = 1 then 768 else 512

/-- Staging bytes, item by item with the offset of what takes them. -/
def stagingItems (b : Bytes) (d : List Sect) (c : Ctx) (img : Image) (us : List Use) : List (Nat × Nat) :=
  let ks := keyEntries b d
  ((ks.filter fun q => decide (q.2.2.kop = 1)).map fun q => (q.2.1, 256 * q.2.2.blocks)) ++
    ((List.range img.binds.length).filterMap fun i => (img.binds[i]?).bind fun w =>
      if w.kind = 3 then (img.descs[w.stream]?).map fun e => (bindOff d i, w.count * presentCount img e * e.blockBytes) else none) ++
    ((List.range img.descs.length).filterMap fun i => (img.descs[i]?).bind fun e =>
      if e.space = 0 ∧ windowBase ≤ e.base ∧ (bindOf img 3 i).isNone ∧ (bindOf img 4 i).isNone ∧ (us.any fun u => u.write && decide (u.desc = i))
      then some (descOff d i, streamLen img e * e.blockBytes) else none) ++
    ((ks.filter fun q => decide (q.2.2.kop = 2 ∨ q.2.2.kop = 3)).filterMap fun q =>
      (tensorOf c q.2.2.tensor).map fun t => (q.2.1, deltaBytes c t * (if q.2.2.kop = 3 then min (listCapacity img q.2.2.desc) q.2.2.blocks else q.2.2.blocks)))

/-- Staging in KiB. -/
def stagingUse (items : List (Nat × Nat)) : Nat := ceilDiv (total (items.map (·.2))) 1024

/-- The first item that takes the staging beyond the claim. -/
def stagingFault (claim : Nat) : List (Nat × Nat) → Nat → Option Nat
  | [], _ => none
  | (o, n) :: t, acc => if 1024 * claim < acc + n then some o else stagingFault claim t (acc + n)

/-! ### Traffic of a bearing (R216, R233) -/

/-- Bytes per block that an entry moves on the private port of its keystone (R216); an ACCEPT writes its buffer. -/
def portBytes (c : Ctx) (k : KeyIns) : Nat :=
  match k.kop, tensorOf c k.tensor with
  | 1, some _ => 256
  | 2, some t | 3, some t =>
    (if k.kop = 2 ∧ k.desc = 0 then 256 else 0) + (if t.slow then 0 else 512) + (if ruleOf c t = 1 then 1024 else 512) +
      (if (wfmtOf t.wfmt).size = 2 then 128 else 64) + deltaBytes c t
  | _, _ => 0

/-- Arithmetic cycles per block of an entry on the port. -/
def portCycles (c : Ctx) (k : KeyIns) : Nat :=
  match k.kop, tensorOf c k.tensor with
  | 1, _ => 1
  | _, some t => updateCycles c t (decide (k.kop = 2 ∧ k.desc = 0))
  | _, none => 1

/-- Bytes that an entry moves on the private port in an arithmetic cycle, at its rate of R217. -/
def portAsks (c : Ctx) (k : KeyIns) (cyc : Nat) : Nat :=
  if k.cycle ≤ cyc ∧ cyc < k.cycle + k.blocks * portCycles c k then ceilDiv (portBytes c k) (portCycles c k) else 0

/-- Bytes per arithmetic cycle that a use moves at most: its scheduled rate, within its attachment (R81, R128, R137), or within
the FABRIC claim of its port, whose AMOUNT is in Gb/s (R254). -/
def Use.bytes (img : Image) (e : Desc) (u : Use) : Nat :=
  match u.kind with
  | 0 => 256
  | 1 | 7 => min 1024 ((if u.rate = 0 then 512 else u.rate) * e.fmt.size)
  | 4 => 64 * e.fmt.size
  | 5 => ceilDiv (heldOf (img.claims.headD []) 9 u.unit) 6
  | _ => min 512 ((if u.rate = 0 then 512 else u.rate) * e.fmt.size)

/-- Arithmetic cycles in which a use moves its blocks. -/
def Use.span (img : Image) (e : Desc) (u : Use) : Nat := ceilDiv ((u.blockList img e).length * e.blockBytes) (max 1 (u.bytes img e))

/-- Bytes that a use asks of the bearing of stack `n` in an arithmetic cycle: its blocks in order at its rate, each byte at the stack
of its address (R232, R233). -/
def Use.asks (img : Image) (n cyc : Nat) (u : Use) : Nat :=
  match img.descs[u.desc]? with
  | none => 0
  | some e =>
    let r := u.bytes img e
    let bb := e.blockBytes
    let all := (u.blockList img e).length * bb
    if cyc < u.cycle then 0
    else
      let lo := r * (cyc - u.cycle)
      if (bindOf img 3 u.desc).isSome then min r (all - lo)
      else ((List.range (min r (all - lo))).filter fun k =>
        decide (paStack (blockAddr img e (u.first + (lo + k) / bb) + (lo + k) % bb) = n)).length

/-- Lines per bearing cycle that a rate of bytes per arithmetic cycle needs: 2,560 B are 15 lines (R216). -/
def linesOf (bytes : Nat) : Nat := ceilDiv (3 * bytes) 512

/-- The first entry or use of a cycle of its own, in image order, in a cycle of whose work the lines asked of bearing `n` exceed the claim (R156, R233).
Requests count in the nominal cycle of their instruction or entry and after, at the scheduled rates (DEDUCED, log entry 20). -/
def bearingFault (c : Ctx) (img : Image) (claim n : Nat) (ks : List (Nat × KeyIns)) (us : List Use) : Option Nat :=
  let excess := fun cyc => decide (claim < linesOf (total (ks.map fun q => portAsks c q.2 cyc) + total (us.map fun u => u.asks img n cyc)))
  (us.find? fun u =>
    match img.descs[u.desc]? with
    | some e => (List.range (u.span img e)).any fun i => decide (0 < u.asks img n (u.cycle + i)) && excess (u.cycle + i)
    | none => false).map (·.off)
  |>.or ((ks.find? fun q => (List.range (q.2.blocks * portCycles c q.2)).any fun i => decide (0 < portAsks c q.2 (q.2.cycle + i)) && excess (q.2.cycle + i)).map (·.1))

/-! ### Coverage by claim list 0 (R156) -/

/-- Whether claim list 0 holds a resource on a unit with the elements of a mask. -/
def holdsMask (img : Image) (res unit mask : Nat) : Bool :=
  (img.claims.headD []).any fun c => decide (c.res = res ∧ c.unit = unit ∧ mask &&& c.detail = mask)

/-- Whether claim list 0 holds a line. -/
def holdsLine (img : Image) (res unit l : Nat) : Bool :=
  (img.claims.headD []).any fun c => decide (c.res = res ∧ c.unit = unit ∧ c.detail ≤ l ∧ l < c.detail + c.amount)

/-- The pier ports an image uses (R469): 0 fill, 1 deck-in, 2 deck-out. -/
def portsUsed (img : Image) (p : Nat) : List Nat :=
  ((kget [] img.piers p).filterMap fun i =>
    match i.op with
    | .fill _ _ _ _ => some 0
    | .bankWrite _ _ => some 0
    | .tileIn _ _ => some 1
    | .blocksIn _ _ _ => some 1
    | .tileOut _ _ => some 2
    | .blocksOut _ _ _ => some 2
    | _ => none).eraseDups

/-- The coverage of one pier instruction. -/
def pierCovered (img : Image) (p : Nat) (q : PIns) : Bool :=
  let arrs := holdsMask img 1 p q.ins.mask.toNat
  let bank := fun bk => holdsMask img 2 p (2 ^ bk)
  (match q.ins.op with
    | .mma bk _ _ _ _ _ _ _ _ => arrs && bank bk
    | .drain bk _ _ _ _ => arrs && bank bk
    | .bankWrite bk _ => arrs && bank bk
    | .fill _ _ _ _ => arrs
    | .flagClear _ => arrs
    | _ => true) &&
  (q.linesRead img).all (fun l => holdsLine img 3 p l.1) && (q.linesWritten img).all fun l => holdsLine img 3 p l.1

/-- The first keystone entry that takes the cost of its list beyond the claim (R217). -/
def keyClaimFault (c : Ctx) (img : Image) (claim : Nat) : List (Nat × KeyIns) → Nat → Option Nat
  | [], _ => none
  | (o, k) :: t, acc => if claim < acc + keyCost c img k then some o else keyClaimFault c img claim t (acc + keyCost c img k)

/-- The keystone entries of a unit. -/
def keysOf (b : Bytes) (d : List Sect) (unit : Nat) : List (Nat × KeyIns) :=
  ((keyEntries b d).filter fun q => decide (q.1 = unit)).map (·.2)

/-- Whether a use moves lines of a stack: a resident range is filled at load, as command work (R200, R234). -/
def usesStack (img : Image) (n : Nat) (u : Use) : Bool :=
  decide (u.kind ≠ 6) &&
    (match img.descs[u.desc]? with
    | some e => decide (e.space = 0) && (streamEnds img u.desc e).contains (.bearing n)
    | none => false)

/-- The first use that claim list 0 does not cover. -/
def coverFault (b : Bytes) (d : List Sect) (c : Ctx) (img : Image) (us : List Use) : Option Nat :=
  let cl := img.claims.headD []
  faults [
    (listsIn b d 1).findSome? fun l => (pierList b img l).findSome? fun q => need (pierCovered img l.unit q) q.off,
    (List.range img.binds.length).findSome? fun i => (img.binds[i]?).bind fun w =>
      if w.kind = 5 then need ((List.range w.count).all fun k => holdsLine img 3 w.aux (w.stream + k) && holdsLine img 3 w.aux (w.cycle + k)) (bindOff d i) else none,
    (listsIn b d 2).findSome? fun l => need (holdsMask img 5 (l.unit % 100) (2 ^ (l.unit / 100))) l.off,
    (listsIn b d 3).findSome? fun l => keyClaimFault c img (heldOf cl 8 l.unit) (keysOf b d l.unit) 0,
    (listsIn b d 4).findSome? fun l => need (decide (0 < heldOf cl 9 l.unit)) l.off,
    (if img.routings = [] ∧ !(img.binds.any fun w => decide (w.kind = 6 ∨ w.kind = 7)) then none
     else need (cl.any fun w => decide (w.res = 5) && w.detail.testBit 2) (((sect d 7).map (·.off)).getD 0)),
    (match sect d 8 with
    | none => none
    | some s => (List.range img.tabs.length).findSome? fun i => (img.tabs[i]?).bind fun t =>
        need ((List.range 97).all fun k => holdsLine img 4 t.span (t.line + k)) (s.off + 16 * i)),
    (List.range img.descs.length).findSome? fun i => (img.descs[i]?).bind fun e =>
      if us.all fun u => decide (u.desc ≠ i ∨ u.kind = 6) then none
      else if e.space = 1 then need ((localLines img e).all fun l => holdsLine img 4 e.span l) (descOff d i)
      else if e.space = 0 ∧ (bindOf img 2 i).isNone ∧ windowBase ≤ e.base then need (decide (0 < heldOf cl 10 0)) (descOff d i)
      else none,
    us.findSome? fun u => need ((useLinks img us u).all fun l => cl.any fun w => decide (w.res = 6 ∧ w.unit = l)) u.off,
    (extraLinks b d img).findSome? fun q => need (q.2.all fun l => cl.any fun w => decide (w.res = 6 ∧ w.unit = l)) q.1,
    (List.range 8).findSome? fun n =>
      let mine := us.filter (usesStack img n)
      (mine.findSome? fun u => need (decide (0 < heldOf cl 7 n)) u.off).or
        (bearingFault c img (heldOf cl 7 n) n (keysOf b d n) (mine.filter fun u => decide (¬(u.kind = 3 ∧ u.cycle = 0)))),
    stagingFault (stagingClaim img) (stagingItems b d c img us) 0]

/-! ### Fill segments (R161) -/

/-- What an instruction of a step reads or writes. -/
inductive Item where
  | line (pier l : Nat)
  | slot (pier arr : Nat) (side : Bool) (unit : Nat)
  | bank (pier arr bk : Nat)
  | stream (i : Nat)
  | grads (tensor : Nat)
  deriving DecidableEq, Repr

/-- Whether two streams share a byte of storage or are one. -/
def streamsMeet (img : Image) (i j : Nat) : Bool :=
  decide (i = j) ||
    (match img.descs[i]?, img.descs[j]? with
    | some e, some f =>
      if e.space = 0 ∧ f.space = 0 ∧ (bindOf img 2 i).isNone ∧ (bindOf img 2 j).isNone then
        (streamRuns img e).any fun r => (streamRuns img f).any fun q => overlaps r q
      else if e.space = 1 ∧ f.space = 1 ∧ e.span = f.span then (localLines img e).any (localLines img f).contains
      else false
    | _, _ => false)

/-- Whether two items share anything. -/
def Item.meets (img : Image) : Item → Item → Bool
  | .stream i, .stream j => streamsMeet img i j
  | a, b => decide (a = b)

/-- What a pier instruction reads of its pier. -/
def PIns.reads (img : Image) (p : Nat) (q : PIns) : List Item :=
  let arrs := maskArrays q.ins.mask
  (q.linesRead img).map (fun l => .line p l.1) ++
  (match q.bankRead with | some bk => arrs.map fun a => .bank p a bk | none => []) ++
  (match q.ins.op with
  | .mma _ _ fa fb _ _ sa sb kb => arrs.flatMap fun a => (List.range kb).flatMap fun k =>
      ((slotUnits fa (sa + k)).map fun u => .slot p a false u) ++ (slotUnits fb (sb + k)).map fun u => .slot p a true u
  | _ => [])

/-- What a pier instruction writes of its pier. -/
def PIns.writes (img : Image) (p : Nat) (q : PIns) : List Item :=
  let arrs := maskArrays q.ins.mask
  (q.linesWritten img).map (fun l => .line p l.1) ++
  (match q.bankWritten with | some w => arrs.map fun a => .bank p a w.1 | none => []) ++
  (match q.slotWritten with
  | some (sd, f, n, _) => arrs.flatMap fun a => (slotUnits f n).map fun u => .slot p a sd u
  | none => [])

/-- What the instructions of cycles `lo` to `hi` − 1 read, or write. -/
def itemsOf (b : Bytes) (d : List Sect) (img : Image) (us : List Use) (write : Bool) (lo hi : Nat) : List Item :=
  let here := fun n => decide (lo ≤ n ∧ n < hi)
  ((listsIn b d 1).flatMap fun l => ((pierList b img l).filter fun q => here q.ins.cycle).flatMap fun q =>
    if write then q.writes img l.unit else q.reads img l.unit) ++
  ((us.filter fun u => here u.cycle && decide (u.write = write ∧ u.kind ≠ 6 ∧ ¬(u.kind = 3 ∧ u.cycle = 0))).map fun u => .stream u.desc) ++
  ((keyEntries b d).filterMap fun q =>
    if here q.2.2.cycle && (if write then decide (q.2.2.kop = 1) else decide (q.2.2.kop = 2 ∧ q.2.2.desc = 0)) then some (.grads q.2.2.tensor) else none)

/-- Whether a segment and what lies between its wait point and its tail position are independent. -/
def segmentFree (b : Bytes) (d : List Sect) (img : Image) (us : List Use) (w g : Timing) : Bool :=
  let apart := fun (r v : List Item) => !r.any fun x => v.any (x.meets img)
  apart (itemsOf b d img us false g.cycle (g.cycle + g.arg1)) (itemsOf b d img us true w.cycle g.cycle) &&
    apart (itemsOf b d img us false w.cycle g.cycle) (itemsOf b d img us true g.cycle (g.cycle + g.arg1))

/-- Every fill segment; a dependent one is named by its CYCLE (log entry 41). -/
def segmentsFault (b : Bytes) (d : List Sect) (img : Image) (us : List Use) : Option Nat :=
  match sect d 10 with
  | none => none
  | some s => (List.range s.count).findSome? fun i =>
      let g := timingAt b (s.off + 16 * i)
      if g.kind ≠ 4 then none
      else need ((img.timing.filter fun w => decide (w.kind = 3 ∧ w.id = g.id)).all fun w => segmentFree b d img us w g) (s.off + 16 * i + 4)

/-- Every structural check, in the order of log entry 19. -/
def imageFault (b : Bytes) (s : State) (c : Ctx) (others : List Bind) : Option Nat :=
  match headerFault b c.stashD with
  | some o => some o
  | none =>
    let d := directory b
    match directoryFault b d with
    | some o => some o
    | none =>
      let img := withNulls (imageIn b)
      let us := usesIn b d img (ownNode s)
      faults [
        prefixFault b d, claimListsFault b d c.frames.length, mapFault b d, descsFault b d img us, bindsFault b d c img others, nullsFault d img,
        shadowsFault b d img, backwardFault d img, usesFault img us, stationsFault b d img, piersFault b d img, keystonesFault b d c img, fabricFault b d s c img,
        routingsFault b d img, tablesFault b d, timingFault b d img us, segmentsFault b d img us, localFault img us, addressFault b d c img us,
        coverFault b d c img us]

end Sys2Proof.Machine
end

