-- ==== Sys2Proof/Machine/SchedLoad.lean ====
section
/-! DEFINITION. SCHED_LOAD and SCHED_UNLOAD (R150, R156, R159, R200, R366, R374, R470). -/

namespace Sys2Proof.Machine

/-- Reserved duration of an image in cycles (R159). -/
def Image.reserved (img : Image) : Nat := 32 + img.length + img.finalSlack

/-- The piers of which an image uses a port: a grant of ARRAYS on a pier grants its ports (R469). -/
def portClaims (img : Image) : List Claim := (img.piers.filter fun p => portsUsed img p.1 != []).map fun p => ⟨1, p.1, 0, 0⟩

/-- The claims checked against the grant: every list, the pier ports used and the derived STEP_TIME (R156, R159, R469). -/
def imageClaims (img : Image) : List Claim := img.claims.flatten ++ portClaims img ++ [⟨12, 0, img.reserved, 0⟩]

/-- RESIDENT entries of the context's loaded images. -/
def loadedBinds (c : Ctx) : List Bind := c.images.flatMap fun q => q.2.binds.filter fun w => decide (w.kind = 5)

/-- A span on which an image claims local-store lines that some loaded image's tables reserve (R470). -/
def reservedClash (s : State) (img : Image) : Option Nat :=
  ((img.claims.headD []).find? fun k => decide (k.res = 4) &&
    s.ctxs.any fun q => q.2.images.any fun m => (tableLines m.2 k.unit).any fun l => decide (k.detail ≤ l ∧ l < k.detail + k.amount)).map (·.unit)

/-- Pages of the stacked-memory range that the streams of an image address (R374). -/
def dataPages (img : Image) (us : List Use) : List Nat :=
  ((List.range img.descs.length).flatMap fun i =>
    match img.descs[i]? with
    | none => []
    | some e =>
      if e.space = 0 ∧ (bindOf img 2 i).isNone ∧ us.any (fun u => decide (u.desc = i)) then
        (streamRuns img e).flatMap fun r =>
          if r.1 + r.2 ≤ windowBase then (List.range ((r.1 + r.2 - 1) / 2097152 + 1 - r.1 / 2097152)).map fun k => r.1 / 2097152 + k else []
      else []).eraseDups

/-- Pages that are not mapped yet. -/
def newPages (c : Ctx) (ps : List Nat) : List Nat := ps.filter fun p => (kfind c.pageMap p).isNone

/-- Frames that an image takes without a virtual page: its own bytes and its staging (R374). -/
def imageFrames (img : Image) : Nat := ceilDiv img.bytes 2097152 + ceilDiv (stagingClaim img) 2048

/-- The bytes of staging that a written stream takes when its tiles lie at `d`'s BASE: those of a host window that
no PREFETCH or OFFLOAD entry binds (R468). -/
def hostStaging (img : Image) (i : Nat) (d : Desc) : Nat :=
  if d.space = 0 ∧ windowBase ≤ d.base ∧ (bindOf img 3 i).isNone ∧ (bindOf img 4 i).isNone ∧ img.writes.contains i then streamLen img d * d.blockBytes else 0

/-- The image with what STEP_RUN checks again: the descriptors read and written, and the staging that no binding
changes. -/
def withUses (b : Bytes) (c : Ctx) (img : Image) (me : Nat) : Image :=
  let d := directory b
  let us := usesIn b d img me
  let img := { img with reads := ((us.filter fun u => !u.write).map (·.desc)).eraseDups, writes := ((us.filter (·.write)).map (·.desc)).eraseDups }
  let host := total ((List.range img.descs.length).map fun i => match img.descs[i]? with | some e => hostStaging img i e | none => 0)
  { img with staged := total ((stagingItems b d c img us).map (·.2)) - host }

/-- Removes an image: its table lines are zeroed, its frames freed and its learned values discarded. -/
def removeImage (s : State) (n slot : Nat) : State :=
  match (ctxOf s n).bind fun k => kfind k.images slot with
  | none => s
  | some img =>
    let loc := img.tabs.foldl (fun m t => vclear m (locBase t.span + 128 * t.line) (128 * 97)) s.pm.loc
    updCtx { s with pm := { s.pm with loc := loc } } n fun c =>
      { c with images := kdel c.images slot, drawn := c.drawn - img.frames, learned := kclear c.learned (8192 * slot) 8192, gaps := kclear c.gaps (262144 * slot) 262144 }

/-- The image is loaded into its slot; its placement is command work still to be done (R150, R234). -/
def loadImage (s : State) (n : Nat) (k : Ctx) (slot : Nat) (img : Image) (pages : List Nat) : State :=
  let k := pages.foldl mapPage k
  setCtx s n { k with
    images := kput k.images slot { img with frames := imageFrames img }, drawn := k.drawn + imageFrames img
    learned := kclear k.learned (8192 * slot) 8192, gaps := kclear k.gaps (262144 * slot) 262144 }

/-- The checks and the effect of SCHED_LOAD on the bytes of the image. -/
def schedLoad (s : State) (n : Nat) (k : Ctx) (r : RingId) (c : Cmd) (b : Bytes) : State :=
  if !inGeneral k false (c.fld 383 320) (leAt b 8 4) then refuseField s r c stBadParam 320
  else
    match imageFault b s k (loadedBinds k) with
    | some o => endCmd s r c.seq (fieldReply stBadParam 2 o)
    | none =>
      let img := withUses b k (withNulls (imageIn b)) (ownNode s)
      match firstExcess k.grants (imageClaims img) with
      | some e => endCmd s r c.seq (resourceReply e.res e.unit)
      | none =>
        match reservedClash s img with
        | some u => endCmd s r c.seq (resourceReply 4 u)
        | none =>
          let ps := newPages k (dataPages img (usesIn b (directory b) img (ownNode s)))
          if k.frames.length < k.drawn + ps.length + imageFrames img then endCmd s r c.seq (resourceReply 0x10 0)
          else updCmd (acceptCmd (loadImage s n k (c.fld 291 288) img ps) r c.seq) r c.seq fun c => { c with jobs := 1 }

/-- Whether a step of context `n` uses an image slot. -/
def slotUsed (s : State) (n slot : Nat) : Bool := s.steps.any fun x => decide (x.ctx = n ∧ x.slot = slot)

/-- SCHED_LOAD: `image` is what the read of the image returns. -/
def execSchedLoad (r : RingId) (image : HostData) (s : State) : Host.Outcome State Fault Refusal :=
  .next (withCtxCmd s r 0x0020 fun n k c =>
    if (kfind k.images (c.fld 291 288)).isSome then refusePlain s r c stBusy
    else
      match image with
      | .ok b => schedLoad s n k r c b
      | _ => endCmd (logErr s 0x0802 r.ctxNo (BitVec.ofNat 128 (c.fld 383 320))) r c.seq (memoryReply 1 (c.fld 383 320)))

/-- Whether a RESIDENT entry is filled from a stream in a host window. -/
def hostFilled (img : Image) (w : Bind) : Bool :=
  decide (w.kind = 5) && w.filled && (bindOf img 2 w.source).isNone &&
    (match img.descs[w.source]? with | some e => decide (windowBase ≤ e.base) | none => false)

/-- The blocks that fill a resident range, from a ring copy at age 0, from stacked memory, or for a stream in a host window from
`host`, what the reads of its present blocks have returned (R200). -/
def residentFill (s : State) (k : Ctx) (img : Image) (w : Bind) (host : Bytes) : Bytes :=
  match (if w.filled then img.descs[w.source]? else none) with
  | none => List.replicate (64 * w.count) 0
  | some e =>
    match (bindOf img 2 w.source).bind fun v => tensorOf k v.count with
    | some t => (streamRuns img e).flatMap fun r => copyBytes k t (ringCopy t 0) r.1 r.2
    | none => if windowBase ≤ e.base then host else (streamRuns img e).flatMap fun r => peekVa s k r.1 r.2

/-- Writes the live copy of a resident range with its zero tags (R100, R200). -/
def fillResident (img : Image) (k : Ctx) (s : State) (w : Bind) (host : Bytes) : State :=
  let f := residentFill s k img w host
  let fmt := match (if w.filled then img.descs[w.source]? else none) with | some e => e.fmt | none => .fp32
  let os := (s.steps.filter (·.state.live)).map (·.id)
  let pm := (List.range w.count).foldl (fun (pm : PierMem) l =>
    let line := residentLine img k w.aux (w.stream + l)
    let b := slice f (64 * l) 64
    { pm with tile := vpokeRun 0 pm.tile os (lineKey w.aux line) b, zero := vpoke false pm.zero os (4096 * w.aux + line) (allZero fmt b) }) s.pm
  { s with pm := pm }

/-- The bytes of a table: the header of R140 and 1,024 coefficient triples. -/
def tableBytes (t : TableRec) : Bytes :=
  let sym := b2n t.expMode + t.sym * 4 + b2n t.belowExt * 16 + b2n t.aboveExt * 64 + b2n t.deriv * 256 + t.eLo * 65536
  leBytes 4 sym ++ leBytes 4 t.pair ++ leBytes 4 t.lo ++ leBytes 4 (t.m % 256).toNat ++ leBytes 4 t.lowValue ++ leBytes 4 t.highValue ++
    leBytes 4 t.zeroValue ++ leBytes 4 t.infPos ++ leBytes 4 t.infNeg ++ leBytes 28 0 ++
    t.coef.flatMap fun q => leBytes 4 q.1 ++ leBytes 4 q.2.1 ++ leBytes 4 q.2.2

/-- Writes the tables of an image into the local stores (R140, R470), and fills its resident ranges. -/
def placeImage (s : State) (n : Nat) (k : Ctx) (slot : Nat) (img : Image) (host : List Bytes) : State :=
  let os := (s.steps.filter (·.state.live)).map (·.id)
  let loc := img.tabs.foldl (fun m t => vpokeRun 0 m os (locBase t.span + 128 * t.line) (tableBytes t)) s.pm.loc
  let q := (img.binds.filter fun w => decide (w.kind = 5)).foldl (fun (q : State × List Bytes) w =>
      if hostFilled img w then (fillResident img k q.1 w (q.2.headD []), q.2.drop 1) else (fillResident img k q.1 w [], q.2))
    ({ s with pm := { s.pm with loc := loc } }, host)
  let s := q.1
  updCtx s n fun c => { c with images := kput c.images slot { img with placed := true } }

/-- Placement has finished: the image is in its slot and SCHED_LOAD replies with the reserved duration. `host` is what the reads
of the streams in host windows that fill resident ranges have returned; one that fails ends the command and the load (R342). -/
def schedPlaced (s : State) (r : RingId) (c : Cmd) (host : List HostData) : State :=
  match r with
  | .admin => s
  | .ctx n =>
    match ctxOf s n with
    | none => s
    | some k =>
      match kfind k.images (c.fld 291 288) with
      | none => s
      | some img =>
        if img.placed ∨ host.length < (img.binds.filter (hostFilled img)).length then s
        else
          match host.mapM HostData.bytes with
          | some bs => endCmd (placeImage s n k (c.fld 291 288) img bs) r c.seq { status := stOk, result := img.reserved }
          | none =>
            endCmd (logErr (removeImage s n (c.fld 291 288)) 0x0802 r.ctxNo (BitVec.ofNat 128 (c.fld 383 320))) r c.seq
              (memoryReply 1 (((img.binds.find? (hostFilled img)).bind fun w => (img.descs[w.source]?).map (·.base)).getD 0))

/-- A loaded image of a context: placed in its slot. -/
def loadedImage (k : Ctx) (slot : Nat) : Option Image :=
  match kfind k.images slot with
  | some img => if img.placed then some img else none
  | none => none

/-- SCHED_UNLOAD. -/
def execSchedUnload (r : RingId) (s : State) : Host.Outcome State Fault Refusal :=
  .next (withCtxCmd s r 0x0021 fun n k c =>
    let slot := c.fld 291 288
    match loadedImage k slot with
    | none => refuseField s r c stBadParam 288
    | some _ => if slotUsed s n slot then refusePlain s r c stBusy else endOk (removeImage s n slot) r c 0)

end Sys2Proof.Machine
end

