-- ==== Sys2Proof/Machine/Admission.lean ====
section
/-! DEFINITION. Admission of steps: free claims and ports (R157, R321, R469), the waits of a context (R190, R199,
R221, R227, R248), the fit before and within slots (R165, R167), binding (R172, R210), thinning (R287), and the
rows that admit: best effort and bubbles (R167, R169). -/

namespace Sys2Proof.Machine

/-! ### Claims in force (R157, R159, R169) -/

/-- The claims a step holds: all while it is admitted, STAGING and HOST while it is held or released. -/
def stepClaims (s : State) (x : Step) : List Claim :=
  match imageOf s x with
  | none => []
  | some img =>
    if x.state.live then img.claims.headD []
    else if x.state = .hold ∨ x.state = .committed then (img.claims.headD []).filter fun c => decide (c.res = 10 ∨ c.res = 11)
    else []

/-- Whether a step runs in a bubble of a step that is still admitted: its claims are part of the lender's. -/
def lentNow (s : State) (x : Step) : Bool :=
  match x.lender.bind (stepOf s) with
  | some y => y.state.live
  | none => false

/-- The steps whose claims count against a new one; `skip` is the lender of a new lent step. -/
def holders (s : State) (skip : Option Nat) : List Step := s.steps.filter fun x => decide (some x.id ≠ skip)

/-- Whether two images use one port of one pier. -/
def portsMeet (a b : Image) : Bool := a.piers.any fun p => (portsUsed a p.1).any (portsUsed b p.1).contains

/-- Whether an image's claims of codes 0x01 to 0x06 and its ports are free. -/
def setsFree (s : State) (img : Image) (skip : Option Nat) : Bool :=
  (holders s skip).all fun y => !listsMeet (img.claims.headD []) (stepClaims s y) &&
    (!y.state.live || (match imageOf s y with | some m => !portsMeet img m | none => true))

/-- What the steps that run in the bubbles of step `y` hold of a bounded resource. -/
def lentHeld (s : State) (y : Step) (res unit : Nat) : Nat :=
  total ((s.steps.filter fun z => decide (z.lender = some y.id)).map fun z => heldOf (stepClaims s z) res unit)

/-- What is held of a resource of codes 0x07 to 0x0A once a new step holds `amount` of it. What lent steps hold is part of what
their lender `lender` holds, as far as that goes (R169). -/
def sumHeld (s : State) (lender : Option Nat) (res unit amount : Nat) : Nat :=
  total ((s.steps.filter fun y => !lentNow s y).map fun y =>
    max (heldOf (stepClaims s y) res unit) (if y.state.live then lentHeld s y res unit + (if lender = some y.id then amount else 0) else 0)) +
  (if lender.isNone then amount else 0)

/-- STAGING that the steps of a context hold, lent or not: it is each context's own. -/
def stagingHeld (s : State) (n : Nat) : Nat := total ((s.steps.filter fun y => decide (y.ctx = n)).map fun y => heldOf (stepClaims s y) 11 0)

/-- Whether an image's amounts of codes 0x07 to 0x0B fit beside those held (R157, R321). -/
def sumsFree (s : State) (n : Nat) (c : Ctx) (img : Image) (lender : Option Nat) : Bool :=
  (img.claims.headD []).all fun k =>
    if k.res < 7 then true
    else if k.res = 11 then decide (stagingHeld s n + k.amount ≤ 2048 * c.frames.length)
    else fitsUnit s k.res k.unit (sumHeld s lender k.res k.unit k.amount)

/-! ### Waits of the context -/

/-- The trainable tensors that an image updates. -/
def updated (img : Image) : List Nat :=
  (img.keystones.flatMap fun k => (k.2.filter fun i => decide (i.kop = 2 ∨ i.kop = 3)).map (·.tensor)).eraseDups

/-- Whether a step of the image publishes (R195). -/
def publishing (img : Image) : Bool := updated img != []

/-- The trainable tensors that a step of the image reads: its weight streams and what its keystones update. -/
def tensorsRead (c : Ctx) (img : Image) : List Nat :=
  updated img ++ (img.binds.filter fun b => decide (b.kind = 2) && !((tensorOf c b.count).map (·.frozen)).getD true).map (·.count)

/-- Whether a step of the context still holds back a step of image `img` (R190, R199, R221). A step whose image changes no master
waits under R199 only for the decision of a step in hold (R291). -/
def holdsBack (s : State) (c : Ctx) (img : Image) (y : Step) : Bool :=
  match imageOf s y with
  | none => false
  | some m =>
    let reads := (tensorsRead c img).any (updated m).contains
    (publishing img && publishing m && (y.state.live || decide (y.state = .hold ∨ y.state = .committed))) ||
      (reads && ((publishing img && y.state.live) || decide (y.state = .hold))) ||
      (y.state.live && m.binds.any fun b => decide (b.kind = 4))

/-- Whether nothing of the context itself keeps its next step waiting. -/
def ctxReady (s : State) (n : Nat) (c : Ctx) (img : Image) : Bool :=
  c.destroying.isNone && decide (c.retiring = []) && decide (c.service ≠ .stopped) && !s.boot.fatal &&
    (!publishing img || (match c.sender with | some k => k.baseAcked | none => true)) &&
    (s.steps.all fun y => decide (y.ctx ≠ n) || !holdsBack s c img y) &&
    !(s.host.writes.any fun w => w.ofCtx (some n) && decide (w.path = .offload))

/-- The oldest queued step of a context. -/
def headStep (s : State) (n : Nat) : Option Step := s.steps.find? fun x => decide (x.ctx = n ∧ x.state = .queued)

/-! ### Fit (R165, R167) -/

/-- Whether a step has reached the cycle of its commit point: a kill from now on does nothing to it (R159, R173). -/
def pastCommit (s : State) (x : Step) : Bool :=
  match imageOf s x with
  | some img => decide (x.start ≠ 0 ∧ x.start + img.length + img.finalSlack ≤ s.clk.cycles)
  | none => false

/-- The first unit of a step that fails the final check in this cycle: its offset exceeds FINAL_SLACK before it has finished
(R158). -/
def finalLate (img : Image) (x : Step) : Option UnitRef :=
  (img.listKeys.find? fun k => (nextCycle img x k).isSome && decide (img.finalSlack < offsetOf img x k)).map keyUnit

/-- Whether `cycles` from now on, at the stretch in force, end before a tick: a cycle lasts S / 7,500 of a tick. -/
def endsBy (s : State) (cycles tick : Nat) : Bool := decide (s.clk.uptime * 7500 + cycles * s.power.stretch < tick * 7500)

/-- The starts of a table's valid slots, from a period start on. -/
def slotStarts (t : TimeTab) (origin : Nat) : List Nat := (t.slots.filter (·.valid)).map fun e => origin + e.start

/-- The tick at which the next valid slot begins (R167). -/
def nextSlot (s : State) : Option Nat :=
  match s.sched.table with
  | none => none
  | some t =>
    let after := s.sched.origin + t.period
    let next := match s.sched.waiting with
      | none => slotStarts t after
      | some none => []
      | some (some u) => slotStarts u after
    match ((slotStarts t s.sched.origin).filter fun a => decide (s.clk.uptime ≤ a)) ++ next with
    | [] => none
    | h :: r => some (r.foldl min h)

/-- The slot of index `i` of the table in force, where it is valid (R164). -/
def slotAt (s : State) (i : Nat) : Option SlotEnt := (s.sched.table.bind fun t => t.slots[i]?).bind fun e => if e.valid then some e else none

/-! ### Taking a step in (R44, R170, R172, R210, R287) -/

/-- Whether THIN_POS admits the image (R287). -/
def thinOk (c : Ctx) (img : Image) : Bool :=
  if img.thinRole = 1 then decide (c.thinPos + 1 < c.thinN) else if img.thinRole = 2 then decide (c.thinPos + 1 = c.thinN) else true

/-- The step once admitted: bound, unless it is a re-run, with its flags and counters clear. -/
def admittedStep (s : State) (x : Step) (c : Ctx) (kind : AdmitKind) (lender : Option Nat) : Step :=
  let y := { x with state := .admitted, kind := kind, lender := lender, admitted := s.clk.uptime, rerun := false, start := 0 }
  if x.rerun then y
  else { y with boundGen := c.loadGen.toNat, boundAges := c.tensors.map fun t => (t.num, t.ages), scalars := groupScalars c }

/-- The leader's record of an attempt that it admits; an attempt that a timetable kill has re-run keeps its votes and its decision
(R168, R290). -/
def openLeader (s : State) (x : Step) (img : Image) : State :=
  match s.slory.node with
  | none => s
  | some nd =>
    if img.multi ∧ img.leader = nd.node ∧ !(x.rerun && s.slory.leaders.any fun l => decide (l.ctx = x.ctx ∧ l.step = x.number ∧ l.attempt = x.attempt)) then
      { s with slory := { s.slory with leaders :=
          (s.slory.leaders.filter fun l => !decide (l.ctx = x.ctx ∧ l.step = x.number)) ++ [{ ctx := x.ctx, step := x.number, attempt := x.attempt }] } }
    else s

/-- Admits a step, or ends it with ST_BAD_PARAM naming THIN_ROLE where THIN_POS forbids it (R287). -/
def admitStep (s : State) (x : Step) (img : Image) (c : Ctx) (kind : AdmitKind) (lender : Option Nat) : State :=
  if thinOk c img then
    openLeader { s with steps := s.steps.map fun y => if y.id = x.id then admittedStep s x c kind lender else y } x img
  else replyStep s x (fieldReply stBadParam 2 (img.fabricAt + 2))

/-- Whether context `n`'s oldest queued step may be admitted now, with its image. -/
def admissible (s : State) (n : Nat) (skip : Option Nat) : Option (Step × Image × Ctx) :=
  match ctxOf s n, headStep s n with
  | some c, some x =>
    match imageOf s x with
    | none => none
    | some img => if ctxReady s n c img && setsFree s img skip && sumsFree s n c img skip then some (x, img, c) else none
  | _, _ => none

/-! ### Slots (R165, R166) -/

/-- Admits the owner's oldest queued step into slot `i` that has begun; what claims still hold back is owed (R166). -/
def slotAdmit (s : State) (i : Nat) : State :=
  match slotAt s i with
  | none => s
  | some e =>
    match admissible s e.owner none with
    | none =>
      if (headStep s e.owner).isSome && !s.sched.owing.contains i then { s with sched := { s.sched with owing := s.sched.owing ++ [i] } } else s
    | some (x, img, c) =>
      admitStep { s with sched := { s.sched with owing := s.sched.owing.filter fun j => decide (j ≠ i) } } x img c .realTime none

/-- Sets or clears that slot `i` waits to admit its owner's next step. -/
def setFollow (s : State) (i : Nat) (on : Bool) : State :=
  { s with sched := { s.sched with follows := (s.sched.follows.filter fun j => decide (j ≠ i)) ++ (if on then [i] else []) } }

/-- In slot `i`, after a commit point of its owner: the owner's next queued step is admitted where it ends before the slot ends,
and waits for that while something still holds it back (R165). -/
def slotFollow (s : State) (i : Nat) : State :=
  match slotAt s i with
  | none => setFollow s i false
  | some e =>
    match (headStep s e.owner).bind (imageOf s) with
    | none => setFollow s i false
    | some img =>
      if !endsBy s img.reserved (s.sched.origin + e.start + e.len) then setFollow s i false
      else
        match admissible s e.owner none with
        | some (x, img, c) => admitStep (setFollow s i false) x img c .realTime none
        | none => setFollow s i true

/-- After claims or waits have gone: the first admissions that slots still owe, and the next steps that wait in them. -/
def payOwed (s : State) : State :=
  let s := s.sched.owing.foldl slotAdmit s
  s.sched.follows.foldl slotFollow s

/-- After the commit point of a real-time step of context `n`: the slots of that context in progress turn to its next queued step
(R165). -/
def afterCommit (s : State) (n : Nat) : State :=
  (s.sched.active.filter fun i => match slotAt s i with | some e => decide (e.owner = n) && !s.sched.owing.contains i | none => false).foldl
    slotFollow s

/-! ### Best effort (R167) -/

/-- Contexts in turn order, starting after the one admitted last. -/
def turnOrder (s : State) : List Nat :=
  (List.range 256).map fun k => (s.sched.lastCtx + 1 + k) % 256

/-- The first context in turn order whose oldest queued step can be admitted and ends before the next slot. -/
def nextBestEffort (s : State) : Option (Nat × Step × Image × Ctx) :=
  (turnOrder s).findSome? fun n =>
    match admissible s n none with
    | none => none
    | some (x, img, c) =>
      if s.sched.table.isSome && c.cls then none
      else
        match nextSlot s with
        | some t => if endsBy s img.reserved t then some (n, x, img, c) else none
        | none => some (n, x, img, c)

/-- Whether some valid slot has begun and not ended. -/
def inSlot (s : State) : Bool := s.sched.active.any fun i => (slotAt s i).isSome

/-- BEST_EFFORT_ADMISSION: within a slot, what its owner still waits for is tried again. -/
def execBestEffortAdmission (s : State) : Host.Outcome State Fault Refusal :=
  if inSlot s then .next (payOwed s)
  else
    match nextBestEffort s with
    | none => .next s
    | some (n, x, img, c) => .next (admitStep { s with sched := { s.sched with lastCtx := n } } x img c .bestEffort none)

/-! ### Bubbles (R169) -/

/-- The BUBBLE entry of an image with number `b`. -/
def bubbleOf (img : Image) (b : Nat) : Option Timing := img.timing.find? fun t => decide (t.kind = 5 ∧ t.id = b)

/-- BUBBLE: bubble `bub` of step `st`, running or staged, begins, and the oldest queued step of context `n` is lent its claims. -/
def execBubble (st bub n : Nat) (s : State) : Host.Outcome State Fault Refusal :=
  match workingStep s st with
  | none => .next s
  | some (y, img) =>
    match bubbleOf img bub, admissible s n (some st) with
    | some t, some (x, m, c) =>
      let lends := s.sched.active.any fun i => match slotAt s i with | some e => decide (e.owner = y.ctx) && e.lend | none => false
      if y.kind = .realTime ∧ lends ∧ n ≠ y.ctx ∧ !y.lent.contains bub ∧ m.reserved ≤ t.arg1 ∧
          (m.claims.headD []).all (granted (img.claims.getD t.arg2 [])) then
        .next (admitStep (setStep s { y with lent := y.lent ++ [bub] }) x m c .lent (some st))
      else .next s
    | _, _ => .next s

end Sys2Proof.Machine
end

