-- ==== Sys2Proof/Machine/PowerRow.lean ====
section
/-! DEFINITION. Power, current steps and cooling: modes (R394, R395), the stretch (R396, R405), the cap and its controller
(R397 to R401), falls and the slope limit (R402 to R404), droop (R406, R407), temperature and coolant (R410 to R415). -/

namespace Sys2Proof.Machine

/-! ### Modes and the stretch (R394 to R397, R405) -/

/-- The mode whose condition comes first in the order of R395. -/
def modeNow (s : State) : PMode :=
  if s.power.recovery then .recovery else if !s.boot.ready then .startup else if s.power.testing then .test else .normal

/-- Puts the mode of R395 in force. -/
def setMode (s : State) : State := { s with power := { s.power with mode := modeNow s } }

/-- The cap in force in W: the least of the four limits (R397). -/
def capInForce (p : Power) : Nat := min (min p.setCap p.capLimit) (min p.thermalCap p.flowCap)

/-- The effective S: the largest value that a row of R405 requires. -/
def effectiveS (p : Power) : Nat :=
  max (max (if p.logicLimit || p.dramLimit then 16000 else 1000) (if p.droopHold then 2000 else 1000)) (max p.controller p.slopeS)

/-- Puts the effective S in force; after a trip it is moot. -/
def applyStretch (s : State) : State :=
  if s.boot.railsRemoved then s else { s with power := { s.power with stretch := effectiveS s.power } }

/-- Sets PWR_STATE bit `i` to `v`: a change sets the CROSSED bit, raises vector 259 and, upward or where `both` says so,
logs a record (R411, R448). -/
def changeBit (s : State) (i : Nat) (v both : Bool) (code : Nat) (detail : BitVec 128) : State :=
  if s.power.state.testBit i = v then s
  else
    let s := { s with power := { s.power with
      state := if v then s.power.state + 2 ^ i else s.power.state - 2 ^ i
      events := if s.power.events.testBit (i - 2) then s.power.events else s.power.events + 2 ^ (i - 2) } }
    let s := raiseVector s 259
    if v || both then logErr s code none detail else s

/-- Enters recovery mode, once (R394): logged with a free value, since the encoding of the cause is not stated. -/
def enterRecovery (s : State) : State :=
  if s.power.recovery then s
  else
    let s := setMode { s with power := { s.power with
      recovery := true, events := if s.power.events.testBit 8 then s.power.events else s.power.events + 256 } }
    let f := takeFree (raiseVector s 259)
    logErr f.2 0x0902 none (f.1.setWidth 128)

/-- The 16-bit two's-complement pattern of a reading. -/
def pattern16 (v : Int) : Nat := (v % 65536).toNat

/-- The power stages remove the compute-die and stack rails, and the module becomes device-fatal; the trip record goes to
the model store (R413). -/
def tripRails (s : State) (code : Nat) (detail : BitVec 128) : State :=
  let was := s.boot.fatal
  let s := raiseVector (logFatal s code none detail) 259
  let y : LogEntry := ⟨code, 5, false, none, 1, s.clk.uptime, detail⟩
  let older := (newestEntries s.err 16).filter fun e => !decide (e.code = code ∧ e.time = s.clk.uptime)
  { s with
    boot := { s.boot with railsOn := false, railsRemoved := true }
    store := { s.store with trip := some y, summary := if was then (y :: older).take 16 else s.store.summary } }

/-! ### Temperature and coolant (R410 to R415) -/

/-- Warning, θ, limit and trip of a group in 1/16 °C: 0 logic, 1 DRAM (R411). -/
def thresholds (g : Nat) : Int × Int × Int × Int := if g = 0 then (1520, 1600, 1680, 1840) else (1408, 1440, 1520, 1600)

/-- The highest of a list of readings. -/
def highest : List Int → Int
  | [] => 0
  | x :: t => t.foldl max x

/-- A crossing of R411, reported on vector 259, in the log and as a PLDM event (R462, R473). -/
def cross (s : State) (g i code : Nat) (v : Bool) (reading : Int) : State :=
  let d := Config.errDetail code [g, reading, b2n v]
  if s.power.state.testBit i = v then s else emit (changeBit s i v true code d) (.pldmEvent code d)

/-- Whether a group counts as at its limit: from the limit on until it reads 2 °C below (R412). -/
def atLimit (was : Bool) (lim v : Int) : Bool := decide (lim ≤ v) || (was && decide (lim - 32 < v))

/-- A new group value: the crossings, the limit with its recovery, and the trip. -/
def groupRead (s : State) (g : Nat) (v : Int) : State :=
  let t := thresholds g
  let was := if g = 0 then s.power.logicLimit else s.power.dramLimit
  let lim := atLimit was t.2.2.1 v
  let s := { s with power := { s.power with
    temps := s.power.temps.set g v
    logicLimit := if g = 0 then lim else s.power.logicLimit
    dramLimit := if g = 0 then s.power.dramLimit else lim } }
  let s := cross s g (2 + 3 * g) 0x0A01 (decide (t.1 ≤ v)) v
  let s := cross s g (3 + 3 * g) 0x0A02 (decide (t.2.1 ≤ v)) v
  let s := cross s g (4 + 3 * g) 0x0A03 lim v
  let s := if lim then enterRecovery s else s
  let s := if lim && !was then slopeChange s else s
  let s := applyStretch s
  if decide (t.2.2.2 ≤ v) && s.boot.railsOn then tripRails s 0x0A04 (Config.errDetail 0x0A04 [g, v]) else s

/-- LOGIC_SENSOR_READ: the 38 logic sensors. -/
def execLogicSensorRead (temps : List Int) (s : State) : Host.Outcome State Fault Refusal :=
  if s.boot.powered then .next (groupRead { s with power := { s.power with logic := ksetRun 0 [] 0 (temps.take 38) } } 0 (highest (temps.take 38)))
  else .next s

/-- DRAM_SENSOR_READ: the eight core-die sensors of stack `b`; the refresh rate follows at the next refresh (R252). -/
def execDramSensorRead (b : Nat) (temps : List Int) (s : State) : Host.Outcome State Fault Refusal :=
  if s.boot.powered ∧ b < 8 then
    let k := stackOf s b
    let s := setStack s b { k with sensors := temps.take 8, hot := decide (1360 < highest (temps.take 8)) }
    .next (groupRead s 1 (highest ((List.range 8).flatMap fun i => (stackOf s i).sensors)))
  else .next s

/-- The flow cap in W (R415). -/
def flowCapOf (flow : Nat) : Nat := if flow < 4000 then 2500 * flow / 4000 else 2500

/-- COOLANT_SENSOR_READ: below 4.0 L/min the flow cap falls, a warning event is raised and recovery mode is entered. -/
def execCoolantSensorRead (inlet outlet : Int) (flow : Nat) (s : State) : Host.Outcome State Fault Refusal :=
  if s.boot.powered then
    let s := if flowCapOf flow < s.power.flowCap then slopeChange s else s
    let s := { s with power := { s.power with
      temps := (s.power.temps.set 2 inlet).set 3 outlet, flow := flow, flowCap := flowCapOf flow } }
    let s := changeBit s 8 (decide (flow < 4000)) false 0x0A05 (BitVec.ofNat 128 flow)
    .next (applyStretch (if flow < 4000 then enterRecovery s else s))
  else .next s

/-- The group reading that stands highest relative to its θ, in 1/16 °C above it (R412). -/
def worstOver (p : Power) : Int := max (p.temps.getD 0 0 - 1600) (p.temps.getD 1 0 - 1440)

/-- The next thermal cap in W. -/
def nextThermalCap (p : Power) : Nat :=
  let d := worstOver p
  if 0 ≤ d then max 600 (p.thermalCap - 25 * (1 + (d / 16).toNat)) else if d < -32 then min 2500 (p.thermalCap + 25) else p.thermalCap

/-- THERMAL_CAP_UPDATE: every 1 ms. At a group's limit S is 16,000 and recovery mode is in force. -/
def execThermalCapUpdate (s : State) : Host.Outcome State Fault Refusal :=
  if s.boot.powered then
    let s := if nextThermalCap s.power < s.power.thermalCap then slopeChange s else s
    let s := { s with power := { s.power with thermalCap := nextThermalCap s.power } }
    .next (applyStretch (if s.power.logicLimit || s.power.dramLimit then enterRecovery s else s))
  else .next s

/-- FLOW_TRIP: flow below 1.0 L/min for 1 s. Rails that the interlock still holds off are not removed. -/
def execFlowTrip (s : State) : Host.Outcome State Fault Refusal :=
  if s.boot.powered ∧ s.boot.railsOn ∧ s.power.flow < 1000 then .next (tripRails s 0x0A06 (BitVec.ofNat 128 s.power.flow)) else .next s

/-- POWER_STAGE_FAULT: an alarm enters recovery mode, a fault makes the module device-fatal. -/
def execPowerStageFault (stage : Nat) (fatal : Bool) (s : State) : Host.Outcome State Fault Refusal :=
  if !s.boot.powered then .next s
  else if fatal then .next (raiseVector (logFatal s 0x0904 none (BitVec.ofNat 128 stage)) 259)
  else .next (enterRecovery { s with power := { s.power with alarm := true } })

/-- RECOVERY_EXIT: 100 ms have passed with no entry condition holding; an alarm or an escalation that lasted would have
kept the event from coming. -/
def execRecoveryExit (s : State) : Host.Outcome State Fault Refusal :=
  if s.power.recovery && !s.power.logicLimit && !s.power.dramLimit && decide (4000 ≤ s.power.flow) then
    .next (setMode { s with power := { s.power with recovery := false, alarm := false, droopRecent := [] } })
  else .next s

/-! ### Measurement and the slope limit (R398, R403) -/

/-- Mean of a list; 0 of none. -/
def mean (l : List Nat) : Nat := if l = [] then 0 else total l / l.length

/-- Whether the window that ends now breaks the slope limit: two whole milliseconds of samples whose means differ by more
than 250 W (R403). -/
def slopeBroken (l : List Nat) : Bool :=
  let a := total (l.take 1000)
  let b := total ((l.drop 1000).take 1000)
  decide (l.length = 2000) && decide (250000000 < (if a < b then b - a else a - b))

/-- Whether the window of R403 that ends now contains a change that the limit does not cover. -/
def slopeExcused (s : State) : Bool := match s.power.slopeExempt with | some t => decide (s.clk.uptime < t + 200000) | none => false

/-! ### Falls (R402) -/

/-- The floor of real and filler firings on a span, in millionths of its cells: the largest over the falls under way. -/
def fillerFloor (s : State) (sp : Nat) : Nat :=
  (s.power.falls.map fun f => if f.1 = sp ∧ s.clk.uptime < f.2.1 + 200000 then 600 * f.2.2 * (f.2.1 + 200000 - s.clk.uptime) / 200000 else 0).foldl max 0

/-- The live steps that hold a span, with their images. -/
def spanHolders (s : State) (sp : Nat) : List (Step × Image) :=
  s.steps.filterMap fun x => if x.state.live then (match imageOf s x with | some img => if img.spans.contains sp then some (x, img) else none | none => none) else none

/-- Cells of a span: 32 piers of 64 arrays of 64 cells (R15, R52). -/
def spanCells : Nat := 131072

/-- The filler firings per cycle that R77 and R402 require of the arrays of a span that no admitted step holds (R400). -/
def fillerRate (s : State) (sp : Nat) : Nat :=
  max (total (s.power.stops.map fun r => if r.1 = sp then r.2.2.later (s.clk.cycles - r.2.1) else 0)) (fillerFloor s sp * spanCells / 1000000)

/-- The filler firings of R402 in the last microsecond on a span: the whole floor where no step fires real products there. Where
one does, the part of them that fill the floor is a free value (log entry 6). -/
def floorFirings (s : State) (sp : Nat) : State × Nat :=
  let n := fillerFloor s sp * spanCells / 1000000 * (750000 / max 1000 s.power.stretch)
  if n = 0 ∨ (spanHolders s sp).isEmpty then (s, n)
  else
    let f := takeFree s
    (f.2, f.1.toNat % (n + 1))

/-- POWER_MEASUREMENT: the busbar input power of the last microsecond in mW, which is its energy in nJ. The filler that the falls
of R402 have asked for meanwhile is booked; ramp filler is booked as the steps that fire it end (R78, R383). -/
def execPowerMeasurement (mw : Nat) (s : State) : Host.Outcome State Fault Refusal :=
  if s.boot.powered then
    let l := (mw :: s.power.samples).take 2000
    let q := (List.range 32).foldl (fun (q : State × Nat) sp => let r := floorFirings q.1 sp; (r.1, q.2 + r.2)) (s, 0)
    let s := q.1
    .next { s with power := { s.power with
      samples := l, mean10 := mean (l.take 10), mean1ms := mean (l.take 1000), prev1ms := mean (l.drop 1000)
      measured := satAdd max64 s.power.measured mw, filler := satAdd max64 s.power.filler (q.2 * Config.fillerFiring / 1000000)
      slopeExceeded := if decide (s.power.mode = .normal) && slopeBroken l && !slopeExcused s then satAdd max64 s.power.slopeExceeded 1
        else s.power.slopeExceeded } }
  else .next s

/-- Whether a gap of an image slot has been learned: the image has completed a step (R403, R404). -/
def gapLearned (s : State) (x : Step) : Bool :=
  match ctxOf s x.ctx with
  | some c => c.gaps.any fun g => decide (g.1 / 262144 = x.slot)
  | none => false

/-- FALL: in normal and recovery modes, with A_s at least 12.5 %, a filler floor begins on span `sp`; `avg` is A_s in
per-mille. -/
def execFall (sp avg : Nat) (s : State) : Host.Outcome State Fault Refusal :=
  if (s.power.mode = .normal ∨ s.power.mode = .recovery) ∧ 125 ≤ avg ∧ sp < 32 then
    let s := if (spanHolders s sp).any fun q => !gapLearned s q.1 then slopeChange s else s
    .next { s with power := { s.power with
      falls := (sp, s.clk.uptime, avg) :: s.power.falls.filter fun f => decide (s.clk.uptime < f.2.1 + 200000) } }
  else .next s

/-! ### The cap controller (R398 to R401, R404) -/

/-- The phase that a span of a step is in: the id of the PHASE entry begun last by a unit of the span. -/
def spanPhase (img : Image) (x : Step) (sp : Nat) : Option Nat :=
  match (x.units.filter fun u => decide (keySpan u.1 = some sp)).foldl (fun m u => max m u.2.phase) 0 with
  | 0 => none
  | k + 1 => ((img.phases)[k]?).map (·.id)

/-- e of a span for one step: the learned value of its phase, or the claim estimate before its first PHASE entry. -/
def stepEnergy (s : State) (x : Step) (img : Image) (sp : Nat) : Nat :=
  match ctxOf s x.ctx, spanPhase img x sp with
  | some c, some m => learnedOf c x.slot img m sp
  | _, _ => claimEstimate img sp

/-- The filler estimate of a span in units of 2 pJ per arithmetic cycle: its idle energy and that of the filler it must fire
(R400). -/
def fillerEstimate (s : State) (sp : Nat) : Nat := Config.spanIdle sp + fillerRate s sp * Config.fillerFiring / 2000

/-- e_s in units of 2 pJ per arithmetic cycle; a span that no admitted step holds has its filler estimate. -/
def spanEnergy (s : State) (sp : Nat) : Nat :=
  match spanHolders s sp with
  | [] => fillerEstimate s sp
  | hs => total (hs.map fun q => stepEnergy s q.1 q.2 sp)

/-- The target in mW: the cap in force, or the level that the walk-down has reached (R398, R401). -/
def targetMw (s : State) : Nat :=
  let cap := 1000 * capInForce s.power
  match s.power.walk with
  | some (t, p) => max cap (p - 5 * (s.clk.uptime - t) / 2)
  | none => cap

/-- The smallest S from 1,000 to 16,000 whose predicted power fits 0.98 of the target (R400). -/
def predictedS (target pfix sum : Nat) : Nat :=
  if 98 * target ≤ 100 * pfix then (if sum = 0 ∧ 98 * target = 100 * pfix then 1000 else 16000)
  else min 16000 (max 1000 (ceilDiv (sum * 150000) (98 * target - 100 * pfix)))

/-- The share of a span in mW (R400). -/
def shareOf (target pfix sum e : Nat) : Nat := (98 * target - 100 * pfix) * e / (100 * sum)

/-- The energy per cycle, in 2 pJ, that a span's measured power in mW means at a stretch. -/
def measuredEnergy (mw stretch : Nat) : Nat := mw * stretch / 1500

/-- Raises the current e of a span to a measured value (R401); phases from 256 on keep the claim estimate. -/
def raiseEnergy (s : State) (sp e : Nat) : State :=
  (spanHolders s sp).foldl (fun s q =>
    match spanPhase q.2 q.1 sp with
    | some m => updCtx s q.1.ctx fun c => if m < 256 ∧ learnedOf c q.1.slot q.2 m sp < e then { c with learned := kput c.learned (learnKey q.1.slot m sp) e } else c
    | none => s) s

/-- The first correction of R401: three consecutive decisions above 1.05 of the share. -/
def correctSpans (s : State) (target pfix : Nat) (es : List Nat) (meas : List (Nat × Nat)) : State :=
  let sum := total es
  meas.foldl (fun s q =>
    let high := !(spanHolders s q.1).isEmpty && decide (105 * shareOf target pfix sum (es.getD q.1 0) < 100 * q.2)
    let n := if high then kget 0 s.power.overCount q.1 + 1 else 0
    let s := { s with power := { s.power with overCount := kset 0 s.power.overCount q.1 (n % 3) } }
    if n = 3 then raiseEnergy s q.1 (measuredEnergy q.2 s.power.stretch) else s) s

/-- Whether a slope walk may be under way (R404): the slope limit applies and a live step has a learned gap, or the
predicted power rises by more than 250 W. -/
def walkDue (s : State) (predicted : Nat) : Bool :=
  decide (s.power.mode = .normal) &&
    (decide (s.power.mean10 + 250000 < predicted) || s.steps.any fun x => x.state.live && gapLearned s x)

/-- The S that the walk of R404 requires: the manual bounds it and does not fix it, so the row gives it (DESIGN CHOICE, log entry 64). -/
def walkS (s : State) (predicted walk : Nat) : State :=
  if walkDue s predicted then
    { s with power := { s.power with slopeS := max 1000 (min 16000 walk) } }
  else { s with power := { s.power with slopeS := 1000 } }

/-- Whether the cap is not met even at S = 16,000 (R398). -/
def capUnmet (s : State) (pfix sum : Nat) : Bool := decide (16000000 * capInForce s.power < 16000 * pfix + 1500 * sum)

/-- CAP_DECISION: `pfix` is the measured power outside the span rails in mW, `meas` the measured power in
mW of span rails, `walk` the S of a slope walk under way. -/
def execCapDecision (pfix : Nat) (meas : List (Nat × Nat)) (walk : Nat) (s : State) : Host.Outcome State Fault Refusal :=
  if !s.boot.powered ∨ s.boot.railsRemoved then .next s
  else
    let target := targetMw s
    let s := correctSpans s target pfix ((List.range 32).map (spanEnergy s)) meas
    let es := (List.range 32).map (spanEnergy s)
    let sum := total es
    let p := predictedS target pfix sum
    let high := decide (target < mean (s.power.samples.take 100))
    let c := if high then max p (min 16000 (ceilDiv (s.power.controller * 105) 100)) else p
    let shares := (List.range 32).map fun i =>
      if (spanHolders s i).isEmpty && decide (fillerRate s i = 0) then 0 else shareOf target pfix sum (es.getD i 0)
    let s := walkS { s with power := { s.power with
      pFix := pfix, controller := c, shares := ksetRun 0 [] 0 shares, learnedNow := ksetRun 0 [] 0 es
      walk := if target ≤ 1000 * capInForce s.power then none else s.power.walk } } (pfix + sum * 1500 / c) walk
    let s := applyStretch s
    .next (changeBit s 9 (capUnmet s pfix sum) false 0x0903 (Config.errDetail 0x0903 [capInForce s.power, s.power.stretch]))

/-! ### Droop (R406, R407) -/

/-- Logs a droop in normal mode, at most once per detector and second. -/
def logDroop (s : State) (d : Nat) : State :=
  let recent := match kfind s.power.droopLogged d with | some t => decide (s.clk.uptime < t + 100000000) | none => false
  if recent then s
  else logErr { s with power := { s.power with droopLogged := kput s.power.droopLogged d s.clk.uptime } } 0x0901 none (BitVec.ofNat 128 d)

/-- DROOP: detector `d` fires. In a mode that stretches, S is at least 2,000 at once; in normal mode no clock changes, and
the sixteenth firing within 1 ms enters recovery mode. -/
def execDroop (d : Nat) (s : State) : Host.Outcome State Fault Refusal :=
  if s.boot.powered ∧ d < 34 then
    let s := { s with power := { s.power with droop := kset 0 s.power.droop d (satAdd max64 (kget 0 s.power.droop d) 1) } }
    if s.power.mode = .normal then
      let r := (s.clk.uptime :: s.power.droopRecent).filter fun t => decide (s.clk.uptime < t + 100000)
      let s := logDroop { s with power := { s.power with droopRecent := r } } d
      .next (if 16 ≤ r.length then enterRecovery s else s)
    else .next (applyStretch { s with power := { s.power with droopHold := true } })
  else .next s

/-- DROOP_HOLD_END: the stretch is back at the controller's S; the linear return within 1 µs is timing. -/
def execDroopHoldEnd (s : State) : Host.Outcome State Fault Refusal :=
  if s.power.droopHold then .next (applyStretch { s with power := { s.power with droopHold := false } }) else .next s

end Sys2Proof.Machine
end

