-- ==== Sys2Proof/Machine/OptState.lean ====
section
/-! DEFINITION. Where a context's optimiser state lies (R202, R203, R219), what a publishing commit makes live
(R196, R200, R220, R288), and the records of the delta stream (R223 to R225). -/

namespace Sys2Proof.Machine

/-! ### Keys -/

/-- Key of the parity of shard block `j` of tensor `n` in a parity table. -/
def parityKey (tb : Bool) (n j : Nat) : Nat := (b2n tb * 4096 + n) * 4294967296 + j

/-- Key of master word `e` of a shard block in a slot. -/
def masterKey (slot : Bool) (n j e : Nat) : Nat := (parityKey slot n j) * 64 + e

/-- Key of a moment word: plane 0 or 1. -/
def momentKey (slot : Bool) (plane n j e : Nat) : Nat := ((plane * 2 + b2n slot) * 4096 + n) * 274877906944 + j * 64 + e

/-- The live slot of a shard block: its bit in parity table TABLE (R219). -/
def liveSlot (c : Ctx) (n j : Nat) : Bool := kget false c.parity (parityKey c.table n j)

/-- The planes of a tensor's rule: the master and its moments (R202). -/
def planesOf (c : Ctx) (t : Tensor) : Nat := if ruleOf c t = 1 then 3 else 2

/-- A live word of a plane: 0 the master, 1 and 2 the moments. -/
def liveWord (c : Ctx) (plane n j e : Nat) : BitVec 32 :=
  let b := liveSlot c n j
  if plane = 0 then kget 0 c.masters (masterKey b n j e) else kget 0 c.moments (momentKey b (plane - 1) n j e)

/-- The mirror of a slow-tier tensor (R204): the version word and the live slot. -/
def mirrorBytes (c : Ctx) (t : Tensor) : Bytes :=
  leBytes 8 c.versionWord ++ leBytes 8 (b2n (liveSlot c t.num 0)) ++ List.replicate 48 0

/-- Where block `j` of a slot of a slow-tier tensor's masters lies (R204). -/
def slowAddr (t : Tensor) (slot : Bool) (j : Nat) : Nat := t.window + 256 * t.shardBlocks * b2n slot + 256 * j

/-- Writes the mirror of a slow-tier tensor, once the writes `after` are observed (R204, R349). -/
def writeMirror (s : State) (n : Nat) (c : Ctx) (t : Tensor) (after : List Nat) : State :=
  writeHostAfter s n .mirror (t.window + 512 * t.shardBlocks) (mirrorBytes c t) after

/-- Writes a block of a slow-tier tensor's masters into a slot (R204). -/
def writeMaster (s : State) (n : Nat) (t : Tensor) (slot : Bool) (j : Nat) (ws : List (BitVec 32)) : State :=
  writeHostVa s n .shadow (slowAddr t slot j) (ws.flatMap fun w => leBytes 4 w.toNat)

/-- Writes a word of a plane into a slot. -/
def putWord (c : Ctx) (slot : Bool) (plane n j e : Nat) (v : BitVec 32) : Ctx :=
  if plane = 0 then { c with masters := kset 0 c.masters (masterKey slot n j e) v }
  else { c with moments := kset 0 c.moments (momentKey slot (plane - 1) n j e) v }

/-- Writes the 64 words of a block. -/
def putBlock (c : Ctx) (slot : Bool) (plane n j : Nat) (ws : List (BitVec 32)) : Ctx :=
  (List.range 64).foldl (fun c e => putWord c slot plane n j e (ws.getD e 0)) c

/-! ### The flip (R196, R220) -/

/-- The inactive parity table once written: the live one with the bit of every updated block inverted. -/
def nextParity (c : Ctx) (upd : List (Nat × Nat)) : KMap Bool :=
  let lo := parityKey c.table 0 0
  let size := 4096 * 4294967296
  let live := c.parity.filter fun e => decide (lo ≤ e.1 ∧ e.1 < lo + size)
  let copied := live.foldl (fun m e => kset false m (e.1 - lo + parityKey (!c.table) 0 0) e.2) (kclear c.parity (parityKey (!c.table) 0 0) size)
  upd.foldl (fun m q => kset false m (parityKey (!c.table) q.1 q.2) (!liveSlot c q.1 q.2)) copied

/-- The groups whose tensors a step has updated. -/
def updatedGroups (c : Ctx) (upd : List (Nat × Nat)) : List Nat :=
  (upd.filterMap fun q => (tensorOf c q.1).map (·.group)).eraseDups

/-- The inactive update counts once written. -/
def nextCounts (c : Ctx) (gs : List Nat) : KMap Nat :=
  (List.range 16).foldl (fun m g => kset 0 m (16 * b2n (!c.table) + g) ((groupCount c g + b2n (gs.contains g)) % 4294967296)) c.counts

/-- The ring ages of a tensor after a publishing commit of its context: the copy that is current then becomes age 0, the one just
written where the commit changed the tensor and the same as before where it did not, and the others grow older by one (R195,
R196). -/
def advanceRing (d : Nat) (changed : Bool) (t : Tensor) : Tensor :=
  if changed then { t with ages := freeCopy t :: t.ages.take d }
  else { t with ages := t.ages.take 1 ++ t.ages.take d }

/-- Whether a step's commit publishes (R195). -/
def Step.publishes (x : Step) : Bool := (x.shadowParity != [] || x.shadowCopies != []) && !x.skipped

/-- One write of the version word with the ring ages (R220). -/
def flipVersion (c : Ctx) (x : Step) : Ctx :=
  if x.publishes then
    { c with
      parity := nextParity c x.shadowParity, counts := nextCounts c (updatedGroups c x.shadowParity)
      table := !c.table, vseq := (c.vseq + 1) % 2 ^ 63
      tensors := c.tensors.map fun t => advanceRing c.stashD (x.shadowCopies.contains t.num) t }
  else c

/-- The parities of accumulators and of resident ranges, and the thinning position, at a commit (R200, R287, R288). -/
def flipParities (c : Ctx) (img : Image) (x : Step) : Ctx :=
  { c with
    accParity := x.accWritten.foldl (fun m a => kset false m a (!kget false m a)) c.accParity
    resParity := x.shadowRanges.foldl (fun m a => kset false m a (!kget false m a)) c.resParity
    thinPos := if img.thinRole = 1 then (c.thinPos + 1) % c.thinN else if img.thinRole = 2 then 0 else c.thinPos }

/-! ### Delta records (R223 to R225) -/

/-- Length of the leading run of words that `p` holds of, at most 65,535. -/
def runLen (p : BitVec 32 → Bool) (ws : List (BitVec 32)) : Nat := min 65535 (ws.takeWhile p).length

/-- The canonical segments of a record's words (R225). -/
def encodeWords : Nat → List (BitVec 32) → Bytes
  | 0, _ => []
  | fuel + 1, ws =>
    if ws.all (· == 0) then []
    else
      let z := runLen (· == 0) ws
      let r := ws.drop z
      let l := runLen (· != 0) r
      leBytes 4 (z + l * 65536) ++ (r.take l).flatMap (fun w => leBytes 4 w.toNat) ++ encodeWords fuel (r.drop l)

/-- Decodes segments into `n` words, trailing zeros filled in (R225). -/
def decodeWords : Nat → Nat → Bytes → List (BitVec 32)
  | 0, n, _ => List.replicate n 0
  | fuel + 1, n, b =>
    if b.length < 4 then List.replicate n 0
    else
      let z := min n (leAt b 0 2)
      let l := min (n - z) (leAt b 2 2)
      List.replicate z 0 ++ ((List.range l).map fun i => BitVec.ofNat 32 (leAt b (4 + 4 * i) 4)) ++ decodeWords fuel (n - z - l) (b.drop (4 + 4 * l))

/-- A record: header and payload (R224). -/
def deltaRecord (kind plane n first blocks commit : Nat) (payload : Bytes) : Bytes :=
  leBytes 4 (kind + plane * 2 ^ 8 + n * 2 ^ 12) ++ leBytes 4 first ++ leBytes 4 blocks ++ leBytes 4 payload.length ++ leBytes 8 commit ++
    leBytes 4 (crc32c payload) ++ leBytes 4 0 ++ payload

/-- A record of words. -/
def wordRecord (kind plane n first commit : Nat) (ws : List (BitVec 32)) : Bytes :=
  deltaRecord kind plane n first (ws.length / 64) commit (encodeWords (ws.length + 1) ws)

/-- The END record of a commit: the update counts (R224). -/
def endRecord (c : Ctx) (commit : Nat) : Bytes :=
  deltaRecord 4 0 0 0 0 commit ((List.range 16).flatMap fun g => leBytes 4 (groupCount c g))

/-- Consecutive blocks grouped into runs: first block and words. -/
def blockRuns : List (Nat × List (BitVec 32)) → List (Nat × List (BitVec 32))
  | [] => []
  | (j, ws) :: t =>
    match blockRuns t with
    | (k, vs) :: r => if k = j + 1 then (j, ws ++ vs) :: r else (j, ws) :: (k, vs) :: r
    | [] => [(j, ws)]

/-- The records of one plane of one tensor of a commit, over runs of consecutive updated blocks. -/
def planeRecords (deltas : List (Nat × Nat × Nat × List (BitVec 32))) (n plane commit : Nat) : Bytes :=
  let bs := ((deltas.filter fun d => decide (d.1 = n ∧ d.2.1 = plane)).map fun d => d.2.2).mergeSort fun a b => decide (a.1 ≤ b.1)
  (blockRuns bs).flatMap fun r => wordRecord 1 plane n r.1 commit r.2

/-- What a publishing commit releases to the checkpoint stream: ascending TENSOR, then plane, then block, and END. -/
def commitRecords (c : Ctx) (x : Step) (commit : Nat) : Bytes :=
  let ts := ((x.deltas.map (·.1)).eraseDups).mergeSort fun a b => decide (a ≤ b)
  (ts.flatMap fun n => (List.range 3).flatMap fun p => planeRecords x.deltas n p commit) ++ endRecord c commit

/-- Ends a sender's stream: its staged records are freed, and a CKPT_STREAM_STOP that waits replies. -/
def endSender (s : State) (n : Nat) (k : CkptStream) : State :=
  let s := updCtx s n fun c => { c with sender := none }
  let s := { s with slory := { s.slory with tx := s.slory.tx.filter fun f => !decide (f.op = 5 ∧ f.ctx = n) } }
  match k.stopping with
  | some q => endCmd s (.ctx n) q { status := stOk, result := k.lastAcked }
  | none => s

/-- Breaks a checkpoint stream: an event entry, the log, the context's vector; later commits emit nothing (R227). A
CKPT_STREAM_START that still waits ends with the same status. -/
def breakStream (s : State) (n status : Nat) : State :=
  match ctxOf s n with
  | none => s
  | some c =>
    match c.sender with
    | none => s
    | some k =>
      let s := endSender (setCtx s n { c with ckptWait := none }) n k
      let s := match c.ckptWait with
        | some q => endCmd s (.ctx n) q (plain status)
        | none => s
      let s := logErr s 0x0702 (some n) (Config.errDetail 0x0702 [k.peer, k.peerDomain])
      sendVector (postEvent s n { status := status, event := 1, detail1 := k.lastAcked }) n

end Sys2Proof.Machine
end

