-- ==== Sys2Proof/Machine/Vector.lean ====
section
/-! DEFINITION. The vector station's operations (R136 to R139, R144). An instruction processes every tile of its
SRC_A stream; while an operand tile has not arrived the station waits and only STATION_SLIP advances (R145). -/

namespace Sys2Proof.Machine

/-- An operation on three operands in the computation format, with DST's format. -/
abbrev VecFn := Fmt → Fmt → FV → FV → FV → Nat × Nat

/-- An operation whose result in the computation format is then converted into DST's format (R38). -/
def rounded (g : Fmt → FV → FV → FV → Nat × Nat) : VecFn := fun cf df a b c =>
  let r := g cf a b c
  let q := fconv cf df r.1
  (q.1, r.2 ||| q.2)

/-- One element of an element-wise instruction. -/
def elemResult (g : VecFn) (cf df : Fmt) (bcast : Bool) (da : Desc) (a b c : Option (Desc × List (List (Option Bytes))))
    (n i j : Nat) : Nat × Nat :=
  let va := widen cf (operandFmt a) (operandBits a n i j)
  let nb := bTile da b bcast n
  let vb := widen cf (operandFmt b) (operandBits b nb i (if bcast then 0 else j))
  let vc := widen cf (operandFmt c) (operandBits c n i j)
  let r := g cf df va.1 vb.1 vc.1
  (r.1, r.2 ||| va.2 ||| vb.2 ||| vc.2)

/-- An element-wise instruction with operation code `vop`: SRC_B and SRC_C are read where `useB`, `useC`. -/
def vecElem (vop : Nat) (useB useC : Bool) (lanes : Bool → Nat) (g : VecFn) (st sp stall : Nat) (s : State) : State :=
  match nextIns s st (2000 + sp) (fun img => kget [] img.vectors sp) (·.cycle) with
  | none => s
  | some (x, img, _, u, ins) =>
    if ins.vop = vop then
      match operandTiles s img x true ins.srcA ins.cycle, operandTiles s img x useB ins.srcB ins.cycle,
          operandTiles s img x useC ins.srcC ins.cycle, descOf img x ins.dst with
      | some (some a), some b, some c, some d =>
        stationRun s img x (2000 + sp) sp u stall ins.dst d ins.cycle (fun n => readTag img x ins.srcA n a.1)
          (elemResult g (precFmt ins.prec) d.fmt ins.bcast a.1 (some a) b c)
          (fun n i j => (ins.cycle + laneGroup d (lanes ins.prec) n i j, .station n i j u.next))
      | _, _, _, _ => waitFor s x (2000 + sp) u stall 0 ([ins.srcA] ++ (if useB then [ins.srcB] else []) ++ if useC then [ins.srcC] else [])
    else s

/-- Lanes of the operations at the full rate (R144). -/
def fullLanes (prec : Bool) : Nat := if prec then 128 else 512

/-- Lanes of the division operations (R144). -/
def divLanes (_ : Bool) : Nat := 128

/-- 1.0 of a format. -/
def oneOf (f : Fmt) : Nat := f.bias <<< f.fbits

/-- CMP: the relation named by ARG, 1.0 or +0.0; a NaN gives +0.0 with NI (R137). -/
def cmpFn (arg : Nat) (cf : Fmt) (a b _c : FV) : Nat × Nat :=
  if niOf [a, b] = 1 then (0, 1)
  else
    let t := match arg with
      | 0 => fltV false a b
      | 1 => fltV false a b || feqV a b
      | _ => feqV a b
    (if t then oneOf cf else 0, 0)

/-- ABS and NEG: exact; NaN gives the default NaN with NI (R137). -/
def signFn (f : FV → FV) (cf : Fmt) (a _b _c : FV) : Nat × Nat := ((fcvt cf (f a)).1, niOf [a])

/-- SCALE: a × 2^ARG with one rounding (R137). -/
def scaleFn (arg : Nat) (cf : Fmt) (a _b _c : FV) : Nat × Nat :=
  let r := fcvt cf (a.scale (signed 16 arg))
  (r.1, r.2 ||| niOf [a])

/-- The ARG of the instruction a station is about to issue. -/
def nextArg (s : State) (st key : Nat) (listOf : Image → List VecIns) : Nat :=
  match nextIns s st key listOf (·.cycle) with
  | some (_, _, _, _, ins) => ins.arg
  | none => 0

/-- ADD: a + b. -/
def execAdd (st sp stall : Nat) (s : State) : Host.Outcome State Fault Refusal :=
  .next (vecElem 0x01 true false fullLanes (rounded fun f a b _ => fadd f a b) st sp stall s)

/-- SUB: a − b. -/
def execSub (st sp stall : Nat) (s : State) : Host.Outcome State Fault Refusal :=
  .next (vecElem 0x02 true false fullLanes (rounded fun f a b _ => fsub f a b) st sp stall s)

/-- MUL: a × b. -/
def execMul (st sp stall : Nat) (s : State) : Host.Outcome State Fault Refusal :=
  .next (vecElem 0x03 true false fullLanes (rounded fun f a b _ => fmulV f a b) st sp stall s)

/-- FMA: a × b + c, one rounding. -/
def execFma (st sp stall : Nat) (s : State) : Host.Outcome State Fault Refusal :=
  .next (vecElem 0x04 true true fullLanes (rounded fun f a b c => ffma f a b c) st sp stall s)

/-- MIN: lesser of a and b under R41. -/
def execMin (st sp stall : Nat) (s : State) : Host.Outcome State Fault Refusal :=
  .next (vecElem 0x05 true false fullLanes (rounded fun f a b _ => fminV f a b) st sp stall s)

/-- MAX: greater of a and b under R41. -/
def execMax (st sp stall : Nat) (s : State) : Host.Outcome State Fault Refusal :=
  .next (vecElem 0x06 true false fullLanes (rounded fun f a b _ => fmaxV f a b) st sp stall s)

/-- CMP: LT, LE or EQ by ARG. -/
def execCmp (st sp stall : Nat) (s : State) : Host.Outcome State Fault Refusal :=
  .next (vecElem 0x07 true false fullLanes
    (rounded (cmpFn (nextArg s st (2000 + sp) fun img => kget [] img.vectors sp))) st sp stall s)

/-- ABS: a with sign 0. -/
def execAbs (st sp stall : Nat) (s : State) : Host.Outcome State Fault Refusal :=
  .next (vecElem 0x08 false false fullLanes (rounded (signFn FV.magn)) st sp stall s)

/-- NEG: a with its sign inverted. -/
def execNeg (st sp stall : Nat) (s : State) : Host.Outcome State Fault Refusal :=
  .next (vecElem 0x09 false false fullLanes (rounded (signFn FV.flip)) st sp stall s)

/-- CVT: a in DST's format, rounded once (R38, R39); a NaN raises no flag. -/
def execCvt (st sp stall : Nat) (s : State) : Host.Outcome State Fault Refusal :=
  .next (vecElem 0x0A false false fullLanes (fun _ df a _ _ => fcvt df a) st sp stall s)

/-- SCALE: a × 2^ARG. -/
def execScale (st sp stall : Nat) (s : State) : Host.Outcome State Fault Refusal :=
  .next (vecElem 0x0B false false fullLanes
    (rounded (scaleFn (nextArg s st (2000 + sp) fun img => kget [] img.vectors sp))) st sp stall s)

/-- SELECT: a where c ≠ ±0, else b; a NaN c selects a. -/
def execSelect (st sp stall : Nat) (s : State) : Host.Outcome State Fault Refusal :=
  .next (vecElem 0x0C true true fullLanes (fun _ df a b c => fcvt df (if c.isZero then b else a)) st sp stall s)

/-- DIV: a / b, correctly rounded. -/
def execDiv (st sp stall : Nat) (s : State) : Host.Outcome State Fault Refusal :=
  .next (vecElem 0x10 true false divLanes (rounded fun f a b _ => fdivV f a b) st sp stall s)

/-- SQRT: correctly rounded square root. -/
def execSqrt (st sp stall : Nat) (s : State) : Host.Outcome State Fault Refusal :=
  .next (vecElem 0x11 false false divLanes (rounded fun f a _ _ => fsqrtV f a) st sp stall s)

/-- RECIP: 1 / a, as DIV. -/
def execRecip (st sp stall : Nat) (s : State) : Host.Outcome State Fault Refusal :=
  .next (vecElem 0x12 false false divLanes (rounded fun f a _ _ => fdivV f (.fin false 1 0) a) st sp stall s)

/-- RSQRT: 1 / √a, correctly rounded. -/
def execRsqrt (st sp stall : Nat) (s : State) : Host.Outcome State Fault Refusal :=
  .next (vecElem 0x13 false false divLanes (rounded fun f a _ _ => frsqrtV f a) st sp stall s)

/-! ### Row reductions (R138) -/

/-- A combining operation with its flags. -/
abbrev RowFn := Fmt → FV → FV → Nat × Nat

/-- Combines two partial results. -/
def comb (g : RowFn) (cf : Fmt) (p q : Nat × Nat) : Nat × Nat :=
  let r := g cf (fdec cf p.1) (fdec cf q.1)
  (r.1, r.2 ||| p.2 ||| q.2)

/-- ((e0 ∘ e1) ∘ (e2 ∘ e3)) ∘ ((e4 ∘ e5) ∘ (e6 ∘ e7)). -/
def rowTree (g : RowFn) (cf : Fmt) (e : Nat → Nat × Nat) : Nat × Nat :=
  comb g cf (comb g cf (comb g cf (e 0) (e 1)) (comb g cf (e 2) (e 3))) (comb g cf (comb g cf (e 4) (e 5)) (comb g cf (e 6) (e 7)))

/-- The reduction of row `i` over the tiles `ns`, from their elements. -/
def rowReduce (g : RowFn) (pre : Fmt → FV → Nat × Nat) (cf : Fmt) (d : Desc) (ts : List (List (Option Bytes)))
    (ns : List Nat) (i : Nat) : Nat × Nat :=
  let blocks := ns.flatMap fun n => (List.range (d.cols / 8)).map fun v =>
    rowTree g cf fun k =>
      let w := widen cf d.fmt (tileElem d (ts.getD n []) n i (8 * v + k))
      let r := pre cf w.1
      (r.1, r.2 ||| w.2)
  match blocks with
  | [] => (0, 0)
  | b :: t => t.foldl (comb g cf) b

/-- The tiles of SRC_A that result tile `n` reduces: one tile, or a grid row where DST has one tile per grid row. -/
def rowTilesOf (da dd : Desc) (n : Nat) : List Nat :=
  if dd.tiles = da.tiles then [n] else (List.range da.rowTiles).map (n * da.rowTiles + ·)

/-- A row reduction with operation code `vop`: the result in column 0, +0 in columns 1 to 7. -/
def vecRow (vop : Nat) (g : RowFn) (pre : Fmt → FV → Nat × Nat) (st sp stall : Nat) (s : State) : State :=
  match nextIns s st (2000 + sp) (fun img => kget [] img.vectors sp) (·.cycle) with
  | none => s
  | some (x, img, _, u, ins) =>
    if ins.vop = vop then
      match operandTiles s img x true ins.srcA ins.cycle, descOf img x ins.dst with
      | some (some a), some d =>
        let cf := precFmt ins.prec
        stationRun s img x (2000 + sp) sp u stall ins.dst d ins.cycle (fun n => readTag img x ins.srcA ((rowTilesOf a.1 d n).headD n) a.1)
          (fun n i j => if j = 0 then
              let r := rowReduce g pre cf a.1 a.2 (rowTilesOf a.1 d n) i
              let q := fconv cf d.fmt r.1
              (q.1, r.2 ||| q.2)
            else (0, 0))
          (fun n i _ => (ins.cycle + laneGroup a.1 (fullLanes ins.prec) ((rowTilesOf a.1 d n).headD n) i 0,
            .station ((rowTilesOf a.1 d n).headD n) i 0 u.next))
      | _, _ => waitFor s x (2000 + sp) u stall 0 [ins.srcA]
    else s

/-- An element as it stands. -/
def plainElem (cf : Fmt) (a : FV) : Nat × Nat := ((fcvt cf a).1, 0)

/-- ROW_SUM. -/
def execRowSum (st sp stall : Nat) (s : State) : Host.Outcome State Fault Refusal :=
  .next (vecRow 0x20 fadd plainElem st sp stall s)

/-- ROW_MAX. -/
def execRowMax (st sp stall : Nat) (s : State) : Host.Outcome State Fault Refusal :=
  .next (vecRow 0x21 fmaxV plainElem st sp stall s)

/-- ROW_SUMSQ: each element is squared with one rounding before the tree. -/
def execRowSumsq (st sp stall : Nat) (s : State) : Host.Outcome State Fault Refusal :=
  .next (vecRow 0x22 fadd (fun cf a => fmulV cf a a) st sp stall s)

/-! ### PART_ADD, POS, TRANSPOSE, FLAG_CLEAR -/

/-- The ordered sum of partials (R49): t = p₀, then t = round(t + p₁), and so on. -/
def partSum (cf : Fmt) : List (Nat × Nat) → Nat × Nat
  | [] => (0, 0)
  | p :: t => t.foldl (comb fadd cf) p

/-- PART_ADD: result tile n sums tiles n·m to n·m + m − 1 of SRC_A in ascending source index, m = ARG + 1. -/
def execPartAdd (st sp stall : Nat) (s : State) : Host.Outcome State Fault Refusal :=
  match nextIns s st (2000 + sp) (fun img => kget [] img.vectors sp) (·.cycle) with
  | none => .next s
  | some (x, img, _, u, ins) =>
    if ins.vop = 0x28 then
      match operandTiles s img x true ins.srcA ins.cycle, descOf img x ins.dst with
      | some (some a), some d =>
        let cf := precFmt ins.prec
        let m := ins.arg + 1
        .next (stationRun s img x (2000 + sp) sp u stall ins.dst d ins.cycle (fun n => readTag img x ins.srcA (n * m) a.1)
          (fun n i j =>
            let r := partSum cf ((List.range m).map fun k =>
              let w := widen cf a.1.fmt (operandBits (some a) (n * m + k) i j)
              ((fcvt cf w.1).1, w.2))
            let q := fconv cf d.fmt r.1
            (q.1, r.2 ||| q.2))
          (fun n i j => (ins.cycle + laneGroup d (fullLanes ins.prec) n i j, .station (n * m) i j u.next)))
      | _, _ => .next (waitFor s x (2000 + sp) u stall 0 [ins.srcA])
    else .next s

/-- An exact position as FP32 bits, converted into DST's format. -/
def posBits (f : Fmt) (k : Nat) : Nat × Nat := fcvt f (.fin false k 0)

/-- POS: every element holds its row position (ARG 0) or column position (ARG 1) (R139). With no SRC_A there is no version tag to pass
on, and the result has tag 0 (R127; DESIGN CHOICE, log entry 91). -/
def execPos (st sp stall : Nat) (s : State) : Host.Outcome State Fault Refusal :=
  match nextIns s st (2000 + sp) (fun img => kget [] img.vectors sp) (·.cycle) with
  | none => .next s
  | some (x, img, _, u, ins) =>
    if ins.vop = 0x30 then
      match descOf img x ins.dst with
      | some d =>
        .next (stationRun s img x (2000 + sp) sp u stall ins.dst d ins.cycle (fun _ => some 0)
          (fun n i j => posBits d.fmt (if ins.arg = 0 then (posOf d n i j).1 else (posOf d n i j).2))
          (fun n i j => (ins.cycle + laneGroup d 512 n i j, .station n i j u.next)))
      | none => .next s
    else .next s

/-- TRANSPOSE: element (j, i) of DST takes element (i, j) of a. -/
def execTranspose (st sp stall : Nat) (s : State) : Host.Outcome State Fault Refusal :=
  match nextIns s st (2000 + sp) (fun img => kget [] img.vectors sp) (·.cycle) with
  | none => .next s
  | some (x, img, _, u, ins) =>
    if ins.vop = 0x38 then
      match operandTiles s img x true ins.srcA ins.cycle, descOf img x ins.dst with
      | some (some a), some d =>
        .next (stationRun s img x (2000 + sp) sp u stall ins.dst d ins.cycle (fun n => readTag img x ins.srcA n a.1)
          (fun n i j => fconv a.1.fmt d.fmt (operandBits (some a) n j i))
          (fun n i j => (ins.cycle + laneGroup a.1 (fullLanes ins.prec) n j i, .station n j i u.next)))
      | _, _ => .next (waitFor s x (2000 + sp) u stall 0 [ins.srcA])
    else .next s

/-- A station FLAG_CLEAR (R144): ARG bit 0 is RECORD. -/
def stationClear (key : Nat) (listOf : Image → List VecIns) (st stall : Nat) (s : State) : State :=
  match nextIns s st key listOf (·.cycle) with
  | none => s
  | some (x, img, _, u, ins) =>
    if ins.vop = 0x3F then
      issueOr s img x key u ins.cycle stall (setStep s (x.setUnit key ((clearStation u ins.cycle (ins.arg.testBit 0)).issued stall 0)))
    else s

/-- FLAG_CLEAR of the vector station. -/
def execVectorFlagClear (st sp stall : Nat) (s : State) : Host.Outcome State Fault Refusal :=
  .next (stationClear (2000 + sp) (fun img => kget [] img.vectors sp) st stall s)

end Sys2Proof.Machine
end

