-- ==== Sys2Proof/Machine/Keystone.lean ====
section
/-! DEFINITION. Keystone entries (R211 to R218): the gradient buffer, the global norm, the update rules and the
slots and working copies they write. -/

namespace Sys2Proof.Machine

/-- Bits of 1.0 in FP32. -/
def one32 : Nat := 0x3F800000

/-- The update rule of a group on one element: the new master and moments, and the flags raised (R211). `sc` holds
lr, decay, c1, c2, step and rb2; `k` is the clip scale. -/
def keyRule (g : OptGroup) (sc : List Nat) (k w m v gr : Nat) : Nat × Nat × Nat × Nat :=
  let mul := fun a b => fmulV .fp32 (dec32 a) (dec32 b)
  let fma := fun a b c => ffma .fp32 (dec32 a) (dec32 b) (dec32 c)
  let neg := fun (a : Nat) => a ^^^ 0x80000000
  let lr := sc.getD 0 0
  let c1 := sc.getD 2 0
  let c2 := sc.getD 3 0
  let g1 := mul gr k
  let q := mul w (sc.getD 1 0)
  if g.rule = 0 then
    let m2 := fma g.beta1 m g1.1
    let w2 := fma (neg lr) m2.1 q.1
    (w2.1, m2.1, v, g1.2 ||| q.2 ||| m2.2 ||| w2.2)
  else if g.rule = 1 then
    let a := mul c1 g1.1
    let m2 := fma g.beta1 m a.1
    let gg := mul g1.1 g1.1
    let b := mul c2 gg.1
    let v2 := fma g.beta2 v b.1
    let r := fsqrtV .fp32 (dec32 v2.1)
    let d := fma r.1 (sc.getD 5 0) g.eps
    let e := fdivV .fp32 (dec32 m2.1) (dec32 d.1)
    let w2 := fma (neg (sc.getD 4 0)) e.1 q.1
    (w2.1, m2.1, v2.1, g1.2 ||| q.2 ||| a.2 ||| m2.2 ||| gg.2 ||| b.2 ||| v2.2 ||| r.2 ||| d.2 ||| e.2 ||| w2.2)
  else
    let a := mul c1 g1.1
    let c := fma g.beta1 m a.1
    let b := mul c2 g1.1
    let m2 := fma g.beta2 m b.1
    let sgn := if (dec32 c.1).isNan then Fmt.fp32.dnan else if (dec32 c.1).isZero then 0 else if (dec32 c.1).neg then neg one32 else one32
    let w2 := fma (neg lr) sgn q.1
    (w2.1, m2.1, v, g1.2 ||| q.2 ||| a.2 ||| c.2 ||| b.2 ||| m2.2 ||| niOf [dec32 c.1] ||| w2.2)

/-- The working-copy element of a master: one rounding of master × 2^SCALE_EXP (R193). -/
def workingOf (t : Tensor) (w : Nat) : Nat × Nat := fcvt (wfmtOf t.wfmt) ((dec32 w).scale t.scaleExp)

/-! ### Gradients -/

/-- The FP32 words of block `k` of a gradient stream, with the flags of each widening. -/
def gradBlock (s : State) (img : Image) (x : Step) (i : Nat) (d : Desc) (cyc k : Nat) : Option (List (Nat × Nat)) :=
  (sourceBlock s img x i d cyc k).map fun b => (List.range 64).map fun e => fconv d.fmt .fp32 (blockElem d.fmt b e)

/-- Whether stream `i` carries block lists: an UPDATE_LIST entry of the image reads it. -/
def carriesList (img : Image) (i : Nat) : Bool := img.keystones.any fun l => l.2.any fun k => decide (k.kop = 3 ∧ k.desc = i)

/-- The first `n` bytes of a stream's blocks, once they have all arrived. -/
def streamBytes (s : State) (img : Image) (x : Step) (i : Nat) (d : Desc) (cyc n : Nat) : Option Bytes :=
  ((List.range (ceilDiv n (max 1 d.blockBytes))).mapM (sourceBlock s img x i d cyc)).map fun l => slice l.flatten 0 n

/-- Index, in its tensor, of the block that a list entry names: the geometry is that of the first stream bound to the
tensor's working copy, otherwise that of the list's stream (DEDUCED, log entry 24). -/
def listIndex (img : Image) (x : Step) (n i br bc : Nat) : Nat :=
  let d := match img.binds.find? fun b => decide (b.kind = 2 ∧ b.count = n) with
    | some b => descOf img x b.stream
    | none => descOf img x i
  match d with
  | none => br + bc
  | some d =>
    let rb := max 1 (d.rows / 8)
    let cb := max 1 (d.cols / 8)
    ((br / rb) * d.rowTiles + bc / cb) * d.nb + (br % rb) * cb + bc % cb

/-- The entries of a block list, as shard blocks with their words (R113, R117). -/
def listBlocks (s : State) (img : Image) (x : Step) (t : Tensor) (i : Nat) (d : Desc) (cyc : Nat) : Option (List (Nat × List (Nat × Nat))) :=
  (streamBytes s img x i d cyc 16).bind fun h =>
    (streamBytes s img x i d cyc (16 + 264 * leAt h 0 4)).map fun b => (List.range (leAt h 0 4)).filterMap fun q =>
      let o := 16 + 264 * q
      let g := listIndex img x t.num i (leAt b o 4) (leAt b (o + 4) 2)
      if t.shardFirst ≤ g then some (g - t.shardFirst, (List.range 64).map fun e => (leAt b (o + 8 + 4 * e) 4, 0)) else none

/-- The gradient blocks that an entry reads from its stream, by shard block with the position in the entry; none while
one has not arrived. Block `j` of a gradient stream belongs to shard block `j` (DEDUCED, log entry 24). -/
def entryBlocks (s : State) (img : Image) (x : Step) (t : Tensor) (k : KeyIns) : Option (List (Nat × Nat × List (Nat × Nat))) :=
  match descOf img x k.desc with
  | none => none
  | some d =>
    if carriesList img k.desc then
      (listBlocks s img x t k.desc d k.cycle).map fun l => l.filterMap fun q =>
        (k.covers.findIdx? (· == q.1)).map fun i => (q.1, i, q.2)
    else (List.range k.blocks).mapM fun i => (gradBlock s img x k.desc d k.cycle (k.first + 8 * i)).map fun w => (k.first + 8 * i, i, w)

/-! ### The global norm (R213) -/

/-- The square of a gradient element in FP64, with its flags. -/
def squareOf (w : Nat) : Nat × Nat := let a := d32 w; fmulV .fp64 (dec64 a) (dec64 a)

/-- The norm of a block: each row in the tree of R138, rows ascending. -/
def blockNorm (ws : List Nat) : F64 :=
  let row := fun r => (rowTree (fun cf a b => fadd cf a b) .fp64 fun c => ((squareOf (ws.getD (8 * r + c) 0)).1, 0)).1
  (List.range 7).foldl (fun a r => dAdd a (row (r + 1))) (row 0)

/-- Whether every ACCEPT entry of the step has issued. -/
def acceptsDone (img : Image) (x : Step) : Bool :=
  img.keystones.all fun l => ((List.range l.2.length).zip l.2).all fun q => decide (q.2.kop ≠ 1) || img.hasIssued x (2300 + l.1) q.1

/-- The module's sum: the keystone sums added in ascending order. -/
def moduleNorm (x : Step) : F64 := (List.range 8).foldl (fun a b => dAdd a (kget 0 x.norms b)) 0

/-- Whether an FP64 value is NaN or infinite. -/
def dNonFinite (v : F64) : Bool := !(dec64 v).isFin

/-- The step once S is known: with SKIP_NONFINITE a non-finite S skips the update. -/
def takeNorm (c : Ctx) (x : Step) (v : F64) : Step := { x with total := some v, skipped := c.skipNonfinite && dNonFinite v }

/-- A single-module step knows S when its last ACCEPT has ended. -/
def settleNorm (c : Ctx) (img : Image) (x : Step) : Step :=
  if x.total.isNone ∧ normNeeded c ∧ !img.multi ∧ acceptsDone img x then takeNorm c x (moduleNorm x) else x

/-- The clip scale k (R213). -/
def clipScale (c : Ctx) (x : Step) : Nat :=
  match x.total with
  | none => one32
  | some v =>
    let n := dSqrt v
    if c.maxNorm = 0 || dNonFinite v then one32
    else if fltV false (dec64 (d32 c.maxNorm)) (dec64 n) then dTo32 (dDiv (d32 c.maxNorm) n)
    else one32

/-! ### Entries -/

/-- The next entry of a keystone. -/
def nextKey (s : State) (st b kop : Nat) : Option (Step × Image × Ctx × UnitSt × KeyIns) :=
  match nextIns s st (2300 + b) (fun img => kget [] img.keystones b) (·.cycle) with
  | some (x, img, c, u, k) => if k.kop = kop then some (x, img, c, u, k) else none
  | none => none

/-- Adds the work of `n` blocks of `m` bytes to a step's activity. -/
def keyActivity (x : Step) (n m : Nat) : Step :=
  { x with activity := { x.activity with stations := x.activity.stations + n, memory := x.activity.memory + n * ceilDiv m 128 } }

/-- One block of an ACCEPT: into the gradient buffer, with its norm (R213, R214). -/
def acceptBlock (c : Ctx) (b : Nat) (k : KeyIns) (p : Step × UnitSt) (q : Nat × Nat × List (Nat × Nat)) : Step × UnitSt :=
  let cyc := k.cycle + q.2.1
  let ws := q.2.2.map (·.1)
  let u := (List.range 64).foldl (fun u e =>
    let u := u.raise cyc (.keystone k.tensor q.1 e 0) (q.2.2.getD e (0, 0)).2
    if normNeeded c then u.raise cyc (.keystone k.tensor q.1 e 3) (squareOf (ws.getD e 0)).2 else u) p.2
  let buf := (List.range 64).foldl (fun m e => kput m (masterKey false k.tensor q.1 e) (BitVec.ofNat 32 (ws.getD e 0))) p.1.gradBuf
  let x := { p.1 with gradBuf := buf }
  (if normNeeded c then { x with norms := kset 0 x.norms b (dAdd (kget 0 x.norms b) (blockNorm ws)) } else x, u)

/-- ACCEPT (R214). -/
def execAccept (st b stall : Nat) (s : State) : Host.Outcome State Fault Refusal :=
  match nextKey s st b 1 with
  | none => .next s
  | some (x, img, c, u, k) =>
    match (tensorOf c k.tensor).bind fun t => entryBlocks s img x t k with
    | none => .next (waitFor s x (2300 + b) u stall 0 [k.desc])
    | some qs =>
      let r := qs.foldl (acceptBlock c b k) (x, u)
      let y := keyActivity (r.1.setUnit (2300 + b) (r.2.issued stall 0)) qs.length 256
      .next (issueOr s img x (2300 + b) u k.cycle stall (setStep s (settleNorm c img y)))

/-- The bytes of the new working copy and of the slots of one updated block, and its delta words (R211, R212, R220). -/
def updateBlock (t : Tensor) (k : KeyIns) (cpb scale : Nat) (sc : List Nat) (p : State × Ctx × Step × UnitSt)
    (q : Nat × Nat × List (Nat × Nat)) : State × Ctx × Step × UnitSt :=
  let (s, c, x, u) := p
  let j := q.1
  let cyc := k.cycle + q.2.1 * cpb
  let g := c.groups.getD t.group {}
  let old := fun e => if t.slow then kget 0 x.slowMasters (masterKey false t.num j e) else liveWord c 0 t.num j e
  let rs := (List.range 64).map fun e =>
    keyRule g sc scale (old e).toNat (liveWord c 1 t.num j e).toNat (liveWord c 2 t.num j e).toNat (q.2.2.getD e (0, 0)).1
  let wk := rs.map fun r => workingOf t r.1
  let u := (List.range 64).foldl (fun u e =>
    ((u.raise cyc (.keystone t.num j e 0) (q.2.2.getD e (0, 0)).2).raise cyc (.keystone t.num j e 1) (rs.getD e (0, 0, 0, 0)).2.2.2).raise
      cyc (.keystone t.num j e 2) (wk.getD e (0, 0)).2) u
  let word := fun (pl e : Nat) =>
    let r := rs.getD e (0, 0, 0, 0)
    BitVec.ofNat 32 (if pl = 0 then r.1 else if pl = 1 then r.2.1 else r.2.2.1)
  let slot := !liveSlot c t.num j
  let planes := List.range (planesOf c t)
  let deltas := planes.map fun pl => (t.num, pl, j, (List.range 64).map fun e => word pl e ^^^ (if pl = 0 then old e else liveWord c pl t.num j e))
  let words := fun pl => (List.range 64).map (word pl)
  let s := if t.slow then
      tagWrites s (writeMaster s x.ctx t slot j (words 0)) x.id cyc
    else s
  let f := wfmtOf t.wfmt
  let c := planes.foldl (fun c pl => if pl = 0 ∧ t.slow then c else putBlock c slot pl t.num j (words pl)) c
  let c := putCopy c t (freeCopy t) ((t.shardFirst + j) * 64 * f.size) (blockOf f (wk.map (·.1)))
  let x := { x with shadowParity := x.shadowParity ++ [(t.num, j)]
                    deltas := if c.sender.isSome then x.deltas ++ deltas else x.deltas }
  (s, c, x, u)

/-- The slow-tier blocks of an entry whose master has not arrived (R217). -/
def mastersMissing (x : Step) (t : Tensor) (js : List Nat) : List Nat :=
  if t.slow then js.filter fun j => (kfind x.slowMasters (masterKey false t.num j 0)).isNone else []

/-- Issues the host reads of the live masters that are neither here nor on their way (R204, R217). -/
def readMasters (s : State) (c : Ctx) (x : Step) (t : Tensor) (js : List Nat) : State :=
  js.foldl (fun s j =>
    if s.host.reads.any fun r => decide (r.owner = .master x.id t.num j) then s
    else issueRead s (some x.ctx) (.master x.id t.num j) (slowAddr t (liveSlot c t.num j) j) 256) s

/-- The lines that an update reads, as plane, shard block and half: the live masters in stacked memory and the live moments
(R204, R216). -/
def updateReads (c : Ctx) (t : Tensor) (js : List Nat) : List (Nat × Nat × Nat) :=
  js.flatMap fun j => (List.range (planesOf c t)).flatMap fun pl => if pl = 0 ∧ t.slow then [] else [(pl, j, 0), (pl, j, 1)]

/-- The address of a line that an update reads. -/
def updateLine (s : State) (c : Ctx) (t : Tensor) (l : Nat × Nat × Nat) : Nat :=
  tensorPa s c t.num (planeArea l.1 (liveSlot c t.num l.2.1)) (256 * l.2.1 + 128 * l.2.2)

/-- Wrong data in the live words that an update reads (R240). -/
def spoilWords (c : Ctx) (t : Tensor) (ls : List (Nat × Nat × Nat)) (e : Nat × Nat × Bytes) : Ctx :=
  match ls[e.1]? with
  | some (pl, j, h) => (List.range 8).foldl (fun c i =>
      putWord c (liveSlot c t.num j) pl t.num j (32 * h + 8 * (e.2.1 % 4) + i) (BitVec.ofNat 32 (leAt e.2.2 (4 * i) 4))) c
  | none => c

/-- What an updated block writes on the keystone's private port: the shadow slots and the working copy (R216, R236). -/
def storeUpdated (img : Image) (c : Ctx) (x : Step) (t : Tensor) (ecc : Ecc) (s : State) (j : Nat) : State :=
  let size := (wfmtOf t.wfmt).size
  let s := (List.range (planesOf c t)).foldl (fun s pl =>
    if pl = 0 ∧ t.slow then s
    else storeTensor s img c x t.num (planeArea pl (!liveSlot c t.num j)) (256 * j) (List.replicate 256 0) ecc) s
  storeTensor s img c x t.num (freeCopy t) ((t.shardFirst + j) * 64 * size) (List.replicate (64 * size) 0) ecc

/-- The result of an update entry on the blocks `qs`; a step that S skips changes nothing (R213). A master or moment that
cannot be read ends the step with ST_MEM_UE (R222, R243). `eccs` is what the symbol code reports of the lines read, and after
the last of them of the entry that a write displaces. -/
def updateBlocks (s : State) (x : Step) (img : Image) (c : Ctx) (u : UnitSt) (k : KeyIns) (t : Tensor) (b stall cpb : Nat) (eccs : List Ecc)
    (qs : List (Nat × Nat × List (Nat × Nat))) : State :=
  match mastersMissing x t (qs.map (·.1)) with
  | j :: js =>
    match s.host.reads.find? fun r => r.failed && (j :: js).any fun i => decide (r.owner = .master x.id t.num i) with
    | some r => failStep s x (memoryReply 1 r.addr)
    | none => waitUnit (readMasters s c x t (j :: js)) x (2300 + b) u stall 0
  | [] =>
    let ls := updateReads c t (qs.map (·.1))
    match checkLines s (ls.map (updateLine s c t)) eccs .stepRead with
    | (s, some rec) => failStep s x (memUe rec)
    | (s, none) =>
      let c := (wrongData eccs).foldl (spoilWords · t ls) c
      issueOr s img x (2300 + b) u k.cycle stall <|
      if x.skipped ∨ qs = [] then setStep (setCtx s x.ctx c) (x.setUnit (2300 + b) (u.issued stall 0))
      else
        let sc := ((x.scalars.find? fun p => decide (p.1 = t.group)).map (·.2)).getD []
        let c := if x.shadowCopies.contains t.num then c else wholeCopy c t
        let r := qs.foldl (updateBlock t k cpb (clipScale c x) sc) (s, c, noteCopy x t.num, u)
        let s := setStep (setCtx r.1 x.ctx r.2.1) (keyActivity (r.2.2.1.setUnit (2300 + b) (r.2.2.2.issued stall 0)) qs.length (512 * planesOf c t + 128))
        (qs.map (·.1)).foldl (storeUpdated img c x t ((eccs.find? fun v => decide (v.line = ls.length)).getD .ok).alone) s

/-- UPDATE (R211, R214): from the gradient buffer where DESC is 0, otherwise directly from the stream. With clipping or
skipping it does not issue before S is known. -/
def execUpdate (st b stall : Nat) (eccs : List Ecc) (s : State) : Host.Outcome State Fault Refusal :=
  match nextKey s st b 2 with
  | none => .next s
  | some (x, img, c, u, k) =>
    let x := settleNorm c img x
    match tensorOf c k.tensor with
    | none => .next s
    | some t =>
      if normNeeded c && x.total.isNone then .next (waitUnit s x (2300 + b) u stall 0)
      else
        let qs := if k.desc = 0 then
            some ((List.range k.blocks).map fun i =>
              let j := k.first + 8 * i
              (j, i, (List.range 64).map fun e => ((kget 0 x.gradBuf (masterKey false k.tensor j e)).toNat, 0)))
          else entryBlocks s img x t k
        match qs with
        | none => .next (waitFor s x (2300 + b) u stall 0 [k.desc])
        | some qs => .next (updateBlocks s x img c u k t b stall (updateCycles c t (decide (k.desc = 0))) eccs qs)

/-- UPDATE_LIST (R117, R214): the blocks of the entry's range that the list holds. -/
def execUpdateList (st b stall : Nat) (eccs : List Ecc) (s : State) : Host.Outcome State Fault Refusal :=
  match nextKey s st b 3 with
  | none => .next s
  | some (x, img, c, u, k) =>
    let x := settleNorm c img x
    match tensorOf c k.tensor with
    | none => .next s
    | some t =>
      if normNeeded c && x.total.isNone then .next (waitUnit s x (2300 + b) u stall 0)
      else
        match entryBlocks s img x t k with
        | none => .next (waitFor s x (2300 + b) u stall 0 [k.desc])
        | some qs => .next (updateBlocks s x img c u k t b stall (updateCycles c t false) eccs qs)

/-- FLAG_CLEAR of a keystone: as R144, with FIRST bit 0 = RECORD. -/
def execKeystoneFlagClear (st b stall : Nat) (s : State) : Host.Outcome State Fault Refusal :=
  match nextKey s st b 4 with
  | none => .next s
  | some (x, img, _, u, k) =>
    .next (issueOr s img x (2300 + b) u k.cycle stall
      (setStep s (x.setUnit (2300 + b) ((clearStation u k.cycle (k.first.testBit 0)).issued stall 0))))

end Sys2Proof.Machine
end

