-- ==== Sys2Proof/Machine/Optimiser.lean ====
section
/-! DEFINITION. OPT_CONFIG (R205 to R208, R366): the optimiser header, the group records and the tensor records. -/

namespace Sys2Proof.Machine

/-- Where the group records begin and end: the offset of each, and the offset of the first tensor record. -/
def groupOffsets (b : Bytes) : Nat → Nat → List Nat × Nat
  | 0, o => ([], o)
  | n + 1, o => let r := groupOffsets b n (o + 64 + 8 * (leAt b (o + 1) 1 % 128)); (o :: r.1, r.2)

/-- Whether FP32 bits lie in [0, 1). -/
def unit32 (x : Nat) : Bool := decide (x < 0x3F800000 ∨ x = 0x80000000)

/-- Whether FP32 bits are finite and not below 0. -/
def nonNeg32 (x : Nat) : Bool := fin32 x && decide (x < 2 ^ 31 ∨ x = 2 ^ 31)

/-- Whether FP32 bits are finite and above 0. -/
def pos32 (x : Nat) : Bool := fin32 x && decide (0 < x ∧ x < 2 ^ 31)

/-- Group record at offset `o` (R208). -/
def groupAt (b : Bytes) (o : Nat) : OptGroup :=
  let w := fun i => leAt b (o + 4 * i) 4
  { rule := w 0 % 4, sched := bit (w 0) 2, beta1 := w 1, beta2 := w 2, eps := w 3, wd := w 4, lrPeak := w 5, lrStart := w 6
    lrMin := w 7, warmup := w 8, decay := w 9
    points := (List.range (leAt b (o + 1) 1 % 128)).map fun i => (leAt b (o + 64 + 8 * i) 4, leAt b (o + 68 + 8 * i) 4) }

/-- Tensor record at offset `o` (R206). -/
def tensorAt (b : Bytes) (o : Nat) : Tensor :=
  let w := leAt b o 4
  { num := fld w 11 0, frozen := bit w 12, slow := bit w 13, wfmt := fld w 15 14, group := fld w 19 16, lists := bit w 20
    scaleExp := signed 6 (fld w 27 22), blocks := leAt b (o + 4) 4, shardFirst := leAt b (o + 8) 4, shardBlocks := leAt b (o + 12) 4
    window := leAt b (o + 16) 8 }

/-- The first of a list of checks that fails, by offset. -/
def firstFailed (l : List (Bool × Nat)) : Option Nat := (l.find? fun p => !p.1).map (·.2)

/-- The field of a group record at fault (R208). -/
def groupRecordFault (b : Bytes) (o : Nat) : Option Nat :=
  let g := groupAt b o
  let w := leAt b o 4
  firstFailed ([(decide (g.rule ≠ 3), o), (decide (fld w 7 3 = 0), o),
    (if g.sched then decide (1 ≤ g.points.length ∧ g.points.length ≤ 64) else decide (g.points = []), o + 1),
    (decide (fld w 31 15 = 0), o + 1), (unit32 g.beta1, o + 4),
    (if g.rule = 0 then decide (g.beta2 = 0) else unit32 g.beta2, o + 8),
    (if g.rule = 1 then pos32 g.eps else decide (g.eps = 0), o + 12),
    (nonNeg32 g.wd, o + 16), (nonNeg32 g.lrPeak, o + 20), (nonNeg32 g.lrStart, o + 24), (nonNeg32 g.lrMin, o + 28),
    (if g.sched then decide (g.decay = 0) else decide (1 ≤ g.decay), o + 36), (decide (leAt b (o + 40) 24 = 0), o + 40)] ++
    (List.range g.points.length).flatMap fun i =>
      let p := g.points.getD i (0, 0)
      [(decide (i = 0 ∨ (g.points.getD (i - 1) (0, 0)).1 < p.1), o + 64 + 8 * i), (nonNeg32 p.2, o + 68 + 8 * i)])

/-- Whether the window of a slow-tier tensor lies in one host-memory window of the context (R204, R207). -/
def slowWindowOk (c : Ctx) (t : Tensor) : Bool :=
  decide (t.window % 4096 = 0) &&
    c.windows.any fun w => decide (w.base ≤ t.window ∧ t.window + 512 * t.shardBlocks + 64 ≤ w.base + w.pages.length * 2097152)

/-- The field of a tensor record at fault (R206, R207); `groups` is the number of group records. -/
def tensorRecordFault (c : Ctx) (b : Bytes) (groups : Nat) (o : Nat) : Option Nat :=
  let t := tensorAt b o
  let w := leAt b o 4
  firstFailed ([(decide (fld w 31 28 = 0), o + 3), (decide (leAt b (o + 24) 8 = 0), o + 24)] ++
    (if t.frozen then
      [(!t.slow, o + 1), (decide (t.group = 0), o + 2), (!t.lists, o + 2), (decide (t.shardFirst = 0), o + 8),
        (decide (t.shardBlocks = 0), o + 12), (decide (t.window = 0), o + 16)]
    else
      [(decide (1 ≤ t.shardBlocks), o + 12), (decide (t.shardFirst + t.shardBlocks ≤ t.blocks), o + 8), (!(t.lists && t.slow), o + 2),
        (if t.slow then slowWindowOk c t else decide (t.window = 0), o + 16), (decide (t.group < groups), o + 2)]))

/-- Frames a registered tensor draws (R197, R374): each ring copy begins at a frame boundary; the masters in stacked
memory, the moments and the two parity tables follow one another (DESIGN CHOICE, log entry 25). -/
def tensorFrames (c : Ctx) (t : Tensor) : Nat :=
  let copy := ceilDiv (t.blocks * 64 * (wfmtOf t.wfmt).size) 2097152
  if t.frozen then copy
  else
    (c.stashD + 2) * copy +
      ceilDiv (512 * t.shardBlocks * (planesOf c t - b2n t.slow) + ceilDiv (2 * t.shardBlocks) 8) 2097152

/-- Frames of all registered tensors. -/
def optFrames (c : Ctx) : Nat := total (c.tensors.map (tensorFrames c))

/-- Whether a change of a record leaves the tensor unloaded (R366). -/
def sameTensor (a b : Tensor) : Bool :=
  decide (a.frozen = b.frozen ∧ a.slow = b.slow ∧ a.wfmt = b.wfmt ∧ a.blocks = b.blocks ∧ a.shardFirst = b.shardFirst ∧
    a.shardBlocks = b.shardBlocks)

/-- Registers or changes a tensor; RESET clears its moments and its bits in both parity tables (R206). -/
def registerTensor (c : Ctx) (t : Tensor) (reset : Bool) : Ctx :=
  let fresh := { t with ages := List.replicate (c.stashD + 1) 0, loaded := false }
  let c := match tensorOf c t.num with
    | some o =>
      let t' := if sameTensor o t then { t with ages := o.ages, loaded := o.loaded } else fresh
      { c with tensors := c.tensors.map fun q => if q.num = t.num then t' else q }
    | none => { c with tensors := c.tensors ++ [fresh] }
  if reset then
    { c with
      moments := [(false, 0), (true, 0), (false, 1), (true, 1)].foldl (fun m q => kclear m (momentKey q.1 q.2 t.num 0 0) 274877906944) c.moments
      parity := kclear (kclear c.parity (parityKey false t.num 0) 4294967296) (parityKey true t.num 0) 4294967296 }
  else c

/-- The context after an accepted OPT_CONFIG. -/
def optApplied (k : Ctx) (b : Bytes) (thin : Nat) (gs ts : List Nat) : Ctx :=
  let k := { k with
    maxNorm := leAt b 0 4, skipNonfinite := bit (leAt b 4 1) 0, groups := gs.map (groupAt b), thinPos := 0, thinN := thin + 1 }
  ts.foldl (fun k o => registerTensor k (tensorAt b o) (bit (leAt b o 4) 21)) k

/-- The offset in the parameter block of the first field that R205, R207 or R208 refuses. -/
def optFault (k : Ctx) (b : Bytes) (gs ts : List Nat) : Option Nat :=
  let nums := ts.map fun o => (tensorAt b o).num
  (firstFailed [(decide (leAt b 0 4 = 0) || pos32 (leAt b 0 4), 0), (decide (leAt b 4 12 / 2 = 0), 4)]).orElse fun _ =>
    ((List.range ts.length).findSome? fun i =>
      (tensorRecordFault k b gs.length (ts.getD i 0)).orElse fun _ =>
        if (nums.take i).contains (nums.getD i 0) then some (ts.getD i 0) else none).orElse fun _ =>
      gs.findSome? (groupRecordFault b)

/-- OPT_CONFIG. -/
def execOptConfig (r : RingId) (s : State) : Host.Outcome State Fault Refusal :=
  .next (withCtxCmd s r 0x0060 fun n k c =>
    let g := groupOffsets c.param (c.fld 298 294) 16
    let ts := (List.range (c.fld 312 300)).map fun i => g.2 + 32 * i
    let nums := ts.map fun o => (tensorAt c.param o).num
    if c.paramBytes ≠ g.2 + 32 * ts.length then refuseField s r c stBadParam 96
    else if ctxBusy s n then refusePlain s r c stBusy
    else
      match optFault k c.param g.1 ts with
      | some o => refuseAt s r c (1, o)
      | none =>
        if k.tensors.any fun t => !t.frozen && !nums.contains t.num && decide (g.1.length ≤ t.group) then refuseField s r c stBadParam 294
        else
          let k' := optApplied k c.param (c.fld 293 288) g.1 ts
          let drawn := k.drawn - optFrames k + optFrames k'
          if k.frames.length < drawn then endCmd s r c.seq (resourceReply 0x10 0)
          else endOk (setCtx s n { k' with drawn := drawn }) r c 0)

end Sys2Proof.Machine
end

