-- ==== Sys2Proof/Machine/StoreImage.lean ====
section
/-! DEFINITION. Store images (R299 to R302), the configuration record that says which keys may sign them (R387,
R388, R472), and the decoding of stored tensor data. -/

namespace Sys2Proof.Machine

/-! ### The configuration record (R387, R472) -/

/-- The record of manufacture (R472). -/
def factoryRecord : Bytes :=
  leBytes 4 0x4C5A0F02 ++ leBytes 4 0 ++ leBytes 8 0 ++ leBytes 64 Config.identityDigest.toNat ++ List.replicate 4804 0 ++
    leBytes 2 2500 ++ List.replicate 3306 0

/-- The bytes of a record; a record of no bytes stands for the one of manufacture. -/
def CfgRec.record (r : CfgRec) : Bytes := if r.bytes = [] then factoryRecord else r.bytes

/-- The image keys of a record that are not 0. -/
def imageKeys (b : Bytes) : List Nat := ((List.range 8).map fun i => leAt b (592 + 512 * i) 512).filter fun k => decide (k ≠ 0)

/-- The lowest VERSION accepted of an image. -/
def imageFloor (b : Bytes) (imageId : Nat) : Nat :=
  match (List.range 16).find? fun i => decide (leAt b (4692 + 12 * i) 8 = imageId ∧ imageId ≠ 0) with
  | some i => leAt b (4700 + 12 * i) 4
  | none => 0

/-- CAP_LIMIT_W of a record. -/
def recordCap (b : Bytes) : Nat := fld (leAt b 4884 2) 11 0

/-! ### Header and directory (R300, R301) -/

/-- Bytes of one store block. -/
def storeBlock : Nat := 1048576

/-- Tensor directory entries of an image. -/
def imgTensors (h : Bytes) : Nat := leAt h 20 2 + 1

/-- BYTES of an image. -/
def imgBytes (h : Bytes) : Nat := leAt h 24 8

/-- DATA_OFFSET of an image. -/
def imgData (h : Bytes) : Nat := leAt h 64 8

/-- IMAGE_ID. -/
def imgId (h : Bytes) : Nat := leAt h 8 8

/-- Store blocks of the data region. -/
def imgBlocks (h : Bytes) : Nat := (imgBytes h - imgData h) / storeBlock

/-- A tensor directory entry. -/
structure DirEnt where
  fmt : Fmt
  blocked : Bool
  packed : Bool
  comp : Nat
  planes : Nat
  rows : Nat
  cols : Nat
  blocks : Nat
  data : Nat
  bytes : Nat
  base : Nat
  deriving DecidableEq, Repr

/-- The format of SRC_FMT. -/
def srcFmt (k : Nat) : Fmt := match k with | 0 => .bf16 | 1 => .fp16 | 2 => .e4m3 | 3 => .e5m2 | _ => .fp32

/-- Directory entry `i`. -/
def dirEnt (h : Bytes) (i : Nat) : DirEnt :=
  let o := leAt h 40 8 + 64 * i
  let w := leAt h o 4
  { fmt := srcFmt (fld w 3 0), blocked := bit w 4, packed := bit w 5, comp := fld w 7 6, planes := fld w 9 8, rows := leAt h (o + 4) 4
    cols := leAt h (o + 8) 4, blocks := leAt h (o + 12) 4, data := leAt h (o + 16) 8, bytes := leAt h (o + 24) 8, base := leAt h (o + 32) 2 }

/-- Bytes of a tensor's decoded data. -/
def DirEnt.size (e : DirEnt) : Nat := 64 * e.fmt.size * e.blocks

/-- Bytes of the bitmap of zero-block elision. -/
def DirEnt.bitmap (e : DirEnt) : Nat := ceilDiv e.blocks 64 * 8

/-- The first of a list of checks that fails. -/
def failedAt (l : List (Bool × Nat)) : Option Nat := (l.find? fun p => !p.1).map (·.2)

/-- The offset of the first header field that R300 refuses. -/
def storeHeaderFault (h : Bytes) : Option Nat :=
  let d := imgData h
  failedAt [(decide (leAt h 0 4 = 0x4C5A0C01), 0), (decide (leAt h 4 2 = 1), 4), (decide (leAt h 6 2 = 0), 6), (decide (imgId h ≠ 0), 8),
    (decide (leAt h 22 2 = 0), 22), (decide (imgBytes h % storeBlock = 0 ∧ imgBytes h ≤ 1024 * 2 ^ 30 ∧ 0 < imgBytes h), 24),
    (decide (leAt h 40 8 % 64 = 0 ∧ 256 ≤ leAt h 40 8 ∧ leAt h 40 8 + 64 * imgTensors h ≤ d), 40),
    (decide (leAt h 48 8 % 64 = 0 ∧ 256 ≤ leAt h 48 8 ∧ leAt h 48 8 + 64 * imgBlocks h ≤ d), 48),
    (decide (256 ≤ leAt h 56 8 ∧ leAt h 56 8 + 512 ≤ d), 56),
    (decide (d % storeBlock = 0 ∧ 0 < d ∧ d ≤ imgBytes h), 64), (decide (leAt h 72 184 = 0), 72)]

/-- The offset of the first field of directory entry `i` that R301 refuses. -/
def storeEntryFault (h : Bytes) (i : Nat) : Option Nat :=
  let e := dirEnt h i
  let o := leAt h 40 8 + 64 * i
  let w := leAt h o 4
  let dense := e.rows * e.cols / 64
  failedAt [(decide (fld w 3 0 ≤ 4), o), (!e.packed || e.blocked, o), (decide (e.comp ≠ 3) && (decide (e.comp ≠ 1) || e.blocked), o),
    (decide (e.planes ≠ 3), o + 1), (decide (fld w 31 10 = 0), o + 1), (decide (e.rows % 8 = 0 ∧ 0 < e.rows), o + 4),
    (decide (e.cols % 8 = 0 ∧ 0 < e.cols), o + 8), (if e.packed then decide (e.blocks ≤ dense) else decide (e.blocks = dense), o + 12),
    (decide (imgData h ≤ e.data), o + 16),
    (decide (e.data + e.bytes + 256 * e.planes * e.blocks ≤ imgBytes h) && (decide (e.comp ≠ 0) || decide (e.bytes = e.size)) &&
      (decide (e.comp ≠ 1) || decide (e.bitmap ≤ e.bytes)), o + 24),
    (if e.comp = 2 then decide (leAt h 32 8 ≠ 0) else decide (e.base = 0), o + 32), (decide (leAt h (o + 34) 30 = 0), o + 34)]

/-- The offset of the first field of an image that R300 or R301 refuses. -/
def storeImageFault (h : Bytes) : Option Nat := (storeHeaderFault h).orElse fun _ => (List.range (imgTensors h)).findSome? (storeEntryFault h)

/-- What the signature covers: header, directory and digest table, in that order. -/
def signedPart (h : Bytes) : Bytes :=
  slice h 0 256 ++ slice h (leAt h 40 8) (64 * imgTensors h) ++ slice h (leAt h 48 8) (64 * imgBlocks h)

/-- Whether an image key of the record in force signed the image and its VERSION is not below the floor (R385, R388, R389). -/
def imageTrusted (s : State) (h : Bytes) : Bool :=
  let r := s.store.cfgForce.record
  decide (imageFloor r (imgId h) ≤ leAt h 16 4) &&
    (imageKeys r).any fun k => rsaVerify k (slice h (leAt h 56 8) 512) (sha512 (signedPart h))

/-- Whether a data block matches the digest table. -/
def blockTrusted (h : Bytes) (k : Nat) (b : Bytes) : Bool := decide (sha512 b = slice h (leAt h 48 8 + 64 * k) 64)

/-! ### Reading image bytes -/

/-- `n` bytes at image offset `o` of a data region that begins at `d`. -/
def dataBytes (d : Nat) (m : KMap Bytes) (o n : Nat) : Bytes :=
  let b := (o - d) / storeBlock
  let k := (o + n - d) / storeBlock
  slice ((List.range (k + 1 - b)).flatMap fun i => slice (kget [] m (b + i)) 0 storeBlock) (o - d - b * storeBlock) n

/-- The byte runs of an image that a load record reads: only its blocks where they lie as stored, otherwise the whole of
the tensor's data; and the moment planes. -/
def recordRuns (e : DirEnt) (first blocks : Nat) (moments : Bool) : List (Nat × Nat) :=
  let w := 64 * e.fmt.size
  (if e.comp = 0 ∧ e.blocked then (e.data + w * first, w * blocks) else (e.data, e.bytes)) ::
    (if moments then (List.range e.planes).map fun p => (e.data + e.bytes + 256 * (p * e.blocks + first), 256 * blocks) else [])

/-- The store blocks that byte runs touch, ascending. -/
def runBlocks (d : Nat) (rs : List (Nat × Nat)) : List Nat :=
  ((rs.foldl (fun (m : KMap Unit) r =>
    if r.2 = 0 then m
    else (List.range ((r.1 + r.2 - 1 - d) / storeBlock + 1 - (r.1 - d) / storeBlock)).foldl (fun m i => kput m ((r.1 - d) / storeBlock + i) ()) m) []).map (·.1))

/-! ### Decoding (R302) -/

/-- The decoded bytes of a tensor of COMP 00b or 01b. -/
def plainData (d : Nat) (m : KMap Bytes) (e : DirEnt) : Bytes :=
  let w := 64 * e.fmt.size
  if e.comp = 1 then
    let bits := leNat (dataBytes d m e.data e.bitmap)
    ((List.range e.blocks).foldl (fun (p : Bytes × Nat) i =>
      if bits.testBit i then (p.1 ++ dataBytes d m (e.data + e.bitmap + w * p.2) w, p.2 + 1) else (p.1 ++ List.replicate w 0, p.2)) ([], 0)).1
  else dataBytes d m e.data e.size

/-- The copy of a slot that is read first. -/
def StoreSlot.first (x : StoreSlot) : Option StoreCopy := if x.a.valid then some x.a else if x.b.valid then some x.b else none

/-- The slot in which the image of IMAGE_ID `k` is installed, and its bytes below DATA_OFFSET. -/
def installed (s : State) (k : Nat) : Option (Nat × Bytes) :=
  s.store.slots.findSome? fun q => q.2.first.bind fun c => if imgId c.head = k ∧ k ≠ 0 then some (q.1, c.head) else none

/-- Whether the base of an XOR-coded tensor is installed and has its shape. -/
def baseOk (s : State) (h : Bytes) (e : DirEnt) : Bool :=
  if e.comp ≠ 2 then true
  else match installed s (leAt h 32 8) with
    | none => false
    | some (_, bh) =>
      let q := dirEnt bh e.base
      decide (e.base < imgTensors bh ∧ q.fmt = e.fmt ∧ q.blocked = e.blocked ∧ q.packed = e.packed ∧ q.rows = e.rows ∧ q.cols = e.cols ∧
        q.blocks = e.blocks ∧ q.comp ≠ 2)

/-- Number of the first block of the base image among the blocks of a load: an image holds at most 2^20 blocks (R299). -/
def baseFrom : Nat := 1048576

/-- The blocks of the base image among the blocks of a load. -/
def baseBlocks (m : KMap Bytes) : KMap Bytes := (m.filter fun e => decide (baseFrom ≤ e.1)).map fun e => (e.1 - baseFrom, e.2)

/-- The decoded bytes of a tensor: an XOR-coded one over the decoded words of its base, whose header is `bh`. -/
def tensorData (h bh : Bytes) (m : KMap Bytes) (e : DirEnt) : Bytes :=
  if e.comp = 2 then
    let b := plainData (imgData bh) (baseBlocks m) (dirEnt bh e.base)
    let ws := decodeWords (e.bytes + 1) (e.size / 4) (dataBytes (imgData h) m e.data e.bytes)
    (List.range (e.size / 4)).flatMap fun i => leBytes 4 (leAt b (4 * i) 4 ^^^ (ws.getD i 0).toNat)
  else plainData (imgData h) m e

/-- The bits of element `i` of block `k`: as stored where blocked, otherwise row-major (R120, R308). -/
def dataElem (e : DirEnt) (b : Bytes) (k i : Nat) : Nat :=
  let w := e.fmt.size
  if e.blocked then leAt b (w * (64 * k + i)) w
  else
    let cb := max 1 (e.cols / 8)
    leAt b (w * ((8 * (k / cb) + i / 8) * e.cols + 8 * (k % cb) + i % 8)) w

end Sys2Proof.Machine
end

