-- ==== Sys2Proof/Machine/Weights.lean ====
section
/-! DEFINITION. Installing and loading weights, stopping and starting a service, and the pointer switch (R303 to
R319, R366). -/

namespace Sys2Proof.Machine

/-! ### Load records (R306, R307) -/

/-- Load records: tensor, source tensor, first source block, MOMENTS. -/
def loadRecords (b : Bytes) (n : Nat) : List (Nat × Nat × Nat × Bool) :=
  (List.range n).map fun i => (leAt b (32 * i) 2 % 4096, leAt b (32 * i + 2) 2, leAt b (32 * i + 4) 4, bit (leAt b (32 * i + 8) 1) 0)

/-- The first field of a load record that its own bits and the registration refuse (R307, first two rows). -/
def recordFault (c : Ctx) (b : Bytes) (src : Nat) (rs : List (Nat × Nat × Nat × Bool)) (i : Nat) : Option Nat :=
  let r := rs.getD i (0, 0, 0, false)
  let o := 32 * i
  failedAt [(decide (leAt b o 2 < 4096), o + 1), (decide (leAt b (o + 8) 24 / 2 = 0), o + 8), (!((rs.take i).any fun q => decide (q.1 = r.1)), o),
    ((match tensorOf c r.1 with | some t => decide (src ≠ 3) || !t.frozen | none => false), o),
    (decide (src ≠ 3 ∨ r.2.1 = 0), o + 2), (decide (src ≠ 3 ∨ r.2.2.1 = 0), o + 4), (decide (src ≠ 3) || !r.2.2.2, o + 8)]

/-- The first field of a load record that the image's directory refuses (R307, the other rows). -/
def recordImageFault (c : Ctx) (h : Bytes) (r : Nat × Nat × Nat × Bool) (i : Nat) : Option Nat :=
  match tensorOf c r.1 with
  | none => some (32 * i)
  | some t =>
    let e := dirEnt h r.2.1
    failedAt [(decide (r.2.1 < imgTensors h), 32 * i + 2), (decide (r.2.2.1 + t.blocks ≤ e.blocks), 32 * i + 4),
      (e.blocked || decide (r.2.2.1 = 0 ∧ 64 * t.blocks = e.rows * e.cols), 32 * i + 4),
      (!r.2.2.2 || (!t.frozen && decide (e.planes + 1 = planesOf c t)), 32 * i + 8)]

/-- The first failed image check over all load records. -/
def recordsImageFault (c : Ctx) (h : Bytes) (rs : List (Nat × Nat × Nat × Bool)) : Option Nat :=
  (List.range rs.length).findSome? fun i => recordImageFault c h (rs.getD i (0, 0, 0, false)) i

/-- Frames of the pending copies of tensors (R310, R374; the layout is log entry 25). -/
def pendingFrames (c : Ctx) (ns : List Nat) : Nat :=
  total (ns.map fun n =>
    match tensorOf c (n % 4096) with
    | none => 0
    | some t =>
      ceilDiv (t.blocks * 64 * (wfmtOf t.wfmt).size) 2097152 +
        (if t.frozen ∨ 4096 ≤ n then 0 else ceilDiv (256 * t.shardBlocks * planesOf c t) 2097152))

/-- Drops the pending copies of tensors and frees their frames. -/
def dropPending (c : Ctx) (ns : List Nat) : Ctx :=
  let gone := c.pendingTensors.filter fun n => ns.contains (n % 4096)
  { c with
    pendingTensors := c.pendingTensors.filter fun n => !ns.contains (n % 4096), drawn := c.drawn - pendingFrames c gone
    pendingMasters := ns.foldl (fun m n => kclear m (masterKey false n 0 0) 274877906944) c.pendingMasters
    pendingMoments := ns.foldl (fun m n => [(false, 0), (false, 1)].foldl (fun m q => kclear m (momentKey q.1 q.2 n 0 0) 274877906944) m) c.pendingMoments
    pendingCopies := ns.foldl (fun m n => kclear m (copyKey n 0 0) 1099511627776) c.pendingCopies }

/-! ### Placing a tensor (R193, R308, R309) -/

/-- The blocks of a loaded tensor as the load decodes them: masters in FP32, working elements, flags. -/
def loadedBlocks (t : Tensor) (e : DirEnt) (b : Bytes) (first : Nat) : List (List (Nat × Nat × Nat)) :=
  (List.range t.blocks).map fun k => (List.range 64).map fun i =>
    let v := fconv e.fmt .fp32 (dataElem e b (first + k) i)
    let w := workingOf t v.1
    (v.1, w.1, v.2 ||| w.2)

/-- Number of the read that brings live master block `j` of slow-tier tensor `num`, among the reads of a load with source
MASTER (R204, R308). -/
def masterRead (num j : Nat) : Nat := num * 4294967296 + j

/-- The working blocks that a tensor's live masters give, by shard block (R305 MASTER); `m` holds what the reads of slow-tier
masters have returned. -/
def remasteredBlocks (c : Ctx) (t : Tensor) (m : KMap Bytes) : List (List (Nat × Nat × Nat)) :=
  (List.range t.shardBlocks).map fun j => (List.range 64).map fun i =>
    let v := if t.slow then leAt (kget [] m (masterRead t.num j)) (4 * i) 4 else (liveWord c 0 t.num j i).toNat
    let w := workingOf t v
    (v, w.1, w.2)

/-- Elements of blocks whose flags hold bit `k`. -/
def flagged (k : Nat) (bs : List (List (Nat × Nat × Nat))) : Nat := total (bs.map fun b => (b.filter fun e => e.2.2.testBit k).length)

/-- The moment planes of a loaded tensor: from the image, or +0. -/
def loadedPlane (t : Tensor) (e : DirEnt) (d : Nat) (m : KMap Bytes) (first p : Nat) (moments : Bool) (j : Nat) : List (BitVec 32) :=
  (List.range 64).map fun i =>
    if moments then
      BitVec.ofNat 32 (fconv .fp32 .fp32 (leNat (dataBytes d m (e.data + e.bytes + 256 * (p * e.blocks + first + t.shardFirst + j) + 4 * i) 4))).1
    else 0

/-- Writes the working elements of blocks into a pending copy or a ring copy, from block `first` of the tensor on. -/
def putWorking (m : KMap (BitVec 16)) (n k first : Nat) (bs : List (List (Nat × Nat × Nat))) : KMap (BitVec 16) :=
  ksetRun 0 m (copyKey n k (64 * first)) (bs.flatMap fun b => b.map fun e => BitVec.ofNat 16 e.2.1)

/-- What a load gives for one tensor: the first block and the blocks, and the moment planes, none where masters and
moments keep their bits. -/
structure LoadedTensor where
  first : Nat
  blocks : List (List (Nat × Nat × Nat))
  planes : Option (List (List (List (BitVec 32))))

/-- One load record's decoded tensor. -/
def loadedTensor (c : Ctx) (j : LoadJob) (t : Tensor) (r : Nat × Nat × Nat × Bool) : LoadedTensor :=
  if j.source = 3 then ⟨t.shardFirst, remasteredBlocks c t j.blocks, none⟩
  else
    let e := dirEnt j.head r.2.1
    ⟨0, loadedBlocks t e (tensorData j.head j.baseHead j.blocks e) r.2.2.1,
      if t.frozen then none
      else some ((List.range (planesOf c t - 1)).map fun p => (List.range t.shardBlocks).map (loadedPlane t e (imgData j.head) j.blocks r.2.2.1 p r.2.2.2))⟩

/-- The masters of a loaded tensor, by shard block. -/
def LoadedTensor.masters (l : LoadedTensor) (t : Tensor) : List (List (BitVec 32)) :=
  ((l.blocks.drop t.shardFirst).take t.shardBlocks).map fun b => b.map fun e => BitVec.ofNat 32 e.1

/-- Adds a pending copy beside the live state. -/
def addPending (c : Ctx) (t : Tensor) (l : LoadedTensor) : Ctx :=
  let c := { c with pendingCopies := putWorking c.pendingCopies t.num 0 l.first l.blocks }
  match l.planes with
  | none => { c with pendingTensors := c.pendingTensors ++ [if t.frozen then t.num else 4096 + t.num] }
  | some ps =>
    { c with
      pendingMasters := ksetRun 0 c.pendingMasters (masterKey false t.num 0 0) (l.masters t).flatten
      pendingMoments := (List.range ps.length).foldl (fun m p => ksetRun 0 m (momentKey false p t.num 0 0) (ps.getD p []).flatten) c.pendingMoments
      pendingTensors := c.pendingTensors ++ [t.num] }

/-! ### The pointer switch (R317) -/

/-- Writes slow-tier masters into the live host slot, and the mirror once they are observed (R204, R308, R317, R349). -/
def writeSlow (s : State) (n : Nat) (t : Tensor) (ws : List (List (BitVec 32))) : State :=
  match ctxOf s n with
  | none => s
  | some c =>
    let s' := (List.range ws.length).foldl (fun s j => writeMaster s n t (liveSlot c t.num j) j (ws.getD j [])) s
    writeMirror s' n c t (issuedSince s s')

/-- 2 MiB pages of a working copy and of a slot of a plane. -/
def Tensor.pages (t : Tensor) : Nat × Nat := (ceilDiv (64 * (wfmtOf t.wfmt).size * t.blocks) 2097152, ceilDiv (256 * t.shardBlocks) 2097152)

/-- The whole of a tensor's new state is written: the lines that held its ring copy `k`, and under `planes` its masters and
moments, are poisoned no longer (R240, R319). -/
def cleanTensor (s : State) (c : Ctx) (t : Tensor) (k : Nat) (planes : Bool) : State :=
  let s := cleanArea s c t.num k t.pages.1
  if planes then
    (List.range (planesOf c t)).foldl (fun s pl =>
      cleanArea (cleanArea s c t.num (planeArea pl false) t.pages.2) c t.num (planeArea pl true) t.pages.2) s
  else s

/-- Words of 64 for each shard block, from a sparse plane. -/
def planeBlocks (m : KMap (BitVec 32)) (key : Nat → Nat) (n : Nat) : List (List (BitVec 32)) :=
  (List.range n).map fun j => (List.range 64).map fun e => kget 0 m (key (64 * j + e))

/-- Makes the loaded copy of a tensor current: a free ring copy that every age then names (R196). -/
def takeCopy (c : Ctx) (t : Tensor) (put : KMap (BitVec 16) → Nat → KMap (BitVec 16)) : Ctx :=
  let k := if t.frozen then 0 else freeCopy t
  let c := if t.frozen then c else wholeCopy c t
  { c with
    copies := put c.copies k
    tensors := c.tensors.map fun q => if q.num = t.num then { q with ages := List.replicate (c.stashD + 1) k, loaded := true } else q }

/-- Makes the masters and moments of a tensor live. -/
def takeWords (s : State) (n : Nat) (t : Tensor) (ms : List (List (BitVec 32))) (ps : List (List (List (BitVec 32)))) : State :=
  let s := if t.slow then writeSlow s n t ms else s
  updCtx s n fun c =>
    let c := if t.slow then c else (List.range ms.length).foldl (fun c j => putBlock c (liveSlot c t.num j) 0 t.num j (ms.getD j [])) c
    (List.range ps.length).foldl (fun c p =>
      (List.range (ps.getD p []).length).foldl (fun c j => putBlock c (liveSlot c t.num j) (p + 1) t.num j ((ps.getD p []).getD j [])) c) c

/-- Action 3 for one pending copy. -/
def switchTensor (s : State) (n k : Nat) : State :=
  match ctxOf s n with
  | none => s
  | some c =>
    match tensorOf c (k % 4096) with
    | none => s
    | some t =>
      let lo := copyKey t.num 0 0
      let whole := t.frozen || decide (k < 4096)
      let put := fun (m : KMap (BitVec 16)) (q : Nat) =>
        let m := if whole then kclear m (copyKey t.num q 0) 1099511627776
                 else kclear m (copyKey t.num q (64 * t.shardFirst)) (64 * t.shardBlocks)
        (c.pendingCopies.filter fun e => decide (lo ≤ e.1 ∧ e.1 < lo + 1099511627776)).foldl (fun m e => kput m (e.1 - lo + copyKey t.num q 0) e.2) m
      let s := cleanTensor (setCtx s n (takeCopy c t put)) c t (if t.frozen then 0 else freeCopy t) (!t.frozen && decide (k < 4096))
      if t.frozen ∨ 4096 ≤ k then s
      else takeWords s n t (planeBlocks c.pendingMasters (masterKey false t.num 0 0 + ·) t.shardBlocks)
        ((List.range (planesOf c t - 1)).map fun p => planeBlocks c.pendingMoments (momentKey false p t.num 0 0 + ·) t.shardBlocks)

/-- Action 4: refills the live range of the RESIDENT entries with FILLED = 1 whose source `sel` names. -/
def refill (s : State) (n : Nat) (sel : Image → Bind → Bool) : State :=
  match ctxOf s n with
  | none => s
  | some c => c.images.foldl (fun s q => (q.2.binds.filter fun w => decide (w.kind = 5) && w.filled && sel q.2 w).foldl (fun s w => fillResident q.2 c s w []) s) s

/-- Actions 5 and 6: the load generation advances, the diverged mark goes, and a checkpoint stream breaks. -/
def switchDone (s : State) (n : Nat) : State :=
  breakStream (updCtx s n fun c => { c with loadGen := c.loadGen + 1, diverged := false }) n stOk

/-- POINTER_SWITCH: WEIGHTS_SWAP waits, and no step of the context is admitted or kept. -/
def execPointerSwitch (n : Nat) (s : State) : Host.Outcome State Fault Refusal :=
  match ctxOf s n with
  | none => .next s
  | some c =>
    match c.swapWait with
    | none => .next s
    | some (seq, _) =>
      if c.service ≠ .stopped ∨ ctxBusy s n then .next s
      else
        let s := c.pendingTensors.foldl (fun s k => switchTensor s n k) s
        let s := updCtx s n fun c => { dropPending c (c.pendingTensors.map (· % 4096)) with swapWait := none }
        let s := switchDone (refill s n fun _ _ => true) n
        let gen := ((ctxOf s n).map fun c => c.loadGen.toNat).getD 0
        let s := updCtx s n fun c => { c with weightLog := shaBits (leBytes 64 c.weightLog.toNat ++ leBytes 4 gen) }
        .next (endCmd s (.ctx n) seq { status := stOk, result := gen })

/-! ### Service states (R314 to R316) -/

/-- Stops a running service; with DRAIN = 0 each queued step ends at once (R315). -/
def stopService (s : State) (n : Nat) (drain : Bool) : State :=
  match ctxOf s n with
  | none => s
  | some c =>
    if c.service ≠ .running then s
    else
      let s := setCtx s n { c with service := .stopping }
      let s := if drain then s
        else (s.steps.filter fun x => decide (x.ctx = n ∧ x.state = .queued) && !x.rerun).foldl (fun s x => endStep s x (plain stCtxStopped)) s
      stoppingEnd s n

/-- WEIGHTS_SWAP (R317): with no pending copy it is refused, naming the opcode field. -/
def execWeightsSwap (r : RingId) (s : State) : Host.Outcome State Fault Refusal :=
  .next (withCtxCmd s r 0x0051 fun n k c =>
    if k.swapWait.isSome then refusePlain s r c stBusy
    else if k.pendingTensors = [] then refuseField s r c stBadParam 0
    else stopService (acceptCmd (setCtx s n { k with swapWait := some (c.seq, c.desc.getLsbD 288) }) r c.seq) n (c.desc.getLsbD 288))

/-- SERVICE_STOP. -/
def execServiceStop (r : RingId) (s : State) : Host.Outcome State Fault Refusal :=
  .next (withCtxCmd s r 0x0052 fun n _ c => endOk (stopService s n (c.desc.getLsbD 288)) r c 0)

/-- SERVICE_START (R316). While WEIGHTS_SWAP waits, or slow-tier masters are being copied, the service counts as stopping, and
while a DIRECT load runs its tensors count as unloaded (log entry 26). -/
def execServiceStart (r : RingId) (s : State) : Host.Outcome State Fault Refusal :=
  .next (withCtxCmd s r 0x0053 fun n k c =>
    match k.service with
    | .running => endOk s r c 0
    | .stopping => refusePlain s r c stBusy
    | .stopped =>
      if k.swapWait.isSome then refusePlain s r c stBusy
      else if (k.tensors.any fun t => !t.loaded) || (k.load.map fun j => j.direct).getD false then refusePlain s r c stCtxStopped
      else if slowOpen s (some n) s.host.nextId then refusePlain s r c stBusy
      else endOk (setCtx s n { k with service := .running }) r c 0)

/-! ### Running loads -/

/-- Takes a running load away: its reads, its segments under way and the frames drawn for it. -/
def dropLoad (s : State) (n : Nat) (c : Ctx) (j : LoadJob) : State :=
  let s := setCtx s n { c with load := none, drawn := c.drawn - j.reserved }
  { s with
    host := { s.host with reads := s.host.reads.filter fun r => match r.owner with | .load k _ => decide (k ≠ n) | _ => true }
    slory := { s.slory with
      tx := s.slory.tx.filter fun f => !decide (f.op = 3 ∧ f.ctx = n)
      rxFlows := s.slory.rxFlows.filter fun f => !decide (f.op = 3 ∧ f.key.tag = c.tag.toNat) } }

/-- `n` free values. -/
def takeFrees (s : State) (n : Nat) : List (BitVec 64) × State :=
  ((List.range n).map fun i => Config.freeValue (s.free + i), { s with free := s.free + n })

/-- Leaves a tensor unloaded, with undefined contents: every element of its ring copies, and under `words` of its live masters
and moments, is a free value (R318; log entry 26). -/
def loseTensor (n : Nat) (words : Bool) (s : State) (t : Tensor) : State :=
  let s := t.ages.eraseDups.foldl (fun s k =>
    let f := takeFrees s (64 * t.blocks)
    updCtx f.2 n fun c => { c with copies := ksetRun 0 c.copies (copyKey t.num k 0) (f.1.map fun v => v.setWidth 16) }) s
  let s := if words && !t.frozen then
      (List.range (((ctxOf s n).map fun c => planesOf c t).getD 0)).foldl (fun s pl => (List.range t.shardBlocks).foldl (fun s j =>
        let f := takeFrees s 64
        updCtx f.2 n fun c => putBlock c (liveSlot c t.num j) pl t.num j (f.1.map fun v => v.setWidth 32)) s) s
    else s
  updCtx s n fun c => { c with tensors := c.tensors.map fun q => if q.num = t.num then { q with loaded := false } else q }

/-- Ends a running load with any status but ST_OK (R311, R313, R318, R369): a DIRECT one leaves its tensors unloaded. -/
def abortLoad (s : State) (n : Nat) (y : Reply) : State :=
  match ctxOf s n with
  | none => s
  | some c =>
    match c.load with
    | none => s
    | some j =>
      let s := dropLoad s n c j
      let s := if j.direct then (j.records.filterMap fun r => tensorOf c r.1).foldl (loseTensor n (decide (j.source ≠ 3))) s else s
      endCmd s (.ctx n) j.seq y

/-- Ends a broadcast's load whose records are refused: no state has changed (R307, R310). -/
def rejectLoad (s : State) (n : Nat) (y : Reply) : State :=
  match ctxOf s n with
  | none => s
  | some c =>
    match c.load with
    | none => s
    | some j => endCmd (dropLoad s n c j) (.ctx n) j.seq y

/-- Store blocks that a load reads: of the data region all of them for a broadcast, otherwise those its records need; of the base
image the data of the tensors that are coded over it; for source MASTER the blocks of slow-tier masters. -/
def LoadJob.wants (j : LoadJob) (c : Ctx) : List Nat :=
  if j.source = 3 then
    j.records.flatMap fun r => match tensorOf c r.1 with
      | some t => if t.slow then (List.range t.shardBlocks).map (masterRead t.num) else []
      | none => []
  else
    (if j.fanout ≠ 0 ∨ j.source = 2 then List.range (imgBlocks j.head)
     else runBlocks (imgData j.head) (j.records.flatMap fun r =>
      match tensorOf c r.1 with
      | some t => recordRuns (dirEnt j.head r.2.1) r.2.2.1 t.blocks r.2.2.2
      | none => [])) ++
    (runBlocks (imgData j.baseHead) (j.records.filterMap fun r =>
      let e := dirEnt j.head r.2.1
      let b := dirEnt j.baseHead e.base
      if e.comp = 2 then some (b.data, b.bytes) else none)).map (baseFrom + ·)

/-- The next block a load waits for. -/
def LoadJob.nextBlock (j : LoadJob) (c : Ctx) : Option Nat := (j.wants c).find? fun k => (kfind j.blocks k).isNone

/-- Issues the host read of a load's next block. -/
def readNext (s : State) (n : Nat) (addr : Nat) : State :=
  match ctxOf s n with
  | none => s
  | some c =>
    match c.load.bind fun j => (j.nextBlock c).map fun k => (j, k) with
    | none => s
    | some (j, k) =>
      if j.source = 1 ∧ k < baseFrom then issueRead s (some n) (.load n k) (addr + imgData j.head + k * storeBlock) storeBlock
      else if j.source = 3 then
        match tensorOf c (k / 4294967296) with
        | some t => issueRead s (some n) (.load n k) (slowAddr t (liveSlot c t.num (k % 4294967296)) (k % 4294967296)) 256
        | none => s
      else s

/-- Starts the broadcast of one segment to children (R292, R312): its own flow, numbered by the segment (DEDUCED, log
entry 27). -/
def sendSegment (s : State) (n seg : Nat) (b : Bytes) (children : List Nat) : State :=
  match s.slory.node with
  | none => s
  | some nd => children.foldl (fun s d => startFlow s n 3 ((lowestUp s).getD 0) nd.domain d 0 0 (seg % 65536) 0 0 none b) s

/-- The reader's own children. -/
def LoadJob.children (j : LoadJob) : List Nat := j.receivers.take j.fanout

/-- A block has arrived good: it is kept, one of the data region is relayed, and after the last one the copy is placed. -/
def keepBlock (s : State) (n k : Nat) (b : Bytes) : State :=
  match ctxOf s n with
  | none => s
  | some c =>
    match c.load with
    | none => s
    | some j =>
      let j := { j with blocks := kput j.blocks k b, retry := j.retry.erase k }
      let j := if (j.nextBlock c).isNone then { j with stage := 4 } else j
      let s := setCtx s n { c with load := some j }
      sendSegment s n (imgData j.head / storeBlock + k) b (if j.source = 0 ∧ k < baseFrom then j.children else [])

/-- The command of ring `r` whose sequence number is `seq`. -/
def cmdBySeq (s : State) (r : RingId) (seq : Nat) : Option Cmd := (ringOf s r).bind fun g => g.cmd seq

/-- A host read for a load has returned (R299, R305): a block of an image is checked against its digest. -/
def hostLoadBlock (s : State) (n k : Nat) (b : Bytes) : State :=
  match (ctxOf s n).bind fun c => c.load with
  | none => s
  | some j =>
    if j.source = 3 ∨ blockTrusted j.head k b then
      readNext (keepBlock s n k b) n (((cmdBySeq s (.ctx n) j.seq).map fun c => c.fld 415 352).getD 0)
    else abortLoad s n (fieldReply stAuthFail 3 (leAt j.head 48 8 + 64 * k))

/-- The results of a completed load: tensors placed one after another, with the counts of R309. -/
def placeRecord (n : Nat) (j : LoadJob) (p : State × Nat × Nat × Nat × Nat) (r : Nat × Nat × Nat × Bool) : State × Nat × Nat × Nat × Nat :=
  match ctxOf p.1 n with
  | none => p
  | some c =>
    match tensorOf c r.1 with
    | none => p
    | some t =>
      let l := loadedTensor c j t r
      let s := if j.direct then
          let s := cleanTensor (setCtx p.1 n (takeCopy c t fun m k => putWorking m t.num k l.first l.blocks)) c t
            (if t.frozen then 0 else freeCopy t) l.planes.isSome
          match l.planes with
          | none => s
          | some ps => takeWords s n t (l.masters t) ps
        else setCtx p.1 n (addPending c t l)
      (s, p.2.1 + l.blocks.length, p.2.2.1 + flagged 0 l.blocks, p.2.2.2.1 + flagged 3 l.blocks, p.2.2.2.2 + flagged 4 l.blocks)

/-- Whether every vector station is claimed by an admitted step, so that load processing waits (R155, R310). -/
def stationsClaimed (s : State) : Bool :=
  (List.range 32).all fun sp => s.steps.any fun x => x.state.live &&
    ((imageOf s x).map fun img => (img.claims.headD []).any fun c => decide (c.res = 5 ∧ c.unit = sp) && c.detail.testBit 0).getD false

/-- The weight log after a load (R392). -/
def loadLog (old : BitVec 512) (j : LoadJob) : BitVec 512 :=
  let d := if j.source = 3 then List.replicate 72 0 else leBytes 8 (imgId j.head) ++ sha512 (signedPart j.head)
  shaBits (leBytes 64 old.toNat ++ d ++ leBytes 1 j.source ++ leBytes 1 (b2n j.direct))

/-- Command work places a load whose blocks have all arrived and whose segments its children have acknowledged, and the
command replies. -/
def loadPlaced (s : State) (n : Nat) : State :=
  match ctxOf s n with
  | none => s
  | some c =>
    match c.load with
    | none => s
    | some j =>
      if j.stage ≠ 4 ∨ stationsClaimed s ∨ (s.slory.tx.any fun f => decide (f.op = 3 ∧ f.ctx = n)) then s
      else
        let r := j.records.foldl (placeRecord n j) (s, 0, 0, 0, 0)
        let ns := j.records.map (·.1)
        let s := if j.direct then
            switchDone (refill r.1 n fun img w => ((bindOf img 2 w.source).map fun b => ns.contains b.count).getD false) n
          else r.1
        let s := updCtx s n fun c => { c with load := none, weightLog := loadLog c.weightLog j }
        endCmd s (.ctx n) j.seq
          { status := stOk, result := r.2.1, detail0 := min max32 r.2.2.2.2
            detail1 := min max32 r.2.2.1 + min max32 r.2.2.2.1 * 4294967296 }

/-! ### WEIGHTS_LOAD -/

/-- The job of an accepted command. -/
def newLoad (c : Cmd) (head : Bytes) : LoadJob :=
  { seq := c.seq, target := 0, source := c.fld 290 289, direct := c.desc.getLsbD 291, slot := c.fld 295 292, fanout := c.fld 299 296
    reader := c.fld 318 304, records := loadRecords c.param (c.fld 335 320)
    receivers := (List.range (c.fld 351 336)).map fun i => leAt c.param (32 * c.fld 335 320 + 2 * i) 2
    head := head, total := imgBlocks head }

/-- The base image that the tensors of a load are coded over, fixed when its records are accepted (R302). -/
def LoadJob.withBase (s : State) (j : LoadJob) : LoadJob :=
  if j.records.any fun q => decide ((dirEnt j.head q.2.1).comp = 2) then
    match installed s (leAt j.head 32 8) with
    | some (i, h) => { j with baseSlot := some i, baseHead := h }
    | none => j
  else j

/-- Why the base image of a load cannot be read (R302, R303, R319). -/
def baseFault (s : State) (h : Bytes) (rs : List (Nat × Nat × Nat × Bool)) : Option Reply :=
  if rs.any fun q => !baseOk s h (dirEnt h q.2.1) then some (fieldReply stAuthFail 3 32)
  else
    ((LoadJob.withBase s { records := rs, head := h }).baseSlot).bind fun i =>
      let x := kget {} s.store.slots i
      if x.damaged then some (memoryReply 2 0) else if x.busy || x.repair then some (plain stBusy) else none

/-- What a load does to its context before any write: a DIRECT load leaves its tensors unloaded until it replies ST_OK (R318), a
PENDING one takes the place of earlier pending copies and draws frames (R310, R311). -/
def loadEffect (k : Ctx) (j : LoadJob) : Ctx × LoadJob :=
  let ns := j.records.map (·.1)
  if j.direct then ({ k with tensors := k.tensors.map fun t => if ns.contains t.num then { t with loaded := false } else t }, j)
  else
    let k := dropPending k ns
    let f := pendingFrames k (ns.map fun n => if j.source = 3 then 4096 + n else n)
    ({ k with drawn := k.drawn + f }, { j with reserved := f })

/-- The load is complete but for its placement where it waits for no block. -/
def LoadJob.staged (j : LoadJob) (c : Ctx) : LoadJob := if (j.nextBlock c).isNone then { j with stage := 4 } else j

/-- Accepts a load. One from the fabric changes nothing of the context until its image's directory is here and its records pass
(R307). -/
def beginLoad (s : State) (n : Nat) (k : Ctx) (r : RingId) (c : Cmd) (head : Bytes) : State :=
  let j := (newLoad c head).withBase s
  let e := loadEffect k j
  if k.load.isSome then refusePlain s r c stBusy
  else if j.direct && decide (k.service ≠ .stopped) then refusePlain s r c stCtxStopped
  else if e.1.frames.length < e.1.drawn then endCmd s r c.seq (resourceReply 0x10 0)
  else if j.source = 2 then
    let s := acceptCmd (setCtx s n { k with load := some j }) r c.seq
    { s with slory := { s.slory with rxFlows := s.slory.rxFlows.filter fun f => !decide (f.op = 3 ∧ f.key.tag = k.tag.toNat) } }
  else
    let s := acceptCmd (setCtx s n { e.1 with load := some (e.2.staged e.1) }) r c.seq
    let segs := List.range (imgData head / storeBlock)
    let s := if j.source = 0 then segs.foldl (fun s i => sendSegment s n i (slice head (i * storeBlock) storeBlock) j.children) s else s
    readNext s n (c.fld 415 352)

/-- A load of an image whose header and directory are at hand. -/
def imageLoad (s : State) (n : Nat) (k : Ctx) (r : RingId) (c : Cmd) (head : Bytes) (signed : Bool) : State :=
  match storeImageFault head with
  | some o => endCmd s r c.seq (fieldReply stAuthFail 3 o)
  | none =>
    if signed && !imageTrusted s head then endCmd s r c.seq (fieldReply stAuthFail 3 (leAt head 56 8))
    else
      let rs := loadRecords c.param (c.fld 335 320)
      match recordsImageFault k head rs with
      | some o => refuseAt s r c (1, o)
      | none =>
        match baseFault s head rs with
        | some y => endCmd s r c.seq y
        | none => beginLoad s n k r c head

/-- Target CONTEXT (R305, R307, R310, R311). -/
def contextLoad (s : State) (n : Nat) (k : Ctx) (r : RingId) (c : Cmd) (head : HostData) : State :=
  let src := c.fld 290 289
  let slot := kget {} s.store.slots (c.fld 295 292)
  let rs := loadRecords c.param (c.fld 335 320)
  if src = 0 ∧ !(slot.a.valid || slot.b.valid) ∧ !slot.damaged then refuseField s r c stBadParam 292
  else if src = 0 ∧ slot.damaged then endCmd s r c.seq (memoryReply 2 0)
  else if src = 0 ∧ (slot.busy || slot.repair) then refusePlain s r c stBusy
  else
    match (List.range rs.length).findSome? (recordFault k c.param src rs) with
    | some o => refuseAt s r c (1, o)
    | none =>
      match src with
      | 0 => imageLoad s n k r c (if slot.a.valid then slot.a.head else slot.b.head) true
      | 1 =>
        match head with
        | .ok h =>
          if !inGeneral k false (c.fld 415 352) (imgBytes h) then refuseField s r c stBadParam 352
          else imageLoad s n k r c h false
        | _ => endCmd (logErr s 0x0802 (some n) (BitVec.ofNat 128 (c.fld 415 352))) r c.seq (memoryReply 1 (c.fld 415 352))
      | _ => beginLoad s n k r c []

/-- Extents of 1 GiB that the installed images take, each copy counted (R299). -/
def extentsUsed (s : State) (skip : Nat) : Nat :=
  total ((s.store.slots.filter fun q => decide (q.1 ≠ skip)).map fun q =>
    let h := if q.2.a.head = [] then q.2.b.head else q.2.a.head
    2 * ceilDiv (imgBytes h) (2 ^ 30))

/-- Whether a load reads a slot of the store, for its image or for the base of it. -/
def slotRead (s : State) (slot : Nat) : Bool :=
  s.ctxs.any fun q => (q.2.load.map fun j => decide ((j.source = 0 ∧ j.slot = slot) ∨ j.baseSlot = some slot)).getD false

/-- Issues the host read of block `k` of an installation. -/
def installRead (s : State) (slot k addr : Nat) (head : Bytes) : State :=
  issueRead s none (.install slot k) (addr + imgData head + k * storeBlock) storeBlock

/-- Sets a slot of the store. -/
def setSlot (s : State) (i : Nat) (x : StoreSlot) : State := { s with store := { s.store with slots := kput s.store.slots i x } }

/-- Begins a write into the store. -/
def storeWrite (s : State) (w : StoreWrite) : State := { s with store := { s.store with writing := s.store.writing ++ [w] } }

/-- Target STORE (R303): the slot is marked empty, the header, directory and signature are checked, and the data blocks
are read. -/
def storeLoad (s : State) (r : RingId) (c : Cmd) (head : HostData) : State :=
  let i := c.fld 295 292
  let slot := kget {} s.store.slots i
  if slot.busy || slot.repair || slotRead s i then refusePlain s r c stBusy
  else
    match head with
    | .ok h =>
      let s := setSlot s i {}
      match storeImageFault h with
      | some o => endCmd s r c.seq (fieldReply stAuthFail 3 o)
      | none =>
        if !imageTrusted s h then endCmd s r c.seq (fieldReply stAuthFail 3 (leAt h 56 8))
        else if 4032 < extentsUsed s i + 2 * ceilDiv (imgBytes h) (2 ^ 30) then endCmd s r c.seq (resourceReply 0x12 0)
        else
          let s := setSlot (acceptCmd s r c.seq) i { a := { head := h }, busy := true }
          if imgBlocks h = 0 then storeWrite s (.copyA i (some (r, c.seq))) else installRead s i 0 (c.fld 415 352) h
    | _ => endCmd (logErr s 0x0802 none (BitVec.ofNat 128 (c.fld 415 352))) r c.seq (memoryReply 1 (c.fld 415 352))

/-- WEIGHTS_LOAD; `head` is what the read of the image's bytes below DATA_OFFSET returns, for an image in host memory. -/
def execWeightsLoad (r : RingId) (head : HostData) (s : State) : Host.Outcome State Fault Refusal :=
  .next (withCmd s r 0x0050 fun c =>
    match r with
    | .admin => storeLoad s r c head
    | .ctx n =>
      match ctxOf s n with
      | none => s
      | some k => contextLoad s n k r c head)

end Sys2Proof.Machine
end

