-- ==== Sys2Proof/Machine/StackedMem.lean ====
section
/-! DEFINITION. The bearings' own work on stacked memory: retirement (R248 to R250), idle write-out (R237), corrected
rewrites (R240), refresh (R252), patrol scrub (R241), parity retries and lost stacks (R246, R247). -/

namespace Sys2Proof.Machine

/-! ### Retirement (R248 to R250) -/

/-- The physical addresses of the 512 lines of granule `g` of stack `b`, in ascending order. -/
def granuleLines (b g : Nat) : List Nat :=
  (List.range 16).flatMap fun u =>
    let a := g * 524288 + u * 32768
    let unit := b ^^^ fld a 17 15
    (List.range 32).map fun l => a + unit * 4096 + 128 * l

/-- Whether an address lies in granule `g` of stack `b`. -/
def inGranule (b g pa : Nat) : Bool := decide (pa / 524288 = g ∧ paStack pa = b)

/-- The lowest free spare granule of a stack's pool. -/
def freeSpare (s : State) (b : Nat) : Option Nat :=
  (List.range 512).find? fun k => !(s.store.retired.any fun e => decide (e.1 / 524288 = b ∧ e.2 = k))

/-- Moves the bytes and poison of granule `g` of a stack to its granule `h`. -/
def moveGranule (s : State) (b g h : Nat) : State :=
  let dst := fun (pa : Nat) => h * 524288 + pa % 524288
  let moved := s.sm.mem.base.filter fun e => inGranule b g e.1
  let stay := s.sm.mem.base.filter fun e => !inGranule b g e.1
  { s with sm := { s.sm with
      mem := { base := moved.foldl (fun m e => kset 0 m (dst e.1) e.2) (stay.filter fun e => !inGranule b h e.1)
               log := s.sm.mem.log.map fun w => if inGranule b g w.addr then { w with addr := dst w.addr } else w }
      poison := s.sm.poison.map fun c => if inGranule b g (32 * c) then dst (32 * c) / 32 else c } }

/-- Actions 2 to 4 of R248: the fence, the copy of the 512 lines, in which a line that cannot be read is written with the poison
pattern, and the redirection; the record is then on its way to the model store. -/
def retireGranule (s : State) (b g k seq : Nat) (fence eccs : List Ecc) : State :=
  let s := wcFence s (fun e => inGranule b g (e.line * 128)) fence
  let s := (checkLines s (granuleLines b g) eccs .command).1
  let s := moveGranule s b g (spareFirst + k)
  storeWrite { s with store := { s.store with retired := kput s.store.retired (granKey b g) k } } (.retire b g k (some seq))

/-- A memory event about a whole granule, naming its first line (R242). -/
def logGranule (s : State) (event b g : Nat) : State := (logMem s event ((granuleLines b g).headD 0) .command 63 0).1

/-- Withdraws frame `f`: its bit of the withdrawal bitmap is set and the record is on its way to the model store; a frame
withdrawn before stays as it is (R249, R250). -/
def withdrawFrame (s : State) (f : Nat) : State :=
  if s.store.withdrawn.contains f then s
  else storeWrite { s with store := { s.store with withdrawn := s.store.withdrawn ++ [f] } } (.withdraw f)

/-- PAGE_RETIRE; `fence` and `eccs` are what the symbol code reports at the fence and at the copy where the granule is retired at
once. -/
def execPageRetire (r : RingId) (eccs : List Ecc) (s : State) (fence : List Ecc := []) : Host.Outcome State Fault Refusal :=
  .next (withCmd s r 0x0090 fun c =>
    let b := c.fld 290 288
    let g := c.fld 309 291
    if (kfind s.store.retired (granKey b g)).isSome ∨ spareFirst ≤ g then endOk s r c 0
    else
      match freeSpare s b with
      | none =>
        refusePlain (logGranule (withdrawFrame s (g / 4)) 7 b g) r c stNoResource
      | some k =>
        match frameOwner s (g / 4) with
        | some n => updCtx (acceptCmd s r c.seq) n fun x => { x with retiring := x.retiring ++ [(b, g, c.seq)] }
        | none => retireGranule (acceptCmd s r c.seq) b g k c.seq fence eccs)

/-- A pending retirement: the context that owns the granule's frame, none where it has been destroyed, and the entry. -/
def pendingRetire (s : State) (b g : Nat) : Option (Option Nat × (Nat × Nat × Nat)) :=
  let here := fun (e : Nat × Nat × Nat) => decide (e.1 = b ∧ e.2.1 = g)
  match s.sm.retiring.find? here with
  | some e => some (none, e)
  | none => s.ctxs.findSome? fun q => (q.2.retiring.find? here).map fun e => (some q.1, e)

/-- Takes a pending retirement off its list. -/
def dropRetire (s : State) (n : Option Nat) (e : Nat × Nat × Nat) : State :=
  match n with
  | some n => updCtx s n fun x => { x with retiring := x.retiring.erase e }
  | none => { s with sm := { s.sm with retiring := s.sm.retiring.erase e } }

/-! ### Priorities of a bearing (R234) -/

/-- Work of priority 2: a corrected rewrite waits on stack `b`. -/
def rewriteWaits (s : State) (b : Nat) : Bool := !(stackOf s b).rewrites.isEmpty

/-- Work of priority 4: a retirement of stack `b` waits for nothing but its copy. -/
def retireWaits (s : State) (b : Nat) : Bool :=
  (s.sm.retiring.any fun e => decide (e.1 = b)) || s.ctxs.any fun q => !ctxBusy s q.1 && q.2.retiring.any fun e => decide (e.1 = b)

/-- Work of priority 5: an image to place or a frame to zero. -/
def commandWaits (s : State) : Bool := s.ctxs.any fun q => !q.2.scrubFrames.isEmpty || q.2.images.any fun m => !m.2.placed

/-- Whether work of a priority below `p` of R234, 2 to 6, waits on bearing `b`: the free accesses serve it first. -/
def higherWork (s : State) (b p : Nat) : Bool :=
  rewriteWaits s b || (decide (4 < p) && retireWaits s b) || (decide (5 < p) && commandWaits s)

/-- RETIREMENT_COPY: no step of the owner is admitted. A granule that has been retired meanwhile replies ST_OK, and a pool that
has run empty withdraws the frame (R248, R249). -/
def execRetirementCopy (b g : Nat) (eccs : List Ecc) (s : State) (fence : List Ecc := []) : Host.Outcome State Fault Refusal :=
  match pendingRetire s b g with
  | none => .next s
  | some (n, e) =>
    if (match n with | some n => ctxBusy s n | none => false) || higherWork s b 4 then .next s
    else
      let s := dropRetire s n e
      if (kfind s.store.retired (granKey b g)).isSome then .next (endCmd s .admin e.2.2 (plain stOk))
      else
        match freeSpare s b with
        | some k => .next (retireGranule s b g k e.2.2 fence eccs)
        | none => .next (endCmd (logGranule (withdrawFrame s (g / 4)) 7 b g) .admin e.2.2 (plain stNoResource))

/-! ### Bearing events -/

/-- WRITE_COMBINING_IDLE_FLUSH: 2 µs without a write to the entry of line `line` (R237). -/
def execWriteCombiningIdleFlush (b line : Nat) (ecc : Ecc) (s : State) : Host.Outcome State Fault Refusal :=
  match (stackOf s b).wc.find? fun e => decide (e.line = line) with
  | none => .next s
  | some e => if s.boot.fatal then .next s else .next (wcOut s b e ecc)

/-- CORRECTED_REWRITE: the corrected line is written back; a write since the read has dropped it (R240). -/
def execCorrectedRewrite (b line : Nat) (s : State) : Host.Outcome State Fault Refusal :=
  let k := stackOf s b
  if !s.boot.fatal && k.rewrites.any fun q => decide (q.1 = line) then
    .next (setStack s b { k with rewrites := k.rewrites.filter fun q => decide (q.1 ≠ line) })
  else .next s

/-- REFRESH: the interval in force changes at the first refresh after the reading that crossed 85 °C (R252). -/
def execRefresh (b : Nat) (s : State) : Host.Outcome State Fault Refusal :=
  let k := stackOf s b
  .next (if s.boot.powered && !s.boot.fatal then setStack s b { k with refreshes := satAdd max64 k.refreshes 1, fast := k.hot } else s)

/-- Whether a line lies in module structures, which are kept twice (R231, R245). -/
def inStructures (pa : Nat) : Bool := decide (130048 ≤ pa / 2097152 ∧ pa / 2097152 < 130944)

/-- The other copy of a line of a module structure, in stack (b + 4) mod 8 (R245): bit 14 of the address. -/
def twinPa (pa : Nat) : Nat := pa ^^^ 16384

/-- PATROL_SCRUB (R241), when no work of a higher priority waits. A module structure is read from its other copy and written
back over the failed one, and the module becomes device-fatal where that copy fails too (`twin`, R243, R245). -/
def execPatrolScrub (b line : Nat) (ecc : Ecc) (twin : Bool) (s : State) : Host.Outcome State Fault Refusal :=
  let pa := line * 128
  if paStack pa ≠ b ∨ s.boot.fatal ∨ higherWork s b 7 then .next s
  else
    let k := stackOf s b
    let s := setStack s b { k with patrol := line + 1 }
    if inStructures pa then
      match ecc with
      | .ok => .next s
      | .corrected _ cw sy => .next (noteCorrected s pa cw sy .patrol)
      | .uncorrectable _ cw =>
        let r := logMem s 2 pa .patrol 63 cw
        if twin then
          let q := logMem r.1 2 (twinPa pa) .patrol 63 cw
          .next (becomeFatal q.1 0x0102 none q.2)
        else .next r.1
      | .miscorrected _ cw sy _ => .next (noteCorrected s pa cw sy .patrol)
      | .unseen _ _ _ => .next s
    else
      let fresh := !linePoisoned s pa
      match checkLines s [pa] [ecc.alone] .patrol with
      | (s, none) => .next s
      | (s, some rec) =>
        match ownerOf s pa with
        | some n => .next (if fresh then postEvent s n { memUe rec with event := 2 } else s)
        | none => .next s

/-! ### Parity and lost stacks (R246, R247) -/

/-- SOURCE from its code. -/
def sourceOf (k : Nat) : MemSource := match k with | 0 => .stepRead | 1 => .writeOut | 2 => .patrol | _ => .command

/-- Declares stack `b` lost: recorded in the model store at once, and the module is device-fatal. -/
def loseStack (s : State) (b event : Nat) (rec : BitVec 128) : State :=
  let k := stackOf s b
  let s := setStack s b { k with lost := true, parityTry := [] }
  logFatal { s with store := { s.store with lostStacks := if s.store.lostStacks.contains b then s.store.lostStacks else s.store.lostStacks ++ [b] } }
    (0x0100 + event) (if rec.getLsbD 14 then some ((rec >>> 16).toNat % 256) else none) rec

/-- PARITY_RETRY: the transfer at `pa` is repeated, and succeeds or fails again. -/
def execParityRetry (pa src : Nat) (ok : Bool) (s : State) : Host.Outcome State Fault Refusal :=
  let b := paStack pa
  let k := stackOf s b
  if k.lost ∨ s.boot.fatal then .next s
  else
    let n := kget 0 k.parityTry (pa / 128) + 1
    let s := setStack s b { k with retries := satAdd max64 k.retries 1, parityTry := kset 0 k.parityTry (pa / 128) (if ok then 0 else n) }
    if ok then .next (if 1 < n then (logMem s 3 pa (sourceOf src) 63 0).1 else s)
    else if n < 3 then .next s
    else
      let r := noteMem s 4 pa (sourceOf src) 63 0
      .next (loseStack r.1 b 4 r.2)

/-- CHANNEL_NO_RESPONSE: no alert and no data for 256 bearing cycles after a command to `pa`. -/
def execChannelNoResponse (pa src : Nat) (s : State) : Host.Outcome State Fault Refusal :=
  if (stackOf s (paStack pa)).lost ∨ s.boot.fatal then .next s
  else
    let r := noteMem s 4 pa (sourceOf src) 63 0
    .next (loseStack r.1 (paStack pa) 4 r.2)

end Sys2Proof.Machine
end

