-- ==== Sys2Proof/Machine/StoreOps.lean ====
section
/-! DEFINITION. What the model store and the free bearing accesses complete: block reads and their repair (R299, R319),
writes of images, directory entries and persistent records (R303, R304, R248), and command work (R234). -/

namespace Sys2Proof.Machine

/-! ### Block reads (R299, R319) -/

/-- A copy of a slot: B or A. -/
def StoreSlot.copy (x : StoreSlot) (b : Bool) : StoreCopy := if b then x.b else x.a

/-- Replaces a copy of a slot. -/
def StoreSlot.setCopy (x : StoreSlot) (b : Bool) (c : StoreCopy) : StoreSlot := if b then { x with b := c } else { x with a := c }

/-- Both copies of a block have failed: the slot is damaged and the load ends naming the block. -/
def blockLost (s : State) (n slot blk : Nat) : State :=
  let s := setSlot s slot { kget {} s.store.slots slot with damaged := true }
  abortLoad (logErr s 0x0502 (some n) (BitVec.ofNat 128 blk)) n (memoryReply 2 blk)

/-- The slot and the header of the image that block `blk` of a load belongs to, where the store may read it now: the blocks of
the load's own image in ascending order (R312), those of its base from `baseFrom` on. -/
def LoadJob.reads (j : LoadJob) (c : Ctx) (blk : Nat) : Option (Nat × Bytes) :=
  if blk < baseFrom then (if j.source = 0 ∧ j.nextBlock c = some blk then some (j.slot, j.head) else none)
  else if (j.wants c).contains blk && (kfind j.blocks blk).isNone && decide (j.source ≠ 3) then j.baseSlot.map fun i => (i, j.baseHead)
  else none

/-- STORE_READ_COMPLETION: block `blk` of the load of context `n` has been read, `good` unless the store could not read
it; its digest is checked. Blocks of a base image count from `baseFrom` (DESIGN CHOICE, log entry 26). -/
def execStoreReadCompletion (n blk : Nat) (good : Bool) (s : State) : Host.Outcome State Fault Refusal :=
  match ctxOf s n with
  | none => .next s
  | some c =>
    match c.load.bind fun j => (j.reads c blk).map fun q => (j, q) with
    | none => .next s
    | some (j, i, head) =>
      let k := blk % baseFrom
      let slot := kget {} s.store.slots i
      let again := j.retry.contains blk
      let useB := !slot.a.valid != again
      let other := (slot.copy !useB).valid
      let b := kget [] (slot.copy useB).blocks k
      if good && blockTrusted head k b then
        let s := keepBlock s n blk b
        .next (if again then logErr (storeWrite s (.repairBlock i k (!useB))) 0x0501 none (BitVec.ofNat 128 k) else s)
      else if again ∨ !other then .next (blockLost s n i k)
      else .next (setCtx s n { c with load := some { j with retry := j.retry ++ [blk] } })

/-! ### Writes (R248, R303, R304, R319, R463) -/

/-- The installation of a slot is complete. -/
def finishInstall (s : State) (i : Nat) (cmd : Option (RingId × Nat)) : State :=
  let x := kget {} s.store.slots i
  let s := setSlot s i { x with a := { x.a with valid := true }, b := { x.b with valid := true }, busy := false, damaged := false }
  match cmd with
  | some q => endCmd s q.1 q.2 { status := stOk, result := imgBlocks x.a.head }
  | none => emit s (.updateResult (0x10 + i) 0)

/-- What the completion of a store write brings about. -/
def storeWritten (s : State) (w : StoreWrite) : State :=
  match w with
  | .copyA i cmd =>
    let x := kget {} s.store.slots i
    storeWrite (setSlot s i { x with b := { x.a with valid := false } }) (.copyB i cmd)
  | .copyB i cmd => storeWrite s (.directory i cmd)
  | .directory i cmd => finishInstall s i cmd
  | .repairSlot i =>
    let x := kget {} s.store.slots i
    let c := if x.a.valid then x.a else x.b
    setSlot s i { x with a := c, b := c, repair := false }
  | .repairBlock i blk toB =>
    let x := kget {} s.store.slots i
    match kfind (x.copy !toB).blocks blk with
    | some b => setSlot s i (x.setCopy toB { x.copy toB with blocks := kput (x.copy toB).blocks blk b })
    | none => s
  | .retire b g _ seq =>
    let s := logGranule s 6 b g
    match seq with
    | some q => endCmd s .admin q (plain stOk)
    | none => s
  | .withdraw _ => s

/-- STORE_WRITE_COMPLETION: item `i` of the writes in flight is complete. -/
def execStoreWriteCompletion (i : Nat) (s : State) : Host.Outcome State Fault Refusal :=
  match s.store.writing[i]? with
  | none => .next s
  | some w => .next (storeWritten { s with store := { s.store with writing := s.store.writing.eraseIdx i } } w)

/-! ### Command work (R234, R381) -/

/-- Zeroes the next frame of a context that is being destroyed, once rows 1 and 2 of R381 are complete. -/
def destroyWork (s : State) (seq : Nat) : State :=
  match s.ctxs.find? fun q => decide (q.2.destroying = some seq) with
  | none => s
  | some (n, c) =>
    if s.steps.any fun x => decide (x.ctx = n) then s else
    match c.scrubFrames with
    | [] => finishDestroy s n
    | f :: t => finishDestroy (setCtx (scrubFrame s f) n { c with scrubFrames := t }) n

/-- COMMAND_WORK_ACCESS: free accesses have served the work of the command with sequence number `seq` of ring `r`: an
image is placed, a load's blocks are placed, or a frame is zeroed. `host` is what the host reads that a placement takes have
returned. -/
def execCommandWorkAccess (r : RingId) (seq : Nat) (s : State) (host : List HostData := []) : Host.Outcome State Fault Refusal :=
  match cmdBySeq s r seq with
  | none => .next s
  | some c =>
    if !c.accepted || (List.range 8).any (fun b => higherWork s b 5) then .next s
    else if c.opcode = 0x0020 then .next (schedPlaced s r c host)
    else if c.opcode = 0x0050 then (match r with | .ctx n => .next (loadPlaced s n) | .admin => .next s)
    else if c.opcode = 0x0011 then .next (destroyWork s seq)
    else .next s

end Sys2Proof.Machine
end

