-- ==== Sys2Proof/Machine/Resets.lean ====
section
/-! DEFINITION. Power good and power lost (R453), the resets of R421 and what each keeps or discards (R423, R424, R432). -/

namespace Sys2Proof.Machine

/-! ### What a reset keeps -/

/-- A directory write that a reset interrupts leaves one copy of the entry valid, both or neither, by a free value (R304,
log entry 6). -/
def cutDirectory (s : State) (i : Nat) : State :=
  let f := takeFree s
  let x := kget {} f.2.store.slots i
  setSlot f.2 i (if f.1.getLsbD 0 then { x with a := { x.a with valid := f.1.getLsbD 1 }, b := { x.b with valid := f.1.getLsbD 1 }, busy := false }
    else { x with a := { x.a with valid := true }, b := { x.b with valid := false }, busy := false })

/-- What the interruption of a store write leaves (R250, R303, R304): an image that was being written is gone, a retirement
or withdrawal whose record was not written is lost. -/
def cutWrite (s : State) (w : StoreWrite) : State :=
  match w with
  | .copyA i _ => setSlot s i {}
  | .copyB i _ => setSlot s i {}
  | .directory i _ => cutDirectory s i
  | .repairSlot i => setSlot s i { kget {} s.store.slots i with repair := false }
  | .repairBlock _ _ _ => s
  | .retire b g _ _ => { s with store := { s.store with retired := kdel s.store.retired (granKey b g) } }
  | .withdraw f => { s with store := { s.store with withdrawn := s.store.withdrawn.filter fun k => decide (k ≠ f) } }

/-- A slot whose installation has read blocks only is empty. -/
def cutReading (s : State) : State :=
  { s with store := { s.store with slots := (s.store.slots.map fun q => if q.2.busy then (q.1, ({} : StoreSlot)) else q).filter fun q => decide (q.2 ≠ {}) } }

/-- Interrupts every store write in flight. -/
def cutStore (s : State) : State :=
  let s := cutReading (s.store.writing.foldl cutWrite s)
  { s with store := { s.store with writing := [] } }

/-- Host writes across a reset: those already sent may still be observed, those waiting in the landing are discarded (R423,
R424). -/
def cutHost (h : HostIf) (linkStays : Bool) : HostIf :=
  { up := h.up && linkStays, rate := if linkStays then h.rate else 0, width := if linkStays then h.width else 0
    writes := (h.writes.filter (·.sent)).map fun w => { w with lost := true }, nextId := h.nextId }

/-- The state in which every reset begins: volatile state gone, non-volatile state, pins and the management controller
kept. -/
def wiped (s : State) (linkStays : Bool) : State :=
  let t := cutStore s
  { ({} : State) with
    pending := s.pending, host := cutHost s.host linkStays, store := t.store
    mgmt := { s.mgmt with written := [], coreTries := [] }, free := t.free, out := t.out
    power := { capLimit := s.power.capLimit, setCap := s.power.capLimit } }

/-- Whether FAULT_N is asserted (R458). -/
def faultPin (s : State) : Bool := s.boot.powered && decide (s.boot.stage = 0xE0 ∨ s.boot.stage = 0xF0)

/-- Releases FAULT_N where it was asserted. -/
def releaseFault (s t : State) : State := if faultPin s then emit t (.faultN false) else t

/-- A full device reset (R421): the warm sequence at ROM, or, after the rails have been removed, a power-on with the cold
sequence. -/
def fullReset (s : State) (cause : Nat) (linkStays : Bool) : State :=
  let t := wiped s linkStays
  let cold := s.boot.railsRemoved
  let t := { t with boot := { ({} : Boot) with
    powered := true, stage := if cold then 0x01 else 0x02, cause := if cold then 0x1 else cause, perstN := s.boot.perstN, cold := cold
    railsOn := s.boot.railsOn, cxlTraining := !t.host.up } }
  releaseFault s (if s.host.up && !t.host.up then emit t (.linkUp false) else t)

/-! ### The busbar (R453) -/

/-- All rails off: everything volatile is lost, and a write that the link had taken is not (R423). -/
def losePower (s : State) : State :=
  let t := wiped s false
  let t := { t with boot := { ({} : Boot) with powered := false, perstN := s.boot.perstN }, mgmt := { ({} : Mgmt) with strap := s.mgmt.strap } }
  releaseFault s (if s.host.up then emit t (.linkUp false) else t)

/-- POWER_GOOD: a power-on reset. -/
def execPowerGood (s : State) : Host.Outcome State Fault Refusal :=
  if s.boot.powered then .next s
  else .next { s with boot := { ({} : Boot) with perstN := s.boot.perstN } }

/-- POWER_LOST: no orderly shutdown. -/
def execPowerLost (s : State) : Host.Outcome State Fault Refusal := if s.boot.powered then .next (losePower s) else .next s

/-- INPUT_OVERVOLTAGE: the input is disconnected and power is lost. -/
def execInputOvervoltage (s : State) : Host.Outcome State Fault Refusal := if s.boot.powered then .next (losePower s) else .next s

/-! ### Full device resets (R421) -/

/-- PERST_N_ASSERT, held for at least 100 µs. -/
def execPerstNAssert (s : State) : Host.Outcome State Fault Refusal :=
  let s := { s with boot := { s.boot with perstN := false } }
  if s.boot.powered then .next (fullReset s 0x2 false) else .next s

/-- PERST_N_DEASSERT: the sequence may leave ROM, and the link trains. -/
def execPerstNDeassert (s : State) : Host.Outcome State Fault Refusal := .next { s with boot := { s.boot with perstN := true } }

/-- FLR. -/
def execFlr (s : State) : Host.Outcome State Fault Refusal :=
  if s.boot.powered ∧ s.host.up then .next (fullReset s 0x3 true) else .next s

/-- LINK_RESET: CXL hot reset or link disable. -/
def execLinkReset (s : State) : Host.Outcome State Fault Refusal :=
  if s.boot.powered ∧ s.host.up then .next (fullReset s 0x6 false) else .next s

/-- MANAGEMENT_RESET: a reset request over MCTP. -/
def execManagementReset (s : State) : Host.Outcome State Fault Refusal :=
  if s.boot.powered ∧ !s.mgmt.restarting then .next (fullReset s 0x5 true) else .next s

end Sys2Proof.Machine
end

