-- ==== Sys2Proof/Machine/BootSeq.lean ====
section
/-! DEFINITION. The boot sequence (R416 to R420): what each stage does, and how a boot ends short of READY. -/

namespace Sys2Proof.Machine

/-- Whether the boot sequence stands in a stage. -/
def inStage (s : State) (k : Nat) : Bool := s.boot.powered && !s.boot.fatal && decide (s.boot.stage = k)

/-- Enters a stage. -/
def enterStage (s : State) (k : Nat) : State := { s with boot := { s.boot with stage := k } }

/-- The boot ends in RECOVERY: FAULT_N is asserted (R420, R458). -/
def bootRecovery (s : State) : State := emit (enterStage s 0xE0) (.faultN true)

/-- Logs a code whose DETAIL layout is not stated, with a free value. -/
def logOpen (s : State) (code : Nat) : State := let f := takeFree s; logErr f.2 code none (f.1.setWidth 128)

/-- Logs a FATAL code whose DETAIL layout is not stated. -/
def fatalOpen (s : State) (code : Nat) : State := let f := takeFree s; logFatal f.2 code none (f.1.setWidth 128)

/-- The first of two copies that passes. -/
def firstCopy (l : List FwCopy) (p : FwCopy → Bool) : Option Nat := (List.range 2).find? fun i => match l[i]? with | some c => p c | none => false

/-! ### STANDBY to FIRMWARE (R385, R388, R389) -/

/-- ROM: PERST_N held asserted holds a warm sequence at ROM (R424). The loader is measured. -/
def execRom (s : State) : Host.Outcome State Fault Refusal :=
  if !(inStage s 0x01 || inStage s 0x02) || (!s.boot.perstN && !s.boot.cold) then .next s
  else
    match firstCopy s.store.loader (·.ok) with
    | none => .next (bootRecovery s)
    | some i =>
      let s := if i = 1 then logOpen s 0x0B01 else s
      .next { s with boot := { s.boot with stage := 0x03, loaderCopy := i, loaderMeas := shaBits (s.store.loader.getD i {}).bytes } }

/-- FW_FLOOR of a record. -/
def recordFloor (b : Bytes) : Nat := leAt b 4688 4

/-- VERSION of a record. -/
def recordVersion (b : Bytes) : Nat := leAt b 4 4

/-- Whether a firmware copy may run (R389). -/
def fwOk (s : State) (c : FwCopy) : Bool :=
  c.ok && decide (s.store.fwCounter ≤ c.version) && decide (recordFloor s.store.cfgForce.record ≤ c.version)

/-- Whether a configuration record may come into force (R387, R389). -/
def cfgOk (s : State) (c : CfgRec) : Bool :=
  c.ok && decide (s.store.cfgCounter ≤ recordVersion c.record) && decide (leAt c.record 16 64 = 0 ∨ leAt c.record 16 64 = Config.identityDigest.toNat)

/-- The configuration record that comes into force: copy A, then copy B, otherwise the record last in force (R385, R388);
its VERSION becomes the counter first. -/
def takeRecord (s : State) : State :=
  let a := s.store.cfg.getD 0 {}
  let b := s.store.cfg.getD 1 {}
  let put := fun (s : State) (c : CfgRec) => { s with store := { s.store with cfgCounter := max s.store.cfgCounter (recordVersion c.record), cfgForce := c } }
  let s := if cfgOk s a then put s a
    else if cfgOk s b then put (logOpen s 0x0B01) b
    else logErr s 0x0B02 none (BitVec.ofNat 128 (recordVersion a.record))
  let r := s.store.cfgForce.record
  { s with
    boot := { s.boot with cfgVersion := recordVersion r }
    power := { s.power with capLimit := recordCap r, setCap := recordCap r } }

/-- LOADER: firmware copy A, then copy B; then the configuration record. -/
def execLoader (s : State) : Host.Outcome State Fault Refusal :=
  if !inStage s 0x03 then .next s
  else
    match firstCopy s.store.firmware (fwOk s) with
    | none => .next (bootRecovery s)
    | some i =>
      let c := s.store.firmware.getD i {}
      let s := if i = 1 then logOpen s 0x0B01 else s
      .next (takeRecord { s with boot := { s.boot with stage := 0x04, fwCopy := i, fwMeas := shaBits c.bytes, fwVersion := c.version } })

/-- FIRMWARE: firmware runs on the control cores. -/
def execFirmware (s : State) : Host.Outcome State Fault Refusal := if inStage s 0x04 then .next (enterStage s 0x05) else .next s

/-! ### RECORDS (R250, R389, R390, R429) -/

/-- Places the entries of a fatal summary at the head of the log, marked as of an earlier boot. -/
def placeSummary (e : ErrLog) (l : List LogEntry) : ErrLog :=
  l.foldl (fun e y =>
    match logSlot e.slots with
    | some i => { e with slots := kput e.slots i { y with prior := true }, newest := i, written := satAdd max64 e.written 1 }
    | none => e) e

/-- RECORDS: the boot counter advances, and the trip record and fatal summary are reported and cleared. One unreadable copy
of a record is rewritten; both unreadable end the boot. -/
def execRecords (s : State) : Host.Outcome State Fault Refusal :=
  if !inStage s 0x05 then .next s
  else
    let s := { s with
      store := { s.store with bootCounter := satAdd max32 s.store.bootCounter 1, summary := [], trip := none }
      err := placeSummary s.err (s.store.summary.filter (decide <| ·.code ≠ 0)) }
    if 2 ≤ s.store.badRecords then .next (fatalOpen s 0x0504)
    else if s.store.badRecords = 1 then .next (logOpen (enterStage { s with store := { s.store with badRecords := 0 } } 0x06) 0x0503)
    else .next (enterStage s 0x06)

/-! ### INTERLOCK to MEM_INIT (R251, R415, R417) -/

/-- Whether the latest readings meet the coolant condition (R415). -/
def coolantMet (p : Power) : Bool := decide (4000 ≤ p.flow) && decide (240 ≤ p.temps.getD 2 0) && decide (p.temps.getD 2 0 ≤ 640)

/-- INTERLOCK: the condition has held for 1 s. A warm sequence, whose rails are on, skips RAILS. -/
def execInterlock (s : State) : Host.Outcome State Fault Refusal :=
  if inStage s 0x06 && coolantMet s.power then .next (enterStage s (if s.boot.railsOn then 0x08 else 0x07)) else .next s

/-- INTERLOCK_WARNING: at 3 s and every 10 s after. -/
def execInterlockWarning (s : State) : Host.Outcome State Fault Refusal :=
  if inStage s 0x06 then
    .next (raiseVector { s with power := { s.power with events := if s.power.events.testBit 9 then s.power.events else s.power.events + 512 } } 259)
  else .next s

/-- RAILS. -/
def execRails (s : State) : Host.Outcome State Fault Refusal :=
  if inStage s 0x07 then .next { s with boot := { s.boot with stage := 0x08, railsOn := true } } else .next s

/-- The record of a stack whose training failed, for channel `c` of stack `b` (R242). -/
def trainRecord (s : State) (b c : Nat) : BitVec 128 :=
  BitVec.ofNat 128 (5 + 16 * b + 128 * c + 3 * 4096 + 63 * 16777216 + min max32 (s.clk.uptime / 1024) * 2 ^ 64 + 2 ^ 96)

/-- The lost-stack record is written and the boot ends in FATAL (R247, R417). -/
def trainFailed (s : State) (k : Nat) : State :=
  let b := k / 32
  let s := setStack s b { stackOf s b with lost := true, eventCounts := kset 0 (stackOf s b).eventCounts 5 1 }
  logFatal { s with store := { s.store with lostStacks := if s.store.lostStacks.contains b then s.store.lostStacks else s.store.lostStacks ++ [b] } }
    0x0105 none (trainRecord s b (k % 32))

/-- STACK_TRAIN: `failed` names the channels, 0 to 255, whose training failed. With a lost-stack record training is skipped
and the boot ends in FATAL. -/
def execStackTrain (failed : List Nat) (s : State) : Host.Outcome State Fault Refusal :=
  if !inStage s 0x08 then .next s
  else
    match s.store.lostStacks, failed.filter (decide <| · < 256) with
    | b :: _, _ => .next (logFatal s 0x0105 none (trainRecord s b 0))
    | [], [] => .next (enterStage s 0x09)
    | [], k :: t => .next ((k :: t).foldl trainFailed s)

/-- MEM_INIT: every line of every stack is zero, with valid check symbols. -/
def execMemInit (s : State) : Host.Outcome State Fault Refusal :=
  if inStage s 0x09 then
    .next { s with
      boot := { s.boot with stage := 0x0A, memInit := true }
      sm := { s.sm with mem := {}, poison := [], stk := s.sm.stk.map fun q => (q.1, { q.2 with wc := [], rewrites := [], granuleCorr := [] }) } }
  else .next s

/-! ### SELF_TEST to READY (R304, R389, R390, R419) -/

/-- SELF_TEST: after it the firmware counter takes the greater of its value and the firmware's declared floor. -/
def execSelfTest (ok : Bool) (s : State) : Host.Outcome State Fault Refusal :=
  if !inStage s 0x0A then .next s
  else if ok then
    .next { enterStage s 0x0B with store := { s.store with fwCounter := max s.store.fwCounter (s.store.firmware.getD s.boot.fwCopy {}).floor } }
  else .next (fatalOpen s 0x0B03)

/-- IDENTITY: derivation, started in RECORDS, ends in the background. -/
def execIdentity (ok : Bool) (s : State) : Host.Outcome State Fault Refusal :=
  if s.boot.powered && !s.boot.fatal && decide (0x06 ≤ s.boot.stage ∧ s.boot.stage ≤ 0x0B) && !s.boot.idReady then
    .next (if ok then { s with boot := { s.boot with idReady := true } } else logFatal s 0x0B04 none 0)
  else .next s

/-- Begins the repair of the slots of which only one copy is valid. -/
def repairSlots (s : State) : State :=
  (s.store.slots.filter fun q => q.2.a.valid != q.2.b.valid).foldl (fun s q => storeWrite (setSlot s q.1 { q.2 with repair := true }) (.repairSlot q.1)) s

/-- READY: boot is complete; normal mode unless a recovery condition holds (R394, R395). -/
def execReady (s : State) : Host.Outcome State Fault Refusal :=
  if inStage s 0x0B && s.boot.idReady then
    .next (repairSlots (setMode { s with boot := { s.boot with stage := 0x0C, ready := true, readyTime := s.clk.uptime } }))
  else .next s

end Sys2Proof.Machine
end

