-- ==== Sys2Proof/Machine/Checkpoint.lean ====
section
/-! DEFINITION. Checkpoint streams: the sender's base and acknowledgements, the partner's region and rebases, and the
restore (R226 to R228, R296, R366). -/

namespace Sys2Proof.Machine

/-! ### Records at the partner (R224 to R226) -/

/-- A received delta record. -/
structure DeltaRec where
  kind : Nat
  plane : Nat
  tensor : Nat
  first : Nat
  blocks : Nat
  commit : Nat
  payload : Bytes

/-- The records of a byte sequence, up to the first that is cut short or fails its CRC, and whether there is such a one. -/
def parseRecords : Nat → Bytes → List DeltaRec × Bool
  | 0, _ => ([], false)
  | fuel + 1, b =>
    if b = [] then ([], false)
    else
      let w := leAt b 0 4
      let n := leAt b 12 4
      let p := (b.drop 32).take n
      if b.length < 32 ∨ p.length < n ∨ leAt b 24 4 ≠ crc32c p then ([], true)
      else
        let q := parseRecords fuel (b.drop (32 + n))
        (⟨fld w 7 0, fld w 11 8, fld w 23 12, leAt b 4 4, leAt b 8 4, leAt b 16 8, p⟩ :: q.1, q.2)

/-- Key of a word of the full state that a partner holds. -/
def baseKey (plane n j e : Nat) : Nat := ((plane * 4096 + n) * 4294967296 + j) * 64 + e

/-- The full state at a partner: words, update counts and the SEQ of the last complete commit. -/
structure FullState where
  words : KMap (BitVec 32)
  counts : List Nat
  seq : Option Nat
  broken : Bool

/-- Applies a record to words: BASE replaces, XOR combines (R226). -/
def applyRecord (m : KMap (BitVec 32)) (r : DeltaRec) : KMap (BitVec 32) :=
  let k := baseKey r.plane r.tensor r.first 0
  let ws := decodeWords (r.payload.length + 1) (64 * r.blocks) r.payload
  if r.kind = 2 then ksetRun 0 m k ws
  else if r.kind = 1 then ksetRun 0 m k (List.zipWith (· ^^^ ·) (kgetRun 0 m k ws.length) ws)
  else m

/-- Applies records in order; a commit counts when its END record has arrived (R226, R228). -/
def applyRecords : List DeltaRec → FullState → KMap (BitVec 32) → FullState
  | [], f, _ => f
  | r :: t, f, m =>
    if r.kind = 4 then applyRecords t { f with words := m, counts := (List.range 16).map fun g => leAt r.payload (4 * g) 4, seq := some r.commit } m
    else applyRecords t f (applyRecord m r)

/-- The full state after the records of a byte sequence. One that fails its CRC ends the rebuild at the last complete commit
before it: nothing after it applies (R228). -/
def foldBytes (f : FullState) (b : Bytes) : FullState :=
  if f.broken then f
  else
    let q := parseRecords (b.length + 1) b
    { applyRecords q.1 f f.words with broken := q.2 }

/-- The full state that the base of a partner region holds. -/
def Partner.baseState (p : Partner) : FullState := ⟨p.base, p.counts, if p.baseSeq = 0 ∧ p.counts = [] then none else some p.baseSeq, p.broken⟩

/-- The full state of a partner region: its base, the closed half and the active half, in commit order. -/
def Partner.state (p : Partner) : FullState := ((p.closed.getD []) ++ p.half).foldl (fun f q => foldBytes f q.2) p.baseState

/-- Bytes that a log half holds. -/
def halfBytes (h : List (Nat × Bytes)) : Nat := total (h.map (·.2.length))

/-- Bytes one log half can hold: half of what the base leaves of the region (DESIGN CHOICE, log entry 28). -/
def Partner.halfRoom (p : Partner) : Nat := (p.frames * 2097152 - 4 * p.base.length) / 2

/-- Whether a commit begins with a BASE record, whose words replace those of the base (R226). -/
def replacesBase (b : Bytes) : Bool := decide (leAt b 0 1 = 2)

/-- Closes the active half once it holds M complete commits and the other half is free (R226). -/
def Partner.close (p : Partner) : Partner :=
  if p.closed.isNone ∧ p.half ≠ [] ∧ p.m ≤ p.half.length then { p with closed := some p.half, half := [] } else p

/-- Folds the closed half into the base and frees it; the active half may have reached M commits by then. A base that ends before
a damaged record stays so until BASE records replace it (DEDUCED, log entry 28). -/
def Partner.fold (p : Partner) : Partner :=
  let f := (p.closed.getD []).foldl (fun f q => foldBytes { f with broken := f.broken && !replacesBase q.2 } q.2) { p.baseState with seq := some p.baseSeq }
  { p with base := f.words, counts := f.counts, baseSeq := f.seq.getD p.baseSeq, closed := none, broken := f.broken }.close

/-- A complete commit joins the active half; after M commits, or before one that the half cannot hold, the half is
closed (R226). -/
def Partner.append (p : Partner) (commit : Nat) (b : Bytes) : Partner :=
  let p := if p.closed.isNone ∧ p.half ≠ [] ∧ p.halfRoom < halfBytes p.half + b.length then { p with closed := some p.half, half := [] } else p
  { p with half := p.half ++ [(commit, b)] }.close

/-- Places bytes at an offset. -/
def placeAt (buf : Bytes) (o : Nat) (b : Bytes) : Bytes := slice buf 0 o ++ b ++ buf.drop (o + b.length)

/-- The bytes of a flow: each payload stands at its OFFSET (R277). -/
def RxFlow.bytes (f : RxFlow) : Bytes := f.data.foldl (fun m e => placeAt m (128 * kget 0 f.offs e.1) e.2) []

/-- Whether a flow is complete: the LAST frame and every lower SEQ have arrived (R277). -/
def RxFlow.complete (f : RxFlow) : Bool :=
  match f.last with
  | some l => (List.range (l + 1)).all fun i => (kfind f.data i).isSome
  | none => false

/-! ### The sender -/

/-- Whether a publishing step of the context is admitted. -/
def publishingAdmitted (s : State) (n : Nat) : Bool :=
  s.steps.any fun x => decide (x.ctx = n) && x.countsAdmitted && ((imageOf s x).map publishing).getD false

/-- The live words of a plane of a tensor; slow-tier masters are the bytes read from host memory. -/
def livePlane (c : Ctx) (t : Tensor) (pl : Nat) (slow : Bytes) : List (BitVec 32) :=
  (List.range t.shardBlocks).flatMap fun j => (List.range 64).map fun e =>
    if pl = 0 ∧ t.slow then BitVec.ofNat 32 (leAt slow (256 * j + 4 * e) 4) else liveWord c pl t.num j e

/-- The BASE records of every live plane, and the END record (R227). -/
def baseRecords (c : Ctx) (slow : List Bytes) : Bytes :=
  let ts := (c.tensors.filter fun t => !t.frozen).mergeSort fun a b => decide (a.num ≤ b.num)
  let nth := fun (t : Tensor) => ((ts.filter (·.slow)).findIdx? (· == t)).getD 0
  (ts.flatMap fun t => (List.range (planesOf c t)).flatMap fun pl => wordRecord 2 pl t.num 0 c.vseq (livePlane c t pl (slow.getD (nth t) []))) ++ endRecord c c.vseq

/-- CKPT_BASE_SEND: no publishing step is admitted. `slow` is what the reads of the slow-tier masters return, in ascending
tensor number. -/
def execCkptBaseSend (n : Nat) (slow : List HostData) (s : State) : Host.Outcome State Fault Refusal :=
  match ctxOf s n with
  | none => .next s
  | some c =>
    match c.sender with
    | none => .next s
    | some k =>
      if k.baseSent ∨ publishingAdmitted s n then .next s
      else
        let ts := (c.tensors.filter fun t => !t.frozen && t.slow).mergeSort fun a b => decide (a.num ≤ b.num)
        match (List.range ts.length).find? fun i => ((slow.getD i .error).bytes).isNone with
        | some i =>
          let addr := ((ts[i]?).map (·.window)).getD 0
          let s := logErr (endSender (setCtx s n { c with ckptWait := none }) n k) 0x0802 (some n) (BitVec.ofNat 128 addr)
          .next (match c.ckptWait with | some q => endCmd s (.ctx n) q (memoryReply 1 addr) | none => s)
        | none =>
          let b := baseRecords c (slow.map fun d => (d.bytes).getD [])
          let s := setCtx s n { c with sender := some { k with baseSent := true, unacked := k.unacked ++ [(c.vseq, b)] } }
          .next (startOpenFlow s n 5 k.peerDomain k.peer (c.vseq % 2 ^ 32) 0 0 none b)

/-- The partner has acknowledged the whole flow of a commit (R227, R296). -/
def deltaAcked (s : State) (n step : Nat) : State :=
  match ctxOf s n with
  | none => s
  | some c =>
    match c.sender with
    | none => s
    | some k =>
      match k.unacked.find? fun u => decide (u.1 % 2 ^ 32 = step) with
      | none => s
      | some u =>
        let k' := { k with unacked := k.unacked.erase u, lastAcked := u.1, baseAcked := true }
        let s := setCtx s n { c with sender := some k', ckptWait := if k.baseAcked then c.ckptWait else none }
        let s := if k.baseAcked then s
          else match c.ckptWait with | some q => endCmd s (.ctx n) q { status := stOk, result := u.1 } | none => s
        if k'.unacked = [] ∧ k'.stopping.isSome then endSender s n k' else s

/-- STREAM_TIMEOUT: records stay unacknowledged for the stream's timeout (R227). -/
def execStreamTimeout (n : Nat) (s : State) : Host.Outcome State Fault Refusal :=
  match ctxOf s n with
  | none => .next s
  | some c =>
    match c.sender with
    | none => .next s
    | some k => if k.unacked = [] then .next s else .next (breakStream s n stTimeout)

/-! ### Commands -/

/-- CKPT_STREAM_START. -/
def execCkptStreamStart (r : RingId) (s : State) : Host.Outcome State Fault Refusal :=
  .next (withCtxCmd s r 0x0070 fun n k c =>
    let peer := c.fld 310 296
    let dom := c.fld 311 311
    if c.desc.getLsbD 288 then
      let f := c.fld 391 360
      if k.partner.isSome then refusePlain s r c stBusy
      else if k.frames.length < k.drawn + f then endCmd s r c.seq (resourceReply 0x10 0)
      else endOk (setCtx s n { k with drawn := k.drawn + f, partner := some { peer := peer, peerDomain := dom, frames := f, m := c.fld 359 344 } }) r c 0
    else if k.sender.isSome then refusePlain s r c stBusy
    else
      let ms := if c.fld 343 312 = 0 then 1000 else c.fld 343 312
      acceptCmd (setCtx s n { k with ckptWait := some c.seq, sender := some { peer := peer, peerDomain := dom, timeoutMs := ms } }) r c.seq)

/-- CKPT_STREAM_STOP; with no stream of the role it is refused, naming ROLE. -/
def execCkptStreamStop (r : RingId) (s : State) : Host.Outcome State Fault Refusal :=
  .next (withCtxCmd s r 0x0071 fun n k c =>
    if c.desc.getLsbD 288 then
      match k.partner with
      | none => refuseField s r c stBadParam 288
      | some p =>
        let s := { s with slory := { s.slory with rxFlows := s.slory.rxFlows.filter fun f => !decide (f.op = 5 ∧ f.key.tag = k.tag.toNat) } }
        endOk (setCtx s n { k with partner := none, drawn := k.drawn - p.frames }) r c (p.state.seq.getD 0)
    else
      match k.sender with
      | none => refuseField s r c stBadParam 288
      | some q =>
        if k.ckptWait.isSome ∨ q.stopping.isSome then refusePlain s r c stBusy
        else if q.unacked = [] then endOk (endSender s n q) r c q.lastAcked
        else acceptCmd (setCtx s n { k with sender := some { q with stopping := some c.seq } }) r c.seq)

/-- Writes the restored words of a tensor into its shadow slots: the flip that follows makes them live. -/
def restoreTensor (f : FullState) (n : Nat) (s : State) (t : Tensor) : State :=
  match ctxOf s n with
  | none => s
  | some c =>
    (List.range t.shardBlocks).foldl (fun s j =>
      let words := fun pl => (List.range 64).map fun e => kget 0 f.words (baseKey pl t.num j e)
      let slot := !liveSlot c t.num j
      let s := if t.slow then
          writeMaster s n t slot j (words 0)
        else s
      updCtx s n fun c => (List.range (planesOf c t)).foldl (fun c pl => if pl = 0 ∧ t.slow then c else putBlock c slot pl t.num j (words pl)) c) s

/-- The working copy of a restored tensor, derived from the restored masters (R193, R228). -/
def restoreCopy (f : FullState) (c : Ctx) (t : Tensor) : Ctx :=
  takeCopy c t fun m k => ksetRun 0 m (copyKey t.num k (64 * t.shardFirst))
    ((List.range (64 * t.shardBlocks)).map fun i => BitVec.ofNat 16 (workingOf t (kget 0 f.words (baseKey 0 t.num 0 i)).toNat).1)

/-- Makes a restored state live with one flip: the version word takes its SEQ (R228). -/
def restoreState (s : State) (n : Nat) (f : FullState) (seq : Nat) : State :=
  match ctxOf s n with
  | none => s
  | some c =>
    let ts := c.tensors.filter fun t => !t.frozen
    let s' := ts.foldl (restoreTensor f n) s
    let t := updCtx s' n fun c =>
      let upd := ts.flatMap fun t => (List.range t.shardBlocks).map fun j => (t.num, j)
      let c := { c with
        parity := nextParity c upd, table := !c.table, vseq := seq, diverged := false
        counts := (List.range 16).foldl (fun m g => kset 0 m (16 * b2n (!c.table) + g) (f.counts.getD g 0)) c.counts }
      ts.foldl (restoreCopy f) c
    match ctxOf t n with
    | none => t
    | some k =>
      let t := ts.foldl (fun s q => cleanTensor s k q (ringCopy ((tensorOf k q.num).getD q) 0) true) t
      (ts.filter (·.slow)).foldl (fun t q => writeMirror t n k q (issuedSince s s')) t

/-- CKPT_RESTORE: from this node's own partner region, or from the records `fetched` that the holder's region gives. Where
they hold no complete commit the command waits, until its timeout. -/
def execCkptRestore (r : RingId) (fetched : Bytes) (s : State) : Host.Outcome State Fault Refusal :=
  .next (withCtxCmd s r 0x0072 fun n k c =>
    if k.service ≠ .stopped then refusePlain s r c stCtxStopped
    else
      let here := match s.slory.node with
        | some nd => decide (nd.node = c.fld 302 288 ∧ nd.domain = c.fld 303 303)
        | none => true
      let f := if here then
          (match k.partner with
           | some p => if p.peer = c.fld 318 304 ∧ p.peerDomain = c.fld 319 319 then some p.state else none
           | none => none)
        else some (foldBytes ⟨[], [], none, false⟩ fetched)
      match f with
      | none => refuseField s r c stBadParam 288
      | some f =>
        match f.seq with
        | some q => endOk (restoreState s n f q) r c q
        | none => acceptCmd s r c.seq)

end Sys2Proof.Machine
end

