-- ==== Sys2Proof/Machine/Timetable.lean ====
section
/-! DEFINITION. The timetable: TIMETABLE_SET with its checks (R162, R163) and the rows of its passing time
(R163, R165, R166, R168). -/

namespace Sys2Proof.Machine

/-- Slot entry `i` of the parameter block (R162). -/
def slotEntAt (b : Bytes) (i : Nat) : SlotEnt :=
  let x := leAt b (8 * i) 8
  { start := fld x 26 0, len := fld x 53 27, owner := fld x 61 54, lend := bit x 62, valid := bit x 63 }

/-- Whether the grants of two contexts intersect (R163). -/
def grantsMeet (s : State) (a b : List Claim) : Bool :=
  listsMeet a b ||
    (a.any fun x => b.any fun y =>
      decide (x.res = y.res ∧ x.unit = y.unit ∧ (x.res = 7 ∨ x.res = 9 ∨ x.res = 10)) && !fitsUnit s x.res x.unit (x.amount + y.amount))

/-- The grants of a slot's owner. -/
def ownerGrants (s : State) (e : SlotEnt) : List Claim := ((ctxOf s e.owner).map (·.grants)).getD []

/-- Whether two slots overlap in time. -/
def slotsOverlap (a b : SlotEnt) : Bool := decide (a.start < b.start + b.len ∧ b.start < a.start + a.len)

/-- The first failed case of an entry compared with the entries below it: the byte offset within the entry, START at
0, LENGTH at 3, OWNER at 6 and LEND at 7. -/
def slotFault (s : State) (period : Nat) (lower : List SlotEnt) (e : SlotEnt) : Option Nat :=
  let below := lower.filter (·.valid)
  if !e.valid then
    if e.start ≠ 0 then some 0 else if e.len ≠ 0 then some 3 else if e.owner ≠ 0 then some 6 else if e.lend then some 7 else none
  else if e.len < 100 ∨ period < e.start + e.len then some 3
  else if !((ctxOf s e.owner).map (·.cls)).getD false then some 6
  else if (match below.getLast? with | some f => decide (e.start < f.start) | none => false) then some 0
  else if below.any fun f => slotsOverlap e f && decide (f.owner = e.owner) then some 0
  else if below.any fun f => slotsOverlap e f && grantsMeet s (ownerGrants s e) (ownerGrants s f) then some 6
  else none

/-- The first fault of a table: the byte offset from the first entry (R163). -/
def tableSetFault (s : State) (period : Nat) : List SlotEnt → List SlotEnt → Option Nat
  | _, [] => none
  | lower, e :: t =>
    match slotFault s period lower e with
    | some o => some (8 * lower.length + o)
    | none => tableSetFault s period (lower ++ [e]) t

/-- An accepted table, or the removal, takes effect at once where no table is in force, else at the boundary. -/
def acceptTable (s : State) (t : Option TimeTab) : State :=
  match s.sched.table, t with
  | some _, _ => { s with sched := { s.sched with waiting := some t } }
  | none, some u => { s with sched := { s.sched with table := some u, origin := s.clk.uptime + 1, active := [], owing := [], follows := [] } }
  | none, none => s

/-- TIMETABLE_SET. -/
def execTimetableSet (r : RingId) (s : State) : Host.Outcome State Fault Refusal :=
  .next (withCmd s r 0x0030 fun c =>
    let n := c.fld 330 320
    if n = 0 then endOk (acceptTable s none) r c 0
    else
      let es := (List.range n).map (slotEntAt c.param)
      match tableSetFault s (c.fld 319 288) [] es with
      | some o => refuseAt s r c (1, o)
      | none => endOk (acceptTable s (some ⟨c.fld 319 288, es⟩)) r c 0)

/-- The kill of a best-effort step at the start of a slot (R168). It yields to the final check where a unit fails that in this
cycle (R158, R174). -/
def timetableKill (s : State) (x : Step) : State :=
  match (imageOf s x).bind fun img => (finalLate img x).map fun u => (img, u) with
  | some q => slipStep s x q.1 q.2 0xFFFF
  | none => updCtx (rerunStep s x x.attempt) x.ctx fun c => { c with ttKills := satAdd max32 c.ttKills 1 }

/-- The best-effort steps that have not reached their commit point, latest first. -/
def slotVictims (s : State) : List Step :=
  (s.steps.filter fun x => x.state.live && decide (x.kind ≠ .realTime) && !pastCommit s x).reverse

/-- SLOT_START (R165, R168). -/
def execSlotStart (i : Nat) (s : State) : Host.Outcome State Fault Refusal :=
  match slotAt s i with
  | none => .next s
  | some _ =>
    if s.sched.active.contains i then .next s
    else
      let s := (slotVictims s).foldl timetableKill s
      .next (slotAdmit { s with sched := { s.sched with active := s.sched.active ++ [i] } } i)

/-- The slot ends: each step admitted in it that is still before its commit point is an overrun of its owner
(R166). -/
def endSlot (s : State) (i : Nat) : State :=
  let others := fun (l : List Nat) => l.filter fun j => decide (j ≠ i)
  let s' := { s with sched := { s.sched with active := others s.sched.active, owing := others s.sched.owing, follows := others s.sched.follows } }
  match slotAt s i with
  | none => s'
  | some e =>
    let n := (s.steps.filter fun x => x.state.live && decide (x.ctx = e.owner ∧ x.kind = .realTime ∧ s.sched.origin + e.start ≤ x.admitted)).length
    updCtx s' e.owner fun c => { c with overruns := satAdd max32 c.overruns n }

/-- SLOT_END (R166). -/
def execSlotEnd (i : Nat) (s : State) : Host.Outcome State Fault Refusal :=
  if s.sched.active.contains i then .next (endSlot s i) else .next s

/-- PERIOD_BOUNDARY (R163): slots that end with the period end, and a waiting table or removal takes effect. -/
def execPeriodBoundary (s : State) : Host.Outcome State Fault Refusal :=
  match s.sched.table with
  | none => .next s
  | some t =>
    let s := s.sched.active.foldl endSlot s
    .next { s with sched := { s.sched with
      origin := s.sched.origin + t.period, table := s.sched.waiting.getD (some t), waiting := none, active := [], owing := [], follows := [] } }

end Sys2Proof.Machine
end

