-- ==== Sys2Proof/Machine/Steps.lean ====
section
/-! DEFINITION. Steps: STEP_RUN and STEP_KILL (R341, R366, R468), the preamble (R79, R151), phases (R158), wait
points (R161) and the final slack (R158). -/

namespace Sys2Proof.Machine

/-! ### STEP_RUN -/

/-- The binding entries of the parameter block (R365): DESC and BASE. -/
def bindingList (c : Cmd) : List (Nat × Nat) :=
  (List.range (c.fld 363 352)).map fun i => (leAt c.param (16 * i) 2 % 4096, leAt c.param (16 * i + 8) 8)

/-- The descriptor of a binding with its new BASE. -/
def reboundDesc (img : Image) (b : Nat × Nat) : Option Desc := (img.descs[b.1]?).map fun d => { d with base := b.2 }

/-- Whether a rebound stream lies where its space and its bindings let it (R122, R197, R341). -/
def reboundOk (c : Ctx) (img : Image) (i : Nat) (d : Desc) : Bool :=
  if d.space = 2 then decide (d.base = 0)
  else if d.base % 128 ≠ 0 then false
  else if d.space = 1 then (streamRuns img d).all fun r => decide (r.1 + r.2 ≤ 1048576)
  else
    match (bindOf img 2 i).bind fun w => tensorOf c w.count with
    | some t => (streamRuns img d).all fun r => decide (r.1 + r.2 ≤ t.blocks * 64 * (wfmtOf t.wfmt).size)
    | none =>
      let off := (bindOf img 3 i).isSome || (bindOf img 4 i).isSome
      (streamRuns img d).all fun r =>
        if r.1 + r.2 ≤ windowBase ∧ !off then true
        else runInWindow c (if off then 2 else 1) (img.reads.contains i) (img.writes.contains i) r

/-- Staging with the bindings `bs` in force, in bytes (R468). -/
def stagingWith (img : Image) (bs : List (Nat × Nat)) : Nat :=
  img.staged + total ((List.range img.descs.length).map fun i =>
    match img.descs[i]? with
    | none => 0
    | some d => hostStaging img i (match bs.find? fun b => decide (b.1 = i) with | some b => { d with base := b.2 } | none => d))

/-- The first fault of a binding entry: its offset in the parameter block. Where the staging that all bindings together leave
exceeds the claim, the first that moves a stream into staging is at fault (R468). -/
def bindingFault (c : Cmd) (k : Ctx) (img : Image) (bs : List (Nat × Nat)) (i : Nat) : Option Nat :=
  let b := bs.getD i (0, 0)
  if leAt c.param (16 * i) 8 / 4096 ≠ 0 then some (16 * i + 1)
  else
    match reboundDesc img b with
    | none => some (16 * i)
    | some d =>
      if (bs.take i).any fun e => decide (e.1 = b.1) then some (16 * i)
      else if !reboundOk k img b.1 d then some (16 * i + 8)
      else if 0 < hostStaging img b.1 d ∧ 1024 * stagingClaim img < stagingWith img bs then some (16 * i + 8)
      else none

/-- The pages that the bindings address for the first time (R374). -/
def boundPages (k : Ctx) (img : Image) (bs : List (Nat × Nat)) : List Nat :=
  newPages k ((bs.flatMap fun b =>
    match reboundDesc img b with
    | none => []
    | some d =>
      if d.space = 0 ∧ (bindOf img 2 b.1).isNone ∧ (img.reads.contains b.1 || img.writes.contains b.1) then
        (streamRuns img d).flatMap fun r =>
          if r.1 + r.2 ≤ windowBase then (List.range ((r.1 + r.2 - 1) / 2097152 + 1 - r.1 / 2097152)).map fun j => r.1 / 2097152 + j else []
      else []).eraseDups)

/-- The gaps between a table's valid slots, over the period and its repetition. -/
def longestGap (t : TimeTab) : Option Nat :=
  let v := t.slots.filter (·.valid)
  match v with
  | [] => none
  | h :: _ =>
    let r := v.foldl (fun (p : Nat × Nat) e => (max p.1 (e.start + e.len), max p.2 (e.start - p.1))) (h.start, 0)
    some (max r.2 (t.period + h.start - r.1))

/-- Whether a best-effort step can never fit between the slots of the table in force (R167). -/
def neverFits (s : State) (k : Ctx) (img : Image) : Bool :=
  match s.sched.table.bind longestGap with
  | some g => !k.cls && decide (g * 7500 < img.reserved * 1000)
  | none => false

/-- The checks of STEP_RUN in the order of R366: the reply of the first that fails. -/
def stepRunFault (s : State) (k : Ctx) (c : Cmd) (img : Image) : Option Reply :=
  let bs := bindingList c
  match (List.range bs.length).findSome? (bindingFault c k img bs) with
  | some o => some (fieldReply stBadParam 1 o)
  | none =>
    if k.frames.length < k.drawn + (boundPages k img bs).length then some (resourceReply 0x10 0)
    else if (if img.multi then decide (c.fld 351 320 ≤ k.lastStep) else decide (c.fld 351 320 ≠ 0)) then some (fieldReply stBadParam 0 40)
    else if k.service ≠ .running ∨ (img.multi ∧ k.diverged) then some (plain stCtxStopped)
    else if neverFits s k img then some (resourceReply 12 0)
    else if hostCapacity s < heldOf (img.claims.headD []) 10 0 then some (resourceReply 10 0)
    else none

/-- The step that an accepted STEP_RUN queues. -/
def newStep (s : State) (n : Nat) (c : Cmd) : Step :=
  { id := s.sched.nextStep, ctx := n, seq := c.seq, fence := c.cfence, slot := c.fld 291 288, number := c.fld 351 320,
    bindings := bindingList c, resultAddr := c.resultAddr, resultBytes := c.resultBytes }

/-- STEP_RUN. -/
def execStepRun (r : RingId) (s : State) : Host.Outcome State Fault Refusal :=
  .next (withCtxCmd s r 0x0040 fun n k c =>
    match (loadedImage k (c.fld 291 288)).filter (!·.spoiled) with
    | none => refuseField s r c stBadParam 288
    | some img =>
      match stepRunFault s k c img with
      | some y => endCmd s r c.seq y
      | none =>
        let s := acceptCmd (setCtx s n ((boundPages k img (bindingList c)).foldl mapPage k)) r c.seq
        { s with steps := s.steps ++ [newStep s n c], sched := { s.sched with nextStep := s.sched.nextStep + 1 } })

/-! ### STEP_KILL (R173, R370) -/

/-- A kill by STEP_KILL: nothing on or after the commit or vote point. -/
def killStep (s : State) (x : Step) : State :=
  if x.state = .committed ∨ x.state = .hold ∨ pastCommit s x then s else endStep s x (plain stKilled)

/-- STEP_KILL. -/
def execStepKill (r : RingId) (s : State) : Host.Outcome State Fault Refusal :=
  .next (withCtxCmd s r 0x0041 fun n _ c =>
    let mine := s.steps.filter fun x => decide (x.ctx = n)
    if c.fld 320 320 = 1 then endOk (payOwed (mine.foldl killStep s)) r c 0
    else
      match mine.find? fun x => decide (((ringOf s r).bind fun g => (g.cmd x.seq).map Cmd.seqNo) = some (c.fld 319 288)) with
      | none => refuseField s r c stBadParam 288
      | some x => endOk (payOwed (killStep s x)) r c 0)

/-! ### The preamble (R79, R151) -/

/-- PREAMBLE_START: image cycle 0 falls 32 cycles later. -/
def execPreambleStart (st : Nat) (s : State) : Host.Outcome State Fault Refusal :=
  match stepOf s st with
  | none => .next s
  | some x =>
    if x.state = .admitted ∧ x.start = 0 then .next (setStep s { x with start := s.clk.cycles + 32 }) else .next s

/-- The streams that a step reads from host windows with no PREFETCH entry: the landing reads their tiles one after
another from image cycle 0 on (DESIGN CHOICE, log entry 29). -/
def hostStreams (img : Image) (x : Step) : List Nat :=
  img.reads.filter fun i =>
    match descOf img x i with
    | some d => decide (d.space = 0 ∧ windowBase ≤ d.base) && (bindOf img 3 i).isNone
    | none => false

/-- Issues the reads of the present blocks of the next tile of a host stream, once those of the tile before are back; absent
blocks are not read (R92, R341). -/
def readHostMore (s : State) (img : Image) (x : Step) (i : Nat) : State :=
  match descOf img x i with
  | some d =>
    let k := (x.stream i).fetched.length
    let n := presentCount img d
    if k < streamLen img d ∧ k % max 1 n = 0 then
      (List.range n).foldl (fun s j => issueRead s (some x.ctx) (.stream x.id i (k + j)) (blockAddr img d (k + j)) d.blockBytes) s
    else s
  | none => s

/-- PREAMBLE_END: the step runs. -/
def execPreambleEnd (st : Nat) (s : State) : Host.Outcome State Fault Refusal :=
  match stepOf s st with
  | none => .next s
  | some x =>
    if x.state = .admitted ∧ x.start ≠ 0 then
      let s := setStep s { x with state := .running }
      match imageOf s x with
      | some img => .next ((hostStreams img x).foldl (fun s i => readHostMore s img x i) (closeGaps s img))
      | none => .next s
    else .next s

/-! ### Offsets and phases (R158, R161) -/

/-- Records the energies of the spans whose phase occurrence ends (R399). -/
def learnAll (c : Ctx) (img : Image) (slot m : Nat) (es : List (Nat × Nat)) : Ctx := es.foldl (fun c e => learnPhase c slot img m e.1 e.2) c

/-- PHASE (R158, R399): unit `u` begins the `m`-th PHASE entry; `energies` gives, per span whose occurrence of the
entry before ends here, the energy per cycle it measured. -/
def execPhase (st : Nat) (u : UnitRef) (m : Nat) (energies : List (Nat × Nat)) (s : State) : Host.Outcome State Fault Refusal :=
  match runningStep s st with
  | none => .next s
  | some (x, img) =>
    let v := x.unit u.key
    match (img.phases)[m]?, nextCycle img x u.key with
    | some t, some cyc =>
      if v.phase ≠ m ∨ cyc < t.cycle then .next s
      else if t.arg1 < offsetOf img x u.key then .next (payOwed (slipStep s x img u t.id))
      else
        let s := match (if m = 0 then none else (img.phases)[m - 1]?) with
          | some p => updCtx s x.ctx fun c => learnAll c img x.slot p.id energies
          | none => s
        .next (setStep (closeGaps s img) (x.setUnit u.key { v with phase := m + 1 }))
    | _, _ => .next s

/-- FINAL_SLACK_EXCEEDED (R158). -/
def execFinalSlackExceeded (st : Nat) (u : UnitRef) (s : State) : Host.Outcome State Fault Refusal :=
  match runningStep s st with
  | none => .next s
  | some (x, img) =>
    match nextCycle img x u.key with
    | some _ => if img.finalSlack < offsetOf img x u.key then .next (payOwed (slipStep s x img u 0xFFFF)) else .next s
    | none => .next s

/-! ### Wait points (R161) -/

/-- Whether the first tile of a stream has arrived. -/
def firstTileHere (img : Image) (x : Step) (i : Nat) : Bool :=
  match descOf img x i with
  | some d => decide (presentCount img d ≤ (x.stream i).blocks.length ∨ presentCount img d ≤ (x.stream i).fetched.length)
  | none => false

/-- Whether every unit has run a fill segment to its end. -/
def segmentRun (img : Image) (x : Step) (q : Nat × Nat) : Bool :=
  img.listKeys.all fun k =>
    match segAt img (img.cyclesOf k) q with
    | some g => (List.range (g.2.2 - g.2.1)).all fun i => img.hasIssued x k (g.2.1 + i)
    | none => true

/-- Whether a stream comes from the fabric. -/
def fromFabric (img : Image) (i : Nat) : Bool :=
  img.fabrics.any fun f => f.2.any fun e => decide (e.desc = i ∧ (e.fop = 2 ∨ e.fop = 4 ∨ e.fop = 6))

/-- Whether a WAIT entry is the one at which the image waits for the leader's total, which a step of a context that clips or
skips needs (R213, R215, R286). -/
def awaitsTotal (c : Ctx) (img : Image) (t : Timing) : Bool :=
  normNeeded c && img.multi && (img.fabrics.any fun f => f.2.any fun e => decide (e.fop = 7)) && decide (totalWait img = some t)

/-- Whether a WAIT names a stream whose first tile comes from the fabric or from a host window (R161). -/
def awaitsTile (img : Image) (x : Step) (i : Nat) : Bool :=
  fromFabric img i || (match descOf img x i with | some d => decide (d.space = 0 ∧ windowBase ≤ d.base) | none => false)

/-- Whether what a wait point waits for has arrived: the first tile of its stream, and the total where it is the wait for it. -/
def waitArrived (c : Ctx) (img : Image) (x : Step) (t : Timing) : Bool :=
  if awaitsTotal c img t then x.total.isSome && (!awaitsTile img x t.arg1 || firstTileHere img x t.arg1) else firstTileHere img x t.arg1

/-- WAIT (R161): with the awaited tile absent, every unit runs the lowest-order unused segment now, after which the check is
repeated; with none left, every consumer waits. A wait for the fabric is one for a flow: a stream's, or the norm total's
(R286, R289). -/
def execWait (st w : Nat) (s : State) : Host.Outcome State Fault Refusal :=
  match runningStep s st with
  | none => .next s
  | some (x, img) =>
    match waitOf img w, ctxOf s x.ctx with
    | some t, some c =>
      if x.waits.contains w ∨ (x.usedSegs.any fun q => decide (q.1 = w) && !segmentRun img x q) then .next s
      else if waitArrived c img x t then .next (setStep s { x with waits := x.waits ++ [w] })
      else
        match (segsOf img w).find? fun g => !x.usedSegs.contains (w, g.arg2) with
        | some g => .next (setStep s { x with usedSegs := x.usedSegs ++ [(w, g.arg2)] })
        | none => .next (setStep (openGaps s x img (w + 1))
            { x with waits := x.waits ++ [w], waiting := x.waiting || awaitsTotal c img t || fromFabric img t.arg1 })
    | _, _ => .next s

end Sys2Proof.Machine
end

