-- ==== Sys2Proof/Machine/Commit.lean ====
section
/-! DEFINITION. The commit point and the release (R45, R159, R171, R195, R200, R220, R223, R244, R288, R289). -/

namespace Sys2Proof.Machine

/-! ### Before the commit -/

/-- Whether every block that the step has produced for storage has landed there. -/
def allLanded (img : Image) (x : Step) : Bool :=
  img.writes.all fun i =>
    match descOf img x i with
    | some d => decide (d.space = 2) || decide ((x.stream i).blocks.length ≤ (x.stream i).memPos)
    | none => true

/-- Whether slow-tier shadow writes of a context are not yet globally observed (R220, R349). -/
def shadowsOpen (s : State) (n : Nat) : Bool := s.host.writes.any fun w => w.ofCtx (some n) && decide (w.path = .shadow)

/-- Whether a gather station has work of the step left: a routing, or a backward entry of one (R103, R186, R187). -/
def gatherPending (img : Image) (x : Step) : Bool :=
  ((List.range img.routings.length).any fun r => (kfind x.routes r).isNone) ||
    img.binds.any fun b => decide (b.kind = 6 ∨ b.kind = 7) && (match img.descs[b.aux]? with
      | some d => decide ((x.stream b.aux).blocks.length < streamLen img d)
      | none => false)

/-- The first unit that has not finished its last instruction (R158). -/
def unfinishedUnit (img : Image) (x : Step) : UnitRef :=
  match img.listKeys.find? fun k => (nextCycle img x k).isSome with
  | some k => keyUnit k
  | none => match x.inbound.head? with
    | some w => .pier w.pier
    | none => if gatherPending img x then .gather (gatherSpan img % 32) else .pier 0

/-! ### The commit -/

/-- What a step has written on the dies and in stacked memory stands there (R82, R235). -/
def commitMemories (s : State) (x : Step) : State :=
  let os := otherLive s x
  let pm := s.pm
  wcRelease (keepWrites { s with pm :=
    { tile := vcommit 0 pm.tile x.id os, feeder := vcommit 0 pm.feeder x.id os, valid := vcommit false pm.valid x.id os
      skip := vcommit 0 pm.skip x.id os, bank := vcommit 0 pm.bank x.id os, chain := vcommit 0 pm.chain x.id os
      zero := vcommit false pm.zero x.id os, loc := vcommit 0 pm.loc x.id os } } x) x.id

/-- The context once a step of it commits. -/
def commitCtx (c : Ctx) (img : Image) (x : Step) : Ctx :=
  let c := flipParities (flipVersion c x) img x
  { c with lastStep := if img.multi then x.number else c.lastStep, droppedPairs := x.dropped, spilledPairs := x.spilled }

/-- Begins the release of a publishing commit's delta records to the checkpoint partner (R223, R296). -/
def releaseDeltas (s : State) (x : Step) : State :=
  match ctxOf s x.ctx with
  | none => s
  | some c =>
    match c.sender with
    | none => s
    | some k =>
      if x.publishes ∧ k.baseAcked ∧ k.stopping.isNone then
        let b := commitRecords c x c.vseq
        let s := setCtx s x.ctx { c with sender := some { k with unacked := k.unacked ++ [(c.vseq, b)] } }
        startOpenFlow s x.ctx 5 k.peerDomain k.peer (c.vseq % 2 ^ 32) 0 0 none b
      else s

/-- The commit: every staged effect becomes irrevocable at once, claims of codes 0x01 to 0x09 are released, and the
release begins (R159, R171). -/
def commitNow (s : State) (x : Step) (img : Image) : State :=
  let s := commitMemories (bookFiller s x) x
  let s := noteSums (updCtx s x.ctx fun c => commitCtx c img x) x
  let s := releaseDeltas (setStep s { x with state := .committed }) x
  payOwed (if x.kind = .realTime then afterCommit s x.ctx else s)

/-- The flags of a step that its context's trap mask names (R45). -/
def trapped (s : State) (x : Step) : Bool :=
  match ctxOf s x.ctx with
  | some c => decide (flagSummary x &&& c.trapMask ≠ 0)
  | none => false

/-- COMMIT_POINT (R158, R159, R171, R289): `energies` gives the measured energies of the phase that ends here. -/
def execCommitPoint (st : Nat) (energies : List (Nat × Nat)) (s : State) : Host.Outcome State Fault Refusal :=
  match workingStep s st with
  | none => .next s
  | some (x, img) =>
    if x.state = .running ∨ gatherPending img x then .next (payOwed (slipStep s x img (unfinishedUnit img x) 0xFFFF))
    else if !allLanded img x || shadowsOpen s x.ctx then .next s
    else
      let s := match (img.phases).getLast? with
        | some p => updCtx s x.ctx fun c => learnAll c img x.slot p.id energies
        | none => s
      let multi := img.multi && s.slory.node.isSome
      let s := openGaps s x img 0
      if trapped s x then
        .next (payOwed (if multi then castVote s x img 3 stArithTrap else endStep s x (plain stArithTrap)))
      else if multi then .next (payOwed (castVote s x img 1 stOk))
      else .next (commitNow s x img)

/-! ### The release (R204, R244, R343) -/

/-- The staged host writes as bytes by virtual address: of two to one byte, that of later nominal cycle stays, and within one
cycle that of the higher descriptor index (R235, R343). -/
def mergeStaged (ws : List StagedWrite) : KMap Byte :=
  (ws.mergeSort fun a b => decide (a.cycle < b.cycle ∨ (a.cycle = b.cycle ∧ a.desc ≤ b.desc))).foldl (fun m w =>
    (List.range w.bytes.length).foldl (fun m i => kput m (w.addr + i) (w.bytes.getD i 0)) m) []

/-- Consecutive bytes as runs. -/
def byteRuns : List (Nat × Byte) → List (Nat × Bytes)
  | [] => []
  | (a, b) :: t =>
    match byteRuns t with
    | (k, bs) :: r => if k = a + 1 then (a, b :: bs) :: r else (a, [b]) :: (k, bs) :: r
    | [] => [(a, [b])]

/-- Writes the mirrors of the slow-tier tensors of the context: a publishing commit has released a new version word, which each of
them holds (R204). -/
def releaseMirrors (s : State) (x : Step) : State :=
  match ctxOf s x.ctx with
  | none => s
  | some c =>
    if x.publishes then
      (c.tensors.filter (·.slow)).foldl (fun s t => writeMirror s x.ctx c t []) s
    else s

/-- Whether the delta records of the context's last commit are still with the partner (R226, R227). -/
def deltasOpen (s : State) (x : Step) : Bool :=
  match ctxOf s x.ctx with
  | none => false
  | some c => x.publishes && (match c.sender with | some k => k.unacked.any fun u => decide (u.1 = c.vseq) | none => false)

/-- The reply of a committed step (R244): a staged line that could not be read turns ST_OK into ST_MEM_UE. DETAIL1 is the low half of
the record of R242; which line of module memory held the data is a free value. -/
def releaseReply (s : State) (n : Nat) (bad : List Nat) : State × Reply :=
  if bad = [] then (s, { status := stOk, committed := true })
  else
    let f := takeFree s
    let v := f.1.toNat
    let r := memRecord 2 (v % 8) (v / 8 % 32) .stepRead (some n) 63 (v / 256 % 524288) (v / 134217728 % 512) (v / 68719476736 % 4) 0 0
    (f.2, { memUe r with committed := true })

/-- What CTX_DESTROY still has to do once the last step of the context has ended: row 2 of R381, and what follows. -/
def afterRelease (s : State) (n : Nat) : State :=
  match ctxOf s n with
  | some k => if k.destroying.isSome then finishDestroy (destroyTraffic s n k.tag) n else s
  | none => s

/-- RELEASE_COMPLETE (R171): `bad` names the 128-byte lines of host memory whose staged data is poisoned, `badDelta`
whether a staged delta record is (R244). With the release the step's flows end (R278). -/
def execReleaseComplete (st : Nat) (bad : List Nat) (badDelta : Bool) (s : State) : Host.Outcome State Fault Refusal :=
  match stepOf s st with
  | none => .next s
  | some x =>
    if x.state ≠ .committed then .next s
    else
      let s := if badDelta && x.publishes then breakStream s x.ctx stMemUe else s
      if deltasOpen s x then .next s
      else
        let m := mergeStaged x.staged
        let bad := bad.filter fun l => m.any fun e => decide (e.1 / 128 = l)
        let s := (byteRuns (m.filter fun e => !bad.contains (e.1 / 128))).foldl (fun s q => writeHostVa s x.ctx .release q.1 q.2) s
        let r := releaseReply (releaseMirrors s x) x.ctx bad
        .next (payOwed (afterRelease (replyStep (dropFlight r.1 x) x r.2) x.ctx))

end Sys2Proof.Machine
end

