-- ==== Sys2Proof/Machine/Ports.lean ====
section
/-! DEFINITION. Abutment ports: configuration (R258 to R260, R273), the link (R260, R270), transmission and pre-emption
(R262, R264), priority flow control (R267, R431). -/

namespace Sys2Proof.Machine

/-! ### Records (R258, R271) -/

/-- Port record at offset `o`. -/
def portRecAt (b : Bytes) (o : Nat) : PortRec :=
  let w := leAt b o 8
  { lanes := fld w 6 4, medium := bit w 7, autoneg := bit w 8, vlanEn := bit w 9, preemptEn := bit w 10, verifyEn := bit w 11
    addFrag := fld w 13 12, pcpExpress := fld w 18 16, pcpBulk := fld w 21 19, pfcTx := fld w 31 24, pfcRx := fld w 39 32, vid := fld w 51 40
    maxFrame := leAt b (o + 8) 2 % 16384, hopLimit := leAt b (o + 10) 1, mac := beNat (slice b (o + 12) 6), ipv4 := beNat (slice b (o + 18) 4)
    ipv6 := beNat (slice b (o + 24) 16) }

/-- Whether a MAC address has its group bit set or is all zeros. -/
def badMac (m : Nat) : Bool := decide (m = 0) || m.testBit 40

/-- The first of a list of checks that fails. -/
def badField (l : List (Bool × Nat)) : Option Nat := (l.find? fun p => !p.1).map (·.2)

/-- The field of a port record that R259 refuses; `q` is the port that its place in the block stands for. -/
def portRecFault (b : Bytes) (q o : Nat) : Option Nat :=
  let p := portRecAt b o
  let w := leAt b o 8
  badField [(decide (fld w 3 3 = 0), o), (decide (fld w 15 14 = 0), o + 1), (decide (fld w 23 22 = 0), o + 2), (decide (fld w 63 52 = 0), o + 6),
    (decide (leAt b (o + 8) 2 / 16384 = 0), o + 9), (decide (leAt b (o + 11) 1 = 0), o + 11), (decide (leAt b (o + 22) 2 = 0), o + 22),
    (decide (leAt b (o + 40) 24 = 0), o + 40), (decide (p.lanes ≤ 4), o), (decide (fld w 2 0 = q), o), (!p.medium || decide (p.lanes = 1), o),
    (p.preemptEn || !p.verifyEn, o + 1), (p.preemptEn || decide (p.addFrag = 0), o + 1), (!p.preemptEn || decide (p.pcpExpress ≠ p.pcpBulk), o + 2),
    (p.vlanEn || decide (p.pfcTx = 0), o + 3), (p.vlanEn || decide (p.pfcRx = 0), o + 4),
    (if p.vlanEn then decide (1 ≤ p.vid ∧ p.vid ≤ 4094) else decide (p.vid = 0), o + 5), (decide (1518 ≤ p.maxFrame ∧ p.maxFrame ≤ 9216), o + 8),
    (decide (p.hopLimit ≠ 0), o + 10), (!badMac p.mac, o + 12), (decide (p.lanes = 0 ∨ p.ipv4 ≠ 0 ∨ p.ipv6 ≠ 0), o + 18),
    (decide (p.ipv6 / 2 ^ 120 ≠ 0xFF), o + 24)]

/-- Node record at the start of a block. -/
def nodeRecAt (b : Bytes) : NodeRec :=
  let w := leAt b 0 4
  { node := fld w 14 0, domain := fld w 15 15, port := fld w 31 16, retxUs := if leAt b 4 2 = 0 then 20 else leAt b 4 2
    ports := (List.range 8).map fun q =>
      let o := 32 + 32 * q
      { nextHop := leAt b o 6, v4 := leAt b (o + 8) 4, v6 := leAt b (o + 16) 14 } }

/-- The checks of one port entry of a node record; `p` is the record the port will have. -/
def portEntChecks (b : Bytes) (p : PortRec) (q : Nat) : List (Bool × Nat) :=
  let n := nodeRecAt b
  let e := n.ports.getD q {}
  let o := 32 + 32 * q
  let a := slotAddr e n.domain n.node
  [(decide (leAt b (o + 6) 2 = 0), o + 6), (decide (e.v4 % 65536 = 0), o + 8), (decide (leAt b (o + 12) 4 = 0), o + 12), (decide (leAt b (o + 30) 2 = 0), o + 30)] ++
    (if p.lanes = 0 then []
     else [(decide (e.v4 ≠ 0 ∨ e.v6 ≠ 0), o + 8), (decide (a.2 = if a.1 then p.ipv6 else p.ipv4), if a.1 then o + 16 else o + 8), (!badMac e.nextHop, o)])

/-- The field of a node record that R273 refuses. -/
def nodeRecFault (b : Bytes) (recs : Nat → PortRec) : Option Nat :=
  let r := leAt b 4 2
  badField ([(decide (1024 ≤ (nodeRecAt b).port), 2), (decide (r = 0 ∨ (5 ≤ r ∧ r ≤ 1000)), 4), (decide (leAt b 6 26 = 0), 6)] ++
    (List.range 8).flatMap fun q => portEntChecks b (recs q) q)

/-- Whether an admitted step holds a FABRIC claim on a port (R259). -/
def portClaimed (s : State) (q : Nat) : Bool := unitClaimed s (.abutment q)

/-- The one type that a record's auto-negotiation advertises; none where the port only trains (R255). -/
def advertised (r : PortRec) : Option (Nat × Bool) := if r.autoneg ∧ r.lanes ≠ 0 then some (r.lanes, r.medium) else none

/-- An accepted record: the port goes down, its buffers are discarded, and it trains afresh (R260). -/
def applyPortRec (s : State) (q : Nat) (r : PortRec) : State :=
  let s := dropLink s q
  let p := portOf s q
  setPort { s with slory := { s.slory with rx := s.slory.rx.filter fun f => decide (f.port ≠ q) } } q { p with
    rcd := r, training := decide (r.lanes ≠ 0), advert := advertised r, polarity := 0, express := [], bulk := [], expressWait := [], bulkWait := []
    rxHeld := [], pfcOn := 0, ignore := 0, buckets := [] }

/-- FABRIC_CONFIG: every record is checked before any is applied. -/
def execFabricConfig (r : RingId) (s : State) : Host.Outcome State Fault Refusal :=
  .next (withCmd s r 0x00B0 fun c =>
    let b := c.param
    let withNode := c.desc.getLsbD 296
    let qs := (List.range 8).filter fun q => c.desc.getLsbD (288 + q)
    let at_ := fun i => (if withNode then 288 else 0) + 64 * i
    let recs := fun q => match qs.findIdx? (· == q) with | some i => portRecAt b (at_ i) | none => (portOf s q).rcd
    match (List.range qs.length).findSome? fun i => portRecFault b (qs.getD i 0) (at_ i) with
    | some o => refuseAt s r c (1, o)
    | none =>
      if qs.any (portClaimed s) then refusePlain s r c stBusy
      else
        match (if withNode then nodeRecFault b recs else none) with
        | some o => refuseAt s r c (1, o)
        | none =>
          if withNode && s.steps.any (fun x => x.state.live || decide (x.state = .hold)) then refusePlain s r c stBusy
          else
            let s := if withNode then { s with slory := { s.slory with node := some (nodeRecAt b) } } else s
            endOk ((List.range qs.length).foldl (fun s i => applyPortRec s (qs.getD i 0) (portRecAt b (at_ i))) s) r c 0)

/-! ### The link -/

/-- A verify or respond mPacket of 802.3br: 60 octets of zeros behind its SMD. -/
def verifyPacket (respond : Bool) : Bytes := BitVec.ofNat 8 (if respond then 0x19 else 0x07) :: List.replicate 60 0

/-- Queues a verify or respond mPacket, of the express class (R264). Its priority is written 9, which no pause stops. -/
def sendVerify (s : State) (q : Nat) (respond : Bool) : State := enqueueFrame s q true ⟨verifyPacket respond, none, none, 9⟩

/-- Lanes of a port that a record uses (R254). -/
def laneCount (lanes : Nat) : Nat := match lanes with | 1 => 1 | 2 => 2 | 3 => 4 | 4 => 8 | _ => 0

/-- PORT_LINK_UP: negotiation and training are over, lanes that they found inverted are corrected (R255). With VERIFY_EN the
verify procedure begins; without it pre-emption starts at once (R264). -/
def execPortLinkUp (q : Nat) (s : State) (inverted : Nat := 0) : Host.Outcome State Fault Refusal :=
  let p := portOf s q
  if p.training ∧ !p.up ∧ p.rcd.lanes ≠ 0 then
    let ver := p.rcd.preemptEn && p.rcd.verifyEn
    let s := setPort s q { p with
      up := true, training := false, advert := none, polarity := inverted % 2 ^ laneCount p.rcd.lanes, linkChange := true, verify := b2n ver
      preempt := p.rcd.preemptEn && !p.rcd.verifyEn }
    .next (raiseVector (if ver then sendVerify s q false else s) 258)
  else .next s

/-- PORT_LINK_DOWN: the port trains again. -/
def execPortLinkDown (q : Nat) (s : State) : Host.Outcome State Fault Refusal :=
  if (portOf s q).up then
    let s := logErr (dropLink s q) 0x0601 none (BitVec.ofNat 128 q)
    .next (setPort s q { portOf s q with training := true, advert := advertised (portOf s q).rcd })
  else .next s

/-- PORT_TRAINING_TIMEOUT: training goes on. -/
def execPortTrainingTimeout (q : Nat) (s : State) : Host.Outcome State Fault Refusal :=
  let p := portOf s q
  if p.training ∧ !p.up then .next (raiseVector (logErr s 0x0602 none (BitVec.ofNat 128 q)) 258) else .next s

/-- VERIFY_DONE. -/
def execVerifyDone (q : Nat) (ok : Bool) (s : State) : Host.Outcome State Fault Refusal :=
  let p := portOf s q
  if p.up ∧ p.verify = 1 then
    let s := setPort s q { p with verify := if ok then 2 else 3, preempt := ok }
    .next (if ok then s else logErr s 0x0603 none (BitVec.ofNat 128 q))
  else .next s

/-- VERIFY_FRAME: where the port runs the MAC merge sublayer a verify frame is answered with a respond frame; a respond frame
while verifying lets verification succeed at VERIFY_DONE (R264). -/
def execVerifyFrame (q : Nat) (respond : Bool) (s : State) : Host.Outcome State Fault Refusal :=
  if (portOf s q).up then
    let s := bumpPort s q 18 1
    .next (if respond || !(portOf s q).rcd.preemptEn then s else sendVerify s q true)
  else .next s

/-! ### Transmission (R262, R264) -/

/-- The type field of a frame behind its tag. -/
def frameType (b : Bytes) : Nat := if beNat (slice b 12 2) = 0x8100 then beNat (slice b 16 2) else beNat (slice b 12 2)

/-- Counts a frame sent complete and hands it to the link. -/
def sentFrame (s : State) (q : Nat) (express : Bool) (f : TxFrame) : State :=
  let s := bumpPort (bumpPort (bumpPort s q 0 1) q 1 f.bytes.length) q (if express then 2 else 3) 1
  let t := frameType f.bytes
  let s := if t = 0x8808 then bumpPort s q 5 1 else if t = 0x0806 ∨ (t = 0x86DD ∧ !express ∧ f.ctx = none) then bumpPort s q 6 1 else s
  emit s (.frame q f.bytes)

/-- Frames that waited outside a buffer enter it as room appears (R262, R266). -/
def refillBuffers (s : State) (q : Nat) : State :=
  let p := portOf s q
  let p := p.expressWait.foldl (fun (p : Port) f =>
    if p.express.length < 128 ∧ bufBytes p.express + f.bytes.length ≤ 32768 ∧ p.expressWait.head? = some f then
      { p with express := p.express ++ [f], expressWait := p.expressWait.drop 1 } else p) p
  let p := p.bulkWait.foldl (fun (p : Port) f =>
    if bufBytes p.bulk + f.bytes.length ≤ 262144 ∧ p.bulkWait.head? = some f then
      { p with bulk := p.bulk ++ [f], bulkWait := p.bulkWait.drop 1 } else p) p
  setPort s q p

/-- Whether a frame's priority is paused by the partner; frames of priority 8 belong to none. -/
def Port.stopped (p : Port) (f : TxFrame) : Bool := decide (f.prio < 8) && p.paused.testBit f.prio

/-- The first frame of a buffer whose priority is not paused. -/
def Port.ready (p : Port) (l : List TxFrame) : Option TxFrame := l.find? fun f => !p.stopped f

/-! ### Shaping (R257) -/

/-- The FABRIC rate in Gb/s that an admitted step claims on a port. -/
def claimRate (s : State) (q : Nat) (x : Step) : Nat :=
  if x.state.live then
    total (((((imageOf s x).map fun img => img.claims.headD []).getD []).filter fun c => decide (c.res = 9 ∧ c.unit = q)).map (·.amount))
  else 0

/-- The bucket of a frame: that of its step while the step holds a claim on the port, else the one of work outside steps. -/
def bucketKey (s : State) (q : Nat) (f : TxFrame) : Nat :=
  match f.step.bind (stepOf s) with
  | some x => if claimRate s q x = 0 then 0 else x.id + 1
  | none => 0

/-- The rate in Gb/s that fills a bucket: the step's claim, or what no admitted step claims. -/
def bucketRate (s : State) (q k : Nat) : Nat :=
  match k with
  | 0 => (portOf s q).gbps - total (s.steps.map (claimRate s q))
  | i + 1 => ((stepOf s i).map (claimRate s q)).getD 0

/-- The bits in a bucket now: one MAX_FRAME at most, and at first (DESIGN CHOICE, log entry 94). -/
def bucketLevel (s : State) (q k : Nat) : Nat :=
  let p := portOf s q
  match kfind p.buckets k with
  | none => 8 * p.rcd.maxFrame
  | some (v, t) => min (8 * p.rcd.maxFrame) (v + 10 * bucketRate s q k * (s.clk.uptime - t))

/-- Whether the bucket of a pre-emptable frame holds its bits. -/
def funded (s : State) (q : Nat) (f : TxFrame) : Bool := decide (8 * f.bytes.length ≤ bucketLevel s q (bucketKey s q f))

/-- The buckets of a port once a frame has started. -/
def spend (s : State) (q : Nat) (f : TxFrame) : KMap (Nat × Nat) :=
  let k := bucketKey s q f
  kput ((portOf s q).buckets.filter fun e => decide (e.1 = 0) || s.steps.any fun x => decide (e.1 = x.id + 1)) k
    (bucketLevel s q k - 8 * f.bytes.length, s.clk.uptime)

/-- The first pre-emptable frame whose priority is not paused and whose bucket holds it. -/
def bulkReady (s : State) (q : Nat) : Option TxFrame :=
  let p := portOf s q
  p.bulk.find? fun f => !p.stopped f && funded s q f

/-! ### The MAC (R262, R264) -/

/-- Whether 802.3br lets the frame on the wire be cut once more: every fragment but the last carries at least 60 + 64 × ADD_FRAG
octets of it, the last at least 64 (PRESUMED, log entry 94). -/
def Port.canCut (p : Port) (w : TxFrame) : Bool :=
  p.preempt && decide ((p.cuts + 1) * (60 + 64 * p.rcd.addFrag) + 64 ≤ w.bytes.length)

/-- An express frame starts on the wire. -/
def startExpress (s : State) (q : Nat) (p : Port) (f : TxFrame) : State :=
  refillBuffers (setPort s q { p with express := p.express.erase f, expressWire := some f }) q

/-- The pre-emptable frame on the wire is sent to its end. -/
def finishBulk (s : State) (q : Nat) (w : TxFrame) : State :=
  sentFrame (setPort s q { portOf s q with onWire := none, cut := false, cuts := 0 }) q false w

/-- FRAME_TRANSMIT: what the port's MAC does next. An express frame on the wire is completed. A pre-emptable one is completed, unless
pre-emption is in use, an express frame is ready and 802.3br permits a cut; a cut one resumes as a continuation fragment after
the express frames queued by then. With nothing on the wire an express frame starts, or a pre-emptable one that its bucket
funds. -/
def execFrameTransmit (q : Nat) (s : State) : Host.Outcome State Fault Refusal :=
  let p := portOf s q
  if !p.up then .next s
  else
    match p.expressWire, p.ready p.express, p.onWire with
    | some f, _, _ => .next (sentFrame (setPort s q { p with expressWire := none }) q true f)
    | none, some f, none => .next (startExpress s q p f)
    | none, some f, some w =>
      if p.cut then .next (startExpress s q p f)
      else if p.canCut w then .next (startExpress s q { p with cut := true, cuts := p.cuts + 1 } f)
      else .next (finishBulk s q w)
    | none, none, some w =>
      if p.cut then .next (bumpPort (setPort s q { p with cut := false }) q 4 1) else .next (finishBulk s q w)
    | none, none, none =>
      match bulkReady s q with
      | some f => .next (refillBuffers (setPort s q { p with bulk := p.bulk.erase f, onWire := some f, buckets := spend s q f }) q)
      | none => .next s

/-! ### Priority flow control (R267, R269, R431) -/

/-- A PFC frame of 802.1Qbb for one priority. -/
def pfcBytes (p : PortRec) (prio quanta : Nat) : Bytes :=
  etherBytes p 0x0180C2000001 0x8808 none
    (beBytes 2 0x0101 ++ beBytes 2 (2 ^ prio) ++ (List.range 8).flatMap fun i => beBytes 2 (if i = prio then quanta else 0))

/-- Sends a PFC frame. -/
def sendPfc (s : State) (q prio quanta : Nat) : State := enqueueFrame s q true ⟨pfcBytes (portOf s q).rcd prio quanta, none, none, 8⟩

/-- After the bytes held of a priority change: a PFC frame at 48 KiB, another with quanta 0 below 24 KiB. -/
def pfcCheck (s : State) (q prio : Nat) : State :=
  let p := portOf s q
  let n := kget 0 p.rxHeld prio
  if !p.rcd.pfcTx.testBit prio then s
  else if 49152 ≤ n ∧ !p.pfcOn.testBit prio then sendPfc (setPort s q { p with pfcOn := p.pfcOn + 2 ^ prio }) q prio 0xFFFF
  else if n < 24576 ∧ p.pfcOn.testBit prio then sendPfc (setPort s q { p with pfcOn := p.pfcOn - 2 ^ prio }) q prio 0
  else s

/-- PFC_REPEAT: 16,384 quanta have passed and the priority still holds 48 KiB or more. -/
def execPfcRepeat (q prio : Nat) (s : State) : Host.Outcome State Fault Refusal :=
  let p := portOf s q
  if p.up ∧ prio < 8 ∧ p.pfcOn.testBit prio ∧ 49152 ≤ kget 0 p.rxHeld prio then .next (sendPfc s q prio 0xFFFF) else .next s

/-- Clears bit `k` of a mask. -/
def clearBit (m k : Nat) : Nat := if m.testBit k then m - 2 ^ k else m

/-- Sets bit `k` of a mask. -/
def setBit (m k : Nat) : Nat := if m.testBit k then m else m + 2 ^ k

/-- A received PFC frame gives priority `prio` a pause time, replacing the time remaining. -/
def pausePrio (s : State) (q prio quanta : Nat) : State :=
  let s := settlePause q s prio
  let p := portOf s q
  setPort s q { p with
    paused := if quanta = 0 then clearBit p.paused prio else setBit p.paused prio, quanta := kset 0 p.quanta prio quanta
    pausedAt := kset 0 p.pausedAt prio s.clk.uptime, counted := kset 0 p.counted prio 0 }

/-- PAUSE_EXPIRY. -/
def execPauseExpiry (q prio : Nat) (s : State) : Host.Outcome State Fault Refusal :=
  let p := portOf s q
  if prio < 8 ∧ p.paused.testBit prio then
    let s := countPause s q prio (kget 0 p.quanta prio - kget 0 p.counted prio)
    let p := portOf s q
    .next (setPort s q { p with paused := clearBit p.paused prio, quanta := kset 0 p.quanta prio 0, counted := kset 0 p.counted prio 0 })
  else .next s

/-- PAUSE_STORM: PFC is ignored for the priority from now on. -/
def execPauseStorm (q prio : Nat) (s : State) : Host.Outcome State Fault Refusal :=
  let p := portOf s q
  if prio < 8 ∧ p.paused.testBit prio then
    let s := settlePause q s prio
    let p := portOf s q
    .next (logErr (setPort s q { p with paused := clearBit p.paused prio, quanta := kset 0 p.quanta prio 0, counted := kset 0 p.counted prio 0, ignore := setBit p.ignore prio })
      0x0604 none (Config.errDetail 0x0604 [q, prio]))
  else .next s

/-- PAUSE_IGNORE_END. -/
def execPauseIgnoreEnd (q prio : Nat) (s : State) : Host.Outcome State Fault Refusal :=
  let p := portOf s q
  if p.ignore.testBit prio then .next (setPort s q { p with ignore := clearBit p.ignore prio }) else .next s

end Sys2Proof.Machine
end

