-- ==== Sys2Proof/Machine/SloryTx.lean ====
section
/-! DEFINITION. The Slory transport: received headers and the checks of R280, acknowledgements and gaps (R279),
retransmission (R278, R431). -/

namespace Sys2Proof.Machine

/-! ### Received headers (R274) -/

/-- The header of a Slory frame, with its payload. -/
structure SloryHdr where
  ver : Nat
  op : Nat
  dom : Nat
  src : Nat
  tag : Nat
  step : Nat
  flow : Nat
  dst : Nat
  seq : Nat
  off : Nat
  len : Nat
  attempt : Nat
  last : Bool
  sub : Nat
  srcIndex : Nat
  reserved : Bool
  payload : Bytes
  deriving DecidableEq, Repr

/-- Reads the header of a UDP payload; `reserved` says that a reserved field is not 0. -/
def sloryHdr (b : Bytes) : SloryHdr :=
  let w := fun i => beNat (slice b (4 * i) 4)
  { ver := fld (w 0) 31 28, op := fld (w 0) 23 16, dom := fld (w 0) 15 15, src := fld (w 0) 14 0, tag := w 1, step := w 2
    flow := fld (w 3) 31 16, dst := fld (w 3) 14 0, seq := w 4, off := w 5, len := fld (w 6) 31 16, attempt := fld (w 6) 15 8
    last := bit (w 6) 7, sub := fld (w 6) 6 0, srcIndex := fld (w 7) 31 16, payload := b.drop 32
    reserved := decide (fld (w 0) 27 24 ≠ 0 ∨ fld (w 3) 15 15 ≠ 0 ∨ fld (w 7) 15 0 ≠ 0) ||
      (decide (fld (w 0) 23 16 = 0x12) && decide (leNat ((b.drop 36).take 12) ≠ 0)) }

/-- The legal opcodes (R275). -/
def sloryOps : List Nat := [1, 2, 3, 4, 5, 0x10, 0x11, 0x12]

/-- The identity of the flow that a data frame or a token belongs to (R277). -/
def SloryHdr.key (h : SloryHdr) : FlowKey := ⟨h.tag, h.dom, h.src, h.dst, h.step, h.attempt, h.flow⟩

/-- The sending flow that an ACK or a NAK answers. -/
def ackedFlow (s : State) (h : SloryHdr) : Option TxFlow :=
  s.slory.tx.find? fun f => decide (f.key.tag = h.tag ∧ f.key.dst = h.src ∧ f.dstDom = h.dom ∧ f.key.step = h.step ∧
    f.key.attempt = h.attempt ∧ f.key.flow = h.flow)

/-- The context that carries a tag. -/
def ctxByTag (s : State) (tag : Nat) : Option (Nat × Ctx) := s.ctxs.find? fun q => decide (q.2.tag.toNat = tag)

/-- Rows 1 to 4 of R280: the counter of the first that fails. Row 1 discards a frame with a reserved field that is not 0, where R9 would
ignore the field (DESIGN CHOICE, log entry 92). -/
def hdrFault (s : State) (f : RxFrame) : Option Nat :=
  let h := sloryHdr f.udp
  if h.ver ≠ 1 ∨ h.op ∉ sloryOps ∨ h.reserved ∨ (h.op = 0x12 ∧ h.sub ∉ [1, 2, 3, 0x10, 0x11, 0x12]) ∨ f.udp.length < 32 ∨ 8192 < h.len ∨ h.len ≠ f.udp.length - 32 then some 1
  else
    match s.slory.node with
    | none => some 2
    | some nd =>
      let delta := decide (h.op = 5) || ((h.op = 0x10 ∨ h.op = 0x11) && ((ackedFlow s h).map fun g => decide (g.op = 5)).getD false)
      if h.dst ≠ nd.node ∨ (h.dom ≠ nd.domain ∧ !delta) then some 2
      else if f.port < 8 ∧ slotAddr (nd.ports.getD f.port {}) h.dom h.src ≠ (f.v6, f.srcIp) then some 3
      else if (ctxByTag s h.tag).isNone then some 4
      else none

/-! ### Steps and attempts (R280 rows 5 and 6) -/

/-- The multi-module step of a context with a step number, while it has not committed. -/
def collectiveStep (s : State) (n number : Nat) : Option Step :=
  s.steps.find? fun x => decide (x.ctx = n ∧ x.number = number ∧ x.state ≠ .committed) && ((imageOf s x).map Image.multi).getD false

/-- Row 5: STEP and ATTEMPT are older than the context's current attempt of that step. -/
def isStale (s : State) (n : Nat) (c : Ctx) (h : SloryHdr) : Bool :=
  match collectiveStep s n h.step with
  | some x => decide (h.attempt < x.attempt)
  | none => decide (h.step ≤ c.lastStep)

/-- Row 6: the step, admitted at this attempt. -/
def admittedAt (s : State) (n : Nat) (h : SloryHdr) : Option Step :=
  (collectiveStep s n h.step).bind fun x => if x.attempt = h.attempt ∧ (x.state.live ∨ x.state = .hold) then some x else none

/-! ### Acknowledgements (R279) -/

/-- The lowest sequence number of a flow not yet received. -/
def RxFlow.next (f : RxFlow) : Nat := ((List.range (f.data.length + 1)).find? fun i => (kfind f.data i).isNone).getD 0

/-- A frame of this node that answers a flow: an ACK or a NAK. It leaves on the lowest-numbered port that is up (R281). -/
def sendAnswer (s : State) (k : FlowKey) (op seq sub : Nat) (b : Bytes) : State :=
  match s.slory.node with
  | none => s
  | some nd =>
    let u := sloryHeader op nd.domain nd.node k.tag k.step k.flow k.src seq 0 b.length k.attempt false sub 0 ++ b
    sendSlory s ((lowestUp s).getD 0) k.srcDomain k.src op u ((ctxByTag s k.tag).map (·.1)) none

/-- Sends the ACK of a flow: SEQ, and bit i for the receipt of frame SEQ + 1 + i. -/
def sendAck (s : State) (f : RxFlow) : State :=
  let k := f.next
  let m := (List.range 64).foldl (fun m i => if (kfind f.data (k + 1 + i)).isSome then m + 2 ^ i else m) 0
  sendAnswer s f.key 0x10 k 0 (leBytes 8 m)

/-- Sends a NAK of reason `sub` that names frame `seq`. -/
def sendNak (s : State) (k : FlowKey) (seq sub : Nat) : State := bumpSlory (sendAnswer s k 0x11 seq sub []) 10 1

/-- Replaces a receiving flow. -/
def setRx (s : State) (f : RxFlow) : State :=
  { s with slory := { s.slory with rxFlows := s.slory.rxFlows.map fun g => if g.id = f.id then f else g } }

/-- RETX_US in ticks. -/
def retxTicks (s : State) : Nat := 100 * ((s.slory.node.map (·.retxUs)).getD 20)

/-- Whether the partner's region of a context withholds acknowledgements: both halves are occupied (R226), the active one as soon as it
holds a commit, whose own acknowledgement has gone out (DESIGN CHOICE, log entry 93). -/
def withholds (c : Ctx) : Bool :=
  match c.partner with
  | some p => p.closed.isSome && decide (p.half ≠ [])
  | none => false

/-- Takes a data frame or token of a flow in: its payload stands at OFFSET, a duplicate is counted, an ACK goes out after
every 16 frames, and a frame above a gap draws a NAK at most once per gap per RETX_US. -/
def takeFrame (s : State) (h : SloryHdr) (stepId : Option Nat) (quiet : Bool) : State × RxFlow :=
  let s := bumpSlory s 0 1
  let old := s.slory.rxFlows.find? fun f => decide (f.key = h.key ∧ f.op = h.op)
  let s := match old with
    | some _ => s
    | none => { s with slory := { s.slory with nextFlow := s.slory.nextFlow + 1, rxFlows := s.slory.rxFlows ++
        [{ id := s.slory.nextFlow, key := h.key, op := h.op, stepId := stepId, srcIndex := h.srcIndex }] } }
  let f := old.getD { id := s.slory.nextFlow - 1, key := h.key, op := h.op, stepId := stepId, srcIndex := h.srcIndex }
  let s := if (kfind f.data h.seq).isSome then bumpSlory s 8 1 else s
  let f : RxFlow := { f with
    data := kput f.data h.seq (if f.done then [] else h.payload), offs := kput f.offs h.seq h.off
    last := if h.last then some h.seq else f.last, sinceAck := f.sinceAck + 1 }
  let g := f.next
  let gap := decide (g < h.seq) && (decide (f.nakFor ≠ some g) || decide (f.nakAt + retxTicks s ≤ s.clk.uptime))
  let s := if gap then sendNak s h.key g 1 else s
  let f : RxFlow := if gap then { f with nakFor := some g, nakAt := s.clk.uptime } else f
  let full := decide (16 ≤ f.sinceAck) && !quiet
  let f' := if full then { f with sinceAck := 0 } else f
  (setRx (if full then sendAck s f else s) f', f')

/-- ACK_TIMER: 2 µs after the first unacknowledged arrival. A token's flow is forgotten once it is acknowledged. -/
def execAckTimer (flow : Nat) (s : State) : Host.Outcome State Fault Refusal :=
  match s.slory.rxFlows.find? fun f => decide (f.id = flow) with
  | none => .next s
  | some f =>
    let quiet := decide (f.op = 5) && !f.done && ((ctxByTag s f.key.tag).map fun q => withholds q.2).getD false
    if f.sinceAck = 0 ∨ quiet then .next s
    else
      let s := sendAck s f
      if f.op = 0x12 then .next { s with slory := { s.slory with rxFlows := s.slory.rxFlows.filter fun g => decide (g.id ≠ f.id) } }
      else .next (setRx s { f with sinceAck := 0 })

/-! ### Retransmission (R278, R431) -/

/-- Sends frame `seq` of a flow again. -/
def resend (s : State) (f : TxFlow) (seq : Nat) : State :=
  match f.frames[seq]? with
  | some fr => bumpSlory (sendSlory s f.port f.dstDom f.key.dst f.op fr.2 (some f.ctx) f.stepId) 9 1
  | none => s

/-- Whether a flow has sent frame `seq` and not had it acknowledged. -/
def TxFlow.awaits (f : TxFlow) (seq : Nat) : Bool := decide (seq < f.sentUpTo) && !f.acked.contains seq

/-- Replaces a sending flow. -/
def setTx (s : State) (f : TxFlow) : State :=
  { s with slory := { s.slory with tx := s.slory.tx.map fun g => if g.id = f.id then f else g } }

/-- RETRANSMISSION_TIMER: RETX_US after the last transmission of a frame. -/
def execRetransmissionTimer (flow seq : Nat) (s : State) : Host.Outcome State Fault Refusal :=
  match s.slory.tx.find? fun f => decide (f.id = flow) with
  | none => .next s
  | some f => if f.awaits seq then .next (resend s f seq) else .next s

end Sys2Proof.Machine
end

