-- ==== Sys2Proof/Machine/Fabric.lean ====
section
/-! DEFINITION. Fabric-list entries (R282 to R288, R293): sends and receives of streams, ordered reductions, the norm,
accumulators. An entry whose bytes are not all at hand waits, and only its abutment's slip advances. -/

namespace Sys2Proof.Machine

/-- The next entry of an abutment's list, where its FOP is `fop`. -/
def nextFab (s : State) (st q fop : Nat) : Option (Step × Image × Ctx × UnitSt × FabIns) :=
  match nextIns s st (2400 + q) (fun img => kget [] img.fabrics q) (·.cycle) with
  | some (x, img, c, u, k) => if k.fop = fop then some (x, img, c, u, k) else none
  | none => none

/-- The step after an abutment has issued an entry that moved `n` bytes. -/
def fabIssued (x : Step) (q : Nat) (u : UnitSt) (stall n : Nat) : Step :=
  { x.setUnit (2400 + q) (u.issued stall 0) with activity := { x.activity with fabric := x.activity.fabric + ceilDiv n 128 } }

/-- Whether a stream carries a block list. -/
def listStream (img : Image) (x : Step) (i : Nat) : Bool := (x.stream i).list || carriesList img i

/-- The bytes of a whole stream, once all its blocks are at hand; of a block list, as many as its header counts. -/
def sendBytes (s : State) (img : Image) (x : Step) (i : Nat) (d : Desc) (cyc : Nat) : Option Bytes :=
  if listStream img x i then
    (streamBytes s img x i d cyc 16).bind fun h => streamBytes s img x i d cyc (16 + 264 * leAt h 0 4)
  else ((List.range (streamLen img d)).mapM (sourceBlock s img x i d cyc)).map List.flatten

/-- The FP32 words of a stream's elements in stream order. -/
def streamWords (s : State) (img : Image) (x : Step) (i : Nat) (d : Desc) (cyc : Nat) : Option (List Nat) :=
  ((List.range (streamLen img d)).mapM (sourceBlock s img x i d cyc)).map fun l =>
    l.flatMap fun b => (List.range 64).map fun e => (fconv d.fmt .fp32 (blockElem d.fmt b e)).1

/-- The bytes of a contribution: FP32 at full width (R284). -/
def contribution (s : State) (img : Image) (x : Step) (i : Nat) (d : Desc) (cyc : Nat) : Option Bytes :=
  if listStream img x i ∨ d.fmt = .fp32 then sendBytes s img x i d cyc
  else (streamWords s img x i d cyc).map fun ws => ws.flatMap (leBytes 4)

/-- Starts a step's flow toward a participant on port `q`. -/
def stepFlow (s : State) (x : Step) (op q dst flow srcIndex : Nat) (b : Bytes) : State :=
  startFlow s x.ctx op q ((s.slory.node.map (·.domain)).getD 0) dst x.number x.attempt flow srcIndex 0 (some x.id) b

/-- A send of a stream as a flow of opcode `op`. -/
def sendEntry (fop op st q stall : Nat) (s : State) : State :=
  match nextFab s st q fop with
  | none => s
  | some (x, img, _, u, k) =>
    match (descOf img x k.desc).bind fun d => sendBytes s img x k.desc d k.cycle with
    | none => waitFor s x (2400 + q) u stall 0 [k.desc]
    | some b =>
      issueOr s img x (2400 + q) u k.cycle stall (stepFlow (setStep s (fabIssued x q u stall b.length)) x op q k.node k.flow 0 b)

/-- SEND. -/
def execSend (st q stall : Nat) (s : State) : Host.Outcome State Fault Refusal := .next (sendEntry 1 1 st q stall s)

/-- SPLIT_SEND. -/
def execSplitSend (st q stall : Nat) (s : State) : Host.Outcome State Fault Refusal := .next (sendEntry 5 4 st q stall s)

/-! ### Receiving (R277, R285, R293) -/

/-- A complete flow of a step. -/
def stepRx (s : State) (x : Step) (op flow : Nat) (sel : RxFlow → Bool) : Option RxFlow :=
  s.slory.rxFlows.find? fun f => decide (f.stepId = some x.id ∧ f.op = op ∧ f.key.flow = flow) && sel f && f.complete

/-- The blocks of received bytes, tagged as R198 says. -/
def recvBlocks (d : Desc) (cyc : Nat) (b : Bytes) : List StreamBlock :=
  (List.range (ceilDiv b.length d.blockBytes)).map fun k =>
    ⟨slice b (d.blockBytes * k) d.blockBytes, d.stash, cyc⟩

/-- RECV: the flow's bytes become its stream once it is complete. -/
def execRecv (st q stall : Nat) (s : State) : Host.Outcome State Fault Refusal :=
  match nextFab s st q 2 with
  | none => .next s
  | some (x, img, _, u, k) =>
    match stepRx s x 1 k.flow fun f => decide (f.key.src = k.node), descOf img x k.desc with
    | some f, some d =>
      let y := produce (fabIssued x q u stall f.bytes.length) k.desc (recvBlocks d k.cycle f.bytes)
      .next (issueOr s img x (2400 + q) u k.cycle stall
        (setStep s (y.setStream k.desc { y.stream k.desc with list := carriesList img k.desc })))
    | _, _ => .next (waitUnit s x (2400 + q) u stall 0)

/-- SPLIT_RECV: the bytes stand in the local store of the stream's span at once. -/
def execSplitRecv (st q stall : Nat) (s : State) : Host.Outcome State Fault Refusal :=
  match nextFab s st q 6 with
  | none => .next s
  | some (x, img, _, u, k) =>
    match stepRx s x 4 k.flow fun f => decide (f.key.src = k.node), descOf img x k.desc with
    | some f, some d =>
      let bs := recvBlocks d k.cycle f.bytes
      let y := produce (fabIssued x q u stall f.bytes.length) k.desc bs
      let loc := (List.range bs.length).foldl (fun m i =>
        match bs[i]? with
        | some b => vwriteRun m x.id k.cycle (locBase d.span + blockAddr img d i) b.bytes
        | none => m) s.pm.loc
      let t := y.stream k.desc
      .next (issueOr s img x (2400 + q) u k.cycle stall
        (setStep { s with pm := { s.pm with loc := loc } } (y.setStream k.desc { t with memPos := t.memPos + bs.length })))
    | _, _ => .next (waitUnit s x (2400 + q) u stall 0)

/-! ### Block lists in reductions (R113 to R115) -/

/-- The entries of a block list. -/
def listEntries (b : Bytes) : List ListEntry :=
  (List.range (leAt b 0 4)).map fun q =>
    let o := 16 + 264 * q
    (leAt b o 4, leAt b (o + 4) 2, (List.range 64).map fun e => leAt b (o + 8 + 4 * e) 4)

/-- The keys of block lists, ascending and without repeats. -/
def listKeys (ls : List (List ListEntry)) : List Nat :=
  (ls.flatten.foldl (fun (m : KMap Unit) e => kput m (e.1 * 65536 + e.2.1) ()) []).map (·.1)

/-- The union of block lists: blocks of one key are added in source order (R115), with the flags of each word. -/
def mergeLists (ls : List (List ListEntry)) : List (Nat × Nat × List (Nat × Nat)) :=
  (listKeys ls).map fun key =>
    let bs := ls.filterMap fun l => (l.find? fun e => decide (e.1 * 65536 + e.2.1 = key)).map (·.2.2)
    (key / 65536, key % 65536, (List.range 64).map fun e => partSum .fp32 (bs.map fun ws => (ws.getD e 0, 0)))

/-- The entries of a merged list. -/
def mergedEntries (m : List (Nat × Nat × List (Nat × Nat))) : List ListEntry := m.map fun e => (e.1, e.2.1, e.2.2.map (·.1))

/-- The events of a merged list at a station; the instruction index is `ins`. TILE, ROW, COL and the lane group are counted as in the
list the events belong to, as for the other results that are no tile (R144; DESIGN CHOICE, log entry 90). -/
def mergedEvents (u : UnitSt) (cyc ins : Nat) (m : List (Nat × Nat × List (Nat × Nat))) : UnitSt :=
  (List.range m.length).foldl (fun u i =>
    match m[i]? with
    | some e => (List.range 64).foldl (fun u k =>
        u.raise (cyc + (64 * i + k) / 512) (.station e.1 (k / 8) ((8 * e.2.1 + k % 8) % 256) ins) (e.2.2.getD k (0, 0)).2) u
    | none => u) u

/-! ### Ordered reductions (R284) -/

/-- Whether an accumulator's slot holds a block list. -/
def accList (c : Ctx) (a : Nat) (slot : Bool) : Option (Nat × List ListEntry) := kfind c.accLists (2 * a + b2n slot)

/-- Key of word `e` of a slot of an accumulator. -/
def accKey (a : Nat) (slot : Bool) (e : Nat) : Nat := (2 * a + b2n slot) * 1099511627776 + e

/-- The live slot of an accumulator. -/
def accLive (c : Ctx) (a : Nat) : Bool := kget false c.accParity a

/-- Words of an accumulator: those of the stream that the image's ACC entry of it names. -/
def accWords (img : Image) (x : Step) (a : Nat) : Nat :=
  (((img.fabrics.flatMap fun f => f.2).find? fun k => decide (k.fop = 8 ∧ k.flow = a)).bind fun k => descOf img x k.desc).elim 0 fun d =>
    64 * streamLen img d

/-- The bytes of an accumulator's shadow (R288). -/
def accBytes (c : Ctx) (img : Image) (x : Step) (a : Nat) : Bytes :=
  match accList c a (!accLive c a) with
  | some l => listBytes l.1 l.2
  | none => (kgetRun 0 c.acc (accKey a (!accLive c a) 0) (accWords img x a)).flatMap fun w => leBytes 4 w.toNat

/-- The bytes that a RED_SEND entry sends, once they are at hand. -/
def redBytes (s : State) (c : Ctx) (img : Image) (x : Step) (k : FabIns) : Option Bytes :=
  if k.desc = 0 then (if x.accWritten.contains k.flow then some (accBytes c img x k.flow) else none)
  else (descOf img x k.desc).bind fun d => contribution s img x k.desc d k.cycle

/-- The owner's own contribution, which travels on the deck. -/
def ownContribution (s : State) (x : Step) (k : FabIns) (b : Bytes) : State :=
  match s.slory.node, ctxOf s x.ctx with
  | some nd, some c =>
    let f : RxFlow := { id := s.slory.nextFlow, key := ⟨c.tag.toNat, nd.domain, nd.node, nd.node, x.number, x.attempt, k.flow⟩, op := 2
                        data := [(0, b)], last := some 0, stepId := some x.id, srcIndex := k.srcIndex }
    { s with slory := { s.slory with rxFlows := s.slory.rxFlows ++ [f], nextFlow := s.slory.nextFlow + 1 } }
  | _, _ => s

/-- RED_SEND. -/
def execRedSend (st q stall : Nat) (s : State) : Host.Outcome State Fault Refusal :=
  match nextFab s st q 3 with
  | none => .next s
  | some (x, img, c, u, k) =>
    match redBytes s c img x k with
    | none => .next (waitFor s x (2400 + q) u stall 0 [k.desc])
    | some b =>
      let t := setStep s (fabIssued x q u stall b.length)
      .next (issueOr s img x (2400 + q) u k.cycle stall
        (if (s.slory.node.map (·.node)) = some k.node then ownContribution t x k b else stepFlow t x 2 q k.node k.flow k.srcIndex b))

/-- The contributions of a RED_RECV entry in ascending source index, once all are here. -/
def contributions (s : State) (x : Step) (k : FabIns) : Option (List Bytes) :=
  (List.range (k.srcIndex + 1)).mapM fun i => (stepRx s x 2 k.flow fun f => decide (f.srcIndex = i)).map RxFlow.bytes

/-- Position of element (i, j) of tile `n` among the words of a stream's present blocks. -/
def wordPos (img : Image) (d : Desc) (n i j : Nat) : Nat :=
  let b := (i / 8) * (d.cols / 8) + j / 8
  64 * (n * presentCount img d + ((presentIdx img d).filter fun k => decide (k < b)).length) + 8 * (i % 8) + j % 8

/-- The sum at element (i, j) of tile `n`, in the format of the result stream. -/
def redElem (img : Image) (d : Desc) (bs : List Bytes) (n i j : Nat) : Nat × Nat :=
  let r := partSum .fp32 (bs.map fun b => (leAt b (4 * wordPos img d n i j) 4, 0))
  let q := fconv .fp32 d.fmt r.1
  (q.1, r.2 ||| q.2)

/-- The addition of the contributions `bs` at the station of SPAN, of an entry that has issued; `ins` is the list index of its
events. A merged list beyond its CAPACITY ends the step (R114, R115). -/
def redSum (s : State) (img : Image) (x : Step) (k : FabIns) (d : Desc) (ins : Nat) (bs : List Bytes) : State :=
  let v := x.unit (2000 + k.span)
  if carriesList img k.desc then
    let m := mergeLists (bs.map listEntries)
    let cap := leAt (bs.headD []) 4 4
    if cap < m.length then failStep s x (fieldReply stContractSlip 4 k.desc)
    else
      let x := produce x k.desc (rawBlocks d.blockBytes (listBytes cap (mergedEntries m)) k.cycle)
      let x := x.setStream k.desc { x.stream k.desc with list := true }
      setStep s (x.setUnit (2000 + k.span) (mergedEvents v k.cycle ins m))
  else
    let r := stationFold s img x k.span v k.desc d k.cycle (fun _ => d.stash) (redElem img d bs)
      (fun n i j => (k.cycle + laneGroup d 512 n i j, .station n i j ins))
    setStep r.1 (r.2.1.setUnit (2000 + k.span) r.2.2)

/-- RED_RECV: the station of SPAN adds the contributions in ascending source index. The list index of an event of this
addition is an unknown of the entry, because no station instruction performs it. -/
def execRedRecv (st q stall : Nat) (s : State) : Host.Outcome State Fault Refusal :=
  match nextFab s st q 4 with
  | none => .next s
  | some (x, img, _, u, k) =>
    match contributions s x k, descOf img x k.desc with
    | some bs, some d =>
      .next (issueOr s img x (2400 + q) u k.cycle stall
        (redSum s img (fabIssued x q u stall 0) k d (Config.addInstr q u.next % 65536) bs))
    | _, _ => .next (waitUnit s x (2400 + q) u stall 0)

/-! ### The norm (R286) -/

/-- The image's NORM entry. -/
def normEntry (img : Image) : Option FabIns := (img.fabrics.flatMap fun f => f.2).find? fun k => decide (k.fop = 7)

/-- NORM: the module's sum goes to the leader once every ACCEPT has ended. -/
def execNorm (st q stall : Nat) (s : State) : Host.Outcome State Fault Refusal :=
  match nextFab s st q 7 with
  | none => .next s
  | some (x, img, _, u, k) =>
    if acceptsDone img x then
      let me := (s.slory.node.map (·.node)).getD 0
      .next (issueOr s img x (2400 + q) u k.cycle stall
        (stepFlow (setStep s (fabIssued x q u stall 8)) x 2 q img.leader k.flow ((img.parts.findIdx? (· == me)).getD 0)
          (leBytes 8 (moduleNorm x))))
    else .next (waitUnit s x (2400 + q) u stall 0)

/-! ### Accumulators (R288) -/

/-- The place of word `w` of a stream: tile, row and column. -/
def wordPlace (img : Image) (d : Desc) (w : Nat) : Nat × Nat × Nat :=
  let p := max 1 (presentCount img d)
  let b := (presentIdx img d).getD ((w / 64) % p) 0
  ((w / 64) / p, 8 * (b / (d.cols / 8)) + (w % 64) / 8, 8 * (b % (d.cols / 8)) + w % 8)

/-- A dense ACC: the new shadow words with their flags. -/
def accSums (c : Ctx) (a : Nat) (gs : List Nat) : List (Nat × Nat) :=
  (List.range gs.length).map fun e =>
    let g := gs.getD e 0
    if c.thinPos = 0 then (g, 0) else fadd .fp32 (dec32 (kget 0 c.acc (accKey a (accLive c a) e)).toNat) (dec32 g)

/-- Writes the shadow slot of an accumulator with words. -/
def putAcc (c : Ctx) (a : Nat) (ws : List Nat) : Ctx :=
  let k := accKey a (!accLive c a) 0
  { c with acc := ksetRun 0 (kclear c.acc k 1099511627776) k (ws.map (BitVec.ofNat 32)), accLists := kdel c.accLists (2 * a + b2n (!accLive c a)) }

/-- Notes that a step has written an accumulator. -/
def noteAcc (x : Step) (a : Nat) : Step := if x.accWritten.contains a then x else { x with accWritten := x.accWritten ++ [a] }

/-- ACC: the shadow takes the gradient, or the live slot plus the gradient. Events fall at the station of SPAN; their
list index is an unknown of the entry. -/
def execAcc (st q stall : Nat) (s : State) : Host.Outcome State Fault Refusal :=
  match nextFab s st q 8 with
  | none => .next s
  | some (x, img, c, u, k) =>
    match descOf img x k.desc with
    | none => .next s
    | some d =>
      let ins := Config.addInstr q u.next % 65536
      let y := noteAcc (fabIssued x q u stall 0) k.flow
      let v := y.unit (2000 + k.span)
      if listStream img x k.desc then
        match sendBytes s img x k.desc d k.cycle with
        | none => .next (waitFor s x (2400 + q) u stall 0 [k.desc])
        | some b =>
          let live := if c.thinPos = 0 then [] else ((accList c k.flow (accLive c k.flow)).map (·.2)).getD []
          let m := mergeLists [live, listEntries b]
          let cap := leAt b 4 4
          let c := { c with accLists := kput c.accLists (2 * k.flow + b2n (!accLive c k.flow)) (cap, mergedEntries m) }
          .next (issueOr s img x (2400 + q) u k.cycle stall
            (if cap < m.length then failStep s x (fieldReply stContractSlip 4 k.desc)
             else setStep (setCtx s x.ctx c) (y.setUnit (2000 + k.span) (mergedEvents v k.cycle ins m))))
      else
        match streamWords s img x k.desc d k.cycle with
        | none => .next (waitFor s x (2400 + q) u stall 0 [k.desc])
        | some gs =>
          let rs := accSums c k.flow gs
          let v := (List.range rs.length).foldl (fun v w =>
            let p := wordPlace img d w
            v.raise (k.cycle + laneGroup d 512 p.1 p.2.1 p.2.2) (.station p.1 p.2.1 p.2.2 ins) (rs.getD w (0, 0)).2) v
          .next (issueOr s img x (2400 + q) u k.cycle stall
            (setStep (setCtx s x.ctx (putAcc c k.flow (rs.map (·.1)))) (y.setUnit (2000 + k.span) v)))

end Sys2Proof.Machine
end

