-- ==== Sys2Proof/Machine/SloryRx.lean ====
section
/-! DEFINITION. Frames that the Slory transport takes from its receive buffer (R277 to R281, R284 to R286, R292, R293,
R296, R312, R313), in the order in which they arrived. -/

namespace Sys2Proof.Machine

/-! ### The receive buffer and the checks -/

/-- Whether a frame carries a token (R275). -/
def RxFrame.token (f : RxFrame) : Bool := decide ((sloryHdr f.udp).op = 0x12)

/-- The frame that is taken next: the oldest, but among tokens that arrived in one cycle the one with the lowest SRC_NODE (R290). -/
def nextRx (s : State) : Option RxFrame :=
  s.slory.rx.head?.map fun f =>
    if f.token then
      (s.slory.rx.filter fun g => g.token && decide (g.at_ = f.at_)).foldl
        (fun a g => if (sloryHdr g.udp).src < (sloryHdr a.udp).src then g else a) f
    else f

/-- Takes a frame out of the receive buffer. -/
def popRx (s : State) (f : RxFrame) : State :=
  let s := { s with slory := { s.slory with rx := s.slory.rx.erase f } }
  if f.port < 8 then
    let p := portOf s f.port
    pfcCheck (setPort s f.port { p with rxHeld := kset 0 p.rxHeld f.prio (kget 0 p.rxHeld f.prio - f.octets) }) f.port f.prio
  else s

/-- Words W0 to W3 of a frame. -/
def headWords (b : Bytes) : BitVec 128 :=
  BitVec.ofNat 128 ((List.range 4).foldl (fun a i => a + beNat (slice b (4 * i) 4) * 2 ^ (32 * i)) 0)

/-- Processes the next frame where it is of a row's kind; one that fails rows 1 to 4 is discarded by whichever row meets
it, counted and logged (R280, R431). -/
def withFrame (s : State) (mine : SloryHdr → Bool) (g : State → Nat → Ctx → SloryHdr → State) : State :=
  match nextRx s with
  | none => s
  | some f =>
    match hdrFault s f with
    | some i => logErr (bumpSlory (popRx s f) i 1) 0x0701 none (headWords f.udp)
    | none =>
      let h := sloryHdr f.udp
      if mine h then
        match ctxByTag s h.tag with
        | some q => g (popRx s f) q.1 q.2 h
        | none => s
      else s

/-- Rows 5 and 6 of R280 on a frame of a step flow. -/
def withStep (s : State) (n : Nat) (c : Ctx) (h : SloryHdr) (g : Step → Image → State) : State :=
  if isStale s n c h then bumpSlory s 5 1
  else
    match admittedAt s n h with
    | none => bumpSlory (sendNak s h.key h.seq 2) 6 1
    | some x =>
      match imageOf s x with
      | some img => g x img
      | none => s

/-- Row 7 of R280: a destination of `size` bytes is declared and holds the payload. -/
def fits (size : Option Nat) (h : SloryHdr) : Bool :=
  match size with
  | some n => decide (128 * h.off + h.len ≤ n)
  | none => false

/-- Bytes of the stream that a fabric entry of the image receives. -/
def entrySize (img : Image) (x : Step) (sel : FabIns → Bool) : Option Nat :=
  ((img.fabrics.flatMap fun f => f.2).find? sel).bind fun k => (descOf img x k.desc).map fun d =>
    streamLen img d * (if k.fop = 4 ∧ !carriesList img k.desc then 256 else d.blockBytes)

/-! ### Flows of steps -/

/-- Whether a flow number is that of the image's NORM entry. -/
def isNormFlow (img : Image) (flow : Nat) : Bool := ((normEntry img).map fun k => decide (k.flow = flow)).getD false

/-- The participant's total S arrives (R286). -/
def takeTotal (s : State) (x : Step) (v : Nat) : State :=
  match ctxOf s x.ctx with
  | some c => if x.total.isNone then setStep s (takeNorm c x v) else s
  | none => s

/-- WRITE. -/
def execWrite (s : State) : Host.Outcome State Fault Refusal :=
  .next (withFrame s (fun h => decide (h.op = 1)) fun s n c h => withStep s n c h fun x img =>
    let size := entrySize img x fun k => decide (k.fop = 2 ∧ k.node = h.src ∧ k.flow = h.flow)
    let norm := size.isNone && isNormFlow img h.flow && decide (h.src = img.leader)
    if fits (if norm then some 8 else size) h then
      let r := takeFrame s h (some x.id) false
      if norm ∧ r.2.complete then takeTotal r.1 x (leNat r.2.bytes) else r.1
    else bumpSlory s 7 1)

/-- SPLIT. -/
def execSplit (s : State) : Host.Outcome State Fault Refusal :=
  .next (withFrame s (fun h => decide (h.op = 4)) fun s n c h => withStep s n c h fun x img =>
    if fits (entrySize img x fun k => decide (k.fop = 6 ∧ k.node = h.src ∧ k.flow = h.flow)) h then (takeFrame s h (some x.id) false).1
    else bumpSlory s 7 1)

/-- The leader has all module sums: it adds them in ascending SRC_INDEX and sends the total to every participant (R286). -/
def sendTotal (s : State) (x : Step) (img : Image) (flow : Nat) (m : KMap Nat) : State :=
  let v := (List.range (img.parts.length - 1)).foldl (fun a i => dAdd a (kget 0 m (i + 1))) (kget 0 m 0)
  let q := ((img.fabrics.find? fun f => f.2.any fun k => decide (k.fop = 7)).map (·.1)).getD 0
  img.parts.foldl (fun s d => stepFlow s x 1 q d flow 0 (leBytes 8 v)) s

/-- A module's norm sum reaches the leader. -/
def takeSum (s : State) (x : Step) (img : Image) (h : SloryHdr) (v : Nat) : State :=
  match s.slory.leaders.find? fun l => decide (l.ctx = x.ctx ∧ l.step = x.number ∧ l.attempt = x.attempt) with
  | none => s
  | some l =>
    if (kfind l.normSums h.srcIndex).isSome then s
    else
      let m := kput l.normSums h.srcIndex v
      let s := { s with slory := { s.slory with leaders := s.slory.leaders.map fun k => if k = l then { l with normSums := m } else k } }
      if m.length = img.parts.length then sendTotal s x img h.flow m else s

/-- REDUCE. -/
def execReduce (s : State) : Host.Outcome State Fault Refusal :=
  .next (withFrame s (fun h => decide (h.op = 2)) fun s n c h => withStep s n c h fun x img =>
    let size := if img.parts.contains h.src then
        entrySize img x fun k => decide (k.fop = 4 ∧ k.flow = h.flow ∧ h.srcIndex ≤ k.srcIndex) else none
    let norm := size.isNone && isNormFlow img h.flow && decide ((s.slory.node.map (·.node)) = some img.leader) &&
      decide (img.parts[h.srcIndex]? = some h.src)
    if fits (if norm then some 8 else size) h then
      let r := takeFrame s h (some x.id) false
      if norm ∧ r.2.complete then takeSum r.1 x img h (leNat r.2.bytes) else r.1
    else bumpSlory s 7 1)

/-! ### Broadcast (R292, R312, R313) -/

/-- Key under which a segment of the header is kept until all of them are here. -/
def headKey (seg : Nat) : Nat := 1099511627776 + seg

/-- Whether a segment of the image has arrived; `j.head` is empty until the header is whole. -/
def LoadJob.hasSeg (j : LoadJob) (seg : Nat) : Bool :=
  if j.head = [] then (kfind j.blocks (headKey seg)).isSome
  else decide (seg < imgData j.head / storeBlock) || (kfind j.blocks (seg - imgData j.head / storeBlock)).isSome

/-- The segment that FLOW numbers: the lowest one not yet here that has this number (log entry 27). -/
def LoadJob.segment (j : LoadJob) (flow : Nat) : Nat :=
  flow + 65536 * (((List.range 4096).find? fun i => !j.hasSeg (flow + 65536 * i)).getD 0)

/-- The header and directory, once segment 0 and every further one below DATA_OFFSET are here. -/
def LoadJob.headReady (j : LoadJob) : Option Bytes :=
  (kfind j.blocks (headKey 0)).bind fun b =>
    let k := max 1 (imgData b / storeBlock)
    ((List.range k).mapM fun i => kfind j.blocks (headKey i)).map List.flatten

/-- A data segment of a broadcast: its digest is checked, and it is relayed only if correct. -/
def takeSegment (n : Nat) (s : State) (seg : Nat) (b : Bytes) : State :=
  match (ctxOf s n).bind fun c => c.load with
  | none => s
  | some j =>
    let k := seg - imgData j.head / storeBlock
    if blockTrusted j.head k b then sendSegment (keepBlock s n k b) n seg b j.relays
    else abortLoad s n (fieldReply stAuthFail 3 (leAt j.head 48 8 + 64 * k))

/-- The header of a broadcast is whole: it is checked as any image's is, then relayed, and the data segments that came
before it are taken. Only records that pass let the load change its context (R307). -/
def takeHead (s : State) (n : Nat) (c : Ctx) (j : LoadJob) (h : Bytes) : State :=
  match storeImageFault h with
  | some o => abortLoad s n (fieldReply stAuthFail 3 o)
  | none =>
    if !imageTrusted s h then abortLoad s n (fieldReply stAuthFail 3 (leAt h 56 8))
    else
      match recordsImageFault c h j.records with
      | some o => rejectLoad s n (fieldReply stBadParam 1 o)
      | none =>
        match baseFault s h j.records with
        | some y => abortLoad s n y
        | none =>
          let e := loadEffect c j
          if e.1.frames.length < e.1.drawn then rejectLoad s n (resourceReply 0x10 0)
          else
            let d := imgData h / storeBlock
            let early := (j.blocks.filter fun q => decide (headKey d ≤ q.1)).map fun q => (q.1 - headKey 0, q.2)
            let j := LoadJob.withBase s { e.2 with head := h, total := imgBlocks h, blocks := [] }
            let s := setCtx s n { e.1 with load := some (j.staged e.1) }
            let s := (List.range d).foldl (fun s i => sendSegment s n i (slice h (i * storeBlock) storeBlock) j.relays) s
            early.foldl (fun s q => takeSegment n s q.1 q.2) s

/-- A whole segment has arrived. -/
def segmentArrived (s : State) (n flow : Nat) (b : Bytes) : State :=
  match ctxOf s n with
  | none => s
  | some c =>
    match c.load with
    | none => s
    | some j =>
      let seg := j.segment flow
      if j.head ≠ [] then takeSegment n s seg b
      else
        let j := { j with blocks := kput j.blocks (headKey seg) b }
        match j.headReady with
        | none => setCtx s n { c with load := some j }
        | some h => takeHead s n c j h

/-- The first frame of a broadcast fixes the node that this one hears and those that it relays to: at most eight, and neither
itself, the reader nor the node it hears (R292; DEDUCED, log entry 27). -/
def LoadJob.placed (s : State) (j : LoadJob) (src : Nat) (children : List Nat) : LoadJob :=
  if j.parent.isSome then j
  else
    let self := (s.slory.node.map (·.node)).getD 0
    { j with parent := some src, relays := (children.eraseDups.filter fun d => decide (d ≠ self ∧ d ≠ j.reader ∧ d ≠ src)).take 8 }

/-- The flows of a broadcast whose FLOW a segment half the numbers ahead will take are forgotten: their segments have long been
acknowledged, since segments come in ascending order (R312; DEDUCED, log entry 27). -/
def forgetSegments (s : State) (tag flow : Nat) : State :=
  { s with slory := { s.slory with rxFlows := s.slory.rxFlows.filter fun f =>
      !(decide (f.op = 3 ∧ f.key.tag = tag ∧ f.key.flow = (flow + 32768) % 65536) && f.done) } }

/-- BCAST: `children` are the nodes that this one relays to; no command of a receiver carries the list (log entry 27). -/
def execBcast (children : List Nat) (s : State) : Host.Outcome State Fault Refusal :=
  .next (withFrame s (fun h => decide (h.op = 3)) fun s n c h =>
    let j := c.load.bind fun j => if j.source = 2 ∧ (j.parent = none ∨ j.parent = some h.src) then some j else none
    match j with
    | none => bumpSlory s 7 1
    | some j =>
      if fits (some storeBlock) h then
        let r := takeFrame (setCtx s n { c with load := some (j.placed s h.src children) }) h none false
        if r.2.complete ∧ !r.2.done then
          let s := setRx r.1 { r.2 with done := true, data := r.2.data.map fun e => (e.1, []) }
          segmentArrived (forgetSegments s h.tag h.flow) n h.flow r.2.bytes
        else r.1
      else bumpSlory s 7 1)

/-! ### The checkpoint partner (R226, R296) -/

/-- Appends a whole delta flow to the partner's log, unless both halves are occupied. -/
def takeDelta (s : State) (n : Nat) (f : RxFlow) : State :=
  match ctxOf s n with
  | none => s
  | some c =>
    match c.partner with
    | none => s
    | some p =>
      if !f.complete ∨ f.done ∨ withholds c then s
      else
        setRx (setCtx s n { c with partner := some (p.append f.key.step f.bytes) })
          { f with done := true, data := f.data.map fun e => (e.1, []) }

/-- DELTA. -/
def execDelta (s : State) : Host.Outcome State Fault Refusal :=
  .next (withFrame s (fun h => decide (h.op = 5)) fun s n c h =>
    let size := c.partner.bind fun p => if p.peer = h.src ∧ p.peerDomain = h.dom then some (p.frames * 2097152) else none
    if fits size h then
      let r := takeFrame s h none (withholds c)
      takeDelta r.1 n r.2
    else bumpSlory s 7 1)

/-- REBASE_COMPLETE: the closed half is folded and freed, and acknowledgements resume. -/
def execRebaseComplete (n : Nat) (s : State) : Host.Outcome State Fault Refusal :=
  match ctxOf s n with
  | none => .next s
  | some c =>
    match c.partner with
    | none => .next s
    | some p =>
      if p.closed.isNone ∨ (List.range 8).any (fun b => higherWork s b 6) then .next s
      else
        let s := setCtx s n { c with partner := some p.fold }
        .next ((s.slory.rxFlows.filter fun f => decide (f.op = 5 ∧ f.key.tag = c.tag.toNat)).foldl (fun s f => takeDelta s n f) s)

/-! ### Answers (R278, R279, R431) -/

/-- The sequence numbers that an ACK reports received. -/
def ackedSeqs (h : SloryHdr) : List Nat :=
  let m := leAt h.payload 0 8
  List.range h.seq ++ ((List.range 64).filter fun i => m.testBit i).map (h.seq + 1 + ·)

/-- An answer to no flow of this node: row 5 or row 7. -/
def strayAnswer (s : State) (n : Nat) (c : Ctx) (h : SloryHdr) : State :=
  if h.step ≠ 0 ∧ isStale s n c h then bumpSlory s 5 1 else bumpSlory s 7 1

/-- ACK: acknowledged frames are released, further ones are sent; an END acknowledged completes a commit's stream. -/
def execAck (s : State) : Host.Outcome State Fault Refusal :=
  .next (withFrame s (fun h => decide (h.op = 0x10)) fun s n c h =>
    match ackedFlow s h with
    | none => strayAnswer s n c h
    | some f =>
      if f.sentUpTo < h.seq ∨ (ackedSeqs h).any fun i => decide (f.sentUpTo ≤ i) then bumpSlory s 1 1
      else
        let f := { f with acked := f.acked ++ (ackedSeqs h).filter fun i => !f.acked.contains i }
        let s := pumpFlow (setTx (bumpSlory s 0 1) f) f
        if f.acked.length = f.frames.length ∧ f.stepId.isNone then
          let s := { s with slory := { s.slory with tx := s.slory.tx.filter fun g => decide (g.id ≠ f.id) } }
          if f.op = 5 then deltaAcked s f.ctx f.key.step else s
        else s)

/-- NAK: the named frame is resent at once, at most once per RETX_US. -/
def execNak (s : State) : Host.Outcome State Fault Refusal :=
  .next (withFrame s (fun h => decide (h.op = 0x11)) fun s n c h =>
    match ackedFlow s h with
    | none => strayAnswer s n c h
    | some f =>
      let s := bumpSlory s 0 1
      let due : Bool := match kfind f.nakAt h.seq with | none => true | some t => decide (t + retxTicks s ≤ s.clk.uptime)
      if f.awaits h.seq ∧ due then resend (setTx s { f with nakAt := kput f.nakAt h.seq s.clk.uptime }) f h.seq else s)

end Sys2Proof.Machine
end

