-- ==== Sys2Proof/Machine/Collective.lean ====
section
/-! DEFINITION. The commit barrier of multi-module steps (R289 to R291, R431): votes at the leader, decisions at the
participants, and the two deadlines. -/

namespace Sys2Proof.Machine

/-- STATUS of a token, and its ORIGIN with the domain in bit 15. -/
def tokenStatus (h : SloryHdr) : Nat × Nat := (leAt h.payload 0 2, leAt h.payload 2 2)

/-- The leader's record of a step. -/
def leaderOf (s : State) (n step : Nat) : Option Leader := s.slory.leaders.find? fun l => decide (l.ctx = n ∧ l.step = step)

/-- Replaces the leader's record of a step. -/
def setLeader (s : State) (l : Leader) : State :=
  { s with slory := { s.slory with leaders := s.slory.leaders.map fun k => if k.ctx = l.ctx ∧ k.step = l.step then l else k } }

/-- The leader decides, once per attempt, and sends the decision to every participant (R290). -/
def decideStep (s : State) (l : Leader) (img : Image) (sub status origin : Nat) : State :=
  if l.decided.isSome then s
  else
    let s := setLeader s { l with decided := some (sub, status, origin) }
    img.parts.foldl (fun s d => sendToken s l.ctx d l.step l.attempt sub status (origin % 32768) (origin / 32768) none) s

/-- A repeat, or the end of the step where the attempt is the last that the repeat limit allows (R173, R290). -/
def decideAgain (s : State) (l : Leader) (img : Image) (origin : Nat) : State :=
  match ctxOf s l.ctx with
  | none => s
  | some c => if l.attempt < c.repeatLimit then decideStep s l img 0x11 stOk 0 else decideStep s l img 0x12 stStepRepeat origin

/-- A token with a vote of kind `sub` reaches this node: it must be the leader, and the sender a participant (R431). -/
def withVote (sub : Nat) (g : State → Leader → Image → SloryHdr → State) (s : State) : State :=
  withFrame s (fun h => decide (h.op = 0x12 ∧ h.sub = sub)) fun s n c h => withStep s n c h fun _ img =>
    match leaderOf s n h.step with
    | none => bumpSlory s 7 1
    | some l =>
      if img.parts.contains h.src ∧ l.attempt = h.attempt then
        let r := takeFrame s h none false
        if r.2.done then r.1 else g (setRx r.1 { r.2 with done := true }) l img h
      else bumpSlory s 7 1

/-- VOTE_RECEIVE: a VOTE_OK; all P of them decide DECIDE_COMMIT. -/
def execVoteReceive (s : State) : Host.Outcome State Fault Refusal :=
  .next (withVote 1 (fun s l img h =>
    let l := { l with ok := if l.ok.contains h.src then l.ok else l.ok ++ [h.src] }
    let s := setLeader s l
    if img.parts.all l.ok.contains then decideStep s l img 0x10 stOk 0 else s) s)

/-- VOTE_REPEAT. -/
def execVoteRepeat (s : State) : Host.Outcome State Fault Refusal :=
  .next (withVote 2 (fun s l img h => decideAgain s l img (tokenStatus h).2) s)

/-- VOTE_FAIL: DECIDE_END with the vote's STATUS and ORIGIN. -/
def execVoteFail (s : State) : Host.Outcome State Fault Refusal :=
  .next (withVote 3 (fun s l img h => decideStep s l img 0x12 (tokenStatus h).1 (tokenStatus h).2) s)

/-- COLLECTIVE_DEADLINE: DEADLINE_MS after the leader's admission of the attempt, without P votes. -/
def execCollectiveDeadline (n step : Nat) (s : State) : Host.Outcome State Fault Refusal :=
  match leaderOf s n step, collectiveStep s n step, s.slory.node with
  | some l, some x, some nd =>
    match imageOf s x with
    | some img =>
      if l.attempt = x.attempt ∧ (x.state.live ∨ x.state = .hold) then .next (decideAgain s l img (nd.node + 32768 * nd.domain)) else .next s
    | none => .next s
  | _, _, _ => .next s

/-- A decision reaches a participant: only the leader's counts (R431). -/
def withDecision (sub : Nat) (g : State → Step → Image → SloryHdr → State) (s : State) : State :=
  withFrame s (fun h => decide (h.op = 0x12 ∧ h.sub = sub)) fun s n c h => withStep s n c h fun x img =>
    if h.src = img.leader then
      let r := takeFrame s h none false
      if r.2.done then r.1 else g (setRx r.1 { r.2 with done := true }) x img h
    else bumpSlory s 7 1

/-- The leader's record of a step goes with the step. -/
def dropLeader (s : State) (x : Step) : State :=
  { s with slory := { s.slory with leaders := s.slory.leaders.filter fun l => !decide (l.ctx = x.ctx ∧ l.step = x.number) } }

/-- DECIDE_COMMIT: the staged effects of a step in decision hold become irrevocable. -/
def execDecideCommit (s : State) : Host.Outcome State Fault Refusal :=
  .next (withDecision 0x10 (fun s x img _ => if x.state = .hold then commitNow (dropLeader s x) x img else s) s)

/-- DECIDE_REPEAT: the attempt is killed, whether running or in hold, and the step waits ahead of the context's others
with ATTEMPT + 1. -/
def execDecideRepeat (s : State) : Host.Outcome State Fault Refusal :=
  .next (withDecision 0x11 (fun s x _ _ => payOwed (rerunStep (bumpSlory s 11 1) x ((x.attempt + 1) % 256))) s)

/-- DECIDE_END: the step ends with STATUS, and the reply names ORIGIN (R354). -/
def execDecideEnd (s : State) : Host.Outcome State Fault Refusal :=
  .next (withDecision 0x12 (fun s x _ h =>
    let t := tokenStatus h
    payOwed (endStep (dropLeader s x) x { status := t.1, kind := 5, detail0 := t.2 })) s)

/-- DECISION_HOLD_TIMEOUT: no decision by DEADLINE_MS after the vote. The context is marked diverged (R291). -/
def execDecisionHoldTimeout (st : Nat) (s : State) : Host.Outcome State Fault Refusal :=
  match stepOf s st with
  | none => .next s
  | some x =>
    if x.state ≠ .hold then .next s
    else
      let s := logErr (bumpSlory (updCtx s x.ctx fun c => { c with diverged := true }) 12 1) 0x0703 (some x.ctx) (BitVec.ofNat 128 x.number)
      let s := postEvent s x.ctx { status := stTimeout, event := 4, detail1 := x.number }
      .next (payOwed (endStep (dropLeader s x) x (plain stTimeout)))

end Sys2Proof.Machine
end

