-- ==== Sys2Proof/Machine/EthRx.lean ====
section
/-! DEFINITION. Receive classification of an abutment port (R265, R267, R268) and its receive counters (R269). -/

namespace Sys2Proof.Machine

/-- Where the classification of R268 ends from row 3 on. -/
inductive RxClass where
  | drop (counter : Nat)
  | pfc
  | pause
  | arp (request : Bool)
  | solicit (answer : Bool)
  | udp (noSum : Bool) (frame : RxFrame) (port : Nat)
  deriving DecidableEq, Repr

/-- Octets in front of the type field: a tag takes four. -/
def tagBytes (f : Bytes) : Nat := if beNat (slice f 12 2) = 0x8100 then 4 else 0

/-- What follows the type field, without the FCS. -/
def framePayload (f : Bytes) : Bytes := (f.take (f.length - 4)).drop (14 + tagBytes f)

/-- The priority of a received frame for PFC: that of its tag, and 0 on an untagged port (R261, R267). -/
def rxPrio (p : PortRec) (f : Bytes) : Nat := if p.vlanEn ∧ tagBytes f = 4 then beNat (slice f 14 1) / 32 else 0

/-- Row 8 of R268. -/
def vlanOk (p : PortRec) (f : Bytes) : Bool :=
  let t := beNat (slice f 12 2)
  if t = 0x88A8 then false
  else if t = 0x8100 then
    let v := beNat (slice f 14 2) % 4096
    let t2 := beNat (slice f 16 2)
    decide (v = 0 ∨ (p.vlanEn ∧ v = p.vid)) && !decide (t2 = 0x8100 ∨ t2 = 0x88A8)
  else true

/-- The solicited-node group of an IPv6 address. -/
def solicitedGroup (a : Nat) : Nat := 0xFF0200000000000000000001FF000000 + a % 2 ^ 24

/-- The Ethernet address of an IPv6 group. -/
def groupMac (a : Nat) : Nat := 0x333300000000 + a % 2 ^ 32

/-- Whether a frame is a neighbour solicitation: IPv6, next header 58, ICMPv6 type 135. -/
def isSolicit (f : Bytes) : Bool :=
  let b := framePayload f
  decide (frameType f = 0x86DD) && decide (leAt b 6 1 = 58) && decide (leAt b 40 1 = 135)

/-- Row 7 of R268. -/
def macOk (p : PortRec) (f : Bytes) : Bool :=
  let d := beNat (slice f 0 6)
  decide (d = p.mac) || (decide (d = 0xFFFFFFFFFFFF) && decide (frameType f = 0x0806)) ||
    (decide (p.ipv6 ≠ 0) && decide (d = groupMac (solicitedGroup p.ipv6)) && isSolicit f)

/-- Row 11 of R268 for IPv4. -/
def ipv4Ok (p : PortRec) (b : Bytes) : Bool :=
  let n := beNat (slice b 2 2)
  decide (20 ≤ b.length) && decide (leAt b 0 1 = 0x45) && decide (beNat (slice b 6 2) &&& 0x3FFF = 0) && decide (20 ≤ n ∧ n ≤ b.length) &&
    decide (leAt b 9 1 = 17) && decide (p.ipv4 ≠ 0) && decide (beNat (slice b 16 4) = p.ipv4)

/-- Row 11 of R268 for IPv6. -/
def ipv6Ok (p : PortRec) (f b : Bytes) : Bool :=
  let d := beNat (slice b 24 16)
  decide (40 ≤ b.length) && decide (leAt b 0 1 / 16 = 6) && decide (40 + beNat (slice b 4 2) ≤ b.length) &&
    (decide (leAt b 6 1 = 17) || isSolicit f) && decide (p.ipv6 ≠ 0) && decide (d = p.ipv6 ∨ d = solicitedGroup p.ipv6)

/-- The IPv6 pseudo-header of a packet for an upper-layer payload. -/
def pseudo6 (src dst proto n : Nat) : Bytes := beBytes 16 src ++ beBytes 16 dst ++ beBytes 4 n ++ beBytes 4 proto

/-- Rows 14 and 15 of R268 on a UDP datagram: `pseudo` gives the pseudo-header for its length. -/
def classifyUdp (v6 : Bool) (src : Nat) (pseudo : Nat → Bytes) (u : Bytes) (prio octets q : Nat) : RxClass :=
  let n := beNat (slice u 4 2)
  let c := beNat (slice u 6 2)
  let d := u.take n
  if u.length < 8 ∨ n < 8 ∨ u.length < n then .drop 33
  else
    let frame : RxFrame := { port := q, srcIp := src, v6 := v6, prio := prio, octets := octets, udp := d.drop 8 }
    let port := beNat (slice u 2 2)
    if c = 0 then (if v6 then .drop 33 else .udp true frame port)
    else if fold16 (sum16 (pseudo n ++ d)) = 65535 then .udp false frame port
    else .drop 33

/-- Rows 3 to 14 of R268 in their order. -/
def classifyFrame (p : PortRec) (q : Nat) (f : Bytes) : RxClass :=
  let n := f.length
  let b := framePayload f
  let typ := frameType f
  if n < 64 then .drop 24
  else if p.maxFrame < n then .drop 25
  else if leNat (f.drop (n - 4)) ≠ crc32 (f.take (n - 4)) then .drop 26
  else if beNat (slice f 12 2) = 0x8808 then
    (if beNat (slice f 14 2) = 0x0101 then .pfc else if beNat (slice f 14 2) = 0x0001 then .pause else .drop 27)
  else if !macOk p f then .drop 28
  else if !vlanOk p f then .drop 29
  else if typ = 0x0806 then
    .arp (decide (beNat (slice b 0 8) = 0x0001080006040001) && decide (p.ipv4 ≠ 0) && decide (beNat (slice b 24 4) = p.ipv4))
  else if typ = 0x0800 then
    if !ipv4Ok p b then .drop 31
    else if fold16 (sum16 (b.take 20)) ≠ 65535 then .drop 32
    else
      let src := beNat (slice b 12 4)
      classifyUdp false src (fun m => beBytes 4 src ++ beBytes 4 p.ipv4 ++ beBytes 2 17 ++ beBytes 2 m)
        ((b.take (beNat (slice b 2 2))).drop 20) (rxPrio p f) n q
  else if typ = 0x86DD then
    if !ipv6Ok p f b then .drop 31
    else
      let src := beNat (slice b 8 16)
      let dst := beNat (slice b 24 16)
      let m := beNat (slice b 4 2)
      let u := (b.drop 40).take m
      if isSolicit f then
        .solicit (decide (24 ≤ m) && decide (beNat (slice u 8 16) = p.ipv6) && decide (fold16 (sum16 (pseudo6 src dst 58 m ++ u)) = 65535))
      else classifyUdp true src (fun k => pseudo6 src dst 17 k) u (rxPrio p f) n q
  else .drop 27

/-- Obeys a PFC frame for every priority of PFC_RX that it names and that is not being ignored (R267, R431). -/
def obeyPfc (s : State) (q : Nat) (f : Bytes) : State :=
  let en := beNat (slice f 16 2)
  (List.range 8).foldl (fun s i =>
    let p := portOf s q
    if en.testBit i ∧ p.rcd.pfcRx.testBit i ∧ !p.ignore.testBit i then pausePrio s q i (beNat (slice f (18 + 2 * i) 2)) else s) s

/-- The ARP reply to a request (R268 row 10). -/
def arpReply (p : PortRec) (f : Bytes) : Bytes :=
  let b := framePayload f
  let sha := beNat (slice b 8 6)
  etherBytes p sha 0x0806 (classTag p false)
    (beBytes 8 0x0001080006040002 ++ beBytes 6 p.mac ++ beBytes 4 p.ipv4 ++ beBytes 6 sha ++ slice b 14 4)

/-- The neighbour advertisement that answers a solicitation (R268 row 13; its form is RFC 4861's, log entry 30). -/
def advertisement (p : PortRec) (f : Bytes) : Bytes :=
  let asked := beNat (slice (framePayload f) 8 16)
  let none_ := decide (asked = 0)
  let dst := if none_ then 0xFF020000000000000000000000000001 else asked
  let body := fun (c : Nat) => beBytes 2 0x8800 ++ beBytes 2 c ++ beBytes 4 (if none_ then 0x20000000 else 0x60000000) ++
    beBytes 16 p.ipv6 ++ beBytes 2 0x0201 ++ beBytes 6 p.mac
  let c := inetSum (pseudo6 p.ipv6 dst 58 32 ++ body 0)
  etherBytes p (if none_ then groupMac dst else beNat (slice f 6 6)) 0x86DD (classTag p false) (ipBytes true 255 p.ipv6 dst 58 (body c))

/-- Bytes of a port's receive buffer in use. -/
def rxTotal (p : Port) : Nat := total (p.rxHeld.map (·.2))

/-- Rows 15 and 16 of R268 and the way into the transport. -/
def acceptUdp (s : State) (q : Nat) (noSum : Bool) (f : RxFrame) (port : Nat) : State :=
  let s := if noSum then bumpPort s q 34 1 else s
  if (match s.slory.node with | some nd => decide (port ≠ nd.port) | none => true) then bumpPort s q 35 1
  else if 524288 < rxTotal (portOf s q) + f.octets then bumpPort s q 36 1
  else
    let s := bumpPort (bumpPort s q 11 1) q 12 f.octets
    let p := portOf s q
    let s := setPort s q { p with rxHeld := kset 0 p.rxHeld f.prio (kget 0 p.rxHeld f.prio + f.octets) }
    pfcCheck { s with slory := { s.slory with rx := s.slory.rx ++ [{ f with at_ := s.clk.cycles }] } } q f.prio

/-- Does what the classification of a frame ends in. -/
def actClass (s : State) (q : Nat) (f : Bytes) (c : RxClass) : State :=
  match c with
  | .drop i => bumpPort s q i 1
  | .pfc => obeyPfc (bumpPort s q 19 1) q f
  | .pause => bumpPort s q 20 1
  | .arp request =>
    let s := bumpPort s q 30 1
    let p := (portOf s q).rcd
    if request then enqueueFrame s q false ⟨arpReply p f, none, none, classPrio p false⟩ else s
  | .solicit answer =>
    let s := bumpPort s q 30 1
    let p := (portOf s q).rcd
    if answer then enqueueFrame s q false ⟨advertisement p f, none, none, classPrio p false⟩ else s
  | .udp noSum fr port => acceptUdp s q noSum fr port

/-- Counts a frame received intact, as far as rows 1 to 5 reach (R269). -/
def countIntact (s : State) (q : Nat) (express : Bool) (c : RxClass) : State :=
  if c = .drop 24 ∨ c = .drop 25 ∨ c = .drop 26 then s else bumpPort s q (if express then 13 else 14) 1

/-- Counts what FEC corrected (R269). -/
def countFec (s : State) (q codewords : Nat) (symbols : List Nat) : State :=
  let lanes := if (portOf s q).rcd.lanes = 0 then 0 else 2 ^ ((portOf s q).rcd.lanes - 1)
  (List.range lanes).foldl (fun s i => bumpPort s q (38 + i) (symbols.getD i 0)) (bumpPort s q 21 codewords)

/-- ETHERNET_FRAME_RECEIVE. -/
def execEthernetFrameReceive (q : Nat) (phy : PhyStatus) (frame : Bytes) (s : State) : Host.Outcome State Fault Refusal :=
  if !(portOf s q).up then .next s
  else
    match phy with
    | .fecError n => .next (bumpPort s q 22 (n + 1))
    | .pcsError => .next (bumpPort s q 23 1)
    | .assemblyError => .next (bumpPort s q 16 1)
    | .smdError => .next (bumpPort s q 17 1)
    | .ok express fragments codewords symbols =>
      let c := classifyFrame (portOf s q).rcd q frame
      .next (actClass (countIntact (bumpPort (countFec s q codewords symbols) q 15 fragments) q express c) q frame c)

/-- PFC_FRAME: a frame that the classification takes for a PFC frame. -/
def execPfcFrame (q : Nat) (frame : Bytes) (s : State) : Host.Outcome State Fault Refusal :=
  let c := classifyFrame (portOf s q).rcd q frame
  if (portOf s q).up ∧ c = .pfc then .next (actClass (countIntact s q true c) q frame c) else .next s

/-- PAUSE_FRAME. -/
def execPauseFrame (q : Nat) (frame : Bytes) (s : State) : Host.Outcome State Fault Refusal :=
  let c := classifyFrame (portOf s q).rcd q frame
  if (portOf s q).up ∧ c = .pause then .next (actClass (countIntact s q true c) q frame c) else .next s

/-- ARP_REQUEST. -/
def execArpRequest (q : Nat) (frame : Bytes) (s : State) : Host.Outcome State Fault Refusal :=
  let c := classifyFrame (portOf s q).rcd q frame
  if (portOf s q).up ∧ (c = .arp true ∨ c = .arp false) then .next (actClass (countIntact s q false c) q frame c) else .next s

/-- NEIGHBOUR_SOLICITATION. -/
def execNeighbourSolicitation (q : Nat) (frame : Bytes) (s : State) : Host.Outcome State Fault Refusal :=
  let c := classifyFrame (portOf s q).rcd q frame
  if (portOf s q).up ∧ (c = .solicit true ∨ c = .solicit false) then .next (actClass (countIntact s q false c) q frame c) else .next s

end Sys2Proof.Machine
end

