-- ==== Sys2Proof/Machine/HostLink.lean ====
section
/-! DEFINITION. The CXL link (R320 to R322, R418, R430) and the module's traffic with host memory: global observation
(R327, R343 to R346), reads that return or fail (R189, R191, R299, R342), writes without GO (R431). -/

namespace Sys2Proof.Machine

/-! ### Global observation -/

/-- What a write that has been observed, or given up, releases: the held replies of its ring, a destroy that waited. -/
def writeSettled (s : State) (w : HostWrite) : State :=
  match w.ctx with
  | some n => finishDestroy (releaseHeld s (.ctx n)) n
  | none => releaseHeld s .admin

/-- Takes a write out of flight. -/
def dropWrite (s : State) (id : Nat) : State := { s with host := { s.host with writes := s.host.writes.filter fun w => decide (w.id ≠ id) } }

/-- HOST_WRITE_GO: a status entry is observed before the control line that counts it, and a control line before the
interrupt it triggers (R344). A write sent before a reset may still be observed after it (R423). -/
def execHostWriteGo (id : Nat) (s : State) : Host.Outcome State Fault Refusal :=
  match s.host.writes.find? fun w => decide (w.id = id) with
  | none => .next s
  | some w =>
    if w.lost then .next (emit (dropWrite s id) (.hostObserved w.path w.addr w.bytes))
    else if !s.host.up || !w.sent || s.host.writes.any (fun v => w.after.contains v.id) then .next s
    else
      let s := emit (dropWrite s id) (.hostObserved w.path w.addr w.bytes)
      let s := match w.path, w.ring with
        | .ctrl, some r => ringInterrupt s r w
        | _, _ => s
      .next (payOwed (writeSettled s w))

/-- Turns the held reply of the command that issued write `id`, a STEP_RUN or not, into ST_MEM_UE: the earliest reply
held for writes up to it. -/
def spoilHeld (s : State) (w : HostWrite) : State :=
  match w.ring.bind (ringOf s), w.ring with
  | some g, some r =>
    let cs := (g.cmds.filterMap fun c => match c.held, c.upTo with
      | some y, some k => if w.id < k ∧ y.status = stOk then some (k, c.seq) else none
      | _, _ => none).mergeSort fun a b => decide (a.1 ≤ b.1)
    match cs with
    | [] => s
    | (_, q) :: _ => updCmd s r q fun c => { c with held := c.held.map fun y => { y with status := stMemUe, kind := 4, detail0 := 1, detail1 := w.addr } }
  | _, _ => s

/-- Gives up the writes that waited for write `id`, which will not be observed (R349). -/
def dropAfter (s : State) (id : Nat) : State :=
  { s with host := { s.host with writes := s.host.writes.filter fun w => !w.after.contains id } }

/-- GO_TIMEOUT (R431): a write of a running step ends it, a release write is given up as R244 has it, and a result buffer's
ends its command. The reply's own writes have no command left to end: they go on waiting. -/
def execGoTimeout (id : Nat) (s : State) : Host.Outcome State Fault Refusal :=
  match s.host.writes.find? fun w => decide (w.id = id) with
  | none => .next s
  | some w =>
    if w.lost then .next s
    else
      let s := logErr s 0x0802 w.ctx (BitVec.ofNat 128 w.addr)
      match w.path with
      | .status => .next s
      | .event => .next s
      | .ctrl => .next s
      | .offload =>
        let s := writeSettled (dropWrite s id) w
        .next (match w.step.bind (stepOf s) with
          | some x => payOwed (if x.state.live then failStep s x (memoryReply 1 w.addr) else s)
          | none => s)
      | .shadow =>
        let s := writeSettled (dropWrite s id) w
        .next (match w.step.bind (stepOf s) with
          | some x => payOwed (if x.state.live then failStep s x (memoryReply 1 w.addr) else s)
          | none => dropAfter (spoilHeld s w) id)
      | .result => .next (writeSettled (dropWrite (spoilHeld s w) id) w)
      | .release => .next (writeSettled (dropWrite (spoilHeld s w) id) w)
      | .mirror => .next (writeSettled (dropWrite (spoilHeld s w) id) w)

/-! ### Reads (R189, R191, R217, R299, R342) -/

/-- Takes a read out of flight. -/
def dropRead (s : State) (id : Nat) : State := { s with host := { s.host with reads := s.host.reads.filter fun r => decide (r.id ≠ id) } }

/-- The administrative command that installs slot `i`. -/
def installCmd (s : State) (i : Nat) : Option Cmd :=
  s.admin.bind fun g => g.cmds.find? fun c => decide (c.opcode = 0x0050 ∧ c.fld 295 292 = i)

/-- An installation ends with a status: the slot stays empty (R303). -/
def endInstall (s : State) (i : Nat) (y : Reply) : State :=
  match installCmd s i with
  | some c => endCmd (setSlot s i {}) .admin c.seq y
  | none => setSlot s i {}

/-- A read has failed: poison, an error completion or no data within 50 ms (R342). The step that issued one ends when its data
would have reached the consumer; a command ends at once. -/
def readFailed (s : State) (rd : HostRead) : State :=
  let s := logErr s 0x0802 rd.ctx (BitVec.ofNat 128 rd.addr)
  match rd.owner with
  | .load n _ => abortLoad (dropRead s rd.id) n (memoryReply 1 rd.addr)
  | .install i _ => endInstall (dropRead s rd.id) i (memoryReply 1 rd.addr)
  | _ => { s with host := { s.host with reads := s.host.reads.map fun r => if r.id = rd.id then { r with failed := true } else r } }

/-- The next block of a host stream reaches the deck. -/
def takeBlock (s : State) (x : Step) (i : Nat) (d : Desc) (b : Bytes) : State :=
  let x := fetch x i [⟨slice b 0 d.blockBytes, d.stash, 0⟩]
  setStep s { x with activity := { x.activity with host := x.activity.host + ceilDiv b.length 128 } }

/-- Delivers the blocks of stream `i` of step `st` that are here, in ascending order. -/
def drainBlocks (st i : Nat) (pre : Bool) : Nat → State → State
  | 0, s => s
  | fuel + 1, s =>
    match stepOf s st with
    | none => s
    | some x =>
      match (imageOf s x).bind fun img => descOf img x i with
      | none => s
      | some d =>
        let n := (x.stream i).fetched.length
        let own := if pre then HrOwner.prefetch st i n else HrOwner.stream st i n
        match s.host.reads.find? fun r => decide (r.owner = own) && r.data.isSome with
        | some r => drainBlocks st i pre fuel (takeBlock (dropRead s r.id) x i d (r.data.getD []))
        | none => s

/-- The further reads of a stream that the delivered blocks make room for. -/
def moreReads (s : State) (st i : Nat) (pre : Bool) : State :=
  match stepOf s st with
  | none => s
  | some x =>
    match imageOf s x with
    | none => s
    | some img =>
      if pre then (match bindOf img 3 i, descOf img x i with | some w, some d => prefetchMore s img x w d | _, _ => s)
      else readHostMore s img x i

/-- A block's bytes have returned: they wait for the blocks before them. -/
def blockReturned (s : State) (rd : HostRead) (st i : Nat) (pre : Bool) (b : Bytes) : State :=
  let s := { s with host := { s.host with reads := s.host.reads.map fun r => if r.id = rd.id then { r with data := some b } else r } }
  moreReads (drainBlocks st i pre (s.host.reads.length + 1) s) st i pre

/-- A block of a slow-tier master arrives (R217). -/
def masterReturned (s : State) (st t j : Nat) (b : Bytes) : State :=
  match stepOf s st with
  | none => s
  | some x => setStep s { x with slowMasters := (List.range 64).foldl (fun m e => kput m (masterKey false t j e) (BitVec.ofNat 32 (leAt b (4 * e) 4))) x.slowMasters }

/-- A block of an image that is being installed arrives: its digest is checked, and after the last copy A is written
(R303). -/
def installReturned (s : State) (i k : Nat) (b : Bytes) : State :=
  let x := kget {} s.store.slots i
  match installCmd s i with
  | none => s
  | some c =>
    if blockTrusted x.a.head k b then
      let s := setSlot s i { x with a := { x.a with blocks := kput x.a.blocks k b } }
      if k + 1 < imgBlocks x.a.head then installRead s i (k + 1) (c.fld 415 352) x.a.head else storeWrite s (.copyA i (some (.admin, c.seq)))
    else endInstall s i (fieldReply stAuthFail 3 (leAt x.a.head 48 8 + 64 * k))

/-- The nominal cycle of a module read of a step: the CYCLE of its PREFETCH entry, or image cycle 0 (R189, R235; DEDUCED, log
entry 29). -/
def readCycleOf (s : State) (rd : HostRead) : Option (Step × Nat) :=
  match rd.owner with
  | .prefetch st i _ => (stepOf s st).bind fun x => (imageOf s x).bind fun img => (bindOf img 3 i).map fun w => (x, w.cycle)
  | .stream st _ _ => (stepOf s st).map fun x => (x, 0)
  | _ => none

/-- Whether a write in flight is one that a read must not overtake: an off-load write of the context, issued before it or of
the same step and an earlier nominal cycle (R191). -/
def HostWrite.holds (w : HostWrite) (rd : HostRead) (at_ : Option (Step × Nat)) : Bool :=
  w.ofCtx rd.ctx && decide (w.path = .offload) &&
    (decide (w.id < rd.id) || (match at_ with | some (x, n) => decide (w.step = some x.id ∧ w.cycle < n) | none => false))

/-- Whether an off-load write that a read must not overtake overlaps it and is in flight, or is still to be issued by the
step (R191). -/
def offloadAhead (s : State) (rd : HostRead) : Bool :=
  let at_ := readCycleOf s rd
  (s.host.writes.any fun w => w.holds rd at_ &&
    (match rd.ctx.bind (ctxOf s) with
     | some c => (List.range (rd.len / 64 + 1)).any fun l =>
         match hostAddr c (rd.addr + 64 * l) with | some pa => decide (pa / 64 = w.addr / 64) | none => false
     | none => false)) ||
  (match at_ with
   | some (x, n) =>
     match imageOf s x with
     | some img => (img.writes.any fun j => (bindOf img 4 j).isSome &&
         (match descOf img x j with | some d => writeAhead { img with writes := [j] } x d n rd.addr rd.len | none => false))
     | none => false
   | none => false)

/-- HOST_READ_COMPLETION. -/
def execHostReadCompletion (id : Nat) (d : HostData) (s : State) : Host.Outcome State Fault Refusal :=
  match s.host.reads.find? fun r => decide (r.id = id) with
  | none => .next s
  | some rd =>
    if rd.data.isSome || rd.failed || offloadAhead s rd then .next s
    else
      match d with
      | .ok b =>
        match rd.owner with
        | .prefetch st i _ => .next (blockReturned s rd st i true b)
        | .stream st i _ => .next (blockReturned s rd st i false b)
        | .master st t j => .next (masterReturned (dropRead s id) st t j b)
        | .load n k => .next (hostLoadBlock (dropRead s id) n k b)
        | .install i k => .next (installReturned (dropRead s id) i k b)
      | _ => .next (readFailed s rd)

/-- HOST_READ_TIMEOUT. -/
def execHostReadTimeout (id : Nat) (s : State) : Host.Outcome State Fault Refusal :=
  match s.host.reads.find? fun r => decide (r.id = id) with
  | none => .next s
  | some rd => if rd.data.isSome || rd.failed then .next s else .next (readFailed s rd)

/-! ### Requests from the host -/

/-- HOST_SNOOP: answered at once. -/
def execHostSnoop (addr : Nat) (s : State) : Host.Outcome State Fault Refusal :=
  if s.host.up then .next (emit s (.snoopAnswer addr)) else .next s

/-- CXL_MEM_REQUEST: Unsupported Request. -/
def execCxlMemRequest (addr : Nat) (s : State) : Host.Outcome State Fault Refusal :=
  if s.host.up then .next (emit s (.unsupportedRequest addr)) else .next s

/-! ### The link -/

/-- The link modes of R320: rate code 1 or 2, and 4, 8 or 16 lanes. -/
def linkMode (rate width : Nat) : Bool := decide ((rate = 1 ∨ rate = 2) ∧ (width = 4 ∨ width = 8 ∨ width = 16))

/-- CXL_LINK_UP: what waited in the landing goes out. -/
def execCxlLinkUp (rate width : Nat) (s : State) : Host.Outcome State Fault Refusal :=
  if s.boot.powered && s.boot.perstN && !s.host.up && linkMode rate width then
    .next (payOwed (emit { s with
      boot := { s.boot with cxlTraining := false }
      host := { s.host with up := true, rate := rate, width := width
                            writes := s.host.writes.map fun w => if w.lost then w else { w with sent := true } } } (.linkUp true)))
  else .next s

/-- CXL_LINK_RETRAIN: to a lower mode it is logged with the new mode, and AER reports it; the AER
status is a free value. -/
def execCxlLinkRetrain (rate width : Nat) (s : State) : Host.Outcome State Fault Refusal :=
  if s.host.up && linkMode rate width then
    let t := { s with host := { s.host with rate := rate, width := width, retrains := satAdd 16777215 s.host.retrains 1 } }
    if hostCapacity t < hostCapacity s then
      let f := takeFree t
      .next (logErr (emit f.2 (.aerCorrectable (f.1.toNat % 2 ^ 32))) 0x0803 none (Config.errDetail 0x0803 [rate, width]))
    else .next (payOwed t)
  else .next s

/-- HOST_LINK_DOWN without a reset: admitted steps run on, writes wait in the landing. -/
def execHostLinkDown (s : State) : Host.Outcome State Fault Refusal :=
  if s.host.up then .next (logErr (emit { s with host := { s.host with up := false, rate := 0, width := 0 } } (.linkUp false)) 0x0804 none 0) else .next s

/-- HOST_LINK_DOWN_10S: the module becomes device-fatal. -/
def execHostLinkDown10s (s : State) : Host.Outcome State Fault Refusal :=
  if !s.host.up && !s.boot.cxlTraining && s.boot.powered then .next (logFatal s 0x0805 none 0) else .next s

/-- CXL_CORRECTABLE_ERROR. -/
def execCxlCorrectableError (aer : Nat) (s : State) : Host.Outcome State Fault Refusal :=
  if s.host.up then .next (logErr (emit s (.aerCorrectable aer)) 0x0801 none (BitVec.ofNat 128 aer)) else .next s

end Sys2Proof.Machine
end

