-- ==== Sys2Proof/Machine/Management.lean ====
section
/-! DEFINITION. The management bus (R461 to R464): the dynamic address, MCTP control and PLDM base messages, sensors and
firmware update. The message layouts are those of the DMTF's MCTP and PLDM base specifications: PRESUMED, log entry 31. -/

namespace Sys2Proof.Machine

/-- Whether the management controller answers: it has power and is not restarting (R425, R461). -/
def mgmtUp (s : State) : Bool := s.boot.powered && !s.mgmt.restarting

/-- I3C_ADDRESS_ASSIGNMENT: SETDASA or ENTDAA gives a 7-bit dynamic address. -/
def execI3cAddressAssignment (addr : Nat) (s : State) : Host.Outcome State Fault Refusal :=
  if mgmtUp s ∧ addr < 128 then .next (emit { s with mgmt := { s.mgmt with dynAddr := some addr } } (.i3cAddress addr)) else .next s

/-! ### Messages (R462) -/

/-- Byte `i` of a message; 0 beyond its end. -/
def msgByte (b : Bytes) (i : Nat) : Nat := (b.getD i 0).toNat

/-- A response to an MCTP control message: the request's instance id and command, a completion code and data. -/
def ctrlResponse (msg : Bytes) (code : Nat) (data : Bytes) : Bytes :=
  [0#8, BitVec.ofNat 8 (msgByte msg 1 % 32), BitVec.ofNat 8 (msgByte msg 2), BitVec.ofNat 8 code] ++ data

/-- MCTP_CONTROL_MESSAGE: Set and Get Endpoint ID, the supported versions (a free value) and message types; every other
command is answered with ERROR_UNSUPPORTED_CMD. -/
def execMctpControlMessage (msg : Bytes) (s : State) : Host.Outcome State Fault Refusal :=
  if !mgmtUp s then .next s
  else
    match msgByte msg 2 with
    | 0x01 =>
      let e := msgByte msg 4
      if e = 0 ∨ e = 255 then .next (emit s (.mctp (ctrlResponse msg 0x02 [])))
      else .next (emit { s with mgmt := { s.mgmt with eid := e } } (.mctp (ctrlResponse msg 0 [0#8, BitVec.ofNat 8 e, 0#8])))
    | 0x02 => .next (emit s (.mctp (ctrlResponse msg 0 [BitVec.ofNat 8 s.mgmt.eid, 0#8, 0#8])))
    | 0x04 => let f := takeFree s; .next (emit f.2 (.mctp (ctrlResponse msg 0 (1#8 :: leBytes 4 f.1.toNat))))
    | 0x05 => .next (emit s (.mctp (ctrlResponse msg 0 [1#8, 1#8])))
    | _ => .next (emit s (.mctp (ctrlResponse msg 0x05 [])))

/-- A response to a PLDM base message. -/
def pldmResponse (msg : Bytes) (code : Nat) (data : Bytes) : Bytes :=
  [1#8, BitVec.ofNat 8 (msgByte msg 1 % 32), 0#8, BitVec.ofNat 8 (msgByte msg 3), BitVec.ofNat 8 code] ++ data

/-- Free bytes. -/
def freeBytes (s : State) (n : Nat) : State × Bytes :=
  (List.range n).foldl (fun (q : State × Bytes) _ => let f := takeFree q.1; (f.2, q.2 ++ [f.1.setWidth 8])) (s, [])

/-- PLDM_BASE: SetTID, GetTID, the versions and commands (free values), and the types 0, 2 and 5; every other command is
answered with ERROR_UNSUPPORTED_PLDM_CMD. -/
def execPldmBase (msg : Bytes) (s : State) : Host.Outcome State Fault Refusal :=
  if !mgmtUp s then .next s
  else
    match msgByte msg 3 with
    | 0x01 => .next (emit { s with mgmt := { s.mgmt with tid := msgByte msg 4 } } (.pldm (pldmResponse msg 0 [])))
    | 0x02 => .next (emit s (.pldm (pldmResponse msg 0 [BitVec.ofNat 8 s.mgmt.tid])))
    | 0x03 => let q := freeBytes s 13; .next (emit q.1 (.pldm (pldmResponse msg 0 q.2)))
    | 0x04 => .next (emit s (.pldm (pldmResponse msg 0 (leBytes 8 0x25))))
    | 0x05 => let q := freeBytes s 32; .next (emit q.1 (.pldm (pldmResponse msg 0 q.2)))
    | _ => .next (emit s (.pldm (pldmResponse msg 0x05 [])))

/-- What a numeric sensor reads (R462). -/
def sensorValue (s : State) (id : Nat) : Option Int :=
  match id with
  | 1 => some s.power.mean10
  | 2 => some (capInForce s.power)
  | 3 => some s.power.stretch
  | 4 => some (s.power.temps.getD 0 0)
  | 5 => some (s.power.temps.getD 1 0)
  | 6 => some (s.power.temps.getD 2 0)
  | 7 => some (s.power.temps.getD 3 0)
  | 8 => some s.power.flow
  | 9 => some s.boot.stage
  | 10 => some s.err.slots.length
  | _ => none

/-- PLDM_SENSOR_READING: a request for another id is answered with INVALID_SENSOR_ID. -/
def execPldmSensorReading (id : Nat) (s : State) : Host.Outcome State Fault Refusal :=
  if !mgmtUp s then .next s
  else
    match sensorValue s id with
    | some v => .next (emit s (.pldmSensor id v))
    | none => .next (emit s (.pldm [0x80#8]))

/-- ERROR_UNSUPPORTED_CMD: a message of another type. -/
def execErrorUnsupportedCmd (typ : Nat) (s : State) : Host.Outcome State Fault Refusal :=
  if mgmtUp s then .next (emit s (.unsupportedCmd typ)) else .next s

/-! ### Firmware update (R388, R389, R463, R464) -/

/-- Outcomes of a transfer: 0 written, 1 verification failure, 2 busy, 3 not offered. -/
def updateEnd (s : State) (cls outcome : Nat) : State := emit s (.updateResult cls outcome)

/-- Whether a component is offered: 0x0001 to 0x0003 and sixteen store images; in RECOVERY only the first three, in FATAL
none. -/
def offered (s : State) (cls : Nat) : Bool :=
  decide (s.boot.stage ≠ 0xF0) && (decide (1 ≤ cls ∧ cls ≤ 3) || (decide (0x10 ≤ cls ∧ cls ≤ 0x1F) && decide (s.boot.stage ≠ 0xE0)))

/-- OWNER_KEY of a record. -/
def ownerKey (b : Bytes) : Nat := leAt b 80 512

/-- Whether a record's own fields are legal: MAGIC, BIND, VERSION, CAP_LIMIT_W and the reserved bits (R387, R389). -/
def recordLegal (s : State) (b : Bytes) : Bool :=
  decide (leAt b 0 4 = 0x4C5A0F02) && decide (s.store.cfgCounter ≤ recordVersion b) && decide (leAt b 8 8 = 0) &&
    decide (leAt b 16 64 = 0 ∨ leAt b 16 64 = Config.identityDigest.toNat) && decide (600 ≤ recordCap b ∧ recordCap b ≤ 2500) &&
    decide (leAt b 4885 1 / 16 = 0) && decide (leAt b 4886 3306 = 0)

/-- Who signed a new record: 0 nobody trusted, 1 a vendor key or the owner in force, 2 the owner that it names, accepted
once (R388). -/
def recordSigner (s : State) (image : Bytes) : Nat :=
  let b := image.take 8192
  let sig := slice image 8192 512
  let k := ownerKey s.store.cfgForce.record
  if Config.vendorSigned image || (decide (k ≠ 0) && rsaVerify k sig (sha512 b)) then 1
  else if decide (k = 0) && !s.store.ownerOnce && rsaVerify (ownerKey b) sig (sha512 b) then 2
  else 0

/-- Writes a loader or firmware component: the copy not booted from, then the other. -/
def writeObject (s : State) (cls : Nat) (image : Bytes) : State :=
  let c : FwCopy := ⟨image, true, Config.objectVersion image, Config.objectFloor image⟩
  let s := if cls = 1 then { s with store := { s.store with loader := [c, c] } } else { s with store := { s.store with firmware := [c, c] } }
  { s with mgmt := { s.mgmt with written := if s.mgmt.written.contains cls then s.mgmt.written else s.mgmt.written ++ [cls] } }

/-- Component 0x0003. -/
def updateRecord (s : State) (image : Bytes) : State :=
  let b := image.take 8192
  let k := recordSigner s image
  if b.length = 8192 ∧ recordLegal s b ∧ k ≠ 0 then
    let c : CfgRec := ⟨b, true⟩
    updateEnd { s with store := { s.store with cfg := [c, c], ownerOnce := s.store.ownerOnce || decide (k = 2) } } 3 0
  else updateEnd s 3 1

/-- The blocks of a whole image. -/
def imageBlocksOf (image head : Bytes) : KMap Bytes :=
  ksetRun [] [] 0 ((List.range (imgBlocks head)).map fun k => slice image (imgData head + k * storeBlock) storeBlock)

/-- Components 0x0010 to 0x001F: checked as an installation is, and then written in its order (R303). -/
def updateStore (s : State) (i : Nat) (image : Bytes) : State :=
  let slot := kget {} s.store.slots i
  let head := image.take (imgData image)
  let m := imageBlocksOf image head
  if slot.busy || slot.repair || slotRead s i then updateEnd s (0x10 + i) 2
  else if (storeImageFault head).isSome || !imageTrusted s head || !(List.range (imgBlocks head)).all (fun k => blockTrusted head k (kget [] m k)) ||
      decide (4032 < extentsUsed s i + 2 * ceilDiv (imgBytes head) (2 ^ 30)) then updateEnd s (0x10 + i) 1
  else storeWrite (setSlot s i { a := { head := head, blocks := m }, busy := true }) (.copyA i none)

/-- PLDM_FIRMWARE_UPDATE: the transfer of a whole component. -/
def execPldmFirmwareUpdate (cls : Nat) (image : Bytes) (s : State) : Host.Outcome State Fault Refusal :=
  if !mgmtUp s then .next s
  else if !offered s cls then .next (updateEnd s cls 3)
  else if cls = 1 then .next (if Config.vendorSigned image then updateEnd (writeObject s 1 image) 1 0 else updateEnd s 1 1)
  else if cls = 2 then
    .next (if Config.vendorSigned image && decide (s.store.fwCounter ≤ Config.objectVersion image) &&
        decide (recordFloor s.store.cfgForce.record ≤ Config.objectVersion image) then updateEnd (writeObject s 2 image) 2 0 else updateEnd s 2 1)
  else if cls = 3 then .next (updateRecord s image)
  else .next (updateStore s (cls - 0x10) image)

/-- ACTIVATE_FIRMWARE: a written loader or firmware takes effect through a management reset, admitted steps or not. -/
def execActivateFirmware (s : State) : Host.Outcome State Fault Refusal :=
  if mgmtUp s ∧ s.mgmt.written ≠ [] then .next (fullReset s 0x5 true) else .next s

end Sys2Proof.Machine
end

