-- ==== Sys2Proof/Machine/PowerCmd.lean ====
section
/-! DEFINITION. The commands about power and diagnostics: POWER_CAP_SET (R397, R398), ENERGY_READ (R408, R409), DIAG_RUN
and the end of its test (R366, R395). -/

namespace Sys2Proof.Machine

/-- Sets the cap; where that lowers the cap in force below the power drawn, the walk-down begins (R398). -/
def setCapW (s : State) (w : Nat) : State :=
  let old := capInForce s.power
  let p := { s.power with setCap := w }
  { s with power := { p with
      walk := if decide (capInForce p < old) && decide (1000 * capInForce p < p.mean10) then some (s.clk.uptime, p.mean10) else p.walk } }

/-- POWER_CAP_SET. -/
def execPowerCapSet (r : RingId) (s : State) : Host.Outcome State Fault Refusal :=
  .next (withCmd s r 0x00A0 fun c =>
    let w := c.fld 299 288
    if s.power.capLimit < w then refuseField s r c stBadParam 288
    else
      let s := setCapW s w
      endOk s r c (capInForce s.power))

/-- The 128-byte record of a context (R408). -/
def energyBytes (now : Nat) (e : Energy) : Bytes :=
  ([now, e.step, e.repeatE, e.queue, e.arrays, e.stores, e.deck, e.stations, e.memory, e.fabric, e.host, e.steps].flatMap (leBytes 8)) ++
    List.replicate 32 0

/-- The 2,304-byte record of the module (R409). -/
def moduleEnergyBytes (s : State) : Bytes :=
  let p := s.power
  let booked := p.attributed + p.adminQueue + p.filler
  ([s.clk.uptime, p.measured, p.attributed, p.adminQueue, p.filler, p.measured - booked, booked - p.measured].flatMap (leBytes 8)) ++
    leBytes 2 (capInForce p) ++ leBytes 2 p.stretch ++ List.replicate 196 (0 : Byte) ++
    ((List.range 256).flatMap fun n =>
      leBytes 8 (match ctxOf s n with | some c => satAdd max64 c.energy.step c.energy.queue | none => 0))

/-- ENERGY_READ. -/
def execEnergyRead (r : RingId) (s : State) : Host.Outcome State Fault Refusal :=
  .next (withCmd s r 0x00A1 fun c =>
    match r with
    | .admin =>
      if c.resultBytes < 2304 then refuseField s r c stBadParam 256
      else endOk (writeResult s r c.resultAddr (moduleEnergyBytes s)) r c 0
    | .ctx n =>
      match ctxOf s n with
      | none => s
      | some k =>
        if c.resultBytes < 128 then refuseField s r c stBadParam 256
        else endOk (writeResult s r c.resultAddr (energyBytes s.clk.uptime k.energy)) r c 0)

/-- DIAG_RUN: test mode is entered while no context exists. -/
def execDiagRun (r : RingId) (s : State) : Host.Outcome State Fault Refusal :=
  .next (withCmd s r 0x00F0 fun c =>
    if s.ctxs ≠ [] ∨ s.diag.isSome then refusePlain s r c stBusy
    else setMode { acceptCmd s r c.seq with diag := some ⟨c.seq, c.fld 295 288⟩, power := { s.power with testing := true } })

/-- Test mode is left (R394, R395). -/
def endTest (s : State) : State := setMode { s with diag := none, power := { s.power with testing := false } }

/-- The 64 bytes of a test's results: the manual does not say what they hold, so they are free values. -/
def testResults (s : State) : State × Bytes :=
  (List.range 8).foldl (fun (q : State × Bytes) _ => let f := takeFree q.1; (f.2, q.2 ++ leBytes 8 f.1.toNat)) (s, [])

/-- DIAG_TEST_COMPLETE: bit i of `failed` says that part i failed. -/
def execDiagTestComplete (failed : Nat) (s : State) : Host.Outcome State Fault Refusal :=
  match s.diag with
  | none => .next s
  | some d =>
    match s.admin.bind fun g => g.cmd d.seq with
    | none => .next (endTest s)
    | some c =>
      let q := testResults s
      let s := if 64 ≤ c.resultBytes then writeResult q.1 .admin c.resultAddr q.2 else s
      .next (endCmd (endTest s) .admin d.seq { status := stOk, result := failed })

end Sys2Proof.Machine
end

