-- ==== Sys2Proof/Machine/Registers.lean ====
section
/-! DEFINITION. BAR0 (R323 to R325, R434 to R451): the value of every register, the read latch, clear-on-read, the writes
of each register, doorbells (R332, R333), the MSI-X table (R337) and the timers of interrupts (R338, R446). -/

namespace Sys2Proof.Machine

/-! ### Values (R440 to R449) -/

/-- A 64-bit value from fields of a first bit and a value. -/
def fields (l : List (Nat × Nat)) : BitVec 64 := BitVec.ofNat 64 (total (l.map fun p => p.2 * 2 ^ p.1))

/-- Frames that no context reserves and that are not withdrawn (R374, R440). -/
def freeFrames (s : State) : Nat :=
  130048 - (s.sm.reserved ++ s.store.withdrawn.filter fun f => decide (f < 130048) && !s.sm.reserved.contains f).length

/-- Identification block (R440). -/
def idReg (s : State) (o : Nat) : Option (BitVec 64) :=
  match o with
  | 0x00 => some (fields [(0, 0x4C5A6416), (32, 1)])
  | 0x08 => some (Config.stepping.setWidth 64)
  | 0x10 => some Config.serial
  | 0x18 => some (fields [(0, s.boot.fwVersion), (32, s.boot.cfgVersion)])
  | 0x20 => some (fields [(0, s.store.bootCounter)])
  | 0x28 => some (BitVec.ofNat 64 s.clk.uptime)
  | 0x30 => some (fields [(0, s.host.rate), (2, s.host.width), (8, s.host.retrains), (32, hostCapacity s)])
  | 0x38 => some (fields [(0, 130048 - (s.store.withdrawn.filter fun f => decide (f < 130048)).length), (32, freeFrames s)])
  | _ => none

/-- A doorbell reads back what it holds; 0 where its ring does not exist (R441). -/
def doorbellReg (s : State) (r : RingId) : BitVec 64 :=
  match ringOf s r with
  | some g => g.statusHead ++ g.cmdTail
  | none => 0

/-- Whether a port's LINK_CHANGE is set. -/
def portChange (s : State) : Bool := s.ports.any fun p => p.2.linkChange

/-- Error log block (R443). -/
def errReg (s : State) (o : Nat) : Option (BitVec 64) :=
  let e := s.err
  match o with
  | 0x00 => some (fields [(0, b2n e.logged), (1, b2n e.fatalBit), (2, b2n e.droppedBit), (3, b2n (portChange s)), (4, b2n (decide (s.power.events ≠ 0)))])
  | 0x08 => some (fields [(0, e.slots.length), (16, e.newest)])
  | 0x10 => some (BitVec.ofNat 64 e.written)
  | 0x18 => some (BitVec.ofNat 64 e.dropped)
  | 0x20 => some (BitVec.ofNat 64 e.malformed)
  | 0x28 => some (BitVec.ofNat 64 e.select)
  | 0x30 => some 0
  | 0x40 => some (e.entry.setWidth 64)
  | 0x48 => some ((e.entry >>> 64).setWidth 64)
  | 0x50 => some ((e.entry >>> 128).setWidth 64)
  | 0x58 => some ((e.entry >>> 192).setWidth 64)
  | _ => none

/-- FAB_PORT_STATUS (R270). -/
def portStatus (p : Port) : BitVec 64 :=
  fields [(0, b2n p.up), (1, p.rcd.lanes), (4, b2n p.preempt), (5, p.verify), (7, b2n (p.paused.testBit (classPrio p.rcd true))),
    (8, p.paused), (16, b2n p.linkChange)]

/-- Fabric block, by offset from 0x2_0000 (R269, R270, R281, R447). -/
def fabricReg (s : State) (o : Nat) : Option (BitVec 64) :=
  if o < 0x8000 then
    let p := portOf s (o / 0x1000)
    if o % 0x1000 ≤ 0x168 then some (BitVec.ofNat 64 (kget 0 p.counters (o % 0x1000 / 8)))
    else if o % 0x1000 = 0x800 then some (portStatus p)
    else none
  else if o ≤ 0x8060 then some (BitVec.ofNat 64 (kget 0 s.slory.counters ((o - 0x8000) / 8)))
  else none

/-- MODE of PWR_STATE (R394). -/
def PMode.code : PMode → Nat
  | .startup => 0 | .test => 1 | .recovery => 2 | .normal => 3

/-- A reading in 16 bits. -/
def reading16 (v : Int) : Nat := pattern16 v

/-- Power and thermal telemetry (R448). -/
def powerReg (s : State) (o : Nat) : Option (BitVec 64) :=
  let p := s.power
  if o = 0x00 then some (fields [(0, p.mode.code + p.state)])
  else if o = 0x08 then some (BitVec.ofNat 64 p.events)
  else if o = 0x10 then some (fields [(0, min max32 p.mean10), (32, min max32 p.mean1ms)])
  else if o = 0x18 then some (fields [(0, capInForce p), (16, p.setCap), (32, p.thermalCap), (48, p.flowCap)])
  else if o = 0x20 then some (fields [(0, p.stretch), (16, p.controller)])
  else if o = 0x28 then some (BitVec.ofNat 64 p.measured)
  else if o = 0x30 then some (BitVec.ofNat 64 p.filler)
  else if o = 0x38 then some (BitVec.ofNat 64 p.slopeExceeded)
  else if o = 0x40 then some (fields ((List.range 4).map fun i => (16 * i, reading16 (p.temps.getD i 0))))
  else if o = 0x48 then some (fields [(0, p.flow % 4294967296)])
  else if 0x100 ≤ o ∧ o < 0x200 then
    some (fields [(0, kget 0 p.shares ((o - 0x100) / 8) % 4294967296), (32, kget 0 p.learnedNow ((o - 0x100) / 8) % 4294967296)])
  else if 0x200 ≤ o ∧ o < 0x310 then some (BitVec.ofNat 64 (kget 0 p.droop ((o - 0x200) / 8)))
  else if 0x400 ≤ o ∧ o < 0x530 then some (fields [(0, reading16 (kget 0 p.logic ((o - 0x400) / 8)))])
  else if 0x600 ≤ o ∧ o < 0x800 then
    some (fields [(0, reading16 ((stackOf s ((o - 0x600) / 64)).sensors.getD ((o - 0x600) / 8 % 8) 0))])
  else none

/-- Reset and boot control (R449). -/
def bootReg (s : State) (o : Nat) : Option (BitVec 64) :=
  match o with
  | 0x000 => some (BitVec.ofNat 64 s.boot.stage)
  | 0x008 => some (BitVec.ofNat 64 s.boot.cause)
  | 0x010 => some 0
  | 0x018 => some (BitVec.ofNat 64 s.boot.readyTime)
  | 0x100 => some (s.regs.adminRec.setWidth 64)
  | 0x108 => some ((s.regs.adminRec >>> 64).setWidth 64)
  | 0x110 => some ((s.regs.adminRec >>> 128).setWidth 64)
  | 0x118 => some ((s.regs.adminRec >>> 192).setWidth 64)
  | 0x120 => some 0
  | 0x128 => some (fields [(0, s.regs.adminStatus), (16, s.regs.adminOffset), (32, s.regs.installs)])
  | _ => none

/-- MSI-X table and pending bits, by offset from 0x8_0000 (R324, R337). -/
def msixReg (s : State) (o : Nat) : Option (BitVec 64) :=
  if o < 0x2000 then
    let e := vecEntry s (o / 16)
    some (if o % 16 = 0 then e.addr else e.control ++ e.data)
  else if o < 0x2040 then
    some (fields ((List.range 64).map fun i => (i, b2n (s.msix.pend.contains (8 * (o - 0x2000) + i)))))
  else none

/-- The value of the register at offset `o`, a multiple of 8; none where the offset is unimplemented (R324). -/
def regValue (s : State) (o : Nat) : Option (BitVec 64) :=
  if o < 0x1000 then idReg s o
  else if o < 0x1800 then some (doorbellReg s (.ctx ((o - 0x1000) / 8)))
  else if o = 0x1800 then some (doorbellReg s .admin)
  else if 0x10000 ≤ o ∧ o < 0x20000 then errReg s (o - 0x10000)
  else if 0x20000 ≤ o ∧ o < 0x30000 then fabricReg s (o - 0x20000)
  else if 0x30000 ≤ o ∧ o < 0x40000 then powerReg s (o - 0x30000)
  else if 0x40000 ≤ o ∧ o < 0x50000 then bootReg s (o - 0x40000)
  else if 0x80000 ≤ o ∧ o < 0x82040 then msixReg s (o - 0x80000)
  else none

/-! ### Accesses (R325, R434, R435, R439) -/

/-- Whether an offset lies in a block that reads 0 and ignores writes until READY (R439). -/
def gated (s : State) (off : Nat) : Bool :=
  !s.boot.ready && !decide (off < 0x1000 ∨ (0x40000 ≤ off ∧ off < 0x50000)) &&
    decide (off < 0x2000 ∨ (0x10000 ≤ off ∧ off < 0x40000) ∨ (0x80000 ≤ off ∧ off < 0x82040))

/-- Whether an access is malformed: neither 4 nor 8 bytes, not aligned, or outside every register (R325). -/
def malformed (s : State) (off size : Nat) : Bool :=
  !(decide (size = 4 ∨ size = 8) && decide (off % size = 0)) || (!gated s off && (regValue s (off - off % 8)).isNone)

/-- The effect of a malformed access on the error log (R325, R428). -/
def countMalformed (s : State) (off : Nat) : State :=
  logErr { s with err := { s.err with malformed := satAdd max64 s.err.malformed 1 } } 0x0806 none (BitVec.ofNat 128 off)

/-- Forgets the read latch: the last BAR0 access is no longer a low-half read (R435). -/
def noLatch (s : State) : State := { s with regs := { s.regs with latch := none } }

/-- Returns a value to the host. -/
def answer (s : State) (off size : Nat) (v : BitVec 64) : State := emit s (.regRead off size v)

/-- A write: `f` is its effect on a register that takes writes, `size` and `high` choose the half. Without the link nothing
reaches BAR0. -/
def barWrite (s : State) (off size : Nat) (f : State → State) : State :=
  if !s.host.up then s
  else
    let s := noLatch s
    if malformed s off size then countMalformed s off else if gated s off then s else f s

/-- The bits that a write of `size` bytes sets: a mask and a value of 64 bits (R434, R437). -/
def writeBits (size : Nat) (high : Bool) (v : BitVec 64) : BitVec 64 × BitVec 64 :=
  if size = 8 then (BitVec.allOnes 64, v)
  else if high then (0xFFFFFFFF00000000#64, (v &&& 0xFFFFFFFF#64) <<< 32)
  else (0xFFFFFFFF#64, v &&& 0xFFFFFFFF#64)

/-- The offset of a register of which a half is written. -/
def halfOff (o : Nat) (high : Bool) : Nat := if high then o + 4 else o

/-! ### Clear on read (R269, R281, R436, R443, R448) -/

/-- Whether the register at offset `o` is RC. -/
def isRc (o : Nat) : Bool :=
  decide (o = 0x10018 ∨ o = 0x10020 ∨ (0x20000 ≤ o ∧ o < 0x28000 ∧ o % 0x1000 ≤ 0x168) ∨ (0x28000 ≤ o ∧ o ≤ 0x28060) ∨ o = 0x30038 ∨
    (0x30200 ≤ o ∧ o < 0x30310))

/-- Clears the RC register at offset `o`. -/
def clearRc (s : State) (o : Nat) : State :=
  if o = 0x10018 then { s with err := { s.err with dropped := 0 } }
  else if o = 0x10020 then { s with err := { s.err with malformed := 0 } }
  else if o < 0x28000 then
    let q := (o - 0x20000) / 0x1000
    let p := portOf s q
    setPort s q { p with counters := kset 0 p.counters (o % 0x1000 / 8) 0 }
  else if o ≤ 0x28060 then { s with slory := { s.slory with counters := kset 0 s.slory.counters ((o - 0x28000) / 8) 0 } }
  else if o = 0x30038 then { s with power := { s.power with slopeExceeded := 0 } }
  else { s with power := { s.power with droop := kset 0 s.power.droop ((o - 0x30200) / 8) 0 } }

/-- The half of a value that a 4-byte access at `off` addresses. -/
def halfOf (v : BitVec 64) (off : Nat) : BitVec 64 := if off % 8 = 0 then v &&& 0xFFFFFFFF#64 else v >>> 32

/-- A read of a counter of pause quanta finds those of the pauses under way in it (R269). -/
def settleRead (s : State) (o : Nat) : State :=
  if 0x20000 ≤ o ∧ o < 0x28000 ∧ (o % 0x1000 = 0x38 ∨ o % 0x1000 = 0x40) ∧ s.boot.ready then settlePort s ((o - 0x20000) / 0x1000) else s

/-- A read of `size` bytes: 8 bytes whole; a low half, with the latch; a high half from the latch where the previous access
was a 4-byte read of the low half, otherwise as it stands (R435, R436). -/
def barRead (s : State) (off size : Nat) : State :=
  if !s.host.up then s
  else
    let o := off - off % 8
    let was := s.regs.latch
    let s := settleRead (noLatch s) o
    if malformed s off size then answer (countMalformed s off) off size 0
    else
      let v := if gated s off then 0 else (regValue s o).getD 0
      let clear := fun (s : State) => if isRc o && !gated s off then clearRc s o else s
      if size = 8 then answer (clear s) off size v
      else if off % 8 = 0 then
        answer (clear { s with regs := { s.regs with latch := some (o, (v >>> 32).setWidth 32) } }) off size (halfOf v off)
      else
        match was with
        | some (k, x) => if k = o then answer s off size (x.setWidth 64) else answer s off size (halfOf v off)
        | none => answer s off size (halfOf v off)

/-- RC_REGISTER_READ: of a clear-on-read register. -/
def execRcRegisterRead (off size : Nat) (s : State) : Host.Outcome State Fault Refusal := .next (barRead s off size)

/-- LOW_HALF_READ: and every other read of a register. -/
def execLowHalfRead (off size : Nat) (s : State) : Host.Outcome State Fault Refusal := .next (barRead s off size)

/-- MALFORMED_REGISTER_ACCESS: a read returns 0, a write is ignored. -/
def execMalformedRegisterAccess (off size : Nat) (read : Bool) (s : State) : Host.Outcome State Fault Refusal :=
  if !s.host.up || !malformed s off size then .next s
  else .next (if read then answer (countMalformed (noLatch s) off) off size 0 else countMalformed (noLatch s) off)

/-! ### Doorbells (R332, R333, R441) -/

/-- An ignored doorbell field. -/
def badDoorbell (s : State) (r : RingId) : State :=
  logErr (updRing s r fun g => { g with dbErrors := satAdd max32 g.dbErrors 1 }) 0x0807 r.ctxNo (Config.errDetail 0x0807 [r.vector])

/-- Writes CMD_TAIL. -/
def writeTail (s : State) (r : RingId) (g : Ring) (v : BitVec 32) : State :=
  if (v - g.cmdHead).toNat ≤ 2 ^ g.rcd.cmdLog2 then setRing s r { g with cmdTail := v } else badDoorbell s r

/-- Writes STATUS_HEAD; with every entry consumed the coalescing time no longer runs (R338). -/
def writeHead (s : State) (r : RingId) (g : Ring) (v : BitVec 32) : State :=
  if (v - g.statusHead).toNat ≤ (g.statusTail - g.statusHead).toNat then
    setRing s r { g with statusHead := v, coalArmed := g.coalArmed && decide (v ≠ g.statusTail) }
  else badDoorbell s r

/-- A doorbell write: each field is tested as it is written; a doorbell without a ring is ignored and logged. -/
def doorbell (s : State) (r : RingId) (size : Nat) (high : Bool) (v : BitVec 64) : State :=
  match ringOf s r with
  | none => logErr s 0x0807 none (Config.errDetail 0x0807 [r.vector])
  | some g =>
    let m := writeBits size high v
    let s := if m.1.getLsbD 0 then writeTail s r g (m.2.setWidth 32) else s
    if m.1.getLsbD 32 then
      match ringOf s r with
      | some g => writeHead s r g ((m.2 >>> 32).setWidth 32)
      | none => s
    else s

/-- DB_CTX. -/
def execDbCtx (n size : Nat) (high : Bool) (v : BitVec 64) (s : State) : Host.Outcome State Fault Refusal :=
  if n < 256 then .next (barWrite s (halfOff (0x1000 + 8 * n) high) size fun s => doorbell s (.ctx n) size high v) else .next s

/-- DB_ADMIN. -/
def execDbAdmin (size : Nat) (high : Bool) (v : BitVec 64) (s : State) : Host.Outcome State Fault Refusal :=
  .next (barWrite s (halfOff 0x1800 high) size fun s => doorbell s .admin size high v)

/-! ### Interrupt timers and the MSI-X table (R337, R338, R446) -/

/-- COAL_US: the ring's coalescing time has run out. -/
def execCoalUs (r : RingId) (s : State) : Host.Outcome State Fault Refusal :=
  match ringOf s r with
  | some g => if g.coalArmed ∧ g.fresh ≠ 0 then .next (sendRing s r) else .next s
  | none => .next s

/-- MSIX_RATE_WINDOW: a microsecond has passed since the last message of vector 257, 258 or 259. -/
def execMsixRateWindow (vec : Nat) (s : State) : Host.Outcome State Fault Refusal :=
  if s.msix.window.contains vec then
    let due := s.msix.owed.contains vec
    let s := { s with msix := { s.msix with window := s.msix.window.filter fun k => decide (k ≠ vec), owed := s.msix.owed.filter fun k => decide (k ≠ vec) } }
    .next (if due then raiseVector s vec else s)
  else .next s

/-- Writes a table entry; a vector that this unmasks with its pending bit set is sent. -/
def writeEntry (s : State) (vec : Nat) (e : MsixEntry) : State :=
  let old := vecEntry s vec
  let s := { s with msix := { s.msix with table := kset {} s.msix.table vec e } }
  if old.control.getLsbD 0 && !e.control.getLsbD 0 && s.msix.pend.contains vec then
    let s := { s with msix := { s.msix with pend := s.msix.pend.filter fun k => decide (k ≠ vec) } }
    if 257 ≤ vec ∧ vec ≤ 259 then raiseVector s vec else sendVector s vec
  else s

/-- Merges written bits into a value. -/
def mergeBits (old : BitVec 64) (m : BitVec 64 × BitVec 64) : BitVec 64 := (old &&& ~~~m.1) ||| (m.2 &&& m.1)

/-- The write of the table register at `o` (a multiple of 8) from 0x8_0000. -/
def msixWrite (s : State) (o : Nat) (m : BitVec 64 × BitVec 64) : State :=
  let e := vecEntry s (o / 16)
  if 0x2000 ≤ o then s
  else if o % 16 = 0 then writeEntry s (o / 16) { e with addr := mergeBits e.addr m }
  else
    let w := mergeBits (e.control ++ e.data) m
    writeEntry s (o / 16) { e with data := w.setWidth 32, control := (w >>> 32).setWidth 32 }

/-- MSIX_TABLE_WRITE; `off` counts from 0x8_0000. -/
def execMsixTableWrite (off size : Nat) (v : BitVec 64) (s : State) : Host.Outcome State Fault Refusal :=
  if off < 0x2000 then
    .next (barWrite s (0x80000 + off) size fun s => msixWrite s (off - off % 8) (writeBits size (decide (off % 8 = 4)) v))
  else .next s

/-! ### Error log window (R443 to R445) -/

/-- The 32 bytes of an entry as a number (R427). -/
def entryBits (y : LogEntry) : BitVec 256 :=
  BitVec.ofNat 256 (y.code % 65536 + y.severity % 8 * 2 ^ 16 + b2n y.prior * 2 ^ 19 + b2n y.ctx.isSome * 2 ^ 20 + y.ctx.getD 0 % 256 * 2 ^ 24 +
    y.count % 4294967296 * 2 ^ 32 + y.time % 2 ^ 64 * 2 ^ 64 + y.detail.toNat * 2 ^ 128)

/-- Copies a slot; an empty one as zeros (R444). -/
def selectSlot (s : State) (i : Nat) : State :=
  { s with err := { s.err with select := i, entry := ((kfind s.err.slots i).map entryBits).getD 0 } }

/-- ERR_LOG_SELECT. -/
def execErrLogSelect (size : Nat) (high : Bool) (v : BitVec 64) (s : State) : Host.Outcome State Fault Refusal :=
  .next (barWrite s (halfOff 0x10028 high) size fun s =>
    let m := writeBits size high v
    if m.1.getLsbD 0 then selectSlot s ((m.2.setWidth 10).toNat) else s)

/-- Removes the entries of this boot up to a time and, with `prior`, those of earlier boots (R445). -/
def ackLog (s : State) (time : Nat) (prior : Bool) : State :=
  { s with err := { s.err with slots := s.err.slots.filter fun q => if q.2.prior then !prior else decide (time < q.2.time) } }

/-- ERR_LOG_ACK; a half that is not written counts as 0 (DEDUCED, log entry 32). -/
def execErrLogAck (size : Nat) (high : Bool) (v : BitVec 64) (s : State) : Host.Outcome State Fault Refusal :=
  .next (barWrite s (halfOff 0x10030 high) size fun s =>
    let m := (writeBits size high v).2
    ackLog s ((m.setWidth 63).toNat) (m.getLsbD 63))

/-! ### Bits cleared by writing 1 (R437, R438) -/

/-- Clears the bits of a W1C register at `o`; a bit that hardware sets in the same cycle stays set, and its vector is raised
(R446). -/
def w1c (s : State) (o : Nat) (m sets : BitVec 64) : State :=
  if o = 0x10000 then
    let b := fun (old : Bool) (i : Nat) => sets.getLsbD i || (old && !m.getLsbD i)
    let s := { s with err := { s.err with logged := b s.err.logged 0, fatalBit := b s.err.fatalBit 1, droppedBit := b s.err.droppedBit 2 } }
    if (sets &&& 7#64) ≠ 0 then raiseVector s 257 else s
  else if o = 0x30008 then
    let e := ((BitVec.ofNat 64 s.power.events &&& ~~~m) ||| sets) &&& 0x3FF#64
    let s := { s with power := { s.power with events := e.toNat } }
    if (sets &&& 0x3FF#64) ≠ 0 then raiseVector s 259 else s
  else if 0x20000 ≤ o ∧ o < 0x28000 ∧ o % 0x1000 = 0x800 then
    let q := (o - 0x20000) / 0x1000
    let p := portOf s q
    let s := setPort s q { p with linkChange := sets.getLsbD 16 || (p.linkChange && !m.getLsbD 16) }
    if sets.getLsbD 16 then raiseVector s 258 else s
  else s

/-- W1C_WRITE; `sets` names the bits that hardware sets in the cycle of the write. -/
def execW1cWrite (off size : Nat) (v sets : BitVec 64) (s : State) : Host.Outcome State Fault Refusal :=
  .next (barWrite s off size fun s => w1c s (off - off % 8) (writeBits size (decide (off % 8 = 4)) v).2 sets)

/-! ### Reset and boot control (R418, R449 to R451) -/

/-- RST_CONTROL: the key takes effect in every state. -/
def execRstControl (size : Nat) (high : Bool) (v : BitVec 64) (s : State) : Host.Outcome State Fault Refusal :=
  .next (barWrite s (halfOff 0x40010 high) size fun s =>
    let m := writeBits size high v
    if m.1.getLsbD 0 && decide (m.2.setWidth 32 = 0x4C5A0001#32) then fullReset s 0x4 true else s)

/-- A write of the administrative ring record before READY is ignored and logged (R418, R450); the log entry is a 0x0806
that names the offset (DEDUCED, log entry 32). -/
def earlyWrite (s : State) (off : Nat) : State := logErr s 0x0806 none (BitVec.ofNat 128 off)

/-- The bytes of RST_ADMIN_RING0 to RST_ADMIN_RING3. -/
def adminRecBytes (s : State) : Bytes := leBytes 32 s.regs.adminRec.toNat

/-- The outcome of an installation. -/
def adminResult (s : State) (status off : Nat) : State :=
  { s with regs := { s.regs with adminStatus := status, adminOffset := off, installs := satAdd max32 s.regs.installs 1 } }

/-- Installs the administrative ring record (R450): a new ring with every position 0, and its control line of zeros. -/
def installAdmin (s : State) : State :=
  match ringFault (adminRecBytes s) (ctxSpans s) (allPages s) with
  | some o => adminResult s stBadParam o
  | none =>
    if (s.admin.map fun g => !g.cmds.isEmpty).getD false then adminResult s stBusy 0
    else writeCtrl (adminResult { s with admin := some { rcd := ringRecOf (adminRecBytes s) } } stOk 0) .admin []

/-- RST_ADMIN_INSTALL. -/
def execRstAdminInstall (size : Nat) (high : Bool) (v : BitVec 64) (s : State) : Host.Outcome State Fault Refusal :=
  .next (barWrite s (halfOff 0x40120 high) size fun s =>
    let m := writeBits size high v
    if !(m.1.getLsbD 0 && m.2.getLsbD 0) then s
    else if s.boot.ready then installAdmin s else earlyWrite s 0x40120)

/-- The write of a register without a row of its own: only RST_ADMIN_RING0 to RST_ADMIN_RING3 take one. -/
def plainWrite (s : State) (o : Nat) (m : BitVec 64 × BitVec 64) : State :=
  if 0x40100 ≤ o ∧ o < 0x40120 then
    if s.boot.ready then
      let k := 8 * (o - 0x40100)
      let old := (s.regs.adminRec >>> k).setWidth 64
      let keep := s.regs.adminRec &&& ~~~((BitVec.allOnes 64).setWidth 256 <<< k)
      { s with regs := { s.regs with adminRec := keep ||| ((mergeBits old m).setWidth 256 <<< k) } }
    else earlyWrite s o
  else s

/-- REGISTER_WRITE. -/
def execRegisterWrite (off size : Nat) (v : BitVec 64) (s : State) : Host.Outcome State Fault Refusal :=
  .next (barWrite s off size fun s => plainWrite s (off - off % 8) (writeBits size (decide (off % 8 = 4)) v))

end Sys2Proof.Machine
end

