-- ==== Sys2Proof/Machine/Security.lean ====
section
/-! DEFINITION. Attestation reports (R391, R393). -/

namespace Sys2Proof.Machine

/-- The certificates behind a report, each preceded by its length. -/
def certBytes : Bytes :=
  leBytes 4 Config.deviceCert.length ++ Config.deviceCert ++ leBytes 4 Config.caCert.length ++ Config.caCert

/-- LENGTH: report and certificates. -/
def reportLength : Nat := 2304 + certBytes.length

/-- The context fields of a report, bytes 360 to 1535; zeros on the administrative ring. -/
def reportCtxBytes (ctx : Option (Nat × Ctx)) : Bytes :=
  match ctx with
  | none => List.replicate 1176 0
  | some (n, c) =>
    leBytes 1 n ++ leBytes 3 (b2n c.cls) ++ leBytes 4 c.tag.toNat ++ leBytes 4 c.loadGen.toNat ++ leBytes 4 0 ++ leBytes 8 c.versionWord ++
      leBytes 64 c.grantDigest.toNat ++ ((List.range 16).flatMap fun i => leBytes 64 (((kfind c.images i).map fun g => g.digest.toNat).getD 0)) ++
      leBytes 64 c.weightLog.toNat

/-- Bytes 0 to 1,791: what the signature covers. -/
def reportBody (s : State) (nonce : Bytes) (ctx : Option (Nat × Ctx)) : Bytes :=
  slice (leBytes 4 0x4C5A0F01 ++ leBytes 2 1 ++ leBytes 2 (b2n ctx.isSome) ++ leBytes 4 reportLength ++ leBytes 4 0 ++ slice nonce 0 64 ++
    leBytes 64 Config.identityDigest.toNat ++ leBytes 64 s.boot.loaderMeas.toNat ++ leBytes 64 s.boot.fwMeas.toNat ++
    sha512 s.store.cfgForce.record ++ leBytes 4 s.boot.fwVersion ++ leBytes 4 s.boot.cfgVersion ++ leBytes 4 s.store.bootCounter ++ leBytes 4 0 ++
    leBytes 8 s.clk.uptime ++ reportCtxBytes ctx) 0 1792

/-- ATTEST_REPORT: the salt of the signature is a free value. -/
def execAttestReport (r : RingId) (s : State) : Host.Outcome State Fault Refusal :=
  .next (withCmd s r 0x00C0 fun c =>
    let ctx := match r with
      | .admin => none
      | .ctx n => (ctxOf s n).map fun k => (n, k)
    if (match ctx with | some (_, k) => k.destroying.isSome | none => false) then refusePlain s r c stKilled
    else if c.resultBytes < 8192 then refuseField s r c stBadParam 256
    else
      let f := takeFree s
      let body := reportBody s c.param ctx
      endOk (writeResult f.2 r c.resultAddr (body ++ slice (Config.identitySign f.1 body) 0 512 ++ certBytes)) r c reportLength)

end Sys2Proof.Machine
end

