-- ==== Sys2Proof/Machine/TableStn.lean ====
section
/-! DEFINITION. The table station: evaluation of piecewise-quadratic tables and of derivative tables
(R140 to R142, R144). -/

namespace Sys2Proof.Machine

/-- The first argument of segment `i` (R141). -/
def segStart (t : TableRec) (i : Nat) : FV :=
  if t.expMode then .fin false (32 + i % 32) (((t.eLo + i / 32 : Nat) : Int) - 132)
  else
    match dec32 t.lo with
    | .fin n m e => finAdd n m e false i t.m
    | v => v

/-- x − start(i), exactly. -/
def subExact (x y : FV) : FV :=
  match x, y with
  | .fin n₁ m₁ e₁, .fin n₂ m₂ e₂ => finAdd n₁ m₁ e₁ (!n₂) m₂ e₂
  | a, _ => a

/-- poly(i, t): two fused multiply-adds (R141). -/
def segPoly (t : TableRec) (i : Nat) (d : FV) : Nat × Nat :=
  let c := t.coef.getD i (0, 0, 0)
  let inner := ffma .fp32 d (dec32 c.2.2) (dec32 c.2.1)
  let r := ffma .fp32 d (dec32 inner.1) (dec32 c.1)
  (r.1, inner.2 ||| r.2)

/-- poly(i, round_fp32(x − start(i))). -/
def segEval (t : TableRec) (i : Nat) (x : FV) : Nat × Nat :=
  let d := fcvt .fp32 (subExact x (segStart t i))
  let r := segPoly t i (dec32 d.1)
  (r.1, d.2 ||| r.2)

/-- below(x) (R141). -/
def tabBelow (t : TableRec) (x : FV) : Nat × Nat := if t.belowExt then segEval t 0 x else (t.lowValue, 0)

/-- above(x) (R141). -/
def tabAbove (t : TableRec) (x : FV) : Nat × Nat := if t.aboveExt then segEval t 1023 x else (t.highValue, 0)

/-- The integer part of m × 2^e. -/
def floorMag (m : Nat) (e : Int) : Nat := if 0 ≤ e then m <<< e.toNat else m >>> (-e).toNat

/-- The sign of an FP32 word changed; NaN stays the default NaN. -/
def flip32 (x : Nat) : Nat := if (dec32 x).isNan then x else x ^^^ 2 ^ 31

/-- table_eval of R141 in LINEAR mode. -/
def tabLinear (t : TableRec) (x : FV) : Nat × Nat :=
  match (subExact x (dec32 t.lo)).scale (-t.m) with
  | .fin n m e => if n ∧ m ≠ 0 then tabBelow t x else if 1024 ≤ floorMag m e then tabAbove t x else segEval t (floorMag m e) x
  | _ => (Fmt.dnan .fp32, 0)

/-- table_eval of R141 in EXPONENT mode on a finite argument whose sign has been settled. -/
def tabExponent (t : TableRec) (bits : Nat) : Nat × Nat :=
  let x := dec32 bits
  let e := fld bits 30 23
  if x.isZero then (t.zeroValue, 0)
  else if x.neg ∨ e < t.eLo then tabBelow t x
  else if t.eLo + 31 < e then tabAbove t x
  else
    let i := (e - t.eLo) * 32 + fld bits 22 18
    segPoly t i (subExact x (segStart t i))

/-- table_eval of R141 at an FP32 input. -/
def tableEval (t : TableRec) (bits : Nat) : Nat × Nat :=
  match dec32 bits with
  | .nan => (Fmt.dnan .fp32, 1)
  | .inf n => (if n then t.infNeg else t.infPos, 0)
  | .fin n _ _ =>
    if t.expMode then
      let fold := n ∧ t.sym ≠ 0
      let y := tabExponent t (if fold then bits % 2 ^ 31 else bits)
      if fold ∧ t.sym = 1 then (flip32 y.1, y.2) else y
    else tabLinear t (dec32 bits)

/-- A table-station operation with code `code` over table ARG; `g` gives the FP32 result from the table, the bits
of SRC_A and of SRC_B. -/
def tabElem (code : Nat) (useB : Bool) (g : TableRec → Nat → Nat → Nat × Nat) (st sp stall : Nat) (s : State) : State :=
  match nextIns s st (2100 + sp) (fun img => kget [] img.tables sp) (·.cycle) with
  | none => s
  | some (x, img, _, u, ins) =>
    if ins.vop = code then
      match operandTiles s img x true ins.srcA ins.cycle, operandTiles s img x useB ins.srcB ins.cycle,
          descOf img x ins.dst, img.tabs[ins.arg]? with
      | some (some a), some b, some d, some t =>
        stationRun s img x (2100 + sp) sp u stall ins.dst d ins.cycle (fun n => readTag img x ins.srcA n a.1)
          (fun n i j =>
            let va := widen .fp32 a.1.fmt (operandBits (some a) n i j)
            let vb := widen .fp32 (operandFmt b) (operandBits b (bTile a.1 b ins.bcast n) i (if ins.bcast then 0 else j))
            let r := g t (fcvt .fp32 va.1).1 (fcvt .fp32 vb.1).1
            let q := fconv .fp32 d.fmt r.1
            (q.1, r.2 ||| q.2 ||| va.2 ||| vb.2))
          (fun n i j => (ins.cycle + laneGroup d 128 n i j, .station n i j u.next))
      | _, _, _, _ => waitFor s x (2100 + sp) u stall 0 ([ins.srcA] ++ if useB then [ins.srcB] else [])
    else s

/-- EVAL: table_eval(a) (R142). -/
def execEval (st sp stall : Nat) (s : State) : Host.Outcome State Fault Refusal :=
  .next (tabElem 0x01 false (fun t a _ => tableEval t a) st sp stall s)

/-- DERIV_MUL: round_fp32(b × table_eval(a)) (R142). -/
def execDerivMul (st sp stall : Nat) (s : State) : Host.Outcome State Fault Refusal :=
  .next (tabElem 0x02 true (fun t a b =>
    let y := tableEval t a
    let r := fmulV .fp32 (dec32 b) (dec32 y.1)
    (r.1, y.2 ||| r.2)) st sp stall s)

/-- FLAG_CLEAR of the table station. -/
def execTableFlagClear (st sp stall : Nat) (s : State) : Host.Outcome State Fault Refusal :=
  .next (stationClear (2100 + sp) (fun img => kget [] img.tables sp) st stall s)

end Sys2Proof.Machine
end

