-- ==== Sys2Proof/Machine/Timeouts.lean ====
section
/-! DEFINITION. Command timeouts (R369). -/

namespace Sys2Proof.Machine

/-- ST_TIMEOUT. -/
def timeoutReply : Reply := plain stTimeout

/-- A checkpoint stream that its timeout ends: no stream is active and its records are freed. -/
def ckptTimeout (s : State) (n seq : Nat) : State :=
  match ctxOf s n with
  | none => s
  | some c =>
    let s := match c.sender with | some k => endSender (setCtx s n { c with ckptWait := none }) n k | none => s
    endCmd s (.ctx n) seq timeoutReply

/-- A granule whose record is not written yet goes back to where it was. -/
def undoRetire (seq : Nat) (s : State) (w : StoreWrite) : State :=
  match w with
  | .retire b g k (some q) =>
    if q = seq then
      let s := moveGranule s b (spareFirst + k) g
      { s with store := { s.store with retired := kdel s.store.retired (granKey b g) } }
    else s
  | _ => s

/-- Whether a store write is that of another retirement. -/
def notRetire (seq : Nat) (w : StoreWrite) : Bool := match w with | .retire _ _ _ (some k) => decide (k ≠ seq) | _ => true

/-- A retirement that its timeout ends: nothing is retired, and admission resumes. -/
def retireTimeout (s : State) (seq : Nat) : State :=
  let s := s.store.writing.foldl (undoRetire seq) s
  let s := { s with
    ctxs := s.ctxs.map fun q => (q.1, { q.2 with retiring := q.2.retiring.filter fun e => decide (e.2.2 ≠ seq) })
    sm := { s.sm with retiring := s.sm.retiring.filter fun e => decide (e.2.2 ≠ seq) }
    store := { s.store with writing := s.store.writing.filter (notRetire seq) } }
  endCmd s .admin seq timeoutReply

/-- A test that its timeout ends: every part not completed is reported failed, and which parts those are is a free value. -/
def diagTimeout (s : State) (seq : Nat) : State :=
  let f := takeFree (endTest s)
  endCmd f.2 .admin seq { timeoutReply with result := f.1.toNat }

/-- The slot of an installation. -/
def installTimeout (s : State) (c : Cmd) : State :=
  let i := c.fld 295 292
  let s := { s with
    host := { s.host with reads := s.host.reads.filter fun r => match r.owner with | .install k _ => decide (k ≠ i) | _ => true }
    store := { s.store with writing := s.store.writing.filter fun w =>
      match w with
      | .copyA k _ => decide (k ≠ i)
      | .copyB k _ => decide (k ≠ i)
      | .directory k _ => decide (k ≠ i)
      | _ => true } }
  endInstall s i timeoutReply

/-- COMMAND_TIMEOUT: an accepted command that has a timeout and has not come to its reply. -/
def execCommandTimeout (r : RingId) (seq : Nat) (s : State) : Host.Outcome State Fault Refusal :=
  match (ringOf s r).bind fun g => g.cmd seq with
  | none => .next s
  | some c =>
    if !c.accepted || c.held.isSome then .next s
    else
      match r, c.opcode with
      | .ctx n, 0x0020 => .next (endCmd (removeImage s n (c.fld 291 288)) r seq timeoutReply)
      | .ctx n, 0x0050 => .next (abortLoad s n timeoutReply)
      | .admin, 0x0050 => .next (installTimeout s c)
      | .ctx n, 0x0070 => .next (ckptTimeout s n seq)
      | .ctx _, 0x0072 => .next (endCmd s r seq timeoutReply)
      | .admin, 0x0090 => .next (payOwed (retireTimeout s seq))
      | .admin, 0x00F0 => .next (diagTimeout s seq)
      | _, _ => .next s

end Sys2Proof.Machine
end

