-- ==== Sys2Proof/Machine/Watchdog.lean ====
section
/-! DEFINITION. Watchdogs and the control cores' memories (R425, R428). -/

namespace Sys2Proof.Machine

/-- CONTROL_CORE_WATCHDOG: the second expiry is the one that comes 1 ms after the first; a core serviced since begins anew. -/
def execControlCoreWatchdog (core : Nat) (s : State) : Host.Outcome State Fault Refusal :=
  if !s.boot.powered then .next s
  else
    match kfind s.mgmt.coreTries core with
    | some t =>
      if s.clk.uptime ≤ t + 100000 then .next (logFatal s 0x0404 none (BitVec.ofNat 128 core))
      else .next (logErr { s with mgmt := { s.mgmt with coreTries := kput s.mgmt.coreTries core s.clk.uptime } } 0x0403 none (BitVec.ofNat 128 core))
    | none => .next (logErr { s with mgmt := { s.mgmt with coreTries := kput s.mgmt.coreTries core s.clk.uptime } } 0x0403 none (BitVec.ofNat 128 core))

/-- COMMAND_PROGRESS_WATCHDOG: a command of ring `r` has been eligible and unfetched for 100 ms. -/
def execCommandProgressWatchdog (r : RingId) (s : State) : Host.Outcome State Fault Refusal :=
  match ringOf s r with
  | some g => if eligible g then .next (logFatal s 0x0405 none (Config.errDetail 0x0405 [r.vector])) else .next s
  | none => .next s

/-- MANAGEMENT_CONTROLLER_WATCHDOG: it restarts alone. -/
def execManagementControllerWatchdog (s : State) : Host.Outcome State Fault Refusal :=
  if s.boot.powered ∧ !s.mgmt.restarting then .next (logErr { s with mgmt := { s.mgmt with restarting := true } } 0x0406 none 0) else .next s

/-- MANAGEMENT_CONTROLLER_RESTART: its endpoint is reachable again. -/
def execManagementControllerRestart (s : State) : Host.Outcome State Fault Refusal := .next { s with mgmt := { s.mgmt with restarting := false } }

/-- CONTROL_CORE_MEMORY_ERROR: `what` names the core or the address. -/
def execControlCoreMemoryError (what : Nat) (corrected : Bool) (s : State) : Host.Outcome State Fault Refusal :=
  if !s.boot.powered then .next s
  else if corrected then .next (logErr s 0x0401 none (BitVec.ofNat 128 what))
  else .next (logFatal s 0x0402 none (BitVec.ofNat 128 what))

end Sys2Proof.Machine
end

