-- ==== Sys2Proof/Machine/Dispatch.lean ====
section
/-! DEFINITION. The one dispatch of a command to its meaning. -/

namespace Sys2Proof.Machine

def exec (i : Instr) (s : State) : Host.Outcome State Fault Refusal :=
  match i with
  | .nop r => Sys2Proof.Machine.execNop r s
  | .ctxCreate r pages => Sys2Proof.Machine.execCtxCreate r pages s
  | .ctxDestroy r => Sys2Proof.Machine.execCtxDestroy r s
  | .ctxQuery r => Sys2Proof.Machine.execCtxQuery r s
  | .schedLoad r image => Sys2Proof.Machine.execSchedLoad r image s
  | .schedUnload r => Sys2Proof.Machine.execSchedUnload r s
  | .timetableSet r => Sys2Proof.Machine.execTimetableSet r s
  | .stepRun r => Sys2Proof.Machine.execStepRun r s
  | .stepKill r => Sys2Proof.Machine.execStepKill r s
  | .weightsLoad r head => Sys2Proof.Machine.execWeightsLoad r head s
  | .weightsSwap r => Sys2Proof.Machine.execWeightsSwap r s
  | .serviceStop r => Sys2Proof.Machine.execServiceStop r s
  | .serviceStart r => Sys2Proof.Machine.execServiceStart r s
  | .optConfig r => Sys2Proof.Machine.execOptConfig r s
  | .ckptStreamStart r => Sys2Proof.Machine.execCkptStreamStart r s
  | .ckptStreamStop r => Sys2Proof.Machine.execCkptStreamStop r s
  | .ckptRestore r fetched => Sys2Proof.Machine.execCkptRestore r fetched s
  | .fence r eccs => Sys2Proof.Machine.execFence r s eccs
  | .pageRetire r eccs fence => Sys2Proof.Machine.execPageRetire r eccs s fence
  | .powerCapSet r => Sys2Proof.Machine.execPowerCapSet r s
  | .energyRead r => Sys2Proof.Machine.execEnergyRead r s
  | .fabricConfig r => Sys2Proof.Machine.execFabricConfig r s
  | .groupSet r => Sys2Proof.Machine.execGroupSet r s
  | .attestReport r => Sys2Proof.Machine.execAttestReport r s
  | .diagRun r => Sys2Proof.Machine.execDiagRun r s
  | .commandFetch r entry param => Sys2Proof.Machine.execCommandFetch r entry param s
  | .commandTimeout r seq => Sys2Proof.Machine.execCommandTimeout r seq s
  | .dbCtx n size high v => Sys2Proof.Machine.execDbCtx n size high v s
  | .dbAdmin size high v => Sys2Proof.Machine.execDbAdmin size high v s
  | .coalUs r => Sys2Proof.Machine.execCoalUs r s
  | .msixRateWindow vec => Sys2Proof.Machine.execMsixRateWindow vec s
  | .msixTableWrite off size v => Sys2Proof.Machine.execMsixTableWrite off size v s
  | .rstControl size high v => Sys2Proof.Machine.execRstControl size high v s
  | .rstAdminInstall size high v => Sys2Proof.Machine.execRstAdminInstall size high v s
  | .errLogSelect size high v => Sys2Proof.Machine.execErrLogSelect size high v s
  | .errLogAck size high v => Sys2Proof.Machine.execErrLogAck size high v s
  | .w1cWrite off size v sets => Sys2Proof.Machine.execW1cWrite off size v sets s
  | .rcRegisterRead off size => Sys2Proof.Machine.execRcRegisterRead off size s
  | .lowHalfRead off size => Sys2Proof.Machine.execLowHalfRead off size s
  | .registerWrite off size v => Sys2Proof.Machine.execRegisterWrite off size v s
  | .malformedRegisterAccess off size read => Sys2Proof.Machine.execMalformedRegisterAccess off size read s
  | .mma st p stall dry => Sys2Proof.Machine.execMma st p stall dry s
  | .fill st p stall dry => Sys2Proof.Machine.execFill st p stall dry s
  | .drain st p stall dry => Sys2Proof.Machine.execDrain st p stall dry s
  | .bankWrite st p stall dry => Sys2Proof.Machine.execBankWrite st p stall dry s
  | .flagClear st p stall dry => Sys2Proof.Machine.execFlagClear st p stall dry s
  | .tileIn st p stall dry => Sys2Proof.Machine.execTileIn st p stall dry s
  | .tileOut st p stall dry => Sys2Proof.Machine.execTileOut st p stall dry s
  | .blocksIn st p stall dry => Sys2Proof.Machine.execBlocksIn st p stall dry s
  | .blocksOut st p stall dry => Sys2Proof.Machine.execBlocksOut st p stall dry s
  | .deckArrival st desc dest => Sys2Proof.Machine.execDeckArrival st desc dest s
  | .bearingReadReturn st desc eccs => Sys2Proof.Machine.execBearingReadReturn st desc eccs s
  | .add st sp stall => Sys2Proof.Machine.execAdd st sp stall s
  | .sub st sp stall => Sys2Proof.Machine.execSub st sp stall s
  | .mul st sp stall => Sys2Proof.Machine.execMul st sp stall s
  | .fma st sp stall => Sys2Proof.Machine.execFma st sp stall s
  | .min st sp stall => Sys2Proof.Machine.execMin st sp stall s
  | .max st sp stall => Sys2Proof.Machine.execMax st sp stall s
  | .cmp st sp stall => Sys2Proof.Machine.execCmp st sp stall s
  | .abs st sp stall => Sys2Proof.Machine.execAbs st sp stall s
  | .neg st sp stall => Sys2Proof.Machine.execNeg st sp stall s
  | .cvt st sp stall => Sys2Proof.Machine.execCvt st sp stall s
  | .scale st sp stall => Sys2Proof.Machine.execScale st sp stall s
  | .select st sp stall => Sys2Proof.Machine.execSelect st sp stall s
  | .div st sp stall => Sys2Proof.Machine.execDiv st sp stall s
  | .sqrt st sp stall => Sys2Proof.Machine.execSqrt st sp stall s
  | .recip st sp stall => Sys2Proof.Machine.execRecip st sp stall s
  | .rsqrt st sp stall => Sys2Proof.Machine.execRsqrt st sp stall s
  | .rowSum st sp stall => Sys2Proof.Machine.execRowSum st sp stall s
  | .rowMax st sp stall => Sys2Proof.Machine.execRowMax st sp stall s
  | .rowSumsq st sp stall => Sys2Proof.Machine.execRowSumsq st sp stall s
  | .partAdd st sp stall => Sys2Proof.Machine.execPartAdd st sp stall s
  | .pos st sp stall => Sys2Proof.Machine.execPos st sp stall s
  | .transpose st sp stall => Sys2Proof.Machine.execTranspose st sp stall s
  | .vectorFlagClear st sp stall => Sys2Proof.Machine.execVectorFlagClear st sp stall s
  | .eval st sp stall => Sys2Proof.Machine.execEval st sp stall s
  | .derivMul st sp stall => Sys2Proof.Machine.execDerivMul st sp stall s
  | .tableFlagClear st sp stall => Sys2Proof.Machine.execTableFlagClear st sp stall s
  | .accept st b stall => Sys2Proof.Machine.execAccept st b stall s
  | .update st b stall eccs => Sys2Proof.Machine.execUpdate st b stall eccs s
  | .updateList st b stall eccs => Sys2Proof.Machine.execUpdateList st b stall eccs s
  | .keystoneFlagClear st b stall => Sys2Proof.Machine.execKeystoneFlagClear st b stall s
  | .send st q stall => Sys2Proof.Machine.execSend st q stall s
  | .recv st q stall => Sys2Proof.Machine.execRecv st q stall s
  | .redSend st q stall => Sys2Proof.Machine.execRedSend st q stall s
  | .redRecv st q stall => Sys2Proof.Machine.execRedRecv st q stall s
  | .splitSend st q stall => Sys2Proof.Machine.execSplitSend st q stall s
  | .splitRecv st q stall => Sys2Proof.Machine.execSplitRecv st q stall s
  | .norm st q stall => Sys2Proof.Machine.execNorm st q stall s
  | .acc st q stall => Sys2Proof.Machine.execAcc st q stall s
  | .routing st sp cycle ri win => Sys2Proof.Machine.execRouting st sp cycle ri win s
  | .combine st sp cycle ri win dst => Sys2Proof.Machine.execCombine st sp cycle ri win dst s
  | .combineBwd st sp bi win => Sys2Proof.Machine.execCombineBwd st sp bi win s
  | .dispatchBwd st sp bi => Sys2Proof.Machine.execDispatchBwd st sp bi s
  | .blockListBuild st sp cycle src dst stall => Sys2Proof.Machine.execBlockListBuild st sp cycle src dst stall s
  | .sparseEmbeddingList st sp cycle ids src dst stall => Sys2Proof.Machine.execSparseEmbeddingList st sp cycle ids src dst stall s
  | .prefetch st desc => Sys2Proof.Machine.execPrefetch st desc s
  | .slotStart k => Sys2Proof.Machine.execSlotStart k s
  | .slotEnd k => Sys2Proof.Machine.execSlotEnd k s
  | .periodBoundary => Sys2Proof.Machine.execPeriodBoundary s
  | .bestEffortAdmission => Sys2Proof.Machine.execBestEffortAdmission s
  | .bubble st bub n => Sys2Proof.Machine.execBubble st bub n s
  | .preambleStart st => Sys2Proof.Machine.execPreambleStart st s
  | .preambleEnd st => Sys2Proof.Machine.execPreambleEnd st s
  | .phase st u m energies => Sys2Proof.Machine.execPhase st u m energies s
  | .wait st w => Sys2Proof.Machine.execWait st w s
  | .finalSlackExceeded st u => Sys2Proof.Machine.execFinalSlackExceeded st u s
  | .commitPoint st energies => Sys2Proof.Machine.execCommitPoint st energies s
  | .releaseComplete st bad badDelta => Sys2Proof.Machine.execReleaseComplete st bad badDelta s
  | .pointerSwitch n => Sys2Proof.Machine.execPointerSwitch n s
  | .retirementCopy b g eccs fence => Sys2Proof.Machine.execRetirementCopy b g eccs s fence
  | .ckptBaseSend n slow => Sys2Proof.Machine.execCkptBaseSend n slow s
  | .unitScrub n u => Sys2Proof.Machine.execUnitScrub n u s
  | .ethernetFrameReceive q phy frame => Sys2Proof.Machine.execEthernetFrameReceive q phy frame s
  | .pfcFrame q frame => Sys2Proof.Machine.execPfcFrame q frame s
  | .pauseFrame q frame => Sys2Proof.Machine.execPauseFrame q frame s
  | .arpRequest q frame => Sys2Proof.Machine.execArpRequest q frame s
  | .neighbourSolicitation q frame => Sys2Proof.Machine.execNeighbourSolicitation q frame s
  | .verifyFrame q respond => Sys2Proof.Machine.execVerifyFrame q respond s
  | .pfcRepeat q prio => Sys2Proof.Machine.execPfcRepeat q prio s
  | .pauseExpiry q prio => Sys2Proof.Machine.execPauseExpiry q prio s
  | .pauseStorm q prio => Sys2Proof.Machine.execPauseStorm q prio s
  | .pauseIgnoreEnd q prio => Sys2Proof.Machine.execPauseIgnoreEnd q prio s
  | .frameTransmit q => Sys2Proof.Machine.execFrameTransmit q s
  | .portLinkUp q inverted => Sys2Proof.Machine.execPortLinkUp q s inverted
  | .portLinkDown q => Sys2Proof.Machine.execPortLinkDown q s
  | .portTrainingTimeout q => Sys2Proof.Machine.execPortTrainingTimeout q s
  | .verifyDone q ok => Sys2Proof.Machine.execVerifyDone q ok s
  | .write => Sys2Proof.Machine.execWrite s
  | .reduce => Sys2Proof.Machine.execReduce s
  | .bcast children => Sys2Proof.Machine.execBcast children s
  | .split => Sys2Proof.Machine.execSplit s
  | .delta => Sys2Proof.Machine.execDelta s
  | .ack => Sys2Proof.Machine.execAck s
  | .nak => Sys2Proof.Machine.execNak s
  | .voteRepeat => Sys2Proof.Machine.execVoteRepeat s
  | .voteFail => Sys2Proof.Machine.execVoteFail s
  | .voteReceive => Sys2Proof.Machine.execVoteReceive s
  | .decideCommit => Sys2Proof.Machine.execDecideCommit s
  | .decideRepeat => Sys2Proof.Machine.execDecideRepeat s
  | .decideEnd => Sys2Proof.Machine.execDecideEnd s
  | .collectiveDeadline n step => Sys2Proof.Machine.execCollectiveDeadline n step s
  | .decisionHoldTimeout st => Sys2Proof.Machine.execDecisionHoldTimeout st s
  | .retransmissionTimer flow seq => Sys2Proof.Machine.execRetransmissionTimer flow seq s
  | .ackTimer flow => Sys2Proof.Machine.execAckTimer flow s
  | .streamTimeout n => Sys2Proof.Machine.execStreamTimeout n s
  | .writeCombiningIdleFlush b line ecc => Sys2Proof.Machine.execWriteCombiningIdleFlush b line ecc s
  | .correctedRewrite b line => Sys2Proof.Machine.execCorrectedRewrite b line s
  | .refresh b => Sys2Proof.Machine.execRefresh b s
  | .patrolScrub b line ecc twin => Sys2Proof.Machine.execPatrolScrub b line ecc twin s
  | .dramSensorRead b temps => Sys2Proof.Machine.execDramSensorRead b temps s
  | .parityRetry pa src ok => Sys2Proof.Machine.execParityRetry pa src ok s
  | .channelNoResponse pa src => Sys2Proof.Machine.execChannelNoResponse pa src s
  | .hostWriteGo id => Sys2Proof.Machine.execHostWriteGo id s
  | .hostReadCompletion id d => Sys2Proof.Machine.execHostReadCompletion id d s
  | .hostReadTimeout id => Sys2Proof.Machine.execHostReadTimeout id s
  | .goTimeout id => Sys2Proof.Machine.execGoTimeout id s
  | .hostSnoop addr => Sys2Proof.Machine.execHostSnoop addr s
  | .cxlMemRequest addr => Sys2Proof.Machine.execCxlMemRequest addr s
  | .cxlLinkUp rate width => Sys2Proof.Machine.execCxlLinkUp rate width s
  | .cxlLinkRetrain rate width => Sys2Proof.Machine.execCxlLinkRetrain rate width s
  | .hostLinkDown => Sys2Proof.Machine.execHostLinkDown s
  | .hostLinkDown10s => Sys2Proof.Machine.execHostLinkDown10s s
  | .powerGood => Sys2Proof.Machine.execPowerGood s
  | .powerLost => Sys2Proof.Machine.execPowerLost s
  | .inputOvervoltage => Sys2Proof.Machine.execInputOvervoltage s
  | .perstNAssert => Sys2Proof.Machine.execPerstNAssert s
  | .perstNDeassert => Sys2Proof.Machine.execPerstNDeassert s
  | .flr => Sys2Proof.Machine.execFlr s
  | .linkReset => Sys2Proof.Machine.execLinkReset s
  | .managementReset => Sys2Proof.Machine.execManagementReset s
  | .rom => Sys2Proof.Machine.execRom s
  | .loader => Sys2Proof.Machine.execLoader s
  | .firmware => Sys2Proof.Machine.execFirmware s
  | .records => Sys2Proof.Machine.execRecords s
  | .interlock => Sys2Proof.Machine.execInterlock s
  | .interlockWarning => Sys2Proof.Machine.execInterlockWarning s
  | .rails => Sys2Proof.Machine.execRails s
  | .stackTrain failed => Sys2Proof.Machine.execStackTrain failed s
  | .memInit => Sys2Proof.Machine.execMemInit s
  | .selfTest ok => Sys2Proof.Machine.execSelfTest ok s
  | .identity ok => Sys2Proof.Machine.execIdentity ok s
  | .ready => Sys2Proof.Machine.execReady s
  | .controlCoreWatchdog core => Sys2Proof.Machine.execControlCoreWatchdog core s
  | .commandProgressWatchdog r => Sys2Proof.Machine.execCommandProgressWatchdog r s
  | .managementControllerWatchdog => Sys2Proof.Machine.execManagementControllerWatchdog s
  | .powerMeasurement mw => Sys2Proof.Machine.execPowerMeasurement mw s
  | .fall sp avg => Sys2Proof.Machine.execFall sp avg s
  | .capDecision pfix meas walk => Sys2Proof.Machine.execCapDecision pfix meas walk s
  | .logicSensorRead temps => Sys2Proof.Machine.execLogicSensorRead temps s
  | .coolantSensorRead inlet outlet flow => Sys2Proof.Machine.execCoolantSensorRead inlet outlet flow s
  | .thermalCapUpdate => Sys2Proof.Machine.execThermalCapUpdate s
  | .flowTrip => Sys2Proof.Machine.execFlowTrip s
  | .powerStageFault stage fatal => Sys2Proof.Machine.execPowerStageFault stage fatal s
  | .droop d => Sys2Proof.Machine.execDroop d s
  | .droopHoldEnd => Sys2Proof.Machine.execDroopHoldEnd s
  | .recoveryExit => Sys2Proof.Machine.execRecoveryExit s
  | .i3cAddressAssignment addr => Sys2Proof.Machine.execI3cAddressAssignment addr s
  | .mctpControlMessage msg => Sys2Proof.Machine.execMctpControlMessage msg s
  | .pldmBase msg => Sys2Proof.Machine.execPldmBase msg s
  | .pldmSensorReading id => Sys2Proof.Machine.execPldmSensorReading id s
  | .pldmFirmwareUpdate cls image => Sys2Proof.Machine.execPldmFirmwareUpdate cls image s
  | .activateFirmware => Sys2Proof.Machine.execActivateFirmware s
  | .errorUnsupportedCmd typ => Sys2Proof.Machine.execErrorUnsupportedCmd typ s
  | .storeReadCompletion n blk good => Sys2Proof.Machine.execStoreReadCompletion n blk good s
  | .storeWriteCompletion k => Sys2Proof.Machine.execStoreWriteCompletion k s
  | .rebaseComplete n => Sys2Proof.Machine.execRebaseComplete n s
  | .managementControllerRestart => Sys2Proof.Machine.execManagementControllerRestart s
  | .diagTestComplete failed => Sys2Proof.Machine.execDiagTestComplete failed s
  | .commandWorkAccess r seq host => Sys2Proof.Machine.execCommandWorkAccess r seq s host
  | .cxlCorrectableError aer => Sys2Proof.Machine.execCxlCorrectableError aer s
  | .controlCoreMemoryError what corrected => Sys2Proof.Machine.execControlCoreMemoryError what corrected s

end Sys2Proof.Machine
end

