-- ==== Sys2Proof/Safety.lean ====
section
/-! DEFINITION. What counts as a safe run, in the terms the statements use: a command that completes, the
canonical form of the module's sparse memory, and the vocabulary of the statements: whose turn it is in a
step, what issuing an instruction does to its unit, and which parts of the state an effect leaves alone. -/

namespace Sys2Proof.Safety

open Sys2Proof.Machine

/-- Command `c` completes in state `s`: it answers a next state, neither a fault nor a refusal. -/
def Completes (c : Instr) (s : State) : Prop := ∃ t, exec c s = .next t

/-- The stacked memory of a state is in its canonical form: addresses strictly rising, no byte listed
that equals what an unlisted address reads as (R373, R419). -/
def MemoryCanonical (s : State) : Prop := Memory.wf s.sm.mem.base = true

/-- The unit under `key` has `ins` next in running step `st`, is past every PHASE entry before it and every wait point before
it is decided (R55, R136, R158, R161): `x` is the step, `c` its context, `img` its image, `u` the unit at its place in its list,
which `listOf` picks. -/
structure Turn {α : Type} (s : State) (st key : Nat) (listOf : Image → List α) (cycleOf : α → Nat)
    (x : Step) (img : Image) (c : Ctx) (u : UnitSt) (ins : α) : Prop where
  step : stepOf s st = some x
  running : x.state = .running
  ctx : ctxOf s x.ctx = some c
  image : kfind c.images x.slot = some img
  unit : u = (x.unit key).located img x ((listOf img).map cycleOf)
  next : (listOf img)[u.next]? = some ins
  phase : phasesDue img (cycleOf ins) ≤ u.phase
  waits : u.resume.isSome = true ∨ waitsDone img x (cycleOf ins) = true

/-- A pier's turn. -/
abbrev PierTurn (s : State) (st p : Nat) (x : Step) (img : Image) (c : Ctx) (u : UnitSt) (ins : PierIns) : Prop :=
  Turn s st p (fun img => kget [] img.piers p) (·.cycle) x img c u ins

/-- A vector station's turn. -/
abbrev VectorTurn (s : State) (st sp : Nat) (x : Step) (img : Image) (c : Ctx) (u : UnitSt) (ins : VecIns) : Prop :=
  Turn s st (2000 + sp) (fun img => kget [] img.vectors sp) (·.cycle) x img c u ins

/-- A table station's turn. -/
abbrev TableTurn (s : State) (st sp : Nat) (x : Step) (img : Image) (c : Ctx) (u : UnitSt) (ins : VecIns) : Prop :=
  Turn s st (2100 + sp) (fun img => kget [] img.tables sp) (·.cycle) x img c u ins

/-- A keystone's turn. -/
abbrev KeystoneTurn (s : State) (st b : Nat) (x : Step) (img : Image) (c : Ctx) (u : UnitSt) (ins : KeyIns) : Prop :=
  Turn s st (2300 + b) (fun img => kget [] img.keystones b) (·.cycle) x img c u ins

/-- A fabric abutment's turn. -/
abbrev FabricTurn (s : State) (st q : Nat) (x : Step) (img : Image) (c : Ctx) (u : UnitSt) (ins : FabIns) : Prop :=
  Turn s st (2400 + q) (fun img => kget [] img.fabrics q) (·.cycle) x img c u ins

/-- An issue in cycle `cyc` with `stall` cycles of slip begins no phase beyond its slack (R158). -/
def OnTime (img : Image) (x : Step) (u : UnitSt) (cyc stall : Nat) : Prop := latePhase img x u cyc stall = none

/-- From `s` to `t` the unit under `key` issued one instruction of step `st`, which was `x` and is `y`, from its place `u`: its
list advances by one, its slip by `stall`, its entrance cycles by `dry` (R75, R76, R145); the other units of the
step and the other steps are as they were. -/
def Issued (s t : State) (st key stall dry : Nat) (x : Step) (u : UnitSt) (y : Step) : Prop :=
  stepOf t st = some y ∧
  (y.unit key).next = u.next + 1 ∧
  (y.unit key).slip = satAdd max32 u.slip stall ∧
  (y.unit key).entrance = satAdd max32 u.entrance dry ∧
  (∀ k, k ≠ key → y.unit k = x.unit k) ∧
  (∀ i, i ≠ st → stepOf t i = stepOf s i)

/-- From `s` to `t` the unit under `key` waited at its next instruction: only its slip and its entrance cycles
advanced (R75, R134, R145). -/
def Waited (s t : State) (st key stall dry : Nat) (x : Step) (u : UnitSt) (y : Step) : Prop :=
  stepOf t st = some y ∧
  y.unit key = { u with slip := satAdd max32 u.slip stall
                        entrance := satAdd max32 u.entrance dry } ∧
  (∀ k, k ≠ key → y.unit k = x.unit k) ∧
  (∀ i, i ≠ st → stepOf t i = stepOf s i)

/-- Nothing but the steps changed. -/
def OnlySteps (s t : State) : Prop := t = { s with steps := t.steps }

/-- Nothing but the memories of the dies and the steps changed. -/
def OnlyDies (s t : State) : Prop := t = { s with pm := t.pm, steps := t.steps }

/-- The blocks a station writes for tiles 0 to `tiles` − 1 of DST: the present blocks of each tile in block
order, element (i, j) of tile `n` holding `val n i j` (R119, R120). -/
def tileBytes (img : Image) (d : Desc) (val : Nat → Nat → Nat → Nat) : List Bytes :=
  (List.range d.tiles).flatMap fun n => (presentIdx img d).map fun b =>
    blockOf d.fmt ((List.range 64).map fun e => val n (8 * (b / (d.cols / 8)) + e / 8) (8 * (b % (d.cols / 8)) + e % 8))

/-- A station of span `sp` sent the tiles of stream `dst` with the elements `val`, and changed nothing but that
stream and, for a stream of SPACE 01b of its span, the lines of the local store that the stream occupies
(R135, R136). -/
def StationWrote (s t : State) (img : Image) (sp dst : Nat) (d : Desc) (cyc : Nat) (x y : Step)
    (val : Nat → Nat → Nat → Nat) : Prop :=
  (∃ more : List StreamBlock, (y.stream dst).blocks = (x.stream dst).blocks ++ more ∧
    more.map (·.bytes) = tileBytes img d val ∧ ∀ b ∈ more, b.cycle = cyc) ∧
  (∀ k, k ≠ dst → y.stream k = x.stream k) ∧
  OnlyDies s t ∧
  t.pm = { s.pm with loc := t.pm.loc } ∧
  (¬ (d.space = 1 ∧ d.span = sp) → t.pm.loc = s.pm.loc) ∧
  (∀ st' cyc' a, (∀ n < d.tiles, ∀ b ∈ presentIdx img d,
      ¬ (locBase sp + tileAddr d n + blockOff img d b ≤ a ∧ a < locBase sp + tileAddr d n + blockOff img d b + d.blockBytes)) →
    vread 0 t.pm.loc st' cyc' a = vread 0 s.pm.loc st' cyc' a)

/-- The first occurrence of an error code for a context enters the log in an empty slot, with its details and the time
(R427). -/
def Logged (s t : State) (code : Nat) (ctx : Option Nat) (detail : BitVec 128) : Prop :=
  (histOf s.err code ctx).lastTime = none → s.err.slots.length < 1024 →
    ∃ i y, kfind s.err.slots i = none ∧ kfind t.err.slots i = some y ∧ y.code = code ∧ y.ctx = ctx ∧ y.detail = detail ∧
      y.time = s.clk.uptime ∧ y.prior = false ∧ t.err.newest = i ∧ t.err.written = satAdd max64 s.err.written 1

/-- Vector 257, 258 or 259 was raised: its message has gone out or is pending, or, within the microsecond of the one before, is
owed (R337, R446). -/
def VectorRaised (s t : State) (vec : Nat) : Prop :=
  if vec ∈ s.msix.window then vec ∈ t.msix.owed
  else if (vecEntry s vec).control.getLsbD 0 then vec ∈ t.msix.pend
  else vec ∈ t.msix.window ∧ Output.msix vec (vecEntry s vec).addr (vecEntry s vec).data ∈ t.out

/-- Nothing but the error log, the interrupts and what leaves the module changed. -/
def OnlyLog (s t : State) : Prop := t = { s with err := t.err, msix := t.msix, out := t.out }

/-- Ring `r` holds command `c` of opcode `op`, which has begun and is not accepted, and no other command of its fetch
number (R334, R356). -/
def Current (s : State) (r : RingId) (op : Nat) (c : Cmd) : Prop :=
  curCmd s r op = some c ∧ ((ringOf s r).bind fun g => g.cmd c.seq) = some c ∧
  (ringOf s r).map (fun g => g.cmds.filter fun k => decide (k.seq = c.seq)) = some [c]

/-- The command `c` of ring `r` is answered with `y`: its status entry is on its way to the ring, or the reply is held
until the writes that it awaits are observed: those of its context under CFENCE and for FENCE, slow-tier masters for the commands that write them (R317, R335, R345, R346, R353). -/
def Replied (s t : State) (r : RingId) (c : Cmd) (y : Reply) : Prop :=
  ∃ g', ringOf t r = some g' ∧
    ((g'.cmd c.seq = none ∧ ∃ w ∈ t.host.writes, s.host.nextId ≤ w.id ∧ w.path = .status ∧ w.ring = some r ∧ w.bytes = replyBytes y) ∨
     ((c.cfence = true ∨ c.opcode ∈ [0x0050, 0x0051, 0x0072, 0x0080]) ∧ ∃ c', g'.cmd c.seq = some c' ∧ c'.held = some y))

/-- The command `c` of ring `r` ended with `status` and `result`. -/
def Ended (s t : State) (r : RingId) (c : Cmd) (status result : Nat) : Prop :=
  ∃ y : Reply, y.status = status ∧ y.result = result ∧ y.opcode = c.opcode ∧ y.seq = c.seqNo ∧ Replied s t r c y

/-- The bytes `b` of a result stand in writes issued since `s`, line by line: the line at offset `o` goes to `loc o` (R352, R326). -/
def ResultWritten (s t : State) (loc : Nat → Option Nat) (b : Bytes) : Prop :=
  ∀ i pa, 64 * i < b.length → loc (64 * i) = some pa →
    ∃ w ∈ t.host.writes, s.host.nextId ≤ w.id ∧ w.path = .result ∧ w.addr = pa ∧ w.bytes = (b.drop (64 * i)).take 64

end Sys2Proof.Safety
end

