-- ==== Sys2Proof/Certificates/Slice0/Obligations.lean ====
section
/-! DEFINITION. The statements about the block: the queue, every family of commands and every kind of state. -/

open Sys2Proof Sys2Proof.Machine Sys2Proof.Safety

/-! ### The queue and the tick -/

/-- One step takes the command at the front of the queue and runs it on the state with the queue's rest. -/
def Obligations.StepRunsFrontCommand : Prop :=
  ∀ (c : Instr) (rest : List Instr) (s : State), step { s with pending := c :: rest } = exec c { s with pending := rest }

/-- On an empty queue a powered block lets one 10 ns tick of the timebase pass and changes nothing else (R18; that
an empty queue ticks is the model's choice, log entry 1). The arithmetic cycles advance by 7,500 / S on average. -/
def Obligations.EmptyQueueTicksTimebase : Prop :=
  ∀ s : State, s.pending = [] → s.boot.powered = true → 0 < s.power.stretch →
    ∃ t, step s = .next t ∧ t = { s with clk := t.clk } ∧
      t.clk.uptime = min max64 (s.clk.uptime + 1) ∧
      t.clk.cycles * s.power.stretch + t.clk.acc = s.clk.cycles * s.power.stretch + s.clk.acc + 7500 ∧
      t.clk.acc < s.power.stretch

/-- Every command completes in every state: none stops the block with a fault or a refusal. -/
def Obligations.EveryCommandCompletes : Prop := ∀ (c : Instr) (s : State), Completes c s

/-- Every step of the block keeps stacked memory in its canonical form. -/
def Obligations.StepKeepsMemoryCanonical : Prop :=
  ∀ s t : State, MemoryCanonical s → step s = .next t → MemoryCanonical t

/-! ### Piers -/


/-- Element (r, c) of a bank after the first `n` k-steps of an MMA of nominal cycle `cyc`, and whether a product has reached it:
k-steps in ascending order, one per nominal cycle, a k-step of a marked A or B slot left out, the first product of an overwrite
taken as it is (R52, R56, R61, R63, R134). -/
def mmaElem (s : State) (st a bank : Nat) (acc : Bool) (fa fb : Fmt) (ta tb : Bool) (aSlot bSlot cyc r c : Nat) :
    Nat → BitVec 32 × Bool
  | 0 => (vread 0 s.pm.bank st cyc (bankKey a bank r c), false)
  | n + 1 =>
    let p := mmaElem s st a bank acc fa fb ta tb aSlot bSlot cyc r c n
    if slotMark s st a false fa (aSlot + n / 8) (cyc + n) ≠ 0 ∨ slotMark s st a true fb (bSlot + n / 8) (cyc + n) ≠ 0 then p
    else
      ((mac p.1 (entrance s st a false fa (aSlot + n / 8) (cyc + n) (n % 8) (!ta) r)
        (entrance s st a true fb (bSlot + n / 8) (cyc + n) (n % 8) tb c) (!acc && !p.2)).1, true)

/-- On a pier with nothing under way, an MMA whose operands are valid for every k-step adds the products of its k-steps to each
element of the bank in ascending k order in every selected array, an overwrite with no product leaves +0.0, and every other bank is
as it was. Where no selected array finds its first operands valid, the k-steps wait: no memory changes. -/
def Obligations.MmaAddsProductsInOrder : Prop :=
  ∀ (s : State) (st p stall dry : Nat) (x : Step) (img : Image) (c : Ctx) (u : UnitSt) (ins : PierIns)
    (bank : Nat) (acc : Bool) (fa fb : Fmt) (ta tb : Bool) (aSlot bSlot kb : Nat),
    PierTurn s st p x img c u ins → ins.op = .mma bank acc fa fb ta tb aSlot bSlot kb → 0 < kb →
    OnTime img x u ins.cycle stall → u.mmas = [] → u.fills = [] →
    ((∀ cy, nextCycle img (x.setUnit p (u.issued stall dry)) p = some cy → ins.cycle + 8 * kb ≤ cy + 1) →
      (∀ i ∈ maskArrays ins.mask, ∀ n < 8 * kb,
        lanesReady s st (arrayNo p i) false fa (aSlot + n / 8) (ins.cycle + n) (n % 8) (!ta) img.zeroSkip = true ∧
        lanesReady s st (arrayNo p i) true fb (bSlot + n / 8) (ins.cycle + n) (n % 8) tb img.zeroSkip = true) →
      ∃ t y, exec (.mma st p stall dry) s = .next t ∧ Issued s t st p stall dry x u y ∧ OnlyDies s t ∧ (y.unit p).mmas = [] ∧
        t.pm = { s.pm with bank := t.pm.bank, chain := t.pm.chain } ∧
        (∀ i ∈ maskArrays ins.mask, ∀ r < 8, ∀ e < 8,
          vread 0 t.pm.bank st (ins.cycle + 8 * kb) (bankKey (arrayNo p i) bank r e) =
            (let m := mmaElem s st (arrayNo p i) bank acc fa fb ta tb aSlot bSlot ins.cycle r e (8 * kb)
             if !acc && !m.2 then 0 else m.1)) ∧
        (∀ st' cyc' k, (∀ i ∈ maskArrays ins.mask, ¬ (bankKey (arrayNo p i) bank 0 0 ≤ k ∧ k < bankKey (arrayNo p i) bank 0 0 + 64)) →
          vread 0 t.pm.bank st' cyc' k = vread 0 s.pm.bank st' cyc' k)) ∧
    ((∀ i ∈ maskArrays ins.mask,
        lanesReady s st (arrayNo p i) false fa aSlot ins.cycle 0 (!ta) img.zeroSkip = false ∨
        lanesReady s st (arrayNo p i) true fb bSlot ins.cycle 0 tb img.zeroSkip = false) →
      ∃ t y, exec (.mma st p stall dry) s = .next t ∧ Issued s t st p stall dry x u y ∧ OnlySteps s t ∧
        (y.unit p).mmas.map (·.array) = maskArrays ins.mask ∧ ∀ m ∈ (y.unit p).mmas, m.fired = 0)

/-- FILL moves the block at its lines of the tile store into the slot of every selected array line by line: the rows of a line that
has landed are valid and hold its bytes, those of one still on its way are invalid; with the last line the slot takes its
skipped-block mark. No other feeder byte changes.
BANK_WRITE writes the FP32 block of rank `r`, four lines from ADDR + 4r on, into the bank of the selected array of
that rank, and begins a chain there (its k index is 0). -/
def Obligations.FillAndBankWriteDeliverLines : Prop :=
  (∀ (s : State) (st p stall dry : Nat) (x : Step) (img : Image) (c : Ctx) (u : UnitSt) (ins : PierIns)
    (sideB : Bool) (f : Fmt) (slot addr : Nat),
    PierTurn s st p x img c u ins → ins.op = .fill sideB f slot addr →
    OnTime img x u ins.cycle stall → u.overLag ins.cycle = false → u.fills = [] →
    ∃ t y, exec (.fill st p stall dry) s = .next t ∧ Issued s t st p stall dry x u y ∧ OnlyDies s t ∧
      t.pm.tile = s.pm.tile ∧ t.pm.zero = s.pm.zero ∧ t.pm.loc = s.pm.loc ∧
      (u.mmas = [] → t.pm.bank = s.pm.bank ∧ t.pm.chain = s.pm.chain) ∧
      (∀ l < blockLines f, awaitsLine img x p (addr + l) ins.cycle = false →
        ∀ i ∈ maskArrays ins.mask,
          (∀ b < 64, vread 0 t.pm.feeder st (ins.cycle + 1) (slotKey (arrayNo p i) sideB f slot + 64 * l + b) =
            vread 0 s.pm.tile st ins.cycle (lineKey p (residentLine img c p (addr + l)) + b)) ∧
          (∀ r < 8 / blockLines f,
            vread false t.pm.valid st (ins.cycle + 1) (8 * markKey (arrayNo p i) sideB f slot + 8 / blockLines f * l + r) = true)) ∧
      (∀ l < blockLines f, awaitsLine img x p (addr + l) ins.cycle = true →
        ∀ i ∈ maskArrays ins.mask, ∀ r < 8 / blockLines f,
          vread false t.pm.valid st (ins.cycle + 1) (8 * markKey (arrayNo p i) sideB f slot + 8 / blockLines f * l + r) = false) ∧
      ((∀ l < blockLines f, awaitsLine img x p (addr + l) ins.cycle = false) →
        ∀ i ∈ maskArrays ins.mask, slotMark t st (arrayNo p i) sideB f slot (ins.cycle + 1) =
          fillMark s img c st p ins.cycle addr (blockLines f)) ∧
      (∀ st' cyc' k, (∀ i ∈ maskArrays ins.mask, ¬ (slotKey (arrayNo p i) sideB f slot ≤ k ∧ k < slotKey (arrayNo p i) sideB f slot + 64 * f.size)) →
        vread 0 t.pm.feeder st' cyc' k = vread 0 s.pm.feeder st' cyc' k)) ∧
  (∀ (s : State) (st p stall dry : Nat) (x : Step) (img : Image) (c : Ctx) (u : UnitSt) (ins : PierIns) (bank addr : Nat),
    PierTurn s st p x img c u ins → ins.op = .bankWrite bank addr →
    (∀ l < 4 * (maskArrays ins.mask).length, awaitsLine img x p (addr + l) ins.cycle = false) →
    OnTime img x u ins.cycle stall → u.mmas = [] → u.fills = [] →
    ∃ t y, exec (.bankWrite st p stall dry) s = .next t ∧ Issued s t st p stall dry x u y ∧ OnlyDies s t ∧
      t.pm = { s.pm with bank := t.pm.bank, chain := t.pm.chain } ∧
      (∀ r < (maskArrays ins.mask).length, ∀ e < 64,
        let a := arrayNo p ((maskArrays ins.mask).getD r 0)
        vread 0 t.pm.bank st (ins.cycle + 1) (bankKey a bank 0 0 + e) =
          BitVec.ofNat 32 (leNat ((List.range 4).map fun b =>
            vread 0 s.pm.tile st ins.cycle (lineKey p (residentLine img c p (addr + 4 * r + e / 16)) + (4 * e + b) % 64))) ∧
        vread 0 t.pm.chain st (ins.cycle + 1) (4 * a + bank) = 0) ∧
      (∀ st' cyc' k, (∀ i ∈ maskArrays ins.mask, ¬ (bankKey (arrayNo p i) bank 0 0 ≤ k ∧ k < bankKey (arrayNo p i) bank 0 0 + 64)) →
        vread 0 t.pm.bank st' cyc' k = vread 0 s.pm.bank st' cyc' k))

/-- The bytes a DRAIN makes of a bank: its 64 elements in format `f`, FP32 bits unchanged, others converted with
one rounding (R69). -/
def drainedBlock (s : State) (st a bank cyc : Nat) (f : Fmt) : Bytes :=
  blockOf f ((List.range 64).map fun e =>
    let v := (vread 0 s.pm.bank st cyc (bankKey a bank 0 0 + e)).toNat
    if f = .fp32 then v else (fconv .fp32 f v).1)

/-- DRAIN to the array's own feeder writes the drained block into the slot of every selected array, and clears its
skipped-block mark; DRAIN to the tile store writes the block of the array of rank `r` to the lines from
ADDR + r × (lines of a block) on, where no later line of the same DRAIN is kept in the same place. The bank keeps
its value. While an add into the bank has still to complete, the pier waits at the DRAIN. -/
def Obligations.DrainWritesTheBank : Prop :=
  ∀ (s : State) (st p stall dry : Nat) (x : Step) (img : Image) (c : Ctx) (u : UnitSt) (ins : PierIns)
    (bank : Nat) (toFeeder : Bool) (f : Fmt) (sideB : Bool) (addr : Nat),
    PierTurn s st p x img c u ins → ins.op = .drain bank toFeeder f sideB addr →
    (u.addsOpen ins.cycle ins.mask bank = true →
      ∃ t y, exec (.drain st p stall dry) s = .next t ∧ Waited s t st p stall dry x u y ∧ OnlySteps s t) ∧
    (u.addsOpen ins.cycle ins.mask bank = false → OnTime img x u ins.cycle stall → u.overLag ins.cycle = false → u.fills = [] →
    ∃ t y, exec (.drain st p stall dry) s = .next t ∧ Issued s t st p stall dry x u y ∧ OnlyDies s t ∧
      (u.mmas = [] → t.pm.bank = s.pm.bank ∧ t.pm.chain = s.pm.chain) ∧ t.pm.loc = s.pm.loc ∧
      (if toFeeder then
        t.pm.tile = s.pm.tile ∧ t.pm.zero = s.pm.zero ∧
        ∀ i ∈ maskArrays ins.mask,
          (∀ b < 64 * f.size, vread 0 t.pm.feeder st (ins.cycle + 1) (slotKey (arrayNo p i) sideB f addr + b) =
            (drainedBlock s st (arrayNo p i) bank ins.cycle f).getD b 0) ∧
          slotMark t st (arrayNo p i) sideB f addr (ins.cycle + 1) = 0
       else
        t.pm.feeder = s.pm.feeder ∧ t.pm.skip = s.pm.skip ∧ t.pm.valid = s.pm.valid ∧
        (∀ r < (maskArrays ins.mask).length, ∀ l < f.size,
          (∀ m, r * f.size + l < m → m < (maskArrays ins.mask).length * f.size →
            residentLine img c p (addr + m) ≠ residentLine img c p (addr + (r * f.size + l))) →
          ∀ b < 64, vread 0 t.pm.tile st (ins.cycle + 1) (lineKey p (residentLine img c p (addr + (r * f.size + l))) + b) =
            (drainedBlock s st (arrayNo p ((maskArrays ins.mask).getD r 0)) bank ins.cycle f).getD (64 * l + b) 0) ∧
        (∀ st' cyc' k, (∀ m < (maskArrays ins.mask).length * f.size,
            ¬ (lineKey p (residentLine img c p (addr + m)) ≤ k ∧ k < lineKey p (residentLine img c p (addr + m)) + 64)) →
          vread 0 t.pm.tile st' cyc' k = vread 0 s.pm.tile st' cyc' k)))

/-- FLAG_CLEAR clears the sticky flags that events of earlier nominal cycle raised: of the selected arrays on a pier, of
the whole unit on a vector station, a table station or a keystone; later events keep theirs, the event counters and
every memory stay as they were, and only with RECORD do earlier events leave the first-occurrence record. -/
def Obligations.FlagClearSparesLaterEvents : Prop :=
  (∀ (s : State) (st p stall dry : Nat) (x : Step) (img : Image) (c : Ctx) (u : UnitSt) (ins : PierIns) (record : Bool),
    PierTurn s st p x img c u ins → ins.op = .flagClear record → OnTime img x u ins.cycle stall → u.mmas = [] → u.fills = [] →
    ∃ t y, exec (.flagClear st p stall dry) s = .next t ∧ Issued s t st p stall dry x u y ∧ OnlySteps s t ∧
      (y.unit p).counters = (x.unit p).counters ∧
      (∀ a, ins.mask.getLsbD a = true →
        arraySticky (y.unit p) a = arraySticky { x.unit p with events := (x.unit p).events.filter fun e => decide (ins.cycle ≤ e.cycle) } a) ∧
      (∀ a, ins.mask.getLsbD a = false → arraySticky (y.unit p) a = arraySticky (x.unit p) a) ∧
      (record = false → (firstEvent (y.unit p).events).map (recordBits p) = (firstEvent (x.unit p).events).map (recordBits p))) ∧
  (∀ (s : State) (st sp stall : Nat) (x : Step) (img : Image) (c : Ctx) (u : UnitSt) (ins : VecIns) (key : Nat) (i : Instr),
    ((VectorTurn s st sp x img c u ins ∧ key = 2000 + sp ∧ i = .vectorFlagClear st sp stall) ∨
     (TableTurn s st sp x img c u ins ∧ key = 2100 + sp ∧ i = .tableFlagClear st sp stall)) → ins.vop = 0x3F →
    OnTime img x u ins.cycle stall →
    ∃ t y, exec i s = .next t ∧ Issued s t st key stall 0 x u y ∧ OnlySteps s t ∧
      (y.unit key).counters = (x.unit key).counters ∧
      stickyOf (y.unit key) = stickyOf { x.unit key with events := (x.unit key).events.filter fun e => decide (ins.cycle ≤ e.cycle) } ∧
      (ins.arg.testBit 0 = false → (firstEvent (y.unit key).events).map (recordBits key) = (firstEvent (x.unit key).events).map (recordBits key))) ∧
  (∀ (s : State) (st b stall : Nat) (x : Step) (img : Image) (c : Ctx) (u : UnitSt) (ins : KeyIns), KeystoneTurn s st b x img c u ins → ins.kop = 4 →
    OnTime img x u ins.cycle stall →
    ∃ t y, exec (.keystoneFlagClear st b stall) s = .next t ∧ Issued s t st (2300 + b) stall 0 x u y ∧ OnlySteps s t ∧
      (y.unit (2300 + b)).counters = (x.unit (2300 + b)).counters ∧
      stickyOf (y.unit (2300 + b)) =
        stickyOf { x.unit (2300 + b) with events := (x.unit (2300 + b)).events.filter fun e => decide (ins.cycle ≤ e.cycle) } ∧
      (ins.first.testBit 0 = false →
        (firstEvent (y.unit (2300 + b)).events).map (recordBits (2300 + b)) = (firstEvent (x.unit (2300 + b)).events).map (recordBits (2300 + b))))

/-- TILE_IN and BLOCKS_IN take the next present blocks of a stream, as many as a tile has or NB: the transfer to the store
begins at the pier's position in the stream, which moves past them; nothing has landed yet. Its lines count from ADDR, for a whole
spaced tile from the place of its first present block.
TILE_OUT and BLOCKS_OUT send the lines of the store out as the next present blocks of a stream, once every line has
landed and every tag is known; the store keeps them. -/
def Obligations.StreamsMoveBetweenDeckAndStore : Prop :=
  (∀ (s : State) (st p stall dry : Nat) (x : Step) (img : Image) (c : Ctx) (u : UnitSt) (ins : PierIns) (desc addr n line : Nat) (d : Desc) (i : Instr),
    PierTurn s st p x img c u ins → OnTime img x u ins.cycle stall → u.mmas = [] → u.fills = [] → img.descs[desc]? = some d →
    ((ins.op = .tileIn desc addr ∧ i = .tileIn st p stall dry ∧ n = presentCount img d ∧
        line = addr + (if d.packed then 0 else blockLines d.fmt * (presentIdx img d).headD 0)) ∨
     (ins.op = .blocksIn desc addr n ∧ i = .blocksIn st p stall dry ∧ line = addr)) →
    ∃ t y, exec i s = .next t ∧ Issued s t st p stall dry x u y ∧ OnlySteps s t ∧
      y.inbound = x.inbound ++ [⟨p, desc, kget 0 (x.stream desc).pos p, n, line, ins.cycle, 0⟩] ∧
      y.stream desc = { x.stream desc with pos := kput (x.stream desc).pos p (kget 0 (x.stream desc).pos p + n) } ∧
      (∀ k, k ≠ desc → y.stream k = x.stream k)) ∧
  (∀ (s : State) (st p stall dry : Nat) (x : Step) (img : Image) (c : Ctx) (u : UnitSt) (ins : PierIns) (d : Desc) (desc addr n line : Nat) (i : Instr),
    PierTurn s st p x img c u ins → OnTime img x u ins.cycle stall → u.mmas = [] → u.fills = [] → descOf img x desc = some d →
    ((ins.op = .tileOut desc addr ∧ i = .tileOut st p stall dry ∧ n = presentCount img d ∧
        line = addr + (if d.packed then 0 else blockLines d.fmt * (presentIdx img d).headD 0)) ∨
     (ins.op = .blocksOut desc addr n ∧ i = .blocksOut st p stall dry ∧ line = addr)) →
    (∀ j < n, (∀ l < d.fmt.size, awaitsLine img x p (line + moveLine img d (kget 0 (x.stream desc).outPos p) j + l) ins.cycle = false) ∧
      (tagFor img x desc ((kget 0 (x.stream desc).outPos p + j) / presentCount img d) 0).isSome = true) →
    ∃ t y, exec i s = .next t ∧ Issued s t st p stall dry x u y ∧ OnlySteps s t ∧
      (y.stream desc).blocks.map (·.bytes) = (x.stream desc).blocks.map (·.bytes) ++ (List.range n).map (fun j =>
        (List.range (64 * d.fmt.size)).map fun b =>
          vread 0 s.pm.tile st ins.cycle
            (lineKey p (residentLine img c p (line + moveLine img d (kget 0 (x.stream desc).outPos p) j + b / 64)) + b % 64)) ∧
      kget 0 (y.stream desc).outPos p = kget 0 (x.stream desc).outPos p + n ∧
      (∀ k, k ≠ desc → y.stream k = x.stream k))

/-! ### Vector and table stations -/


/-- The element-wise operations of R137: the command, its OP code, whether SRC_B and SRC_C are operands, and what an
element becomes, from ARG, in the computation format, for DST's format. -/
def vectorOps : List ((Nat → Nat → Nat → Instr) × Nat × Bool × Bool × (Nat → VecFn)) :=
  [(Instr.add, 0x01, true, false, fun _ => rounded fun f a b _ => fadd f a b),
   (Instr.sub, 0x02, true, false, fun _ => rounded fun f a b _ => fsub f a b),
   (Instr.mul, 0x03, true, false, fun _ => rounded fun f a b _ => fmulV f a b),
   (Instr.fma, 0x04, true, true, fun _ => rounded fun f a b c => ffma f a b c),
   (Instr.min, 0x05, true, false, fun _ => rounded fun f a b _ => fminV f a b),
   (Instr.max, 0x06, true, false, fun _ => rounded fun f a b _ => fmaxV f a b),
   (Instr.cmp, 0x07, true, false, fun arg => rounded (cmpFn arg)),
   (Instr.abs, 0x08, false, false, fun _ => rounded (signFn FV.magn)),
   (Instr.neg, 0x09, false, false, fun _ => rounded (signFn FV.flip)),
   (Instr.cvt, 0x0A, false, false, fun _ => fun _ df a _ _ => fcvt df a),
   (Instr.scale, 0x0B, false, false, fun arg => rounded (scaleFn arg)),
   (Instr.select, 0x0C, true, true, fun _ => fun _ df a b c => fcvt df (if c.isZero then b else a)),
   (Instr.div, 0x10, true, false, fun _ => rounded fun f a b _ => fdivV f a b),
   (Instr.sqrt, 0x11, false, false, fun _ => rounded fun f a _ _ => fsqrtV f a),
   (Instr.recip, 0x12, false, false, fun _ => rounded fun f a _ _ => fdivV f (.fin false 1 0) a),
   (Instr.rsqrt, 0x13, false, false, fun _ => rounded fun f a _ _ => frsqrtV f a)]

/-- An element-wise vector instruction whose operand tiles have arrived, with the tags it passes on, writes, for each element of each tile of DST, its
operation applied to the widened elements of its operands, SRC_B's column 0 under BCAST. -/
def Obligations.VectorElementwiseResult : Prop :=
  ∀ op ∈ vectorOps, ∀ (s : State) (st sp stall : Nat) (x : Step) (img : Image) (c : Ctx) (u : UnitSt) (ins : VecIns)
    (a b e : Option (Desc × List (List (Option Bytes)))) (da d : Desc),
    VectorTurn s st sp x img c u ins → ins.vop = op.2.1 → OnTime img x u ins.cycle stall →
    operandTiles s img x true ins.srcA ins.cycle = some a → a.map (·.1) = some da →
    operandTiles s img x op.2.2.1 ins.srcB ins.cycle = some b →
    operandTiles s img x op.2.2.2.1 ins.srcC ins.cycle = some e →
    descOf img x ins.dst = some d → (dstTags d fun n => readTag img x ins.srcA n da).isSome = true →
    ∃ t y, exec (op.1 st sp stall) s = .next t ∧ Issued s t st (2000 + sp) stall 0 x u y ∧
      StationWrote s t img sp ins.dst d ins.cycle x y (fun n i j =>
        (op.2.2.2.2 ins.arg (precFmt ins.prec) d.fmt
          (widen (precFmt ins.prec) (operandFmt a) (operandBits a n i j)).1
          (widen (precFmt ins.prec) (operandFmt b) (operandBits b (bTile da b ins.bcast n) i (if ins.bcast then 0 else j))).1
          (widen (precFmt ins.prec) (operandFmt e) (operandBits e n i j)).1).1)

/-- The reductions of R138: the command, its OP code, the combining operation, and what is done to an element first. -/
def rowOps : List ((Nat → Nat → Nat → Instr) × Nat × RowFn × (Fmt → FV → Nat × Nat)) :=
  [(Instr.rowSum, 0x20, fadd, plainElem), (Instr.rowMax, 0x21, fmaxV, plainElem), (Instr.rowSumsq, 0x22, fadd, fun f a => fmulV f a a)]

/-- A row reduction writes to column 0 of each row the elements of the row combined in the fixed tree within each block and
in ascending block order across them, and +0 to columns 1 to 7.
PART_ADD sums ARG + 1 consecutive tiles element by element in ascending source order, POS writes the row position (ARG 0) or
the column position of each element, and TRANSPOSE puts element (j, i) of its operand at (i, j). -/
def Obligations.ReductionPositionTransposeResult : Prop :=
  (∀ op ∈ rowOps, ∀ (s : State) (st sp stall : Nat) (x : Step) (img : Image) (c : Ctx) (u : UnitSt) (ins : VecIns)
    (a : Desc × List (List (Option Bytes))) (d : Desc),
    VectorTurn s st sp x img c u ins → ins.vop = op.2.1 → OnTime img x u ins.cycle stall →
    operandTiles s img x true ins.srcA ins.cycle = some (some a) → descOf img x ins.dst = some d →
    (dstTags d fun n => readTag img x ins.srcA ((rowTilesOf a.1 d n).headD n) a.1).isSome = true →
    ∃ t y, exec (op.1 st sp stall) s = .next t ∧ Issued s t st (2000 + sp) stall 0 x u y ∧
      StationWrote s t img sp ins.dst d ins.cycle x y (fun n i j =>
        if j = 0 then
          (fconv (precFmt ins.prec) d.fmt
            (rowReduce op.2.2.1 op.2.2.2 (precFmt ins.prec) a.1 a.2
              (if d.tiles = a.1.tiles then [n] else (List.range a.1.rowTiles).map (n * a.1.rowTiles + ·)) i).1).1
        else 0)) ∧
  (∀ (s : State) (st sp stall : Nat) (x : Step) (img : Image) (c : Ctx) (u : UnitSt) (ins : VecIns) (d : Desc),
    VectorTurn s st sp x img c u ins → descOf img x ins.dst = some d → OnTime img x u ins.cycle stall →
    (∀ a, ins.vop = 0x28 → operandTiles s img x true ins.srcA ins.cycle = some (some a) →
      (dstTags d fun n => readTag img x ins.srcA (n * (ins.arg + 1)) a.1).isSome = true →
      ∃ t y, exec (.partAdd st sp stall) s = .next t ∧ Issued s t st (2000 + sp) stall 0 x u y ∧
        StationWrote s t img sp ins.dst d ins.cycle x y (fun n i j =>
          (fconv (precFmt ins.prec) d.fmt (partSum (precFmt ins.prec) ((List.range (ins.arg + 1)).map fun k =>
            let w := widen (precFmt ins.prec) a.1.fmt (operandBits (some a) (n * (ins.arg + 1) + k) i j)
            ((fcvt (precFmt ins.prec) w.1).1, w.2))).1).1)) ∧
    (ins.vop = 0x30 →
      ∃ t y, exec (.pos st sp stall) s = .next t ∧ Issued s t st (2000 + sp) stall 0 x u y ∧
        StationWrote s t img sp ins.dst d ins.cycle x y (fun n i j =>
          (fcvt d.fmt (.fin false (if ins.arg = 0 then d.posRow + (n / d.rowTiles) * d.rows + i
            else d.posCol + (n % d.rowTiles) * d.cols + j) 0)).1)) ∧
    (∀ a, ins.vop = 0x38 → operandTiles s img x true ins.srcA ins.cycle = some (some a) →
      (dstTags d fun n => readTag img x ins.srcA n a.1).isSome = true →
      ∃ t y, exec (.transpose st sp stall) s = .next t ∧ Issued s t st (2000 + sp) stall 0 x u y ∧
        StationWrote s t img sp ins.dst d ins.cycle x y (fun n i j => (fconv a.1.fmt d.fmt (operandBits (some a) n j i)).1)))

/-- EVAL writes the table's value at each element of SRC_A, DERIV_MUL that value times the element of SRC_B with one
rounding, each converted into DST's format.
While a line that a BANK_WRITE reads or an operand tile of a station instruction has not arrived, or an entrance would lag by more
than 8 k-steps, the unit waits at its instruction: only its slip advances, and nothing is written. -/
def Obligations.TableStationResultAndWaits : Prop :=
  (∀ (s : State) (st sp stall : Nat) (x : Step) (img : Image) (c : Ctx) (u : UnitSt) (ins : VecIns) (d : Desc) (tab : TableRec)
    (a : Desc × List (List (Option Bytes))),
    TableTurn s st sp x img c u ins → OnTime img x u ins.cycle stall → descOf img x ins.dst = some d → img.tabs[ins.arg]? = some tab →
    operandTiles s img x true ins.srcA ins.cycle = some (some a) →
    (dstTags d fun n => readTag img x ins.srcA n a.1).isSome = true →
    let arg := fun n i j => (fcvt .fp32 (widen .fp32 a.1.fmt (operandBits (some a) n i j)).1).1
    (ins.vop = 0x01 →
      ∃ t y, exec (.eval st sp stall) s = .next t ∧ Issued s t st (2100 + sp) stall 0 x u y ∧
        StationWrote s t img sp ins.dst d ins.cycle x y (fun n i j => (fconv .fp32 d.fmt (tableEval tab (arg n i j)).1).1)) ∧
    (∀ b, ins.vop = 0x02 → operandTiles s img x true ins.srcB ins.cycle = some (some b) →
      ∃ t y, exec (.derivMul st sp stall) s = .next t ∧ Issued s t st (2100 + sp) stall 0 x u y ∧
        StationWrote s t img sp ins.dst d ins.cycle x y (fun n i j =>
          let w := (fcvt .fp32 (widen .fp32 b.1.fmt
            (operandBits (some b) (bTile a.1 (some b) ins.bcast n) i (if ins.bcast then 0 else j))).1).1
          (fconv .fp32 d.fmt (fmulV .fp32 (dec32 w) (dec32 (tableEval tab (arg n i j)).1)).1).1))) ∧
  ((∀ (s : State) (st p stall dry : Nat) (x : Step) (img : Image) (c : Ctx) (u : UnitSt) (ins : PierIns),
    PierTurn s st p x img c u ins →
    (∀ bank addr, ins.op = .bankWrite bank addr → (∃ l < 4 * (maskArrays ins.mask).length, awaitsLine img x p (addr + l) ins.cycle = true) →
      ∃ t y, exec (.bankWrite st p stall dry) s = .next t ∧ Waited s t st p stall dry x u y ∧ OnlySteps s t) ∧
    (∀ i, u.overLag ins.cycle = true →
      ((∃ bank acc fa fb ta tb aSlot bSlot kb, ins.op = .mma bank acc fa fb ta tb aSlot bSlot kb ∧ i = .mma st p stall dry) ∨
       (∃ sideB f slot addr, ins.op = .fill sideB f slot addr ∧ i = .fill st p stall dry)) →
      ∃ t y, exec i s = .next t ∧ Waited s t st p stall dry x u y ∧ OnlySteps s t)) ∧
  (∀ op ∈ vectorOps, ∀ (s : State) (st sp stall : Nat) (x : Step) (img : Image) (c : Ctx) (u : UnitSt) (ins : VecIns),
    VectorTurn s st sp x img c u ins → ins.vop = op.2.1 → operandTiles s img x true ins.srcA ins.cycle = none →
    (∀ r ∈ s.host.reads, r.failed = false) →
    ∃ t y, exec (op.1 st sp stall) s = .next t ∧ Waited s t st (2000 + sp) stall 0 x u y ∧ OnlySteps s t) ∧
  (∀ (s : State) (st sp stall : Nat) (x : Step) (img : Image) (c : Ctx) (u : UnitSt) (ins : VecIns),
    TableTurn s st sp x img c u ins → ins.vop = 0x01 → operandTiles s img x true ins.srcA ins.cycle = none →
    (∀ r ∈ s.host.reads, r.failed = false) →
    ∃ t y, exec (.eval st sp stall) s = .next t ∧ Waited s t st (2100 + sp) stall 0 x u y ∧ OnlySteps s t))

/-! ### Gather stations -/


/-- ROUTING assigns the k experts of each token rank by rank within the windows of C and S rows: every token and rank has one
record, a kept record has a row of its own inside its window, no pair is dropped while its expert's window has room, the
windows take the tokens' rows unchanged, and the step counts what it dropped. -/
def Obligations.RoutingFillsWindows : Prop :=
  ∀ (s : State) (st sp cycle ri win : Nat) (x : Step) (img : Image) (r : Routing) (sc tok : Mat) (dt dw : Desc),
    workingStep s st = some (x, img) → img.routings[ri]? = some r →
    readMat s img x r.score cycle = some sc → readMat s img x r.token cycle = some tok →
    descOf img x r.dispatch = some dt → descOf img x win = some dw → r.dispatch ≠ win →
    OnTime img x (gatherUnit img x sp cycle) cycle 0 → (dstTags dw fun n => readTag img x r.token n tok.1).isSome = true →
    ∃ t y recs, exec (.routing st sp cycle ri win) s = .next t ∧ Issued s t st (2200 + sp) 0 0 x (gatherUnit img x sp cycle) y ∧ OnlyDies s t ∧
      kfind y.routes ri = some recs ∧ recs.length = r.tokens * r.topk ∧
      (∀ n < r.tokens, ∀ k < r.topk, ∃ d ∈ recs, d.token = n ∧ d.rank = k) ∧
      (∀ d ∈ recs, (d.status = 0 → d.row < windowRows r r.cf) ∧ (d.status = 1 → r.spill = true ∧ d.row < windowRows r r.sf)) ∧
      (∀ d ∈ recs, ∀ e ∈ recs, d.status ≠ 2 → d.status = e.status → d.expert = e.expert → d.row = e.row → d = e) ∧
      (∀ d ∈ recs, d.status ≠ 0 → (recs.filter fun e => decide (e.status = 0 ∧ e.expert = d.expert)).length = windowRows r r.cf) ∧
      y.dropped = satAdd max32 x.dropped (recs.filter fun d => decide (d.status = 2)).length ∧
      (y.stream win).blocks.map (·.bytes) = (x.stream win).blocks.map (·.bytes) ++ tileBytes img dw (fun n i j =>
        match recordAt r recs (dw.globalPos n i j).1 with
        | some d => tok.copy dw.fmt d.token (dw.globalPos n i j).2
        | none => 0)

/-- COMBINE sums, rank by rank, each kept expert output times its gate; COMBINE_BWD writes the gradient of each window row, its
gate times its token's output gradient, and then of each gate; DISPATCH_BWD adds the window gradients of a token's kept
ranks. A dropped rank adds nothing. -/
def Obligations.CombineAndBackwardResult : Prop :=
  (∀ (s : State) (st sp cycle ri win dst : Nat) (x : Step) (img : Image) (r : Routing) (recs : List Dispatch) (m : Mat) (d : Desc),
    workingStep s st = some (x, img) → img.routings[ri]? = some r →
    kfind x.routes ri = some recs → readMat s img x win cycle = some m → descOf img x dst = some d →
    OnTime img x (gatherUnit img x sp cycle) cycle 0 → (dstTags d fun n => readTag img x win n m.1).isSome = true →
    ∃ t y, exec (.combine st sp cycle ri win dst) s = .next t ∧ Issued s t st (2200 + sp) 0 0 x (gatherUnit img x sp cycle) y ∧
      StationWrote s t img sp dst d cycle x y (fun n i j =>
        (fconv .fp32 d.fmt (combineElem recs r.topk (d.globalPos n i j).1 fun q => m.elem (windowRow r q) (d.globalPos n i j).2).1).1)) ∧
  (∀ (s : State) (st sp bi win : Nat) (x : Step) (img : Image) (b : Bind) (r : Routing) (recs : List Dispatch) (dout m : Mat) (dw dg : Desc),
    workingStep s st = some (x, img) → img.binds[bi]? = some b → b.kind = 6 →
    img.routings[b.stream]? = some r → kfind x.routes b.stream = some recs → readMat s img x b.source b.cycle = some dout →
    readMat s img x win b.cycle = some m → descOf img x b.count = some dw → descOf img x b.aux = some dg →
    OnTime img x (gatherUnit img x sp b.cycle) b.cycle 0 → (dstTags dw fun n => readTag img x b.source n dout.1).isSome = true →
    (dstTags dg fun n => readTag img x b.source n dout.1).isSome = true →
    ∃ u t z y, exec (.combineBwd st sp bi win) s = .next t ∧ stepOf u st = some z ∧ stepOf t st = some y ∧
      (y.unit (2200 + sp)).next = (x.unit (2200 + sp)).next + 1 ∧
      StationWrote s u img sp b.count dw b.cycle x z (fun n i j =>
        match recordAt r recs (dw.globalPos n i j).1 with
        | some d => (fmulV .fp32 (dec32 d.gate) (dec32 (dout.elem d.token (dw.globalPos n i j).2))).1
        | none => 0) ∧
      StationWrote u t img sp b.aux dg b.cycle z y (fun n i j =>
        match recordOf recs (dg.globalPos n i j).1 (dg.globalPos n i j).2 with
        | some d =>
          if (dg.globalPos n i j).2 < r.topk ∧ d.status ≠ 2 then
            (gateSum dout.1.width fun h => fmulV .fp32 (dec32 (dout.elem (dg.globalPos n i j).1 h)) (dec32 (m.elem (windowRow r d) h))).1
          else 0
        | none => 0)) ∧
  (∀ (s : State) (st sp bi : Nat) (x : Step) (img : Image) (b : Bind) (r : Routing) (recs : List Dispatch) (m : Mat) (d : Desc),
    workingStep s st = some (x, img) → img.binds[bi]? = some b → b.kind = 7 →
    img.routings[b.stream]? = some r → kfind x.routes b.stream = some recs → readMat s img x b.source b.cycle = some m →
    descOf img x b.aux = some d → OnTime img x (gatherUnit img x sp b.cycle) b.cycle 0 →
    (dstTags d fun n => readTag img x b.source n m.1).isSome = true →
    ∃ t y, exec (.dispatchBwd st sp bi) s = .next t ∧ Issued s t st (2200 + sp) 0 0 x (gatherUnit img x sp b.cycle) y ∧
      StationWrote s t img sp b.aux d b.cycle x y (fun n i j =>
        match ((List.range r.topk).filterMap fun k => (recordOf recs (d.globalPos n i j).1 k).filter fun q => decide (q.status ≠ 2)).map
            fun q => m.elem (windowRow r q) (d.globalPos n i j).2 with
        | [] => 0
        | h :: l => l.foldl (fun a v => (fadd .fp32 (dec32 a) (dec32 v)).1) h))

/-- BLOCK_LIST_BUILD sends the list of the blocks of an FP32 stream that are not all ±0, and SPARSE_EMBEDDING_LIST the list of the
blocks of the rows of its ids, each in ascending key order under a 16-byte header of the count and CAPACITY, as long as the entries
fit into CAPACITY, the entries that the list stream's storage holds (log entry 24). -/
def Obligations.BlockListsAreSorted : Prop :=
  ∀ (s : State) (st sp cycle src dst stall : Nat) (ids : List Nat) (x : Step) (img : Image) (m : Mat) (d : Desc)
    (es : List ListEntry) (i : Instr),
    workingStep s st = some (x, img) → (descOf img x src).map (·.fmt) = some .fp32 →
    readMat s img x src cycle = some m → descOf img x dst = some d → es.length ≤ listCapacity img dst →
    OnTime img x (gatherUnit img x sp cycle) cycle stall →
    ((i = .blockListBuild st sp cycle src dst stall ∧ es = (allBlocks m).filter fun e => e.2.2.any fun w => decide (w % 2 ^ 31 ≠ 0)) ∨
     (i = .sparseEmbeddingList st sp cycle ids src dst stall ∧
       es = (usedBlockRows ids).flatMap fun br => (List.range (m.1.width / 8)).map fun bc =>
         (br, bc, (List.range 64).map fun e => (idRow ids m (8 * br + e / 8) (8 * bc + e % 8)).1))) →
    ∃ t y pre rest, exec i s = .next t ∧ Issued s t st (2200 + sp) stall 0 x (gatherUnit img x sp cycle) y ∧ OnlySteps s t ∧
      (y.stream dst).list = true ∧ (y.stream dst).blocks = pre ++ rest ∧ pre = (x.stream dst).blocks ∧
      (rest.flatMap (·.bytes)).take (listBytes (listCapacity img dst) es).length = listBytes (listCapacity img dst) es ∧
      (es.map fun e => (e.1, e.2.1)).Pairwise (fun a b => a.1 < b.1 ∨ (a.1 = b.1 ∧ a.2 < b.2)) ∧
      (∀ k, k ≠ dst → y.stream k = x.stream k)

/-! ### The deck, the bearings and the landing -/

/-- A bearing brings the next tile of a stored stream to hand with its tag: of a stream in stacked memory each consumer then reads what
the writes of earlier nominal cycle left, of a weight stream the bytes of the bound ring copy; an uncorrectable line of an unpoisoned
tile poisons the line and ends the step of one module.
PREFETCH asks the host for the next present blocks of the stream in ascending order, up to COUNT tiles past what the step has
consumed, and changes nothing else. -/
def Obligations.TilesAreReadAhead : Prop :=
  (∀ (s : State) (st desc : Nat) (x : Step) (img : Image) (c : Ctx) (d : Desc) (n tag : Nat),
    stepOf s st = some x → x.state.working = true → ctxOf s x.ctx = some c → kfind c.images x.slot = some img →
    descOf img x desc = some d → d.space = 0 → n = (x.stream desc).fetched.length / max 1 (presentCount img d) → n < d.tiles →
    tagFor img x desc n d.stash = some tag → s.sm.poison = [] →
    (d.base < windowBase → bindOf img 2 desc = none →
      (∃ t y, exec (.bearingReadReturn st desc []) s = .next t ∧ stepOf t st = some y ∧ OnlySteps s t ∧
        (y.stream desc).fetched = (x.stream desc).fetched ++ (presentIdx img d).map (fun _ => ⟨[], tag, 0⟩) ∧
        (∀ k, k ≠ desc → y.stream k = x.stream k) ∧
        (∀ cyc k, k < (y.stream desc).fetched.length → writeAhead img x d cyc (blockAddr img d k) d.blockBytes = false →
          sourceBlock t img y desc d cyc k = some (readVa s c st cyc (blockAddr img d k) d.blockBytes))) ∧
      (∀ l cw pa, ((tileOffsets img d n).filterMap fun a => (paOf c a).map (resolve s))[l]? = some pa → img.multi = false →
        ∃ t, exec (.bearingReadReturn st desc [.uncorrectable l cw]) s = .next t ∧ stepOf t st = none ∧ linePoisoned t pa = true)) ∧
    (∀ b tn, bindOf img 2 desc = some b → tensorOf c b.count = some tn →
      ∃ t y, exec (.bearingReadReturn st desc []) s = .next t ∧ stepOf t st = some y ∧ (∀ k, k ≠ desc → y.stream k = x.stream k) ∧
        (y.stream desc).fetched = (x.stream desc).fetched ++ (presentIdx img d).map fun i =>
          ⟨copyBytes c tn (boundCopy x tn tag) (tileAddr d n + blockOff img d i) d.blockBytes, tag, 0⟩)) ∧
  (∀ (s : State) (st desc : Nat) (x : Step) (img : Image) (b : Bind) (d : Desc),
    stepOf s st = some x → x.state = .running → imageOf s x = some img → bindOf img 3 desc = some b → descOf img x desc = some d →
    ∃ t more, exec (.prefetch st desc) s = .next t ∧
      t = { s with host := { s.host with reads := s.host.reads ++ more, nextId := s.host.nextId + more.length } } ∧
      (∀ r ∈ more, r.len = d.blockBytes) ∧
      more.map (·.addr) = (List.range
        (min (streamLen img d) ((consumed img x desc / max 1 (presentCount img d) + b.count) * presentCount img d) - blocksAsked s x desc)).map
        fun k => blockAddr img d (blocksAsked s x desc + k))

/-- Flits of a stream land in order: in a tile store, where a transfer that has wholly landed is forgotten; in the local store of the
stream's span; in stacked memory, where the step reads the new bytes from the next cycle on, of two writes of one cycle those of the higher
descriptor index; and, for a window of host memory that
is not OFFLOAD, in staging. -/
def Obligations.ArrivalsLand : Prop :=
  ∀ (s : State) (st desc : Nat) (x : Step) (img : Image) (c : Ctx) (d : Desc),
    stepOf s st = some x → x.state.working = true → ctxOf s x.ctx = some c → kfind c.images x.slot = some img → descOf img x desc = some d →
    (∀ (p : Nat) (w : Inbound) (bs : Nat → Bytes), (x.inbound.find? fun w => decide (w.pier = p ∧ w.desc = desc)) = some w → w.landed = 0 → 0 < w.blocks →
      (∀ j < w.blocks, sourceBlock s img x desc d w.cycle (w.first + j) = some (bs j)) →
      (x.unit p).mmas = [] → (x.unit p).fills = [] → bindOf img 3 desc = none →
      ∃ t y, exec (.deckArrival st desc (.pier p)) s = .next t ∧ stepOf t st = some y ∧ OnlyDies s t ∧
        t.pm = { s.pm with tile := t.pm.tile, zero := t.pm.zero } ∧ y.inbound = x.inbound.erase w ∧
        (∀ st' cyc' k, (∀ j < w.blocks, ∀ l < d.fmt.size,
            ¬ (lineKey p (residentLine img c p (w.line + moveLine img d w.first j + l)) ≤ k ∧
              k < lineKey p (residentLine img c p (w.line + moveLine img d w.first j + l)) + 64)) →
          vread 0 t.pm.tile st' cyc' k = vread 0 s.pm.tile st' cyc' k) ∧
        (w.blocks = 1 → ∀ l < d.fmt.size,
          (∀ m, l < m → m < d.fmt.size → residentLine img c p (w.line + moveLine img d w.first 0 + m) ≠
            residentLine img c p (w.line + moveLine img d w.first 0 + l)) →
          ∀ e < 64, vread 0 t.pm.tile st (w.cycle + 1) (lineKey p (residentLine img c p (w.line + moveLine img d w.first 0 + l)) + e) =
            (bs 0).getD (64 * l + e) 0)) ∧
    (d.space = 1 →
      ∃ t y, exec (.deckArrival st desc (.loc d.span)) s = .next t ∧ stepOf t st = some y ∧ OnlyDies s t ∧
        t.pm = { s.pm with loc := t.pm.loc } ∧ (y.stream desc).memPos = (x.stream desc).blocks.length ∧
        (∀ k b, (x.stream desc).blocks.length = k + 1 → (x.stream desc).memPos ≤ k → (x.stream desc).blocks[k]? = some b →
          ∀ e < b.bytes.length, vread 0 t.pm.loc st (b.cycle + 1) (locBase d.span + blockAddr img d k + e) = b.bytes.getD e 0)) ∧
    (∀ b, d.space = 0 → img.writes.contains desc = true → bindOf img 2 desc = none → (x.stream desc).blocks[(x.stream desc).memPos]? = some b →
      blockAddr img d (x.stream desc).memPos < windowBase → b.bytes.length ≤ 512 → s.sm.poison = [] →
      (∀ w ∈ s.sm.mem.log, w.step = st → w.cycle = b.cycle + 1 → w.rank ≤ desc) →
      ∃ t y, exec (.deckArrival st desc (.memory .ok)) s = .next t ∧ stepOf t st = some y ∧ t = { s with sm := t.sm, steps := t.steps } ∧
        (y.stream desc).memPos = (x.stream desc).memPos + 1 ∧ t.sm.mem.base = s.sm.mem.base ∧
        (∀ e < b.bytes.length, (paOf c (blockAddr img d (x.stream desc).memPos + e)).isSome = true →
          readVa t c st (b.cycle + 1) (blockAddr img d (x.stream desc).memPos + e) 1 = [b.bytes.getD e 0])) ∧
    (∀ b ecc, d.space = 0 → img.writes.contains desc = true → bindOf img 2 desc = none → bindOf img 4 desc = none →
      (x.stream desc).blocks[(x.stream desc).memPos]? = some b → windowBase ≤ blockAddr img d (x.stream desc).memPos →
      ∃ t y, exec (.deckArrival st desc (.memory ecc)) s = .next t ∧ stepOf t st = some y ∧ OnlySteps s t ∧
        (y.stream desc).memPos = (x.stream desc).memPos + 1 ∧
        y.staged = x.staged ++ [⟨b.cycle, desc, blockAddr img d (x.stream desc).memPos, b.bytes⟩])

/-! ### BAR0 -/


/-- An aligned read of an implemented register answers its value: 8 bytes whole, a low half with bits [63:32] kept for a high-half
read that follows at once. A register that clears on read reads 0 afterwards; a read changes nothing else.
A malformed access completes with no effect but the count of malformed accesses and its log entry; a read answers 0. -/
def Obligations.RegisterReadsAnswer : Prop :=
  (∀ (s : State) (off : Nat) (v : BitVec 64) (i : Nat → Nat → Instr), i ∈ [Instr.rcRegisterRead, Instr.lowHalfRead] →
    s.host.up = true → s.boot.ready = true → off % 8 = 0 → regValue s off = some v →
    (∃ t, exec (i off 8) s = .next t ∧ t.out = .regRead off 8 v :: s.out ∧ t.regs = { s.regs with latch := none } ∧
      (isRc off = true → regValue t off = some 0) ∧
      (isRc off = false → t = { s with regs := t.regs, out := t.out }) ∧
      t = { s with regs := t.regs, out := t.out, err := t.err, ports := t.ports, slory := t.slory, power := t.power }) ∧
    (∃ t u, exec (i off 4) s = .next t ∧ exec (.lowHalfRead (off + 4) 4) t = .next u ∧
      (isRc off = true → regValue u off = some 0) ∧
      u.out = .regRead (off + 4) 4 (v >>> 32) :: .regRead off 4 (v &&& 0xFFFFFFFF#64) :: s.out) ∧
    ((∀ k x, s.regs.latch = some (k, x) → k ≠ off) →
      ∃ t, exec (i (off + 4) 4) s = .next t ∧ t.out = .regRead (off + 4) 4 (v >>> 32) :: s.out ∧ t = { s with regs := { s.regs with latch := none }, out := t.out })) ∧
  (∀ (s : State) (off size : Nat) (read : Bool), s.host.up = true → malformed s off size = true →
    ∃ t, exec (.malformedRegisterAccess off size read) s = .next t ∧
      t.err.malformed = satAdd max64 s.err.malformed 1 ∧ Logged s t 0x0806 none (BitVec.ofNat 128 off) ∧
      t = { s with regs := { s.regs with latch := none }, err := t.err, msix := t.msix, out := t.out } ∧
      (read = true → Output.regRead off size 0 ∈ t.out))

/-- A doorbell write tests each of its fields and takes it or ignores it: a tail at most the ring's length ahead of CMD_HEAD, a head
between STATUS_HEAD and STATUS_TAIL; each ignored field is counted. -/
def Obligations.DoorbellTakesValidIndices : Prop :=
  ∀ (s : State) (r : RingId) (g : Ring) (size : Nat) (high : Bool) (v : BitVec 64) (i : Instr) (tail head : Option (BitVec 32)),
    s.host.up = true → s.boot.ready = true → ringOf s r = some g →
    ((∃ n < 256, r = .ctx n ∧ i = .dbCtx n size high v) ∨ (r = .admin ∧ i = .dbAdmin size high v)) →
    ((size = 8 ∧ high = false ∧ tail = some (v.setWidth 32) ∧ head = some ((v >>> 32).setWidth 32)) ∨
     (size = 4 ∧ high = false ∧ tail = some (v.setWidth 32) ∧ head = none) ∨
     (size = 4 ∧ high = true ∧ tail = none ∧ head = some (v.setWidth 32))) →
    let tailOk := tail.map fun x => decide ((x - g.cmdHead).toNat ≤ 2 ^ g.rcd.cmdLog2)
    let headOk := head.map fun x => decide ((x - g.statusHead).toNat ≤ (g.statusTail - g.statusHead).toNat)
    ∃ t g', exec i s = .next t ∧ ringOf t r = some g' ∧
      g'.cmdTail = (if tailOk = some true then tail.getD 0 else g.cmdTail) ∧
      g'.statusHead = (if headOk = some true then head.getD 0 else g.statusHead) ∧
      g'.dbErrors = (let n := if tailOk = some false then satAdd max32 g.dbErrors 1 else g.dbErrors
        if headOk = some false then satAdd max32 n 1 else n) ∧
      g' = { g with cmdTail := g'.cmdTail, statusHead := g'.statusHead, dbErrors := g'.dbErrors, coalArmed := g'.coalArmed } ∧
      t = { s with admin := t.admin, rings := t.rings, regs := { s.regs with latch := none }, err := t.err, msix := t.msix, out := t.out }

/-- A host write of an MSI-X table entry takes the written bytes; a write that unmasks a vector of a ring whose pending bit is set
sends its message and clears the bit.
When the coalescing time of a ring with fresh entries runs out its vector is sent, or its pending bit set where the vector is masked, and
both coalescing conditions start again; when the microsecond of vectors 257 to 259 ends, one message covers the sets that fell within it. -/
def Obligations.MsixMessagesFollowTheTable : Prop :=
  (∀ (s : State) (vec : Nat) (v : BitVec 64), s.host.up = true → s.boot.ready = true → vec < 257 →
    (∃ t, exec (.msixTableWrite (16 * vec) 8 v) s = .next t ∧ vecEntry t vec = { vecEntry s vec with addr := v } ∧
      (∀ k, k ≠ vec → vecEntry t k = vecEntry s k) ∧ t.out = s.out ∧ t.msix.pend = s.msix.pend) ∧
    (∃ t, exec (.msixTableWrite (16 * vec + 8) 8 v) s = .next t ∧
      vecEntry t vec = { vecEntry s vec with data := v.setWidth 32, control := (v >>> 32).setWidth 32 } ∧
      ((vecEntry s vec).control.getLsbD 0 = true → v.getLsbD 32 = false → vec ∈ s.msix.pend →
        t.out = .msix vec (vecEntry s vec).addr (v.setWidth 32) :: s.out ∧ vec ∉ t.msix.pend))) ∧
  ((∀ (s : State) (r : RingId) (g : Ring), ringOf s r = some g → g.coalArmed = true → g.fresh ≠ 0 →
    ∃ t, exec (.coalUs r) s = .next t ∧ ringOf t r = some { g with coalBase := g.statusTail, coalArmed := false } ∧
      (if (vecEntry s r.vector).control.getLsbD 0 then r.vector ∈ t.msix.pend ∧ t.out = s.out
       else t.out = .msix r.vector (vecEntry s r.vector).addr (vecEntry s r.vector).data :: s.out)) ∧
  (∀ (s : State) (vec : Nat), vec ∈ s.msix.window →
    ∃ t, exec (.msixRateWindow vec) s = .next t ∧ t = { s with msix := t.msix, out := t.out } ∧ vec ∉ t.msix.owed ∧
      (vec ∉ s.msix.owed → vec ∉ t.msix.window ∧ t.out = s.out) ∧
      (vec ∈ s.msix.owed → (vecEntry s vec).control.getLsbD 0 = false →
        vec ∈ t.msix.window ∧ t.out = .msix vec (vecEntry s vec).addr (vecEntry s vec).data :: s.out) ∧
      (vec ∈ s.msix.owed → (vecEntry s vec).control.getLsbD 0 = true → vec ∈ t.msix.pend ∧ t.out = s.out)))

/-- The error log window: ERR_LOG_SELECT copies a slot, an empty one as zeros; ERR_LOG_ACK removes the entries of this boot up to TIME and,
with PRIOR, those of earlier boots; writing 1s clears the W1C bits that hardware does not set in the same cycle, in
ERR_INT_STATUS, PWR_EVENT_STATUS and a port's LINK_CHANGE. -/
def Obligations.ErrorLogWindowAndW1c : Prop :=
  ∀ (s : State) (v : BitVec 64), s.host.up = true → s.boot.ready = true →
    (∃ t, exec (.errLogSelect 8 false v) s = .next t ∧ t.err.select = (v.toNat % 1024) ∧
      t.err.entry = ((kfind s.err.slots (v.toNat % 1024)).map entryBits).getD 0 ∧
      t = { s with regs := { s.regs with latch := none }, err := { s.err with select := t.err.select, entry := t.err.entry } }) ∧
    (∃ t, exec (.errLogAck 8 false v) s = .next t ∧
      t.err.slots = s.err.slots.filter (fun q => !(if q.2.prior then v.getLsbD 63 else decide (q.2.time ≤ v.toNat % 2 ^ 63))) ∧
      t = { s with regs := { s.regs with latch := none }, err := { s.err with slots := t.err.slots } }) ∧
    (∃ t, exec (.w1cWrite 0x10000 8 v 0) s = .next t ∧ t.err.logged = (s.err.logged && !v.getLsbD 0) ∧
      t.err.fatalBit = (s.err.fatalBit && !v.getLsbD 1) ∧ t.err.droppedBit = (s.err.droppedBit && !v.getLsbD 2) ∧ t.out = s.out) ∧
    (∀ sets : BitVec 64, ∃ t, exec (.w1cWrite 0x30008 8 v sets) s = .next t ∧
      ∀ b < 10, t.power.events.testBit b = (sets.getLsbD b || (s.power.events.testBit b && !v.getLsbD b))) ∧
    (∀ q < 8, ∀ sets : BitVec 64, ∃ t, exec (.w1cWrite (0x20800 + 0x1000 * q) 8 v sets) s = .next t ∧
      (portOf t q).linkChange = (sets.getLsbD 16 || ((portOf s q).linkChange && !v.getLsbD 16)))

/-- The administrative ring record is written through RST_ADMIN_RING0 to RST_ADMIN_RING3, register by register; a write of GO
checks it and installs a ring with every position 0, or reports the offset at fault, or ST_BUSY while a command of the ring is
outstanding; each counts an installation. -/
def Obligations.AdminRingInstallation : Prop :=
  ∀ (s : State) (v : BitVec 64), s.host.up = true → s.boot.ready = true →
    (∀ k < 4, ∃ t, exec (.registerWrite (0x40100 + 8 * k) 8 v) s = .next t ∧ regValue t (0x40100 + 8 * k) = some v ∧
      (∀ j < 4, j ≠ k → regValue t (0x40100 + 8 * j) = regValue s (0x40100 + 8 * j)) ∧ t = { s with regs := t.regs }) ∧
    (v.getLsbD 0 = true → ∃ t, exec (.rstAdminInstall 8 false v) s = .next t ∧ t.regs.installs = satAdd max32 s.regs.installs 1 ∧
      (∀ o, ringFault (adminRecBytes s) (ctxSpans s) (allPages s) = some o →
        t.regs.adminStatus = stBadParam ∧ t.regs.adminOffset = o ∧ t.admin = s.admin) ∧
      (ringFault (adminRecBytes s) (ctxSpans s) (allPages s) = none → ∀ g, s.admin = some g → g.cmds ≠ [] →
        t.regs.adminStatus = stBusy ∧ t.admin = s.admin) ∧
      (ringFault (adminRecBytes s) (ctxSpans s) (allPages s) = none → s.admin = none →
        t.regs.adminStatus = stOk ∧ t.admin = some { rcd := ringRecOf (adminRecBytes s) }))

/-! ### The CXL link and host memory -/

/-- A write that the host has globally observed is no longer in flight; observing a control line interrupts its ring where the entries that it
counts make a message due, and the last write that
a held reply waits for releases the reply.
A write without GO is logged with its address: a status, event or control-line write goes on waiting; a step's off-load write is given up and ends
a running step of one module; a slow-tier master that a command wrote takes the mirror that waits for it with it. -/
def Obligations.HostWritesSettleOrAreGivenUp : Prop :=
  (∀ (s : State) (w : HostWrite), (s.host.writes.find? fun v => decide (v.id = w.id)) = some w → w.lost = false → s.host.up = true →
    w.sent = true → (∀ v ∈ s.host.writes, v.id ∉ w.after) → s.sched.owing = [] → s.sched.follows = [] →
    (∀ n, w.ctx = some n → ∀ k, ctxOf s n = some k → k.destroying = none) →
    ((w.path ≠ .ctrl → (∀ g, ringOf s (match w.ctx with | some n => .ctx n | none => .admin) = some g → ∀ c ∈ g.cmds, c.held = none) →
      ∃ t, exec (.hostWriteGo w.id) s = .next t ∧
        t = { s with host := { s.host with writes := s.host.writes.filter fun v => decide (v.id ≠ w.id) },
                     out := .hostObserved w.path w.addr w.bytes :: s.out }) ∧
     (∀ r g, w.path = .ctrl → w.ring = some r → w.ctx = r.ctxNo → ringOf s r = some g → (∀ c ∈ g.cmds, c.held = none) →
      g.due (g.freshAt w.tail) = true → (∀ v ∈ s.host.writes, v.ring = some r → v.path = .ctrl → w.id ≤ v.id) →
      (vecEntry s r.vector).control.getLsbD 0 = false →
      ∃ t, exec (.hostWriteGo w.id) s = .next t ∧
        t.out = .msix r.vector (vecEntry s r.vector).addr (vecEntry s r.vector).data :: .hostObserved w.path w.addr w.bytes :: s.out) ∧
     (∀ r g c y k, w.path ≠ .ctrl → w.ctx = r.ctxNo → ringOf s r = some g → g.cmds = [c] → c.held = some y → c.upTo = some k →
      (∀ v ∈ s.host.writes, v.ctx = w.ctx → v.id < k → v.id = w.id) →
      ∃ t, exec (.hostWriteGo w.id) s = .next t ∧ (ringOf t r).map (·.cmds) = some [] ∧
        ∃ v ∈ t.host.writes, s.host.nextId ≤ v.id ∧ v.path = .status ∧ v.bytes = replyBytes y))) ∧
  (∀ (s : State) (w : HostWrite), (s.host.writes.find? fun v => decide (v.id = w.id)) = some w → w.lost = false → s.sched.owing = [] → s.sched.follows = [] →
    (w.path ∈ [HwPath.status, .event, .ctrl] →
      ∃ t, exec (.goTimeout w.id) s = .next t ∧ Logged s t 0x0802 w.ctx (BitVec.ofNat 128 w.addr) ∧ OnlyLog s t) ∧
    (∀ st x, w.path = .offload → w.step = some st → stepOf s st = some x → x.state = .running →
      (∀ n, w.ctx = some n → ringOf s (.ctx n) = none) → (w.ctx = none → s.admin = none) →
      (∀ img, imageOf s x = some img → img.multi = false) →
      ∃ t, exec (.goTimeout w.id) s = .next t ∧ stepOf t st = none) ∧
    (∀ after, ((w.path = .offload ∧ after = []) ∨ (w.path = .shadow ∧ after = [w.id])) → w.step = none → (∀ n, w.ctx = some n → ringOf s (.ctx n) = none) → (w.ctx = none → s.admin = none) →
      ∃ t, exec (.goTimeout w.id) s = .next t ∧ t.host.writes = s.host.writes.filter fun v => decide (v.id ≠ w.id ∧ ∀ k ∈ after, k ∉ v.after)))

/-- A host read that returns data gives it to its owner: the next block of a host stream reaches the deck; one that fails, or gives no data in time, is
logged with its address, and ends the running step of one module only when a station waits for its data.
While the link is up a snoop is answered at once, a CXL.mem request gets Unsupported Request, and a correctable error is logged and reported to AER;
nothing else changes. -/
def Obligations.HostReadsAndRequestsAreAnswered : Prop :=
  (∀ (s : State) (rd : HostRead), (s.host.reads.find? fun v => decide (v.id = rd.id)) = some rd → rd.data = none → rd.failed = false →
    offloadAhead s rd = false →
    (∀ st i x img d b, rd.owner = .stream st i (x.stream i).fetched.length → stepOf s st = some x → imageOf s x = some img →
      descOf img x i = some d → streamLen img d ≤ (x.stream i).fetched.length + 1 →
      (∀ v ∈ s.host.reads, v.id ≠ rd.id → ∀ n, v.owner ≠ .stream st i n) →
      ∃ t y, exec (.hostReadCompletion rd.id (.ok b)) s = .next t ∧ stepOf t st = some y ∧
        (y.stream i).fetched = (x.stream i).fetched ++ [⟨slice b 0 d.blockBytes, d.stash, 0⟩] ∧
        t.host.reads = s.host.reads.filter fun v => decide (v.id ≠ rd.id)) ∧
    (∀ st i n e, (rd.owner = .prefetch st i n ∨ rd.owner = .stream st i n) →
      (e = .hostReadTimeout rd.id ∨ ∃ h, HostData.bytes h = none ∧ e = .hostReadCompletion rd.id h) →
      ∃ t, exec e s = .next t ∧ Logged s t 0x0802 rd.ctx (BitVec.ofNat 128 rd.addr) ∧ t.steps = s.steps ∧
        t.host.reads = s.host.reads.map fun v => if v.id = rd.id then { v with failed := true } else v)) ∧
  (∀ op ∈ vectorOps, ∀ (s : State) (st sp stall : Nat) (x : Step) (img : Image) (c : Ctx) (u : UnitSt) (ins : VecIns) (rd : HostRead),
    VectorTurn s st sp x img c u ins → ins.vop = op.2.1 → operandTiles s img x true ins.srcA ins.cycle = none → img.multi = false →
    rd ∈ s.host.reads → rd.failed = true →
    (rd.owner = .prefetch st ins.srcA (x.stream ins.srcA).fetched.length ∨ rd.owner = .stream st ins.srcA (x.stream ins.srcA).fetched.length) →
    ∃ t, exec (op.1 st sp stall) s = .next t ∧ stepOf t st = none) ∧
  (∀ (s : State), s.host.up = true →
    (∀ addr, exec (.hostSnoop addr) s = .next { s with out := .snoopAnswer addr :: s.out }) ∧
    (∀ addr, exec (.cxlMemRequest addr) s = .next { s with out := .unsupportedRequest addr :: s.out }) ∧
    (∀ aer, ∃ t, exec (.cxlCorrectableError aer) s = .next t ∧ Output.aerCorrectable aer ∈ t.out ∧
      Logged s t 0x0801 none (BitVec.ofNat 128 aer) ∧ OnlyLog s t))

/-- The link comes up in a supported mode and sends what waited in the landing; it goes down, which is logged and leaves steps and contexts alone; a
retraining keeps it up in the new mode and is counted, and one to a lower mode is logged; ten seconds without it make the module device-fatal. -/
def Obligations.LinkEventsChangeTheLink : Prop :=
  ∀ (s : State),
    (∀ rate width, s.boot.powered = true → s.boot.perstN = true → s.host.up = false → linkMode rate width = true → s.sched.owing = [] → s.sched.follows = [] →
      ∃ t, exec (.cxlLinkUp rate width) s = .next t ∧ t.host.up = true ∧ t.host.rate = rate ∧ t.host.width = width ∧
        (∀ w ∈ t.host.writes, w.sent = true ∨ w.lost = true) ∧ Output.linkUp true ∈ t.out ∧
        t = { s with boot := t.boot, host := t.host, out := t.out }) ∧
    (∀ rate width, s.host.up = true → linkMode rate width = true → s.sched.owing = [] → s.sched.follows = [] →
      ∃ t, exec (.cxlLinkRetrain rate width) s = .next t ∧ t.host.up = true ∧ t.host.rate = rate ∧ t.host.width = width ∧
        t.host.retrains = satAdd 16777215 s.host.retrains 1 ∧ t.steps = s.steps ∧
        (hostCapacity t < hostCapacity s → Logged s t 0x0803 none (Config.errDetail 0x0803 [rate, width]))) ∧
    (s.host.up = true →
      ∃ t, exec .hostLinkDown s = .next t ∧ t.host = { s.host with up := false, rate := 0, width := 0 } ∧ Output.linkUp false ∈ t.out ∧
        Logged s t 0x0804 none 0 ∧ t.steps = s.steps ∧ t.ctxs = s.ctxs) ∧
    (s.host.up = false → s.boot.cxlTraining = false → s.boot.powered = true → s.boot.fatal = false →
      ∃ t, exec .hostLinkDown10s s = .next t ∧ t.steps = [] ∧ t.boot.fatal = true ∧ t.boot.stage = 0xF0 ∧ t.boot.viral = true ∧ t.err.fatalBit = true)

/-! ### Power, resets and boot -/

/-- What the spec gives the module right after a power-on reset: stage STANDBY under cause power-on, not ready and not fatal, the link
down, no administrative ring, no context, no step, an empty error log and an empty queue.
Stacked memory is canonical after reset. -/
def Obligations.ResetStateAndCanonicalMemory : Prop :=
  (State.reset.boot.stage = 0x01 ∧ State.reset.boot.cause = 0x1 ∧ State.reset.boot.ready = false ∧ State.reset.boot.fatal = false ∧
  State.reset.host.up = false ∧ State.reset.admin = none ∧ State.reset.rings = [] ∧ State.reset.ctxs = [] ∧ State.reset.steps = [] ∧
  State.reset.err.slots = [] ∧ State.reset.pending = [] ∧ regValue State.reset 0x40000 = some 1 ∧ regValue State.reset 0x40008 = some 1) ∧
  (MemoryCanonical State.reset)

/-- Every full device reset but a power-on discards contexts, rings, steps, stacked memory, the error log and the settings of ports and transport, begins
the warm sequence at ROM under its own cause, ends the link where the reset takes it, and keeps the model store's objects and the counters.
Losing the busbar power, or an input overvoltage, turns the module off with everything volatile gone; power good starts STANDBY, and releasing PERST_N
lets the sequence leave ROM. -/
def Obligations.ResetsAndPowerKeepNonVolatileState : Prop :=
  (∀ (s : State) (c : Instr) (cause : Nat) (v : BitVec 64),
    s.boot.powered = true → s.boot.railsRemoved = false →
    ((c = .rstControl 8 false v ∧ v.setWidth 32 = 0x4C5A0001#32 ∧ s.host.up = true ∧ cause = 0x4) ∨
     (c = .perstNAssert ∧ cause = 0x2) ∨ (c = .flr ∧ s.host.up = true ∧ cause = 0x3) ∨ (c = .linkReset ∧ s.host.up = true ∧ cause = 0x6) ∨
     (c = .managementReset ∧ s.mgmt.restarting = false ∧ cause = 0x5) ∨
     (c = .activateFirmware ∧ mgmtUp s = true ∧ s.mgmt.written ≠ [] ∧ cause = 0x5)) →
    ∃ t, exec c s = .next t ∧ t.boot.stage = 0x02 ∧ t.boot.cause = cause ∧ t.boot.ready = false ∧ t.boot.fatal = false ∧
      t.ctxs = [] ∧ t.rings = [] ∧ t.admin = none ∧ t.steps = [] ∧ t.sm = {} ∧ t.err = {} ∧ t.ports = [] ∧ t.slory = {} ∧ t.sched = {} ∧
      t.host.up = (s.host.up && decide (c ≠ .perstNAssert ∧ c ≠ .linkReset)) ∧
      (∀ w ∈ t.host.writes, w.lost = true ∧ w.sent = true) ∧ t.pending = s.pending ∧ t.power.capLimit = s.power.capLimit ∧
      t.store = { s.store with slots := t.store.slots, retired := t.store.retired, withdrawn := t.store.withdrawn, writing := [] }) ∧
  (∀ (s : State),
    (∀ c ∈ [Instr.powerLost, Instr.inputOvervoltage], s.boot.powered = true →
      ∃ t, exec c s = .next t ∧ t.boot.powered = false ∧ t.boot.ready = false ∧ t.host.up = false ∧ t.ctxs = [] ∧ t.rings = [] ∧
        t.admin = none ∧ t.steps = [] ∧ t.sm = {} ∧
        t.store = { s.store with slots := t.store.slots, retired := t.store.retired, withdrawn := t.store.withdrawn, writing := [] }) ∧
    (s.boot.powered = false →
      ∃ t, exec .powerGood s = .next t ∧ t.boot.powered = true ∧ t.boot.stage = 0x01 ∧ t.boot.cause = 0x1 ∧ t.boot.cold = true ∧
        t = { s with boot := t.boot }) ∧
    exec .perstNDeassert s = .next { s with boot := { s.boot with perstN := true } })

/-- The boot advances stage by stage: ROM takes loader copy A, or B where A fails, and measures it; LOADER the same of the firmware; FIRMWARE, RECORDS,
INTERLOCK and RAILS each end in the next stage. A ROM or LOADER stage in which no copy passes ends in RECOVERY with FAULT_N asserted.
STACK_TRAIN with every stack trained goes on; MEM_INIT leaves every byte of stacked memory 0 and no line poisoned; SELF_TEST that passes raises the rollback
counter to the floor of the running firmware; IDENTITY makes the identity key usable or device-fatal; READY is reached once both are done, and a
failed self test is fatal. -/
def Obligations.BootAdvancesToReady : Prop :=
  (∀ (s : State), s.boot.powered = true → s.boot.fatal = false → s.boot.perstN = true →
    (s.boot.stage = 0x01 ∨ s.boot.stage = 0x02 → ∀ a b, s.store.loader = [a, b] →
      ∃ t, exec .rom s = .next t ∧
        (a.ok = true → t.boot.stage = 0x03 ∧ t.boot.loaderCopy = 0 ∧ t.boot.loaderMeas = shaBits a.bytes) ∧
        (a.ok = false → b.ok = true → t.boot.stage = 0x03 ∧ t.boot.loaderCopy = 1 ∧ t.boot.loaderMeas = shaBits b.bytes) ∧
        (a.ok = false → b.ok = false → t.boot.stage = 0xE0 ∧ Output.faultN true ∈ t.out)) ∧
    (s.boot.stage = 0x03 → ∀ a b, s.store.firmware = [a, b] →
      ∃ t, exec .loader s = .next t ∧
        (fwOk s a = true → t.boot.stage = 0x04 ∧ t.boot.fwMeas = shaBits a.bytes ∧ t.boot.fwVersion = a.version) ∧
        (fwOk s a = false → fwOk s b = true → t.boot.stage = 0x04 ∧ t.boot.fwMeas = shaBits b.bytes ∧ t.boot.fwVersion = b.version) ∧
        (fwOk s a = false → fwOk s b = false → t.boot.stage = 0xE0 ∧ Output.faultN true ∈ t.out) ∧
        s.store.cfgCounter ≤ t.store.cfgCounter ∧ t.store.fwCounter = s.store.fwCounter) ∧
    (s.boot.stage = 0x04 → exec .firmware s = .next { s with boot := { s.boot with stage := 0x05 } }) ∧
    (s.boot.stage = 0x05 → s.store.badRecords = 0 →
      ∃ t, exec .records s = .next t ∧ t.boot.stage = 0x06 ∧ t.store.bootCounter = satAdd max32 s.store.bootCounter 1 ∧ t.store.summary = []) ∧
    (s.boot.stage = 0x06 → coolantMet s.power = true →
      exec .interlock s = .next { s with boot := { s.boot with stage := if s.boot.railsOn then 0x08 else 0x07 } }) ∧
    (s.boot.stage = 0x06 → s.power.events < 1024 →
      ∃ t, exec .interlockWarning s = .next t ∧ t.power.events.testBit 9 = true ∧ t.boot = s.boot) ∧
    (s.boot.stage = 0x07 → exec .rails s = .next { s with boot := { s.boot with stage := 0x08, railsOn := true } })) ∧
  (∀ (s : State), s.boot.powered = true → s.boot.fatal = false →
    (s.boot.stage = 0x08 → s.store.lostStacks = [] → exec (.stackTrain []) s = .next { s with boot := { s.boot with stage := 0x09 } }) ∧
    (s.boot.stage = 0x09 →
      ∃ t, exec .memInit s = .next t ∧ t.boot.stage = 0x0A ∧ (∀ a, kget 0 t.sm.mem.base a = 0) ∧ t.sm.poison = [] ∧
        (∀ b, (stackOf t b).wc = []) ∧ t.sm.reserved = s.sm.reserved ∧ t = { s with boot := t.boot, sm := t.sm }) ∧
    (s.boot.stage = 0x0A →
      (∃ t, exec (.selfTest true) s = .next t ∧ t.boot.stage = 0x0B ∧ s.store.fwCounter ≤ t.store.fwCounter ∧
        ((s.store.firmware[s.boot.fwCopy]?).getD {}).floor ≤ t.store.fwCounter) ∧
      (∃ t, exec (.selfTest false) s = .next t ∧ t.boot.fatal = true ∧ t.boot.stage = 0xF0)) ∧
    (0x06 ≤ s.boot.stage → s.boot.stage ≤ 0x0B → s.boot.idReady = false →
      exec (.identity true) s = .next { s with boot := { s.boot with idReady := true } } ∧
      ∃ t, exec (.identity false) s = .next t ∧ t.boot.fatal = true) ∧
    (s.boot.stage = 0x0B → s.boot.idReady = true →
      ∃ t, exec .ready s = .next t ∧ t.boot.stage = 0x0C ∧ t.boot.ready = true ∧ t.boot.readyTime = s.clk.uptime))

/-! ### Rings and commands -/


/-- COMMAND_FETCH takes the entry at CMD_HEAD of an eligible ring: a command that passes the checks of R356 enters the ring's list; one whose opcode
is not legal on the ring is answered ST_BAD_OPCODE once it begins, behind commands that are all accepted and long at once; an entry that cannot be read is
skipped and its address logged.
NOP replies ST_OK; FENCE writes out every entry of the context in the write-combining buffers, and replies once every write of the context issued
before it is observed. -/
def Obligations.CommandsAreFetchedAndOrdered : Prop :=
  (∀ (s : State) (r : RingId) (g : Ring) (b : Bytes) (p : HostData), ringOf s r = some g → eligible g = true → ringLive s r = true →
    let c := cmdOf b g.cmdHead.toNat s.clk.uptime
    (s.boot.fatal = false → opLegal r c = true → c.seqNo = g.expSeq.toNat → fieldFault s r c = none → c.paramBytes = 0 →
      ∃ t, exec (.commandFetch r (.ok b) p) s = .next t ∧
        ringOf t r = some { g with cmdHead := g.cmdHead + 1, expSeq := g.expSeq + 1, cmds := g.cmds ++ [c] } ∧
        ∃ w ∈ t.host.writes, s.host.nextId ≤ w.id ∧ w.path = .ctrl ∧ w.addr = g.rcd.ctrlBase) ∧
    (s.boot.fatal = false → opLegal r c = false → c.cfence = false → (∀ k ∈ g.cmds, k.seq ≠ c.seq) →
      let y : Reply := { status := 0x0001, opcode := c.opcode, seq := c.seqNo, ctx := c.concerned r, kind := 1 }
      ((∀ k ∈ g.cmds, k.accepted = true ∧ opLong k.opcode = true ∧ k.held = none) →
        ∃ t, exec (.commandFetch r (.ok b) p) s = .next t ∧ (ringOf t r).map (·.cmds) = some g.cmds ∧
          ∃ w ∈ t.host.writes, w.path = .status ∧ w.ring = some r ∧ w.bytes = replyBytes y) ∧
      ((∃ k ∈ g.cmds, ¬ (k.accepted = true ∧ opLong k.opcode = true)) →
        ∃ t c', exec (.commandFetch r (.ok b) p) s = .next t ∧ (ringOf t r).map (·.cmds) = some (g.cmds ++ [c']) ∧ c'.seq = c.seq ∧
          c'.accepted = false ∧ c'.held = some y)) ∧
    (∀ e, HostData.bytes e = none →
      ∃ t, exec (.commandFetch r e p) s = .next t ∧ (ringOf t r).map (fun g => (g.cmdHead, g.cmds)) = some (g.cmdHead + 1, g.cmds) ∧
        Logged s t 0x0802 r.ctxNo (BitVec.ofNat 128 (g.rcd.cmdBase + 64 * (g.cmdHead.toNat % 2 ^ g.rcd.cmdLog2))))) ∧
  ((∀ (s : State) (r : RingId) (c : Cmd), Current s r 0x0001 c → ∃ t, exec (.nop r) s = .next t ∧ Ended s t r c 0 0 ∧ t.steps = s.steps) ∧
  (∀ (s : State) (n : Nat) (k : Ctx) (c : Cmd), Current s (.ctx n) 0x0080 c → ctxOf s n = some k → s.sm.poison = [] →
    (∀ g, ringOf s (.ctx n) = some g → ∀ k ∈ g.cmds, k.held = none) →
    ∃ t, exec (.fence (.ctx n) []) s = .next t ∧ t.steps = s.steps ∧ t.sm.mem = s.sm.mem ∧
      (∀ b < 8, ∀ e ∈ (stackOf t b).wc, e.ctx ≠ n) ∧
      (writesOpen s (some n) s.host.nextId = false → Ended s t (.ctx n) c 0 0) ∧
      (writesOpen s (some n) s.host.nextId = true →
        ∃ g c', ringOf t (.ctx n) = some g ∧ g.cmd c.seq = some c' ∧ c'.upTo = some s.host.nextId ∧ (c'.held.map (·.status)) = some 0)))

/-- CTX_CREATE that passes its checks makes the context with the frames it asked for, none of them reserved, withdrawn or spare, gives it a ring with every
position 0, and replies its tag; CTX_QUERY writes the record of 256 bytes where the buffer lies; GROUP_SET replaces the group. -/
def Obligations.ContextCommandsTakeEffect : Prop :=
  (∀ (s : State) (c : Cmd) (lists : List HostData) (ws : List Window) (fs : List Nat),
    Current s .admin 0x0010 c → ctxOf s (c.fld 295 288) = none → (∀ q ∈ s.ctxs, q.2.tag.toNat ≠ c.fld 351 320) →
    ringFault c.param (allSpans s) (allPages s) = none →
    readWindows s c.param (ringSpans (ringRecOf c.param) ++ allSpans s) (c.fld 391 384) lists [] = .good ws →
    total (ws.map (·.pages.length)) ≤ 65536 → total (ws.map (·.pages.length)) + (allPages s).length ≤ 524288 →
    claimsFault false (c.fld 383 352) c.param (32 + 32 * ws.length) (c.fld 407 392) [] = none → newFrames s (c.fld 383 352) = some fs →
    ∃ t k, exec (.ctxCreate .admin lists) s = .next t ∧ ctxOf t (c.fld 295 288) = some k ∧
      k.frames = fs ∧ fs.length = c.fld 383 352 ∧ (∀ f ∈ fs, f < 130048 ∧ f ∉ s.sm.reserved ∧ f ∉ s.store.withdrawn) ∧
      k.windows = ws ∧ k.tag.toNat = c.fld 351 320 ∧ k.service = .stopped ∧ k.images = [] ∧ k.pageMap = [] ∧
      ringOf t (.ctx (c.fld 295 288)) = some { rcd := ringRecOf c.param } ∧ t.sm.reserved = s.sm.reserved ++ fs ∧
      Ended s t .admin c 0 (c.fld 351 320)) ∧
  (∀ (s : State) (n : Nat) (k : Ctx) (c : Cmd), Current s (.ctx n) 0x0012 c → ctxOf s n = some k → 256 ≤ c.resultBytes → c.resultAddr % 64 = 0 →
    ∃ t, exec (.ctxQuery (.ctx n)) s = .next t ∧ Ended s t (.ctx n) c 0 0 ∧ t.steps = s.steps ∧ t.sm = s.sm ∧
      ResultWritten s t (fun o => hostAddr k (c.resultAddr + o)) (queryBytes s n k)) ∧
  (∀ (s : State) (n : Nat) (k : Ctx) (c : Cmd) (nd : NodeRec), Current s (.ctx n) 0x00B1 c → ctxOf s n = some k → ctxBusy s n = false →
    groupFault c = none → s.slory.node = some nd → nd.node ∈ groupMembers c →
    ∃ t k', exec (.groupSet (.ctx n)) s = .next t ∧ Ended s t (.ctx n) c 0 0 ∧ ctxOf t n = some k' ∧ k'.group = groupMembers c ∧
      k' = { k with group := k'.group, energy := k'.energy })

/-- CTX_DESTROY leaves the context no step but those that have committed, no load and nothing pending, and marks it as ending or removes it; once no step of it
is left, a UNIT_SCRUB zeroes a pier of it, and command work zeroes its frames one after another. -/
def Obligations.ContextDestructionScrubs : Prop :=
  (∀ (s : State) (c : Cmd) (k : Ctx), Current s .admin 0x0011 c → ctxOf s (c.fld 295 288) = some k → k.destroying = none →
    ∃ t, exec (.ctxDestroy .admin) s = .next t ∧ (∀ x ∈ t.steps, x.ctx = c.fld 295 288 → x.state = .committed) ∧
      (∀ k', ctxOf t (c.fld 295 288) = some k' → k'.destroying = some c.seq ∧ k'.load = none ∧ k'.pendingTensors = []) ∧
      (ctxOf t (c.fld 295 288) = none → ringOf t (.ctx (c.fld 295 288)) = none)) ∧
  (∀ (s : State) (n p : Nat) (k : Ctx) (q : Nat), ctxOf s n = some k → k.destroying = some q → k.scrubFrames = [] → p ∈ k.scrubUnits →
    (∀ x ∈ s.steps, x.ctx ≠ n) → unitClaimed s (.pier p) = false →
    ∃ t, exec (.unitScrub n (.pier p)) s = .next t ∧ t.sm.mem = s.sm.mem ∧ t.pm.loc = s.pm.loc ∧
      (∀ a, 262144 * p ≤ a → a < 262144 * (p + 1) → kget 0 t.pm.tile.base a = 0) ∧
      (∀ a, a < 262144 * p ∨ 262144 * (p + 1) ≤ a → kget 0 t.pm.tile.base a = kget 0 s.pm.tile.base a) ∧
      (∀ a, 262144 * p ≤ a → a < 262144 * (p + 1) → kget 0 t.pm.feeder.base a = 0) ∧
      (∀ a, 16384 * p ≤ a → a < 16384 * (p + 1) → kget 0 t.pm.bank.base a = 0) ∧
      (∀ k', ctxOf t n = some k' → k'.scrubUnits = k.scrubUnits.erase p)) ∧
  (∀ (s : State) (c : Cmd) (n f : Nat) (fs : List Nat) (k : Ctx) (host : List HostData), ((ringOf s .admin).bind fun g => g.cmd c.seq) = some c → c.accepted = true →
    c.opcode = 0x0011 → (s.ctxs.find? fun q => decide (q.2.destroying = some c.seq)) = some (n, k) → k.scrubFrames = f :: fs → s.store.retired = [] →
    (∀ x ∈ s.steps, x.ctx ≠ n) → (∀ b < 8, higherWork s b 5 = false) →
    ∃ t, exec (.commandWorkAccess .admin c.seq host) s = .next t ∧
      (∀ a, f * 2097152 ≤ a → a < (f + 1) * 2097152 → kget 0 t.sm.mem.base a = 0) ∧
      (∀ a, a < f * 2097152 ∨ (f + 1) * 2097152 ≤ a → kget 0 t.sm.mem.base a = kget 0 s.sm.mem.base a) ∧
      (∀ cw ∈ t.sm.poison, cw / 65536 ≠ f) ∧ (∀ k', ctxOf t n = some k' → k'.scrubFrames = fs))

/-- SCHED_LOAD that passes its checks puts the image into its slot and is accepted, and replies with the reserved duration when command work has placed it;
SCHED_UNLOAD empties a slot that no step uses. -/
def Obligations.ScheduleImagesLoadAndUnload : Prop :=
  (∀ (s : State) (n : Nat) (k : Ctx) (c : Cmd) (b : Bytes) (im : Image), Current s (.ctx n) 0x0020 c → ctxOf s n = some k →
    kfind k.images (c.fld 291 288) = none → inGeneral k false (c.fld 383 320) (leAt b 8 4) = true → imageFault b s k (loadedBinds k) = none →
    im = withUses b k (withNulls (imageIn b)) (ownNode s) → firstExcess k.grants (imageClaims im) = none → reservedClash s im = none →
    k.drawn + (newPages k (dataPages im (usesIn b (directory b) im (ownNode s)))).length + imageFrames im ≤ k.frames.length →
    ∃ t k' g c', exec (.schedLoad (.ctx n) (.ok b)) s = .next t ∧ ctxOf t n = some k' ∧
      kfind k'.images (c.fld 291 288) = some { im with frames := imageFrames im } ∧ k'.frames = k.frames ∧
      ringOf t (.ctx n) = some g ∧ g.cmd c.seq = some c' ∧ c'.accepted = true ∧ c'.held = none ∧ t.steps = s.steps ∧ t.sm = s.sm) ∧
  (∀ (s : State) (n : Nat) (k : Ctx) (c : Cmd) (img : Image) (host : List HostData), ctxOf s n = some k →
    ((ringOf s (.ctx n)).bind fun g => g.cmd c.seq) = some c → c.accepted = true → c.opcode = 0x0020 → kfind k.images (c.fld 291 288) = some img →
    img.placed = false → (img.binds.filter (hostFilled img)).length ≤ host.length → (∀ h ∈ host, (HostData.bytes h).isSome = true) →
    (∀ b < 8, higherWork s b 5 = false) →
    ∃ t k' img', exec (.commandWorkAccess (.ctx n) c.seq host) s = .next t ∧ Ended s t (.ctx n) c 0 (32 + img.length + img.finalSlack) ∧
      ctxOf t n = some k' ∧ kfind k'.images (c.fld 291 288) = some img' ∧ img'.placed = true ∧ t.sm = s.sm) ∧
  (∀ (s : State) (n : Nat) (k : Ctx) (c : Cmd) (img : Image), Current s (.ctx n) 0x0021 c → ctxOf s n = some k →
    kfind k.images (c.fld 291 288) = some img → img.placed = true → (∀ x ∈ s.steps, x.ctx = n → x.slot ≠ c.fld 291 288) →
    ∃ t k', exec (.schedUnload (.ctx n)) s = .next t ∧ Ended s t (.ctx n) c 0 0 ∧ ctxOf t n = some k' ∧
      kfind k'.images (c.fld 291 288) = none ∧ (∀ j, j ≠ c.fld 291 288 → kfind k'.images j = kfind k.images j) ∧ t.sm = s.sm)

/-- STEP_RUN that passes its checks queues a step behind those of the module with its bindings, its number and its result buffer; STEP_KILL ends the
step of its TARGET that has not reached its commit or vote point, whose STEP_RUN is answered ST_KILLED. -/
def Obligations.StepsAreQueuedAndKilled : Prop :=
  (∀ (s : State) (n : Nat) (k : Ctx) (c : Cmd) (img : Image), Current s (.ctx n) 0x0040 c → ctxOf s n = some k →
    loadedImage k (c.fld 291 288) = some img → img.spoiled = false → stepRunFault s k c img = none →
    ∃ t x g c', exec (.stepRun (.ctx n)) s = .next t ∧ t.steps = s.steps ++ [x] ∧ x.state = .queued ∧ x.ctx = n ∧ x.slot = c.fld 291 288 ∧
      x.number = c.fld 351 320 ∧ x.bindings = bindingList c ∧ x.resultAddr = c.resultAddr ∧ x.resultBytes = c.resultBytes ∧ x.attempt = 0 ∧
      x.id = s.sched.nextStep ∧ t.sched.nextStep = s.sched.nextStep + 1 ∧ ringOf t (.ctx n) = some g ∧ g.cmd c.seq = some c' ∧ c'.accepted = true) ∧
  (∀ (s : State) (n : Nat) (k : Ctx) (c q : Cmd) (x : Step) (g : Ring), Current s (.ctx n) 0x0041 c → ctxOf s n = some k → ringOf s (.ctx n) = some g →
    c.fld 320 320 = 0 → stepOf s x.id = some x → x.ctx = n → g.cmd x.seq = some q → q.seqNo = c.fld 319 288 → x.seq ≠ c.seq →
    (∀ y ∈ s.steps, y.ctx = n → y.id ≠ x.id → (g.cmd y.seq).map Cmd.seqNo ≠ some (c.fld 319 288)) →
    x.state ≠ .committed → x.state ≠ .hold → pastCommit s x = false → s.sched.owing = [] → s.sched.follows = [] → q.opcode = 0x0040 → q.cfence = false →
    ∃ t, exec (.stepKill (.ctx n)) s = .next t ∧ stepOf t x.id = none ∧ (∀ i, i ≠ x.id → stepOf t i = stepOf s i) ∧
      Ended s t (.ctx n) c 0 0 ∧ ∃ w ∈ t.host.writes, s.host.nextId ≤ w.id ∧ w.path = .status ∧
        w.bytes = replyBytes { stepReply (x.ended stKilled) { status := stKilled } with opcode := q.opcode, seq := q.seqNo, ctx := some n })

/-! ### The timetable and admission -/

/-- TIMETABLE_SET puts a table in force at once, its first period beginning with the next tick, where none is, and otherwise has it wait for the period
boundary, which puts it in force one period after the last origin and ends every active slot. -/
def Obligations.TimetableChangesAtBoundaries : Prop :=
  (∀ (s : State) (c : Cmd), Current s .admin 0x0030 c → c.fld 330 320 ≠ 0 →
    tableSetFault s (c.fld 319 288) [] ((List.range (c.fld 330 320)).map (slotEntAt c.param)) = none →
    ∃ t, exec (.timetableSet .admin) s = .next t ∧ Ended s t .admin c 0 0 ∧
      (s.sched.table = none → t.sched.table = some ⟨c.fld 319 288, (List.range (c.fld 330 320)).map (slotEntAt c.param)⟩ ∧
        t.sched.origin = s.clk.uptime + 1 ∧ t.sched.active = []) ∧
      (s.sched.table ≠ none → t.sched.table = s.sched.table ∧
        t.sched.waiting = some (some ⟨c.fld 319 288, (List.range (c.fld 330 320)).map (slotEntAt c.param)⟩))) ∧
  (∀ (s : State) (c : Cmd), Current s .admin 0x0030 c → c.fld 330 320 = 0 →
    ∃ t, exec (.timetableSet .admin) s = .next t ∧ Ended s t .admin c 0 0 ∧ (s.sched.table ≠ none → t.sched.waiting = some none)) ∧
  (∀ (s : State) (tb : TimeTab), s.sched.table = some tb →
    ∃ t, exec .periodBoundary s = .next t ∧ t.sched.origin = s.sched.origin + tb.period ∧ t.sched.table = s.sched.waiting.getD (some tb) ∧
      t.sched.waiting = none ∧ t.sched.active = [] ∧ t.sched.owing = [] ∧ t.steps = s.steps)

/-- A slot that begins admits its owner's oldest queued step, after it has put the best-effort step in its way back into the queue, and a slot that ends counts
the owner's real-time steps that are still before their commit point.
Between slots the context whose turn it is has its oldest queued step admitted as best effort; a bubble of a real-time step whose slot lends lends the bubble's
claims to a step that fits in it. -/
def Obligations.StepsAreAdmitted : Prop :=
  ((∀ (s : State) (i : Nat) (e : SlotEnt) (x : Step) (img : Image) (c : Ctx), slotAt s i = some e → i ∉ s.sched.active → slotVictims s = [] →
    admissible { s with sched := { s.sched with active := s.sched.active ++ [i] } } e.owner none = some (x, img, c) → thinOk c img = true →
    ∃ t y, exec (.slotStart i) s = .next t ∧ i ∈ t.sched.active ∧ stepOf t x.id = some y ∧ y.state = .admitted ∧ y.kind = .realTime ∧
      y.admitted = s.clk.uptime ∧ (∀ j, j ≠ x.id → stepOf t j = stepOf s j)) ∧
  (∀ (s : State) (i : Nat) (e : SlotEnt) (x : Step) (k : Ctx), slotAt s i = some e → i ∉ s.sched.active → slotVictims s = [x] →
    headStep s e.owner = none → (∀ img, imageOf s x = some img → finalLate img x = none) → e.owner ≠ x.ctx → ctxOf s x.ctx = some k →
    ∃ t y k', exec (.slotStart i) s = .next t ∧ i ∈ t.sched.active ∧ stepOf t x.id = some y ∧ y.state = .queued ∧ y.rerun = true ∧
      y.attempt = x.attempt ∧ y.units = [] ∧ ctxOf t x.ctx = some k' ∧ k'.ttKills = satAdd max32 k.ttKills 1) ∧
  (∀ (s : State) (i : Nat) (e : SlotEnt) (k : Ctx), i ∈ s.sched.active → slotAt s i = some e → ctxOf s e.owner = some k →
    ∃ t k', exec (.slotEnd i) s = .next t ∧ i ∉ t.sched.active ∧ t.steps = s.steps ∧ ctxOf t e.owner = some k' ∧
      k'.overruns = satAdd max32 k.overruns (s.steps.filter fun x => x.state.live &&
        decide (x.ctx = e.owner ∧ x.kind = .realTime ∧ s.sched.origin + e.start ≤ x.admitted)).length)) ∧
  ((∀ (s : State) (n : Nat) (x : Step) (img : Image) (c : Ctx), inSlot s = false → nextBestEffort s = some (n, x, img, c) → thinOk c img = true →
    ∃ t y, exec .bestEffortAdmission s = .next t ∧ stepOf t x.id = some y ∧ y.state = .admitted ∧ y.kind = .bestEffort ∧
      t.sched.lastCtx = n ∧ (∀ j, j ≠ x.id → stepOf t j = stepOf s j)) ∧
  (∀ (s : State) (st bub n : Nat) (y x : Step) (img m : Image) (c : Ctx) (tm : Timing) (i : Nat) (e : SlotEnt),
    stepOf s st = some y → y.state = .running → imageOf s y = some img → bubbleOf img bub = some tm → admissible s n (some st) = some (x, m, c) →
    y.kind = .realTime → i ∈ s.sched.active → slotAt s i = some e → e.owner = y.ctx → e.lend = true → n ≠ y.ctx → bub ∉ y.lent →
    32 + m.length + m.finalSlack ≤ tm.arg1 → (m.claims.headD []).all (granted (img.claims.getD tm.arg2 [])) = true → thinOk c m = true →
    ∃ t z, exec (.bubble st bub n) s = .next t ∧ stepOf t x.id = some z ∧ z.state = .admitted ∧ z.kind = .lent ∧ z.lender = some st))

/-! ### A step from preamble to release -/


/-- PREAMBLE_START fixes image cycle 0 at 32 cycles on; PREAMBLE_END sets the step running; PHASE begins the next PHASE entry of a unit whose offset is
within its limit; WAIT passes once what it waits for has arrived, runs the lowest unused fill segment while it is absent, and with none left passes with the
step marked as waiting where it waits for the fabric.
A unit beyond its limit fails the step: a step of one module whose final slack is exceeded, or whose unit begins a PHASE entry with an offset above the entry's
limit, ends, and its STEP_RUN is answered ST_CONTRACT_SLIP with the unit and the phase. -/
def Obligations.StepsProgressOrSlip : Prop :=
  ((∀ (s : State) (st : Nat) (x : Step), stepOf s st = some x → x.state = .admitted → x.start = 0 →
    ∃ t y, exec (.preambleStart st) s = .next t ∧ stepOf t st = some y ∧ y = { x with start := s.clk.cycles + 32 } ∧ OnlySteps s t) ∧
  (∀ (s : State) (st : Nat) (x : Step) (img : Image), stepOf s st = some x → x.state = .admitted → x.start ≠ 0 → imageOf s x = some img →
    ∃ t y, exec (.preambleEnd st) s = .next t ∧ stepOf t st = some y ∧ y = { x with state := .running } ∧
      (∀ i, i ≠ st → stepOf t i = stepOf s i)) ∧
  (∀ (s : State) (st m : Nat) (u : UnitRef) (es : List (Nat × Nat)) (x : Step) (img : Image) (tm : Timing) (cyc : Nat),
    stepOf s st = some x → x.state = .running → imageOf s x = some img → (img.phases)[m]? = some tm → nextCycle img x u.key = some cyc →
    (x.unit u.key).phase = m → tm.cycle ≤ cyc → offsetOf img x u.key ≤ tm.arg1 →
    ∃ t y, exec (.phase st u m es) s = .next t ∧ stepOf t st = some y ∧ y.unit u.key = { x.unit u.key with phase := m + 1 } ∧
      (∀ k, k ≠ u.key → y.unit k = x.unit k) ∧ t.sm = s.sm ∧ t.pm = s.pm) ∧
  (∀ (s : State) (st w : Nat) (x : Step) (img : Image) (c : Ctx) (tm : Timing), stepOf s st = some x → x.state = .running → imageOf s x = some img →
    ctxOf s x.ctx = some c → waitOf img w = some tm → w ∉ x.waits → (∀ q ∈ x.usedSegs, q.1 = w → segmentRun img x q = true) →
    (waitArrived c img x tm = true →
      ∃ t y, exec (.wait st w) s = .next t ∧ stepOf t st = some y ∧ y = { x with waits := x.waits ++ [w] } ∧ OnlySteps s t) ∧
    (∀ g, waitArrived c img x tm = false → ((segsOf img w).find? fun g => !x.usedSegs.contains (w, g.arg2)) = some g →
      ∃ t y, exec (.wait st w) s = .next t ∧ stepOf t st = some y ∧ y = { x with usedSegs := x.usedSegs ++ [(w, g.arg2)] } ∧ OnlySteps s t) ∧
    (waitArrived c img x tm = false → ((segsOf img w).find? fun g => !x.usedSegs.contains (w, g.arg2)) = none →
      ∃ t y, exec (.wait st w) s = .next t ∧ stepOf t st = some y ∧
        y = { x with waits := x.waits ++ [w], waiting := x.waiting || awaitsTotal c img tm || fromFabric img tm.arg1 }))) ∧
  (∀ (s : State) (st : Nat) (u : UnitRef) (x : Step) (img : Image) (g : Ring) (q : Cmd), stepOf s st = some x → x.state = .running → imageOf s x = some img →
    img.multi = false → ringOf s (.ctx x.ctx) = some g → g.cmd x.seq = some q → q.opcode = 0x0040 → q.cfence = false → s.sched.owing = [] → s.sched.follows = [] →
    ∀ c ph, ((∃ k, nextCycle img x u.key = some k ∧ img.finalSlack < offsetOf img x u.key ∧ c = .finalSlackExceeded st u ∧ ph = 0xFFFF) ∨
        (∃ m tm k es, (img.phases)[m]? = some tm ∧ nextCycle img x u.key = some k ∧ (x.unit u.key).phase = m ∧ tm.cycle ≤ k ∧
          tm.arg1 < offsetOf img x u.key ∧ c = .phase st u m es ∧ ph = tm.id)) →
      ∃ t, exec c s = .next t ∧ stepOf t st = none ∧ ∃ w ∈ t.host.writes, s.host.nextId ≤ w.id ∧ w.path = .status ∧
        w.bytes = replyBytes { stepReply (x.ended 0x0009) { status := 0x0009, kind := 3, detail0 := u.detail + ph * 65536 } with
          opcode := q.opcode, seq := q.seqNo, ctx := some x.ctx })

/-- COMMIT_POINT of a staged step of one module whose flags trap nothing and whose output has landed commits it: what it wrote on the dies and in stacked
memory is what any later step reads, and its context counts what it dropped. A flag that the trap mask names ends the step instead. RELEASE_COMPLETE ends a
committed step that has nothing left to release, and its STEP_RUN is answered ST_OK with COMMITTED. -/
def Obligations.CommitMakesWritesStand : Prop :=
  (∀ (s : State) (st : Nat) (es : List (Nat × Nat)) (x : Step) (img : Image) (c : Ctx), stepOf s st = some x → x.state = .staged →
    imageOf s x = some img → ctxOf s x.ctx = some c → img.multi = false → (x.kind = .realTime → s.sched.active = []) → s.sched.owing = [] → s.sched.follows = [] →
    gatherPending img x = false → allLanded img x = true → shadowsOpen s x.ctx = false → flagSummary x &&& c.trapMask = 0 →
    ∃ t y k, exec (.commitPoint st es) s = .next t ∧ stepOf t st = some y ∧ y.state = .committed ∧ ctxOf t x.ctx = some k ∧
      k.droppedPairs = x.dropped ∧ k.spilledPairs = x.spilled ∧
      (∀ i, i ≠ st → stepOf t i = stepOf s i) ∧
      (∀ a, (∃ w ∈ s.sm.mem.log, w.step = st ∧ w.addr = a ∧ 0 < w.cycle) → kget 0 t.sm.mem.base a = vfinal 0 s.sm.mem st a) ∧
      (∀ a, (∀ w ∈ s.sm.mem.log, w.step = st → w.addr = a → w.cycle = 0) → kget 0 t.sm.mem.base a = kget 0 s.sm.mem.base a) ∧
      (∀ a, (∃ w ∈ s.pm.tile.log, w.step = st ∧ w.addr = a ∧ 0 < w.cycle) → kget 0 t.pm.tile.base a = vfinal 0 s.pm.tile st a) ∧
      (∀ w ∈ t.sm.mem.log, w.step ≠ st)) ∧
  (∀ (s : State) (st : Nat) (es : List (Nat × Nat)) (x : Step) (img : Image) (c : Ctx), stepOf s st = some x → x.state = .staged →
    imageOf s x = some img → ctxOf s x.ctx = some c → img.multi = false → s.sched.owing = [] → s.sched.follows = [] → gatherPending img x = false → allLanded img x = true → shadowsOpen s x.ctx = false →
    flagSummary x &&& c.trapMask ≠ 0 →
    ∃ t, exec (.commitPoint st es) s = .next t ∧ stepOf t st = none ∧ (∀ w ∈ t.pm.tile.log, w.step ≠ st) ∧ t.pm.tile.base = s.pm.tile.base) ∧
  (∀ (s : State) (st : Nat) (x : Step) (c : Ctx) (g : Ring) (q : Cmd), stepOf s st = some x → x.state = .committed → ctxOf s x.ctx = some c →
    c.sender = none → x.staged = [] → s.sched.owing = [] → s.sched.follows = [] → ringOf s (.ctx x.ctx) = some g → g.cmd x.seq = some q → q.opcode = 0x0040 → q.cfence = false →
    ∃ t, exec (.releaseComplete st [] false) s = .next t ∧ stepOf t st = none ∧
      ∃ w ∈ t.host.writes, s.host.nextId ≤ w.id ∧ w.path = .status ∧
        w.bytes = replyBytes { stepReply x { status := 0, committed := true } with opcode := q.opcode, seq := q.seqNo, ctx := some x.ctx })

/-! ### Weights and the model store -/

/-- SERVICE_STOP moves a running service to STOPPED when no step of the context is left, and to STOPPING while one is, with DRAIN 0 after it has ended every queued
step but those that wait to be re-run; SERVICE_START sets a stopped service running whose tensors are all loaded; WEIGHTS_SWAP with a pending copy stops the service and waits, and POINTER_SWITCH ends the wait with no copy pending, advances the load
generation and replies with it. -/
def Obligations.ServiceStopsSwapsAndStarts : Prop :=
  (∀ (s : State) (n : Nat) (k : Ctx) (c : Cmd), Current s (.ctx n) 0x0052 c → ctxOf s n = some k → k.service = .running → c.desc.getLsbD 288 = true →
    ∃ t k', exec (.serviceStop (.ctx n)) s = .next t ∧ Ended s t (.ctx n) c 0 0 ∧ ctxOf t n = some k' ∧ t.steps = s.steps ∧
      k'.service = (if s.steps.any fun y => decide (y.ctx = n) then .stopping else .stopped)) ∧
  (∀ (s : State) (n : Nat) (k : Ctx) (c : Cmd), Current s (.ctx n) 0x0052 c → ctxOf s n = some k → k.service = .running → c.desc.getLsbD 288 = false →
    (∀ x ∈ s.steps, x.ctx = n → x.state = .queued → x.seq ≠ c.seq) → (s.steps.map (·.id)).Nodup →
    ∃ t k', exec (.serviceStop (.ctx n)) s = .next t ∧ Ended s t (.ctx n) c 0 0 ∧ ctxOf t n = some k' ∧
      (∀ x, x ∈ t.steps ↔ x ∈ s.steps ∧ ¬ (x.ctx = n ∧ x.state = .queued ∧ x.rerun = false)) ∧
      k'.service = (if t.steps.any fun y => decide (y.ctx = n) then .stopping else .stopped)) ∧
  (∀ (s : State) (n : Nat) (k : Ctx) (c : Cmd), Current s (.ctx n) 0x0053 c → ctxOf s n = some k → k.service = .stopped → k.swapWait = none →
    (∀ t ∈ k.tensors, t.loaded = true) → (∀ j, k.load = some j → j.direct = false) → slowOpen s (some n) s.host.nextId = false →
    ∃ t k', exec (.serviceStart (.ctx n)) s = .next t ∧ Ended s t (.ctx n) c 0 0 ∧ ctxOf t n = some k' ∧ k'.service = .running) ∧
  (∀ (s : State) (n : Nat) (k : Ctx) (c : Cmd), Current s (.ctx n) 0x0051 c → ctxOf s n = some k → k.service = .running → k.swapWait = none →
    k.pendingTensors ≠ [] → (∀ x ∈ s.steps, x.ctx ≠ n) →
    ∃ t k' g c', exec (.weightsSwap (.ctx n)) s = .next t ∧ ctxOf t n = some k' ∧ k'.service = .stopped ∧ (k'.swapWait.map (·.1)) = some c.seq ∧
      k'.pendingTensors = k.pendingTensors ∧ ringOf t (.ctx n) = some g ∧ g.cmd c.seq = some c' ∧ c'.accepted = true) ∧
  (∀ (s : State) (n : Nat) (k : Ctx) (q : Cmd) (g : Ring) (d : Bool), ctxOf s n = some k → k.swapWait = some (q.seq, d) → k.service = .stopped → ctxBusy s n = false →
    ringOf s (.ctx n) = some g → g.cmd q.seq = some q → q.opcode = 0x0051 → k.sender = none →
    ∃ t k', exec (.pointerSwitch n) s = .next t ∧ ctxOf t n = some k' ∧ k'.swapWait = none ∧ k'.pendingTensors = [] ∧ k'.loadGen = k.loadGen + 1 ∧
      Ended s t (.ctx n) q 0 (k.loadGen + 1).toNat)

/-- WEIGHTS_LOAD into the store empties the slot, and with a trusted image that fits begins the installation by reading its first block; into a context it starts a load from
a trusted slot whose records pass their checks; neither changes what the other slots hold.
An installation writes copy A, then copy B, then the directory entry, after which both copies are valid; a repair makes the two copies of a slot, or of one
block, agree; a load takes a good block, retries a bad one from the other copy, and reports the block that both copies have lost. -/
def Obligations.StoreTransfersComplete : Prop :=
  ((∀ (s : State) (c : Cmd) (h : Bytes), Current s .admin 0x0050 c → (kget {} s.store.slots (c.fld 295 292)).busy = false →
    (kget {} s.store.slots (c.fld 295 292)).repair = false → slotRead s (c.fld 295 292) = false → storeImageFault h = none → imageTrusted s h = true →
    extentsUsed s (c.fld 295 292) + 2 * ceilDiv (imgBytes h) (2 ^ 30) ≤ 4032 → imgBlocks h ≠ 0 →
    ∃ t, exec (.weightsLoad .admin (.ok h)) s = .next t ∧ kget {} t.store.slots (c.fld 295 292) = { a := { head := h }, busy := true } ∧
      (∀ i, i ≠ c.fld 295 292 → kget {} t.store.slots i = kget {} s.store.slots i) ∧
      ∃ rd ∈ t.host.reads, rd.owner = .install (c.fld 295 292) 0 ∧ rd.addr = c.fld 415 352 + imgData h) ∧
  (∀ (s : State) (n : Nat) (k : Ctx) (c : Cmd) (h : Bytes) (hd : HostData), Current s (.ctx n) 0x0050 c → ctxOf s n = some k → c.fld 290 289 = 0 →
    (kget {} s.store.slots (c.fld 295 292)).a.valid = true → (kget {} s.store.slots (c.fld 295 292)).a.head = h →
    (kget {} s.store.slots (c.fld 295 292)).damaged = false → (kget {} s.store.slots (c.fld 295 292)).busy = false →
    (kget {} s.store.slots (c.fld 295 292)).repair = false →
    ((List.range (loadRecords c.param (c.fld 335 320)).length).findSome? (recordFault k c.param 0 (loadRecords c.param (c.fld 335 320)))) = none →
    storeImageFault h = none → imageTrusted s h = true → recordsImageFault k h (loadRecords c.param (c.fld 335 320)) = none →
    baseFault s h (loadRecords c.param (c.fld 335 320)) = none → k.load = none →
    c.desc.getLsbD 291 = true → k.service = .stopped → k.drawn ≤ k.frames.length →
    ∃ t k' j, exec (.weightsLoad (.ctx n) hd) s = .next t ∧ ctxOf t n = some k' ∧ k'.load = some j ∧ j.direct = true ∧ j.head = h ∧ j.seq = c.seq ∧
      (∀ q ∈ k'.tensors, (loadRecords c.param (c.fld 335 320)).any (fun r => decide (r.1 = q.num)) = true → q.loaded = false) ∧
      t.store = s.store ∧ t.steps = s.steps)) ∧
  ((∀ (s : State) (i slot : Nat) (cmd : Option (RingId × Nat)), s.store.writing[i]? = some (.copyA slot cmd) →
    ∃ t, exec (.storeWriteCompletion i) s = .next t ∧ t.store.writing = s.store.writing.eraseIdx i ++ [.copyB slot cmd] ∧
      (kget {} t.store.slots slot).b = { (kget {} s.store.slots slot).a with valid := false }) ∧
  (∀ (s : State) (i slot : Nat) (cmd : Option (RingId × Nat)), s.store.writing[i]? = some (.copyB slot cmd) →
    exec (.storeWriteCompletion i) s = .next { s with store := { s.store with writing := s.store.writing.eraseIdx i ++ [.directory slot cmd] } }) ∧
  (∀ (s : State) (i slot : Nat), s.store.writing[i]? = some (.directory slot none) →
    ∃ t, exec (.storeWriteCompletion i) s = .next t ∧ (kget {} t.store.slots slot).a.valid = true ∧ (kget {} t.store.slots slot).b.valid = true ∧
      (kget {} t.store.slots slot).busy = false ∧ t.store.writing = s.store.writing.eraseIdx i) ∧
  (∀ (s : State) (i slot : Nat), s.store.writing[i]? = some (.repairSlot slot) →
    ∃ t, exec (.storeWriteCompletion i) s = .next t ∧ (kget {} t.store.slots slot).repair = false ∧
      (kget {} t.store.slots slot).a = (kget {} t.store.slots slot).b ∧
      (kget {} t.store.slots slot).a = (if (kget {} s.store.slots slot).a.valid then (kget {} s.store.slots slot).a else (kget {} s.store.slots slot).b) ∧
      t = { s with store := { s.store with slots := t.store.slots, writing := s.store.writing.eraseIdx i } }) ∧
  (∀ (s : State) (i slot blk : Nat) (toB : Bool) (b : Bytes), s.store.writing[i]? = some (.repairBlock slot blk toB) →
    kfind ((kget {} s.store.slots slot).copy !toB).blocks blk = some b →
    ∃ t, exec (.storeWriteCompletion i) s = .next t ∧ kfind ((kget {} t.store.slots slot).copy toB).blocks blk = some b ∧
      (kget {} t.store.slots slot).copy (!toB) = (kget {} s.store.slots slot).copy !toB ∧
      t = { s with store := { s.store with slots := t.store.slots, writing := s.store.writing.eraseIdx i } }) ∧
  (∀ (s : State) (n blk : Nat) (c : Ctx) (j : LoadJob), ctxOf s n = some c → c.load = some j → j.source = 0 → blk < baseFrom → j.nextBlock c = some blk → j.receivers = [] →
    blk ∉ j.retry → (kget {} s.store.slots j.slot).a.valid = true →
    (∀ b, kget [] (kget {} s.store.slots j.slot).a.blocks blk = b → blockTrusted j.head blk b = true →
      ∃ t k l, exec (.storeReadCompletion n blk true) s = .next t ∧ ctxOf t n = some k ∧ k.load = some l ∧ kfind l.blocks blk = some b) ∧
    ((kget {} s.store.slots j.slot).b.valid = true →
      exec (.storeReadCompletion n blk false) s = .next (setCtx s n { c with load := some { j with retry := j.retry ++ [blk] } })) ∧
    ((kget {} s.store.slots j.slot).b.valid = false →
      ∃ t k, exec (.storeReadCompletion n blk false) s = .next t ∧ ctxOf t n = some k ∧ k.load = none ∧
        (kget {} t.store.slots j.slot).damaged = true ∧ Logged s t 0x0502 (some n) (BitVec.ofNat 128 blk))))

/-! ### Keystones, optimiser state and checkpoints -/


/-- ACCEPT puts the gradient words of its blocks into the step's gradient buffer and, where the context clips or skips, adds the squares of each block to
the keystone's sum. UPDATE and UPDATE_LIST apply the group's rule to every block: the new master and moments stand in the slots that are not live, the
live ones keep theirs, and a step that S skips changes nothing of its context. -/
def Obligations.KeystoneEntriesUpdateShadows : Prop :=
  (∀ (s : State) (st b stall : Nat) (x : Step) (img : Image) (c : Ctx) (u : UnitSt) (k : KeyIns) (tn : Tensor) (qs : List (Nat × Nat × List (Nat × Nat))),
    KeystoneTurn s st b x img c u k → OnTime img x u k.cycle stall → k.kop = 1 → tensorOf c k.tensor = some tn → entryBlocks s img x tn k = some qs →
    (qs.map (·.1)).Nodup →
    ∃ t y, exec (.accept st b stall) s = .next t ∧ Issued s t st (2300 + b) stall 0 x u y ∧ OnlySteps s t ∧
      (∀ q ∈ qs, ∀ e < 64, kget 0 y.gradBuf (masterKey false k.tensor q.1 e) = BitVec.ofNat 32 (q.2.2.getD e (0, 0)).1) ∧
      (normNeeded c = false → y.norms = x.norms) ∧
      (normNeeded c = true → kget 0 y.norms b = qs.foldl (fun a q => dAdd a (blockNorm (q.2.2.map (·.1)))) (kget 0 x.norms b))) ∧
  (∀ (s : State) (st b stall : Nat) (x z : Step) (img : Image) (c : Ctx) (u : UnitSt) (k : KeyIns) (tn : Tensor) (qs : List (Nat × Nat × List (Nat × Nat))) (i : Instr),
    KeystoneTurn s st b x img c u k → OnTime img z u k.cycle stall → tensorOf c k.tensor = some tn → z = settleNorm c img x →
    (normNeeded c = true → z.total ≠ none) → s.sm.poison = [] →
    ((k.kop = 2 ∧ k.desc = 0 ∧ i = .update st b stall [] ∧ qs = (List.range k.blocks).map fun n =>
        (k.first + 8 * n, n, (List.range 64).map fun e => ((kget 0 x.gradBuf (masterKey false k.tensor (k.first + 8 * n) e)).toNat, 0))) ∨
     (k.kop = 2 ∧ k.desc ≠ 0 ∧ i = .update st b stall [] ∧ entryBlocks s img z tn k = some qs) ∨
     (k.kop = 3 ∧ i = .updateList st b stall [] ∧ entryBlocks s img z tn k = some qs)) →
    (qs.map (·.1)).Nodup → mastersMissing z tn (qs.map (·.1)) = [] →
    (z.skipped = true → ∃ t y, exec i s = .next t ∧ Issued s t st (2300 + b) stall 0 x u y ∧
      t = { s with ctxs := t.ctxs, steps := t.steps } ∧ ∀ n, ctxOf t n = ctxOf s n) ∧
    (z.skipped = false → tn.num < 4096 → (∀ q ∈ qs, q.1 < 2 ^ 32) →
      ∃ t y c', exec i s = .next t ∧ Issued s t st (2300 + b) stall 0 x u y ∧ ctxOf t x.ctx = some c' ∧
        t = { s with ctxs := t.ctxs, steps := t.steps, host := t.host, sm := t.sm } ∧ t.sm.mem = s.sm.mem ∧ (∀ n, n ≠ x.ctx → ctxOf t n = ctxOf s n) ∧
        (∀ q ∈ qs, ∀ e < 64,
          let old := if tn.slow then kget 0 z.slowMasters (masterKey false tn.num q.1 e) else liveWord c 0 tn.num q.1 e
          let r := keyRule (c.groups.getD tn.group {}) (((z.scalars.find? fun p => decide (p.1 = tn.group)).map (·.2)).getD []) (clipScale c z)
            old.toNat (liveWord c 1 tn.num q.1 e).toNat (liveWord c 2 tn.num q.1 e).toNat (q.2.2.getD e (0, 0)).1
          (tn.slow = false → kget 0 c'.masters (masterKey (!liveSlot c tn.num q.1) tn.num q.1 e) = BitVec.ofNat 32 r.1) ∧
          kget 0 c'.moments (momentKey (!liveSlot c tn.num q.1) 0 tn.num q.1 e) = BitVec.ofNat 32 r.2.1 ∧
          (planesOf c tn = 3 → kget 0 c'.moments (momentKey (!liveSlot c tn.num q.1) 1 tn.num q.1 e) = BitVec.ofNat 32 r.2.2.1)) ∧
        (∀ pl < 3, ∀ n < 4096, ∀ j < 2 ^ 32, ∀ e < 64, liveWord c' pl n j e = liveWord c pl n j e)))

/-- OPT_CONFIG that passes its checks replaces the groups, the clipping norm and the thinning count, registers its tensors or changes them, keeps every
other tensor, and clears the moments of a tensor whose record says RESET. -/
def Obligations.OptimiserConfigurationTakesEffect : Prop :=
  ∀ (s : State) (n : Nat) (k : Ctx) (c : Cmd) (gs ts : List Nat),
    Current s (.ctx n) 0x0060 c → ctxOf s n = some k → ctxBusy s n = false → (gs, c.paramBytes - 32 * ts.length) = groupOffsets c.param (c.fld 298 294) 16 →
    ts = (List.range (c.fld 312 300)).map (fun i => c.paramBytes - 32 * (c.fld 312 300) + 32 * i) → 32 * ts.length ≤ c.paramBytes →
    optFault k c.param gs ts = none →
    (k.tensors.any fun q => !q.frozen && !(ts.map fun o => (tensorAt c.param o).num).contains q.num && decide (gs.length ≤ q.group)) = false →
    k.drawn - optFrames k + optFrames (optApplied k c.param (c.fld 293 288) gs ts) ≤ k.frames.length →
    ∃ t k', exec (.optConfig (.ctx n)) s = .next t ∧ Ended s t (.ctx n) c 0 0 ∧ ctxOf t n = some k' ∧ t.steps = s.steps ∧ t.sm = s.sm ∧
      k'.groups = gs.map (groupAt c.param) ∧ k'.maxNorm = leAt c.param 0 4 ∧ k'.thinN = c.fld 293 288 + 1 ∧ k'.thinPos = 0 ∧ k'.frames = k.frames ∧
      (∀ o ∈ ts, ∃ q ∈ k'.tensors, q = { tensorAt c.param o with ages := q.ages, loaded := q.loaded }) ∧
      (∀ q ∈ k.tensors, (∀ o ∈ ts, (tensorAt c.param o).num ≠ q.num) → q ∈ k'.tensors) ∧
      (∀ o ∈ ts, (leAt c.param o 4).testBit 21 = true → ∀ slot, ∀ pl < 2, ∀ j < 2 ^ 32, ∀ e < 64,
        kget 0 k'.moments (momentKey slot pl (tensorAt c.param o).num j e) = 0)

/-- A checkpoint stream starts as its role says; it stops with the last SEQ acknowledged or held; the base goes to the partner once; a stream without an
acknowledgement breaks and is logged; a completed rebase folds the closed half; a restore from the partner's region makes its words live under its SEQ. -/
def Obligations.CheckpointStreamsRunAndRestore : Prop :=
  (∀ (s : State) (n : Nat) (k : Ctx) (c : Cmd), Current s (.ctx n) 0x0070 c → ctxOf s n = some k →
    (c.desc.getLsbD 288 = true → k.partner = none → k.drawn + c.fld 391 360 ≤ k.frames.length →
      ∃ t k', exec (.ckptStreamStart (.ctx n)) s = .next t ∧ Ended s t (.ctx n) c 0 0 ∧ ctxOf t n = some k' ∧ k'.drawn = k.drawn + c.fld 391 360 ∧
        k'.partner = some { peer := c.fld 310 296, peerDomain := c.fld 311 311, frames := c.fld 391 360, m := c.fld 359 344 }) ∧
    (c.desc.getLsbD 288 = false → k.sender = none →
      ∃ t k' g c', exec (.ckptStreamStart (.ctx n)) s = .next t ∧ ctxOf t n = some k' ∧
        k' = { k with
          ckptWait := some c.seq
          sender := some { peer := c.fld 310 296, peerDomain := c.fld 311 311, timeoutMs := if c.fld 343 312 = 0 then 1000 else c.fld 343 312 }
          energy := k'.energy } ∧
        ringOf t (.ctx n) = some g ∧ g.cmd c.seq = some c' ∧ c'.accepted = true ∧ c'.held = none)) ∧
  (∀ (s : State) (n : Nat) (k : Ctx) (c : Cmd), Current s (.ctx n) 0x0071 c → ctxOf s n = some k →
    (∀ p, c.desc.getLsbD 288 = true → k.partner = some p →
      ∃ t k', exec (.ckptStreamStop (.ctx n)) s = .next t ∧ Ended s t (.ctx n) c 0 (p.state.seq.getD 0) ∧ ctxOf t n = some k' ∧
        k'.partner = none ∧ k'.drawn = k.drawn - p.frames) ∧
    (∀ q, c.desc.getLsbD 288 = false → k.sender = some q → k.ckptWait = none → q.stopping = none → q.unacked = [] →
      ∃ t k', exec (.ckptStreamStop (.ctx n)) s = .next t ∧ Ended s t (.ctx n) c 0 q.lastAcked ∧ ctxOf t n = some k' ∧ k'.sender = none)) ∧
  (∀ (s : State) (n : Nat) (k : Ctx) (q : CkptStream) (nd : NodeRec), ctxOf s n = some k → k.sender = some q → s.slory.node = some nd →
    (q.baseSent = false → publishingAdmitted s n = false → (∀ t ∈ k.tensors, t.frozen = true ∨ t.slow = false) →
      ∃ t k', exec (.ckptBaseSend n []) s = .next t ∧ ctxOf t n = some k' ∧
        k'.sender = some { q with baseSent := true, unacked := q.unacked ++ [(k.vseq, baseRecords k [])] } ∧
        ∃ f ∈ t.slory.tx, f.op = 5 ∧ f.key.dst = q.peer ∧ f.dstDom = q.peerDomain ∧ f.key.tag = k.tag.toNat) ∧
    (q.unacked ≠ [] →
      ∃ t k', exec (.streamTimeout n) s = .next t ∧ ctxOf t n = some k' ∧ k'.sender = none ∧ k'.ckptWait = none ∧
        (∀ f ∈ t.slory.tx, ¬ (f.op = 5 ∧ f.ctx = n)) ∧ Logged s t 0x0702 (some n) (Config.errDetail 0x0702 [q.peer, q.peerDomain]))) ∧
  (∀ (s : State) (n : Nat) (k : Ctx) (p : Partner), ctxOf s n = some k → k.partner = some p → p.closed ≠ none → (∀ b < 8, higherWork s b 6 = false) →
    (∀ f ∈ s.slory.rxFlows, ¬ (f.op = 5 ∧ f.key.tag = k.tag.toNat)) →
    exec (.rebaseComplete n) s = .next (setCtx s n { k with partner := some p.fold })) ∧
  (∀ (s : State) (n q : Nat) (k : Ctx) (c : Cmd) (nd : NodeRec) (p : Partner) (b : Bytes), Current s (.ctx n) 0x0072 c → ctxOf s n = some k →
    k.service = .stopped → s.slory.node = some nd → nd.node = c.fld 302 288 → nd.domain = c.fld 303 303 → k.partner = some p →
    p.peer = c.fld 318 304 → p.peerDomain = c.fld 319 319 → p.state.seq = some q → (k.tensors.map (·.num)).Nodup →
    (∀ tn ∈ k.tensors, tn.num < 4096 ∧ tn.shardBlocks ≤ 2 ^ 32) →
    ∃ t k', exec (.ckptRestore (.ctx n) b) s = .next t ∧ Ended s t (.ctx n) c 0 q ∧ ctxOf t n = some k' ∧ k'.vseq = q ∧ k'.table = !k.table ∧
      (∀ tn ∈ k.tensors, tn.frozen = false → tn.slow = false → ∀ j < tn.shardBlocks, ∀ e < 64,
        liveWord k' 0 tn.num j e = kget 0 p.state.words (baseKey 0 tn.num j e)))

/-! ### Fabric entries and collectives -/

/-- SEND and SPLIT_SEND begin a flow of their opcode with the stream's bytes toward their node; RED_SEND one with a contribution under its source index, its
own contribution staying on the module; NORM one with the module's sum toward the leader. RECV and SPLIT_RECV make a complete flow's bytes the
blocks of their stream, SPLIT_RECV in the local store of its span too. -/
def Obligations.FabricEntriesSendAndReceive : Prop :=
  (∀ (s : State) (st q stall : Nat) (x : Step) (img : Image) (c : Ctx) (u : UnitSt) (k : FabIns) (nd : NodeRec) (b : Bytes) (i : Instr) (op dst src : Nat),
    FabricTurn s st q x img c u k → OnTime img x u k.cycle stall → s.slory.node = some nd →
    ((k.fop = 1 ∧ i = .send st q stall ∧ op = 1 ∧ dst = k.node ∧ src = 0 ∧ (∃ d, descOf img x k.desc = some d ∧ sendBytes s img x k.desc d k.cycle = some b)) ∨
     (k.fop = 5 ∧ i = .splitSend st q stall ∧ op = 4 ∧ dst = k.node ∧ src = 0 ∧ (∃ d, descOf img x k.desc = some d ∧ sendBytes s img x k.desc d k.cycle = some b)) ∨
     (k.fop = 3 ∧ i = .redSend st q stall ∧ op = 2 ∧ dst = k.node ∧ src = k.srcIndex ∧ k.node ≠ nd.node ∧ redBytes s c img x k = some b) ∨
     (k.fop = 7 ∧ i = .norm st q stall ∧ op = 2 ∧ dst = img.leader ∧ src = (img.parts.findIdx? (· == nd.node)).getD 0 ∧ acceptsDone img x = true ∧
       b = leBytes 8 (moduleNorm x))) →
    ∃ t y, exec i s = .next t ∧ Issued s t st (2400 + q) stall 0 x u y ∧ t.pm = s.pm ∧ t.sm = s.sm ∧ t.ctxs = s.ctxs ∧
      (∃ f ∈ t.slory.tx, f.op = op ∧ f.port = q ∧ f.stepId = some st ∧ f.srcIndex = src ∧
        f.key = ⟨c.tag.toNat, nd.domain, nd.node, dst, x.number, x.attempt, k.flow⟩ ∧
        f.frames = flowFrames (flowP s q) nd.domain nd.node f.key op src 0 b)) ∧
  (∀ (s : State) (st q stall : Nat) (x : Step) (img : Image) (c : Ctx) (u : UnitSt) (k : FabIns) (nd : NodeRec) (b : Bytes),
    FabricTurn s st q x img c u k → OnTime img x u k.cycle stall → s.slory.node = some nd → k.fop = 3 → k.node = nd.node → redBytes s c img x k = some b →
    ∃ t y f, exec (.redSend st q stall) s = .next t ∧ Issued s t st (2400 + q) stall 0 x u y ∧ f ∈ t.slory.rxFlows ∧ f.op = 2 ∧
      f.key.flow = k.flow ∧ f.srcIndex = k.srcIndex ∧ f.stepId = some st ∧ f.bytes = b ∧ f.complete = true) ∧
  (∀ (s : State) (st q stall : Nat) (x : Step) (img : Image) (c : Ctx) (u : UnitSt) (k : FabIns) (f : RxFlow) (d : Desc),
    FabricTurn s st q x img c u k → OnTime img x u k.cycle stall → k.fop = 2 → stepRx s x 1 k.flow (fun f => decide (f.key.src = k.node)) = some f → descOf img x k.desc = some d →
    ∃ t y, exec (.recv st q stall) s = .next t ∧ Issued s t st (2400 + q) stall 0 x u y ∧ OnlySteps s t ∧
      (y.stream k.desc).blocks = (x.stream k.desc).blocks ++ recvBlocks d k.cycle f.bytes ∧ (∀ j, j ≠ k.desc → y.stream j = x.stream j)) ∧
  (∀ (s : State) (st q stall : Nat) (x : Step) (img : Image) (c : Ctx) (u : UnitSt) (k : FabIns) (f : RxFlow) (d : Desc),
    FabricTurn s st q x img c u k → OnTime img x u k.cycle stall → k.fop = 6 → stepRx s x 4 k.flow (fun f => decide (f.key.src = k.node)) = some f → descOf img x k.desc = some d →
    ∃ t y, exec (.splitRecv st q stall) s = .next t ∧ Issued s t st (2400 + q) stall 0 x u y ∧ OnlyDies s t ∧ t.pm = { s.pm with loc := t.pm.loc } ∧
      (y.stream k.desc).blocks = (x.stream k.desc).blocks ++ recvBlocks d k.cycle f.bytes ∧
      (∀ i < (recvBlocks d k.cycle f.bytes).length, i + 1 = (recvBlocks d k.cycle f.bytes).length → 
        ∀ e < (slice f.bytes (d.blockBytes * i) d.blockBytes).length,
        vread 0 t.pm.loc st (k.cycle + 1) (locBase d.span + blockAddr img d i + e) = (slice f.bytes (d.blockBytes * i) d.blockBytes).getD e 0))

/-- RED_RECV adds the contributions of its flow element by element in ascending source index and converts each sum once, of block lists the blocks of one
key; ACC writes the gradient, or the live slot plus the gradient, into the slot of the accumulator that is not live, words or block list alike. -/
def Obligations.ReductionsAddInSourceOrder : Prop :=
  (∀ (s : State) (st q stall : Nat) (x : Step) (img : Image) (c : Ctx) (u : UnitSt) (k : FabIns) (bs : List Bytes) (d : Desc),
    FabricTurn s st q x img c u k → OnTime img x u k.cycle stall → k.fop = 4 → contributions s x k = some bs → descOf img x k.desc = some d →
    (carriesList img k.desc = false →
      ∃ t y, exec (.redRecv st q stall) s = .next t ∧ stepOf t st = some y ∧ (y.unit (2400 + q)).next = u.next + 1 ∧
        StationWrote s t img k.span k.desc d k.cycle x y (fun n i j => (redElem img d bs n i j).1)) ∧
    (carriesList img k.desc = true → (mergeLists (bs.map listEntries)).length ≤ leAt (bs.headD []) 4 4 →
      ∃ t y, exec (.redRecv st q stall) s = .next t ∧ stepOf t st = some y ∧ (y.stream k.desc).list = true ∧
        (y.stream k.desc).blocks = (x.stream k.desc).blocks ++
          rawBlocks d.blockBytes (listBytes (leAt (bs.headD []) 4 4) (mergedEntries (mergeLists (bs.map listEntries)))) k.cycle)) ∧
  (∀ (s : State) (st q stall : Nat) (x : Step) (img : Image) (c : Ctx) (u : UnitSt) (k : FabIns) (gs : List Nat) (d : Desc),
    FabricTurn s st q x img c u k → OnTime img x u k.cycle stall → k.fop = 8 → descOf img x k.desc = some d → listStream img x k.desc = false →
    streamWords s img x k.desc d k.cycle = some gs → gs.length ≤ 1099511627776 →
    ∃ t y c', exec (.acc st q stall) s = .next t ∧ stepOf t st = some y ∧ (y.unit (2400 + q)).next = u.next + 1 ∧
      k.flow ∈ y.accWritten ∧ ctxOf t x.ctx = some c' ∧ c' = { c with acc := c'.acc, accLists := c'.accLists } ∧
      (∀ e < gs.length, kget 0 c'.acc (accKey k.flow (!accLive c k.flow) e) =
        BitVec.ofNat 32 (if c.thinPos = 0 then gs.getD e 0
          else (fadd .fp32 (dec32 (kget 0 c.acc (accKey k.flow (accLive c k.flow) e)).toNat) (dec32 (gs.getD e 0))).1)) ∧
      (∀ e < 1099511627776, kget 0 c'.acc (accKey k.flow (accLive c k.flow) e) = kget 0 c.acc (accKey k.flow (accLive c k.flow) e))) ∧
  (∀ (s : State) (st q stall : Nat) (x : Step) (img : Image) (c : Ctx) (u : UnitSt) (k : FabIns) (b : Bytes) (d : Desc) (live : List ListEntry),
    FabricTurn s st q x img c u k → OnTime img x u k.cycle stall → k.fop = 8 → descOf img x k.desc = some d → listStream img x k.desc = true →
    sendBytes s img x k.desc d k.cycle = some b →
    live = (if c.thinPos = 0 then [] else ((accList c k.flow (accLive c k.flow)).map (·.2)).getD []) →
    (mergeLists [live, listEntries b]).length ≤ leAt b 4 4 →
    ∃ t y c', exec (.acc st q stall) s = .next t ∧ stepOf t st = some y ∧ (y.unit (2400 + q)).next = u.next + 1 ∧
      k.flow ∈ y.accWritten ∧ ctxOf t x.ctx = some c' ∧ c' = { c with accLists := c'.accLists } ∧
      accList c' k.flow (!accLive c k.flow) = some (leAt b 4 4, mergedEntries (mergeLists [live, listEntries b])) ∧
      accList c' k.flow (accLive c k.flow) = accList c k.flow (accLive c k.flow))

/-- A frame of the transport that fails a check of its header is dropped, counted and logged. A data frame of a step's flow that its checks pass stands under
its SEQ and OFFSET; of another attempt it is dropped or answered NAK, and one that fits no destination is counted. A broadcast segment and a delta are kept
the same way, and a whole delta joins the partner's log. -/
def Obligations.SloryFramesAreTaken : Prop :=
  (∀ (s : State) (f : RxFrame) (i : Nat) (c : Instr), nextRx s = some f → f.port = 8 → hdrFault s f = some i →
    c ∈ [Instr.write, .reduce, .split, .delta, .ack, .nak, .voteRepeat, .voteFail, .voteReceive, .decideCommit, .decideRepeat, .decideEnd] →
    ∃ t, exec c s = .next t ∧ Logged s t 0x0701 none (headWords f.udp) ∧ t.steps = s.steps ∧ t.slory.rx = s.slory.rx.erase f ∧ t.slory.rxFlows = s.slory.rxFlows ∧
      kget 0 t.slory.counters i = satAdd max64 (kget 0 s.slory.counters i) 1) ∧
  (∀ (s : State) (f : RxFrame) (n : Nat) (c : Ctx) (h : SloryHdr) (i : Instr), nextRx s = some f → f.port = 8 →
    hdrFault s f = none → h = sloryHdr f.udp → ctxByTag s h.tag = some (n, c) →
    ((h.op = 1 ∧ i = .write) ∨ (h.op = 4 ∧ i = .split) ∨ (h.op = 2 ∧ i = .reduce)) →
    (isStale s n c h = true → ∃ t, exec i s = .next t ∧ t.slory.rxFlows = s.slory.rxFlows ∧ t.steps = s.steps ∧
      kget 0 t.slory.counters 5 = satAdd max64 (kget 0 s.slory.counters 5) 1) ∧
    (isStale s n c h = false → admittedAt s n h = none → ∃ t, exec i s = .next t ∧ t.slory.rxFlows = s.slory.rxFlows ∧ t.steps = s.steps ∧
      kget 0 t.slory.counters 6 = satAdd max64 (kget 0 s.slory.counters 6) 1 ∧ kget 0 t.slory.counters 10 = satAdd max64 (kget 0 s.slory.counters 10) 1) ∧
    (∀ x img size, isStale s n c h = false → admittedAt s n h = some x → imageOf s x = some img → 128 * h.off + h.len ≤ size →
      entrySize img x (if h.op = 1 then fun k => decide (k.fop = 2 ∧ k.node = h.src ∧ k.flow = h.flow)
        else if h.op = 4 then fun k => decide (k.fop = 6 ∧ k.node = h.src ∧ k.flow = h.flow)
        else fun k => decide (k.fop = 4 ∧ k.flow = h.flow ∧ h.srcIndex ≤ k.srcIndex)) = some size →
      (h.op = 2 → h.src ∈ img.parts) → (∀ g ∈ s.slory.rxFlows, g.key = h.key → g.op = h.op → g.done = false) →
      ∃ t g, exec i s = .next t ∧ t.steps = s.steps ∧ t.pm = s.pm ∧ t.sm = s.sm ∧ g ∈ t.slory.rxFlows ∧ g.key = h.key ∧ g.op = h.op ∧
        kfind g.data h.seq = some h.payload ∧ kget 0 g.offs h.seq = h.off)) ∧
  (∀ (s : State) (f : RxFrame) (n : Nat) (c : Ctx) (h : SloryHdr), nextRx s = some f → f.port = 8 →
    hdrFault s f = none → h = sloryHdr f.udp → ctxByTag s h.tag = some (n, c) → ctxOf s n = some c →
    (∀ g ∈ s.slory.rxFlows, g.id < s.slory.nextFlow ∧ (g.key = h.key → g.op ≠ h.op)) →
    (∀ j children, h.op = 3 → c.load = some j → j.source = 2 → (j.parent = none ∨ j.parent = some h.src) → h.last = false → 128 * h.off + h.len ≤ storeBlock →
      ∃ t g, exec (.bcast children) s = .next t ∧ ctxOf t n = some { c with load := some (j.placed s h.src children) } ∧ g ∈ t.slory.rxFlows ∧ g.key = h.key ∧ g.data = [(h.seq, h.payload)] ∧ g.last = none) ∧
    (∀ p, h.op = 5 → c.partner = some p → p.peer = h.src → p.peerDomain = h.dom → h.off = 0 → h.seq = 0 → h.last = true → h.len ≤ p.frames * 2097152 →
      withholds c = false →
      ∃ t c', exec .delta s = .next t ∧ ctxOf t n = some c' ∧ c' = { c with partner := some (p.append h.step h.payload) } ∧ t.steps = s.steps))

/-- An ACK marks the frames it reports; a NAK has the named frame sent again; a retransmission timer has it sent again; an ACK timer answers a flow with
frames not yet acknowledged, and forgets the flow of a token. None of them changes a step. -/
def Obligations.AnswersAndTimersKeepFlowsMoving : Prop :=
  (∀ (s : State) (f : RxFrame) (h : SloryHdr) (g : TxFlow), nextRx s = some f → f.port = 8 →
    hdrFault s f = none → h = sloryHdr f.udp → (ctxByTag s h.tag).isSome = true → ackedFlow s h = some g →
    (h.op = 0x10 → h.seq ≤ g.sentUpTo → (∀ i ∈ ackedSeqs h, i < g.sentUpTo) → g.stepId ≠ none →
      ∃ t y, exec .ack s = .next t ∧ y ∈ t.slory.tx ∧ y.id = g.id ∧ y.key = g.key ∧ (∀ i, i ∈ y.acked ↔ i ∈ g.acked ∨ i ∈ ackedSeqs h) ∧ t.steps = s.steps) ∧
    (∀ fr, h.op = 0x11 → g.frames[h.seq]? = some fr → g.awaits h.seq = true → kfind g.nakAt h.seq = none →
      ∃ t y, exec .nak s = .next t ∧ y ∈ t.slory.tx ∧ y.id = g.id ∧ kfind y.nakAt h.seq = some s.clk.uptime ∧ t.steps = s.steps ∧
        kget 0 t.slory.counters 9 = satAdd max64 (kget 0 s.slory.counters 9) 1)) ∧
  (∀ (s : State) (flow seq : Nat) (g : TxFlow) (fr : Nat × Bytes), (s.slory.tx.find? fun f => decide (f.id = flow)) = some g →
    g.awaits seq = true → g.frames[seq]? = some fr →
    ∃ t, exec (.retransmissionTimer flow seq) s = .next t ∧ t.slory.tx = s.slory.tx ∧ t.steps = s.steps ∧
      kget 0 t.slory.counters 9 = satAdd max64 (kget 0 s.slory.counters 9) 1) ∧
  (∀ (s : State) (flow : Nat) (g : RxFlow) (nd : NodeRec), (s.slory.rxFlows.find? fun f => decide (f.id = flow)) = some g → g.sinceAck ≠ 0 →
    (g.op = 5 → g.done = false → ∀ n c, ctxByTag s g.key.tag = some (n, c) → withholds c = false) →
    s.slory.node = some nd → (g.key.src ≠ nd.node ∨ g.key.srcDomain ≠ nd.domain) →
    ∃ t, exec (.ackTimer flow) s = .next t ∧ t.steps = s.steps ∧
      (g.op ≠ 0x12 → t.slory.rxFlows = s.slory.rxFlows.map fun f => if f.id = g.id then { g with sinceAck := 0 } else f) ∧
      (g.op = 0x12 → t.slory.rxFlows = s.slory.rxFlows.filter fun f => decide (f.id ≠ g.id)) ∧
      (let q := (lowestUp s).getD 0
       (portOf t q).express.length + (portOf t q).expressWait.length = (portOf s q).express.length + (portOf s q).expressWait.length + 1))

/-- The leader decides once: DECIDE_COMMIT on the last VOTE_OK, DECIDE_END on a VOTE_FAIL with its status, and on a VOTE_REPEAT or its deadline
DECIDE_REPEAT, or DECIDE_END where the repeat limit is reached. -/
def Obligations.LeaderDecidesOnce : Prop :=
  (∀ (s : State) (f : RxFrame) (n : Nat) (c : Ctx) (h : SloryHdr) (x : Step) (img : Image) (l : Leader),
    nextRx s = some f → f.port = 8 → hdrFault s f = none → h = sloryHdr f.udp → ctxByTag s h.tag = some (n, c) → ctxOf s n = some c → h.op = 0x12 →
    isStale s n c h = false → admittedAt s n h = some x → imageOf s x = some img → leaderOf s n h.step = some l → h.src ∈ img.parts → l.attempt = h.attempt →
    (∀ g ∈ s.slory.rxFlows, g.key = h.key → g.op ≠ h.op) → l.decided = none →
    (h.sub = 1 → ∃ t l', exec .voteReceive s = .next t ∧ leaderOf t n h.step = some l' ∧ t.steps = s.steps ∧ (∀ d, d ∈ l'.ok ↔ d ∈ l.ok ∨ d = h.src) ∧
      ((∀ d ∈ img.parts, d ∈ l.ok ∨ d = h.src) → l'.decided = some (0x10, 0, 0)) ∧
      ((∃ d ∈ img.parts, d ∉ l.ok ∧ d ≠ h.src) → l'.decided = none)) ∧
    (h.sub = 2 → ∃ t l', exec .voteRepeat s = .next t ∧ leaderOf t n h.step = some l' ∧ t.steps = s.steps ∧
      l'.decided = some (if l.attempt < c.repeatLimit then (0x11, 0, 0) else (0x12, 0x0006, (tokenStatus h).2))) ∧
    (h.sub = 3 → ∃ t l', exec .voteFail s = .next t ∧ leaderOf t n h.step = some l' ∧ t.steps = s.steps ∧
      l'.decided = some (0x12, (tokenStatus h).1, (tokenStatus h).2))) ∧
  (∀ (s : State) (n num : Nat) (c : Ctx) (x : Step) (img : Image) (l : Leader) (nd : NodeRec), leaderOf s n num = some l → collectiveStep s n num = some x →
    s.slory.node = some nd → imageOf s x = some img → l.attempt = x.attempt → (x.state.live = true ∨ x.state = .hold) → ctxOf s n = some c → l.decided = none →
    ∃ t l', exec (.collectiveDeadline n num) s = .next t ∧ leaderOf t n num = some l' ∧ t.steps = s.steps ∧
      l'.decided = some (if l.attempt < c.repeatLimit then (0x11, 0, 0) else (0x12, 0x0006, nd.node + 32768 * nd.domain)))

/-- A participant in decision hold commits on the leader's DECIDE_COMMIT; on DECIDE_REPEAT the attempt ends and the step waits again with the next attempt; on
DECIDE_END the step ends; with no decision by the deadline it ends too, and the context is marked diverged. -/
def Obligations.ParticipantsFollowTheDecision : Prop :=
  (∀ (s : State) (f : RxFrame) (n : Nat) (c : Ctx) (h : SloryHdr) (x : Step) (img : Image),
    nextRx s = some f → f.port = 8 → hdrFault s f = none → h = sloryHdr f.udp → ctxByTag s h.tag = some (n, c) → ctxOf s n = some c → h.op = 0x12 →
    isStale s n c h = false → admittedAt s n h = some x → stepOf s x.id = some x → imageOf s x = some img → h.src = img.leader →
    (∀ g ∈ s.slory.rxFlows, g.key = h.key → g.op ≠ h.op) → s.sched.owing = [] → s.sched.follows = [] →
    (h.sub = 0x10 → x.state = .hold → (x.kind = .realTime → s.sched.active = []) →
      ∃ t y, exec .decideCommit s = .next t ∧ stepOf t x.id = some y ∧ y.state = .committed ∧ (∀ i, i ≠ x.id → stepOf t i = stepOf s i)) ∧
    (h.sub = 0x11 → ∃ t y, exec .decideRepeat s = .next t ∧ stepOf t x.id = some y ∧ y.state = .queued ∧ y.rerun = true ∧
      y.attempt = (x.attempt + 1) % 256 ∧ y.units = [] ∧ (∀ i, i ≠ x.id → stepOf t i = stepOf s i) ∧
      kget 0 t.slory.counters 11 = satAdd max64 (kget 0 s.slory.counters 11) 1) ∧
    (h.sub = 0x12 → ∃ t, exec .decideEnd s = .next t ∧ stepOf t x.id = none ∧ (∀ i, i ≠ x.id → stepOf t i = stepOf s i))) ∧
  (∀ (s : State) (st : Nat) (c : Ctx) (x : Step), stepOf s st = some x → x.state = .hold → ctxOf s x.ctx = some c → s.sched.owing = [] → s.sched.follows = [] →
    ∃ t c', exec (.decisionHoldTimeout st) s = .next t ∧ stepOf t st = none ∧ ctxOf t x.ctx = some c' ∧ c'.diverged = true ∧
      (∀ i, i ≠ st → stepOf t i = stepOf s i) ∧ Logged s t 0x0703 (some x.ctx) (BitVec.ofNat 128 x.number) ∧
      kget 0 t.slory.counters 12 = satAdd max64 (kget 0 s.slory.counters 12) 1)

/-! ### Ports -/

/-- FABRIC_CONFIG that passes its checks gives each port that it names its record, down, with empty buffers, and training unless LANES is 0, and the transport its
node record; the link comes up with its lanes corrected, goes down and trains again, each with LINK_CHANGE and vector 258; a training that takes too long and a
lost link are logged. With pre-emption and VERIFY_EN a verify frame goes out behind the express frames that wait; VERIFY_DONE starts pre-emption or logs the
failure, and a verify frame is answered with a respond frame where the port runs pre-emption. -/
def Obligations.PortsAreConfiguredAndTrain : Prop :=
  (∀ (s : State) (c : Cmd) (qs : List Nat) (o : Nat → Nat), Current s .admin 0x00B0 c → qs = ((List.range 8).filter fun q => c.desc.getLsbD (288 + q)) →
    (∀ i, o i = (if c.desc.getLsbD 296 then 288 else 0) + 64 * i) → (∀ i < qs.length, portRecFault c.param (qs.getD i 0) (o i) = none) →
    (∀ q ∈ qs, portClaimed s q = false) →
    (c.desc.getLsbD 296 = true → (∀ x ∈ s.steps, x.state.live = false ∧ x.state ≠ .hold) ∧
      nodeRecFault c.param (fun q => match qs.findIdx? (· == q) with | some i => portRecAt c.param (o i) | none => (portOf s q).rcd) = none) →
    ∃ t, exec (.fabricConfig .admin) s = .next t ∧ Ended s t .admin c 0 0 ∧ t.steps = s.steps ∧
      t.slory.node = (if c.desc.getLsbD 296 then some (nodeRecAt c.param) else s.slory.node) ∧
      (∀ i < qs.length, ∀ p, portOf t (qs.getD i 0) = p → p.rcd = portRecAt c.param (o i) ∧ p.up = false ∧ p.training = decide (p.rcd.lanes ≠ 0) ∧
        p.express = [] ∧ p.expressWait = [] ∧ p.bulk = [] ∧ p.bulkWait = [] ∧ p.rxHeld = []) ∧
      (∀ q, q ∉ qs → portOf t q = portOf s q)) ∧
  (∀ (s : State) (q : Nat) (p : Port), portOf s q = p →
    (∀ inverted, p.training = true → p.up = false → p.rcd.lanes ≠ 0 →
      let ver := p.rcd.preemptEn && p.rcd.verifyEn
      ∃ t r, exec (.portLinkUp q inverted) s = .next t ∧ portOf t q = r ∧ VectorRaised s t 258 ∧ t = { s with ports := t.ports, msix := t.msix, out := t.out } ∧
        r = { p with
          up := true, training := false, advert := none, polarity := inverted % 2 ^ laneCount p.rcd.lanes, linkChange := true, verify := b2n ver
          preempt := p.rcd.preemptEn && !p.rcd.verifyEn, express := r.express, expressWait := r.expressWait, counters := r.counters } ∧
        r.express ++ r.expressWait = p.express ++ p.expressWait ++ (if ver then [⟨verifyPacket false, none, none, 9⟩] else []) ∧
        (∀ k, k ≠ 9 → kget 0 r.counters k = kget 0 p.counters k)) ∧
    (p.up = true →
      ∃ t r, exec (.portLinkDown q) s = .next t ∧ portOf t q = r ∧ r.up = false ∧ r.training = true ∧ r.advert = advertised p.rcd ∧ r.rcd = p.rcd ∧
        r.onWire = none ∧ r.expressWire = none ∧ r.cut = false ∧ r.preempt = false ∧ r.verify = 0 ∧ r.paused = 0 ∧ r.linkChange = true ∧ r.bulk = p.bulk ∧
        kget 0 r.counters 37 = satAdd max64 (kget 0 p.counters 37) 1 ∧
        kget 0 r.counters 10 = satAdd max64 (kget 0 p.counters 10) (b2n p.onWire.isSome + b2n p.expressWire.isSome) ∧
        VectorRaised s t 258 ∧ Logged s t 0x0601 none (BitVec.ofNat 128 q) ∧ (∀ k, k ≠ q → portOf t k = portOf s k)) ∧
    (p.training = true → p.up = false →
      ∃ t, exec (.portTrainingTimeout q) s = .next t ∧ Logged s t 0x0602 none (BitVec.ofNat 128 q) ∧ VectorRaised s t 258 ∧ OnlyLog s t) ∧
    (p.up = true → p.verify = 1 →
      exec (.verifyDone q true) s = .next (setPort s q { p with verify := 2, preempt := true }) ∧
      ∃ t, exec (.verifyDone q false) s = .next t ∧ portOf t q = { p with verify := 3, preempt := false } ∧ Logged s t 0x0603 none (BitVec.ofNat 128 q)) ∧
    (p.up = true → ∀ respond, ∃ t r, exec (.verifyFrame q respond) s = .next t ∧ portOf t q = r ∧ t = { s with ports := t.ports } ∧
      r = { p with express := r.express, expressWait := r.expressWait, counters := r.counters } ∧
      r.express ++ r.expressWait = p.express ++ p.expressWait ++ (if respond || !p.rcd.preemptEn then [] else [⟨verifyPacket true, none, none, 9⟩]) ∧
      kget 0 r.counters 18 = satAdd max64 (kget 0 p.counters 18) 1))

/-- The MAC completes an express frame that is on the wire first. Otherwise the first express frame that is not paused starts, where nothing is on the wire, or
where the pre-emptable frame there has been cut or is cut now, which 802.3br must permit. Otherwise the pre-emptable frame on the wire is completed, or resumes
where it was cut, and with none there the first that is not paused and that its bucket funds starts. Each frame sent is counted in its class. -/
def Obligations.PortsTransmitExpressFirst : Prop :=
  ∀ (s : State) (q : Nat) (p : Port), portOf s q = p → p.up = true →
    (∀ f, p.expressWire = some f →
      ∃ t r, exec (.frameTransmit q) s = .next t ∧ portOf t q = r ∧ t.out = .frame q f.bytes :: s.out ∧ t = { s with ports := t.ports, out := t.out } ∧
        r = { p with expressWire := none, counters := r.counters } ∧ kget 0 r.counters 0 = satAdd max64 (kget 0 p.counters 0) 1 ∧
        kget 0 r.counters 1 = satAdd max64 (kget 0 p.counters 1) f.bytes.length ∧ kget 0 r.counters 2 = satAdd max64 (kget 0 p.counters 2) 1) ∧
    (p.expressWire = none →
      (∀ f, p.ready p.express = some f → (p.onWire = none ∨ p.cut = true) →
        ∃ t r, exec (.frameTransmit q) s = .next t ∧ portOf t q = r ∧ t = { s with ports := t.ports } ∧ r.expressWire = some f ∧ r.onWire = p.onWire ∧
          r.cut = p.cut ∧ r.cuts = p.cuts ∧ r.express ++ r.expressWait = p.express.erase f ++ p.expressWait) ∧
      (∀ f w, p.ready p.express = some f → p.onWire = some w → p.cut = false → p.canCut w = true →
        ∃ t r, exec (.frameTransmit q) s = .next t ∧ portOf t q = r ∧ t = { s with ports := t.ports } ∧ r.expressWire = some f ∧ r.onWire = some w ∧
          r.cut = true ∧ r.cuts = p.cuts + 1 ∧ r.express ++ r.expressWait = p.express.erase f ++ p.expressWait) ∧
      (∀ w, p.onWire = some w → p.cut = false → (p.ready p.express = none ∨ p.canCut w = false) →
        ∃ t r, exec (.frameTransmit q) s = .next t ∧ portOf t q = r ∧ t.out = .frame q w.bytes :: s.out ∧ t = { s with ports := t.ports, out := t.out } ∧
          r = { p with onWire := none, cuts := 0, counters := r.counters } ∧ kget 0 r.counters 0 = satAdd max64 (kget 0 p.counters 0) 1 ∧
          kget 0 r.counters 1 = satAdd max64 (kget 0 p.counters 1) w.bytes.length ∧ kget 0 r.counters 3 = satAdd max64 (kget 0 p.counters 3) 1) ∧
      (∀ w, p.onWire = some w → p.cut = true → p.ready p.express = none →
        ∃ t r, exec (.frameTransmit q) s = .next t ∧ portOf t q = r ∧ t = { s with ports := t.ports } ∧ r = { p with cut := false, counters := r.counters } ∧
          kget 0 r.counters 4 = satAdd max64 (kget 0 p.counters 4) 1) ∧
      (∀ f, p.ready p.express = none → p.onWire = none → bulkReady s q = some f →
        ∃ t r, exec (.frameTransmit q) s = .next t ∧ portOf t q = r ∧ t = { s with ports := t.ports } ∧ r.onWire = some f ∧ r.expressWire = none ∧
          r.buckets = spend s q f ∧ r.bulk ++ r.bulkWait = p.bulk.erase f ++ p.bulkWait) ∧
      (p.ready p.express = none → p.onWire = none → bulkReady s q = none → exec (.frameTransmit q) s = .next s))

/-- A PFC frame pauses or releases every priority that it names and PFC_RX enables; the pause ends with its quanta, or as a storm, which is logged and has the
priority ignore PFC for a time; a priority whose buffer stays full repeats its PFC frame; a PAUSE frame is only counted. -/
def Obligations.FlowControlPausesPriorities : Prop :=
  ∀ (s : State) (q : Nat) (p : Port), portOf s q = p →
    (∀ b, p.up = true → classifyFrame p.rcd q b = .pfc →
      ∃ t, exec (.pfcFrame q b) s = .next t ∧ t = { s with ports := t.ports } ∧ kget 0 (portOf t q).counters 19 = satAdd max64 (kget 0 p.counters 19) 1 ∧
        (∀ i < 8, (portOf t q).paused.testBit i =
          if (beNat (slice b 16 2)).testBit i && p.rcd.pfcRx.testBit i && !p.ignore.testBit i then decide (beNat (slice b (18 + 2 * i) 2) ≠ 0) else p.paused.testBit i)) ∧
    (∀ b, p.up = true → classifyFrame p.rcd q b = .pause →
      ∃ t, exec (.pauseFrame q b) s = .next t ∧ t = { s with ports := t.ports } ∧ portOf t q = { p with counters := (portOf t q).counters } ∧
        kget 0 (portOf t q).counters 20 = satAdd max64 (kget 0 p.counters 20) 1) ∧
    (∀ i < 8, p.paused.testBit i = true →
      (∃ t, exec (.pauseExpiry q i) s = .next t ∧ t = { s with ports := t.ports } ∧ (portOf t q).paused.testBit i = false ∧ (portOf t q).ignore = p.ignore ∧
        (∀ j, j ≠ i → (portOf t q).paused.testBit j = p.paused.testBit j)) ∧
      (∃ t, exec (.pauseStorm q i) s = .next t ∧ (portOf t q).paused.testBit i = false ∧ (portOf t q).ignore.testBit i = true ∧
        Logged s t 0x0604 none (Config.errDetail 0x0604 [q, i]) ∧ (∀ j, j ≠ i → (portOf t q).paused.testBit j = p.paused.testBit j))) ∧
    (∀ i, p.ignore.testBit i = true → ∃ t, exec (.pauseIgnoreEnd q i) s = .next t ∧ portOf t q = { p with ignore := (portOf t q).ignore } ∧
      (portOf t q).ignore.testBit i = false ∧ (∀ j, j ≠ i → (portOf t q).ignore.testBit j = p.ignore.testBit j)) ∧
    (∀ i < 8, p.up = true → p.pfcOn.testBit i = true → 49152 ≤ kget 0 p.rxHeld i →
      ∃ t r, exec (.pfcRepeat q i) s = .next t ∧ portOf t q = r ∧ t = { s with ports := t.ports } ∧
        r = { p with express := r.express, expressWait := r.expressWait, counters := r.counters } ∧
        r.express ++ r.expressWait = p.express ++ p.expressWait ++ [⟨pfcBytes p.rcd i 0xFFFF, none, none, 8⟩])

/-- A received frame ends where the first failing row of the classification says, and of the rows' counters that row's alone advances; an accepted UDP frame
waits for the transport; an ARP request and a neighbour solicitation for this port are answered. -/
def Obligations.ReceivedFramesAreClassified : Prop :=
  ∀ (s : State) (q : Nat) (p : Port) (b : Bytes), portOf s q = p → p.up = true →
    (∀ e i k, (∃ n, e = .fecError n ∧ i = 22 ∧ k = n + 1) ∨ (e = .pcsError ∧ i = 23 ∧ k = 1) ∨ (e = .assemblyError ∧ i = 16 ∧ k = 1) ∨
        (e = .smdError ∧ i = 17 ∧ k = 1) →
      ∃ t, exec (.ethernetFrameReceive q e b) s = .next t ∧ t = { s with ports := t.ports } ∧ portOf t q = { p with counters := (portOf t q).counters } ∧
        ∀ j, kget 0 (portOf t q).counters j = if j = i then satAdd max64 (kget 0 p.counters i) k else kget 0 p.counters j) ∧
    (∀ express frags cws sy,
      (∀ i, classifyFrame p.rcd q b = .drop i →
        ∃ t, exec (.ethernetFrameReceive q (.ok express frags cws sy) b) s = .next t ∧ t = { s with ports := t.ports } ∧
          ∀ j, 24 ≤ j → j ≤ 36 → kget 0 (portOf t q).counters j = if j = i then satAdd max64 (kget 0 p.counters i) 1 else kget 0 p.counters j) ∧
      (∀ ns f port i, classifyFrame p.rcd q b = .udp ns f port →
        (((∀ nd, s.slory.node = some nd → port ≠ nd.port) ∧ i = 35) ∨
         ((∃ nd, s.slory.node = some nd ∧ port = nd.port) ∧ 524288 < rxTotal p + f.octets ∧ i = 36)) →
        ∃ t, exec (.ethernetFrameReceive q (.ok express frags cws sy) b) s = .next t ∧ t = { s with ports := t.ports } ∧
          kget 0 (portOf t q).counters i = satAdd max64 (kget 0 p.counters i) 1) ∧
      (∀ ns f nd, classifyFrame p.rcd q b = .udp ns f nd.port → s.slory.node = some nd → rxTotal p + f.octets ≤ 524288 →
        ∃ t, exec (.ethernetFrameReceive q (.ok express frags cws sy) b) s = .next t ∧ t = { s with ports := t.ports, slory := t.slory } ∧
          t.slory = { s.slory with rx := s.slory.rx ++ [{ f with at_ := s.clk.cycles }] } ∧
          kget 0 (portOf t q).counters 11 = satAdd max64 (kget 0 p.counters 11) 1)) ∧
    (∀ r, classifyFrame p.rcd q b = .arp r →
      ∃ t, exec (.arpRequest q b) s = .next t ∧ t = { s with ports := t.ports } ∧ kget 0 (portOf t q).counters 30 = satAdd max64 (kget 0 p.counters 30) 1 ∧
        (portOf t q).bulk ++ (portOf t q).bulkWait =
          p.bulk ++ p.bulkWait ++ (if r then [⟨arpReply p.rcd b, none, none, classPrio p.rcd false⟩] else [])) ∧
    (∀ r, classifyFrame p.rcd q b = .solicit r →
      ∃ t, exec (.neighbourSolicitation q b) s = .next t ∧ t = { s with ports := t.ports } ∧
        kget 0 (portOf t q).counters 30 = satAdd max64 (kget 0 p.counters 30) 1 ∧
        (portOf t q).bulk ++ (portOf t q).bulkWait =
          p.bulk ++ p.bulkWait ++ (if r then [⟨advertisement p.rcd b, none, none, classPrio p.rcd false⟩] else []))

/-! ### Stacked memory, sensors and power -/

/-- A granule that nothing owns is retired at once, and one that a context owns when no step of it is admitted: its bytes stand in a spare granule to which every
later access goes. The bearings write idle lines out, rewrite corrected lines, refresh, scrub and poison what they cannot correct, and a stack whose
transfers keep failing is lost, which is device-fatal. -/
def Obligations.BearingsKeepMemoryWhole : Prop :=
  (∀ (s : State) (c : Cmd) (b g k : Nat), Current s .admin 0x0090 c → b = c.fld 290 288 → g = c.fld 309 291 → kfind s.store.retired (granKey b g) = none →
    g < spareFirst → freeSpare s b = some k → frameOwner s (g / 4) = none → (∀ j < 8, (stackOf s j).wc = []) → MemoryCanonical s →
    ∃ t, exec (.pageRetire .admin [] []) s = .next t ∧ kfind t.store.retired (granKey b g) = some k ∧ StoreWrite.retire b g k (some c.seq) ∈ t.store.writing ∧
      t.steps = s.steps ∧ (∀ a, inGranule b g a = true → kget 0 t.sm.mem.base ((spareFirst + k) * 524288 + a % 524288) = kget 0 s.sm.mem.base a) ∧
      (∀ a, inGranule b g a = false → inGranule b (spareFirst + k) a = false → kget 0 t.sm.mem.base a = kget 0 s.sm.mem.base a)) ∧
  (∀ (s : State) (b g k : Nat) (n : Option Nat) (e : Nat × Nat × Nat), pendingRetire s b g = some (n, e) → (∀ m, n = some m → ctxBusy s m = false) →
    higherWork s b 4 = false → kfind s.store.retired (granKey b g) = none → freeSpare s b = some k → g < spareFirst →
    (∀ j < 8, (stackOf s j).wc = []) → MemoryCanonical s →
    ∃ t, exec (.retirementCopy b g [] []) s = .next t ∧ kfind t.store.retired (granKey b g) = some k ∧ StoreWrite.retire b g k (some e.2.2) ∈ t.store.writing ∧
      (∀ m x, n = some m → ctxOf s m = some x → ∃ x', ctxOf t m = some x' ∧ x'.retiring = x.retiring.erase e) ∧
      (n = none → t.sm.retiring = s.sm.retiring.erase e) ∧ t.steps = s.steps ∧
      (∀ a, inGranule b g a = true → kget 0 t.sm.mem.base ((spareFirst + k) * 524288 + a % 524288) = kget 0 s.sm.mem.base a)) ∧
  (∀ (s : State) (b line : Nat), s.boot.fatal = false →
    (∀ e, ((stackOf s b).wc.find? fun e => decide (e.line = line)) = some e → e.plain = true → ∀ v,
      ∃ t, exec (.writeCombiningIdleFlush b line v) s = .next t ∧ (∀ d ∈ (stackOf t b).wc, d.line ≠ line) ∧ t = { s with sm := t.sm } ∧ t.sm.mem = s.sm.mem ∧
        (∀ w, w ∈ t.sm.poison ↔ w ∈ s.sm.poison ∧ ¬ ∃ i < 4, e.full i = true ∧ w = 4 * line + i)) ∧
    (∀ e, ((stackOf s b).wc.find? fun e => decide (e.line = line)) = some e → e.plain = false → linePoisoned s (line * 128) = false →
      ∃ t, exec (.writeCombiningIdleFlush b line .ok) s = .next t ∧ (∀ d ∈ (stackOf t b).wc, d.line ≠ line) ∧ t = { s with sm := t.sm } ∧
        t.sm.mem = s.sm.mem ∧ t.sm.poison = s.sm.poison) ∧
    (((stackOf s b).rewrites.any fun q => decide (q.1 = line)) = true →
      exec (.correctedRewrite b line) s = .next (setStack s b { stackOf s b with rewrites := (stackOf s b).rewrites.filter fun q => decide (q.1 ≠ line) })) ∧
    (s.boot.powered = true →
      exec (.refresh b) s = .next (setStack s b { stackOf s b with refreshes := min max64 ((stackOf s b).refreshes + 1), fast := (stackOf s b).hot })) ∧
    (paStack (line * 128) = b → inStructures (line * 128) = false → linePoisoned s (line * 128) = false → higherWork s b 7 = false →
      (∀ tw, exec (.patrolScrub b line .ok tw) s = .next (setStack s b { stackOf s b with patrol := line + 1 })) ∧
      (∀ tw cw, ∃ t, exec (.patrolScrub b line (.uncorrectable 0 cw) tw) s = .next t ∧ linePoisoned t (line * 128) = true ∧ t.sm.mem = s.sm.mem ∧
        (stackOf t b).patrol = line + 1 ∧ kget 0 (stackOf t b).eventCounts 2 = satAdd max32 (kget 0 (stackOf s b).eventCounts 2) 1))) ∧
  (∀ (s : State) (pa src : Nat), s.boot.fatal = false → (stackOf s (paStack pa)).lost = false →
    (∃ t, exec (.parityRetry pa src true) s = .next t ∧ kget 0 (stackOf t (paStack pa)).parityTry (pa / 128) = 0 ∧ t.steps = s.steps ∧
      (stackOf t (paStack pa)).retries = satAdd max64 (stackOf s (paStack pa)).retries 1) ∧
    (kget 0 (stackOf s (paStack pa)).parityTry (pa / 128) < 2 →
      ∃ t, exec (.parityRetry pa src false) s = .next t ∧ t = { s with sm := t.sm } ∧
        kget 0 (stackOf t (paStack pa)).parityTry (pa / 128) = kget 0 (stackOf s (paStack pa)).parityTry (pa / 128) + 1) ∧
    (∀ c, ((c = .parityRetry pa src false ∧ kget 0 (stackOf s (paStack pa)).parityTry (pa / 128) = 2) ∨ c = .channelNoResponse pa src) →
      ∃ t, exec c s = .next t ∧ (stackOf t (paStack pa)).lost = true ∧ paStack pa ∈ t.store.lostStacks ∧ t.boot.fatal = true ∧ t.steps = []))

/-- A reading of the sensors sets the group's temperature, the warning and limit bits of PWR_STATE, and at the trip removes the rails; coolant flow sets the flow cap
and, below 4 L/min, recovery mode; the thermal cap follows the hotter group; flow below 1 L/min and a failed power stage are fatal. -/
def Obligations.SensorsGovernPower : Prop :=
  ∀ (s : State), s.boot.powered = true →
    (∀ (g : Nat) (v : Int) (c : Instr) (l : List Int) (was : Bool),
      ((c = .logicSensorRead l ∧ g = 0 ∧ v = highest (l.take 38) ∧ was = s.power.logicLimit) ∨
       (∃ b < 8, c = .dramSensorRead b l ∧ g = 1 ∧ was = s.power.dramLimit ∧
         v = highest ((List.range 8).flatMap fun i => if i = b then l.take 8 else (stackOf s i).sensors))) →
      let th := if g = 0 then ((1520 : Int), (1600 : Int), (1680 : Int), (1840 : Int)) else (1408, 1440, 1520, 1600)
      ∃ t, exec c s = .next t ∧ t.power.temps = s.power.temps.set g v ∧ t.power.state.testBit (2 + 3 * g) = decide (th.1 ≤ v) ∧
        t.power.state.testBit (3 + 3 * g) = decide (th.2.1 ≤ v) ∧
        t.power.state.testBit (4 + 3 * g) = (decide (th.2.2.1 ≤ v) || (was && decide (th.2.2.1 - 32 < v))) ∧
        (th.2.2.1 ≤ v → t.power.recovery = true) ∧
        (th.2.2.2 ≤ v → s.boot.railsOn = true → t.boot.railsOn = false ∧ t.boot.fatal = true) ∧
        (v < th.2.2.2 → t.boot = s.boot ∧ t.steps = s.steps)) ∧
    (∀ (inlet outlet : Int) (flow : Nat), ∃ t, exec (.coolantSensorRead inlet outlet flow) s = .next t ∧ t.power.flow = flow ∧
      t.power.flowCap = (if flow < 4000 then 2500 * flow / 4000 else 2500) ∧ t.power.temps = (s.power.temps.set 2 inlet).set 3 outlet ∧
      t.power.state.testBit 8 = decide (flow < 4000) ∧ (flow < 4000 → t.power.recovery = true) ∧ t.steps = s.steps) ∧
    (let d := max (s.power.temps.getD 0 0 - 1600) (s.power.temps.getD 1 0 - 1440)
     ∃ t, exec .thermalCapUpdate s = .next t ∧ t.steps = s.steps ∧
      t.power.thermalCap = (if 0 ≤ d then max 600 (s.power.thermalCap - 25 * (1 + (d / 16).toNat))
        else if d < -32 then min 2500 (s.power.thermalCap + 25) else s.power.thermalCap)) ∧
    (s.boot.railsOn = true → s.power.flow < 1000 → s.boot.fatal = false →
      ∃ t, exec .flowTrip s = .next t ∧ t.boot.railsOn = false ∧ t.boot.railsRemoved = true ∧ t.boot.fatal = true ∧ t.steps = []) ∧
    (∀ stage, (s.boot.fatal = false → ∃ t, exec (.powerStageFault stage true) s = .next t ∧ t.boot.fatal = true ∧ t.steps = []) ∧
      ∃ t, exec (.powerStageFault stage false) s = .next t ∧ t.power.alarm = true ∧ t.power.recovery = true ∧ t.boot = s.boot ∧ t.steps = s.steps) ∧
    (s.power.recovery = true → s.power.logicLimit = false → s.power.dramLimit = false → 4000 ≤ s.power.flow →
      ∃ t, exec .recoveryExit s = .next t ∧ t.power.recovery = false ∧ t.power.alarm = false ∧ t.power.mode ≠ .recovery ∧ t = { s with power := t.power })

/-- Each microsecond's power joins the samples, the means and the measured energy; a fall of a span's activity is remembered; every decision sets the controller's
stretch from the predicted power and the PWR_STATE bit of a cap that is not met; a droop stretches the clock to at least 2,000 outside normal mode, until its
hold ends, and in normal mode is only counted, but for the sixteenth within a millisecond, which begins recovery mode. -/
def Obligations.PowerIsMeasuredAndControlled : Prop :=
  ∀ (s : State), s.boot.powered = true →
    (∀ mw, ∃ t, exec (.powerMeasurement mw) s = .next t ∧ t = { s with power := t.power, free := t.free } ∧
      t.power.samples = (mw :: s.power.samples).take 2000 ∧ t.power.measured = satAdd max64 s.power.measured mw ∧
      t.power.mean10 = mean ((mw :: s.power.samples).take 10) ∧ t.power.mean1ms = mean ((mw :: s.power.samples).take 1000) ∧
      t.power.prev1ms = mean (((mw :: s.power.samples).take 2000).drop 1000)) ∧
    (∀ sp avg, (s.power.mode = .normal ∨ s.power.mode = .recovery) → 125 ≤ avg → sp < 32 →
      ∃ t, exec (.fall sp avg) s = .next t ∧ t = { s with power := t.power } ∧ t.power.falls.head? = some (sp, s.clk.uptime, avg)) ∧
    (∀ pfix walk, s.boot.railsRemoved = false →
      let sum := total ((List.range 32).map (spanEnergy s))
      let p := predictedS (targetMw s) pfix sum
      ∃ t, exec (.capDecision pfix [] walk) s = .next t ∧ t.steps = s.steps ∧ t.power.pFix = pfix ∧
        t.power.controller = (if targetMw s < mean (s.power.samples.take 100) then max p (min 16000 (ceilDiv (s.power.controller * 105) 100)) else p) ∧
        t.power.stretch = effectiveS t.power ∧ t.power.state.testBit 9 = decide (16000000 * capInForce s.power < 16000 * pfix + 1500 * sum)) ∧
    (∀ d < 34,
      (s.power.mode = .normal → s.power.recovery = false →
        (s.power.droopRecent.filter fun t => decide (s.clk.uptime < t + 100000)).length < 15 →
        ∃ t, exec (.droop d) s = .next t ∧ kget 0 t.power.droop d = satAdd max64 (kget 0 s.power.droop d) 1 ∧ t.power.stretch = s.power.stretch ∧
          t.power.mode = .normal ∧ t.power.droopHold = s.power.droopHold) ∧
      (s.power.mode = .normal → 15 ≤ (s.power.droopRecent.filter fun t => decide (s.clk.uptime < t + 100000)).length →
        ∃ t, exec (.droop d) s = .next t ∧ kget 0 t.power.droop d = satAdd max64 (kget 0 s.power.droop d) 1 ∧ t.power.recovery = true) ∧
      (s.power.mode ≠ .normal → s.boot.railsRemoved = false →
        ∃ t, exec (.droop d) s = .next t ∧ kget 0 t.power.droop d = satAdd max64 (kget 0 s.power.droop d) 1 ∧ t.power.droopHold = true ∧ 2000 ≤ t.power.stretch ∧ t = { s with power := t.power })) ∧
    (s.power.droopHold = true → s.boot.railsRemoved = false →
      ∃ t, exec .droopHoldEnd s = .next t ∧ t.power.droopHold = false ∧ t.power.stretch = effectiveS t.power ∧ t = { s with power := t.power })

/-- ENERGY_READ writes the record of its context or of the module; ATTEST_REPORT writes the signed report with the certificates and
replies with its length; DIAG_RUN enters test mode, and its end, which replies the parts that failed, leaves it. An accepted command that its timeout ends replies
ST_TIMEOUT and leaves what R369 says: no image in the slot, an empty store slot, no load and of a PENDING one the context as it was, no stream,
the context of a restore as it was, nothing retired, no test. -/
def Obligations.ServiceCommandsReply : Prop :=
  (∀ (s : State) (c : Cmd), Current s .admin 0x00A1 c → 2304 ≤ c.resultBytes → c.resultAddr % 64 = 0 →
    ∃ t, exec (.energyRead .admin) s = .next t ∧ Ended s t .admin c 0 0 ∧ t.steps = s.steps ∧
      ResultWritten s t (fun o => some (c.resultAddr + o)) (moduleEnergyBytes s)) ∧
  (∀ (s : State) (n : Nat) (k : Ctx) (c : Cmd), Current s (.ctx n) 0x00A1 c → ctxOf s n = some k → 128 ≤ c.resultBytes → c.resultAddr % 64 = 0 →
    ∃ t, exec (.energyRead (.ctx n)) s = .next t ∧ Ended s t (.ctx n) c 0 0 ∧ t.steps = s.steps ∧
      ResultWritten s t (fun o => hostAddr k (c.resultAddr + o)) (energyBytes s.clk.uptime k.energy)) ∧
  (∀ (s : State) (r : RingId) (c : Cmd) (who : Option (Nat × Ctx)) (loc : Nat → Option Nat), Current s r 0x00C0 c → 8192 ≤ c.resultBytes → c.resultAddr % 64 = 0 →
    ((r = .admin ∧ who = none ∧ loc = fun o => some (c.resultAddr + o)) ∨
     (∃ n k, r = .ctx n ∧ ctxOf s n = some k ∧ k.destroying = none ∧ who = some (n, k) ∧ loc = fun o => hostAddr k (c.resultAddr + o))) →
    ∃ t, exec (.attestReport r) s = .next t ∧ Ended s t r c 0 reportLength ∧ t.steps = s.steps ∧
      ResultWritten s t loc
        (reportBody s c.param who ++ slice (Config.identitySign (Config.freeValue s.free) (reportBody s c.param who)) 0 512 ++ certBytes)) ∧
  (∀ (s : State) (c : Cmd), Current s .admin 0x00F0 c → s.ctxs = [] → s.diag = none → s.power.recovery = false → s.boot.ready = true →
    ∃ t g c' d, exec (.diagRun .admin) s = .next t ∧ t.power.mode = .test ∧ t.diag = some d ∧ t.admin = some g ∧ g.cmd c.seq = some c' ∧ c'.accepted = true ∧
      c'.held = none ∧ t.sm = s.sm) ∧
  (∀ (s : State) (failed : Nat) (c : Cmd) (d : Diag), s.diag = some d → ((ringOf s .admin).bind fun g => g.cmd c.seq) = some c → d.seq = c.seq →
    ∃ t, exec (.diagTestComplete failed) s = .next t ∧ Ended s t .admin c 0 failed ∧ t.diag = none ∧ t.power.testing = false ∧ t.power.mode ≠ .test) ∧
  (∀ (s : State) (r : RingId) (c : Cmd), ((ringOf s r).bind fun g => g.cmd c.seq) = some c → c.accepted = true → c.held = none →
    s.sched.owing = [] → s.sched.follows = [] →
    (∀ n, r = .ctx n → c.opcode = 0x0020 →
      ∃ t, exec (.commandTimeout r c.seq) s = .next t ∧ Ended s t r c 0x000A 0 ∧ ∀ k', ctxOf t n = some k' → kfind k'.images (c.fld 291 288) = none) ∧
    (∀ n k, r = .ctx n → c.opcode = 0x0072 → ctxOf s n = some k →
      ∃ t k', exec (.commandTimeout r c.seq) s = .next t ∧ Ended s t r c 0x000A 0 ∧ ctxOf t n = some k' ∧ k' = { k with energy := k'.energy }) ∧
    (∀ n k j, r = .ctx n → c.opcode = 0x0050 → ctxOf s n = some k → k.load = some j → j.seq = c.seq →
      ∃ t k', exec (.commandTimeout r c.seq) s = .next t ∧ Ended s t r c 0x000A 0 ∧ ctxOf t n = some k' ∧ k'.load = none ∧
        (j.direct = false → k' = { k with load := none, drawn := k.drawn - j.reserved, energy := k'.energy }) ∧
        (j.direct = true → ∀ q ∈ k'.tensors, (∃ e ∈ j.records, e.1 = q.num) → q.loaded = false)) ∧
    (∀ n k q, r = .ctx n → c.opcode = 0x0070 → ctxOf s n = some k → k.sender = some q → q.stopping = none →
      ∃ t k', exec (.commandTimeout r c.seq) s = .next t ∧ Ended s t r c 0x000A 0 ∧ ctxOf t n = some k' ∧ k'.sender = none ∧ k'.ckptWait = none ∧
        ∀ f ∈ t.slory.tx, ¬ (f.op = 5 ∧ f.ctx = n)) ∧
    (r = .admin → c.opcode = 0x0050 → installCmd s (c.fld 295 292) = some c →
      ∃ t, exec (.commandTimeout r c.seq) s = .next t ∧ Ended s t r c 0x000A 0 ∧ kget {} t.store.slots (c.fld 295 292) = {}) ∧
    (r = .admin → c.opcode = 0x0090 →
      ∃ t, exec (.commandTimeout r c.seq) s = .next t ∧ Ended s t r c 0x000A 0 ∧
        (∀ b g k, StoreWrite.retire b g k (some c.seq) ∉ t.store.writing) ∧
        (∀ b g k, StoreWrite.retire b g k (some c.seq) ∈ s.store.writing → kfind t.store.retired (granKey b g) = none) ∧
        (∀ e ∈ t.sm.retiring, e.2.2 ≠ c.seq) ∧ ∀ n k', ctxOf t n = some k' → ∀ e ∈ k'.retiring, e.2.2 ≠ c.seq) ∧
    (r = .admin → c.opcode = 0x00F0 →
      ∃ t failed, exec (.commandTimeout r c.seq) s = .next t ∧ Ended s t r c 0x000A failed ∧ t.diag = none ∧ t.power.testing = false ∧ t.power.mode ≠ .test))

/-! ### Watchdogs and the management bus -/

/-- A control core's first watchdog expiry is logged, a second within the next millisecond is fatal; a ring whose eligible command stays unfetched is fatal; the
management controller restarts alone; a corrected error of a core's memory is logged, an uncorrectable one fatal. -/
def Obligations.WatchdogsLogOrHalt : Prop :=
  ∀ (s : State), s.boot.powered = true →
    (∀ core, (∀ u, kfind s.mgmt.coreTries core = some u → u + 100000 < s.clk.uptime) →
      ∃ t, exec (.controlCoreWatchdog core) s = .next t ∧ Logged s t 0x0403 none (BitVec.ofNat 128 core) ∧ kfind t.mgmt.coreTries core = some s.clk.uptime ∧
        t = { s with mgmt := t.mgmt, err := t.err, msix := t.msix, out := t.out }) ∧
    (∀ core u, kfind s.mgmt.coreTries core = some u → s.clk.uptime ≤ u + 100000 → s.boot.fatal = false →
      ∃ t, exec (.controlCoreWatchdog core) s = .next t ∧ t.boot.fatal = true ∧ t.boot.stage = 0xF0 ∧ t.steps = []) ∧
    (∀ r g, ringOf s r = some g → eligible g = true → s.boot.fatal = false →
      ∃ t, exec (.commandProgressWatchdog r) s = .next t ∧ t.boot.fatal = true ∧ t.boot.stage = 0xF0 ∧ t.steps = []) ∧
    (s.mgmt.restarting = false →
      ∃ t, exec .managementControllerWatchdog s = .next t ∧ t.mgmt = { s.mgmt with restarting := true } ∧ Logged s t 0x0406 none 0 ∧
        t = { s with mgmt := t.mgmt, err := t.err, msix := t.msix, out := t.out }) ∧
    (exec .managementControllerRestart s = .next { s with mgmt := { s.mgmt with restarting := false } }) ∧
    (∀ what, (∃ t, exec (.controlCoreMemoryError what true) s = .next t ∧ Logged s t 0x0401 none (BitVec.ofNat 128 what) ∧ OnlyLog s t) ∧
      (s.boot.fatal = false → ∃ t, exec (.controlCoreMemoryError what false) s = .next t ∧ t.boot.fatal = true ∧ t.steps = []))

/-- The management controller takes a dynamic address, an endpoint id and a terminus id, answers every message it does not know with its error code, reads its
sensors, and writes a component that is offered and passes its checks, while the boot goes on as it was; of one that fails them it writes nothing. A record comes
into force at the next boot, and a store image is written in the order of an installation, unless its slot is busy; writing a loader or firmware makes the
activation possible that resets the module. Message layouts: the model's, log entry 31. -/
def Obligations.ManagementBusAnswers : Prop :=
  ∀ (s : State), mgmtUp s = true →
    (∀ a < 128, exec (.i3cAddressAssignment a) s = .next { s with mgmt := { s.mgmt with dynAddr := some a }, out := .i3cAddress a :: s.out }) ∧
    (∀ msg, (msgByte msg 2 = 0x01 → msgByte msg 4 ≠ 0 → msgByte msg 4 ≠ 255 →
        ∃ t o, exec (.mctpControlMessage msg) s = .next t ∧ t = { s with mgmt := { s.mgmt with eid := msgByte msg 4 }, out := .mctp o :: s.out } ∧ o.getD 3 0 = 0) ∧
      (msgByte msg 2 ∉ [1, 2, 4, 5] →
        ∃ t o, exec (.mctpControlMessage msg) s = .next t ∧ t = { s with out := .mctp o :: s.out } ∧ o.getD 3 0 = 0x05)) ∧
    (∀ msg, (msgByte msg 3 = 0x01 →
        ∃ t o, exec (.pldmBase msg) s = .next t ∧ t = { s with mgmt := { s.mgmt with tid := msgByte msg 4 }, out := .pldm o :: s.out } ∧ o.getD 4 0 = 0) ∧
      (msgByte msg 3 ∉ [1, 2, 3, 4, 5] →
        ∃ t o, exec (.pldmBase msg) s = .next t ∧ t = { s with out := .pldm o :: s.out } ∧ o.getD 4 0 = 0x05)) ∧
    (∀ typ, exec (.errorUnsupportedCmd typ) s = .next { s with out := .unsupportedCmd typ :: s.out }) ∧
    (∀ id v, (id, v) ∈ [(1, (s.power.mean10 : Int)), (2, (capInForce s.power : Int)), (3, (s.power.stretch : Int)), (4, s.power.temps.getD 0 0), (5, s.power.temps.getD 1 0),
        (6, s.power.temps.getD 2 0), (7, s.power.temps.getD 3 0), (8, (s.power.flow : Int)), (9, (s.boot.stage : Int)), (10, (s.err.slots.length : Int))] →
      exec (.pldmSensorReading id) s = .next { s with out := .pldmSensor id v :: s.out }) ∧
    (∀ id, (id = 0 ∨ 10 < id) → exec (.pldmSensorReading id) s = .next { s with out := .pldm [0x80#8] :: s.out }) ∧
    (∀ img, s.boot.stage ≠ 0xF0 →
      (∃ t, exec (.pldmFirmwareUpdate 1 img) s = .next t ∧ t.boot = s.boot ∧
        (if Config.vendorSigned img = true then 1 ∈ t.mgmt.written ∧ t.store = { s.store with loader := t.store.loader } ∧ (t.store.loader.map (·.bytes)) = [img, img]
         else t = { s with out := .updateResult 1 1 :: s.out })) ∧
      (∃ t, exec (.pldmFirmwareUpdate 2 img) s = .next t ∧ t.boot = s.boot ∧
        (if Config.vendorSigned img = true ∧ s.store.fwCounter ≤ Config.objectVersion img ∧ recordFloor s.store.cfgForce.record ≤ Config.objectVersion img then
           2 ∈ t.mgmt.written ∧ t.store = { s.store with firmware := t.store.firmware } ∧ (t.store.firmware.map (·.bytes)) = [img, img]
         else t = { s with out := .updateResult 2 1 :: s.out })) ∧
      (∃ t, exec (.pldmFirmwareUpdate 3 img) s = .next t ∧ t.boot = s.boot ∧
        (if (img.take 8192).length = 8192 ∧ recordLegal s (img.take 8192) = true ∧ recordSigner s img ≠ 0 then
           t.store = { s.store with cfg := t.store.cfg, ownerOnce := t.store.ownerOnce } ∧ (t.store.cfg.map (·.record)) = [img.take 8192, img.take 8192]
         else t = { s with out := .updateResult 3 1 :: s.out })) ∧
      (∀ i < 16, s.boot.stage ≠ 0xE0 →
        (((kget {} s.store.slots i).busy = true ∨ (kget {} s.store.slots i).repair = true ∨ slotRead s i = true) →
          exec (.pldmFirmwareUpdate (0x10 + i) img) s = .next { s with out := .updateResult (0x10 + i) 2 :: s.out }) ∧
        (∀ head m, head = img.take (imgData img) → m = imageBlocksOf img head → (kget {} s.store.slots i).busy = false →
          (kget {} s.store.slots i).repair = false → slotRead s i = false →
          (if storeImageFault head = none ∧ imageTrusted s head = true ∧ (∀ k < imgBlocks head, blockTrusted head k (kget [] m k) = true) ∧
              extentsUsed s i + 2 * ceilDiv (imgBytes head) (2 ^ 30) ≤ 4032 then
             ∃ t, exec (.pldmFirmwareUpdate (0x10 + i) img) s = .next t ∧ kget {} t.store.slots i = { a := { head := head, blocks := m }, busy := true } ∧
               t = { s with store := { s.store with slots := t.store.slots, writing := s.store.writing ++ [.copyA i none] } }
           else exec (.pldmFirmwareUpdate (0x10 + i) img) s = .next { s with out := .updateResult (0x10 + i) 1 :: s.out }))) ∧
      (s.mgmt.written ≠ [] → s.boot.railsRemoved = false → ∃ t, exec .activateFirmware s = .next t ∧ t.boot.stage = 0x02 ∧ t.boot.cause = 0x5 ∧ t.ctxs = [] ∧ t.steps = []) ∧
      (∀ c, (c = 0 ∨ (4 ≤ c ∧ c < 0x10) ∨ 0x20 ≤ c) → exec (.pldmFirmwareUpdate c img) s = .next { s with out := .updateResult c 3 :: s.out }))

/-! ### Rules stated whole -/

/-- Each ring keeps an expected SEQ: 0 when the ring record is installed, and after every fetched command, accepted or not, that command's SEQ + 1 modulo
2^32; a command whose SEQ differs is not accepted. -/
def Obligations.RingsExpectTheNextSeq : Prop :=
  (∀ (s t : State) (c : Cmd) (lists : List HostData), Current s .admin 0x0010 c → ctxOf s (c.fld 295 288) = none →
    exec (.ctxCreate .admin lists) s = .next t → ctxOf t (c.fld 295 288) ≠ none → ∃ g, ringOf t (.ctx (c.fld 295 288)) = some g ∧ g.expSeq = 0) ∧
  (∀ (s : State) (v : BitVec 64), s.host.up = true → s.boot.ready = true → v.getLsbD 0 = true → ringFault (adminRecBytes s) (ctxSpans s) (allPages s) = none →
    (∀ g, s.admin = some g → g.cmds = []) → ∃ t g, exec (.rstAdminInstall 8 false v) s = .next t ∧ t.admin = some g ∧ g.expSeq = 0) ∧
  (∀ (s : State) (r : RingId) (g : Ring) (b : Bytes) (p : HostData), ringOf s r = some g → eligible g = true → ringLive s r = true →
    let c := cmdOf b g.cmdHead.toNat s.clk.uptime
    ∃ t g', exec (.commandFetch r (.ok b) p) s = .next t ∧ ringOf t r = some g' ∧ g'.expSeq = BitVec.ofNat 32 (c.seqNo + 1) ∧
      (c.seqNo ≠ g.expSeq.toNat → (∀ k ∈ g.cmds, k.seq ≠ c.seq) → ∀ k ∈ g'.cmds, k.seq = c.seq → k.accepted = false ∧ k.held ≠ none))

/-- The cap in force is the least of four limits; at boot the set cap is CAP_LIMIT_W; POWER_CAP_SET above CAP_LIMIT_W is refused, naming CAP_W, and any other replies
with the cap then in force. -/
def Obligations.CapInForceIsTheLeastLimit : Prop :=
  (∀ p : Power, capInForce p ∈ [p.setCap, p.capLimit, p.thermalCap, p.flowCap] ∧ ∀ w ∈ [p.setCap, p.capLimit, p.thermalCap, p.flowCap], capInForce p ≤ w) ∧
  (∀ s : State, s.boot.powered = true → s.boot.fatal = false → s.boot.perstN = true → s.boot.stage = 0x03 →
    (∃ c ∈ s.store.firmware.take 2, fwOk s c = true) →
    ∃ t, exec .loader s = .next t ∧ t.power.setCap = t.power.capLimit ∧ t.power.capLimit = recordCap t.store.cfgForce.record) ∧
  (∀ (s : State) (c : Cmd), Current s .admin 0x00A0 c →
    (s.power.capLimit < c.fld 299 288 →
      ∃ t, exec (.powerCapSet .admin) s = .next t ∧ t.steps = s.steps ∧ t.power = { s.power with adminQueue := t.power.adminQueue } ∧
        Replied s t .admin c { status := 0x0002, opcode := c.opcode, seq := c.seqNo, kind := 1, detail0 := 0, detail1 := 36 }) ∧
    (c.fld 299 288 ≤ s.power.capLimit →
      ∃ t, exec (.powerCapSet .admin) s = .next t ∧ t.power.setCap = c.fld 299 288 ∧ t.power.capLimit = s.power.capLimit ∧ t.steps = s.steps ∧
        Ended s t .admin c 0 (capInForce t.power)))
end

