-- ==== Sys2Proof/Laws/Maps.lean ====
section
/-! SUPPORT. Laws of the sparse maps: a read after a write gives the value written, a write leaves every other key
alone, and every operation keeps the canonical form. -/

namespace Sys2Proof.Machine

/-! ### Reading after writing -/

theorem kfind_kput_self {α : Type} (m : KMap α) (k : Nat) (v : α) : kfind (kput m k v) k = some v := by
  induction m with
  | nil => simp [kput, kfind]
  | cons e t ih =>
    obtain ⟨j, w⟩ := e
    unfold kput
    split
    · simp [kfind]
    · split
      · simp [kfind]
      · rename_i h
        simp [kfind, Ne.symm h, ih]

theorem kfind_kput_of_ne {α : Type} (m : KMap α) {k k' : Nat} (v : α) (h : k' ≠ k) : kfind (kput m k v) k' = kfind m k' := by
  induction m with
  | nil => simp [kput, kfind, Ne.symm h]
  | cons e t ih =>
    obtain ⟨j, w⟩ := e
    unfold kput
    split
    · simp [kfind, Ne.symm h]
    · split
      · rename_i hk
        subst hk
        simp [kfind, Ne.symm h]
      · simp [kfind, ih]

theorem kfind_kput {α : Type} (m : KMap α) (k k' : Nat) (v : α) :
    kfind (kput m k v) k' = if k' = k then some v else kfind m k' := by
  split
  · rename_i h; subst h; exact kfind_kput_self m k' v
  · rename_i h; exact kfind_kput_of_ne m v h

theorem kfind_filter {α : Type} (m : KMap α) (p : Nat → Bool) (k : Nat) :
    kfind (m.filter fun e => p e.1) k = if p k then kfind m k else none := by
  induction m with
  | nil => simp [kfind]
  | cons e t ih =>
    obtain ⟨j, w⟩ := e
    by_cases hp : p j
    · by_cases hj : j = k
      · subst hj; simp [hp, kfind]
      · simp [hp, kfind, hj, ih]
    · by_cases hj : j = k
      · subst hj; simp [hp, ih]
      · simp [hp, kfind, hj, ih]

theorem kfind_kdel {α : Type} (m : KMap α) (k k' : Nat) : kfind (kdel m k) k' = if k' = k then none else kfind m k' := by
  rw [kdel, kfind_filter m (fun j => decide (j ≠ k))]
  by_cases h : k' = k <;> simp [h]

theorem kget_kput {α : Type} (d : α) (m : KMap α) (k k' : Nat) (v : α) :
    kget d (kput m k v) k' = if k' = k then v else kget d m k' := by
  unfold kget
  rw [kfind_kput]
  split <;> rfl

theorem kget_kset {α : Type} [DecidableEq α] (d : α) (m : KMap α) (k k' : Nat) (v : α) :
    kget d (kset d m k v) k' = if k' = k then v else kget d m k' := by
  unfold kset
  split
  · rename_i h
    subst h
    unfold kget
    rw [kfind_kdel]
    split <;> rfl
  · exact kget_kput d m k k' v

theorem kget_kupd {α : Type} (d : α) (m : KMap α) (k k' : Nat) (f : α → α) :
    kget d (kupd d m k f) k' = if k' = k then f (kget d m k) else kget d m k' := kget_kput d m k k' _

theorem kget_ksetRun_of_lt {α : Type} [DecidableEq α] (d : α) (xs : List α) (m : KMap α) (k k' : Nat) (h : k' < k) :
    kget d (ksetRun d m k xs) k' = kget d m k' := by
  induction xs generalizing m k with
  | nil => rfl
  | cons x xs ih => rw [ksetRun, ih _ _ (by omega), kget_kset, if_neg (by omega)]

/-- A run written at `k` reads back; every other key reads as before. -/
theorem kget_ksetRun {α : Type} [DecidableEq α] (d : α) (xs : List α) (m : KMap α) (k k' : Nat) :
    kget d (ksetRun d m k xs) k' = if k ≤ k' ∧ k' < k + xs.length then xs.getD (k' - k) d else kget d m k' := by
  induction xs generalizing m k with
  | nil =>
    rw [ksetRun, if_neg (by simp)]
  | cons x xs ih =>
    rw [ksetRun, ih, kget_kset]
    by_cases h : k' = k
    · subst h
      simp
    · by_cases h2 : k ≤ k' ∧ k' < k + (xs.length + 1)
      · rw [if_pos (by omega), if_pos (by simpa using h2)]
        obtain ⟨n, hn⟩ : ∃ n, k' - k = n + 1 := ⟨k' - k - 1, by omega⟩
        have hm : k' - (k + 1) = n := by omega
        rw [hn, hm]
        simp
      · rw [if_neg (by omega), if_neg h, if_neg (by simpa using h2)]

theorem kget_kclear {α : Type} (d : α) (m : KMap α) (lo n k : Nat) :
    kget d (kclear m lo n) k = if k < lo ∨ lo + n ≤ k then kget d m k else d := by
  unfold kget kclear
  rw [kfind_filter m (fun j => decide (j < lo ∨ lo + n ≤ j))]
  by_cases h : k < lo ∨ lo + n ≤ k <;> simp [h]

/-! ### The canonical form -/

theorem kwfFrom_weaken {α : Type} [DecidableEq α] (d : α) (m : KMap α) {a : Nat} {b : Option Nat}
    (h : kwfFrom d (some a) m = true) (hb : ∀ l, b = some l → l ≤ a) : kwfFrom d b m = true := by
  cases m with
  | nil => rfl
  | cons e t =>
    obtain ⟨j, v⟩ := e
    simp only [kwfFrom, Bool.and_eq_true, decide_eq_true_eq] at h ⊢
    refine ⟨⟨?_, h.1.2⟩, h.2⟩
    cases b with
    | none => rfl
    | some l => exact decide_eq_true (by have := hb l rfl; omega)

theorem kwfFrom_kput {α : Type} [DecidableEq α] (d : α) (m : KMap α) (lo : Option Nat) (k : Nat) (v : α)
    (h : kwfFrom d lo m = true) (hk : ∀ l, lo = some l → l < k) (hv : v ≠ d) : kwfFrom d lo (kput m k v) = true := by
  induction m generalizing lo with
  | nil =>
    simp only [kput, kwfFrom, Bool.and_eq_true, decide_eq_true_eq]
    refine ⟨⟨?_, hv⟩, trivial⟩
    cases lo with
    | none => rfl
    | some l => exact decide_eq_true (hk l rfl)
  | cons e t ih =>
    obtain ⟨j, w⟩ := e
    simp only [kwfFrom, Bool.and_eq_true, decide_eq_true_eq] at h
    obtain ⟨⟨h1, h2⟩, h3⟩ := h
    have hlo : kwfFrom d lo [(k, v)] = true := by
      simp only [kwfFrom, Bool.and_eq_true, decide_eq_true_eq]
      refine ⟨⟨?_, hv⟩, trivial⟩
      cases lo with
      | none => rfl
      | some l => exact decide_eq_true (hk l rfl)
    simp only [kwfFrom, Bool.and_eq_true, decide_eq_true_eq] at hlo
    unfold kput
    split
    · rename_i hkj
      simp only [kwfFrom, Bool.and_eq_true, decide_eq_true_eq]
      exact ⟨hlo.1, ⟨hkj, h2⟩, h3⟩
    · split
      · rename_i hkj
        subst hkj
        simp only [kwfFrom, Bool.and_eq_true, decide_eq_true_eq]
        exact ⟨hlo.1, h3⟩
      · rename_i hlt hne
        simp only [kwfFrom, Bool.and_eq_true, decide_eq_true_eq]
        refine ⟨⟨h1, h2⟩, ih (some j) h3 ?_⟩
        intro l hl
        cases hl
        omega

theorem kwfFrom_filter {α : Type} [DecidableEq α] (d : α) (m : KMap α) (p : Nat × α → Bool) (lo : Option Nat)
    (h : kwfFrom d lo m = true) : kwfFrom d lo (m.filter p) = true := by
  induction m generalizing lo with
  | nil => rfl
  | cons e t ih =>
    obtain ⟨j, v⟩ := e
    simp only [kwfFrom, Bool.and_eq_true, decide_eq_true_eq] at h
    obtain ⟨⟨h1, h2⟩, h3⟩ := h
    by_cases hp : p (j, v)
    · simp only [List.filter_cons, hp, if_true, kwfFrom, Bool.and_eq_true, decide_eq_true_eq]
      exact ⟨⟨h1, h2⟩, ih _ h3⟩
    · simp only [List.filter_cons, hp]
      refine kwfFrom_weaken d _ (ih _ h3) ?_
      intro l hl
      subst hl
      have : l < j := by simpa using h1
      omega

theorem kwf_nil {α : Type} [DecidableEq α] (d : α) : kwf d ([] : KMap α) = true := rfl

theorem kwf_filter {α : Type} [DecidableEq α] {d : α} {m : KMap α} (p : Nat × α → Bool) (h : kwf d m = true) :
    kwf d (m.filter p) = true := kwfFrom_filter d m p none h

theorem kwf_kdel {α : Type} [DecidableEq α] {d : α} {m : KMap α} (k : Nat) (h : kwf d m = true) : kwf d (kdel m k) = true :=
  kwf_filter _ h

theorem kwf_kset {α : Type} [DecidableEq α] {d : α} {m : KMap α} (k : Nat) (v : α) (h : kwf d m = true) :
    kwf d (kset d m k v) = true := by
  unfold kset
  split
  · exact kwf_kdel k h
  · rename_i hv
    exact kwfFrom_kput d m none k v h (fun _ hl => by cases hl) hv

theorem kwf_ksetRun {α : Type} [DecidableEq α] {d : α} (xs : List α) {m : KMap α} (k : Nat) (h : kwf d m = true) :
    kwf d (ksetRun d m k xs) = true := by
  induction xs generalizing m k with
  | nil => exact h
  | cons x xs ih => exact ih _ (kwf_kset k x h)

theorem kwf_kclear {α : Type} [DecidableEq α] {d : α} {m : KMap α} (lo n : Nat) (h : kwf d m = true) :
    kwf d (kclear m lo n) = true := kwf_filter _ h

/-- Writes folded over any list keep the canonical form. -/
theorem kwf_foldl_kset {α β : Type} [DecidableEq α] {d : α} (key : β → Nat) (val : β → α) (l : List β) {m : KMap α}
    (h : kwf d m = true) : kwf d (l.foldl (fun m e => kset d m (key e) (val e)) m) = true := by
  induction l generalizing m with
  | nil => exact h
  | cons e t ih => exact ih (kwf_kset _ _ h)

/-! ### Memories versioned by nominal cycle -/

theorem vlast_cons {α : Type} (st cyc a : Nat) (w : WriteRec α) (t : List (WriteRec α)) (acc : Option (Nat × α)) :
    vlast st cyc a (w :: t) acc = vlast st cyc a t (if (decide (w.step = st ∧ w.addr = a ∧ w.cycle ≤ cyc) &&
      (match acc with | none => true | some (c, _) => decide (c ≤ w.cycle))) = true then some (w.cycle, w.val) else acc) := by
  cases acc <;> simp only [vlast] <;> split <;> rfl

theorem vlast_append {α : Type} (st cyc a : Nat) (l r : List (WriteRec α)) (acc : Option (Nat × α)) :
    vlast st cyc a (l ++ r) acc = vlast st cyc a r (vlast st cyc a l acc) := by
  induction l generalizing acc with
  | nil => rfl
  | cons w t ih =>
    rw [List.cons_append, vlast_cons, vlast_cons, ih]

/-- What a read of another address or another step sees is left alone by a write. -/
theorem vread_vwrite_of_ne {α : Type} (d : α) (v : Vers α) (st st' cyc cyc' a a' : Nat) (x : α) (h : st' ≠ st ∨ a' ≠ a) :
    vread d (vwrite v st cyc a x) st' cyc' a' = vread d v st' cyc' a' := by
  have hn : ¬ (st = st' ∧ a = a' ∧ cyc + 1 ≤ cyc') := by
    rintro ⟨h1, h2, -⟩
    rcases h with h | h
    · exact h h1.symm
    · exact h h2.symm
  simp only [vread, vwrite, vlast_append, vlast, hn, decide_false, Bool.false_and, if_false, Bool.false_eq_true]

/-- A read at the write's own nominal cycle, or before it, does not see it (R134, R235). -/
theorem vread_vwrite_of_le {α : Type} (d : α) (v : Vers α) (st st' cyc cyc' a a' : Nat) (x : α) (h : cyc' ≤ cyc) :
    vread d (vwrite v st cyc a x) st' cyc' a' = vread d v st' cyc' a' := by
  have hn : ¬ (st = st' ∧ a = a' ∧ cyc + 1 ≤ cyc') := by omega
  simp only [vread, vwrite, vlast_append, vlast, hn, decide_false, Bool.false_and, if_false, Bool.false_eq_true]

theorem vlast_cycle_le {α : Type} (st cyc a b : Nat) (l : List (WriteRec α)) (acc : Option (Nat × α))
    (hl : ∀ w ∈ l, w.cycle ≤ b) (ha : ∀ c x, acc = some (c, x) → c ≤ b) (c : Nat) (x : α)
    (h : vlast st cyc a l acc = some (c, x)) : c ≤ b := by
  induction l generalizing acc with
  | nil => exact ha c x h
  | cons w t ih =>
    rw [vlast_cons] at h
    refine ih _ (fun w' hw' => hl w' (List.mem_cons_of_mem _ hw')) ?_ h
    intro c' x' he
    rcases ite_eq_iff.mp he with ⟨-, h'⟩ | ⟨-, h'⟩
    · cases h'
      exact hl w (List.mem_cons_self ..)
    · exact ha c' x' h'

/-- A read of later nominal cycle sees the write, where no write of a later nominal cycle stands before it. -/
theorem vread_vwrite_self {α : Type} (d : α) (v : Vers α) (st cyc cyc' a : Nat) (x : α) (h : cyc < cyc')
    (hl : ∀ w ∈ v.log, w.cycle ≤ cyc + 1) : vread d (vwrite v st cyc a x) st cyc' a = x := by
  have hc : cyc + 1 ≤ cyc' := h
  simp only [vread, vwrite, vlast_append]
  cases hv : vlast st cyc' a v.log none with
  | none => simp [vlast, hc]
  | some e =>
    obtain ⟨c, y⟩ := e
    have := vlast_cycle_le st cyc' a (cyc + 1) v.log none hl (fun _ _ he => by cases he) c y hv
    simp [vlast, hc, this]

theorem vwriteRun_base {α : Type} (xs : List α) (v : Vers α) (st cyc a : Nat) : (vwriteRun v st cyc a xs).base = v.base := by
  induction xs generalizing v a with
  | nil => rfl
  | cons x xs ih => rw [vwriteRun, ih]; rfl

theorem vputRun_base {α : Type} (xs : List α) (v : Vers α) (st cyc rank a : Nat) : (vputRun v st cyc rank a xs).base = v.base := by
  induction xs generalizing v a with
  | nil => rfl
  | cons x xs ih => rw [vputRun, ih]

/-- Ending a step keeps the canonical form of what stands in a memory. -/
theorem kwf_vcommit {α : Type} [DecidableEq α] {d : α} {v : Vers α} (st : Nat) (others : List Nat) (h : kwf d v.base = true) :
    kwf d (vcommit d v st others).base = true :=
  kwf_foldl_kset (fun w : WriteRec α => w.addr) (fun w => vfinal d v st w.addr) _ h

theorem kwf_vpoke {α : Type} [DecidableEq α] {d : α} {v : Vers α} (os : List Nat) (a : Nat) (x : α) (h : kwf d v.base = true) :
    kwf d (vpoke d v os a x).base = true := kwf_kset a x h

theorem kwf_vpokeRun {α : Type} [DecidableEq α] {d : α} {v : Vers α} (os : List Nat) (a : Nat) (xs : List α) (h : kwf d v.base = true) :
    kwf d (vpokeRun d v os a xs).base = true := kwf_ksetRun xs a h

theorem kwf_vclear {α : Type} [DecidableEq α] {d : α} {v : Vers α} (lo n : Nat) (h : kwf d v.base = true) :
    kwf d (vclear v lo n).base = true := kwf_kclear lo n h

end Sys2Proof.Machine
end

