-- ==== Sys2Proof/Laws/Access.lean ====
section
/-! SUPPORT. What the accessors of contexts, rings, steps, units, streams, stacks and ports read after a write. -/

namespace Sys2Proof.Machine

theorem ctxOf_setCtx (s : State) (n m : Nat) (c : Ctx) : ctxOf (setCtx s n c) m = if m = n then some c else ctxOf s m :=
  kfind_kput s.ctxs n m c

theorem ctxOf_updCtx (s : State) (n m : Nat) (f : Ctx → Ctx) :
    ctxOf (updCtx s n f) m = if m = n then (ctxOf s n).map f else ctxOf s m := by
  unfold updCtx
  split
  · rename_i c h
    rw [ctxOf_setCtx, h]
    rfl
  · rename_i h
    split
    · rename_i hm
      rw [hm, h]
      rfl
    · rfl

theorem ringOf_setRing (s : State) (r q : RingId) (x : Ring) : ringOf (setRing s r x) q = if q = r then some x else ringOf s q := by
  cases r <;> cases q <;> simp [setRing, ringOf, kfind_kput]

theorem ringOf_updRing (s : State) (r q : RingId) (f : Ring → Ring) :
    ringOf (updRing s r f) q = if q = r then (ringOf s r).map f else ringOf s q := by
  unfold updRing
  split
  · rename_i x h
    rw [ringOf_setRing, h]
    rfl
  · rename_i h
    split
    · rename_i hq
      rw [hq, h]
      rfl
    · rfl

theorem unit_setUnit (x : Step) (k j : Nat) (u : UnitSt) : (x.setUnit k u).unit j = if j = k then u else x.unit j :=
  kget_kput _ x.units k j u

theorem stream_setStream (x : Step) (k j : Nat) (t : StreamSt) : (x.setStream k t).stream j = if j = k then t else x.stream j :=
  kget_kput _ x.streams k j t

theorem stackOf_setStack (s : State) (b i : Nat) (k : Stack) : stackOf (setStack s b k) i = if i = b then k else stackOf s i :=
  kget_kput _ s.sm.stk b i k

theorem portOf_setPort (s : State) (q i : Nat) (p : Port) : portOf (setPort s q p) i = if i = q then p else portOf s i :=
  kget_kput _ s.ports q i p

theorem settle_id (s : State) (x : Step) : (settle s x).id = x.id := by
  unfold settle
  split
  · split <;> rfl
  · rfl

/-- Settling a step changes its state alone, from running to staged. -/
theorem settle_eq (s : State) (x : Step) : settle s x = x ∨ (x.state = .running ∧ settle s x = { x with state := .staged }) := by
  unfold settle
  split
  · split
    · rename_i h
      exact .inr ⟨h.1, rfl⟩
    · exact .inl rfl
  · exact .inl rfl

theorem settle_unit (s : State) (x : Step) (k : Nat) : (settle s x).unit k = x.unit k := by
  rcases settle_eq s x with h | ⟨-, h⟩
  · rw [h]
  · rw [h]; rfl

theorem settle_stream (s : State) (x : Step) (k : Nat) : (settle s x).stream k = x.stream k := by
  rcases settle_eq s x with h | ⟨-, h⟩
  · rw [h]
  · rw [h]; rfl

/-- After a step has been set: the step itself, settled, and every other step as it was. -/
theorem stepOf_setStep (s : State) (x : Step) (i : Nat) :
    stepOf (setStep s x) i = (stepOf s i).map fun y => if y.id = x.id then settle s x else y := by
  unfold stepOf setStep
  rw [List.find?_map]
  congr 2
  funext y
  simp only [Function.comp]
  split
  · rename_i h
    rw [settle_id, h]
  · rfl

theorem id_of_stepOf {s : State} {i : Nat} {x : Step} (h : stepOf s i = some x) : x.id = i := by
  have := List.find?_some h
  simpa using this

theorem stepOf_setStep_self {s : State} {i : Nat} {x y : Step} (h : stepOf s i = some x) (hy : y.id = i) :
    stepOf (setStep s y) i = some (settle s y) := by
  rw [stepOf_setStep, h, Option.map_some, if_pos (by rw [id_of_stepOf h, hy])]

theorem stepOf_setStep_of_ne (s : State) {i : Nat} {y : Step} (h : i ≠ y.id) : stepOf (setStep s y) i = stepOf s i := by
  rw [stepOf_setStep]
  cases hs : stepOf s i with
  | none => rfl
  | some x => rw [Option.map_some, if_neg (by rw [id_of_stepOf hs]; exact h)]

theorem stepOf_dropStep (s : State) (i j : Nat) : stepOf (dropStep s i) j = if j = i then none else stepOf s j := by
  unfold stepOf dropStep
  rw [List.find?_filter]
  split
  · rename_i h
    subst h
    rw [List.find?_eq_none]
    intro y _
    simp
  · rename_i h
    congr 1
    funext y
    by_cases hy : y.id = j
    · simp [hy, h]
    · simp [hy]

end Sys2Proof.Machine
end

