-- ==== Sys2Proof/Laws/Frame.lean ====
section
/-! SUPPORT. Frames: what an operation may change, said once per operation as a list of parts of State. -/

namespace Sys2Proof.Laws

set_option Elab.async false

open Sys2Proof.Machine

/-- A part of State; `mem` is what stacked memory holds, `sm` the rest of stacked memory. -/
inductive Part where
  | pending | boot | clk | regs | err | msix | host | admin | rings | ctxs | steps | sched | pm | mem | sm | ports | slory
  | store | power | mgmt | diag | free | out
  deriving DecidableEq, Repr

/-- A part reads alike in two states. -/
def Same (s t : State) : Part → Prop
  | .pending => t.pending = s.pending
  | .boot => t.boot = s.boot
  | .clk => t.clk = s.clk
  | .regs => t.regs = s.regs
  | .err => t.err = s.err
  | .msix => t.msix = s.msix
  | .host => t.host = s.host
  | .admin => t.admin = s.admin
  | .rings => t.rings = s.rings
  | .ctxs => t.ctxs = s.ctxs
  | .steps => t.steps = s.steps
  | .sched => t.sched = s.sched
  | .pm => t.pm = s.pm
  | .mem => t.sm.mem = s.sm.mem
  | .sm => { t.sm with mem := s.sm.mem } = s.sm
  | .ports => t.ports = s.ports
  | .slory => t.slory = s.slory
  | .store => t.store = s.store
  | .power => t.power = s.power
  | .mgmt => t.mgmt = s.mgmt
  | .diag => t.diag = s.diag
  | .free => t.free = s.free
  | .out => t.out = s.out

/-- From `s` to `t` nothing but the parts in `l` changed. -/
def Frame (l : List Part) (s t : State) : Prop := ∀ p, p ∉ l → Same s t p

theorem Same.refl (s : State) (p : Part) : Same s s p := by cases p <;> rfl

theorem Same.trans {s t u : State} {p : Part} (h : Same s t p) (k : Same t u p) : Same s u p := by
  cases p <;> simp only [Same] at * <;> first | exact k.trans h | skip
  rw [← h, ← k]

theorem Frame.refl (l : List Part) (s : State) : Frame l s s := fun p _ => Same.refl s p

theorem Frame.mono {l m : List Part} {s t : State} (h : Frame l s t) (k : l ⊆ m) : Frame m s t := fun p hp => h p fun hl => hp (k hl)

theorem Frame.trans {l : List Part} {s t u : State} (h : Frame l s t) (k : Frame l t u) : Frame l s u :=
  fun p hp => (h p hp).trans (k p hp)

/-- After `t` an operation that keeps within its own frame. -/
theorem Frame.after {l m : List Part} {s t u : State} (k : Frame m t u) (hm : m ⊆ l) (h : Frame l s t) : Frame l s u :=
  h.trans (k.mono hm)

theorem Frame.foldl {β : Type} {l : List Part} {s : State} (f : State → β → State) (xs : List β) {t : State}
    (hf : ∀ (u : State) (x : β), Frame l u (f u x)) (h : Frame l s t) : Frame l s (xs.foldl f t) := by
  induction xs generalizing t with
  | nil => exact h
  | cons x xs ih => exact ih (h.trans (hf t x))

theorem Frame.foldl_fst {α β : Type} {l : List Part} {s : State} (f : State × α → β → State × α) (xs : List β) {p : State × α}
    (hf : ∀ (q : State × α) (x : β), Frame l q.1 (f q x).1) (h : Frame l s p.1) : Frame l s (xs.foldl f p).1 := by
  induction xs generalizing p with
  | nil => exact h
  | cons x xs ih => exact ih (h.trans (hf p x))

theorem Frame.of_fst {α : Type} {l : List Part} {s t : State} {y : α} {p : State × α} (h : p = (t, y)) (k : Frame l s p.1) :
    Frame l s t := by
  subst h
  exact k

theorem Frame.iteSelf {l : List Part} {s t u : State} {c : Prop} [Decidable c] (h : Frame l s t) (k : Frame l t u) :
    Frame l s (if c then u else t) := by
  split
  · exact h.trans k
  · exact h

/-! ### Field updates -/

/-- A record update of `t` that keeps within the frame. -/
theorem Frame.upd {l : List Part} {s t : State} {a0 a1 a2 a3 a4 a5 a6 a7 a8 a9 a10 a11 a12 a13 a14 a15 a16 a17 a18 a19 a20 a21}
    (e0 : a0 = t.pending) (h : Frame l s t) (e1 : Part.boot ∈ l ∨ a1 = t.boot := by first | exact .inr rfl | exact .inl (by decide))
    (e2 : Part.clk ∈ l ∨ a2 = t.clk := by first | exact .inr rfl | exact .inl (by decide))
    (e3 : Part.regs ∈ l ∨ a3 = t.regs := by first | exact .inr rfl | exact .inl (by decide))
    (e4 : Part.err ∈ l ∨ a4 = t.err := by first | exact .inr rfl | exact .inl (by decide))
    (e5 : Part.msix ∈ l ∨ a5 = t.msix := by first | exact .inr rfl | exact .inl (by decide))
    (e6 : Part.host ∈ l ∨ a6 = t.host := by first | exact .inr rfl | exact .inl (by decide))
    (e7 : Part.admin ∈ l ∨ a7 = t.admin := by first | exact .inr rfl | exact .inl (by decide))
    (e8 : Part.rings ∈ l ∨ a8 = t.rings := by first | exact .inr rfl | exact .inl (by decide))
    (e9 : Part.ctxs ∈ l ∨ a9 = t.ctxs := by first | exact .inr rfl | exact .inl (by decide))
    (e10 : Part.steps ∈ l ∨ a10 = t.steps := by first | exact .inr rfl | exact .inl (by decide))
    (e11 : Part.sched ∈ l ∨ a11 = t.sched := by first | exact .inr rfl | exact .inl (by decide))
    (e12 : Part.pm ∈ l ∨ a12 = t.pm := by first | exact .inr rfl | exact .inl (by decide))
    (em : Part.mem ∈ l ∨ a13.mem = t.sm.mem := by first | exact .inr rfl | exact .inl (by decide))
    (e13 : Part.sm ∈ l ∨ { a13 with mem := t.sm.mem } = t.sm := by first | exact .inr rfl | exact .inl (by decide))
    (e14 : Part.ports ∈ l ∨ a14 = t.ports := by first | exact .inr rfl | exact .inl (by decide))
    (e15 : Part.slory ∈ l ∨ a15 = t.slory := by first | exact .inr rfl | exact .inl (by decide))
    (e16 : Part.store ∈ l ∨ a16 = t.store := by first | exact .inr rfl | exact .inl (by decide))
    (e17 : Part.power ∈ l ∨ a17 = t.power := by first | exact .inr rfl | exact .inl (by decide))
    (e18 : Part.mgmt ∈ l ∨ a18 = t.mgmt := by first | exact .inr rfl | exact .inl (by decide))
    (e19 : Part.diag ∈ l ∨ a19 = t.diag := by first | exact .inr rfl | exact .inl (by decide))
    (e20 : Part.free ∈ l ∨ a20 = t.free := by first | exact .inr rfl | exact .inl (by decide))
    (e21 : Part.out ∈ l ∨ a21 = t.out := by first | exact .inr rfl | exact .inl (by decide)) :
    Frame l s ⟨a0, a1, a2, a3, a4, a5, a6, a7, a8, a9, a10, a11, a12, a13, a14, a15, a16, a17, a18, a19, a20, a21⟩ := by
  intro p hp
  refine (h p hp).trans ?_
  cases p
  · exact e0
  · exact e1.resolve_left hp
  · exact e2.resolve_left hp
  · exact e3.resolve_left hp
  · exact e4.resolve_left hp
  · exact e5.resolve_left hp
  · exact e6.resolve_left hp
  · exact e7.resolve_left hp
  · exact e8.resolve_left hp
  · exact e9.resolve_left hp
  · exact e10.resolve_left hp
  · exact e11.resolve_left hp
  · exact e12.resolve_left hp
  · exact em.resolve_left hp
  · exact e13.resolve_left hp
  · exact e14.resolve_left hp
  · exact e15.resolve_left hp
  · exact e16.resolve_left hp
  · exact e17.resolve_left hp
  · exact e18.resolve_left hp
  · exact e19.resolve_left hp
  · exact e20.resolve_left hp
  · exact e21.resolve_left hp

end Sys2Proof.Laws
end

