-- ==== Sys2Proof/Laws/FramesOps.lean ====
section
/-! SUPPORT. What the operations over registers, rings, logs, steps and memory may change. Each lemma names the parts of State that an operation may change. -/

namespace Sys2Proof.Laws

set_option Elab.async false

open Sys2Proof.Machine

theorem emit_frame (s : State) (o) : Frame [.out] s (emit s o) := by
  unfold emit
  with_reducible refine Frame.upd rfl ?_
  exact Frame.refl _ _

theorem sendVector_frame (s : State) (vec) : Frame [.msix, .out] s (sendVector s vec) := by
  unfold sendVector
  dsimp only
  split
  · with_reducible refine Frame.upd rfl ?_
    exact Frame.refl _ _
  · with_reducible refine Frame.after (emit_frame _ _) (by decide) ?_
    exact Frame.refl _ _

theorem raiseVector_frame (s : State) (vec) : Frame [.msix, .out] s (raiseVector s vec) := by
  unfold raiseVector
  split
  · with_reducible refine Frame.upd rfl ?_
    exact Frame.refl _ _
  · split
    · with_reducible refine Frame.after (sendVector_frame _ _) (by decide) ?_
      exact Frame.refl _ _
    · with_reducible refine Frame.after (sendVector_frame _ _) (by decide) ?_
      with_reducible refine Frame.upd rfl ?_
      exact Frame.refl _ _

theorem logErr_frame (s : State) (code ctx detail) : Frame [.err, .msix, .out] s (logErr s code ctx detail) := by
  unfold logErr
  dsimp only
  split
  · with_reducible refine Frame.upd rfl ?_
    exact Frame.refl _ _
  · split
    · with_reducible refine Frame.after (raiseVector_frame _ _) (by decide) ?_
      with_reducible refine Frame.upd rfl ?_
      exact Frame.refl _ _
    · split
      · with_reducible refine Frame.upd rfl ?_
        exact Frame.refl _ _
      · with_reducible refine Frame.after (raiseVector_frame _ _) (by decide) ?_
        with_reducible refine Frame.upd rfl ?_
        exact Frame.refl _ _

theorem setCtx_frame (s : State) (n c) : Frame [.ctxs] s (setCtx s n c) := by
  unfold setCtx
  with_reducible refine Frame.upd rfl ?_
  exact Frame.refl _ _

theorem updCtx_frame (s : State) (n f) : Frame [.ctxs] s (updCtx s n f) := by
  unfold updCtx
  split
  · with_reducible refine Frame.after (setCtx_frame _ _ _) (by decide) ?_
    exact Frame.refl _ _
  · exact Frame.refl _ _

theorem takeFree_frame (s : State) : Frame [.free] s (takeFree s).2 := by
  unfold takeFree
  dsimp only
  with_reducible refine Frame.upd rfl ?_
  exact Frame.refl _ _

theorem setPort_frame (s : State) (q p) : Frame [.ports] s (setPort s q p) := by
  unfold setPort
  with_reducible refine Frame.upd rfl ?_
  exact Frame.refl _ _

theorem bumpPort_frame (s : State) (q i n) : Frame [.ports] s (bumpPort s q i n) := by
  unfold bumpPort
  dsimp only
  with_reducible refine Frame.after (setPort_frame _ _ _) (by decide) ?_
  exact Frame.refl _ _

theorem countPause_frame (s : State) (q prio n) : Frame [.ports] s (countPause s q prio n) := by
  unfold countPause
  dsimp only
  split
  · with_reducible refine Frame.after (bumpPort_frame _ _ _ _) (by decide) ?_
    split
    · with_reducible refine Frame.after (bumpPort_frame _ _ _ _) (by decide) ?_
      exact Frame.refl _ _
    · exact Frame.refl _ _
  · split
    · with_reducible refine Frame.after (bumpPort_frame _ _ _ _) (by decide) ?_
      exact Frame.refl _ _
    · exact Frame.refl _ _

theorem settlePause_frame (s : State) (q prio) : Frame [.ports] s (settlePause q s prio) := by
  unfold settlePause
  dsimp only
  split
  · with_reducible refine Frame.after (setPort_frame _ _ _) (by decide) ?_
    with_reducible refine Frame.after (countPause_frame _ _ _ _) (by decide) ?_
    exact Frame.refl _ _
  · exact Frame.refl _ _

theorem settlePort_frame (s : State) (q) : Frame [.ports] s (settlePort s q) := by
  unfold settlePort
  with_reducible refine Frame.foldl _ _ (fun _ _ => ?_) ?_
  · with_reducible refine Frame.after (settlePause_frame _ _ _) (by decide) ?_
    exact Frame.refl _ _
  · exact Frame.refl _ _

theorem dropLink_frame (s : State) (q) : Frame [.msix, .ports, .out] s (dropLink s q) := by
  unfold dropLink
  dsimp only
  split
  · with_reducible refine Frame.after (raiseVector_frame _ _) (by decide) ?_
    with_reducible refine Frame.after (setPort_frame _ _ _) (by decide) ?_
    with_reducible refine Frame.after (bumpPort_frame _ _ _ _) (by decide) ?_
    with_reducible refine Frame.after (bumpPort_frame _ _ _ _) (by decide) ?_
    with_reducible refine Frame.after (settlePort_frame _ _) (by decide) ?_
    exact Frame.refl _ _
  · exact Frame.refl _ _

theorem idlePorts_frame (s : State) : Frame [.msix, .ports, .out] s (idlePorts s) := by
  unfold idlePorts
  with_reducible refine Frame.foldl _ _ (fun _ _ => ?_) ?_
  · dsimp only
    with_reducible refine Frame.after (setPort_frame _ _ _) (by decide) ?_
    with_reducible refine Frame.after (dropLink_frame _ _) (by decide) ?_
    exact Frame.refl _ _
  · exact Frame.refl _ _

theorem issueWrite_frame (s : State) (ctx path ring addr b after) : Frame [.host] s (issueWrite s ctx path ring addr b after) := by
  unfold issueWrite
  with_reducible refine Frame.upd rfl ?_
  exact Frame.refl _ _

theorem writeCtrl_frame (s : State) (r after) : Frame [.host] s (writeCtrl s r after) := by
  unfold writeCtrl
  split
  · exact Frame.refl _ _
  · with_reducible refine Frame.after (issueWrite_frame _ _ _ _ _ _ _) (by decide) ?_
    exact Frame.refl _ _

theorem setRing_frame (s : State) (x1 x2) : Frame [.admin, .rings] s (setRing s x1 x2) := by
  unfold setRing
  split
  · with_reducible refine Frame.upd rfl ?_
    exact Frame.refl _ _
  · with_reducible refine Frame.upd rfl ?_
    exact Frame.refl _ _

theorem postEntry_frame (s : State) (r path b) : Frame [.host, .admin, .rings] s (postEntry s r path b) := by
  unfold postEntry
  split
  · exact Frame.refl _ _
  · dsimp only
    with_reducible refine Frame.after (writeCtrl_frame _ _ _) (by decide) ?_
    with_reducible refine Frame.after (setRing_frame _ _ _) (by decide) ?_
    with_reducible refine Frame.after (issueWrite_frame _ _ _ _ _ _ _) (by decide) ?_
    exact Frame.refl _ _

theorem updRing_frame (s : State) (r f) : Frame [.admin, .rings] s (updRing s r f) := by
  unfold updRing
  split
  · with_reducible refine Frame.after (setRing_frame _ _ _) (by decide) ?_
    exact Frame.refl _ _
  · exact Frame.refl _ _

theorem bookQueue_frame (s : State) (r a) : Frame [.ctxs, .power] s (bookQueue s r a) := by
  unfold bookQueue
  split
  · with_reducible refine Frame.upd rfl ?_
    exact Frame.refl _ _
  · dsimp only
    with_reducible refine Frame.after (updCtx_frame _ _ _) (by decide) ?_
    with_reducible refine Frame.upd rfl ?_
    exact Frame.refl _ _

theorem bookCmd_frame (s : State) (r) : Frame [.ctxs, .power, .free] s (bookCmd s r) := by
  unfold bookCmd
  dsimp only
  with_reducible refine Frame.after (bookQueue_frame _ _ _) (by decide) ?_
  with_reducible refine Frame.after (takeFree_frame _) (by decide) ?_
  with_reducible refine Frame.after (takeFree_frame _) (by decide) ?_
  exact Frame.refl _ _

theorem bookAccepted_frame (s : State) (r seq) : Frame [.ctxs, .power, .free] s (bookAccepted s r seq) := by
  unfold bookAccepted
  split
  · with_reducible refine Frame.after (bookCmd_frame _ _) (by decide) ?_
    exact Frame.refl _ _
  · exact Frame.refl _ _

theorem postReply_frame (s : State) (r seq y) : Frame [.host, .admin, .rings, .ctxs, .power, .free] s (postReply s r seq y) := by
  unfold postReply
  with_reducible refine Frame.after (postEntry_frame _ _ _ _) (by decide) ?_
  with_reducible refine Frame.after (updRing_frame _ _ _) (by decide) ?_
  with_reducible refine Frame.after (bookAccepted_frame _ _ _) (by decide) ?_
  exact Frame.refl _ _

theorem fatalRing_frame (s : State) (r) : Frame [.host, .admin, .rings, .ctxs, .power, .free] s (fatalRing s r) := by
  unfold fatalRing
  split
  · exact Frame.refl _ _
  · with_reducible refine Frame.foldl _ _ (fun _ _ => ?_) ?_
    · with_reducible refine Frame.after (postReply_frame _ _ _ _) (by decide) ?_
      exact Frame.refl _ _
    · exact Frame.refl _ _

theorem stoppingEnd_frame (s : State) (n) : Frame [.ctxs] s (stoppingEnd s n) := by
  unfold stoppingEnd
  split
  · exact Frame.refl _ _
  · split
    · with_reducible refine Frame.after (setCtx_frame _ _ _) (by decide) ?_
      exact Frame.refl _ _
    · exact Frame.refl _ _

theorem dropStep_frame (s : State) (i) : Frame [.steps] s (dropStep s i) := by
  unfold dropStep
  with_reducible refine Frame.upd rfl ?_
  exact Frame.refl _ _

theorem updCmd_frame (s : State) (r seq f) : Frame [.admin, .rings] s (updCmd s r seq f) := by
  unfold updCmd
  with_reducible refine Frame.after (updRing_frame _ _ _) (by decide) ?_
  exact Frame.refl _ _

theorem releaseHeld_frame (s : State) (r) : Frame [.host, .admin, .rings, .ctxs, .power, .free] s (releaseHeld s r) := by
  unfold releaseHeld
  split
  · exact Frame.refl _ _
  · with_reducible refine Frame.foldl _ _ (fun _ _ => ?_) ?_
    · split
      · split
        · exact Frame.refl _ _
        · with_reducible refine Frame.after (postReply_frame _ _ _ _) (by decide) ?_
          exact Frame.refl _ _
      · exact Frame.refl _ _
    · exact Frame.refl _ _

theorem endCmd_frame (s : State) (r seq y) : Frame [.host, .admin, .rings, .ctxs, .power, .free] s (endCmd s r seq y) := by
  unfold endCmd
  split
  · exact Frame.refl _ _
  · dsimp only
    split
    · with_reducible refine Frame.after (updCmd_frame _ _ _ _) (by decide) ?_
      exact Frame.refl _ _
    · with_reducible refine Frame.after (releaseHeld_frame _ _) (by decide) ?_
      with_reducible refine Frame.after (postReply_frame _ _ _ _) (by decide) ?_
      exact Frame.refl _ _

theorem bookStep_frame (s : State) (x) : Frame [.ctxs, .power] s (bookStep s x) := by
  unfold bookStep
  dsimp only
  with_reducible refine Frame.after (updCtx_frame _ _ _) (by decide) ?_
  with_reducible refine Frame.upd rfl ?_
  exact Frame.refl _ _

theorem writeHostAfter_frame (s : State) (n path va b after) : Frame [.host] s (writeHostAfter s n path va b after) := by
  unfold writeHostAfter
  split
  · exact Frame.refl _ _
  · with_reducible refine Frame.foldl _ _ (fun _ _ => ?_) ?_
    · split
      · with_reducible refine Frame.after (issueWrite_frame _ _ _ _ _ _ _) (by decide) ?_
        exact Frame.refl _ _
      · exact Frame.refl _ _
    · exact Frame.refl _ _

theorem writeHostVa_frame (s : State) (n path va b) : Frame [.host] s (writeHostVa s n path va b) := by
  unfold writeHostVa
  with_reducible refine Frame.after (writeHostAfter_frame _ _ _ _ _ _) (by decide) ?_
  exact Frame.refl _ _

theorem writeResult_frame (s : State) (r addr b) : Frame [.host] s (writeResult s r addr b) := by
  unfold writeResult
  split
  · with_reducible refine Frame.foldl _ _ (fun _ _ => ?_) ?_
    · with_reducible refine Frame.after (issueWrite_frame _ _ _ _ _ _ _) (by decide) ?_
      exact Frame.refl _ _
    · exact Frame.refl _ _
  · with_reducible refine Frame.after (writeHostVa_frame _ _ _ _ _) (by decide) ?_
    exact Frame.refl _ _

theorem replyStep_frame (s : State) (x y) : Frame [.host, .admin, .rings, .ctxs, .steps, .power, .free] s (replyStep s x y) := by
  unfold replyStep
  dsimp only
  with_reducible refine Frame.after (stoppingEnd_frame _ _) (by decide) ?_
  with_reducible refine Frame.after (dropStep_frame _ _) (by decide) ?_
  with_reducible refine Frame.after (endCmd_frame _ _ _ _) (by decide) ?_
  with_reducible refine Frame.after (bookStep_frame _ _) (by decide) ?_
  split
  · with_reducible refine Frame.after (writeResult_frame _ _ _ _) (by decide) ?_
    exact Frame.refl _ _
  · exact Frame.refl _ _

theorem wcRelease_frame (s : State) (st) : Frame [.sm] s (wcRelease s st) := by
  unfold wcRelease
  with_reducible refine Frame.upd rfl ?_
  exact Frame.refl _ _

theorem dropFlight_frame (s : State) (x) : Frame [.host, .slory] s (dropFlight s x) := by
  unfold dropFlight
  with_reducible refine Frame.upd rfl ?_
  exact Frame.refl _ _

theorem noteSums_frame (s : State) (x) : Frame [.ctxs] s (noteSums s x) := by
  unfold noteSums
  with_reducible refine Frame.after (updCtx_frame _ _ _) (by decide) ?_
  exact Frame.refl _ _

theorem openWrites_frame (s : State) (x) : Frame [.mem, .free] s (openWrites s x) := by
  unfold openWrites
  dsimp only
  with_reducible refine Frame.upd rfl ?_
  with_reducible refine Frame.foldl_fst _ _ (fun _ _ => ?_) ?_
  · split
    · dsimp only
      with_reducible refine Frame.after (takeFree_frame _) (by decide) ?_
      exact Frame.refl _ _
    · exact Frame.refl _ _
  · dsimp only
    exact Frame.refl _ _

theorem learnKill_frame (s : State) (x) : Frame [.ctxs, .free] s (learnKill s x) := by
  unfold learnKill
  split
  · exact Frame.refl _ _
  · with_reducible refine Frame.foldl _ _ (fun _ _ => ?_) ?_
    · dsimp only
      with_reducible refine Frame.after (updCtx_frame _ _ _) (by decide) ?_
      with_reducible refine Frame.after (takeFree_frame _) (by decide) ?_
      exact Frame.refl _ _
    · exact Frame.refl _ _

theorem slopeChange_frame (s : State) : Frame [.power] s (slopeChange s) := by
  unfold slopeChange
  with_reducible refine Frame.upd rfl ?_
  exact Frame.refl _ _

theorem bookFiller_frame (s : State) (x) : Frame [.power] s (bookFiller s x) := by
  unfold bookFiller
  split
  · with_reducible refine Frame.upd rfl ?_
    exact Frame.refl _ _
  · exact Frame.refl _ _

theorem endStep_frame (s : State) (x y) : Frame [.host, .admin, .rings, .ctxs, .steps, .pm, .mem, .sm, .slory, .power, .free] s (endStep s x y) := by
  unfold endStep
  dsimp only
  with_reducible refine Frame.after (replyStep_frame _ _ _) (by decide) ?_
  with_reducible refine Frame.after (wcRelease_frame _ _) (by decide) ?_
  with_reducible refine Frame.after (dropFlight_frame _ _) (by decide) ?_
  split
  · with_reducible refine Frame.after (noteSums_frame _ _) (by decide) ?_
    split
    · with_reducible refine Frame.after (openWrites_frame _ _) (by decide) ?_
      with_reducible refine Frame.upd rfl ?_
      with_reducible refine Frame.after (learnKill_frame _ _) (by decide) ?_
      with_reducible refine Frame.after (slopeChange_frame _) (by decide) ?_
      with_reducible refine Frame.after (bookFiller_frame _ _) (by decide) ?_
      exact Frame.refl _ _
    · with_reducible refine Frame.after (bookFiller_frame _ _) (by decide) ?_
      exact Frame.refl _ _
  · split
    · with_reducible refine Frame.after (openWrites_frame _ _) (by decide) ?_
      with_reducible refine Frame.upd rfl ?_
      with_reducible refine Frame.after (learnKill_frame _ _) (by decide) ?_
      with_reducible refine Frame.after (slopeChange_frame _) (by decide) ?_
      with_reducible refine Frame.after (bookFiller_frame _ _) (by decide) ?_
      exact Frame.refl _ _
    · with_reducible refine Frame.after (bookFiller_frame _ _) (by decide) ?_
      exact Frame.refl _ _

theorem fatalSteps_frame (s : State) : Frame [.host, .admin, .rings, .ctxs, .steps, .pm, .mem, .sm, .slory, .power, .free] s (fatalSteps s) := by
  unfold fatalSteps
  with_reducible refine Frame.foldl _ _ (fun _ _ => ?_) ?_
  · split
    · with_reducible refine Frame.after (replyStep_frame _ _ _) (by decide) ?_
      exact Frame.refl _ _
    · with_reducible refine Frame.after (endStep_frame _ _ _) (by decide) ?_
      exact Frame.refl _ _
  · exact Frame.refl _ _

theorem becomeFatal_frame (s : State) (code ctx detail) :
    Frame [.boot, .err, .msix, .host, .admin, .rings, .ctxs, .steps, .pm, .mem, .sm, .ports, .slory, .store, .power, .free, .out] s (becomeFatal s code ctx detail) := by
  unfold becomeFatal
  split
  · exact Frame.refl _ _
  · dsimp only
    with_reducible refine Frame.after (emit_frame _ _) (by decide) ?_
    with_reducible refine Frame.after (emit_frame _ _) (by decide) ?_
    with_reducible refine Frame.after (emit_frame _ _) (by decide) ?_
    with_reducible refine Frame.after (idlePorts_frame _) (by decide) ?_
    with_reducible refine Frame.foldl _ _ (fun _ _ => ?_) ?_
    · with_reducible refine Frame.after (fatalRing_frame _ _) (by decide) ?_
      exact Frame.refl _ _
    · with_reducible refine Frame.after (fatalRing_frame _ _) (by decide) ?_
      with_reducible refine Frame.after (fatalSteps_frame _) (by decide) ?_
      with_reducible refine Frame.after (raiseVector_frame _ _) (by decide) ?_
      with_reducible refine Frame.upd rfl ?_
      exact Frame.refl _ _

theorem logFatal_frame (s : State) (code ctx detail) :
    Frame [.boot, .err, .msix, .host, .admin, .rings, .ctxs, .steps, .pm, .mem, .sm, .ports, .slory, .store, .power, .free, .out] s (logFatal s code ctx detail) := by
  unfold logFatal
  with_reducible refine Frame.after (becomeFatal_frame _ _ _ _) (by decide) ?_
  with_reducible refine Frame.after (logErr_frame _ _ _ _) (by decide) ?_
  exact Frame.refl _ _

theorem setStack_frame (s : State) (b k) : Frame [.sm] s (setStack s b k) := by
  unfold setStack
  with_reducible refine Frame.upd rfl ?_
  exact Frame.refl _ _

theorem postEventOn_frame (s : State) (r y) : Frame [.host, .admin, .rings] s (postEventOn s r y) := by
  unfold postEventOn
  split
  · exact Frame.refl _ _
  · split
    · dsimp only
      with_reducible refine Frame.after (postEntry_frame _ _ _ _) (by decide) ?_
      with_reducible refine Frame.after (setRing_frame _ _ _) (by decide) ?_
      exact Frame.refl _ _
    · with_reducible refine Frame.after (setRing_frame _ _ _) (by decide) ?_
      exact Frame.refl _ _

theorem wcDiscard_frame (s : State) (sel) : Frame [.sm] s (wcDiscard s sel) := by
  unfold wcDiscard
  with_reducible refine Frame.upd rfl ?_
  exact Frame.refl _ _

theorem postEvent_frame (s : State) (n y) : Frame [.host, .admin, .rings] s (postEvent s n y) := by
  unfold postEvent
  with_reducible refine Frame.after (postEventOn_frame _ _ _) (by decide) ?_
  exact Frame.refl _ _

theorem enqueueFrame_frame (s : State) (q express f) : Frame [.ports] s (enqueueFrame s q express f) := by
  unfold enqueueFrame
  dsimp only
  split
  · split
    · with_reducible refine Frame.after (setPort_frame _ _ _) (by decide) ?_
      exact Frame.refl _ _
    · with_reducible refine Frame.after (bumpPort_frame _ _ _ _) (by decide) ?_
      with_reducible refine Frame.after (setPort_frame _ _ _) (by decide) ?_
      exact Frame.refl _ _
  · split
    · with_reducible refine Frame.after (setPort_frame _ _ _) (by decide) ?_
      exact Frame.refl _ _
    · with_reducible refine Frame.after (setPort_frame _ _ _) (by decide) ?_
      exact Frame.refl _ _

theorem sendSlory_frame (s : State) (q d n op udp ctx step) : Frame [.ports, .slory] s (sendSlory s q d n op udp ctx step) := by
  unfold sendSlory
  split
  · exact Frame.refl _ _
  · split
    · with_reducible refine Frame.upd rfl ?_
      exact Frame.refl _ _
    · dsimp only
      with_reducible refine Frame.after (enqueueFrame_frame _ _ _ _) (by decide) ?_
      exact Frame.refl _ _

theorem pumpFlow_frame (s : State) (f) : Frame [.ports, .slory] s (pumpFlow s f) := by
  unfold pumpFlow
  dsimp only
  with_reducible refine Frame.upd rfl ?_
  with_reducible refine Frame.foldl _ _ (fun _ _ => ?_) ?_
  · with_reducible refine Frame.after (sendSlory_frame _ _ _ _ _ _ _ _) (by decide) ?_
    exact Frame.refl _ _
  · exact Frame.refl _ _

theorem startFlow_frame (s : State) (ctx op q dstDom dst step attempt flow srcIndex sub stepId b) :
    Frame [.ports, .slory] s (startFlow s ctx op q dstDom dst step attempt flow srcIndex sub stepId b) := by
  unfold startFlow
  split
  · dsimp only
    with_reducible refine Frame.after (pumpFlow_frame _ _) (by decide) ?_
    with_reducible refine Frame.upd rfl ?_
    exact Frame.refl _ _
  · exact Frame.refl _ _

theorem startOpenFlow_frame (s : State) (ctx op dstDom dst step attempt sub stepId b) :
    Frame [.ports, .slory, .free] s (startOpenFlow s ctx op dstDom dst step attempt sub stepId b) := by
  unfold startOpenFlow
  dsimp only
  with_reducible refine Frame.after (startFlow_frame _ _ _ _ _ _ _ _ _ _ _ _ _) (by decide) ?_
  with_reducible refine Frame.after (takeFree_frame _) (by decide) ?_
  exact Frame.refl _ _

theorem sendToken_frame (s : State) (ctx dst step attempt sub status node dom stepId) :
    Frame [.ports, .slory, .free] s (sendToken s ctx dst step attempt sub status node dom stepId) := by
  unfold sendToken
  split
  · exact Frame.refl _ _
  · with_reducible refine Frame.after (startOpenFlow_frame _ _ _ _ _ _ _ _ _ _) (by decide) ?_
    exact Frame.refl _ _

theorem setStep_frame (s : State) (x) : Frame [.steps] s (setStep s x) := by
  unfold setStep
  with_reducible refine Frame.upd rfl ?_
  exact Frame.refl _ _

theorem castVote_frame (s : State) (x img sub status) : Frame [.steps, .ports, .slory, .power, .free] s (castVote s x img sub status) := by
  unfold castVote
  split
  · exact Frame.refl _ _
  · dsimp only
    with_reducible refine Frame.after (sendToken_frame _ _ _ _ _ _ _ _ _ _) (by decide) ?_
    with_reducible refine Frame.after (setStep_frame _ _) (by decide) ?_
    with_reducible refine Frame.after (bookFiller_frame _ _) (by decide) ?_
    exact Frame.refl _ _

theorem failStep_frame (s : State) (x y) : Frame [.host, .admin, .rings, .ctxs, .steps, .pm, .mem, .sm, .ports, .slory, .power, .free] s (failStep s x y) := by
  unfold failStep
  split
  · split
    · split
      · with_reducible refine Frame.after (castVote_frame _ _ _ _ _) (by decide) ?_
        exact Frame.refl _ _
      · exact Frame.refl _ _
    · with_reducible refine Frame.after (endStep_frame _ _ _) (by decide) ?_
      exact Frame.refl _ _
  · with_reducible refine Frame.after (endStep_frame _ _ _) (by decide) ?_
    exact Frame.refl _ _

theorem slipStep_frame (s : State) (x img u phase) :
    Frame [.host, .admin, .rings, .ctxs, .steps, .pm, .mem, .sm, .ports, .slory, .power, .free] s (slipStep s x img u phase) := by
  unfold slipStep
  split
  · with_reducible refine Frame.after (castVote_frame _ _ _ _ _) (by decide) ?_
    exact Frame.refl _ _
  · with_reducible refine Frame.after (failStep_frame _ _ _) (by decide) ?_
    exact Frame.refl _ _

/-- An issue either goes on or slips the step. -/
theorem issueOr_frame {l : List Part} {s0 s : State} {img : Image} {x : Step} {key : Nat} {u : UnitSt} {cyc stall : Nat} {go : State}
    (h : Frame l s0 s) (g : Frame l s0 go)
    (hl : [Part.host, .admin, .rings, .ctxs, .steps, .pm, .mem, .sm, .ports, .slory, .power, .free] ⊆ l) :
    Frame l s0 (issueOr s img x key u cyc stall go) := by
  unfold issueOr
  split
  · exact Frame.after (slipStep_frame _ _ _ _ _) hl h
  · exact g

theorem keepWrites_frame (s : State) (x) : Frame [.mem] s (keepWrites s x) := by
  unfold keepWrites
  with_reducible refine Frame.upd rfl ?_
  exact Frame.refl _ _

theorem rerunStep_frame (s : State) (x attempt) : Frame [.host, .ctxs, .steps, .pm, .mem, .sm, .slory, .power, .free] s (rerunStep s x attempt) := by
  unfold rerunStep
  dsimp only
  with_reducible refine Frame.upd rfl ?_
  with_reducible refine Frame.after (wcRelease_frame _ _) (by decide) ?_
  with_reducible refine Frame.after (dropFlight_frame _ _) (by decide) ?_
  with_reducible refine Frame.after (keepWrites_frame _ _) (by decide) ?_
  with_reducible refine Frame.upd rfl ?_
  with_reducible refine Frame.after (learnKill_frame _ _) (by decide) ?_
  with_reducible refine Frame.after (slopeChange_frame _) (by decide) ?_
  with_reducible refine Frame.after (bookFiller_frame _ _) (by decide) ?_
  exact Frame.refl _ _

theorem issueRead_frame (s : State) (ctx owner addr len) : Frame [.host] s (issueRead s ctx owner addr len) := by
  unfold issueRead
  with_reducible refine Frame.upd rfl ?_
  exact Frame.refl _ _

theorem cleanCws_frame (s : State) (cs) : Frame [.sm] s (cleanCws s cs) := by
  unfold cleanCws
  with_reducible refine Frame.upd rfl ?_
  exact Frame.refl _ _

theorem cleanArea_frame (s : State) (c num area pages) : Frame [.sm] s (cleanArea s c num area pages) := by
  unfold cleanArea
  with_reducible refine Frame.after (cleanCws_frame _ _) (by decide) ?_
  exact Frame.refl _ _

theorem noteMem_frame (s : State) (event pa src symbol codeword) : Frame [.sm] s (noteMem s event pa src symbol codeword).1 := by
  unfold noteMem
  dsimp only
  with_reducible refine Frame.after (setStack_frame _ _ _) (by decide) ?_
  exact Frame.refl _ _

theorem logMem_frame (s : State) (event pa src symbol codeword) : Frame [.err, .msix, .sm, .out] s (logMem s event pa src symbol codeword).1 := by
  unfold logMem
  dsimp only
  with_reducible refine Frame.after (logErr_frame _ _ _ _) (by decide) ?_
  with_reducible refine Frame.after (noteMem_frame _ _ _ _ _ _) (by decide) ?_
  exact Frame.refl _ _

theorem bumpSlory_frame (s : State) (i n) : Frame [.slory] s (bumpSlory s i n) := by
  unfold bumpSlory
  with_reducible refine Frame.upd rfl ?_
  exact Frame.refl _ _

theorem waitUnit_frame (s : State) (x key u stall dry) : Frame [.steps] s (waitUnit s x key u stall dry) := by
  unfold waitUnit
  with_reducible refine Frame.after (setStep_frame _ _) (by decide) ?_
  exact Frame.refl _ _

theorem waitFor_frame (s : State) (x key u stall dry ds) :
    Frame [.host, .admin, .rings, .ctxs, .steps, .pm, .mem, .sm, .ports, .slory, .power, .free] s (waitFor s x key u stall dry ds) := by
  unfold waitFor
  split
  · with_reducible refine Frame.after (failStep_frame _ _ _) (by decide) ?_
    exact Frame.refl _ _
  · with_reducible refine Frame.after (waitUnit_frame _ _ _ _ _ _) (by decide) ?_
    exact Frame.refl _ _

theorem tick_frame (s : State) : Frame [.clk] s (tick s) := by
  unfold tick
  split
  · dsimp only
    with_reducible refine Frame.upd rfl ?_
    exact Frame.refl _ _
  · exact Frame.refl _ _

theorem stationWrite_frame (s : State) (img x sp i d cyc n tag elem) : Frame [.pm] s (stationWrite s img x sp i d cyc n tag elem).1 := by
  unfold stationWrite
  dsimp only
  split
  · dsimp only
    with_reducible refine Frame.upd rfl ?_
    exact Frame.refl _ _
  · dsimp only
    exact Frame.refl _ _

theorem closeGap_frame (s : State) (img sp) : Frame [.ctxs, .power] s (closeGap img s sp) := by
  unfold closeGap
  split
  · exact Frame.refl _ _
  · dsimp only
    split
    · split
      · with_reducible refine Frame.after (slopeChange_frame _) (by decide) ?_
        with_reducible refine Frame.after (updCtx_frame _ _ _) (by decide) ?_
        with_reducible refine Frame.upd rfl ?_
        exact Frame.refl _ _
      · with_reducible refine Frame.after (updCtx_frame _ _ _) (by decide) ?_
        with_reducible refine Frame.upd rfl ?_
        exact Frame.refl _ _
    · split
      · with_reducible refine Frame.after (slopeChange_frame _) (by decide) ?_
        with_reducible refine Frame.after (updCtx_frame _ _ _) (by decide) ?_
        with_reducible refine Frame.upd rfl ?_
        exact Frame.refl _ _
      · with_reducible refine Frame.after (updCtx_frame _ _ _) (by decide) ?_
        with_reducible refine Frame.upd rfl ?_
        exact Frame.refl _ _

theorem closeGaps_frame (s : State) (img) : Frame [.ctxs, .power] s (closeGaps s img) := by
  unfold closeGaps
  with_reducible refine Frame.foldl _ _ (fun _ _ => ?_) ?_
  · with_reducible refine Frame.after (closeGap_frame _ _ _) (by decide) ?_
    exact Frame.refl _ _
  · exact Frame.refl _ _

theorem openGaps_frame (s : State) (x img point) : Frame [.power] s (openGaps s x img point) := by
  unfold openGaps
  dsimp only
  with_reducible refine Frame.upd rfl ?_
  exact Frame.refl _ _

theorem sendRing_frame (s : State) (r) : Frame [.msix, .admin, .rings, .out] s (sendRing s r) := by
  unfold sendRing
  split
  · exact Frame.refl _ _
  · with_reducible refine Frame.after (sendVector_frame _ _) (by decide) ?_
    with_reducible refine Frame.after (setRing_frame _ _ _) (by decide) ?_
    exact Frame.refl _ _

theorem ringInterrupt_frame (s : State) (r w) : Frame [.msix, .admin, .rings, .out] s (ringInterrupt s r w) := by
  unfold ringInterrupt
  split
  · exact Frame.refl _ _
  · dsimp only
    split
    · exact Frame.refl _ _
    · split
      · split
        · exact Frame.refl _ _
        · with_reducible refine Frame.after (sendRing_frame _ _) (by decide) ?_
          exact Frame.refl _ _
      · with_reducible refine Frame.after (setRing_frame _ _ _) (by decide) ?_
        exact Frame.refl _ _

theorem tagWrites_frame (t : State) (s st cyc) : Frame [.host] t (tagWrites s t st cyc) := by
  unfold tagWrites
  with_reducible refine Frame.upd rfl ?_
  exact Frame.refl _ _

theorem noteCorrected_frame (s : State) (pa codeword symbol src) : Frame [.err, .msix, .sm, .out] s (noteCorrected s pa codeword symbol src) := by
  unfold noteCorrected
  dsimp only
  split
  · with_reducible refine Frame.after (logMem_frame _ _ _ _ _ _) (by decide) ?_
    with_reducible refine Frame.after (setStack_frame _ _ _) (by decide) ?_
    exact Frame.refl _ _
  · with_reducible refine Frame.after (setStack_frame _ _ _) (by decide) ?_
    exact Frame.refl _ _

theorem notePoisonedRead_frame (s : State) (pa) : Frame [.sm] s (notePoisonedRead s pa) := by
  unfold notePoisonedRead
  dsimp only
  with_reducible refine Frame.after (setStack_frame _ _ _) (by decide) ?_
  exact Frame.refl _ _

theorem poisonLine_frame (s : State) (pa) : Frame [.sm] s (poisonLine s pa) := by
  unfold poisonLine
  with_reducible refine Frame.upd rfl ?_
  exact Frame.refl _ _

theorem noteUncorrectable_frame (s : State) (pa codeword src) : Frame [.err, .msix, .sm, .out] s (noteUncorrectable s pa codeword src).1 := by
  unfold noteUncorrectable
  dsimp only
  split
  · with_reducible refine Frame.after (sendVector_frame _ _) (by decide) ?_
    with_reducible refine Frame.after (logMem_frame _ _ _ _ _ _) (by decide) ?_
    with_reducible refine Frame.after (poisonLine_frame _ _) (by decide) ?_
    exact Frame.refl _ _
  · with_reducible refine Frame.after (logMem_frame _ _ _ _ _ _) (by decide) ?_
    with_reducible refine Frame.after (poisonLine_frame _ _) (by decide) ?_
    exact Frame.refl _ _

theorem corruptCw_frame (s : State) (pa cw data) : Frame [.mem] s (corruptCw s pa cw data) := by
  unfold corruptCw
  dsimp only
  with_reducible refine Frame.upd rfl ?_
  exact Frame.refl _ _

theorem checkOne_frame (q) (src pa e) : Frame [.err, .msix, .mem, .sm, .out] q.1 (checkOne src pa q e).1 := by
  unfold checkOne
  split
  · exact Frame.refl _ _
  · dsimp only
    with_reducible refine Frame.after (noteCorrected_frame _ _ _ _ _) (by decide) ?_
    exact Frame.refl _ _
  · dsimp only
    with_reducible refine Frame.after (noteUncorrectable_frame _ _ _ _) (by decide) ?_
    exact Frame.refl _ _
  · dsimp only
    with_reducible refine Frame.after (corruptCw_frame _ _ _ _) (by decide) ?_
    with_reducible refine Frame.after (noteCorrected_frame _ _ _ _ _) (by decide) ?_
    exact Frame.refl _ _
  · dsimp only
    with_reducible refine Frame.after (corruptCw_frame _ _ _ _) (by decide) ?_
    exact Frame.refl _ _

theorem checkLine_frame (q) (eccs src e) : Frame [.err, .msix, .mem, .sm, .out] q.1 (checkLine eccs src q e).1 := by
  unfold checkLine
  split
  · dsimp only
    with_reducible refine Frame.after (notePoisonedRead_frame _ _) (by decide) ?_
    exact Frame.refl _ _
  · with_reducible refine Frame.foldl_fst _ _ (fun _ _ => ?_) ?_
    · with_reducible refine Frame.after (checkOne_frame _ _ _ _) (by decide) ?_
      exact Frame.refl _ _
    · exact Frame.refl _ _

theorem checkLines_frame (s : State) (pas eccs src) : Frame [.err, .msix, .mem, .sm, .out] s (checkLines s pas eccs src).1 := by
  unfold checkLines
  with_reducible refine Frame.foldl_fst _ _ (fun _ _ => ?_) ?_
  · with_reducible refine Frame.after (checkLine_frame _ _ _ _) (by decide) ?_
    exact Frame.refl _ _
  · dsimp only
    exact Frame.refl _ _

theorem failOwner_frame (s : State) (e rec) :
    Frame [.host, .admin, .rings, .ctxs, .steps, .pm, .mem, .sm, .ports, .slory, .power, .free] s (failOwner s e rec) := by
  unfold failOwner
  split
  · split
    · with_reducible refine Frame.after (failStep_frame _ _ _) (by decide) ?_
      exact Frame.refl _ _
    · exact Frame.refl _ _
  · exact Frame.refl _ _

theorem wcDrop_frame (s : State) (b line) : Frame [.sm] s (wcDrop s b line) := by
  unfold wcDrop
  dsimp only
  with_reducible refine Frame.after (setStack_frame _ _ _) (by decide) ?_
  exact Frame.refl _ _

theorem wcOut_frame (s : State) (b e ecc) :
    Frame [.err, .msix, .host, .admin, .rings, .ctxs, .steps, .pm, .mem, .sm, .ports, .slory, .power, .free, .out] s (wcOut s b e ecc) := by
  unfold wcOut
  dsimp only
  split
  · with_reducible refine Frame.after (cleanCws_frame _ _) (by decide) ?_
    with_reducible refine Frame.after (wcDrop_frame _ _ _) (by decide) ?_
    exact Frame.refl _ _
  · split
    · with_reducible refine Frame.after (Frame.of_fst (by assumption) (checkLines_frame _ _ _ _)) (by decide) ?_
      with_reducible refine Frame.after (wcDrop_frame _ _ _) (by decide) ?_
      exact Frame.refl _ _
    · with_reducible refine Frame.after (failOwner_frame _ _ _) (by decide) ?_
      with_reducible refine Frame.after (poisonLine_frame _ _) (by decide) ?_
      with_reducible refine Frame.after (Frame.of_fst (by assumption) (checkLines_frame _ _ _ _)) (by decide) ?_
      with_reducible refine Frame.after (wcDrop_frame _ _ _) (by decide) ?_
      exact Frame.refl _ _

theorem wcRoom_frame (s : State) (b share st ecc) :
    Frame [.err, .msix, .host, .admin, .rings, .ctxs, .steps, .pm, .mem, .sm, .ports, .slory, .power, .free, .out] s (wcRoom s b share st ecc) := by
  unfold wcRoom
  dsimp only
  split
  · split
    · with_reducible refine Frame.after (wcOut_frame _ _ _ _) (by decide) ?_
      exact Frame.refl _ _
    · exact Frame.refl _ _
  · split
    · split
      · with_reducible refine Frame.after (wcOut_frame _ _ _ _) (by decide) ?_
        exact Frame.refl _ _
      · exact Frame.refl _ _
    · exact Frame.refl _ _

theorem wcWrite_frame (s : State) (pa bs ctx st share ecc) :
    Frame [.err, .msix, .host, .admin, .rings, .ctxs, .steps, .pm, .mem, .sm, .ports, .slory, .power, .free, .out] s (wcWrite s pa bs ctx st share ecc) := by
  unfold wcWrite
  dsimp only
  split
  · split
    · exact Frame.refl _ _
    · with_reducible refine Frame.after (setStack_frame _ _ _) (by decide) ?_
      with_reducible refine Frame.after (wcRoom_frame _ _ _ _ _) (by decide) ?_
      exact Frame.refl _ _
  · split
    · with_reducible refine Frame.after (wcOut_frame _ _ _ _) (by decide) ?_
      with_reducible refine Frame.after (setStack_frame _ _ _) (by decide) ?_
      split
      · exact Frame.refl _ _
      · with_reducible refine Frame.after (setStack_frame _ _ _) (by decide) ?_
        with_reducible refine Frame.after (wcRoom_frame _ _ _ _ _) (by decide) ?_
        exact Frame.refl _ _
    · with_reducible refine Frame.after (setStack_frame _ _ _) (by decide) ?_
      split
      · exact Frame.refl _ _
      · with_reducible refine Frame.after (setStack_frame _ _ _) (by decide) ?_
        with_reducible refine Frame.after (wcRoom_frame _ _ _ _ _) (by decide) ?_
        exact Frame.refl _ _

theorem storeVa_frame (s : State) (img c x cyc rank va bs ecc) :
    Frame [.err, .msix, .host, .admin, .rings, .ctxs, .steps, .pm, .mem, .sm, .ports, .slory, .power, .free, .out] s (storeVa s img c x cyc rank va bs ecc) := by
  unfold storeVa
  with_reducible refine Frame.foldl _ _ (fun _ _ => ?_) ?_
  · split
    · exact Frame.refl _ _
    · dsimp only
      with_reducible refine Frame.after (wcWrite_frame _ _ _ _ _ _ _) (by decide) ?_
      with_reducible refine Frame.upd rfl ?_
      exact Frame.refl _ _
  · exact Frame.refl _ _

theorem fenceOut_frame (q) (b e) :
    Frame [.err, .msix, .host, .admin, .rings, .ctxs, .steps, .pm, .mem, .sm, .ports, .slory, .power, .free, .out] q.1 (fenceOut b q e).1 := by
  unfold fenceOut
  split
  · dsimp only
    with_reducible refine Frame.after (wcOut_frame _ _ _ _) (by decide) ?_
    exact Frame.refl _ _
  · dsimp only
    with_reducible refine Frame.after (wcOut_frame _ _ _ _) (by decide) ?_
    exact Frame.refl _ _

theorem wcFence_frame (s : State) (sel eccs) :
    Frame [.err, .msix, .host, .admin, .rings, .ctxs, .steps, .pm, .mem, .sm, .ports, .slory, .power, .free, .out] s (wcFence s sel eccs) := by
  unfold wcFence
  with_reducible refine Frame.foldl_fst _ _ (fun _ _ => ?_) ?_
  · with_reducible refine Frame.foldl_fst _ _ (fun _ _ => ?_) ?_
    · with_reducible refine Frame.after (fenceOut_frame _ _ _) (by decide) ?_
      exact Frame.refl _ _
    · exact Frame.refl _ _
  · dsimp only
    exact Frame.refl _ _

theorem storeTensor_frame (s : State) (img c x num area o bs ecc) :
    Frame [.err, .msix, .host, .admin, .rings, .ctxs, .steps, .pm, .mem, .sm, .ports, .slory, .power, .free, .out] s (storeTensor s img c x num area o bs ecc) := by
  unfold storeTensor
  with_reducible refine Frame.foldl _ _ (fun _ _ => ?_) ?_
  · dsimp only
    with_reducible refine Frame.after (wcWrite_frame _ _ _ _ _ _ _) (by decide) ?_
    exact Frame.refl _ _
  · exact Frame.refl _ _

end Sys2Proof.Laws
end

