-- ==== Sys2Proof/Laws/FramesUnits.lean ====
section
/-! SUPPORT. What the operations of the dies may change: piers, stations, gather channels and the deck. Each lemma names the parts of State that an operation may change. -/

namespace Sys2Proof.Laws

set_option Elab.async false

open Sys2Proof.Machine

theorem issueBankWrite_frame (s : State) (img c x p cyc mask bank addr) : Frame [.pm] s (issueBankWrite s img c x p cyc mask bank addr).1 := by
  unfold issueBankWrite
  dsimp only
  with_reducible refine Frame.upd rfl ?_
  exact Frame.refl _ _

theorem issueDrain_frame (s : State) (img c x p cyc mask bank toFeeder f sideB addr) :
    Frame [.pm] s (issueDrain s img c x p cyc mask bank toFeeder f sideB addr).1 := by
  unfold issueDrain
  dsimp only
  with_reducible refine Frame.upd rfl ?_
  exact Frame.refl _ _

theorem issueFill_frame (s : State) (img x p cyc mask sideB f slot addr) : Frame [.pm] s (issueFill s img x p cyc mask sideB f slot addr).1 := by
  unfold issueFill
  dsimp only
  with_reducible refine Frame.upd rfl ?_
  exact Frame.refl _ _

theorem stationFold_frame (s : State) (img x sp u dst d cyc tag fn at_) : Frame [.pm] s (stationFold s img x sp u dst d cyc tag fn at_).1 := by
  unfold stationFold
  dsimp only
  with_reducible refine Frame.foldl_fst _ _ (fun _ _ => ?_) ?_
  · dsimp only
    with_reducible refine Frame.after (stationWrite_frame _ _ _ _ _ _ _ _ _ _) (by decide) ?_
    exact Frame.refl _ _
  · dsimp only
    exact Frame.refl _ _

theorem stationRun_frame (s : State) (img x key sp u stall dst d cyc tag fn at_) :
    Frame [.host, .admin, .rings, .ctxs, .steps, .pm, .mem, .sm, .ports, .slory, .power, .free] s (stationRun s img x key sp u stall dst d cyc tag fn at_) := by
  unfold stationRun
  split
  · with_reducible refine Frame.after (waitUnit_frame _ _ _ _ _ _) (by decide) ?_
    exact Frame.refl _ _
  · dsimp only
    with_reducible refine issueOr_frame ?_ ?_ (by decide)
    · exact Frame.refl _ _
    · with_reducible refine Frame.after (setStep_frame _ _) (by decide) ?_
      with_reducible refine Frame.after (stationFold_frame _ _ _ _ _ _ _ _ _ _ _) (by decide) ?_
      exact Frame.refl _ _

theorem stationClear_frame (s : State) (key listOf st stall) :
    Frame [.host, .admin, .rings, .ctxs, .steps, .pm, .mem, .sm, .ports, .slory, .power, .free] s (stationClear key listOf st stall s) := by
  unfold stationClear
  split
  · exact Frame.refl _ _
  · split
    · with_reducible refine issueOr_frame ?_ ?_ (by decide)
      · exact Frame.refl _ _
      · with_reducible refine Frame.after (setStep_frame _ _) (by decide) ?_
        exact Frame.refl _ _
    · exact Frame.refl _ _

theorem vecElem_frame (s : State) (vop useB useC lanes g st sp stall) :
    Frame [.host, .admin, .rings, .ctxs, .steps, .pm, .mem, .sm, .ports, .slory, .power, .free] s (vecElem vop useB useC lanes g st sp stall s) := by
  unfold vecElem
  split
  · exact Frame.refl _ _
  · split
    · split
      · with_reducible refine Frame.after (stationRun_frame _ _ _ _ _ _ _ _ _ _ _ _ _) (by decide) ?_
        exact Frame.refl _ _
      · with_reducible refine Frame.after (waitFor_frame _ _ _ _ _ _ _) (by decide) ?_
        exact Frame.refl _ _
    · exact Frame.refl _ _

theorem vecRow_frame (s : State) (vop g pre st sp stall) :
    Frame [.host, .admin, .rings, .ctxs, .steps, .pm, .mem, .sm, .ports, .slory, .power, .free] s (vecRow vop g pre st sp stall s) := by
  unfold vecRow
  split
  · exact Frame.refl _ _
  · split
    · split
      · dsimp only
        with_reducible refine Frame.after (stationRun_frame _ _ _ _ _ _ _ _ _ _ _ _ _) (by decide) ?_
        exact Frame.refl _ _
      · with_reducible refine Frame.after (waitFor_frame _ _ _ _ _ _ _) (by decide) ?_
        exact Frame.refl _ _
    · exact Frame.refl _ _

theorem tabElem_frame (s : State) (code useB g st sp stall) :
    Frame [.host, .admin, .rings, .ctxs, .steps, .pm, .mem, .sm, .ports, .slory, .power, .free] s (tabElem code useB g st sp stall s) := by
  unfold tabElem
  split
  · exact Frame.refl _ _
  · split
    · split
      · with_reducible refine Frame.after (stationRun_frame _ _ _ _ _ _ _ _ _ _ _ _ _) (by decide) ?_
        exact Frame.refl _ _
      · with_reducible refine Frame.after (waitFor_frame _ _ _ _ _ _ _) (by decide) ?_
        exact Frame.refl _ _
    · exact Frame.refl _ _

theorem emitList_frame (s : State) (img x sp dst cap cyc stall u d es) :
    Frame [.host, .admin, .rings, .ctxs, .steps, .pm, .mem, .sm, .ports, .slory, .power, .free] s (emitList s img x sp dst cap cyc stall u d es) := by
  unfold emitList
  with_reducible refine issueOr_frame ?_ ?_ (by decide)
  · exact Frame.refl _ _
  · split
    · with_reducible refine Frame.after (failStep_frame _ _ _) (by decide) ?_
      exact Frame.refl _ _
    · dsimp only
      with_reducible refine Frame.after (setStep_frame _ _) (by decide) ?_
      exact Frame.refl _ _

theorem gatherWait_frame (s : State) (img x sp ds) :
    Frame [.host, .admin, .rings, .ctxs, .steps, .pm, .mem, .sm, .ports, .slory, .power, .free] s (gatherWait s img x sp ds) := by
  unfold gatherWait
  dsimp only
  split
  · with_reducible refine Frame.after (slipStep_frame _ _ _ _ _) (by decide) ?_
    exact Frame.refl _ _
  · with_reducible refine Frame.after (waitFor_frame _ _ _ _ _ _ _) (by decide) ?_
    exact Frame.refl _ _

theorem routeStep_frame (s : State) (img x sp cyc ri win r dt dw sc tok) :
    Frame [.host, .admin, .rings, .ctxs, .steps, .pm, .mem, .sm, .ports, .slory, .power, .free] s (routeStep s img x sp cyc ri win r dt dw sc tok) := by
  unfold routeStep
  dsimp only
  with_reducible refine Frame.after (stationRun_frame _ _ _ _ _ _ _ _ _ _ _ _ _) (by decide) ?_
  exact Frame.refl _ _

theorem landLocal_frame (s : State) (img x desc d) : Frame [.steps, .pm] s (landLocal s img x desc d) := by
  unfold landLocal
  dsimp only
  with_reducible refine Frame.after (setStep_frame _ _) (by decide) ?_
  with_reducible refine Frame.upd rfl ?_
  exact Frame.refl _ _

theorem landMemory_frame (s : State) (img c x desc d ecc) :
    Frame [.err, .msix, .host, .admin, .rings, .ctxs, .steps, .pm, .mem, .sm, .ports, .slory, .power, .free, .out] s (landMemory s img c x desc d ecc) := by
  unfold landMemory
  dsimp only
  split
  · exact Frame.refl _ _
  · split
    · with_reducible refine Frame.after (storeTensor_frame _ _ _ _ _ _ _ _ _) (by decide) ?_
      with_reducible refine Frame.after (setStep_frame _ _) (by decide) ?_
      with_reducible refine Frame.after (setCtx_frame _ _ _) (by decide) ?_
      exact Frame.refl _ _
    · split
      · with_reducible refine Frame.after (storeVa_frame _ _ _ _ _ _ _ _ _) (by decide) ?_
        with_reducible refine Frame.after (setStep_frame _ _) (by decide) ?_
        exact Frame.refl _ _
      · split
        · with_reducible refine Frame.after (tagWrites_frame _ _ _ _) (by decide) ?_
          with_reducible refine Frame.after (writeHostVa_frame _ _ _ _ _) (by decide) ?_
          with_reducible refine Frame.after (setStep_frame _ _) (by decide) ?_
          exact Frame.refl _ _
        · with_reducible refine Frame.after (setStep_frame _ _) (by decide) ?_
          exact Frame.refl _ _

theorem runMma_frame (q) (st p whole lim m) : Frame [.pm] q.1 (runMma st p whole lim q m).1 := by
  unfold runMma
  split
  · split
    · dsimp only
      exact Frame.refl _ _
    · dsimp only
      split
      · dsimp only
        exact Frame.refl _ _
      · dsimp only
        with_reducible refine Frame.upd rfl ?_
        exact Frame.refl _ _

theorem deliverFill_frame (q) (img c x p k) : Frame [.pm] q.1 (deliverFill img c x p q k).1 := by
  unfold deliverFill
  dsimp only
  with_reducible refine Frame.upd rfl ?_
  exact Frame.refl _ _

theorem pierAdvance_frame (s : State) (img c x p) : Frame [.steps, .pm] s (pierAdvance s img c x p) := by
  unfold pierAdvance
  dsimp only
  with_reducible refine Frame.after (setStep_frame _ _) (by decide) ?_
  with_reducible refine Frame.foldl_fst _ _ (fun _ _ => ?_) ?_
  · with_reducible refine Frame.after (runMma_frame _ _ _ _ _ _) (by decide) ?_
    exact Frame.refl _ _
  · dsimp only
    with_reducible refine Frame.foldl_fst _ _ (fun _ _ => ?_) ?_
    · with_reducible refine Frame.after (deliverFill_frame _ _ _ _ _ _) (by decide) ?_
      exact Frame.refl _ _
    · dsimp only
      exact Frame.refl _ _

theorem prefetchMore_frame (s : State) (img x b d) : Frame [.host] s (prefetchMore s img x b d) := by
  unfold prefetchMore
  dsimp only
  with_reducible refine Frame.foldl _ _ (fun _ _ => ?_) ?_
  · with_reducible refine Frame.after (issueRead_frame _ _ _ _ _) (by decide) ?_
    exact Frame.refl _ _
  · exact Frame.refl _ _

theorem landPier_frame (s : State) (img c x desc p d) :
    Frame [.host, .admin, .rings, .ctxs, .steps, .pm, .mem, .sm, .ports, .slory, .power, .free] s (landPier s img c x desc p d) := by
  unfold landPier
  split
  · with_reducible refine Frame.after (pierAdvance_frame _ _ _ _ _) (by decide) ?_
    exact Frame.refl _ _
  · dsimp only
    split
    · with_reducible refine Frame.after (failStep_frame _ _ _) (by decide) ?_
      exact Frame.refl _ _
    · split
      · with_reducible refine Frame.after (prefetchMore_frame _ _ _ _ _) (by decide) ?_
        with_reducible refine Frame.after (pierAdvance_frame _ _ _ _ _) (by decide) ?_
        with_reducible refine Frame.upd rfl ?_
        exact Frame.refl _ _
      · with_reducible refine Frame.after (pierAdvance_frame _ _ _ _ _) (by decide) ?_
        with_reducible refine Frame.upd rfl ?_
        exact Frame.refl _ _

theorem readMasters_frame (s : State) (c x t js) : Frame [.host] s (readMasters s c x t js) := by
  unfold readMasters
  with_reducible refine Frame.foldl _ _ (fun _ _ => ?_) ?_
  · split
    · exact Frame.refl _ _
    · with_reducible refine Frame.after (issueRead_frame _ _ _ _ _) (by decide) ?_
      exact Frame.refl _ _
  · exact Frame.refl _ _

end Sys2Proof.Laws
end

