-- ==== Sys2Proof/Laws/FramesCommands.lean ====
section
/-! SUPPORT. What the operations of commands, contexts, schedules, steps and the optimiser may change. Each lemma names the parts of State that an operation may change. -/

namespace Sys2Proof.Laws

set_option Elab.async false

open Sys2Proof.Machine

theorem setSlot_frame (s : State) (i x) : Frame [.store] s (setSlot s i x) := by
  unfold setSlot
  with_reducible refine Frame.upd rfl ?_
  exact Frame.refl _ _

theorem storeWrite_frame (s : State) (w) : Frame [.store] s (storeWrite s w) := by
  unfold storeWrite
  with_reducible refine Frame.upd rfl ?_
  exact Frame.refl _ _

theorem endSender_frame (s : State) (n k) : Frame [.host, .admin, .rings, .ctxs, .slory, .power, .free] s (endSender s n k) := by
  unfold endSender
  dsimp only
  split
  · with_reducible refine Frame.after (endCmd_frame _ _ _ _) (by decide) ?_
    with_reducible refine Frame.upd rfl ?_
    with_reducible refine Frame.after (updCtx_frame _ _ _) (by decide) ?_
    exact Frame.refl _ _
  · with_reducible refine Frame.upd rfl ?_
    with_reducible refine Frame.after (updCtx_frame _ _ _) (by decide) ?_
    exact Frame.refl _ _

theorem moveGranule_frame (s : State) (b g h) : Frame [.mem, .sm] s (moveGranule s b g h) := by
  unfold moveGranule
  dsimp only
  with_reducible refine Frame.upd rfl ?_
  exact Frame.refl _ _

theorem acceptCmd_frame (s : State) (r seq) : Frame [.host, .admin, .rings, .ctxs, .power, .free] s (acceptCmd s r seq) := by
  unfold acceptCmd
  with_reducible refine Frame.after (releaseHeld_frame _ _) (by decide) ?_
  with_reducible refine Frame.after (updCmd_frame _ _ _ _) (by decide) ?_
  exact Frame.refl _ _

theorem endOk_frame (s : State) (r c result) : Frame [.host, .admin, .rings, .ctxs, .power, .free] s (endOk s r c result) := by
  unfold endOk
  with_reducible refine Frame.after (endCmd_frame _ _ _ _) (by decide) ?_
  with_reducible refine Frame.after (acceptCmd_frame _ _ _) (by decide) ?_
  exact Frame.refl _ _

theorem fetchFailed_frame (s : State) (r g) : Frame [.err, .msix, .host, .admin, .rings, .out] s (fetchFailed s r g) := by
  unfold fetchFailed
  dsimp only
  with_reducible refine Frame.after (postEventOn_frame _ _ _) (by decide) ?_
  with_reducible refine Frame.after (writeCtrl_frame _ _ _) (by decide) ?_
  with_reducible refine Frame.after (setRing_frame _ _ _) (by decide) ?_
  with_reducible refine Frame.after (logErr_frame _ _ _ _) (by decide) ?_
  exact Frame.refl _ _

theorem failFetched_frame (s : State) (r c y) : Frame [.host, .admin, .rings, .ctxs, .power, .free] s (failFetched s r c y) := by
  unfold failFetched
  split
  · with_reducible refine Frame.after (endCmd_frame _ _ _ _) (by decide) ?_
    exact Frame.refl _ _
  · with_reducible refine Frame.after (updCmd_frame _ _ _ _) (by decide) ?_
    exact Frame.refl _ _

theorem fetched_frame (s : State) (r g c param) : Frame [.err, .msix, .host, .admin, .rings, .ctxs, .power, .free, .out] s (fetched s r g c param) := by
  unfold fetched
  dsimp only
  split
  · with_reducible refine Frame.after (writeCtrl_frame _ _ _) (by decide) ?_
    with_reducible refine Frame.after (setRing_frame _ _ _) (by decide) ?_
    exact Frame.refl _ _
  · with_reducible refine Frame.after (failFetched_frame _ _ _ _) (by decide) ?_
    split
    · with_reducible refine Frame.after (logErr_frame _ _ _ _) (by decide) ?_
      split
      · with_reducible refine Frame.after (logErr_frame _ _ _ _) (by decide) ?_
        with_reducible refine Frame.after (writeCtrl_frame _ _ _) (by decide) ?_
        with_reducible refine Frame.after (setRing_frame _ _ _) (by decide) ?_
        exact Frame.refl _ _
      · with_reducible refine Frame.after (writeCtrl_frame _ _ _) (by decide) ?_
        with_reducible refine Frame.after (setRing_frame _ _ _) (by decide) ?_
        exact Frame.refl _ _
    · split
      · with_reducible refine Frame.after (logErr_frame _ _ _ _) (by decide) ?_
        with_reducible refine Frame.after (writeCtrl_frame _ _ _) (by decide) ?_
        with_reducible refine Frame.after (setRing_frame _ _ _) (by decide) ?_
        exact Frame.refl _ _
      · with_reducible refine Frame.after (writeCtrl_frame _ _ _) (by decide) ?_
        with_reducible refine Frame.after (setRing_frame _ _ _) (by decide) ?_
        exact Frame.refl _ _

theorem refuseField_frame (s : State) (r c status bitNo) : Frame [.host, .admin, .rings, .ctxs, .power, .free] s (refuseField s r c status bitNo) := by
  unfold refuseField
  with_reducible refine Frame.after (endCmd_frame _ _ _ _) (by decide) ?_
  exact Frame.refl _ _

theorem refusePlain_frame (s : State) (r c status) : Frame [.host, .admin, .rings, .ctxs, .power, .free] s (refusePlain s r c status) := by
  unfold refusePlain
  with_reducible refine Frame.after (endCmd_frame _ _ _ _) (by decide) ?_
  exact Frame.refl _ _

theorem dropTraffic_frame (s : State) (n tag) : Frame [.host, .ports, .slory] s (dropTraffic s n tag) := by
  unfold dropTraffic
  dsimp only
  with_reducible refine Frame.upd rfl ?_
  exact Frame.refl _ _

theorem killCmds_frame (s : State) (r) : Frame [.host, .admin, .rings, .ctxs, .power, .free] s (killCmds s r) := by
  unfold killCmds
  split
  · exact Frame.refl _ _
  · with_reducible refine Frame.foldl _ _ (fun _ _ => ?_) ?_
    · split
      · with_reducible refine Frame.after (updCmd_frame _ _ _ _) (by decide) ?_
        exact Frame.refl _ _
      · split
        · exact Frame.refl _ _
        · with_reducible refine Frame.after (endCmd_frame _ _ _ _) (by decide) ?_
          exact Frame.refl _ _
    · exact Frame.refl _ _

theorem killSteps_frame (s : State) (n) : Frame [.host, .admin, .rings, .ctxs, .steps, .pm, .mem, .sm, .slory, .power, .free] s (killSteps s n) := by
  unfold killSteps
  with_reducible refine Frame.foldl _ _ (fun _ _ => ?_) ?_
  · with_reducible refine Frame.after (endStep_frame _ _ _) (by decide) ?_
    exact Frame.refl _ _
  · exact Frame.refl _ _

theorem destroyTraffic_frame (s : State) (n tag) : Frame [.host, .ctxs, .sm, .ports, .slory] s (destroyTraffic s n tag) := by
  unfold destroyTraffic
  split
  · exact Frame.refl _ _
  · with_reducible refine Frame.after (updCtx_frame _ _ _) (by decide) ?_
    with_reducible refine Frame.after (dropTraffic_frame _ _ _) (by decide) ?_
    with_reducible refine Frame.after (wcDiscard_frame _ _) (by decide) ?_
    exact Frame.refl _ _

theorem beginDestroy_frame (s : State) (n k seq) :
    Frame [.host, .admin, .rings, .ctxs, .steps, .pm, .mem, .sm, .ports, .slory, .power, .free] s (beginDestroy s n k seq) := by
  unfold beginDestroy
  dsimp only
  with_reducible refine Frame.after (updCtx_frame _ _ _) (by decide) ?_
  with_reducible refine Frame.after (destroyTraffic_frame _ _ _) (by decide) ?_
  with_reducible refine Frame.after (killCmds_frame _ _) (by decide) ?_
  with_reducible refine Frame.after (killSteps_frame _ _) (by decide) ?_
  exact Frame.refl _ _

theorem refuseAt_frame (s : State) (r c f) : Frame [.host, .admin, .rings, .ctxs, .power, .free] s (refuseAt s r c f) := by
  unfold refuseAt
  with_reducible refine Frame.after (endCmd_frame _ _ _ _) (by decide) ?_
  exact Frame.refl _ _

theorem ctxCreate_frame (s : State) (r c lists) : Frame [.err, .msix, .host, .admin, .rings, .ctxs, .sm, .power, .free, .out] s (ctxCreate s r c lists) := by
  unfold ctxCreate
  dsimp only
  split
  · with_reducible refine Frame.after (refusePlain_frame _ _ _ _) (by decide) ?_
    exact Frame.refl _ _
  · split
    · with_reducible refine Frame.after (refuseField_frame _ _ _ _ _) (by decide) ?_
      exact Frame.refl _ _
    · split
      · with_reducible refine Frame.after (refuseAt_frame _ _ _ _) (by decide) ?_
        exact Frame.refl _ _
      · split
        · with_reducible refine Frame.after (refuseAt_frame _ _ _ _) (by decide) ?_
          exact Frame.refl _ _
        · with_reducible refine Frame.after (endCmd_frame _ _ _ _) (by decide) ?_
          with_reducible refine Frame.after (logErr_frame _ _ _ _) (by decide) ?_
          exact Frame.refl _ _
        · split
          · with_reducible refine Frame.after (endCmd_frame _ _ _ _) (by decide) ?_
            exact Frame.refl _ _
          · split
            · with_reducible refine Frame.after (refuseAt_frame _ _ _ _) (by decide) ?_
              exact Frame.refl _ _
            · split
              · with_reducible refine Frame.after (endCmd_frame _ _ _ _) (by decide) ?_
                exact Frame.refl _ _
              · with_reducible refine Frame.after (endOk_frame _ _ _ _) (by decide) ?_
                with_reducible refine Frame.after (writeCtrl_frame _ _ _) (by decide) ?_
                with_reducible refine Frame.upd rfl ?_
                with_reducible refine Frame.after (setCtx_frame _ _ _) (by decide) ?_
                exact Frame.refl _ _

theorem finishDestroy_frame (s : State) (n) : Frame [.host, .admin, .rings, .ctxs, .sched, .sm, .power, .free] s (finishDestroy s n) := by
  unfold finishDestroy
  split
  · split
    · exact Frame.refl _ _
    · split
      · exact Frame.refl _ _
      · dsimp only
        with_reducible refine Frame.after (endCmd_frame _ _ _ _) (by decide) ?_
        with_reducible refine Frame.upd rfl ?_
        exact Frame.refl _ _
  · exact Frame.refl _ _

theorem scrubFrame_frame (s : State) (f) : Frame [.mem, .sm] s (scrubFrame s f) := by
  unfold scrubFrame
  with_reducible refine Frame.upd rfl ?_
  exact Frame.refl _ _

theorem scrubUnit_frame (s : State) (u) : Frame [.pm] s (scrubUnit s u) := by
  unfold scrubUnit
  split
  · with_reducible refine Frame.upd rfl ?_
    exact Frame.refl _ _
  · with_reducible refine Frame.upd rfl ?_
    exact Frame.refl _ _
  · with_reducible refine Frame.upd rfl ?_
    exact Frame.refl _ _
  · with_reducible refine Frame.upd rfl ?_
    exact Frame.refl _ _
  · exact Frame.refl _ _

theorem fillResident_frame (s : State) (img k w host) : Frame [.pm] s (fillResident img k s w host) := by
  unfold fillResident
  dsimp only
  with_reducible refine Frame.upd rfl ?_
  exact Frame.refl _ _

theorem loadImage_frame (s : State) (n k slot img pages) : Frame [.ctxs] s (loadImage s n k slot img pages) := by
  unfold loadImage
  dsimp only
  with_reducible refine Frame.after (setCtx_frame _ _ _) (by decide) ?_
  exact Frame.refl _ _

theorem placeImage_frame (s : State) (n k slot img host) : Frame [.ctxs, .pm] s (placeImage s n k slot img host) := by
  unfold placeImage
  dsimp only
  with_reducible refine Frame.after (updCtx_frame _ _ _) (by decide) ?_
  with_reducible refine Frame.foldl_fst _ _ (fun _ _ => ?_) ?_
  · split
    · dsimp only
      with_reducible refine Frame.after (fillResident_frame _ _ _ _ _) (by decide) ?_
      exact Frame.refl _ _
    · dsimp only
      with_reducible refine Frame.after (fillResident_frame _ _ _ _ _) (by decide) ?_
      exact Frame.refl _ _
  · dsimp only
    with_reducible refine Frame.upd rfl ?_
    exact Frame.refl _ _

theorem removeImage_frame (s : State) (n slot) : Frame [.ctxs, .pm] s (removeImage s n slot) := by
  unfold removeImage
  split
  · exact Frame.refl _ _
  · dsimp only
    with_reducible refine Frame.after (updCtx_frame _ _ _) (by decide) ?_
    with_reducible refine Frame.upd rfl ?_
    exact Frame.refl _ _

theorem schedLoad_frame (s : State) (n k r c b) : Frame [.host, .admin, .rings, .ctxs, .power, .free] s (schedLoad s n k r c b) := by
  unfold schedLoad
  split
  · with_reducible refine Frame.after (refuseField_frame _ _ _ _ _) (by decide) ?_
    exact Frame.refl _ _
  · split
    · with_reducible refine Frame.after (endCmd_frame _ _ _ _) (by decide) ?_
      exact Frame.refl _ _
    · dsimp only
      split
      · with_reducible refine Frame.after (endCmd_frame _ _ _ _) (by decide) ?_
        exact Frame.refl _ _
      · split
        · with_reducible refine Frame.after (endCmd_frame _ _ _ _) (by decide) ?_
          exact Frame.refl _ _
        · split
          · with_reducible refine Frame.after (endCmd_frame _ _ _ _) (by decide) ?_
            exact Frame.refl _ _
          · with_reducible refine Frame.after (updCmd_frame _ _ _ _) (by decide) ?_
            with_reducible refine Frame.after (acceptCmd_frame _ _ _) (by decide) ?_
            with_reducible refine Frame.after (loadImage_frame _ _ _ _ _ _) (by decide) ?_
            exact Frame.refl _ _

theorem schedPlaced_frame (s : State) (r c host) : Frame [.err, .msix, .host, .admin, .rings, .ctxs, .pm, .power, .free, .out] s (schedPlaced s r c host) := by
  unfold schedPlaced
  split
  · exact Frame.refl _ _
  · split
    · exact Frame.refl _ _
    · split
      · exact Frame.refl _ _
      · split
        · exact Frame.refl _ _
        · split
          · with_reducible refine Frame.after (endCmd_frame _ _ _ _) (by decide) ?_
            with_reducible refine Frame.after (placeImage_frame _ _ _ _ _ _) (by decide) ?_
            exact Frame.refl _ _
          · with_reducible refine Frame.after (endCmd_frame _ _ _ _) (by decide) ?_
            with_reducible refine Frame.after (logErr_frame _ _ _ _) (by decide) ?_
            with_reducible refine Frame.after (removeImage_frame _ _ _) (by decide) ?_
            exact Frame.refl _ _

theorem openLeader_frame (s : State) (x img) : Frame [.slory] s (openLeader s x img) := by
  unfold openLeader
  split
  · exact Frame.refl _ _
  · split
    · with_reducible refine Frame.upd rfl ?_
      exact Frame.refl _ _
    · exact Frame.refl _ _

theorem admitStep_frame (s : State) (x img c kind lender) :
    Frame [.host, .admin, .rings, .ctxs, .steps, .slory, .power, .free] s (admitStep s x img c kind lender) := by
  unfold admitStep
  split
  · with_reducible refine Frame.after (openLeader_frame _ _ _) (by decide) ?_
    with_reducible refine Frame.upd rfl ?_
    exact Frame.refl _ _
  · with_reducible refine Frame.after (replyStep_frame _ _ _) (by decide) ?_
    exact Frame.refl _ _

theorem slotAdmit_frame (s : State) (i) : Frame [.host, .admin, .rings, .ctxs, .steps, .sched, .slory, .power, .free] s (slotAdmit s i) := by
  unfold slotAdmit
  split
  · exact Frame.refl _ _
  · split
    · split
      · with_reducible refine Frame.upd rfl ?_
        exact Frame.refl _ _
      · exact Frame.refl _ _
    · with_reducible refine Frame.after (admitStep_frame _ _ _ _ _ _) (by decide) ?_
      with_reducible refine Frame.upd rfl ?_
      exact Frame.refl _ _

theorem setFollow_frame (s : State) (i on) : Frame [.sched] s (setFollow s i on) := by
  unfold setFollow
  with_reducible refine Frame.upd rfl ?_
  exact Frame.refl _ _

theorem slotFollow_frame (s : State) (i) : Frame [.host, .admin, .rings, .ctxs, .steps, .sched, .slory, .power, .free] s (slotFollow s i) := by
  unfold slotFollow
  split
  · with_reducible refine Frame.after (setFollow_frame _ _ _) (by decide) ?_
    exact Frame.refl _ _
  · split
    · with_reducible refine Frame.after (setFollow_frame _ _ _) (by decide) ?_
      exact Frame.refl _ _
    · split
      · with_reducible refine Frame.after (setFollow_frame _ _ _) (by decide) ?_
        exact Frame.refl _ _
      · split
        · with_reducible refine Frame.after (admitStep_frame _ _ _ _ _ _) (by decide) ?_
          with_reducible refine Frame.after (setFollow_frame _ _ _) (by decide) ?_
          exact Frame.refl _ _
        · with_reducible refine Frame.after (setFollow_frame _ _ _) (by decide) ?_
          exact Frame.refl _ _

theorem afterCommit_frame (s : State) (n) : Frame [.host, .admin, .rings, .ctxs, .steps, .sched, .slory, .power, .free] s (afterCommit s n) := by
  unfold afterCommit
  with_reducible refine Frame.foldl _ _ (fun _ _ => ?_) ?_
  · with_reducible refine Frame.after (slotFollow_frame _ _) (by decide) ?_
    exact Frame.refl _ _
  · exact Frame.refl _ _

theorem payOwed_frame (s : State) : Frame [.host, .admin, .rings, .ctxs, .steps, .sched, .slory, .power, .free] s (payOwed s) := by
  unfold payOwed
  dsimp only
  with_reducible refine Frame.foldl _ _ (fun _ _ => ?_) ?_
  · with_reducible refine Frame.after (slotFollow_frame _ _) (by decide) ?_
    exact Frame.refl _ _
  · with_reducible refine Frame.foldl _ _ (fun _ _ => ?_) ?_
    · with_reducible refine Frame.after (slotAdmit_frame _ _) (by decide) ?_
      exact Frame.refl _ _
    · exact Frame.refl _ _

theorem breakStream_frame (s : State) (n status) :
    Frame [.err, .msix, .host, .admin, .rings, .ctxs, .slory, .power, .free, .out] s (breakStream s n status) := by
  unfold breakStream
  split
  · exact Frame.refl _ _
  · split
    · exact Frame.refl _ _
    · dsimp only
      with_reducible refine Frame.after (sendVector_frame _ _) (by decide) ?_
      with_reducible refine Frame.after (postEvent_frame _ _ _) (by decide) ?_
      with_reducible refine Frame.after (logErr_frame _ _ _ _) (by decide) ?_
      split
      · with_reducible refine Frame.after (endCmd_frame _ _ _ _) (by decide) ?_
        with_reducible refine Frame.after (endSender_frame _ _ _) (by decide) ?_
        with_reducible refine Frame.after (setCtx_frame _ _ _) (by decide) ?_
        exact Frame.refl _ _
      · with_reducible refine Frame.after (endSender_frame _ _ _) (by decide) ?_
        with_reducible refine Frame.after (setCtx_frame _ _ _) (by decide) ?_
        exact Frame.refl _ _

theorem acceptTable_frame (s : State) (t) : Frame [.sched] s (acceptTable s t) := by
  unfold acceptTable
  split
  · with_reducible refine Frame.upd rfl ?_
    exact Frame.refl _ _
  · with_reducible refine Frame.upd rfl ?_
    exact Frame.refl _ _
  · exact Frame.refl _ _

theorem endSlot_frame (s : State) (i) : Frame [.ctxs, .sched] s (endSlot s i) := by
  unfold endSlot
  dsimp only
  split
  · with_reducible refine Frame.upd rfl ?_
    exact Frame.refl _ _
  · with_reducible refine Frame.after (updCtx_frame _ _ _) (by decide) ?_
    with_reducible refine Frame.upd rfl ?_
    exact Frame.refl _ _

theorem timetableKill_frame (s : State) (x) :
    Frame [.host, .admin, .rings, .ctxs, .steps, .pm, .mem, .sm, .ports, .slory, .power, .free] s (timetableKill s x) := by
  unfold timetableKill
  split
  · with_reducible refine Frame.after (slipStep_frame _ _ _ _ _) (by decide) ?_
    exact Frame.refl _ _
  · with_reducible refine Frame.after (updCtx_frame _ _ _) (by decide) ?_
    with_reducible refine Frame.after (rerunStep_frame _ _ _) (by decide) ?_
    exact Frame.refl _ _

theorem killStep_frame (s : State) (x) : Frame [.host, .admin, .rings, .ctxs, .steps, .pm, .mem, .sm, .slory, .power, .free] s (killStep s x) := by
  unfold killStep
  split
  · exact Frame.refl _ _
  · with_reducible refine Frame.after (endStep_frame _ _ _) (by decide) ?_
    exact Frame.refl _ _

theorem commitMemories_frame (s : State) (x) : Frame [.pm, .mem, .sm] s (commitMemories s x) := by
  unfold commitMemories
  dsimp only
  with_reducible refine Frame.after (wcRelease_frame _ _) (by decide) ?_
  with_reducible refine Frame.after (keepWrites_frame _ _) (by decide) ?_
  with_reducible refine Frame.upd rfl ?_
  exact Frame.refl _ _

theorem releaseDeltas_frame (s : State) (x) : Frame [.ctxs, .ports, .slory, .free] s (releaseDeltas s x) := by
  unfold releaseDeltas
  split
  · exact Frame.refl _ _
  · split
    · exact Frame.refl _ _
    · split
      · dsimp only
        with_reducible refine Frame.after (startOpenFlow_frame _ _ _ _ _ _ _ _ _ _) (by decide) ?_
        with_reducible refine Frame.after (setCtx_frame _ _ _) (by decide) ?_
        exact Frame.refl _ _
      · exact Frame.refl _ _

theorem commitNow_frame (s : State) (x img) :
    Frame [.host, .admin, .rings, .ctxs, .steps, .sched, .pm, .mem, .sm, .ports, .slory, .power, .free] s (commitNow s x img) := by
  unfold commitNow
  dsimp only
  with_reducible refine Frame.after (payOwed_frame _) (by decide) ?_
  split
  · with_reducible refine Frame.after (afterCommit_frame _ _) (by decide) ?_
    with_reducible refine Frame.after (releaseDeltas_frame _ _) (by decide) ?_
    with_reducible refine Frame.after (setStep_frame _ _) (by decide) ?_
    with_reducible refine Frame.after (noteSums_frame _ _) (by decide) ?_
    with_reducible refine Frame.after (updCtx_frame _ _ _) (by decide) ?_
    with_reducible refine Frame.after (commitMemories_frame _ _) (by decide) ?_
    with_reducible refine Frame.after (bookFiller_frame _ _) (by decide) ?_
    exact Frame.refl _ _
  · with_reducible refine Frame.after (releaseDeltas_frame _ _) (by decide) ?_
    with_reducible refine Frame.after (setStep_frame _ _) (by decide) ?_
    with_reducible refine Frame.after (noteSums_frame _ _) (by decide) ?_
    with_reducible refine Frame.after (updCtx_frame _ _ _) (by decide) ?_
    with_reducible refine Frame.after (commitMemories_frame _ _) (by decide) ?_
    with_reducible refine Frame.after (bookFiller_frame _ _) (by decide) ?_
    exact Frame.refl _ _

theorem writeMirror_frame (s : State) (n c t after) : Frame [.host] s (writeMirror s n c t after) := by
  unfold writeMirror
  with_reducible refine Frame.after (writeHostAfter_frame _ _ _ _ _ _) (by decide) ?_
  exact Frame.refl _ _

theorem releaseMirrors_frame (s : State) (x) : Frame [.host] s (releaseMirrors s x) := by
  unfold releaseMirrors
  split
  · exact Frame.refl _ _
  · split
    · with_reducible refine Frame.foldl _ _ (fun _ _ => ?_) ?_
      · with_reducible refine Frame.after (writeMirror_frame _ _ _ _ _) (by decide) ?_
        exact Frame.refl _ _
      · exact Frame.refl _ _
    · exact Frame.refl _ _

theorem releaseReply_frame (s : State) (n bad) : Frame [.free] s (releaseReply s n bad).1 := by
  unfold releaseReply
  split
  · dsimp only
    exact Frame.refl _ _
  · dsimp only
    with_reducible refine Frame.after (takeFree_frame _) (by decide) ?_
    exact Frame.refl _ _

theorem takeFrees_frame (s : State) (n) : Frame [.free] s (takeFrees s n).2 := by
  unfold takeFrees
  dsimp only
  with_reducible refine Frame.upd rfl ?_
  exact Frame.refl _ _

theorem loseTensor_frame (s : State) (n words t) : Frame [.ctxs, .free] s (loseTensor n words s t) := by
  unfold loseTensor
  dsimp only
  with_reducible refine Frame.after (updCtx_frame _ _ _) (by decide) ?_
  split
  · with_reducible refine Frame.foldl _ _ (fun _ _ => ?_) ?_
    · with_reducible refine Frame.foldl _ _ (fun _ _ => ?_) ?_
      · with_reducible refine Frame.after (updCtx_frame _ _ _) (by decide) ?_
        with_reducible refine Frame.after (takeFrees_frame _ _) (by decide) ?_
        exact Frame.refl _ _
      · exact Frame.refl _ _
    · with_reducible refine Frame.foldl _ _ (fun _ _ => ?_) ?_
      · with_reducible refine Frame.after (updCtx_frame _ _ _) (by decide) ?_
        with_reducible refine Frame.after (takeFrees_frame _ _) (by decide) ?_
        exact Frame.refl _ _
      · exact Frame.refl _ _
  · with_reducible refine Frame.foldl _ _ (fun _ _ => ?_) ?_
    · with_reducible refine Frame.after (updCtx_frame _ _ _) (by decide) ?_
      with_reducible refine Frame.after (takeFrees_frame _ _) (by decide) ?_
      exact Frame.refl _ _
    · exact Frame.refl _ _

theorem dropLoad_frame (s : State) (n c j) : Frame [.host, .ctxs, .slory] s (dropLoad s n c j) := by
  unfold dropLoad
  dsimp only
  with_reducible refine Frame.upd rfl ?_
  with_reducible refine Frame.after (setCtx_frame _ _ _) (by decide) ?_
  exact Frame.refl _ _

theorem abortLoad_frame (s : State) (n y) : Frame [.host, .admin, .rings, .ctxs, .slory, .power, .free] s (abortLoad s n y) := by
  unfold abortLoad
  split
  · exact Frame.refl _ _
  · split
    · exact Frame.refl _ _
    · dsimp only
      with_reducible refine Frame.after (endCmd_frame _ _ _ _) (by decide) ?_
      split
      · with_reducible refine Frame.foldl _ _ (fun _ _ => ?_) ?_
        · with_reducible refine Frame.after (loseTensor_frame _ _ _ _) (by decide) ?_
          exact Frame.refl _ _
        · with_reducible refine Frame.after (dropLoad_frame _ _ _ _) (by decide) ?_
          exact Frame.refl _ _
      · with_reducible refine Frame.after (dropLoad_frame _ _ _ _) (by decide) ?_
        exact Frame.refl _ _

theorem readNext_frame (s : State) (n addr) : Frame [.host] s (readNext s n addr) := by
  unfold readNext
  split
  · exact Frame.refl _ _
  · split
    · exact Frame.refl _ _
    · split
      · with_reducible refine Frame.after (issueRead_frame _ _ _ _ _) (by decide) ?_
        exact Frame.refl _ _
      · split
        · split
          · with_reducible refine Frame.after (issueRead_frame _ _ _ _ _) (by decide) ?_
            exact Frame.refl _ _
          · exact Frame.refl _ _
        · exact Frame.refl _ _

theorem sendSegment_frame (s : State) (n seg b children) : Frame [.ports, .slory] s (sendSegment s n seg b children) := by
  unfold sendSegment
  split
  · exact Frame.refl _ _
  · with_reducible refine Frame.foldl _ _ (fun _ _ => ?_) ?_
    · with_reducible refine Frame.after (startFlow_frame _ _ _ _ _ _ _ _ _ _ _ _ _) (by decide) ?_
      exact Frame.refl _ _
    · exact Frame.refl _ _

theorem keepBlock_frame (s : State) (n k b) : Frame [.ctxs, .ports, .slory] s (keepBlock s n k b) := by
  unfold keepBlock
  split
  · exact Frame.refl _ _
  · split
    · exact Frame.refl _ _
    · dsimp only
      with_reducible refine Frame.after (sendSegment_frame _ _ _ _ _) (by decide) ?_
      with_reducible refine Frame.after (setCtx_frame _ _ _) (by decide) ?_
      exact Frame.refl _ _

theorem hostLoadBlock_frame (s : State) (n k b) : Frame [.host, .admin, .rings, .ctxs, .ports, .slory, .power, .free] s (hostLoadBlock s n k b) := by
  unfold hostLoadBlock
  split
  · exact Frame.refl _ _
  · split
    · with_reducible refine Frame.after (readNext_frame _ _ _) (by decide) ?_
      with_reducible refine Frame.after (keepBlock_frame _ _ _ _) (by decide) ?_
      exact Frame.refl _ _
    · with_reducible refine Frame.after (abortLoad_frame _ _ _) (by decide) ?_
      exact Frame.refl _ _

theorem installRead_frame (s : State) (slot k addr head) : Frame [.host] s (installRead s slot k addr head) := by
  unfold installRead
  with_reducible refine Frame.after (issueRead_frame _ _ _ _ _) (by decide) ?_
  exact Frame.refl _ _

theorem refill_frame (s : State) (n sel) : Frame [.pm] s (refill s n sel) := by
  unfold refill
  split
  · exact Frame.refl _ _
  · with_reducible refine Frame.foldl _ _ (fun _ _ => ?_) ?_
    · with_reducible refine Frame.foldl _ _ (fun _ _ => ?_) ?_
      · with_reducible refine Frame.after (fillResident_frame _ _ _ _ _) (by decide) ?_
        exact Frame.refl _ _
      · exact Frame.refl _ _
    · exact Frame.refl _ _

theorem switchDone_frame (s : State) (n) : Frame [.err, .msix, .host, .admin, .rings, .ctxs, .slory, .power, .free, .out] s (switchDone s n) := by
  unfold switchDone
  with_reducible refine Frame.after (breakStream_frame _ _ _) (by decide) ?_
  with_reducible refine Frame.after (updCtx_frame _ _ _) (by decide) ?_
  exact Frame.refl _ _

theorem stopService_frame (s : State) (n drain) :
    Frame [.host, .admin, .rings, .ctxs, .steps, .pm, .mem, .sm, .slory, .power, .free] s (stopService s n drain) := by
  unfold stopService
  split
  · exact Frame.refl _ _
  · split
    · exact Frame.refl _ _
    · dsimp only
      with_reducible refine Frame.after (stoppingEnd_frame _ _) (by decide) ?_
      split
      · with_reducible refine Frame.after (setCtx_frame _ _ _) (by decide) ?_
        exact Frame.refl _ _
      · with_reducible refine Frame.foldl _ _ (fun _ _ => ?_) ?_
        · with_reducible refine Frame.after (endStep_frame _ _ _) (by decide) ?_
          exact Frame.refl _ _
        · with_reducible refine Frame.after (setCtx_frame _ _ _) (by decide) ?_
          exact Frame.refl _ _

theorem storeLoad_frame (s : State) (r c head) : Frame [.err, .msix, .host, .admin, .rings, .ctxs, .store, .power, .free, .out] s (storeLoad s r c head) := by
  unfold storeLoad
  dsimp only
  split
  · with_reducible refine Frame.after (refusePlain_frame _ _ _ _) (by decide) ?_
    exact Frame.refl _ _
  · split
    · split
      · with_reducible refine Frame.after (endCmd_frame _ _ _ _) (by decide) ?_
        with_reducible refine Frame.after (setSlot_frame _ _ _) (by decide) ?_
        exact Frame.refl _ _
      · split
        · with_reducible refine Frame.after (endCmd_frame _ _ _ _) (by decide) ?_
          with_reducible refine Frame.after (setSlot_frame _ _ _) (by decide) ?_
          exact Frame.refl _ _
        · split
          · with_reducible refine Frame.after (endCmd_frame _ _ _ _) (by decide) ?_
            with_reducible refine Frame.after (setSlot_frame _ _ _) (by decide) ?_
            exact Frame.refl _ _
          · split
            · with_reducible refine Frame.after (storeWrite_frame _ _) (by decide) ?_
              with_reducible refine Frame.after (setSlot_frame _ _ _) (by decide) ?_
              with_reducible refine Frame.after (acceptCmd_frame _ _ _) (by decide) ?_
              with_reducible refine Frame.after (setSlot_frame _ _ _) (by decide) ?_
              exact Frame.refl _ _
            · with_reducible refine Frame.after (installRead_frame _ _ _ _ _) (by decide) ?_
              with_reducible refine Frame.after (setSlot_frame _ _ _) (by decide) ?_
              with_reducible refine Frame.after (acceptCmd_frame _ _ _) (by decide) ?_
              with_reducible refine Frame.after (setSlot_frame _ _ _) (by decide) ?_
              exact Frame.refl _ _
    · with_reducible refine Frame.after (endCmd_frame _ _ _ _) (by decide) ?_
      with_reducible refine Frame.after (logErr_frame _ _ _ _) (by decide) ?_
      exact Frame.refl _ _

theorem writeMaster_frame (s : State) (n t slot j ws) : Frame [.host] s (writeMaster s n t slot j ws) := by
  unfold writeMaster
  with_reducible refine Frame.after (writeHostVa_frame _ _ _ _ _) (by decide) ?_
  exact Frame.refl _ _

theorem writeSlow_frame (s : State) (n t ws) : Frame [.host] s (writeSlow s n t ws) := by
  unfold writeSlow
  split
  · exact Frame.refl _ _
  · dsimp only
    with_reducible refine Frame.after (writeMirror_frame _ _ _ _ _) (by decide) ?_
    with_reducible refine Frame.foldl _ _ (fun _ _ => ?_) ?_
    · with_reducible refine Frame.after (writeMaster_frame _ _ _ _ _ _) (by decide) ?_
      exact Frame.refl _ _
    · exact Frame.refl _ _

theorem takeWords_frame (s : State) (n t ms ps) : Frame [.host, .ctxs] s (takeWords s n t ms ps) := by
  unfold takeWords
  dsimp only
  with_reducible refine Frame.after (updCtx_frame _ _ _) (by decide) ?_
  split
  · with_reducible refine Frame.after (writeSlow_frame _ _ _ _) (by decide) ?_
    exact Frame.refl _ _
  · exact Frame.refl _ _

theorem cleanTensor_frame (s : State) (c t k planes) : Frame [.sm] s (cleanTensor s c t k planes) := by
  unfold cleanTensor
  dsimp only
  split
  · with_reducible refine Frame.foldl _ _ (fun _ _ => ?_) ?_
    · with_reducible refine Frame.after (cleanArea_frame _ _ _ _ _) (by decide) ?_
      with_reducible refine Frame.after (cleanArea_frame _ _ _ _ _) (by decide) ?_
      exact Frame.refl _ _
    · with_reducible refine Frame.after (cleanArea_frame _ _ _ _ _) (by decide) ?_
      exact Frame.refl _ _
  · with_reducible refine Frame.after (cleanArea_frame _ _ _ _ _) (by decide) ?_
    exact Frame.refl _ _

theorem switchTensor_frame (s : State) (n k) : Frame [.host, .ctxs, .sm] s (switchTensor s n k) := by
  unfold switchTensor
  split
  · exact Frame.refl _ _
  · split
    · exact Frame.refl _ _
    · dsimp only
      split
      · with_reducible refine Frame.after (cleanTensor_frame _ _ _ _ _) (by decide) ?_
        with_reducible refine Frame.after (setCtx_frame _ _ _) (by decide) ?_
        exact Frame.refl _ _
      · with_reducible refine Frame.after (takeWords_frame _ _ _ _ _) (by decide) ?_
        with_reducible refine Frame.after (cleanTensor_frame _ _ _ _ _) (by decide) ?_
        with_reducible refine Frame.after (setCtx_frame _ _ _) (by decide) ?_
        exact Frame.refl _ _

theorem logGranule_frame (s : State) (event b g) : Frame [.err, .msix, .sm, .out] s (logGranule s event b g) := by
  unfold logGranule
  with_reducible refine Frame.after (logMem_frame _ _ _ _ _ _) (by decide) ?_
  exact Frame.refl _ _

theorem loseStack_frame (s : State) (b event rec) :
    Frame [.boot, .err, .msix, .host, .admin, .rings, .ctxs, .steps, .pm, .mem, .sm, .ports, .slory, .store, .power, .free, .out] s (loseStack s b event rec) := by
  unfold loseStack
  dsimp only
  with_reducible refine Frame.after (logFatal_frame _ _ _ _) (by decide) ?_
  with_reducible refine Frame.upd rfl ?_
  with_reducible refine Frame.after (setStack_frame _ _ _) (by decide) ?_
  exact Frame.refl _ _

theorem deltaAcked_frame (s : State) (n step) : Frame [.host, .admin, .rings, .ctxs, .slory, .power, .free] s (deltaAcked s n step) := by
  unfold deltaAcked
  split
  · exact Frame.refl _ _
  · split
    · exact Frame.refl _ _
    · split
      · exact Frame.refl _ _
      · dsimp only
        split
        · with_reducible refine Frame.after (endSender_frame _ _ _) (by decide) ?_
          split
          · with_reducible refine Frame.after (setCtx_frame _ _ _) (by decide) ?_
            exact Frame.refl _ _
          · split
            · with_reducible refine Frame.after (endCmd_frame _ _ _ _) (by decide) ?_
              with_reducible refine Frame.after (setCtx_frame _ _ _) (by decide) ?_
              exact Frame.refl _ _
            · with_reducible refine Frame.after (setCtx_frame _ _ _) (by decide) ?_
              exact Frame.refl _ _
        · split
          · with_reducible refine Frame.after (setCtx_frame _ _ _) (by decide) ?_
            exact Frame.refl _ _
          · split
            · with_reducible refine Frame.after (endCmd_frame _ _ _ _) (by decide) ?_
              with_reducible refine Frame.after (setCtx_frame _ _ _) (by decide) ?_
              exact Frame.refl _ _
            · with_reducible refine Frame.after (setCtx_frame _ _ _) (by decide) ?_
              exact Frame.refl _ _

theorem restoreTensor_frame (s : State) (f n t) : Frame [.host, .ctxs] s (restoreTensor f n s t) := by
  unfold restoreTensor
  split
  · exact Frame.refl _ _
  · with_reducible refine Frame.foldl _ _ (fun _ _ => ?_) ?_
    · dsimp only
      with_reducible refine Frame.after (updCtx_frame _ _ _) (by decide) ?_
      split
      · with_reducible refine Frame.after (writeMaster_frame _ _ _ _ _ _) (by decide) ?_
        exact Frame.refl _ _
      · exact Frame.refl _ _
    · exact Frame.refl _ _

theorem restoreState_frame (s : State) (n f seq) : Frame [.host, .ctxs, .sm] s (Sys2Proof.Machine.restoreState s n f seq) := by
  unfold Sys2Proof.Machine.restoreState
  split
  · exact Frame.refl _ _
  · dsimp only
    split
    · with_reducible refine Frame.after (updCtx_frame _ _ _) (by decide) ?_
      with_reducible refine Frame.foldl _ _ (fun _ _ => ?_) ?_
      · with_reducible refine Frame.after (restoreTensor_frame _ _ _ _) (by decide) ?_
        exact Frame.refl _ _
      · exact Frame.refl _ _
    · with_reducible refine Frame.foldl _ _ (fun _ _ => ?_) ?_
      · with_reducible refine Frame.after (writeMirror_frame _ _ _ _ _) (by decide) ?_
        exact Frame.refl _ _
      · with_reducible refine Frame.foldl _ _ (fun _ _ => ?_) ?_
        · with_reducible refine Frame.after (cleanTensor_frame _ _ _ _ _) (by decide) ?_
          exact Frame.refl _ _
        · with_reducible refine Frame.after (updCtx_frame _ _ _) (by decide) ?_
          with_reducible refine Frame.foldl _ _ (fun _ _ => ?_) ?_
          · with_reducible refine Frame.after (restoreTensor_frame _ _ _ _) (by decide) ?_
            exact Frame.refl _ _
          · exact Frame.refl _ _

theorem rejectLoad_frame (s : State) (n y) : Frame [.host, .admin, .rings, .ctxs, .slory, .power, .free] s (rejectLoad s n y) := by
  unfold rejectLoad
  split
  · exact Frame.refl _ _
  · split
    · exact Frame.refl _ _
    · with_reducible refine Frame.after (endCmd_frame _ _ _ _) (by decide) ?_
      with_reducible refine Frame.after (dropLoad_frame _ _ _ _) (by decide) ?_
      exact Frame.refl _ _

theorem readHostMore_frame (s : State) (img x i) : Frame [.host] s (readHostMore s img x i) := by
  unfold readHostMore
  split
  · dsimp only
    split
    · with_reducible refine Frame.foldl _ _ (fun _ _ => ?_) ?_
      · with_reducible refine Frame.after (issueRead_frame _ _ _ _ _) (by decide) ?_
        exact Frame.refl _ _
      · exact Frame.refl _ _
    · exact Frame.refl _ _
  · exact Frame.refl _ _

end Sys2Proof.Laws
end

