-- ==== Sys2Proof/Laws/FramesLinks.lean ====
section
/-! SUPPORT. What the operations of the ports, Slory, the collectives and the host link may change. Each lemma names the parts of State that an operation may change. -/

namespace Sys2Proof.Laws

set_option Elab.async false

open Sys2Proof.Machine

theorem endInstall_frame (s : State) (i y) : Frame [.host, .admin, .rings, .ctxs, .store, .power, .free] s (endInstall s i y) := by
  unfold endInstall
  split
  · with_reducible refine Frame.after (endCmd_frame _ _ _ _) (by decide) ?_
    with_reducible refine Frame.after (setSlot_frame _ _ _) (by decide) ?_
    exact Frame.refl _ _
  · with_reducible refine Frame.after (setSlot_frame _ _ _) (by decide) ?_
    exact Frame.refl _ _

theorem applyPortRec_frame (s : State) (q r) : Frame [.msix, .ports, .slory, .out] s (applyPortRec s q r) := by
  unfold applyPortRec
  dsimp only
  with_reducible refine Frame.after (setPort_frame _ _ _) (by decide) ?_
  with_reducible refine Frame.upd rfl ?_
  with_reducible refine Frame.after (dropLink_frame _ _) (by decide) ?_
  exact Frame.refl _ _

theorem pausePrio_frame (s : State) (q prio quanta) : Frame [.ports] s (pausePrio s q prio quanta) := by
  unfold pausePrio
  dsimp only
  with_reducible refine Frame.after (setPort_frame _ _ _) (by decide) ?_
  with_reducible refine Frame.after (settlePause_frame _ _ _) (by decide) ?_
  exact Frame.refl _ _

theorem sendPfc_frame (s : State) (q prio quanta) : Frame [.ports] s (sendPfc s q prio quanta) := by
  unfold sendPfc
  with_reducible refine Frame.after (enqueueFrame_frame _ _ _ _) (by decide) ?_
  exact Frame.refl _ _

theorem pfcCheck_frame (s : State) (q prio) : Frame [.ports] s (pfcCheck s q prio) := by
  unfold pfcCheck
  dsimp only
  split
  · exact Frame.refl _ _
  · split
    · with_reducible refine Frame.after (sendPfc_frame _ _ _ _) (by decide) ?_
      with_reducible refine Frame.after (setPort_frame _ _ _) (by decide) ?_
      exact Frame.refl _ _
    · split
      · with_reducible refine Frame.after (sendPfc_frame _ _ _ _) (by decide) ?_
        with_reducible refine Frame.after (setPort_frame _ _ _) (by decide) ?_
        exact Frame.refl _ _
      · exact Frame.refl _ _

theorem refillBuffers_frame (s : State) (q) : Frame [.ports] s (refillBuffers s q) := by
  unfold refillBuffers
  dsimp only
  with_reducible refine Frame.after (setPort_frame _ _ _) (by decide) ?_
  exact Frame.refl _ _

theorem sentFrame_frame (s : State) (q express f) : Frame [.ports, .out] s (sentFrame s q express f) := by
  unfold sentFrame
  dsimp only
  with_reducible refine Frame.after (emit_frame _ _) (by decide) ?_
  split
  · with_reducible refine Frame.after (bumpPort_frame _ _ _ _) (by decide) ?_
    with_reducible refine Frame.after (bumpPort_frame _ _ _ _) (by decide) ?_
    with_reducible refine Frame.after (bumpPort_frame _ _ _ _) (by decide) ?_
    with_reducible refine Frame.after (bumpPort_frame _ _ _ _) (by decide) ?_
    exact Frame.refl _ _
  · split
    · with_reducible refine Frame.after (bumpPort_frame _ _ _ _) (by decide) ?_
      with_reducible refine Frame.after (bumpPort_frame _ _ _ _) (by decide) ?_
      with_reducible refine Frame.after (bumpPort_frame _ _ _ _) (by decide) ?_
      with_reducible refine Frame.after (bumpPort_frame _ _ _ _) (by decide) ?_
      exact Frame.refl _ _
    · with_reducible refine Frame.after (bumpPort_frame _ _ _ _) (by decide) ?_
      with_reducible refine Frame.after (bumpPort_frame _ _ _ _) (by decide) ?_
      with_reducible refine Frame.after (bumpPort_frame _ _ _ _) (by decide) ?_
      exact Frame.refl _ _

theorem obeyPfc_frame (s : State) (q f) : Frame [.ports] s (obeyPfc s q f) := by
  unfold obeyPfc
  dsimp only
  with_reducible refine Frame.foldl _ _ (fun _ _ => ?_) ?_
  · split
    · with_reducible refine Frame.after (pausePrio_frame _ _ _ _) (by decide) ?_
      exact Frame.refl _ _
    · exact Frame.refl _ _
  · exact Frame.refl _ _

theorem countFec_frame (s : State) (q codewords symbols) : Frame [.ports] s (countFec s q codewords symbols) := by
  unfold countFec
  dsimp only
  with_reducible refine Frame.foldl _ _ (fun _ _ => ?_) ?_
  · with_reducible refine Frame.after (bumpPort_frame _ _ _ _) (by decide) ?_
    exact Frame.refl _ _
  · with_reducible refine Frame.after (bumpPort_frame _ _ _ _) (by decide) ?_
    exact Frame.refl _ _

theorem countIntact_frame (s : State) (q express c) : Frame [.ports] s (countIntact s q express c) := by
  unfold countIntact
  split
  · exact Frame.refl _ _
  · with_reducible refine Frame.after (bumpPort_frame _ _ _ _) (by decide) ?_
    exact Frame.refl _ _

theorem resend_frame (s : State) (f seq) : Frame [.ports, .slory] s (resend s f seq) := by
  unfold resend
  split
  · with_reducible refine Frame.after (bumpSlory_frame _ _ _) (by decide) ?_
    with_reducible refine Frame.after (sendSlory_frame _ _ _ _ _ _ _ _) (by decide) ?_
    exact Frame.refl _ _
  · exact Frame.refl _ _

theorem sendAnswer_frame (s : State) (k op seq sub b) : Frame [.ports, .slory] s (sendAnswer s k op seq sub b) := by
  unfold sendAnswer
  split
  · exact Frame.refl _ _
  · dsimp only
    with_reducible refine Frame.after (sendSlory_frame _ _ _ _ _ _ _ _) (by decide) ?_
    exact Frame.refl _ _

theorem sendAck_frame (s : State) (f) : Frame [.ports, .slory] s (sendAck s f) := by
  unfold sendAck
  dsimp only
  with_reducible refine Frame.after (sendAnswer_frame _ _ _ _ _ _) (by decide) ?_
  exact Frame.refl _ _

theorem sendNak_frame (s : State) (k seq sub) : Frame [.ports, .slory] s (sendNak s k seq sub) := by
  unfold sendNak
  with_reducible refine Frame.after (bumpSlory_frame _ _ _) (by decide) ?_
  with_reducible refine Frame.after (sendAnswer_frame _ _ _ _ _ _) (by decide) ?_
  exact Frame.refl _ _

theorem setRx_frame (s : State) (f) : Frame [.slory] s (setRx s f) := by
  unfold setRx
  with_reducible refine Frame.upd rfl ?_
  exact Frame.refl _ _

theorem setTx_frame (s : State) (f) : Frame [.slory] s (setTx s f) := by
  unfold setTx
  with_reducible refine Frame.upd rfl ?_
  exact Frame.refl _ _

theorem takeFrame_frame (s : State) (h stepId quiet) : Frame [.ports, .slory] s (takeFrame s h stepId quiet).1 := by
  unfold takeFrame
  dsimp only
  with_reducible refine Frame.after (setRx_frame _ _) (by decide) ?_
  with_reducible refine Frame.iteSelf (Frame.iteSelf (Frame.iteSelf ?_ ?_) ?_) ?_
  · split
    · exact (bumpSlory_frame _ _ _).mono (by decide)
    · with_reducible refine Frame.upd rfl ?_
      exact (bumpSlory_frame _ _ _).mono (by decide)
  · exact (bumpSlory_frame _ _ _).mono (by decide)
  · exact (sendNak_frame _ _ _ _).mono (by decide)
  · exact (sendAck_frame _ _).mono (by decide)

theorem ownContribution_frame (s : State) (x k b) : Frame [.slory] s (ownContribution s x k b) := by
  unfold ownContribution
  split
  · dsimp only
    with_reducible refine Frame.upd rfl ?_
    exact Frame.refl _ _
  · exact Frame.refl _ _

theorem stepFlow_frame (s : State) (x op q dst flow srcIndex b) : Frame [.ports, .slory] s (stepFlow s x op q dst flow srcIndex b) := by
  unfold stepFlow
  with_reducible refine Frame.after (startFlow_frame _ _ _ _ _ _ _ _ _ _ _ _ _) (by decide) ?_
  exact Frame.refl _ _

theorem sendEntry_frame (s : State) (fop op st q stall) :
    Frame [.host, .admin, .rings, .ctxs, .steps, .pm, .mem, .sm, .ports, .slory, .power, .free] s (sendEntry fop op st q stall s) := by
  unfold sendEntry
  split
  · exact Frame.refl _ _
  · split
    · with_reducible refine Frame.after (waitFor_frame _ _ _ _ _ _ _) (by decide) ?_
      exact Frame.refl _ _
    · with_reducible refine issueOr_frame ?_ ?_ (by decide)
      · exact Frame.refl _ _
      · with_reducible refine Frame.after (stepFlow_frame _ _ _ _ _ _ _ _) (by decide) ?_
        with_reducible refine Frame.after (setStep_frame _ _) (by decide) ?_
        exact Frame.refl _ _

theorem popRx_frame (s : State) (f) : Frame [.ports, .slory] s (popRx s f) := by
  unfold popRx
  dsimp only
  split
  · with_reducible refine Frame.after (pfcCheck_frame _ _ _) (by decide) ?_
    with_reducible refine Frame.after (setPort_frame _ _ _) (by decide) ?_
    with_reducible refine Frame.upd rfl ?_
    exact Frame.refl _ _
  · with_reducible refine Frame.upd rfl ?_
    exact Frame.refl _ _

theorem takeSegment_frame (s : State) (n seg b) : Frame [.host, .admin, .rings, .ctxs, .ports, .slory, .power, .free] s (takeSegment n s seg b) := by
  unfold takeSegment
  split
  · exact Frame.refl _ _
  · dsimp only
    split
    · with_reducible refine Frame.after (sendSegment_frame _ _ _ _ _) (by decide) ?_
      with_reducible refine Frame.after (keepBlock_frame _ _ _ _) (by decide) ?_
      exact Frame.refl _ _
    · with_reducible refine Frame.after (abortLoad_frame _ _ _) (by decide) ?_
      exact Frame.refl _ _

theorem takeHead_frame (s : State) (n c j h) : Frame [.host, .admin, .rings, .ctxs, .ports, .slory, .power, .free] s (takeHead s n c j h) := by
  unfold takeHead
  split
  · with_reducible refine Frame.after (abortLoad_frame _ _ _) (by decide) ?_
    exact Frame.refl _ _
  · split
    · with_reducible refine Frame.after (abortLoad_frame _ _ _) (by decide) ?_
      exact Frame.refl _ _
    · split
      · with_reducible refine Frame.after (rejectLoad_frame _ _ _) (by decide) ?_
        exact Frame.refl _ _
      · split
        · with_reducible refine Frame.after (abortLoad_frame _ _ _) (by decide) ?_
          exact Frame.refl _ _
        · dsimp only
          split
          · with_reducible refine Frame.after (rejectLoad_frame _ _ _) (by decide) ?_
            exact Frame.refl _ _
          · with_reducible refine Frame.foldl _ _ (fun _ _ => ?_) ?_
            · with_reducible refine Frame.after (takeSegment_frame _ _ _ _) (by decide) ?_
              exact Frame.refl _ _
            · with_reducible refine Frame.foldl _ _ (fun _ _ => ?_) ?_
              · with_reducible refine Frame.after (sendSegment_frame _ _ _ _ _) (by decide) ?_
                exact Frame.refl _ _
              · with_reducible refine Frame.after (setCtx_frame _ _ _) (by decide) ?_
                exact Frame.refl _ _

theorem segmentArrived_frame (s : State) (n flow b) : Frame [.host, .admin, .rings, .ctxs, .ports, .slory, .power, .free] s (segmentArrived s n flow b) := by
  unfold segmentArrived
  split
  · exact Frame.refl _ _
  · split
    · exact Frame.refl _ _
    · dsimp only
      split
      · with_reducible refine Frame.after (takeSegment_frame _ _ _ _) (by decide) ?_
        exact Frame.refl _ _
      · split
        · with_reducible refine Frame.after (setCtx_frame _ _ _) (by decide) ?_
          exact Frame.refl _ _
        · with_reducible refine Frame.after (takeHead_frame _ _ _ _ _) (by decide) ?_
          exact Frame.refl _ _

theorem sendTotal_frame (s : State) (x img flow m) : Frame [.ports, .slory] s (sendTotal s x img flow m) := by
  unfold sendTotal
  dsimp only
  with_reducible refine Frame.foldl _ _ (fun _ _ => ?_) ?_
  · with_reducible refine Frame.after (stepFlow_frame _ _ _ _ _ _ _ _) (by decide) ?_
    exact Frame.refl _ _
  · exact Frame.refl _ _

theorem strayAnswer_frame (s : State) (n c h) : Frame [.slory] s (strayAnswer s n c h) := by
  unfold strayAnswer
  split
  · with_reducible refine Frame.after (bumpSlory_frame _ _ _) (by decide) ?_
    exact Frame.refl _ _
  · with_reducible refine Frame.after (bumpSlory_frame _ _ _) (by decide) ?_
    exact Frame.refl _ _

theorem takeDelta_frame (s : State) (n f) : Frame [.ctxs, .slory] s (takeDelta s n f) := by
  unfold takeDelta
  split
  · exact Frame.refl _ _
  · split
    · exact Frame.refl _ _
    · split
      · exact Frame.refl _ _
      · with_reducible refine Frame.after (setRx_frame _ _) (by decide) ?_
        with_reducible refine Frame.after (setCtx_frame _ _ _) (by decide) ?_
        exact Frame.refl _ _

theorem takeSum_frame (s : State) (x img h v) : Frame [.ports, .slory] s (takeSum s x img h v) := by
  unfold takeSum
  split
  · exact Frame.refl _ _
  · split
    · exact Frame.refl _ _
    · dsimp only
      split
      · with_reducible refine Frame.after (sendTotal_frame _ _ _ _ _) (by decide) ?_
        with_reducible refine Frame.upd rfl ?_
        exact Frame.refl _ _
      · with_reducible refine Frame.upd rfl ?_
        exact Frame.refl _ _

theorem takeTotal_frame (s : State) (x v) : Frame [.steps] s (takeTotal s x v) := by
  unfold takeTotal
  split
  · split
    · with_reducible refine Frame.after (setStep_frame _ _) (by decide) ?_
      exact Frame.refl _ _
    · exact Frame.refl _ _
  · exact Frame.refl _ _

theorem setLeader_frame (s : State) (l) : Frame [.slory] s (setLeader s l) := by
  unfold setLeader
  with_reducible refine Frame.upd rfl ?_
  exact Frame.refl _ _

theorem decideStep_frame (s : State) (l img sub status origin) : Frame [.ports, .slory, .free] s (decideStep s l img sub status origin) := by
  unfold decideStep
  split
  · exact Frame.refl _ _
  · dsimp only
    with_reducible refine Frame.foldl _ _ (fun _ _ => ?_) ?_
    · with_reducible refine Frame.after (sendToken_frame _ _ _ _ _ _ _ _ _ _) (by decide) ?_
      exact Frame.refl _ _
    · with_reducible refine Frame.after (setLeader_frame _ _) (by decide) ?_
      exact Frame.refl _ _

theorem decideAgain_frame (s : State) (l img origin) : Frame [.ports, .slory, .free] s (decideAgain s l img origin) := by
  unfold decideAgain
  split
  · exact Frame.refl _ _
  · split
    · with_reducible refine Frame.after (decideStep_frame _ _ _ _ _ _) (by decide) ?_
      exact Frame.refl _ _
    · with_reducible refine Frame.after (decideStep_frame _ _ _ _ _ _) (by decide) ?_
      exact Frame.refl _ _

theorem dropLeader_frame (s : State) (x) : Frame [.slory] s (dropLeader s x) := by
  unfold dropLeader
  with_reducible refine Frame.upd rfl ?_
  exact Frame.refl _ _

theorem blockLost_frame (s : State) (n slot blk) :
    Frame [.err, .msix, .host, .admin, .rings, .ctxs, .slory, .store, .power, .free, .out] s (blockLost s n slot blk) := by
  unfold blockLost
  dsimp only
  with_reducible refine Frame.after (abortLoad_frame _ _ _) (by decide) ?_
  with_reducible refine Frame.after (logErr_frame _ _ _ _) (by decide) ?_
  with_reducible refine Frame.after (setSlot_frame _ _ _) (by decide) ?_
  exact Frame.refl _ _

theorem destroyWork_frame (s : State) (seq) : Frame [.host, .admin, .rings, .ctxs, .sched, .mem, .sm, .power, .free] s (destroyWork s seq) := by
  unfold destroyWork
  split
  · exact Frame.refl _ _
  · split
    · exact Frame.refl _ _
    · split
      · with_reducible refine Frame.after (finishDestroy_frame _ _) (by decide) ?_
        exact Frame.refl _ _
      · with_reducible refine Frame.after (finishDestroy_frame _ _) (by decide) ?_
        with_reducible refine Frame.after (setCtx_frame _ _ _) (by decide) ?_
        with_reducible refine Frame.after (scrubFrame_frame _ _) (by decide) ?_
        exact Frame.refl _ _

theorem finishInstall_frame (s : State) (i cmd) : Frame [.host, .admin, .rings, .ctxs, .store, .power, .free, .out] s (finishInstall s i cmd) := by
  unfold finishInstall
  dsimp only
  split
  · with_reducible refine Frame.after (endCmd_frame _ _ _ _) (by decide) ?_
    with_reducible refine Frame.after (setSlot_frame _ _ _) (by decide) ?_
    exact Frame.refl _ _
  · with_reducible refine Frame.after (emit_frame _ _) (by decide) ?_
    with_reducible refine Frame.after (setSlot_frame _ _ _) (by decide) ?_
    exact Frame.refl _ _

theorem storeWritten_frame (s : State) (w) : Frame [.err, .msix, .host, .admin, .rings, .ctxs, .sm, .store, .power, .free, .out] s (storeWritten s w) := by
  unfold storeWritten
  split
  · dsimp only
    with_reducible refine Frame.after (storeWrite_frame _ _) (by decide) ?_
    with_reducible refine Frame.after (setSlot_frame _ _ _) (by decide) ?_
    exact Frame.refl _ _
  · with_reducible refine Frame.after (storeWrite_frame _ _) (by decide) ?_
    exact Frame.refl _ _
  · with_reducible refine Frame.after (finishInstall_frame _ _ _) (by decide) ?_
    exact Frame.refl _ _
  · dsimp only
    with_reducible refine Frame.after (setSlot_frame _ _ _) (by decide) ?_
    exact Frame.refl _ _
  · dsimp only
    split
    · with_reducible refine Frame.after (setSlot_frame _ _ _) (by decide) ?_
      exact Frame.refl _ _
    · exact Frame.refl _ _
  · dsimp only
    split
    · with_reducible refine Frame.after (endCmd_frame _ _ _ _) (by decide) ?_
      with_reducible refine Frame.after (logGranule_frame _ _ _ _) (by decide) ?_
      exact Frame.refl _ _
    · with_reducible refine Frame.after (logGranule_frame _ _ _ _) (by decide) ?_
      exact Frame.refl _ _
  · exact Frame.refl _ _

theorem dropRead_frame (s : State) (id) : Frame [.host] s (dropRead s id) := by
  unfold dropRead
  with_reducible refine Frame.upd rfl ?_
  exact Frame.refl _ _

theorem dropWrite_frame (s : State) (id) : Frame [.host] s (dropWrite s id) := by
  unfold dropWrite
  with_reducible refine Frame.upd rfl ?_
  exact Frame.refl _ _

theorem installReturned_frame (s : State) (i k b) : Frame [.host, .admin, .rings, .ctxs, .store, .power, .free] s (installReturned s i k b) := by
  unfold installReturned
  dsimp only
  split
  · exact Frame.refl _ _
  · split
    · split
      · with_reducible refine Frame.after (installRead_frame _ _ _ _ _) (by decide) ?_
        with_reducible refine Frame.after (setSlot_frame _ _ _) (by decide) ?_
        exact Frame.refl _ _
      · with_reducible refine Frame.after (storeWrite_frame _ _) (by decide) ?_
        with_reducible refine Frame.after (setSlot_frame _ _ _) (by decide) ?_
        exact Frame.refl _ _
    · with_reducible refine Frame.after (endInstall_frame _ _ _) (by decide) ?_
      exact Frame.refl _ _

theorem masterReturned_frame (s : State) (st t j b) : Frame [.steps] s (masterReturned s st t j b) := by
  unfold masterReturned
  split
  · exact Frame.refl _ _
  · with_reducible refine Frame.after (setStep_frame _ _) (by decide) ?_
    exact Frame.refl _ _

theorem spoilHeld_frame (s : State) (w) : Frame [.admin, .rings] s (spoilHeld s w) := by
  unfold spoilHeld
  split
  · dsimp only
    split
    · exact Frame.refl _ _
    · with_reducible refine Frame.after (updCmd_frame _ _ _ _) (by decide) ?_
      exact Frame.refl _ _
  · exact Frame.refl _ _

theorem writeSettled_frame (s : State) (w) : Frame [.host, .admin, .rings, .ctxs, .sched, .sm, .power, .free] s (writeSettled s w) := by
  unfold writeSettled
  split
  · with_reducible refine Frame.after (finishDestroy_frame _ _) (by decide) ?_
    with_reducible refine Frame.after (releaseHeld_frame _ _) (by decide) ?_
    exact Frame.refl _ _
  · with_reducible refine Frame.after (releaseHeld_frame _ _) (by decide) ?_
    exact Frame.refl _ _

theorem moreReads_frame (s : State) (st i pre) : Frame [.host] s (moreReads s st i pre) := by
  unfold moreReads
  split
  · exact Frame.refl _ _
  · split
    · exact Frame.refl _ _
    · split
      · split
        · with_reducible refine Frame.after (prefetchMore_frame _ _ _ _ _) (by decide) ?_
          exact Frame.refl _ _
        · exact Frame.refl _ _
      · with_reducible refine Frame.after (readHostMore_frame _ _ _ _) (by decide) ?_
        exact Frame.refl _ _

theorem takeBlock_frame (s : State) (x i d b) : Frame [.steps] s (takeBlock s x i d b) := by
  unfold takeBlock
  exact Frame.after (setStep_frame _ _) (by decide) (Frame.refl _ _)

theorem drainBlocks_frame (s : State) (st i pre x3) : Frame [.host, .steps] s (drainBlocks st i pre x3 s) := by
  induction x3 generalizing s with
  | zero => exact Frame.refl _ _
  | succ n ih =>
    unfold drainBlocks
    split
    · exact Frame.refl _ _
    · split
      · exact Frame.refl _ _
      · dsimp only
        split
        · exact ((dropRead_frame _ _).mono (by decide)).trans (((takeBlock_frame _ _ _ _ _).mono (by decide)).trans (ih _))
        · exact Frame.refl _ _

theorem blockReturned_frame (s : State) (rd st i pre b) : Frame [.host, .steps] s (blockReturned s rd st i pre b) := by
  unfold blockReturned
  dsimp only
  with_reducible refine Frame.after (moreReads_frame _ _ _ _) (by decide) ?_
  with_reducible refine Frame.after (drainBlocks_frame _ _ _ _ _) (by decide) ?_
  with_reducible refine Frame.upd rfl ?_
  exact Frame.refl _ _

theorem startExpress_frame (s : State) (q p f) : Frame [.ports] s (startExpress s q p f) := by
  unfold startExpress
  with_reducible refine Frame.after (refillBuffers_frame _ _) (by decide) ?_
  with_reducible refine Frame.after (setPort_frame _ _ _) (by decide) ?_
  exact Frame.refl _ _

theorem finishBulk_frame (s : State) (q w) : Frame [.ports, .out] s (finishBulk s q w) := by
  unfold finishBulk
  with_reducible refine Frame.after (sentFrame_frame _ _ _ _) (by decide) ?_
  with_reducible refine Frame.after (setPort_frame _ _ _) (by decide) ?_
  exact Frame.refl _ _

end Sys2Proof.Laws
end

