-- ==== Sys2Proof/Laws/FramesBoard.lean ====
section
/-! SUPPORT. What the operations of power, resets, boot, watchdogs, management and registers may change. Each lemma names the parts of State that an operation may change. -/

namespace Sys2Proof.Laws

set_option Elab.async false

open Sys2Proof.Machine

theorem applyStretch_frame (s : State) : Frame [.power] s (applyStretch s) := by
  unfold applyStretch
  split
  · exact Frame.refl _ _
  · with_reducible refine Frame.upd rfl ?_
    exact Frame.refl _ _

theorem changeBit_frame (s : State) (i v both code detail) : Frame [.err, .msix, .power, .out] s (changeBit s i v both code detail) := by
  unfold changeBit
  split
  · exact Frame.refl _ _
  · dsimp only
    split
    · with_reducible refine Frame.after (logErr_frame _ _ _ _) (by decide) ?_
      with_reducible refine Frame.after (raiseVector_frame _ _) (by decide) ?_
      with_reducible refine Frame.upd rfl ?_
      exact Frame.refl _ _
    · with_reducible refine Frame.after (raiseVector_frame _ _) (by decide) ?_
      with_reducible refine Frame.upd rfl ?_
      exact Frame.refl _ _

theorem raiseEnergy_frame (s : State) (sp e) : Frame [.ctxs] s (raiseEnergy s sp e) := by
  unfold raiseEnergy
  with_reducible refine Frame.foldl _ _ (fun _ _ => ?_) ?_
  · split
    · with_reducible refine Frame.after (updCtx_frame _ _ _) (by decide) ?_
      exact Frame.refl _ _
    · exact Frame.refl _ _
  · exact Frame.refl _ _

theorem correctSpans_frame (s : State) (target pfix es meas) : Frame [.ctxs, .power] s (correctSpans s target pfix es meas) := by
  unfold correctSpans
  dsimp only
  with_reducible refine Frame.foldl _ _ (fun _ _ => ?_) ?_
  · split
    · split
      · with_reducible refine Frame.after (raiseEnergy_frame _ _ _) (by decide) ?_
        with_reducible refine Frame.upd rfl ?_
        exact Frame.refl _ _
      · with_reducible refine Frame.upd rfl ?_
        exact Frame.refl _ _
    · split
      · with_reducible refine Frame.after (raiseEnergy_frame _ _ _) (by decide) ?_
        with_reducible refine Frame.upd rfl ?_
        exact Frame.refl _ _
      · with_reducible refine Frame.upd rfl ?_
        exact Frame.refl _ _
  · exact Frame.refl _ _

theorem cross_frame (s : State) (g i code v reading) : Frame [.err, .msix, .power, .out] s (cross s g i code v reading) := by
  unfold cross
  dsimp only
  split
  · exact Frame.refl _ _
  · with_reducible refine Frame.after (emit_frame _ _) (by decide) ?_
    with_reducible refine Frame.after (changeBit_frame _ _ _ _ _ _) (by decide) ?_
    exact Frame.refl _ _

theorem setMode_frame (s : State) : Frame [.power] s (setMode s) := by
  unfold setMode
  with_reducible refine Frame.upd rfl ?_
  exact Frame.refl _ _

theorem enterRecovery_frame (s : State) : Frame [.err, .msix, .power, .free, .out] s (enterRecovery s) := by
  unfold enterRecovery
  split
  · exact Frame.refl _ _
  · dsimp only
    with_reducible refine Frame.after (logErr_frame _ _ _ _) (by decide) ?_
    with_reducible refine Frame.after (takeFree_frame _) (by decide) ?_
    with_reducible refine Frame.after (raiseVector_frame _ _) (by decide) ?_
    with_reducible refine Frame.after (setMode_frame _) (by decide) ?_
    with_reducible refine Frame.upd rfl ?_
    exact Frame.refl _ _

theorem tripRails_frame (s : State) (code detail) :
    Frame [.boot, .err, .msix, .host, .admin, .rings, .ctxs, .steps, .pm, .mem, .sm, .ports, .slory, .store, .power, .free, .out] s (tripRails s code detail) := by
  unfold tripRails
  dsimp only
  with_reducible refine Frame.upd rfl ?_
  with_reducible refine Frame.after (raiseVector_frame _ _) (by decide) ?_
  with_reducible refine Frame.after (logFatal_frame _ _ _ _) (by decide) ?_
  exact Frame.refl _ _

theorem logDroop_frame (s : State) (d) : Frame [.err, .msix, .power, .out] s (logDroop s d) := by
  unfold logDroop
  dsimp only
  split
  · split
    · exact Frame.refl _ _
    · with_reducible refine Frame.after (logErr_frame _ _ _ _) (by decide) ?_
      with_reducible refine Frame.upd rfl ?_
      exact Frame.refl _ _
  · split
    · exact Frame.refl _ _
    · with_reducible refine Frame.after (logErr_frame _ _ _ _) (by decide) ?_
      with_reducible refine Frame.upd rfl ?_
      exact Frame.refl _ _

theorem walkS_frame (s : State) (predicted walk) : Frame [.power] s (walkS s predicted walk) := by
  unfold walkS
  split <;> exact Frame.upd rfl (Frame.refl _ _)

theorem cutDirectory_frame (s : State) (i) : Frame [.store, .free] s (cutDirectory s i) := by
  unfold cutDirectory
  dsimp only
  with_reducible refine Frame.after (setSlot_frame _ _ _) (by decide) ?_
  with_reducible refine Frame.after (takeFree_frame _) (by decide) ?_
  exact Frame.refl _ _

theorem cutReading_frame (s : State) : Frame [.store] s (cutReading s) := by
  unfold cutReading
  with_reducible refine Frame.upd rfl ?_
  exact Frame.refl _ _

theorem cutWrite_frame (s : State) (w) : Frame [.store, .free] s (cutWrite s w) := by
  unfold cutWrite
  split
  · with_reducible refine Frame.after (setSlot_frame _ _ _) (by decide) ?_
    exact Frame.refl _ _
  · with_reducible refine Frame.after (setSlot_frame _ _ _) (by decide) ?_
    exact Frame.refl _ _
  · with_reducible refine Frame.after (cutDirectory_frame _ _) (by decide) ?_
    exact Frame.refl _ _
  · with_reducible refine Frame.after (setSlot_frame _ _ _) (by decide) ?_
    exact Frame.refl _ _
  · exact Frame.refl _ _
  · with_reducible refine Frame.upd rfl ?_
    exact Frame.refl _ _
  · with_reducible refine Frame.upd rfl ?_
    exact Frame.refl _ _

theorem cutStore_frame (s : State) : Frame [.store, .free] s (cutStore s) := by
  unfold cutStore
  dsimp only
  with_reducible refine Frame.upd rfl ?_
  with_reducible refine Frame.after (cutReading_frame _) (by decide) ?_
  with_reducible refine Frame.foldl _ _ (fun _ _ => ?_) ?_
  · with_reducible refine Frame.after (cutWrite_frame _ _) (by decide) ?_
    exact Frame.refl _ _
  · exact Frame.refl _ _

theorem releaseFault_frame (t : State) (s) : Frame [.out] t (releaseFault s t) := by
  unfold releaseFault
  split
  · with_reducible refine Frame.after (emit_frame _ _) (by decide) ?_
    exact Frame.refl _ _
  · exact Frame.refl _ _

theorem enterStage_frame (s : State) (k) : Frame [.boot] s (enterStage s k) := by
  unfold enterStage
  with_reducible refine Frame.upd rfl ?_
  exact Frame.refl _ _

theorem bootRecovery_frame (s : State) : Frame [.boot, .out] s (bootRecovery s) := by
  unfold bootRecovery
  with_reducible refine Frame.after (emit_frame _ _) (by decide) ?_
  with_reducible refine Frame.after (enterStage_frame _ _) (by decide) ?_
  exact Frame.refl _ _

theorem fatalOpen_frame (s : State) (code) :
    Frame [.boot, .err, .msix, .host, .admin, .rings, .ctxs, .steps, .pm, .mem, .sm, .ports, .slory, .store, .power, .free, .out] s (fatalOpen s code) := by
  unfold fatalOpen
  dsimp only
  with_reducible refine Frame.after (logFatal_frame _ _ _ _) (by decide) ?_
  with_reducible refine Frame.after (takeFree_frame _) (by decide) ?_
  exact Frame.refl _ _

theorem logOpen_frame (s : State) (code) : Frame [.err, .msix, .free, .out] s (logOpen s code) := by
  unfold logOpen
  dsimp only
  with_reducible refine Frame.after (logErr_frame _ _ _ _) (by decide) ?_
  with_reducible refine Frame.after (takeFree_frame _) (by decide) ?_
  exact Frame.refl _ _

theorem repairSlots_frame (s : State) : Frame [.store] s (repairSlots s) := by
  unfold repairSlots
  with_reducible refine Frame.foldl _ _ (fun _ _ => ?_) ?_
  · with_reducible refine Frame.after (storeWrite_frame _ _) (by decide) ?_
    with_reducible refine Frame.after (setSlot_frame _ _ _) (by decide) ?_
    exact Frame.refl _ _
  · exact Frame.refl _ _

theorem takeRecord_frame (s : State) : Frame [.boot, .err, .msix, .store, .power, .free, .out] s (takeRecord s) := by
  unfold takeRecord
  dsimp only
  with_reducible refine Frame.upd rfl ?_
  split
  · with_reducible refine Frame.upd rfl ?_
    exact Frame.refl _ _
  · split
    · with_reducible refine Frame.upd rfl ?_
      with_reducible refine Frame.after (logOpen_frame _ _) (by decide) ?_
      exact Frame.refl _ _
    · with_reducible refine Frame.after (logErr_frame _ _ _ _) (by decide) ?_
      exact Frame.refl _ _

theorem trainFailed_frame (s : State) (k) :
    Frame [.boot, .err, .msix, .host, .admin, .rings, .ctxs, .steps, .pm, .mem, .sm, .ports, .slory, .store, .power, .free, .out] s (trainFailed s k) := by
  unfold trainFailed
  dsimp only
  with_reducible refine Frame.after (logFatal_frame _ _ _ _) (by decide) ?_
  with_reducible refine Frame.upd rfl ?_
  with_reducible refine Frame.after (setStack_frame _ _ _) (by decide) ?_
  exact Frame.refl _ _

theorem endTest_frame (s : State) : Frame [.power, .diag] s (endTest s) := by
  unfold endTest
  with_reducible refine Frame.after (setMode_frame _) (by decide) ?_
  with_reducible refine Frame.upd rfl ?_
  exact Frame.refl _ _

theorem setCapW_frame (s : State) (w) : Frame [.power] s (setCapW s w) := by
  unfold setCapW
  dsimp only
  with_reducible refine Frame.upd rfl ?_
  exact Frame.refl _ _

theorem testResults_frame (s : State) : Frame [.free] s (testResults s).1 := by
  unfold testResults
  with_reducible refine Frame.foldl_fst _ _ (fun _ _ => ?_) ?_
  · dsimp only
    with_reducible refine Frame.after (takeFree_frame _) (by decide) ?_
    exact Frame.refl _ _
  · dsimp only
    exact Frame.refl _ _

theorem ckptTimeout_frame (s : State) (n seq) : Frame [.host, .admin, .rings, .ctxs, .slory, .power, .free] s (ckptTimeout s n seq) := by
  unfold ckptTimeout
  split
  · exact Frame.refl _ _
  · dsimp only
    with_reducible refine Frame.after (endCmd_frame _ _ _ _) (by decide) ?_
    split
    · with_reducible refine Frame.after (endSender_frame _ _ _) (by decide) ?_
      with_reducible refine Frame.after (setCtx_frame _ _ _) (by decide) ?_
      exact Frame.refl _ _
    · exact Frame.refl _ _

theorem diagTimeout_frame (s : State) (seq) : Frame [.host, .admin, .rings, .ctxs, .power, .diag, .free] s (diagTimeout s seq) := by
  unfold diagTimeout
  dsimp only
  with_reducible refine Frame.after (endCmd_frame _ _ _ _) (by decide) ?_
  with_reducible refine Frame.after (takeFree_frame _) (by decide) ?_
  with_reducible refine Frame.after (endTest_frame _) (by decide) ?_
  exact Frame.refl _ _

theorem installTimeout_frame (s : State) (c) : Frame [.host, .admin, .rings, .ctxs, .store, .power, .free] s (installTimeout s c) := by
  unfold installTimeout
  dsimp only
  with_reducible refine Frame.after (endInstall_frame _ _ _) (by decide) ?_
  with_reducible refine Frame.upd rfl ?_
  exact Frame.refl _ _

theorem undoRetire_frame (s : State) (seq w) : Frame [.mem, .sm, .store] s (undoRetire seq s w) := by
  unfold undoRetire
  split
  · split
    · dsimp only
      with_reducible refine Frame.upd rfl ?_
      with_reducible refine Frame.after (moveGranule_frame _ _ _ _) (by decide) ?_
      exact Frame.refl _ _
    · exact Frame.refl _ _
  · exact Frame.refl _ _

theorem retireTimeout_frame (s : State) (seq) : Frame [.host, .admin, .rings, .ctxs, .mem, .sm, .store, .power, .free] s (retireTimeout s seq) := by
  unfold retireTimeout
  dsimp only
  with_reducible refine Frame.after (endCmd_frame _ _ _ _) (by decide) ?_
  with_reducible refine Frame.upd rfl ?_
  with_reducible refine Frame.foldl _ _ (fun _ _ => ?_) ?_
  · with_reducible refine Frame.after (undoRetire_frame _ _ _) (by decide) ?_
    exact Frame.refl _ _
  · exact Frame.refl _ _

theorem freeBytes_frame (s : State) (n) : Frame [.free] s (freeBytes s n).1 := by
  unfold freeBytes
  with_reducible refine Frame.foldl_fst _ _ (fun _ _ => ?_) ?_
  · dsimp only
    with_reducible refine Frame.after (takeFree_frame _) (by decide) ?_
    exact Frame.refl _ _
  · dsimp only
    exact Frame.refl _ _

theorem updateEnd_frame (s : State) (cls outcome) : Frame [.out] s (updateEnd s cls outcome) := by
  unfold updateEnd
  with_reducible refine Frame.after (emit_frame _ _) (by decide) ?_
  exact Frame.refl _ _

theorem updateRecord_frame (s : State) (image) : Frame [.store, .out] s (updateRecord s image) := by
  unfold updateRecord
  dsimp only
  split
  · with_reducible refine Frame.after (updateEnd_frame _ _ _) (by decide) ?_
    with_reducible refine Frame.upd rfl ?_
    exact Frame.refl _ _
  · with_reducible refine Frame.after (updateEnd_frame _ _ _) (by decide) ?_
    exact Frame.refl _ _

theorem updateStore_frame (s : State) (i image) : Frame [.store, .out] s (updateStore s i image) := by
  unfold updateStore
  dsimp only
  split
  · with_reducible refine Frame.after (updateEnd_frame _ _ _) (by decide) ?_
    exact Frame.refl _ _
  · split
    · with_reducible refine Frame.after (updateEnd_frame _ _ _) (by decide) ?_
      exact Frame.refl _ _
    · with_reducible refine Frame.after (storeWrite_frame _ _) (by decide) ?_
      with_reducible refine Frame.after (setSlot_frame _ _ _) (by decide) ?_
      exact Frame.refl _ _

theorem writeObject_frame (s : State) (cls image) : Frame [.store, .mgmt] s (writeObject s cls image) := by
  unfold writeObject
  dsimp only
  with_reducible refine Frame.upd rfl ?_
  split
  · with_reducible refine Frame.upd rfl ?_
    exact Frame.refl _ _
  · with_reducible refine Frame.upd rfl ?_
    exact Frame.refl _ _

theorem ackLog_frame (s : State) (time prior) : Frame [.err] s (ackLog s time prior) := by
  unfold ackLog
  with_reducible refine Frame.upd rfl ?_
  exact Frame.refl _ _

theorem adminResult_frame (s : State) (status off) : Frame [.regs] s (adminResult s status off) := by
  unfold adminResult
  with_reducible refine Frame.upd rfl ?_
  exact Frame.refl _ _

theorem answer_frame (s : State) (off size v) : Frame [.out] s (answer s off size v) := by
  unfold answer
  with_reducible refine Frame.after (emit_frame _ _) (by decide) ?_
  exact Frame.refl _ _

theorem badDoorbell_frame (s : State) (r) : Frame [.err, .msix, .admin, .rings, .out] s (badDoorbell s r) := by
  unfold badDoorbell
  with_reducible refine Frame.after (logErr_frame _ _ _ _) (by decide) ?_
  with_reducible refine Frame.after (updRing_frame _ _ _) (by decide) ?_
  exact Frame.refl _ _

theorem clearRc_frame (s : State) (o) : Frame [.err, .ports, .slory, .power] s (clearRc s o) := by
  unfold clearRc
  split
  · with_reducible refine Frame.upd rfl ?_
    exact Frame.refl _ _
  · split
    · with_reducible refine Frame.upd rfl ?_
      exact Frame.refl _ _
    · split
      · dsimp only
        with_reducible refine Frame.after (setPort_frame _ _ _) (by decide) ?_
        exact Frame.refl _ _
      · split
        · with_reducible refine Frame.upd rfl ?_
          exact Frame.refl _ _
        · split
          · with_reducible refine Frame.upd rfl ?_
            exact Frame.refl _ _
          · with_reducible refine Frame.upd rfl ?_
            exact Frame.refl _ _

theorem countMalformed_frame (s : State) (off) : Frame [.err, .msix, .out] s (countMalformed s off) := by
  unfold countMalformed
  with_reducible refine Frame.after (logErr_frame _ _ _ _) (by decide) ?_
  with_reducible refine Frame.upd rfl ?_
  exact Frame.refl _ _

theorem noLatch_frame (s : State) : Frame [.regs] s (noLatch s) := by
  unfold noLatch
  with_reducible refine Frame.upd rfl ?_
  exact Frame.refl _ _

theorem writeHead_frame (s : State) (r g v) : Frame [.err, .msix, .admin, .rings, .out] s (writeHead s r g v) := by
  unfold writeHead
  split
  · with_reducible refine Frame.after (setRing_frame _ _ _) (by decide) ?_
    exact Frame.refl _ _
  · with_reducible refine Frame.after (badDoorbell_frame _ _) (by decide) ?_
    exact Frame.refl _ _

theorem writeTail_frame (s : State) (r g v) : Frame [.err, .msix, .admin, .rings, .out] s (writeTail s r g v) := by
  unfold writeTail
  split
  · with_reducible refine Frame.after (setRing_frame _ _ _) (by decide) ?_
    exact Frame.refl _ _
  · with_reducible refine Frame.after (badDoorbell_frame _ _) (by decide) ?_
    exact Frame.refl _ _

theorem doorbell_frame (s : State) (r size high v) : Frame [.err, .msix, .admin, .rings, .out] s (doorbell s r size high v) := by
  unfold doorbell
  split
  · with_reducible refine Frame.after (logErr_frame _ _ _ _) (by decide) ?_
    exact Frame.refl _ _
  · dsimp only
    split
    · split
      · with_reducible refine Frame.after (writeHead_frame _ _ _ _) (by decide) ?_
        split
        · with_reducible refine Frame.after (writeTail_frame _ _ _ _) (by decide) ?_
          exact Frame.refl _ _
        · exact Frame.refl _ _
      · split
        · with_reducible refine Frame.after (writeTail_frame _ _ _ _) (by decide) ?_
          exact Frame.refl _ _
        · exact Frame.refl _ _
    · split
      · with_reducible refine Frame.after (writeTail_frame _ _ _ _) (by decide) ?_
        exact Frame.refl _ _
      · exact Frame.refl _ _

theorem earlyWrite_frame (s : State) (off) : Frame [.err, .msix, .out] s (earlyWrite s off) := by
  unfold earlyWrite
  with_reducible refine Frame.after (logErr_frame _ _ _ _) (by decide) ?_
  exact Frame.refl _ _

theorem installAdmin_frame (s : State) : Frame [.regs, .host, .admin] s (installAdmin s) := by
  unfold installAdmin
  split
  · with_reducible refine Frame.after (adminResult_frame _ _ _) (by decide) ?_
    exact Frame.refl _ _
  · split
    · with_reducible refine Frame.after (adminResult_frame _ _ _) (by decide) ?_
      exact Frame.refl _ _
    · with_reducible refine Frame.after (writeCtrl_frame _ _ _) (by decide) ?_
      with_reducible refine Frame.after (adminResult_frame _ _ _) (by decide) ?_
      with_reducible refine Frame.upd rfl ?_
      exact Frame.refl _ _

theorem writeEntry_frame (s : State) (vec e) : Frame [.msix, .out] s (writeEntry s vec e) := by
  unfold writeEntry
  dsimp only
  split
  · split
    · with_reducible refine Frame.after (raiseVector_frame _ _) (by decide) ?_
      with_reducible refine Frame.upd rfl ?_
      exact Frame.refl _ _
    · with_reducible refine Frame.after (sendVector_frame _ _) (by decide) ?_
      with_reducible refine Frame.upd rfl ?_
      exact Frame.refl _ _
  · with_reducible refine Frame.upd rfl ?_
    exact Frame.refl _ _

theorem msixWrite_frame (s : State) (o m) : Frame [.msix, .out] s (msixWrite s o m) := by
  unfold msixWrite
  dsimp only
  split
  · exact Frame.refl _ _
  · split
    · with_reducible refine Frame.after (writeEntry_frame _ _ _) (by decide) ?_
      exact Frame.refl _ _
    · with_reducible refine Frame.after (writeEntry_frame _ _ _) (by decide) ?_
      exact Frame.refl _ _

theorem plainWrite_frame (s : State) (o m) : Frame [.regs, .err, .msix, .out] s (plainWrite s o m) := by
  unfold plainWrite
  split
  · split
    · dsimp only
      with_reducible refine Frame.upd rfl ?_
      exact Frame.refl _ _
    · with_reducible refine Frame.after (earlyWrite_frame _ _) (by decide) ?_
      exact Frame.refl _ _
  · exact Frame.refl _ _

theorem selectSlot_frame (s : State) (i) : Frame [.err] s (selectSlot s i) := by
  unfold selectSlot
  with_reducible refine Frame.upd rfl ?_
  exact Frame.refl _ _

theorem w1c_frame (s : State) (o m sets) : Frame [.err, .msix, .ports, .power, .out] s (w1c s o m sets) := by
  unfold w1c
  split
  · dsimp only
    split
    · with_reducible refine Frame.after (raiseVector_frame _ _) (by decide) ?_
      with_reducible refine Frame.upd rfl ?_
      exact Frame.refl _ _
    · with_reducible refine Frame.upd rfl ?_
      exact Frame.refl _ _
  · split
    · dsimp only
      split
      · with_reducible refine Frame.after (raiseVector_frame _ _) (by decide) ?_
        with_reducible refine Frame.upd rfl ?_
        exact Frame.refl _ _
      · with_reducible refine Frame.upd rfl ?_
        exact Frame.refl _ _
    · split
      · dsimp only
        split
        · with_reducible refine Frame.after (raiseVector_frame _ _) (by decide) ?_
          with_reducible refine Frame.after (setPort_frame _ _ _) (by decide) ?_
          exact Frame.refl _ _
        · with_reducible refine Frame.after (setPort_frame _ _ _) (by decide) ?_
          exact Frame.refl _ _
      · exact Frame.refl _ _

end Sys2Proof.Laws
end

