-- ==== Sys2Proof/Laws/Memory.lean ====
section
/-! SUPPORT. Every operation that writes stacked memory keeps its canonical form, and it holds at reset. -/

namespace Sys2Proof.Laws

set_option Elab.async false

open Sys2Proof.Machine Sys2Proof.Safety

theorem reset_memory_canonical : MemoryCanonical State.reset := rfl

/-- What leaves stacked memory alone keeps its form. -/
theorem Frame.canonical {l : List Part} {s t : State} (h : Frame l s t) (hl : Part.mem ∉ l) (k : MemoryCanonical s) :
    MemoryCanonical t := by
  have e : t.sm.mem = s.sm.mem := h .mem hl
  rw [MemoryCanonical, e]
  exact k

theorem keepWrites_canonical {s : State} (x : Step) (h : MemoryCanonical s) : MemoryCanonical (keepWrites s x) := kwf_vcommit _ _ h

theorem wcRelease_canonical {s : State} (st : Nat) (h : MemoryCanonical s) : MemoryCanonical (wcRelease s st) := h

theorem commitMemories_canonical {s : State} (x : Step) (h : MemoryCanonical s) : MemoryCanonical (commitMemories s x) :=
  wcRelease_canonical _ (keepWrites_canonical (s := { s with pm := _ }) x h)

theorem openWrites_canonical {s : State} (x : Step) (h : MemoryCanonical s) : MemoryCanonical (openWrites s x) := by
  have key : ∀ (l : List (WriteRec Byte)) (p : State × Vers Byte), kwf 0 p.2.base = true →
      kwf 0 (l.foldl (fun (p : State × Vers Byte) w =>
        if w.step = x.id ∧ 0 < w.cycle then
          ((takeFree p.1).2, if (takeFree p.1).1.getLsbD 0 then vpoke 0 p.2 (otherLive s x) w.addr w.val else p.2)
        else p) p).2.base = true := by
    intro l
    induction l with
    | nil => exact fun _ hp => hp
    | cons w t ih =>
      intro p hp
      refine ih _ ?_
      dsimp only
      split
      · dsimp only
        split
        · exact kwf_vpoke _ _ _ hp
        · exact hp
      · exact hp
  exact key s.sm.mem.log (s, s.sm.mem) h

theorem scrubSpares_canonical (s : State) (f : Nat) {m : Vers Byte} (h : kwf 0 m.base = true) : kwf 0 (scrubSpares s f m).base = true := by
  unfold scrubSpares
  generalize s.store.retired = l
  induction l generalizing m with
  | nil => exact h
  | cons e t ih =>
    refine ih ?_
    dsimp only
    split
    · exact kwf_vclear _ _ h
    · exact h

theorem scrubFrame_canonical {s : State} (f : Nat) (h : MemoryCanonical s) : MemoryCanonical (scrubFrame s f) :=
  scrubSpares_canonical s f (kwf_vclear _ _ h)

theorem moveGranule_canonical {s : State} (b g k : Nat) (h : MemoryCanonical s) : MemoryCanonical (moveGranule s b g k) :=
  kwf_foldl_kset (fun e : Nat × Byte => k * 524288 + e.1 % 524288) (·.2) _ (kwf_filter _ (kwf_filter _ h))

theorem execMemInit_canonical {s t : State} (h : MemoryCanonical s) (e : execMemInit s = .next t) : MemoryCanonical t := by
  unfold execMemInit at e
  split at e
  · cases e
    rfl
  · cases e
    exact h

theorem endStep_canonical {s : State} (x : Step) (y : Reply) (h : MemoryCanonical s) : MemoryCanonical (endStep s x y) := by
  have hb : MemoryCanonical (bookFiller s x) := (bookFiller_frame s x).canonical (by decide) h
  unfold endStep
  refine (replyStep_frame _ _ _).canonical (by decide) (wcRelease_canonical _ ((dropFlight_frame _ _).canonical (by decide) ?_))
  have hw : MemoryCanonical (if x.state.live = true ∨ x.state = .hold then
      openWrites { learnKill (slopeChange (bookFiller s x)) x with pm := dropDies (bookFiller s x).pm x.id } x else bookFiller s x) := by
    split
    · exact openWrites_canonical x (s := { learnKill (slopeChange (bookFiller s x)) x with pm := dropDies (bookFiller s x).pm x.id })
        ((learnKill_frame _ _).canonical (by decide) ((slopeChange_frame _).canonical (by decide) hb))
    · exact hb
  dsimp only
  split
  · exact (noteSums_frame _ _).canonical (by decide) hw
  · exact hw

theorem failStep_canonical {s : State} (x : Step) (y : Reply) (h : MemoryCanonical s) : MemoryCanonical (failStep s x y) := by
  unfold failStep
  split
  · split
    · split
      · exact (castVote_frame _ _ _ _ _).canonical (by decide) h
      · exact h
    · exact endStep_canonical x y h
  · exact endStep_canonical x y h

theorem rerunStep_canonical {s : State} (x : Step) (n : Nat) (h : MemoryCanonical s) : MemoryCanonical (rerunStep s x n) := by
  have hb : MemoryCanonical (slopeChange (bookFiller s x)) :=
    (slopeChange_frame _).canonical (by decide) ((bookFiller_frame s x).canonical (by decide) h)
  have hk := keepWrites_canonical (s := { learnKill (slopeChange (bookFiller s x)) x with pm := dropDies (bookFiller s x).pm x.id }) x
    ((learnKill_frame _ _).canonical (by decide) hb)
  exact wcRelease_canonical x.id ((dropFlight_frame _ x).canonical (by decide) hk)

/-! ### Checked reads -/

theorem corruptCw_canonical {s : State} (pa cw : Nat) (d : BitVec 256) (h : MemoryCanonical s) : MemoryCanonical (corruptCw s pa cw d) :=
  kwf_ksetRun _ _ h

theorem checkOne_canonical (src : MemSource) (pa : Nat) (q : State × Option (BitVec 128)) (e : Ecc) (h : MemoryCanonical q.1) :
    MemoryCanonical (checkOne src pa q e).1 := by
  cases e with
  | ok => exact h
  | corrected l cw sy => exact (noteCorrected_frame _ _ _ _ _).canonical (by decide) h
  | uncorrectable l cw => exact (noteUncorrectable_frame _ _ _ _).canonical (by decide) h
  | miscorrected l cw sy d => exact corruptCw_canonical _ _ _ ((noteCorrected_frame _ _ _ _ _).canonical (by decide) h)
  | unseen l cw d => exact corruptCw_canonical _ _ _ h

theorem checkLine_canonical (eccs : List Ecc) (src : MemSource) (q : State × Option (BitVec 128)) (e : Nat × Nat)
    (h : MemoryCanonical q.1) : MemoryCanonical (checkLine eccs src q e).1 := by
  unfold checkLine
  split
  · exact (notePoisonedRead_frame _ _).canonical (by decide) h
  · rename_i hp
    clear hp
    generalize (eccs.filter fun v => decide (v.line = e.1)) = l
    induction l generalizing q with
    | nil => exact h
    | cons v t ih => exact ih _ (checkOne_canonical src e.2 q v h)

theorem checkLines_canonical {s : State} (pas : List Nat) (eccs : List Ecc) (src : MemSource) (h : MemoryCanonical s) :
    MemoryCanonical (checkLines s pas eccs src).1 := by
  have key : ∀ (l : List (Nat × Nat)) (q : State × Option (BitVec 128)), MemoryCanonical q.1 →
      MemoryCanonical (l.foldl (checkLine eccs src) q).1 := by
    intro l
    induction l with
    | nil => exact fun _ hq => hq
    | cons e t ih => exact fun q hq => ih _ (checkLine_canonical eccs src q e hq)
  exact key _ (s, none) h

/-! ### Write combining -/

theorem failOwner_canonical {s : State} (e : WcEntry) (r : BitVec 128) (h : MemoryCanonical s) : MemoryCanonical (failOwner s e r) := by
  unfold failOwner
  split
  · split
    · exact failStep_canonical _ _ h
    · exact h
  · exact h

theorem wcOut_canonical {s : State} (b : Nat) (e : WcEntry) (ecc : Ecc) (h : MemoryCanonical s) : MemoryCanonical (wcOut s b e ecc) := by
  have hd : MemoryCanonical (wcDrop s b e.line) := (wcDrop_frame s b e.line).canonical (by decide) h
  have hc := checkLines_canonical [e.line * 128] [ecc.alone] .writeOut hd
  unfold wcOut
  dsimp only
  split
  · exact (cleanCws_frame _ _).canonical (by decide) hd
  · split
    · rename_i he
      rw [he] at hc
      exact hc
    · rename_i he
      rw [he] at hc
      exact failOwner_canonical _ _ ((poisonLine_frame _ _).canonical (by decide) hc)

theorem wcRoom_canonical {s : State} (b share : Nat) (st : Option Nat) (ecc : Ecc) (h : MemoryCanonical s) :
    MemoryCanonical (wcRoom s b share st ecc) := by
  unfold wcRoom
  dsimp only
  split
  · split
    · exact wcOut_canonical _ _ _ h
    · exact h
  · split
    · split
      · exact wcOut_canonical _ _ _ h
      · exact h
    · exact h

theorem wcWrite_canonical {s : State} (pa : Nat) (bs : Bytes) (ctx : Nat) (st : Option Nat) (share : Nat) (ecc : Ecc)
    (h : MemoryCanonical s) : MemoryCanonical (wcWrite s pa bs ctx st share ecc) := by
  have ho : MemoryCanonical (if (stackOf s (paStack pa)).wc.any fun e => decide (e.line = pa / 128) then s
      else setStack (wcRoom s (paStack pa) share st ecc) (paStack pa)
        { stackOf (wcRoom s (paStack pa) share st ecc) (paStack pa) with
          wc := (stackOf (wcRoom s (paStack pa) share st ecc) (paStack pa)).wc ++ [⟨pa / 128, 0, 0, ctx, st⟩] }) := by
    split
    · exact h
    · exact wcRoom_canonical _ _ _ _ h
  unfold wcWrite
  dsimp only
  generalize (if (stackOf s (paStack pa)).wc.any fun e => decide (e.line = pa / 128) then s
      else setStack (wcRoom s (paStack pa) share st ecc) (paStack pa)
        { stackOf (wcRoom s (paStack pa) share st ecc) (paStack pa) with
          wc := (stackOf (wcRoom s (paStack pa) share st ecc) (paStack pa)).wc ++ [⟨pa / 128, 0, 0, ctx, st⟩] }) = u at ho ⊢
  split
  · exact ho
  · split
    · exact wcOut_canonical _ _ _ ho
    · exact ho

theorem storeVa_canonical {s : State} (img : Image) (c : Ctx) (x : Step) (cyc rank va : Nat) (bs : Bytes) (ecc : Ecc)
    (h : MemoryCanonical s) : MemoryCanonical (storeVa s img c x cyc rank va bs ecc) := by
  unfold storeVa
  generalize lineRuns (bs.length / 128 + 2) va bs = l
  induction l generalizing s with
  | nil => exact h
  | cons r t ih =>
    refine ih ?_
    dsimp only
    split
    · exact h
    · refine wcWrite_canonical _ _ _ _ _ _ ?_
      show kwf 0 (vputRun s.sm.mem x.id cyc rank _ r.2).base = true
      rw [vputRun_base]
      exact h

theorem storeTensor_canonical {s : State} (img : Image) (c : Ctx) (x : Step) (num area o : Nat) (bs : Bytes) (ecc : Ecc)
    (h : MemoryCanonical s) : MemoryCanonical (storeTensor s img c x num area o bs ecc) := by
  unfold storeTensor
  generalize lineRuns (bs.length / 128 + 2) o bs = l
  induction l generalizing s with
  | nil => exact h
  | cons r t ih => exact ih (wcWrite_canonical _ _ _ _ _ _ h)

theorem fenceOut_canonical (b : Nat) (q : State × List Ecc) (e : WcEntry) (h : MemoryCanonical q.1) : MemoryCanonical (fenceOut b q e).1 := by
  unfold fenceOut
  split
  · exact wcOut_canonical _ _ _ h
  · exact wcOut_canonical _ _ _ h

theorem wcFence_canonical {s : State} (sel : WcEntry → Bool) (eccs : List Ecc) (h : MemoryCanonical s) : MemoryCanonical (wcFence s sel eccs) := by
  have inner : ∀ (b : Nat) (l : List WcEntry) (q : State × List Ecc), MemoryCanonical q.1 → MemoryCanonical (l.foldl (fenceOut b) q).1 := by
    intro b l
    induction l with
    | nil => exact fun _ hq => hq
    | cons e t ih => exact fun q hq => ih _ (fenceOut_canonical b q e hq)
  have key : ∀ (l : List Nat) (q : State × List Ecc), MemoryCanonical q.1 →
      MemoryCanonical (l.foldl (fun q b => ((stackOf q.1 b).wc.filter sel).foldl (fenceOut b) q) q).1 := by
    intro l
    induction l with
    | nil => exact fun _ hq => hq
    | cons b t ih => exact fun q hq => ih _ (inner b _ q hq)
  exact key _ (s, eccs) h

end Sys2Proof.Laws
end

