-- ==== Sys2Proof/Laws/Shared.lean ====
section
/-! SUPPORT. What the shared operations of the meanings do, once each: taking a unit's turn, issuing and waiting, finding the
current command, replying, logging, and the guards of frames and registers. -/

namespace Sys2Proof.Laws

set_option Elab.async false

open Sys2Proof.Machine Sys2Proof.Safety

/-! ### From a frame to the vocabulary of the statements -/

theorem Frame.sm_eq {l : List Part} {s t : State} (h : Frame l s t) (hm : Part.mem ∉ l) (hs : Part.sm ∉ l) : t.sm = s.sm := by
  have a : t.sm.mem = s.sm.mem := h .mem hm
  have b : { t.sm with mem := s.sm.mem } = s.sm := h .sm hs
  rw [← a] at b
  exact b

theorem Frame.onlySteps {s t : State} (h : Frame [.steps] s t) : OnlySteps s t := by
  have hsm := h.sm_eq (by decide) (by decide)
  cases s; cases t
  simp only [OnlySteps, State.mk.injEq]
  exact ⟨h .pending (by decide), h .boot (by decide), h .clk (by decide), h .regs (by decide), h .err (by decide), h .msix (by decide),
    h .host (by decide), h .admin (by decide), h .rings (by decide), h .ctxs (by decide), trivial, h .sched (by decide), h .pm (by decide),
    hsm, h .ports (by decide), h .slory (by decide), h .store (by decide), h .power (by decide), h .mgmt (by decide), h .diag (by decide),
    h .free (by decide), h .out (by decide)⟩

theorem Frame.onlyDies {s t : State} (h : Frame [.steps, .pm] s t) : OnlyDies s t := by
  have hsm := h.sm_eq (by decide) (by decide)
  cases s; cases t
  simp only [OnlyDies, State.mk.injEq]
  exact ⟨h .pending (by decide), h .boot (by decide), h .clk (by decide), h .regs (by decide), h .err (by decide), h .msix (by decide),
    h .host (by decide), h .admin (by decide), h .rings (by decide), h .ctxs (by decide), trivial, h .sched (by decide), trivial,
    hsm, h .ports (by decide), h .slory (by decide), h .store (by decide), h .power (by decide), h .mgmt (by decide), h .diag (by decide),
    h .free (by decide), h .out (by decide)⟩

theorem Frame.onlyLog {s t : State} (h : Frame [.err, .msix, .out] s t) : OnlyLog s t := by
  have hsm := h.sm_eq (by decide) (by decide)
  cases s; cases t
  simp only [OnlyLog, State.mk.injEq]
  exact ⟨h .pending (by decide), h .boot (by decide), h .clk (by decide), h .regs (by decide), trivial, trivial,
    h .host (by decide), h .admin (by decide), h .rings (by decide), h .ctxs (by decide), h .steps (by decide), h .sched (by decide),
    h .pm (by decide), hsm, h .ports (by decide), h .slory (by decide), h .store (by decide), h .power (by decide), h .mgmt (by decide),
    h .diag (by decide), h .free (by decide), trivial⟩

/-! ### A unit's turn -/

/-- A unit has a next instruction exactly on its turn. -/
theorem nextIns_eq_some {α : Type} {s : State} {st key : Nat} {listOf : Image → List α} {cycleOf : α → Nat} {x : Step} {img : Image}
    {c : Ctx} {u : UnitSt} {ins : α} :
    nextIns s st key listOf cycleOf = some (x, img, c, u, ins) ↔ Turn s st key listOf cycleOf x img c u ins := by
  constructor
  · intro h
    unfold nextIns at h
    split at h
    · cases h
    · rename_i x' hx
      split at h
      · cases h
      · rename_i c' hc
        split at h
        · cases h
        · rename_i img' hi
          dsimp only at h
          split at h
          · cases h
          · rename_i ins' hn
            split at h
            · rename_i hr
              cases h
              exact ⟨hx, hr.1, hc, hi, rfl, hn, hr.2.1, hr.2.2⟩
            · cases h
  · rintro ⟨h1, h2, h3, h4, rfl, h6, h7, h8⟩
    unfold nextIns
    rw [h1]
    dsimp only
    rw [h3]
    dsimp only
    rw [h4]
    dsimp only
    rw [h6]
    dsimp only
    rw [if_pos ⟨h2, h7, h8⟩]

/-- An issue on time goes on; beyond a phase's slack it slips the step. -/
theorem issueOr_onTime {s : State} {img : Image} {x : Step} {u : UnitSt} {cyc stall : Nat} (key : Nat) (go : State)
    (h : OnTime img x u cyc stall) : issueOr s img x key u cyc stall go = go := by
  unfold issueOr
  rw [show latePhase img x u cyc stall = none from h]

/-- Setting a step in which unit `key` has issued from its place `u`: `v` is `u` but for what the issue changed besides its place
and its counters. -/
theorem issued_setStep {s : State} {st key stall dry : Nat} {x y : Step} {u v : UnitSt} (h : stepOf s st = some x) (hy : y.id = st)
    (hn : v.next = u.next) (hs : v.slip = u.slip) (he : v.entrance = u.entrance) (hu : ∀ k, k ≠ key → y.unit k = x.unit k) :
    Issued s (setStep s (y.setUnit key (v.issued stall dry))) st key stall dry x u (settle s (y.setUnit key (v.issued stall dry))) := by
  have hk : (settle s (y.setUnit key (v.issued stall dry))).unit key = v.issued stall dry := by
    rw [settle_unit, unit_setUnit, if_pos rfl]
  refine ⟨stepOf_setStep_self h hy, ?_, ?_, ?_, ?_, ?_⟩
  · rw [hk, ← hn]; rfl
  · rw [hk, ← hs]; rfl
  · rw [hk, ← he]; rfl
  · intro k hne
    rw [settle_unit, unit_setUnit, if_neg hne, hu k hne]
  · intro i hi
    exact stepOf_setStep_of_ne s (fun e => hi (e.trans hy))

/-- A unit that waits: only its slip and its entrance cycles advance. -/
theorem waited_waitUnit {s : State} {st : Nat} (key stall dry : Nat) {x : Step} (u : UnitSt) (h : stepOf s st = some x) :
    Waited s (waitUnit s x key u stall dry) st key stall dry x u (settle s (x.setUnit key (u.waited stall dry))) := by
  refine ⟨stepOf_setStep_self h ((id_of_stepOf h : x.id = st) : (x.setUnit key _).id = st), ?_, ?_, ?_⟩
  · rw [settle_unit, unit_setUnit, if_pos rfl]; rfl
  · intro k hne
    rw [settle_unit, unit_setUnit, if_neg hne]
  · intro i hi
    exact stepOf_setStep_of_ne s (fun e => hi (e.trans (id_of_stepOf h : x.id = st)))

/-! ### Commands -/

/-- The current command of a ring is one of its commands, of the opcode, begun and not accepted. -/
theorem curCmd_some {s : State} {r : RingId} {op : Nat} {c : Cmd} (h : curCmd s r op = some c) :
    ∃ g, ringOf s r = some g ∧ c ∈ g.cmds ∧ c.opcode = op ∧ c.accepted = false ∧ c.held = none ∧ begun g c = true := by
  unfold curCmd at h
  split at h
  · cases h
  obtain ⟨g, hg, hc⟩ := Option.bind_eq_some_iff.mp h
  have hp := List.find?_some hc
  simp only [Bool.and_eq_true, decide_eq_true_eq, Bool.not_eq_true', Option.isNone_iff_eq_none] at hp
  exact ⟨g, hg, List.mem_of_find?_eq_some hc, hp.1.1.1, hp.1.1.2, hp.1.2, hp.2⟩

theorem withCmd_cases (s : State) (r : RingId) (op : Nat) (f : Cmd → State) :
    (∃ c, curCmd s r op = some c ∧ withCmd s r op f = f c) ∨ (curCmd s r op = none ∧ withCmd s r op f = s) := by
  unfold withCmd
  cases h : curCmd s r op with
  | some c => exact .inl ⟨c, rfl, rfl⟩
  | none => exact .inr ⟨rfl, rfl⟩

theorem withCtxCmd_cases (s : State) (r : RingId) (op : Nat) (f : Nat → Ctx → Cmd → State) :
    (∃ n k c, r = .ctx n ∧ ctxOf s n = some k ∧ curCmd s r op = some c ∧ withCtxCmd s r op f = f n k c) ∨ withCtxCmd s r op f = s := by
  cases r with
  | admin => exact .inr rfl
  | ctx n =>
    unfold withCtxCmd
    cases hk : ctxOf s n with
    | none => exact .inr (by simp only [hk])
    | some k =>
      cases hc : curCmd s (.ctx n) op with
      | none => exact .inr (by simp only [hk])
      | some c => exact .inl ⟨n, k, c, rfl, hk, rfl, by simp only [hk]⟩

theorem cmd_seq {g : Ring} {q : Nat} {c : Cmd} (h : g.cmd q = some c) : c.seq = q := by
  have := List.find?_some h
  simpa using this

theorem cmd_filter (g : Ring) (q : Nat) : ({ g with cmds := g.cmds.filter fun c => decide (c.seq ≠ q) } : Ring).cmd q = none := by
  unfold Ring.cmd
  rw [List.find?_eq_none]
  intro c hc
  have := (List.mem_filter.mp hc).2
  simpa using this

theorem cmd_map (g : Ring) (q : Nat) (f : Cmd → Cmd) (hf : ∀ c, (f c).seq = c.seq) :
    ({ g with cmds := g.cmds.map fun c => if c.seq = q then f c else c } : Ring).cmd q = (g.cmd q).map f := by
  unfold Ring.cmd
  dsimp only
  rw [List.find?_map]
  have : (fun c : Cmd => decide (c.seq = q)) ∘ (fun c => if c.seq = q then f c else c) = fun c => decide (c.seq = q) := by
    funext c
    simp only [Function.comp]
    split
    · rename_i h
      rw [hf]
    · rfl
  rw [this]
  cases h : g.cmds.find? fun c => decide (c.seq = q) with
  | none => rfl
  | some c =>
    have hq : c.seq = q := by simpa using List.find?_some h
    simp only [Option.map_some, if_pos hq]

theorem Frame.ring {l : List Part} {s t : State} (h : Frame l s t) (ha : Part.admin ∉ l) (hr : Part.rings ∉ l) (r : RingId) :
    ringOf t r = ringOf s r := by
  cases r with
  | admin => exact h .admin ha
  | ctx n =>
    have e : t.rings = s.rings := h .rings hr
    show kfind t.rings n = kfind s.rings n
    rw [e]

/-- What writing an entry does: the entry is on its way to the ring, no write is lost, and of the ring's commands nothing
changed. -/
theorem postEntry_spec {s : State} {r : RingId} (path : HwPath) (b : Bytes) {g : Ring} (h : ringOf s r = some g) :
    (∃ g', ringOf (postEntry s r path b) r = some g' ∧ g'.cmds = g.cmds ∧ g'.statusTail = g.statusTail + 1) ∧
    (∃ w ∈ (postEntry s r path b).host.writes, w.id = s.host.nextId ∧ w.path = path ∧ w.ring = some r ∧ w.bytes = b) ∧
    (∀ w ∈ s.host.writes, w ∈ (postEntry s r path b).host.writes) ∧ s.host.nextId ≤ (postEntry s r path b).host.nextId := by
  unfold postEntry
  rw [h]
  dsimp only
  unfold writeCtrl
  rw [ringOf_setRing, if_pos rfl]
  have e : ∀ (u : State) (x : Ring), (setRing u r x).host = u.host := fun u x => setRing_frame u r x .host (by decide)
  refine ⟨⟨{ g with statusTail := g.statusTail + 1 }, ?_, rfl, rfl⟩, ?_, ?_, ?_⟩
  · dsimp only
    rw [(issueWrite_frame _ _ _ _ _ _ _).ring (by decide) (by decide), ringOf_setRing, if_pos rfl]
  · simp only [issueWrite, e]
    exact ⟨_, List.mem_append_left _ (List.mem_append_right _ (List.mem_singleton_self _)), rfl, rfl, rfl, rfl⟩
  · intro w hw
    simp only [issueWrite, e]
    exact List.mem_append_left _ (List.mem_append_left _ hw)
  · simp only [issueWrite, e]
    omega

/-- From `s` to `t` ring `r` stands, has no command that it had not, and no write to the host is lost. -/
def RingKept (r : RingId) (s t : State) : Prop :=
  (∀ g, ringOf s r = some g → ∃ g', ringOf t r = some g' ∧ ∀ c ∈ g'.cmds, c ∈ g.cmds) ∧
  (∀ w ∈ s.host.writes, w ∈ t.host.writes) ∧ s.host.nextId ≤ t.host.nextId

theorem RingKept.refl (r : RingId) (s : State) : RingKept r s s := ⟨fun g h => ⟨g, h, fun _ hc => hc⟩, fun _ h => h, Nat.le_refl _⟩

theorem RingKept.trans {r : RingId} {s t u : State} (h : RingKept r s t) (k : RingKept r t u) : RingKept r s u := by
  refine ⟨fun g hg => ?_, fun w hw => k.2.1 w (h.2.1 w hw), Nat.le_trans h.2.2 k.2.2⟩
  obtain ⟨g', hg', hc'⟩ := h.1 g hg
  obtain ⟨g'', hg'', hc''⟩ := k.1 g' hg'
  exact ⟨g'', hg'', fun c hc => hc' c (hc'' c hc)⟩

/-- A command that is gone stays gone. -/
theorem cmd_none_of_sub {g g' : Ring} {q : Nat} (h : g.cmd q = none) (k : ∀ c ∈ g'.cmds, c ∈ g.cmds) : g'.cmd q = none := by
  unfold Ring.cmd at h ⊢
  rw [List.find?_eq_none] at h ⊢
  exact fun c hc => h c (k c hc)

theorem bookAccepted_ring (s : State) (r q : RingId) (seq : Nat) : ringOf (bookAccepted s r seq) q = ringOf s q :=
  (bookAccepted_frame s r seq).ring (by decide) (by decide) q

/-- A reply leaves the ring standing without its command, and is on its way to the ring. -/
theorem postReply_spec {s : State} {r : RingId} (seq : Nat) (y : Reply) {g : Ring} (h : ringOf s r = some g) :
    RingKept r s (postReply s r seq y) ∧
    (∃ g', ringOf (postReply s r seq y) r = some g' ∧ g'.cmd seq = none) ∧
    ∃ w ∈ (postReply s r seq y).host.writes, w.id = s.host.nextId ∧ w.path = .status ∧ w.ring = some r ∧ w.bytes = replyBytes y := by
  have hb : ringOf (bookAccepted s r seq) r = some g := (bookAccepted_ring s r r seq).trans h
  have hh : (bookAccepted s r seq).host = s.host := bookAccepted_frame s r seq .host (by decide)
  unfold postReply
  have hu : ringOf (updRing (bookAccepted s r seq) r fun g => { g with cmds := g.cmds.filter fun c => decide (c.seq ≠ seq) }) r =
      some { g with cmds := g.cmds.filter fun c => decide (c.seq ≠ seq) } := by
    rw [ringOf_updRing, if_pos rfl, hb]
    rfl
  have hn : (updRing (bookAccepted s r seq) r fun g => { g with cmds := g.cmds.filter fun c => decide (c.seq ≠ seq) }).host = s.host :=
    Eq.trans (updRing_frame (bookAccepted s r seq) r _ .host (by decide)) hh
  obtain ⟨⟨g', h1, h2, -⟩, ⟨w, h3, h4, h5, h6, h7⟩, h8, h9⟩ := postEntry_spec .status (replyBytes y) hu
  rw [hn] at h4 h8 h9
  refine ⟨⟨fun k hk => ?_, h8, h9⟩, ⟨g', h1, ?_⟩, w, h3, h4, h5, h6, h7⟩
  · rw [h] at hk
    cases hk
    refine ⟨g', h1, fun c hc => ?_⟩
    rw [h2] at hc
    exact (List.mem_filter.mp hc).1
  · have := cmd_filter g seq
    unfold Ring.cmd at this ⊢
    rw [h2]
    exact this

/-- Releasing held replies loses no ring and no write, and brings no command back. -/
theorem releaseHeld_kept (s : State) (r : RingId) : RingKept r s (releaseHeld s r) := by
  unfold releaseHeld
  split
  · exact RingKept.refl r s
  · rename_i g hg
    have key : ∀ (l : List Cmd) (u : State), (∃ k, ringOf u r = some k) → RingKept r u (l.foldl (fun s c =>
        match c.held, c.upTo with
        | some y, some n =>
          if c.waits s r n || !(((ringOf s r).map fun g => begun g c).getD false) then s else postReply s r c.seq y
        | _, _ => s) u) := by
      intro l
      induction l with
      | nil => exact fun u _ => RingKept.refl r u
      | cons c t ih =>
        rintro u ⟨k, hk⟩
        have hs : RingKept r u (match c.held, c.upTo with
            | some y, some n =>
              if c.waits u r n || !(((ringOf u r).map fun g => begun g c).getD false) then u else postReply u r c.seq y
            | _, _ => u) := by
          split
          · split
            · exact RingKept.refl r u
            · exact (postReply_spec _ _ hk).1
          · exact RingKept.refl r u
        obtain ⟨k', hk', -⟩ := hs.1 k hk
        exact hs.trans (ih _ ⟨k', hk'⟩)
    exact key _ _ ⟨g, hg⟩

/-- Which commands may have to wait for host writes before they reply. -/
theorem waits_kind {s : State} {r : RingId} {c : Cmd} {n : Nat} (h : c.waits s r n = true) :
    c.cfence = true ∨ c.opcode ∈ [0x0050, 0x0051, 0x0072, 0x0080] := by
  unfold Cmd.waits at h
  simp only [Bool.or_eq_true, Bool.and_eq_true, decide_eq_true_eq] at h
  rcases h with ⟨h | ⟨-, h⟩, -⟩ | ⟨⟨-, h | h | h⟩, -⟩
  · exact .inl h
  all_goals exact .inr (by simp [h])

/-- Ending a command answers it: with its opcode, its SEQ and its context filled in (R335, R345, R353). -/
theorem endCmd_replied {s : State} {r : RingId} {c : Cmd} (y : Reply) (h : ((ringOf s r).bind fun g => g.cmd c.seq) = some c) :
    Replied s (endCmd s r c.seq y) r c
      { y with opcode := c.opcode, seq := c.seqNo, ctx := c.concerned r } := by
  obtain ⟨g, hg, hc⟩ := Option.bind_eq_some_iff.mp h
  unfold endCmd
  rw [h]
  dsimp only
  split
  · rename_i hf
    refine ⟨_, (ringOf_updRing s r r _).trans (by rw [if_pos rfl, hg]; rfl), .inr ⟨waits_kind hf, ?_⟩⟩
    have e := cmd_map g c.seq
      (fun d => { d with held := some (Reply.mk y.status c.opcode c.seqNo (c.concerned r) y.kind
        y.skipped y.truncated y.committed y.flags y.event y.detail0 y.detail1 y.result), upTo := some s.host.nextId }) (fun _ => rfl)
    rw [hc] at e
    exact ⟨_, e, rfl⟩
  · obtain ⟨-, ⟨g', h1, h2⟩, w, h3, h4, h5, h6, h7⟩ := postReply_spec c.seq
      { y with opcode := c.opcode, seq := c.seqNo, ctx := c.concerned r } hg
    have hk := releaseHeld_kept (postReply s r c.seq { y with opcode := c.opcode, seq := c.seqNo, ctx := c.concerned r }) r
    obtain ⟨g'', h8, h9⟩ := hk.1 g' h1
    exact ⟨g'', h8, .inl ⟨cmd_none_of_sub h2 h9, w, hk.2.1 w h3, h4 ▸ Nat.le_refl _, h5, h6, h7⟩⟩

/-! ### Guards -/

/-- A register write reaches its effect exactly where the link is up, the access is well formed and its block answers. -/
theorem barWrite_cases (s : State) (off size : Nat) (f : State → State) :
    (s.host.up = false ∧ barWrite s off size f = s) ∨
    (malformed (noLatch s) off size = true ∧ barWrite s off size f = countMalformed (noLatch s) off) ∨
    (gated (noLatch s) off = true ∧ barWrite s off size f = noLatch s) ∨
    (s.host.up = true ∧ malformed (noLatch s) off size = false ∧ gated (noLatch s) off = false ∧ barWrite s off size f = f (noLatch s)) := by
  unfold barWrite
  cases hu : s.host.up with
  | false => exact .inl ⟨rfl, rfl⟩
  | true =>
    right
    cases hm : malformed (noLatch s) off size with
    | true => exact .inl ⟨rfl, by simp [hm]⟩
    | false =>
      right
      cases hg : gated (noLatch s) off with
      | true => exact .inl ⟨rfl, by simp [hm, hg]⟩
      | false => exact .inr ⟨rfl, rfl, rfl, by simp [hm, hg]⟩

theorem withStep_cases (s : State) (n : Nat) (c : Ctx) (h : SloryHdr) (g : Step → Image → State) :
    (isStale s n c h = true ∧ withStep s n c h g = bumpSlory s 5 1) ∨
    (isStale s n c h = false ∧ admittedAt s n h = none ∧ withStep s n c h g = bumpSlory (sendNak s h.key h.seq 2) 6 1) ∨
    (∃ x, isStale s n c h = false ∧ admittedAt s n h = some x ∧ withStep s n c h g = (match imageOf s x with | some img => g x img | none => s)) := by
  unfold withStep
  cases hs : isStale s n c h with
  | true => exact .inl ⟨rfl, rfl⟩
  | false =>
    right
    cases ha : admittedAt s n h with
    | none => exact .inl ⟨rfl, rfl, rfl⟩
    | some x => exact .inr ⟨x, rfl, rfl, rfl⟩

/-! ### The error log -/

theorem le_length_of_keys (n : Nat) {α : Type} (m : KMap α) (h : ∀ i < n, (kfind m i).isSome) : n ≤ m.length := by
  induction n generalizing m with
  | zero => exact Nat.zero_le _
  | succ n ih =>
    have h1 : n ≤ (kdel m n).length := ih _ (fun i hi => by
      rw [kfind_kdel, if_neg (by omega)]
      exact h i (by omega))
    have h2 : (kdel m n).length < m.length := by
      unfold kdel
      rw [List.length_filter_lt_length_iff_exists]
      have hn := h n (Nat.lt_succ_self n)
      clear h ih h1
      induction m with
      | nil => cases hn
      | cons e t iht =>
        obtain ⟨j, v⟩ := e
        by_cases hj : j = n
        · exact ⟨(j, v), List.mem_cons_self .., by simp [hj]⟩
        · simp only [kfind, if_neg hj] at hn
          obtain ⟨y, hy, hq⟩ := iht hn
          exact ⟨y, List.mem_cons_of_mem _ hy, hq⟩
    omega

/-- A log that is not full has an empty slot. -/
theorem logSlot_empty {slots : KMap LogEntry} (h : slots.length < 1024) : ∃ i, logSlot slots = some i ∧ kfind slots i = none := by
  unfold logSlot
  rw [if_pos h]
  cases hf : (List.range 1024).find? fun i => (kfind slots i).isNone with
  | some i => exact ⟨i, rfl, by simpa using List.find?_some hf⟩
  | none =>
    rw [List.find?_eq_none] at hf
    have := le_length_of_keys 1024 slots (fun i hi => by
      have := hf i (List.mem_range.mpr hi)
      simpa [Option.isSome_iff_ne_none] using this)
    omega

theorem raiseVector_err (s : State) (v : Nat) : (raiseVector s v).err = s.err := raiseVector_frame s v .err (by decide)

/-- The first occurrence of a code and context enters a log that is not full (R427). -/
theorem logErr_logged (s : State) (code : Nat) (ctx : Option Nat) (detail : BitVec 128) : Logged s (logErr s code ctx detail) code ctx detail := by
  intro hl hn
  obtain ⟨i, hs, hk⟩ := logSlot_empty hn
  unfold logErr
  dsimp only
  rw [hl]
  dsimp only
  rw [hs]
  dsimp only
  simp only [Bool.false_eq_true, if_false]
  refine ⟨i, ⟨code, sevOf code, false, ctx, satAdd max32 (histOf s.err code ctx).count 1, s.clk.uptime, detail⟩, hk, ?_, rfl, rfl, rfl, rfl, rfl, ?_, ?_⟩
  · split
    · exact kfind_kput_self _ _ _
    · rw [raiseVector_err]
      exact kfind_kput_self _ _ _
  · split
    · rfl
    · rw [raiseVector_err]
      rfl
  · split
    · rfl
    · rw [raiseVector_err]
      rfl

end Sys2Proof.Laws
end

