-- ==== Sys2Proof/Laws/State.lean ====
section
/-! SUPPORT. One lemma per field of State and per update of a field, true by rfl, so that no later proof
unfolds a record update. -/

namespace Sys2Proof.Machine.State

@[simp] theorem upd_pending_pending (s : State) (v) : { s with pending := v }.pending = v := rfl
@[simp] theorem upd_pending_boot (s : State) (v) : { s with pending := v }.boot = s.boot := rfl
@[simp] theorem upd_pending_clk (s : State) (v) : { s with pending := v }.clk = s.clk := rfl
@[simp] theorem upd_pending_regs (s : State) (v) : { s with pending := v }.regs = s.regs := rfl
@[simp] theorem upd_pending_err (s : State) (v) : { s with pending := v }.err = s.err := rfl
@[simp] theorem upd_pending_msix (s : State) (v) : { s with pending := v }.msix = s.msix := rfl
@[simp] theorem upd_pending_host (s : State) (v) : { s with pending := v }.host = s.host := rfl
@[simp] theorem upd_pending_admin (s : State) (v) : { s with pending := v }.admin = s.admin := rfl
@[simp] theorem upd_pending_rings (s : State) (v) : { s with pending := v }.rings = s.rings := rfl
@[simp] theorem upd_pending_ctxs (s : State) (v) : { s with pending := v }.ctxs = s.ctxs := rfl
@[simp] theorem upd_pending_steps (s : State) (v) : { s with pending := v }.steps = s.steps := rfl
@[simp] theorem upd_pending_sched (s : State) (v) : { s with pending := v }.sched = s.sched := rfl
@[simp] theorem upd_pending_pm (s : State) (v) : { s with pending := v }.pm = s.pm := rfl
@[simp] theorem upd_pending_sm (s : State) (v) : { s with pending := v }.sm = s.sm := rfl
@[simp] theorem upd_pending_ports (s : State) (v) : { s with pending := v }.ports = s.ports := rfl
@[simp] theorem upd_pending_slory (s : State) (v) : { s with pending := v }.slory = s.slory := rfl
@[simp] theorem upd_pending_store (s : State) (v) : { s with pending := v }.store = s.store := rfl
@[simp] theorem upd_pending_power (s : State) (v) : { s with pending := v }.power = s.power := rfl
@[simp] theorem upd_pending_mgmt (s : State) (v) : { s with pending := v }.mgmt = s.mgmt := rfl
@[simp] theorem upd_pending_diag (s : State) (v) : { s with pending := v }.diag = s.diag := rfl
@[simp] theorem upd_pending_free (s : State) (v) : { s with pending := v }.free = s.free := rfl
@[simp] theorem upd_pending_out (s : State) (v) : { s with pending := v }.out = s.out := rfl
@[simp] theorem upd_boot_pending (s : State) (v) : { s with boot := v }.pending = s.pending := rfl
@[simp] theorem upd_boot_boot (s : State) (v) : { s with boot := v }.boot = v := rfl
@[simp] theorem upd_boot_clk (s : State) (v) : { s with boot := v }.clk = s.clk := rfl
@[simp] theorem upd_boot_regs (s : State) (v) : { s with boot := v }.regs = s.regs := rfl
@[simp] theorem upd_boot_err (s : State) (v) : { s with boot := v }.err = s.err := rfl
@[simp] theorem upd_boot_msix (s : State) (v) : { s with boot := v }.msix = s.msix := rfl
@[simp] theorem upd_boot_host (s : State) (v) : { s with boot := v }.host = s.host := rfl
@[simp] theorem upd_boot_admin (s : State) (v) : { s with boot := v }.admin = s.admin := rfl
@[simp] theorem upd_boot_rings (s : State) (v) : { s with boot := v }.rings = s.rings := rfl
@[simp] theorem upd_boot_ctxs (s : State) (v) : { s with boot := v }.ctxs = s.ctxs := rfl
@[simp] theorem upd_boot_steps (s : State) (v) : { s with boot := v }.steps = s.steps := rfl
@[simp] theorem upd_boot_sched (s : State) (v) : { s with boot := v }.sched = s.sched := rfl
@[simp] theorem upd_boot_pm (s : State) (v) : { s with boot := v }.pm = s.pm := rfl
@[simp] theorem upd_boot_sm (s : State) (v) : { s with boot := v }.sm = s.sm := rfl
@[simp] theorem upd_boot_ports (s : State) (v) : { s with boot := v }.ports = s.ports := rfl
@[simp] theorem upd_boot_slory (s : State) (v) : { s with boot := v }.slory = s.slory := rfl
@[simp] theorem upd_boot_store (s : State) (v) : { s with boot := v }.store = s.store := rfl
@[simp] theorem upd_boot_power (s : State) (v) : { s with boot := v }.power = s.power := rfl
@[simp] theorem upd_boot_mgmt (s : State) (v) : { s with boot := v }.mgmt = s.mgmt := rfl
@[simp] theorem upd_boot_diag (s : State) (v) : { s with boot := v }.diag = s.diag := rfl
@[simp] theorem upd_boot_free (s : State) (v) : { s with boot := v }.free = s.free := rfl
@[simp] theorem upd_boot_out (s : State) (v) : { s with boot := v }.out = s.out := rfl
@[simp] theorem upd_clk_pending (s : State) (v) : { s with clk := v }.pending = s.pending := rfl
@[simp] theorem upd_clk_boot (s : State) (v) : { s with clk := v }.boot = s.boot := rfl
@[simp] theorem upd_clk_clk (s : State) (v) : { s with clk := v }.clk = v := rfl
@[simp] theorem upd_clk_regs (s : State) (v) : { s with clk := v }.regs = s.regs := rfl
@[simp] theorem upd_clk_err (s : State) (v) : { s with clk := v }.err = s.err := rfl
@[simp] theorem upd_clk_msix (s : State) (v) : { s with clk := v }.msix = s.msix := rfl
@[simp] theorem upd_clk_host (s : State) (v) : { s with clk := v }.host = s.host := rfl
@[simp] theorem upd_clk_admin (s : State) (v) : { s with clk := v }.admin = s.admin := rfl
@[simp] theorem upd_clk_rings (s : State) (v) : { s with clk := v }.rings = s.rings := rfl
@[simp] theorem upd_clk_ctxs (s : State) (v) : { s with clk := v }.ctxs = s.ctxs := rfl
@[simp] theorem upd_clk_steps (s : State) (v) : { s with clk := v }.steps = s.steps := rfl
@[simp] theorem upd_clk_sched (s : State) (v) : { s with clk := v }.sched = s.sched := rfl
@[simp] theorem upd_clk_pm (s : State) (v) : { s with clk := v }.pm = s.pm := rfl
@[simp] theorem upd_clk_sm (s : State) (v) : { s with clk := v }.sm = s.sm := rfl
@[simp] theorem upd_clk_ports (s : State) (v) : { s with clk := v }.ports = s.ports := rfl
@[simp] theorem upd_clk_slory (s : State) (v) : { s with clk := v }.slory = s.slory := rfl
@[simp] theorem upd_clk_store (s : State) (v) : { s with clk := v }.store = s.store := rfl
@[simp] theorem upd_clk_power (s : State) (v) : { s with clk := v }.power = s.power := rfl
@[simp] theorem upd_clk_mgmt (s : State) (v) : { s with clk := v }.mgmt = s.mgmt := rfl
@[simp] theorem upd_clk_diag (s : State) (v) : { s with clk := v }.diag = s.diag := rfl
@[simp] theorem upd_clk_free (s : State) (v) : { s with clk := v }.free = s.free := rfl
@[simp] theorem upd_clk_out (s : State) (v) : { s with clk := v }.out = s.out := rfl
@[simp] theorem upd_regs_pending (s : State) (v) : { s with regs := v }.pending = s.pending := rfl
@[simp] theorem upd_regs_boot (s : State) (v) : { s with regs := v }.boot = s.boot := rfl
@[simp] theorem upd_regs_clk (s : State) (v) : { s with regs := v }.clk = s.clk := rfl
@[simp] theorem upd_regs_regs (s : State) (v) : { s with regs := v }.regs = v := rfl
@[simp] theorem upd_regs_err (s : State) (v) : { s with regs := v }.err = s.err := rfl
@[simp] theorem upd_regs_msix (s : State) (v) : { s with regs := v }.msix = s.msix := rfl
@[simp] theorem upd_regs_host (s : State) (v) : { s with regs := v }.host = s.host := rfl
@[simp] theorem upd_regs_admin (s : State) (v) : { s with regs := v }.admin = s.admin := rfl
@[simp] theorem upd_regs_rings (s : State) (v) : { s with regs := v }.rings = s.rings := rfl
@[simp] theorem upd_regs_ctxs (s : State) (v) : { s with regs := v }.ctxs = s.ctxs := rfl
@[simp] theorem upd_regs_steps (s : State) (v) : { s with regs := v }.steps = s.steps := rfl
@[simp] theorem upd_regs_sched (s : State) (v) : { s with regs := v }.sched = s.sched := rfl
@[simp] theorem upd_regs_pm (s : State) (v) : { s with regs := v }.pm = s.pm := rfl
@[simp] theorem upd_regs_sm (s : State) (v) : { s with regs := v }.sm = s.sm := rfl
@[simp] theorem upd_regs_ports (s : State) (v) : { s with regs := v }.ports = s.ports := rfl
@[simp] theorem upd_regs_slory (s : State) (v) : { s with regs := v }.slory = s.slory := rfl
@[simp] theorem upd_regs_store (s : State) (v) : { s with regs := v }.store = s.store := rfl
@[simp] theorem upd_regs_power (s : State) (v) : { s with regs := v }.power = s.power := rfl
@[simp] theorem upd_regs_mgmt (s : State) (v) : { s with regs := v }.mgmt = s.mgmt := rfl
@[simp] theorem upd_regs_diag (s : State) (v) : { s with regs := v }.diag = s.diag := rfl
@[simp] theorem upd_regs_free (s : State) (v) : { s with regs := v }.free = s.free := rfl
@[simp] theorem upd_regs_out (s : State) (v) : { s with regs := v }.out = s.out := rfl
@[simp] theorem upd_err_pending (s : State) (v) : { s with err := v }.pending = s.pending := rfl
@[simp] theorem upd_err_boot (s : State) (v) : { s with err := v }.boot = s.boot := rfl
@[simp] theorem upd_err_clk (s : State) (v) : { s with err := v }.clk = s.clk := rfl
@[simp] theorem upd_err_regs (s : State) (v) : { s with err := v }.regs = s.regs := rfl
@[simp] theorem upd_err_err (s : State) (v) : { s with err := v }.err = v := rfl
@[simp] theorem upd_err_msix (s : State) (v) : { s with err := v }.msix = s.msix := rfl
@[simp] theorem upd_err_host (s : State) (v) : { s with err := v }.host = s.host := rfl
@[simp] theorem upd_err_admin (s : State) (v) : { s with err := v }.admin = s.admin := rfl
@[simp] theorem upd_err_rings (s : State) (v) : { s with err := v }.rings = s.rings := rfl
@[simp] theorem upd_err_ctxs (s : State) (v) : { s with err := v }.ctxs = s.ctxs := rfl
@[simp] theorem upd_err_steps (s : State) (v) : { s with err := v }.steps = s.steps := rfl
@[simp] theorem upd_err_sched (s : State) (v) : { s with err := v }.sched = s.sched := rfl
@[simp] theorem upd_err_pm (s : State) (v) : { s with err := v }.pm = s.pm := rfl
@[simp] theorem upd_err_sm (s : State) (v) : { s with err := v }.sm = s.sm := rfl
@[simp] theorem upd_err_ports (s : State) (v) : { s with err := v }.ports = s.ports := rfl
@[simp] theorem upd_err_slory (s : State) (v) : { s with err := v }.slory = s.slory := rfl
@[simp] theorem upd_err_store (s : State) (v) : { s with err := v }.store = s.store := rfl
@[simp] theorem upd_err_power (s : State) (v) : { s with err := v }.power = s.power := rfl
@[simp] theorem upd_err_mgmt (s : State) (v) : { s with err := v }.mgmt = s.mgmt := rfl
@[simp] theorem upd_err_diag (s : State) (v) : { s with err := v }.diag = s.diag := rfl
@[simp] theorem upd_err_free (s : State) (v) : { s with err := v }.free = s.free := rfl
@[simp] theorem upd_err_out (s : State) (v) : { s with err := v }.out = s.out := rfl
@[simp] theorem upd_msix_pending (s : State) (v) : { s with msix := v }.pending = s.pending := rfl
@[simp] theorem upd_msix_boot (s : State) (v) : { s with msix := v }.boot = s.boot := rfl
@[simp] theorem upd_msix_clk (s : State) (v) : { s with msix := v }.clk = s.clk := rfl
@[simp] theorem upd_msix_regs (s : State) (v) : { s with msix := v }.regs = s.regs := rfl
@[simp] theorem upd_msix_err (s : State) (v) : { s with msix := v }.err = s.err := rfl
@[simp] theorem upd_msix_msix (s : State) (v) : { s with msix := v }.msix = v := rfl
@[simp] theorem upd_msix_host (s : State) (v) : { s with msix := v }.host = s.host := rfl
@[simp] theorem upd_msix_admin (s : State) (v) : { s with msix := v }.admin = s.admin := rfl
@[simp] theorem upd_msix_rings (s : State) (v) : { s with msix := v }.rings = s.rings := rfl
@[simp] theorem upd_msix_ctxs (s : State) (v) : { s with msix := v }.ctxs = s.ctxs := rfl
@[simp] theorem upd_msix_steps (s : State) (v) : { s with msix := v }.steps = s.steps := rfl
@[simp] theorem upd_msix_sched (s : State) (v) : { s with msix := v }.sched = s.sched := rfl
@[simp] theorem upd_msix_pm (s : State) (v) : { s with msix := v }.pm = s.pm := rfl
@[simp] theorem upd_msix_sm (s : State) (v) : { s with msix := v }.sm = s.sm := rfl
@[simp] theorem upd_msix_ports (s : State) (v) : { s with msix := v }.ports = s.ports := rfl
@[simp] theorem upd_msix_slory (s : State) (v) : { s with msix := v }.slory = s.slory := rfl
@[simp] theorem upd_msix_store (s : State) (v) : { s with msix := v }.store = s.store := rfl
@[simp] theorem upd_msix_power (s : State) (v) : { s with msix := v }.power = s.power := rfl
@[simp] theorem upd_msix_mgmt (s : State) (v) : { s with msix := v }.mgmt = s.mgmt := rfl
@[simp] theorem upd_msix_diag (s : State) (v) : { s with msix := v }.diag = s.diag := rfl
@[simp] theorem upd_msix_free (s : State) (v) : { s with msix := v }.free = s.free := rfl
@[simp] theorem upd_msix_out (s : State) (v) : { s with msix := v }.out = s.out := rfl
@[simp] theorem upd_host_pending (s : State) (v) : { s with host := v }.pending = s.pending := rfl
@[simp] theorem upd_host_boot (s : State) (v) : { s with host := v }.boot = s.boot := rfl
@[simp] theorem upd_host_clk (s : State) (v) : { s with host := v }.clk = s.clk := rfl
@[simp] theorem upd_host_regs (s : State) (v) : { s with host := v }.regs = s.regs := rfl
@[simp] theorem upd_host_err (s : State) (v) : { s with host := v }.err = s.err := rfl
@[simp] theorem upd_host_msix (s : State) (v) : { s with host := v }.msix = s.msix := rfl
@[simp] theorem upd_host_host (s : State) (v) : { s with host := v }.host = v := rfl
@[simp] theorem upd_host_admin (s : State) (v) : { s with host := v }.admin = s.admin := rfl
@[simp] theorem upd_host_rings (s : State) (v) : { s with host := v }.rings = s.rings := rfl
@[simp] theorem upd_host_ctxs (s : State) (v) : { s with host := v }.ctxs = s.ctxs := rfl
@[simp] theorem upd_host_steps (s : State) (v) : { s with host := v }.steps = s.steps := rfl
@[simp] theorem upd_host_sched (s : State) (v) : { s with host := v }.sched = s.sched := rfl
@[simp] theorem upd_host_pm (s : State) (v) : { s with host := v }.pm = s.pm := rfl
@[simp] theorem upd_host_sm (s : State) (v) : { s with host := v }.sm = s.sm := rfl
@[simp] theorem upd_host_ports (s : State) (v) : { s with host := v }.ports = s.ports := rfl
@[simp] theorem upd_host_slory (s : State) (v) : { s with host := v }.slory = s.slory := rfl
@[simp] theorem upd_host_store (s : State) (v) : { s with host := v }.store = s.store := rfl
@[simp] theorem upd_host_power (s : State) (v) : { s with host := v }.power = s.power := rfl
@[simp] theorem upd_host_mgmt (s : State) (v) : { s with host := v }.mgmt = s.mgmt := rfl
@[simp] theorem upd_host_diag (s : State) (v) : { s with host := v }.diag = s.diag := rfl
@[simp] theorem upd_host_free (s : State) (v) : { s with host := v }.free = s.free := rfl
@[simp] theorem upd_host_out (s : State) (v) : { s with host := v }.out = s.out := rfl
@[simp] theorem upd_admin_pending (s : State) (v) : { s with admin := v }.pending = s.pending := rfl
@[simp] theorem upd_admin_boot (s : State) (v) : { s with admin := v }.boot = s.boot := rfl
@[simp] theorem upd_admin_clk (s : State) (v) : { s with admin := v }.clk = s.clk := rfl
@[simp] theorem upd_admin_regs (s : State) (v) : { s with admin := v }.regs = s.regs := rfl
@[simp] theorem upd_admin_err (s : State) (v) : { s with admin := v }.err = s.err := rfl
@[simp] theorem upd_admin_msix (s : State) (v) : { s with admin := v }.msix = s.msix := rfl
@[simp] theorem upd_admin_host (s : State) (v) : { s with admin := v }.host = s.host := rfl
@[simp] theorem upd_admin_admin (s : State) (v) : { s with admin := v }.admin = v := rfl
@[simp] theorem upd_admin_rings (s : State) (v) : { s with admin := v }.rings = s.rings := rfl
@[simp] theorem upd_admin_ctxs (s : State) (v) : { s with admin := v }.ctxs = s.ctxs := rfl
@[simp] theorem upd_admin_steps (s : State) (v) : { s with admin := v }.steps = s.steps := rfl
@[simp] theorem upd_admin_sched (s : State) (v) : { s with admin := v }.sched = s.sched := rfl
@[simp] theorem upd_admin_pm (s : State) (v) : { s with admin := v }.pm = s.pm := rfl
@[simp] theorem upd_admin_sm (s : State) (v) : { s with admin := v }.sm = s.sm := rfl
@[simp] theorem upd_admin_ports (s : State) (v) : { s with admin := v }.ports = s.ports := rfl
@[simp] theorem upd_admin_slory (s : State) (v) : { s with admin := v }.slory = s.slory := rfl
@[simp] theorem upd_admin_store (s : State) (v) : { s with admin := v }.store = s.store := rfl
@[simp] theorem upd_admin_power (s : State) (v) : { s with admin := v }.power = s.power := rfl
@[simp] theorem upd_admin_mgmt (s : State) (v) : { s with admin := v }.mgmt = s.mgmt := rfl
@[simp] theorem upd_admin_diag (s : State) (v) : { s with admin := v }.diag = s.diag := rfl
@[simp] theorem upd_admin_free (s : State) (v) : { s with admin := v }.free = s.free := rfl
@[simp] theorem upd_admin_out (s : State) (v) : { s with admin := v }.out = s.out := rfl
@[simp] theorem upd_rings_pending (s : State) (v) : { s with rings := v }.pending = s.pending := rfl
@[simp] theorem upd_rings_boot (s : State) (v) : { s with rings := v }.boot = s.boot := rfl
@[simp] theorem upd_rings_clk (s : State) (v) : { s with rings := v }.clk = s.clk := rfl
@[simp] theorem upd_rings_regs (s : State) (v) : { s with rings := v }.regs = s.regs := rfl
@[simp] theorem upd_rings_err (s : State) (v) : { s with rings := v }.err = s.err := rfl
@[simp] theorem upd_rings_msix (s : State) (v) : { s with rings := v }.msix = s.msix := rfl
@[simp] theorem upd_rings_host (s : State) (v) : { s with rings := v }.host = s.host := rfl
@[simp] theorem upd_rings_admin (s : State) (v) : { s with rings := v }.admin = s.admin := rfl
@[simp] theorem upd_rings_rings (s : State) (v) : { s with rings := v }.rings = v := rfl
@[simp] theorem upd_rings_ctxs (s : State) (v) : { s with rings := v }.ctxs = s.ctxs := rfl
@[simp] theorem upd_rings_steps (s : State) (v) : { s with rings := v }.steps = s.steps := rfl
@[simp] theorem upd_rings_sched (s : State) (v) : { s with rings := v }.sched = s.sched := rfl
@[simp] theorem upd_rings_pm (s : State) (v) : { s with rings := v }.pm = s.pm := rfl
@[simp] theorem upd_rings_sm (s : State) (v) : { s with rings := v }.sm = s.sm := rfl
@[simp] theorem upd_rings_ports (s : State) (v) : { s with rings := v }.ports = s.ports := rfl
@[simp] theorem upd_rings_slory (s : State) (v) : { s with rings := v }.slory = s.slory := rfl
@[simp] theorem upd_rings_store (s : State) (v) : { s with rings := v }.store = s.store := rfl
@[simp] theorem upd_rings_power (s : State) (v) : { s with rings := v }.power = s.power := rfl
@[simp] theorem upd_rings_mgmt (s : State) (v) : { s with rings := v }.mgmt = s.mgmt := rfl
@[simp] theorem upd_rings_diag (s : State) (v) : { s with rings := v }.diag = s.diag := rfl
@[simp] theorem upd_rings_free (s : State) (v) : { s with rings := v }.free = s.free := rfl
@[simp] theorem upd_rings_out (s : State) (v) : { s with rings := v }.out = s.out := rfl
@[simp] theorem upd_ctxs_pending (s : State) (v) : { s with ctxs := v }.pending = s.pending := rfl
@[simp] theorem upd_ctxs_boot (s : State) (v) : { s with ctxs := v }.boot = s.boot := rfl
@[simp] theorem upd_ctxs_clk (s : State) (v) : { s with ctxs := v }.clk = s.clk := rfl
@[simp] theorem upd_ctxs_regs (s : State) (v) : { s with ctxs := v }.regs = s.regs := rfl
@[simp] theorem upd_ctxs_err (s : State) (v) : { s with ctxs := v }.err = s.err := rfl
@[simp] theorem upd_ctxs_msix (s : State) (v) : { s with ctxs := v }.msix = s.msix := rfl
@[simp] theorem upd_ctxs_host (s : State) (v) : { s with ctxs := v }.host = s.host := rfl
@[simp] theorem upd_ctxs_admin (s : State) (v) : { s with ctxs := v }.admin = s.admin := rfl
@[simp] theorem upd_ctxs_rings (s : State) (v) : { s with ctxs := v }.rings = s.rings := rfl
@[simp] theorem upd_ctxs_ctxs (s : State) (v) : { s with ctxs := v }.ctxs = v := rfl
@[simp] theorem upd_ctxs_steps (s : State) (v) : { s with ctxs := v }.steps = s.steps := rfl
@[simp] theorem upd_ctxs_sched (s : State) (v) : { s with ctxs := v }.sched = s.sched := rfl
@[simp] theorem upd_ctxs_pm (s : State) (v) : { s with ctxs := v }.pm = s.pm := rfl
@[simp] theorem upd_ctxs_sm (s : State) (v) : { s with ctxs := v }.sm = s.sm := rfl
@[simp] theorem upd_ctxs_ports (s : State) (v) : { s with ctxs := v }.ports = s.ports := rfl
@[simp] theorem upd_ctxs_slory (s : State) (v) : { s with ctxs := v }.slory = s.slory := rfl
@[simp] theorem upd_ctxs_store (s : State) (v) : { s with ctxs := v }.store = s.store := rfl
@[simp] theorem upd_ctxs_power (s : State) (v) : { s with ctxs := v }.power = s.power := rfl
@[simp] theorem upd_ctxs_mgmt (s : State) (v) : { s with ctxs := v }.mgmt = s.mgmt := rfl
@[simp] theorem upd_ctxs_diag (s : State) (v) : { s with ctxs := v }.diag = s.diag := rfl
@[simp] theorem upd_ctxs_free (s : State) (v) : { s with ctxs := v }.free = s.free := rfl
@[simp] theorem upd_ctxs_out (s : State) (v) : { s with ctxs := v }.out = s.out := rfl
@[simp] theorem upd_steps_pending (s : State) (v) : { s with steps := v }.pending = s.pending := rfl
@[simp] theorem upd_steps_boot (s : State) (v) : { s with steps := v }.boot = s.boot := rfl
@[simp] theorem upd_steps_clk (s : State) (v) : { s with steps := v }.clk = s.clk := rfl
@[simp] theorem upd_steps_regs (s : State) (v) : { s with steps := v }.regs = s.regs := rfl
@[simp] theorem upd_steps_err (s : State) (v) : { s with steps := v }.err = s.err := rfl
@[simp] theorem upd_steps_msix (s : State) (v) : { s with steps := v }.msix = s.msix := rfl
@[simp] theorem upd_steps_host (s : State) (v) : { s with steps := v }.host = s.host := rfl
@[simp] theorem upd_steps_admin (s : State) (v) : { s with steps := v }.admin = s.admin := rfl
@[simp] theorem upd_steps_rings (s : State) (v) : { s with steps := v }.rings = s.rings := rfl
@[simp] theorem upd_steps_ctxs (s : State) (v) : { s with steps := v }.ctxs = s.ctxs := rfl
@[simp] theorem upd_steps_steps (s : State) (v) : { s with steps := v }.steps = v := rfl
@[simp] theorem upd_steps_sched (s : State) (v) : { s with steps := v }.sched = s.sched := rfl
@[simp] theorem upd_steps_pm (s : State) (v) : { s with steps := v }.pm = s.pm := rfl
@[simp] theorem upd_steps_sm (s : State) (v) : { s with steps := v }.sm = s.sm := rfl
@[simp] theorem upd_steps_ports (s : State) (v) : { s with steps := v }.ports = s.ports := rfl
@[simp] theorem upd_steps_slory (s : State) (v) : { s with steps := v }.slory = s.slory := rfl
@[simp] theorem upd_steps_store (s : State) (v) : { s with steps := v }.store = s.store := rfl
@[simp] theorem upd_steps_power (s : State) (v) : { s with steps := v }.power = s.power := rfl
@[simp] theorem upd_steps_mgmt (s : State) (v) : { s with steps := v }.mgmt = s.mgmt := rfl
@[simp] theorem upd_steps_diag (s : State) (v) : { s with steps := v }.diag = s.diag := rfl
@[simp] theorem upd_steps_free (s : State) (v) : { s with steps := v }.free = s.free := rfl
@[simp] theorem upd_steps_out (s : State) (v) : { s with steps := v }.out = s.out := rfl
@[simp] theorem upd_sched_pending (s : State) (v) : { s with sched := v }.pending = s.pending := rfl
@[simp] theorem upd_sched_boot (s : State) (v) : { s with sched := v }.boot = s.boot := rfl
@[simp] theorem upd_sched_clk (s : State) (v) : { s with sched := v }.clk = s.clk := rfl
@[simp] theorem upd_sched_regs (s : State) (v) : { s with sched := v }.regs = s.regs := rfl
@[simp] theorem upd_sched_err (s : State) (v) : { s with sched := v }.err = s.err := rfl
@[simp] theorem upd_sched_msix (s : State) (v) : { s with sched := v }.msix = s.msix := rfl
@[simp] theorem upd_sched_host (s : State) (v) : { s with sched := v }.host = s.host := rfl
@[simp] theorem upd_sched_admin (s : State) (v) : { s with sched := v }.admin = s.admin := rfl
@[simp] theorem upd_sched_rings (s : State) (v) : { s with sched := v }.rings = s.rings := rfl
@[simp] theorem upd_sched_ctxs (s : State) (v) : { s with sched := v }.ctxs = s.ctxs := rfl
@[simp] theorem upd_sched_steps (s : State) (v) : { s with sched := v }.steps = s.steps := rfl
@[simp] theorem upd_sched_sched (s : State) (v) : { s with sched := v }.sched = v := rfl
@[simp] theorem upd_sched_pm (s : State) (v) : { s with sched := v }.pm = s.pm := rfl
@[simp] theorem upd_sched_sm (s : State) (v) : { s with sched := v }.sm = s.sm := rfl
@[simp] theorem upd_sched_ports (s : State) (v) : { s with sched := v }.ports = s.ports := rfl
@[simp] theorem upd_sched_slory (s : State) (v) : { s with sched := v }.slory = s.slory := rfl
@[simp] theorem upd_sched_store (s : State) (v) : { s with sched := v }.store = s.store := rfl
@[simp] theorem upd_sched_power (s : State) (v) : { s with sched := v }.power = s.power := rfl
@[simp] theorem upd_sched_mgmt (s : State) (v) : { s with sched := v }.mgmt = s.mgmt := rfl
@[simp] theorem upd_sched_diag (s : State) (v) : { s with sched := v }.diag = s.diag := rfl
@[simp] theorem upd_sched_free (s : State) (v) : { s with sched := v }.free = s.free := rfl
@[simp] theorem upd_sched_out (s : State) (v) : { s with sched := v }.out = s.out := rfl
@[simp] theorem upd_pm_pending (s : State) (v) : { s with pm := v }.pending = s.pending := rfl
@[simp] theorem upd_pm_boot (s : State) (v) : { s with pm := v }.boot = s.boot := rfl
@[simp] theorem upd_pm_clk (s : State) (v) : { s with pm := v }.clk = s.clk := rfl
@[simp] theorem upd_pm_regs (s : State) (v) : { s with pm := v }.regs = s.regs := rfl
@[simp] theorem upd_pm_err (s : State) (v) : { s with pm := v }.err = s.err := rfl
@[simp] theorem upd_pm_msix (s : State) (v) : { s with pm := v }.msix = s.msix := rfl
@[simp] theorem upd_pm_host (s : State) (v) : { s with pm := v }.host = s.host := rfl
@[simp] theorem upd_pm_admin (s : State) (v) : { s with pm := v }.admin = s.admin := rfl
@[simp] theorem upd_pm_rings (s : State) (v) : { s with pm := v }.rings = s.rings := rfl
@[simp] theorem upd_pm_ctxs (s : State) (v) : { s with pm := v }.ctxs = s.ctxs := rfl
@[simp] theorem upd_pm_steps (s : State) (v) : { s with pm := v }.steps = s.steps := rfl
@[simp] theorem upd_pm_sched (s : State) (v) : { s with pm := v }.sched = s.sched := rfl
@[simp] theorem upd_pm_pm (s : State) (v) : { s with pm := v }.pm = v := rfl
@[simp] theorem upd_pm_sm (s : State) (v) : { s with pm := v }.sm = s.sm := rfl
@[simp] theorem upd_pm_ports (s : State) (v) : { s with pm := v }.ports = s.ports := rfl
@[simp] theorem upd_pm_slory (s : State) (v) : { s with pm := v }.slory = s.slory := rfl
@[simp] theorem upd_pm_store (s : State) (v) : { s with pm := v }.store = s.store := rfl
@[simp] theorem upd_pm_power (s : State) (v) : { s with pm := v }.power = s.power := rfl
@[simp] theorem upd_pm_mgmt (s : State) (v) : { s with pm := v }.mgmt = s.mgmt := rfl
@[simp] theorem upd_pm_diag (s : State) (v) : { s with pm := v }.diag = s.diag := rfl
@[simp] theorem upd_pm_free (s : State) (v) : { s with pm := v }.free = s.free := rfl
@[simp] theorem upd_pm_out (s : State) (v) : { s with pm := v }.out = s.out := rfl
@[simp] theorem upd_sm_pending (s : State) (v) : { s with sm := v }.pending = s.pending := rfl
@[simp] theorem upd_sm_boot (s : State) (v) : { s with sm := v }.boot = s.boot := rfl
@[simp] theorem upd_sm_clk (s : State) (v) : { s with sm := v }.clk = s.clk := rfl
@[simp] theorem upd_sm_regs (s : State) (v) : { s with sm := v }.regs = s.regs := rfl
@[simp] theorem upd_sm_err (s : State) (v) : { s with sm := v }.err = s.err := rfl
@[simp] theorem upd_sm_msix (s : State) (v) : { s with sm := v }.msix = s.msix := rfl
@[simp] theorem upd_sm_host (s : State) (v) : { s with sm := v }.host = s.host := rfl
@[simp] theorem upd_sm_admin (s : State) (v) : { s with sm := v }.admin = s.admin := rfl
@[simp] theorem upd_sm_rings (s : State) (v) : { s with sm := v }.rings = s.rings := rfl
@[simp] theorem upd_sm_ctxs (s : State) (v) : { s with sm := v }.ctxs = s.ctxs := rfl
@[simp] theorem upd_sm_steps (s : State) (v) : { s with sm := v }.steps = s.steps := rfl
@[simp] theorem upd_sm_sched (s : State) (v) : { s with sm := v }.sched = s.sched := rfl
@[simp] theorem upd_sm_pm (s : State) (v) : { s with sm := v }.pm = s.pm := rfl
@[simp] theorem upd_sm_sm (s : State) (v) : { s with sm := v }.sm = v := rfl
@[simp] theorem upd_sm_ports (s : State) (v) : { s with sm := v }.ports = s.ports := rfl
@[simp] theorem upd_sm_slory (s : State) (v) : { s with sm := v }.slory = s.slory := rfl
@[simp] theorem upd_sm_store (s : State) (v) : { s with sm := v }.store = s.store := rfl
@[simp] theorem upd_sm_power (s : State) (v) : { s with sm := v }.power = s.power := rfl
@[simp] theorem upd_sm_mgmt (s : State) (v) : { s with sm := v }.mgmt = s.mgmt := rfl
@[simp] theorem upd_sm_diag (s : State) (v) : { s with sm := v }.diag = s.diag := rfl
@[simp] theorem upd_sm_free (s : State) (v) : { s with sm := v }.free = s.free := rfl
@[simp] theorem upd_sm_out (s : State) (v) : { s with sm := v }.out = s.out := rfl
@[simp] theorem upd_ports_pending (s : State) (v) : { s with ports := v }.pending = s.pending := rfl
@[simp] theorem upd_ports_boot (s : State) (v) : { s with ports := v }.boot = s.boot := rfl
@[simp] theorem upd_ports_clk (s : State) (v) : { s with ports := v }.clk = s.clk := rfl
@[simp] theorem upd_ports_regs (s : State) (v) : { s with ports := v }.regs = s.regs := rfl
@[simp] theorem upd_ports_err (s : State) (v) : { s with ports := v }.err = s.err := rfl
@[simp] theorem upd_ports_msix (s : State) (v) : { s with ports := v }.msix = s.msix := rfl
@[simp] theorem upd_ports_host (s : State) (v) : { s with ports := v }.host = s.host := rfl
@[simp] theorem upd_ports_admin (s : State) (v) : { s with ports := v }.admin = s.admin := rfl
@[simp] theorem upd_ports_rings (s : State) (v) : { s with ports := v }.rings = s.rings := rfl
@[simp] theorem upd_ports_ctxs (s : State) (v) : { s with ports := v }.ctxs = s.ctxs := rfl
@[simp] theorem upd_ports_steps (s : State) (v) : { s with ports := v }.steps = s.steps := rfl
@[simp] theorem upd_ports_sched (s : State) (v) : { s with ports := v }.sched = s.sched := rfl
@[simp] theorem upd_ports_pm (s : State) (v) : { s with ports := v }.pm = s.pm := rfl
@[simp] theorem upd_ports_sm (s : State) (v) : { s with ports := v }.sm = s.sm := rfl
@[simp] theorem upd_ports_ports (s : State) (v) : { s with ports := v }.ports = v := rfl
@[simp] theorem upd_ports_slory (s : State) (v) : { s with ports := v }.slory = s.slory := rfl
@[simp] theorem upd_ports_store (s : State) (v) : { s with ports := v }.store = s.store := rfl
@[simp] theorem upd_ports_power (s : State) (v) : { s with ports := v }.power = s.power := rfl
@[simp] theorem upd_ports_mgmt (s : State) (v) : { s with ports := v }.mgmt = s.mgmt := rfl
@[simp] theorem upd_ports_diag (s : State) (v) : { s with ports := v }.diag = s.diag := rfl
@[simp] theorem upd_ports_free (s : State) (v) : { s with ports := v }.free = s.free := rfl
@[simp] theorem upd_ports_out (s : State) (v) : { s with ports := v }.out = s.out := rfl
@[simp] theorem upd_slory_pending (s : State) (v) : { s with slory := v }.pending = s.pending := rfl
@[simp] theorem upd_slory_boot (s : State) (v) : { s with slory := v }.boot = s.boot := rfl
@[simp] theorem upd_slory_clk (s : State) (v) : { s with slory := v }.clk = s.clk := rfl
@[simp] theorem upd_slory_regs (s : State) (v) : { s with slory := v }.regs = s.regs := rfl
@[simp] theorem upd_slory_err (s : State) (v) : { s with slory := v }.err = s.err := rfl
@[simp] theorem upd_slory_msix (s : State) (v) : { s with slory := v }.msix = s.msix := rfl
@[simp] theorem upd_slory_host (s : State) (v) : { s with slory := v }.host = s.host := rfl
@[simp] theorem upd_slory_admin (s : State) (v) : { s with slory := v }.admin = s.admin := rfl
@[simp] theorem upd_slory_rings (s : State) (v) : { s with slory := v }.rings = s.rings := rfl
@[simp] theorem upd_slory_ctxs (s : State) (v) : { s with slory := v }.ctxs = s.ctxs := rfl
@[simp] theorem upd_slory_steps (s : State) (v) : { s with slory := v }.steps = s.steps := rfl
@[simp] theorem upd_slory_sched (s : State) (v) : { s with slory := v }.sched = s.sched := rfl
@[simp] theorem upd_slory_pm (s : State) (v) : { s with slory := v }.pm = s.pm := rfl
@[simp] theorem upd_slory_sm (s : State) (v) : { s with slory := v }.sm = s.sm := rfl
@[simp] theorem upd_slory_ports (s : State) (v) : { s with slory := v }.ports = s.ports := rfl
@[simp] theorem upd_slory_slory (s : State) (v) : { s with slory := v }.slory = v := rfl
@[simp] theorem upd_slory_store (s : State) (v) : { s with slory := v }.store = s.store := rfl
@[simp] theorem upd_slory_power (s : State) (v) : { s with slory := v }.power = s.power := rfl
@[simp] theorem upd_slory_mgmt (s : State) (v) : { s with slory := v }.mgmt = s.mgmt := rfl
@[simp] theorem upd_slory_diag (s : State) (v) : { s with slory := v }.diag = s.diag := rfl
@[simp] theorem upd_slory_free (s : State) (v) : { s with slory := v }.free = s.free := rfl
@[simp] theorem upd_slory_out (s : State) (v) : { s with slory := v }.out = s.out := rfl
@[simp] theorem upd_store_pending (s : State) (v) : { s with store := v }.pending = s.pending := rfl
@[simp] theorem upd_store_boot (s : State) (v) : { s with store := v }.boot = s.boot := rfl
@[simp] theorem upd_store_clk (s : State) (v) : { s with store := v }.clk = s.clk := rfl
@[simp] theorem upd_store_regs (s : State) (v) : { s with store := v }.regs = s.regs := rfl
@[simp] theorem upd_store_err (s : State) (v) : { s with store := v }.err = s.err := rfl
@[simp] theorem upd_store_msix (s : State) (v) : { s with store := v }.msix = s.msix := rfl
@[simp] theorem upd_store_host (s : State) (v) : { s with store := v }.host = s.host := rfl
@[simp] theorem upd_store_admin (s : State) (v) : { s with store := v }.admin = s.admin := rfl
@[simp] theorem upd_store_rings (s : State) (v) : { s with store := v }.rings = s.rings := rfl
@[simp] theorem upd_store_ctxs (s : State) (v) : { s with store := v }.ctxs = s.ctxs := rfl
@[simp] theorem upd_store_steps (s : State) (v) : { s with store := v }.steps = s.steps := rfl
@[simp] theorem upd_store_sched (s : State) (v) : { s with store := v }.sched = s.sched := rfl
@[simp] theorem upd_store_pm (s : State) (v) : { s with store := v }.pm = s.pm := rfl
@[simp] theorem upd_store_sm (s : State) (v) : { s with store := v }.sm = s.sm := rfl
@[simp] theorem upd_store_ports (s : State) (v) : { s with store := v }.ports = s.ports := rfl
@[simp] theorem upd_store_slory (s : State) (v) : { s with store := v }.slory = s.slory := rfl
@[simp] theorem upd_store_store (s : State) (v) : { s with store := v }.store = v := rfl
@[simp] theorem upd_store_power (s : State) (v) : { s with store := v }.power = s.power := rfl
@[simp] theorem upd_store_mgmt (s : State) (v) : { s with store := v }.mgmt = s.mgmt := rfl
@[simp] theorem upd_store_diag (s : State) (v) : { s with store := v }.diag = s.diag := rfl
@[simp] theorem upd_store_free (s : State) (v) : { s with store := v }.free = s.free := rfl
@[simp] theorem upd_store_out (s : State) (v) : { s with store := v }.out = s.out := rfl
@[simp] theorem upd_power_pending (s : State) (v) : { s with power := v }.pending = s.pending := rfl
@[simp] theorem upd_power_boot (s : State) (v) : { s with power := v }.boot = s.boot := rfl
@[simp] theorem upd_power_clk (s : State) (v) : { s with power := v }.clk = s.clk := rfl
@[simp] theorem upd_power_regs (s : State) (v) : { s with power := v }.regs = s.regs := rfl
@[simp] theorem upd_power_err (s : State) (v) : { s with power := v }.err = s.err := rfl
@[simp] theorem upd_power_msix (s : State) (v) : { s with power := v }.msix = s.msix := rfl
@[simp] theorem upd_power_host (s : State) (v) : { s with power := v }.host = s.host := rfl
@[simp] theorem upd_power_admin (s : State) (v) : { s with power := v }.admin = s.admin := rfl
@[simp] theorem upd_power_rings (s : State) (v) : { s with power := v }.rings = s.rings := rfl
@[simp] theorem upd_power_ctxs (s : State) (v) : { s with power := v }.ctxs = s.ctxs := rfl
@[simp] theorem upd_power_steps (s : State) (v) : { s with power := v }.steps = s.steps := rfl
@[simp] theorem upd_power_sched (s : State) (v) : { s with power := v }.sched = s.sched := rfl
@[simp] theorem upd_power_pm (s : State) (v) : { s with power := v }.pm = s.pm := rfl
@[simp] theorem upd_power_sm (s : State) (v) : { s with power := v }.sm = s.sm := rfl
@[simp] theorem upd_power_ports (s : State) (v) : { s with power := v }.ports = s.ports := rfl
@[simp] theorem upd_power_slory (s : State) (v) : { s with power := v }.slory = s.slory := rfl
@[simp] theorem upd_power_store (s : State) (v) : { s with power := v }.store = s.store := rfl
@[simp] theorem upd_power_power (s : State) (v) : { s with power := v }.power = v := rfl
@[simp] theorem upd_power_mgmt (s : State) (v) : { s with power := v }.mgmt = s.mgmt := rfl
@[simp] theorem upd_power_diag (s : State) (v) : { s with power := v }.diag = s.diag := rfl
@[simp] theorem upd_power_free (s : State) (v) : { s with power := v }.free = s.free := rfl
@[simp] theorem upd_power_out (s : State) (v) : { s with power := v }.out = s.out := rfl
@[simp] theorem upd_mgmt_pending (s : State) (v) : { s with mgmt := v }.pending = s.pending := rfl
@[simp] theorem upd_mgmt_boot (s : State) (v) : { s with mgmt := v }.boot = s.boot := rfl
@[simp] theorem upd_mgmt_clk (s : State) (v) : { s with mgmt := v }.clk = s.clk := rfl
@[simp] theorem upd_mgmt_regs (s : State) (v) : { s with mgmt := v }.regs = s.regs := rfl
@[simp] theorem upd_mgmt_err (s : State) (v) : { s with mgmt := v }.err = s.err := rfl
@[simp] theorem upd_mgmt_msix (s : State) (v) : { s with mgmt := v }.msix = s.msix := rfl
@[simp] theorem upd_mgmt_host (s : State) (v) : { s with mgmt := v }.host = s.host := rfl
@[simp] theorem upd_mgmt_admin (s : State) (v) : { s with mgmt := v }.admin = s.admin := rfl
@[simp] theorem upd_mgmt_rings (s : State) (v) : { s with mgmt := v }.rings = s.rings := rfl
@[simp] theorem upd_mgmt_ctxs (s : State) (v) : { s with mgmt := v }.ctxs = s.ctxs := rfl
@[simp] theorem upd_mgmt_steps (s : State) (v) : { s with mgmt := v }.steps = s.steps := rfl
@[simp] theorem upd_mgmt_sched (s : State) (v) : { s with mgmt := v }.sched = s.sched := rfl
@[simp] theorem upd_mgmt_pm (s : State) (v) : { s with mgmt := v }.pm = s.pm := rfl
@[simp] theorem upd_mgmt_sm (s : State) (v) : { s with mgmt := v }.sm = s.sm := rfl
@[simp] theorem upd_mgmt_ports (s : State) (v) : { s with mgmt := v }.ports = s.ports := rfl
@[simp] theorem upd_mgmt_slory (s : State) (v) : { s with mgmt := v }.slory = s.slory := rfl
@[simp] theorem upd_mgmt_store (s : State) (v) : { s with mgmt := v }.store = s.store := rfl
@[simp] theorem upd_mgmt_power (s : State) (v) : { s with mgmt := v }.power = s.power := rfl
@[simp] theorem upd_mgmt_mgmt (s : State) (v) : { s with mgmt := v }.mgmt = v := rfl
@[simp] theorem upd_mgmt_diag (s : State) (v) : { s with mgmt := v }.diag = s.diag := rfl
@[simp] theorem upd_mgmt_free (s : State) (v) : { s with mgmt := v }.free = s.free := rfl
@[simp] theorem upd_mgmt_out (s : State) (v) : { s with mgmt := v }.out = s.out := rfl
@[simp] theorem upd_diag_pending (s : State) (v) : { s with diag := v }.pending = s.pending := rfl
@[simp] theorem upd_diag_boot (s : State) (v) : { s with diag := v }.boot = s.boot := rfl
@[simp] theorem upd_diag_clk (s : State) (v) : { s with diag := v }.clk = s.clk := rfl
@[simp] theorem upd_diag_regs (s : State) (v) : { s with diag := v }.regs = s.regs := rfl
@[simp] theorem upd_diag_err (s : State) (v) : { s with diag := v }.err = s.err := rfl
@[simp] theorem upd_diag_msix (s : State) (v) : { s with diag := v }.msix = s.msix := rfl
@[simp] theorem upd_diag_host (s : State) (v) : { s with diag := v }.host = s.host := rfl
@[simp] theorem upd_diag_admin (s : State) (v) : { s with diag := v }.admin = s.admin := rfl
@[simp] theorem upd_diag_rings (s : State) (v) : { s with diag := v }.rings = s.rings := rfl
@[simp] theorem upd_diag_ctxs (s : State) (v) : { s with diag := v }.ctxs = s.ctxs := rfl
@[simp] theorem upd_diag_steps (s : State) (v) : { s with diag := v }.steps = s.steps := rfl
@[simp] theorem upd_diag_sched (s : State) (v) : { s with diag := v }.sched = s.sched := rfl
@[simp] theorem upd_diag_pm (s : State) (v) : { s with diag := v }.pm = s.pm := rfl
@[simp] theorem upd_diag_sm (s : State) (v) : { s with diag := v }.sm = s.sm := rfl
@[simp] theorem upd_diag_ports (s : State) (v) : { s with diag := v }.ports = s.ports := rfl
@[simp] theorem upd_diag_slory (s : State) (v) : { s with diag := v }.slory = s.slory := rfl
@[simp] theorem upd_diag_store (s : State) (v) : { s with diag := v }.store = s.store := rfl
@[simp] theorem upd_diag_power (s : State) (v) : { s with diag := v }.power = s.power := rfl
@[simp] theorem upd_diag_mgmt (s : State) (v) : { s with diag := v }.mgmt = s.mgmt := rfl
@[simp] theorem upd_diag_diag (s : State) (v) : { s with diag := v }.diag = v := rfl
@[simp] theorem upd_diag_free (s : State) (v) : { s with diag := v }.free = s.free := rfl
@[simp] theorem upd_diag_out (s : State) (v) : { s with diag := v }.out = s.out := rfl
@[simp] theorem upd_free_pending (s : State) (v) : { s with free := v }.pending = s.pending := rfl
@[simp] theorem upd_free_boot (s : State) (v) : { s with free := v }.boot = s.boot := rfl
@[simp] theorem upd_free_clk (s : State) (v) : { s with free := v }.clk = s.clk := rfl
@[simp] theorem upd_free_regs (s : State) (v) : { s with free := v }.regs = s.regs := rfl
@[simp] theorem upd_free_err (s : State) (v) : { s with free := v }.err = s.err := rfl
@[simp] theorem upd_free_msix (s : State) (v) : { s with free := v }.msix = s.msix := rfl
@[simp] theorem upd_free_host (s : State) (v) : { s with free := v }.host = s.host := rfl
@[simp] theorem upd_free_admin (s : State) (v) : { s with free := v }.admin = s.admin := rfl
@[simp] theorem upd_free_rings (s : State) (v) : { s with free := v }.rings = s.rings := rfl
@[simp] theorem upd_free_ctxs (s : State) (v) : { s with free := v }.ctxs = s.ctxs := rfl
@[simp] theorem upd_free_steps (s : State) (v) : { s with free := v }.steps = s.steps := rfl
@[simp] theorem upd_free_sched (s : State) (v) : { s with free := v }.sched = s.sched := rfl
@[simp] theorem upd_free_pm (s : State) (v) : { s with free := v }.pm = s.pm := rfl
@[simp] theorem upd_free_sm (s : State) (v) : { s with free := v }.sm = s.sm := rfl
@[simp] theorem upd_free_ports (s : State) (v) : { s with free := v }.ports = s.ports := rfl
@[simp] theorem upd_free_slory (s : State) (v) : { s with free := v }.slory = s.slory := rfl
@[simp] theorem upd_free_store (s : State) (v) : { s with free := v }.store = s.store := rfl
@[simp] theorem upd_free_power (s : State) (v) : { s with free := v }.power = s.power := rfl
@[simp] theorem upd_free_mgmt (s : State) (v) : { s with free := v }.mgmt = s.mgmt := rfl
@[simp] theorem upd_free_diag (s : State) (v) : { s with free := v }.diag = s.diag := rfl
@[simp] theorem upd_free_free (s : State) (v) : { s with free := v }.free = v := rfl
@[simp] theorem upd_free_out (s : State) (v) : { s with free := v }.out = s.out := rfl
@[simp] theorem upd_out_pending (s : State) (v) : { s with out := v }.pending = s.pending := rfl
@[simp] theorem upd_out_boot (s : State) (v) : { s with out := v }.boot = s.boot := rfl
@[simp] theorem upd_out_clk (s : State) (v) : { s with out := v }.clk = s.clk := rfl
@[simp] theorem upd_out_regs (s : State) (v) : { s with out := v }.regs = s.regs := rfl
@[simp] theorem upd_out_err (s : State) (v) : { s with out := v }.err = s.err := rfl
@[simp] theorem upd_out_msix (s : State) (v) : { s with out := v }.msix = s.msix := rfl
@[simp] theorem upd_out_host (s : State) (v) : { s with out := v }.host = s.host := rfl
@[simp] theorem upd_out_admin (s : State) (v) : { s with out := v }.admin = s.admin := rfl
@[simp] theorem upd_out_rings (s : State) (v) : { s with out := v }.rings = s.rings := rfl
@[simp] theorem upd_out_ctxs (s : State) (v) : { s with out := v }.ctxs = s.ctxs := rfl
@[simp] theorem upd_out_steps (s : State) (v) : { s with out := v }.steps = s.steps := rfl
@[simp] theorem upd_out_sched (s : State) (v) : { s with out := v }.sched = s.sched := rfl
@[simp] theorem upd_out_pm (s : State) (v) : { s with out := v }.pm = s.pm := rfl
@[simp] theorem upd_out_sm (s : State) (v) : { s with out := v }.sm = s.sm := rfl
@[simp] theorem upd_out_ports (s : State) (v) : { s with out := v }.ports = s.ports := rfl
@[simp] theorem upd_out_slory (s : State) (v) : { s with out := v }.slory = s.slory := rfl
@[simp] theorem upd_out_store (s : State) (v) : { s with out := v }.store = s.store := rfl
@[simp] theorem upd_out_power (s : State) (v) : { s with out := v }.power = s.power := rfl
@[simp] theorem upd_out_mgmt (s : State) (v) : { s with out := v }.mgmt = s.mgmt := rfl
@[simp] theorem upd_out_diag (s : State) (v) : { s with out := v }.diag = s.diag := rfl
@[simp] theorem upd_out_free (s : State) (v) : { s with out := v }.free = s.free := rfl
@[simp] theorem upd_out_out (s : State) (v) : { s with out := v }.out = v := rfl

end Sys2Proof.Machine.State
end

