-- ==== Sys2Proof/Machine/Connector.lean ====
section
/-! DEFINITION. The rear face (chapter 19): the contacts of the edge connector (R456, R457), the static address on the management
bus (R461), the input voltages behind POWER_GOOD, POWER_LOST and INPUT_OVERVOLTAGE (R453), and the operating conditions (R452). -/

namespace Sys2Proof.Machine

/-! ### The edge connector (R456, R457) -/

/-- The two rows of contacts: A carries the module's output pairs, B its input pairs. -/
inductive EdgeRow where
  | a
  | b
  deriving DecidableEq, Repr

/-- The signal of a contact; `neg` tells N from P of a pair. -/
inductive EdgeSignal where
  | ethTx (lane : Nat) (neg : Bool)
  | ethRx (lane : Nat) (neg : Bool)
  | cxlTx (lane : Nat) (neg : Bool)
  | cxlRx (lane : Nat) (neg : Bool)
  | ethRefclkA (neg : Bool)
  | ethRefclkB (neg : Bool)
  | cxlRefclk (neg : Bool)
  | perstN
  | faultN
  | i3cScl
  | i3cSda
  | prsntN
  | mgmtAddr (bit : Nat)
  | rsvd
  | gnd
  deriving DecidableEq, Repr

/-- An Ethernet pair of a row. -/
def EdgeRow.eth (r : EdgeRow) (lane : Nat) (neg : Bool) : EdgeSignal := match r with | .a => .ethTx lane neg | .b => .ethRx lane neg

/-- A CXL pair of a row. -/
def EdgeRow.cxl (r : EdgeRow) (lane : Nat) (neg : Bool) : EdgeSignal := match r with | .a => .cxlTx lane neg | .b => .cxlRx lane neg

/-- A pair behind its ground: offset 0 is the ground, 1 is P and 2 is N. -/
def pairContact (o : Nat) (pair : Bool → EdgeSignal) : EdgeSignal := if o = 0 then .gnd else pair (decide (o = 2))

/-- Contacts 243 to 260 (R457); B243 is the highest bit of MGMT_ADDR[3:0] (DEDUCED, log entry 98). -/
def lowSpeedContact (r : EdgeRow) (n : Nat) : EdgeSignal :=
  match r, n with
  | .a, 243 => .ethRefclkA false
  | .a, 244 => .ethRefclkA true
  | .a, 246 => .ethRefclkB false
  | .a, 247 => .ethRefclkB true
  | .a, 249 => .cxlRefclk false
  | .a, 250 => .cxlRefclk true
  | .a, 252 => .perstN
  | .a, 253 => .faultN
  | .a, 255 => .i3cScl
  | .a, 256 => .i3cSda
  | .a, 258 => .prsntN
  | .b, n => if 243 ≤ n ∧ n ≤ 246 then .mgmtAddr (246 - n) else if 248 ≤ n ∧ n ≤ 252 then .rsvd else .gnd
  | .a, _ => .gnd

/-- The signal at contact `n` of a row, 1 to 260 (R456, R457). -/
def edgeContact (r : EdgeRow) (n : Nat) : Option EdgeSignal :=
  if n = 0 ∨ 260 < n then none
  else if n ≤ 192 then some (pairContact ((n - 1) % 3) (r.eth ((n - 1) / 3)))
  else if n = 193 ∨ n = 242 then some .gnd
  else if n < 242 then some (pairContact ((n - 194) % 3) (r.cxl ((n - 194) / 3)))
  else some (lowSpeedContact r n)

/-- The port of an Ethernet lane (R14, R456). -/
def lanePort (lane : Nat) : Nat := lane / 8

/-- The static I3C address (R461). -/
def staticAddress (s : State) : Nat := 0x30 + s.mgmt.strap % 16

/-! ### The busbar (R453) and the operating conditions (R452) -/

/-- What the module makes of its input. -/
inductive InputResponse where
  | powerGood
  | powerLost
  | disconnected
  | unchanged
  deriving DecidableEq, Repr

/-- The response to an input of `mv` millivolts that has lasted `us` microseconds; at power good, those since soft start (R453). -/
def inputResponse (mv us : Nat) : InputResponse :=
  if 62000 < mv ∨ (60000 < mv ∧ 1000 < us) then .disconnected
  else if (mv < 48000 ∧ 10000 < us) ∨ (mv < 46000 ∧ 50 < us) then .powerLost
  else if 48000 ≤ mv ∧ 10000 ≤ us then .powerGood
  else .unchanged

/-- The operating conditions of the busbar and the air (R452): a voltage in mV and how long it has lasted in µs, ripple in mV, air in
°C, relative humidity in %, altitude in m. The rows of the coolant are those of R414. -/
def operating (mv us ripple : Nat) (air : Int) (humidity : Nat) (altitude : Int) : Bool :=
  decide ((48000 ≤ mv ∧ mv ≤ 58000) ∨ (46000 ≤ mv ∧ mv < 48000 ∧ us ≤ 10000) ∨ (58000 < mv ∧ mv ≤ 60000 ∧ us ≤ 1000)) &&
    decide (ripple ≤ 1000) && decide (5 ≤ air ∧ air ≤ 45) && decide (8 ≤ humidity ∧ humidity ≤ 85) && decide (-60 ≤ altitude ∧ altitude ≤ 3000)

/-- The operating conditions of the coolant (R414): glycol in tenths of a %, pH in tenths, particles in µm, inlet and dew point in
1/16 °C, flow in mL/min, static pressure in kPa. -/
def coolantOperating (glycol ph particle : Nat) (inlet dew : Int) (flow pressure : Nat) : Bool :=
  decide (230 ≤ glycol ∧ glycol ≤ 270) && decide (80 ≤ ph ∧ ph ≤ 100) && decide (particle ≤ 50) &&
    decide (240 ≤ inlet ∧ inlet ≤ 640 ∧ dew + 32 ≤ inlet) && decide (4000 ≤ flow ∧ flow ≤ 8000) && decide (pressure ≤ 600)

end Sys2Proof.Machine
end

