-- ==== Sys2Proof/WellFormed.lean ====
section
/-! DEFINITION. Well-formed commands: every operand that names a unit, a ring, a vector or an access size
names one the module has (R14, R325, R329). The machine is total on the others too: an event on a unit that
does not exist is an event that cannot occur, and changes nothing (log entry 5). -/

namespace Sys2Proof

open Sys2Proof.Machine (RingId HostData DeckDest Ecc PhyStatus UnitRef)

/-- A ring of the module: the administrative ring or one of 256 context rings (R329). -/
def ringOk : RingId → Bool
  | .admin => true
  | .ctx n => decide (n < 256)

/-- A unit in the numbering of R14. -/
def unitOk : UnitRef → Bool
  | .pier p => decide (p < 1024)
  | .vector s => decide (s < 32)
  | .table s => decide (s < 32)
  | .gather s => decide (s < 32)
  | .keystone b => decide (b < 8)
  | .abutment q => decide (q < 8)

/-- A deck destination that exists (R133, R135). -/
def destOk : DeckDest → Bool
  | .pier p => decide (p < 1024)
  | .loc sp => decide (sp < 32)
  | .memory _ => true

/-- Whether every operand of a command lies in the range its row gives it. -/
def Instr.wf : Instr → Bool
  | .nop r => ringOk r
  | .ctxCreate r _ => ringOk r
  | .ctxDestroy r => ringOk r
  | .ctxQuery r => ringOk r
  | .schedLoad r _ => ringOk r
  | .schedUnload r => ringOk r
  | .timetableSet r => ringOk r
  | .stepRun r => ringOk r
  | .stepKill r => ringOk r
  | .weightsLoad r _ => ringOk r
  | .weightsSwap r => ringOk r
  | .serviceStop r => ringOk r
  | .serviceStart r => ringOk r
  | .optConfig r => ringOk r
  | .ckptStreamStart r => ringOk r
  | .ckptStreamStop r => ringOk r
  | .ckptRestore r _ => ringOk r
  | .fence r _ => ringOk r
  | .pageRetire r _ _ => ringOk r
  | .powerCapSet r => ringOk r
  | .energyRead r => ringOk r
  | .fabricConfig r => ringOk r
  | .groupSet r => ringOk r
  | .attestReport r => ringOk r
  | .diagRun r => ringOk r
  | .commandFetch r _ _ => ringOk r
  | .commandTimeout r seq => ringOk r && decide (seq < 4294967296)
  | .dbCtx n size _ _ => decide (n < 256) && decide (size = 4 ∨ size = 8)
  | .dbAdmin size _ _ => decide (size = 4 ∨ size = 8)
  | .coalUs r => ringOk r
  | .msixRateWindow vec => decide (257 ≤ vec ∧ vec ≤ 259)
  | .msixTableWrite off size _ => decide (off < 1048576) && decide (size = 4 ∨ size = 8)
  | .rstControl size _ _ => decide (size = 4 ∨ size = 8)
  | .rstAdminInstall size _ _ => decide (size = 4 ∨ size = 8)
  | .errLogSelect size _ _ => decide (size = 4 ∨ size = 8)
  | .errLogAck size _ _ => decide (size = 4 ∨ size = 8)
  | .w1cWrite off size _ _ => decide (off < 1048576) && decide (size = 4 ∨ size = 8)
  | .rcRegisterRead off size => decide (off < 1048576) && decide (size = 4 ∨ size = 8)
  | .lowHalfRead off size => decide (off < 1048576) && decide (size = 4 ∨ size = 8)
  | .registerWrite off size _ => decide (off < 1048576) && decide (size = 4 ∨ size = 8)
  | .malformedRegisterAccess off size _ => decide (off < 1048576) && decide (0 < size)
  | .mma _ p _ _ => decide (p < 1024)
  | .fill _ p _ _ => decide (p < 1024)
  | .drain _ p _ _ => decide (p < 1024)
  | .bankWrite _ p _ _ => decide (p < 1024)
  | .flagClear _ p _ _ => decide (p < 1024)
  | .tileIn _ p _ _ => decide (p < 1024)
  | .tileOut _ p _ _ => decide (p < 1024)
  | .blocksIn _ p _ _ => decide (p < 1024)
  | .blocksOut _ p _ _ => decide (p < 1024)
  | .deckArrival _ _ dest => destOk dest
  | .bearingReadReturn _ _ _ => true
  | .add _ sp _ => decide (sp < 32)
  | .sub _ sp _ => decide (sp < 32)
  | .mul _ sp _ => decide (sp < 32)
  | .fma _ sp _ => decide (sp < 32)
  | .min _ sp _ => decide (sp < 32)
  | .max _ sp _ => decide (sp < 32)
  | .cmp _ sp _ => decide (sp < 32)
  | .abs _ sp _ => decide (sp < 32)
  | .neg _ sp _ => decide (sp < 32)
  | .cvt _ sp _ => decide (sp < 32)
  | .scale _ sp _ => decide (sp < 32)
  | .select _ sp _ => decide (sp < 32)
  | .div _ sp _ => decide (sp < 32)
  | .sqrt _ sp _ => decide (sp < 32)
  | .recip _ sp _ => decide (sp < 32)
  | .rsqrt _ sp _ => decide (sp < 32)
  | .rowSum _ sp _ => decide (sp < 32)
  | .rowMax _ sp _ => decide (sp < 32)
  | .rowSumsq _ sp _ => decide (sp < 32)
  | .partAdd _ sp _ => decide (sp < 32)
  | .pos _ sp _ => decide (sp < 32)
  | .transpose _ sp _ => decide (sp < 32)
  | .vectorFlagClear _ sp _ => decide (sp < 32)
  | .eval _ sp _ => decide (sp < 32)
  | .derivMul _ sp _ => decide (sp < 32)
  | .tableFlagClear _ sp _ => decide (sp < 32)
  | .accept _ b _ => decide (b < 8)
  | .update _ b _ _ => decide (b < 8)
  | .updateList _ b _ _ => decide (b < 8)
  | .keystoneFlagClear _ b _ => decide (b < 8)
  | .send _ q _ => decide (q < 8)
  | .recv _ q _ => decide (q < 8)
  | .redSend _ q _ => decide (q < 8)
  | .redRecv _ q _ => decide (q < 8)
  | .splitSend _ q _ => decide (q < 8)
  | .splitRecv _ q _ => decide (q < 8)
  | .norm _ q _ => decide (q < 8)
  | .acc _ q _ => decide (q < 8)
  | .routing _ sp _ _ _ => decide (sp < 32)
  | .combine _ sp _ _ _ _ => decide (sp < 32)
  | .combineBwd _ sp _ _ => decide (sp < 32)
  | .dispatchBwd _ sp _ => decide (sp < 32)
  | .blockListBuild _ sp _ _ _ _ => decide (sp < 32)
  | .sparseEmbeddingList _ sp _ _ _ _ _ => decide (sp < 32)
  | .prefetch _ _ => true
  | .slotStart i => decide (i < 1024)
  | .slotEnd i => decide (i < 1024)
  | .periodBoundary => true
  | .bestEffortAdmission => true
  | .bubble _ _ n => decide (n < 256)
  | .preambleStart _ => true
  | .preambleEnd _ => true
  | .phase _ u _ _ => unitOk u
  | .wait _ _ => true
  | .finalSlackExceeded _ u => unitOk u
  | .commitPoint _ _ => true
  | .releaseComplete _ _ _ => true
  | .pointerSwitch n => decide (n < 256)
  | .retirementCopy b g _ _ => decide (b < 8) && decide (g < 524288)
  | .ckptBaseSend n _ => decide (n < 256)
  | .unitScrub n u => decide (n < 256) && unitOk u
  | .ethernetFrameReceive q _ _ => decide (q < 8)
  | .pfcFrame q _ => decide (q < 8)
  | .pauseFrame q _ => decide (q < 8)
  | .arpRequest q _ => decide (q < 8)
  | .neighbourSolicitation q _ => decide (q < 8)
  | .verifyFrame q _ => decide (q < 8)
  | .pfcRepeat q prio => decide (q < 8) && decide (prio < 8)
  | .pauseExpiry q prio => decide (q < 8) && decide (prio < 8)
  | .pauseStorm q prio => decide (q < 8) && decide (prio < 8)
  | .pauseIgnoreEnd q prio => decide (q < 8) && decide (prio < 8)
  | .frameTransmit q => decide (q < 8)
  | .portLinkUp q _ => decide (q < 8)
  | .portLinkDown q => decide (q < 8)
  | .portTrainingTimeout q => decide (q < 8)
  | .verifyDone q _ => decide (q < 8)
  | .write => true
  | .reduce => true
  | .bcast _ => true
  | .split => true
  | .delta => true
  | .ack => true
  | .nak => true
  | .voteRepeat => true
  | .voteFail => true
  | .voteReceive => true
  | .decideCommit => true
  | .decideRepeat => true
  | .decideEnd => true
  | .collectiveDeadline n _ => decide (n < 256)
  | .decisionHoldTimeout _ => true
  | .retransmissionTimer _ seq => decide (seq < 4294967296)
  | .ackTimer _ => true
  | .streamTimeout n => decide (n < 256)
  | .writeCombiningIdleFlush b line _ => decide (b < 8) && decide (line < 2147483648)
  | .correctedRewrite b line => decide (b < 8) && decide (line < 2147483648)
  | .refresh b => decide (b < 8)
  | .patrolScrub b line _ _ => decide (b < 8) && decide (line < 2147483648)
  | .dramSensorRead b _ => decide (b < 8)
  | .parityRetry _ _ _ => true
  | .channelNoResponse _ _ => true
  | .hostWriteGo _ => true
  | .hostReadCompletion _ _ => true
  | .hostReadTimeout _ => true
  | .goTimeout _ => true
  | .hostSnoop _ => true
  | .cxlMemRequest _ => true
  | .cxlLinkUp rate width => decide (rate < 4) && decide (width ≤ 16)
  | .cxlLinkRetrain rate width => decide (rate < 4) && decide (width ≤ 16)
  | .hostLinkDown => true
  | .hostLinkDown10s => true
  | .powerGood => true
  | .powerLost => true
  | .inputOvervoltage => true
  | .perstNAssert => true
  | .perstNDeassert => true
  | .flr => true
  | .linkReset => true
  | .managementReset => true
  | .rom => true
  | .loader => true
  | .firmware => true
  | .records => true
  | .interlock => true
  | .interlockWarning => true
  | .rails => true
  | .stackTrain _ => true
  | .memInit => true
  | .selfTest _ => true
  | .identity _ => true
  | .ready => true
  | .controlCoreWatchdog core => decide (core < 16)
  | .commandProgressWatchdog r => ringOk r
  | .managementControllerWatchdog => true
  | .powerMeasurement _ => true
  | .fall sp _ => decide (sp < 32)
  | .capDecision _ _ _ => true
  | .logicSensorRead _ => true
  | .coolantSensorRead _ _ _ => true
  | .thermalCapUpdate => true
  | .flowTrip => true
  | .powerStageFault _ _ => true
  | .droop d => decide (d < 34)
  | .droopHoldEnd => true
  | .recoveryExit => true
  | .i3cAddressAssignment addr => decide (addr < 128)
  | .mctpControlMessage _ => true
  | .pldmBase _ => true
  | .pldmSensorReading _ => true
  | .pldmFirmwareUpdate _ _ => true
  | .activateFirmware => true
  | .errorUnsupportedCmd _ => true
  | .storeReadCompletion n _ _ => decide (n < 256)
  | .storeWriteCompletion _ => true
  | .rebaseComplete n => decide (n < 256)
  | .managementControllerRestart => true
  | .diagTestComplete _ => true
  | .commandWorkAccess r seq _ => ringOk r && decide (seq < 4294967296)
  | .cxlCorrectableError _ => true
  | .controlCoreMemoryError _ _ => true

end Sys2Proof
end

