-- ==== Sys2Proof/Tests/Slice0.lean ====
section
/-! SUPPORT. Small checks of the model: ill-formed commands refused, the manual's worked examples, and for every
obligation with hypotheses a concrete state that meets them. -/

namespace Sys2Proof.Tests

set_option Elab.async false

open Sys2Proof.Machine Sys2Proof.Safety

/-! ### Ill-formed commands (R14, R325, R329) -/

theorem test_wf_ring : (Instr.nop (.ctx 256)).wf = false ∧ (Instr.nop (.ctx 255)).wf = true := by decide
theorem test_wf_pier : (Instr.mma 0 1024 0 0).wf = false ∧ (Instr.mma 0 1023 0 0).wf = true := by decide
theorem test_wf_span : (Instr.add 0 32 0).wf = false ∧ (Instr.add 0 31 0).wf = true := by decide
theorem test_wf_keystone : (Instr.accept 0 8 0).wf = false ∧ (Instr.accept 0 7 0).wf = true := by decide
theorem test_wf_port : (Instr.send 0 8 0).wf = false ∧ (Instr.frameTransmit 7).wf = true := by decide
theorem test_wf_priority : (Instr.pauseExpiry 0 8).wf = false ∧ (Instr.pauseExpiry 7 7).wf = true := by decide
theorem test_wf_context : (Instr.dbCtx 256 8 false 0).wf = false ∧ (Instr.bubble 0 0 256).wf = false := by decide
theorem test_wf_access_size : (Instr.dbAdmin 2 false 0).wf = false ∧ (Instr.dbAdmin 4 true 0).wf = true := by decide
theorem test_wf_offset : (Instr.registerWrite 1048576 8 0).wf = false ∧ (Instr.lowHalfRead 1048572 4).wf = true := by decide
theorem test_wf_malformed_size : (Instr.malformedRegisterAccess 0 0 true).wf = false := by decide
theorem test_wf_vector : (Instr.msixRateWindow 256).wf = false ∧ (Instr.msixRateWindow 257).wf = true ∧ (Instr.msixRateWindow 260).wf = false := by
  decide
theorem test_wf_unit : (Instr.unitScrub 0 (.vector 32)).wf = false ∧ (Instr.unitScrub 0 (.abutment 8)).wf = false := by decide
theorem test_wf_destination : (Instr.deckArrival 0 0 (.loc 32)).wf = false ∧ (Instr.deckArrival 0 0 (.pier 1024)).wf = false := by decide
theorem test_wf_slot : (Instr.slotStart 1024).wf = false ∧ (Instr.slotEnd 1023).wf = true := by decide
theorem test_wf_granule : (Instr.retirementCopy 0 524288 [] []).wf = false ∧ (Instr.retirementCopy 8 0 [] []).wf = false := by decide
theorem test_wf_line : (Instr.patrolScrub 0 2147483648 .ok false).wf = false := by decide
theorem test_wf_seq : (Instr.commandTimeout .admin 4294967296).wf = false ∧ (Instr.retransmissionTimer 0 4294967296).wf = false := by decide
theorem test_wf_link : (Instr.cxlLinkUp 4 16).wf = false ∧ (Instr.cxlLinkUp 3 17).wf = false := by decide
theorem test_wf_core : (Instr.controlCoreWatchdog 16).wf = false ∧ (Instr.droop 34).wf = false := by decide
theorem test_wf_bus_address : (Instr.i3cAddressAssignment 128).wf = false := by decide

/-! ### The queue and the tick -/

theorem wit_EmptyQueueTicksTimebase : State.reset.pending = [] ∧ State.reset.boot.powered = true ∧ 0 < State.reset.power.stretch := by decide

theorem wit_StepKeepsMemoryCanonical : ∃ t, MemoryCanonical State.reset ∧ step State.reset = .next t := ⟨_, rfl, rfl⟩

/-- Four ticks at S = 2,000 of the arithmetic clock are 15 cycles (R18, R396: 7,500 / S per tick). -/
theorem test_tick_cycles :
    (tick (tick (tick (tick { State.reset with power := { State.reset.power with stretch := 2000 } })))).clk.cycles = 15 := by decide

/-! ### States with one running step -/

/-- One context whose image slot 0 holds `img`, and one running step of it. -/
def runs (img : Image) (x : Step := {}) : State :=
  { ctxs := [(0, { images := [(0, img)] })], steps := [{ x with state := .running }] }

/-- The context of `runs`. -/
def ctxFor (img : Image) : Ctx := { images := [(0, img)] }

/-- The step of `runs`. -/
def x0 : Step := { state := .running }

/-- A spaced FP32 stream of one 8 × 8 tile at address `base` in space `space`. -/
def tile8 (f : Fmt) (space base : Nat) : Desc :=
  ⟨f, false, false, 8, 8, space, 0, 1, base, 1, 0, 0, none, 0, 0, 0, 0, 0⟩

/-- An image whose pier 0 has the one instruction `op` on arrays 0 and 1. -/
def pierImg (op : PierOp) (descs : List Desc := []) : Image := { piers := [(0, [⟨5, 3#64, op⟩])], descs := descs }

/-- The instruction of `pierImg`. -/
def pierIns (op : PierOp) : PierIns := ⟨5, 3#64, op⟩

theorem onTime_noTiming (img : Image) (x : Step) (u : UnitSt) (cyc stall : Nat) (h : img.timing = []) : OnTime img x u cyc stall := by
  simp [OnTime, latePhase, Image.phases, h]

/-- It is the pier's turn in `runs (pierImg op)`, on time, and nothing is under way on the pier. -/
abbrev PierReady (op : PierOp) (ds : List Desc) : Prop :=
  PierTurn (runs (pierImg op ds)) 0 0 x0 (pierImg op ds) (ctxFor (pierImg op ds)) {} (pierIns op) ∧ OnTime (pierImg op ds) x0 {} 5 0 ∧
    ({} : UnitSt).mmas = [] ∧ ({} : UnitSt).fills = [] ∧ ({} : UnitSt).overLag 5 = false

theorem pier_ready (op : PierOp) (ds : List Desc) : PierReady op ds :=
  ⟨⟨rfl, rfl, rfl, rfl, rfl, rfl, by simp [phasesDue, pierImg], .inr rfl⟩, onTime_noTiming _ _ _ _ _ rfl, rfl, rfl, rfl⟩

/-! ### Piers -/

/-- The MMA of the witnesses. -/
def mmaOp : PierOp := .mma 3 false .bf16 .bf16 false true 0 0 1

/-- The dies of a state in which the operands of `mmaOp` are valid for its 8 k-steps. -/
def validDies : PierMem := { valid := { base := [0, 256, 512, 768].flatMap fun k => (List.range 8).map fun r => (k + r, true) } }

theorem wit_MmaAddsProductsInOrder_fires :
    PierReady mmaOp [] ∧ 0 < 1 ∧ nextCycle (pierImg mmaOp) (x0.setUnit 0 (({} : UnitSt).issued 0 0)) 0 = none ∧
    ∀ i ∈ maskArrays 3#64, ∀ n < 8 * 1,
      lanesReady { runs (pierImg mmaOp) with pm := validDies } 0 (arrayNo 0 i) false .bf16 (0 + n / 8) (5 + n) (n % 8) true false = true ∧
      lanesReady { runs (pierImg mmaOp) with pm := validDies } 0 (arrayNo 0 i) true .bf16 (0 + n / 8) (5 + n) (n % 8) true false = true :=
  ⟨pier_ready _ _, by decide, rfl, by decide⟩

theorem wit_MmaAddsProductsInOrder_waits :
    PierReady mmaOp [] ∧ 0 < 1 ∧ ∀ i ∈ maskArrays 3#64, lanesReady (runs (pierImg mmaOp)) 0 (arrayNo 0 i) false .bf16 0 5 0 true false = false :=
  ⟨pier_ready _ _, by decide, by decide⟩

theorem wit_FillAndBankWriteDeliverLines_fill :
    PierReady (.fill true .bf16 7 4094) [] ∧
    (∀ l < blockLines .bf16, awaitsLine (pierImg (.fill true .bf16 7 4094)) x0 0 (4094 + l) 5 = false) ∧
    (∃ l < blockLines .fp32, awaitsLine (pierImg (.fill false .fp32 0 8) [tile8 .fp32 2 0]) { x0 with inbound := [⟨0, 0, 0, 1, 8, 4, 0⟩] } 0 (8 + l) 5 = true) :=
  ⟨pier_ready _ _, by decide, 0, by decide, by decide⟩

theorem wit_FillAndBankWriteDeliverLines_bankWrite :
    PierReady (.bankWrite 2 4088) [] ∧ ∀ l < 4 * (maskArrays 3#64).length, awaitsLine (pierImg (.bankWrite 2 4088)) x0 0 (4088 + l) 5 = false :=
  ⟨pier_ready _ _, by decide⟩

theorem wit_DrainWritesTheBank_feeder : PierReady (.drain 0 true .e4m3 true 31) [] ∧ ({} : UnitSt).addsOpen 5 3#64 0 = false :=
  ⟨pier_ready _ _, rfl⟩

theorem wit_DrainWritesTheBank_store :
    PierReady (.drain 3 false .fp32 false 100) [] ∧ ({} : UnitSt).addsOpen 5 3#64 3 = false ∧
    residentLine (pierImg (.drain 3 false .fp32 false 100)) (ctxFor (pierImg (.drain 3 false .fp32 false 100))) 0 107 ≠
      residentLine (pierImg (.drain 3 false .fp32 false 100)) (ctxFor (pierImg (.drain 3 false .fp32 false 100))) 0 106 :=
  ⟨pier_ready _ _, rfl, by decide⟩

/-- An MMA into bank 0 of array 0 that has still to fire. -/
def firing : MmaRun := ⟨0, 4, 0, false, .bf16, .bf16, false, true, 0, 0, 1, 0, [], false, 0⟩

theorem wit_DrainWritesTheBank_waits : ({ mmas := [firing] } : UnitSt).addsOpen 5 3#64 0 = true := by decide

/-- A DRAIN over the four lines of a shadow range notes the range once, so that its parity flips once (R200). -/
theorem test_shadow_noted_once :
    (noteShadow { binds := [⟨5, 0, 0, false, 4, 4, 0⟩] } {} 0 4 4).shadowRanges.length = 1 := by decide

/-- A frame withdrawn for one granule is not withdrawn again for another (R249: the capacity falls by 2 MiB once). -/
theorem test_withdrawn_once :
    (withdrawFrame (withdrawFrame State.reset 5) 5).store.withdrawn = [5] ∧
      (withdrawFrame (withdrawFrame State.reset 5) 5).store.writing.length = 1 := by decide

theorem wit_FlagClearSparesLaterEvents_pier : PierReady (.flagClear true) [] := pier_ready _ _

/-- An image whose vector station 1 has the one instruction `ins`. -/
def vecImg (ins : VecIns) (ds : List Desc) : Image := { vectors := [(1, [ins])], descs := ds }

/-- An image whose table station 1 has the one instruction `ins`. -/
def tabImg (ins : VecIns) (ds : List Desc) (ts : List TableRec) : Image := { tables := [(1, [ins])], descs := ds, tabs := ts }

/-- It is the turn of vector station 1 of the step `x`, on time. -/
abbrev VecReady (ins : VecIns) (ds : List Desc) (x : Step) : Prop :=
  VectorTurn { ctxs := [(0, ctxFor (vecImg ins ds))], steps := [x] } 0 1 x (vecImg ins ds) (ctxFor (vecImg ins ds)) {} ins ∧
    OnTime (vecImg ins ds) x {} ins.cycle 0

/-- It is the turn of table station 1 of the step `x`, on time. -/
abbrev TabReady (ins : VecIns) (ds : List Desc) (ts : List TableRec) (x : Step) : Prop :=
  TableTurn { ctxs := [(0, ctxFor (tabImg ins ds ts))], steps := [x] } 0 1 x (tabImg ins ds ts) (ctxFor (tabImg ins ds ts)) {} ins ∧
    OnTime (tabImg ins ds ts) x {} ins.cycle 0

/-- A step that has just begun to run: every unit stands at the head of its list. -/
structure Fresh (x : Step) : Prop where
  id : x.id = 0
  running : x.state = .running
  ctx : x.ctx = 0
  slot : x.slot = 0
  units : x.units = []
  segs : x.usedSegs = []

theorem vec_ready (ins : VecIns) (ds : List Desc) (x : Step) (h : Fresh x) : VecReady ins ds x :=
  ⟨⟨by simp [stepOf, h.id], h.running, by simp [ctxOf, kfind, h.ctx], by simp [ctxFor, kfind, h.slot],
    by simp [Step.unit, h.units, kget, kfind, UnitSt.located, h.segs], by simp [vecImg, kget, kfind], by simp [phasesDue, vecImg],
    .inr (by simp [waitsDone, vecImg])⟩, onTime_noTiming _ _ _ _ _ rfl⟩

theorem tab_ready (ins : VecIns) (ds : List Desc) (ts : List TableRec) (x : Step) (h : Fresh x) : TabReady ins ds ts x :=
  ⟨⟨by simp [stepOf, h.id], h.running, by simp [ctxOf, kfind, h.ctx], by simp [ctxFor, kfind, h.slot],
    by simp [Step.unit, h.units, kget, kfind, UnitSt.located, h.segs], by simp [tabImg, kget, kfind], by simp [phasesDue, tabImg],
    .inr (by simp [waitsDone, tabImg])⟩, onTime_noTiming _ _ _ _ _ rfl⟩

/-- The FLAG_CLEAR of a station (OP 0x3F), with RECORD in bit 0 of ARG. -/
def clearIns (arg : Nat) : VecIns := ⟨0x3F, false, false, 0, 0, 0, 0, 9, arg⟩

theorem wit_FlagClearSparesLaterEvents_vector :
    VecReady (clearIns 0) [] x0 ∧ (clearIns 0).vop = 0x3F ∧ (clearIns 0).arg.testBit 0 = false :=
  ⟨vec_ready _ _ _ ⟨rfl, rfl, rfl, rfl, rfl, rfl⟩, rfl, rfl⟩

theorem wit_FlagClearSparesLaterEvents_table : TabReady (clearIns 0) [] [] x0 ∧ (clearIns 0).vop = 0x3F :=
  ⟨tab_ready _ _ _ _ ⟨rfl, rfl, rfl, rfl, rfl, rfl⟩, rfl⟩

/-- An image whose keystone 2 has the one entry `k`. -/
def keyImg (k : KeyIns) (ds : List Desc) : Image := { keystones := [(2, [k])], descs := ds }

/-- It is the turn of keystone 2 of the step `x` in the context `c`, on time. -/
abbrev KeyReady (k : KeyIns) (ds : List Desc) (x : Step) (c : Ctx) : Prop :=
  KeystoneTurn { ctxs := [(0, c)], steps := [x] } 0 2 x (keyImg k ds) c {} k ∧ OnTime (keyImg k ds) x {} k.cycle 0

theorem key_ready (k : KeyIns) (ds : List Desc) (x : Step) (c : Ctx) (h : Fresh x) (h5 : c.images = [(0, keyImg k ds)]) : KeyReady k ds x c :=
  ⟨⟨by simp [stepOf, h.id], h.running, by simp [ctxOf, kfind, h.ctx], by simp [h5, kfind, h.slot],
    by simp [Step.unit, h.units, kget, kfind, UnitSt.located, h.segs], by simp [keyImg, kget, kfind], by simp [phasesDue, keyImg],
    .inr (by simp [waitsDone, keyImg])⟩, onTime_noTiming _ _ _ _ _ rfl⟩

/-- A keystone FLAG_CLEAR without RECORD. -/
def keyClear : KeyIns := ⟨4, 0, 0, 9, 0, 0⟩

theorem wit_FlagClearSparesLaterEvents_keystone :
    KeyReady keyClear [] x0 (ctxFor (keyImg keyClear [])) ∧ keyClear.kop = 4 ∧ keyClear.first.testBit 0 = false :=
  ⟨key_ready _ _ _ _ ⟨rfl, rfl, rfl, rfl, rfl, rfl⟩ rfl, rfl, rfl⟩

theorem wit_StreamsMoveBetweenDeckAndStore_in :
    PierReady (.tileIn 0 8) [tile8 .bf16 2 0] ∧ PierReady (.blocksIn 0 8 5) [tile8 .bf16 2 0] ∧
    (pierImg (.tileIn 0 8) [tile8 .bf16 2 0]).descs[0]? = some (tile8 .bf16 2 0) ∧
    1 = presentCount (pierImg (.tileIn 0 8) [tile8 .bf16 2 0]) (tile8 .bf16 2 0) :=
  ⟨pier_ready _ _, pier_ready _ _, rfl, rfl⟩

theorem wit_StreamsMoveBetweenDeckAndStore_out :
    PierReady (.tileOut 0 8) [tile8 .bf16 2 0] ∧ PierReady (.blocksOut 0 8 1) [tile8 .bf16 2 0] ∧
    descOf (pierImg (.tileOut 0 8) [tile8 .bf16 2 0]) x0 0 = some (tile8 .bf16 2 0) ∧
    1 = presentCount (pierImg (.tileOut 0 8) [tile8 .bf16 2 0]) (tile8 .bf16 2 0) ∧
    ∀ j < 1, (∀ l < (tile8 .bf16 2 0).fmt.size,
        awaitsLine (pierImg (.tileOut 0 8) [tile8 .bf16 2 0]) x0 0
          (8 + moveLine (pierImg (.tileOut 0 8) [tile8 .bf16 2 0]) (tile8 .bf16 2 0) (kget 0 (x0.stream 0).outPos 0) j + l) 5 = false) ∧
      (tagFor (pierImg (.tileOut 0 8) [tile8 .bf16 2 0]) x0 0
        ((kget 0 (x0.stream 0).outPos 0 + j) / presentCount (pierImg (.tileOut 0 8) [tile8 .bf16 2 0]) (tile8 .bf16 2 0)) 0).isSome = true :=
  ⟨pier_ready _ _, pier_ready _ _, rfl, rfl, by decide⟩

/-! ### Vector and table stations -/

/-- A stream that has delivered one block of zeros. -/
def zeroStream (n : Nat) : StreamSt := { blocks := [⟨List.replicate n 0, 0, 0⟩] }

/-- A step whose units all stand at the head of their lists is fresh. -/
theorem fresh_plain (m : KMap StreamSt) : Fresh { state := .running, streams := m } := ⟨rfl, rfl, rfl, rfl, rfl, rfl⟩

/-- FP32 operands in streams 0 to 2, one tile each, and the result stream 3, on the deck. -/
def opDescs : List Desc := [tile8 .fp32 2 0, tile8 .fp32 2 0, tile8 .fp32 2 0, tile8 .bf16 2 0]

/-- A running step whose operand tiles have arrived. -/
def xOps : Step := { state := .running, streams := [(0, zeroStream 256), (1, zeroStream 256), (2, zeroStream 256)] }

/-- The station instruction of operation `vop` on streams 0 to 2 into stream 3. -/
def vecOf (vop arg : Nat) : VecIns := ⟨vop, false, false, 0, 1, 2, 3, 9, arg⟩

/-- The state in which vector station 1 is about to issue `vecOf vop arg`. -/
def vecState (vop arg : Nat) (x : Step := xOps) : State := { ctxs := [(0, ctxFor (vecImg (vecOf vop arg) opDescs))], steps := [x] }

/-- An operand of one tile of zeros. -/
def zeroTile : Desc × List (List (Option Bytes)) := (tile8 .fp32 2 0, [[some (List.replicate 256 0)]])

theorem operands_arrived (s : State) (ins : VecIns) (i : Nat) (h : i < 3) :
    operandTiles s (vecImg ins opDescs) xOps true i 9 = some (some zeroTile) := by
  match i, h with
  | 0, _ => rfl
  | 1, _ => rfl
  | 2, _ => rfl

theorem wit_VectorElementwiseResult : ∀ op ∈ vectorOps,
    VecReady (vecOf op.2.1 1) opDescs xOps ∧ (vecOf op.2.1 1).vop = op.2.1 ∧
    operandTiles (vecState op.2.1 1) (vecImg (vecOf op.2.1 1) opDescs) xOps true 0 9 = some (some zeroTile) ∧
    (∃ b, operandTiles (vecState op.2.1 1) (vecImg (vecOf op.2.1 1) opDescs) xOps op.2.2.1 1 9 = some b) ∧
    (∃ e, operandTiles (vecState op.2.1 1) (vecImg (vecOf op.2.1 1) opDescs) xOps op.2.2.2.1 2 9 = some e) ∧
    descOf (vecImg (vecOf op.2.1 1) opDescs) xOps 3 = some (tile8 .bf16 2 0) ∧
    (dstTags (tile8 .bf16 2 0) fun n => readTag (vecImg (vecOf op.2.1 1) opDescs) xOps 0 n zeroTile.1).isSome = true := fun op _ =>
  ⟨vec_ready _ _ _ (fresh_plain _), rfl, operands_arrived _ _ 0 (by decide),
    by cases op.2.2.1 with
       | true => exact ⟨_, operands_arrived _ _ 1 (by decide)⟩
       | false => exact ⟨none, rfl⟩,
    by cases op.2.2.2.1 with
       | true => exact ⟨_, operands_arrived _ _ 2 (by decide)⟩
       | false => exact ⟨none, rfl⟩, rfl, rfl⟩

theorem wit_ReductionPositionTransposeResult_rows : ∀ op ∈ rowOps,
    VecReady (vecOf op.2.1 0) opDescs xOps ∧ (vecOf op.2.1 0).vop = op.2.1 ∧
    operandTiles (vecState op.2.1 0) (vecImg (vecOf op.2.1 0) opDescs) xOps true 0 9 = some (some zeroTile) ∧
    descOf (vecImg (vecOf op.2.1 0) opDescs) xOps 3 = some (tile8 .bf16 2 0) ∧
    (dstTags (tile8 .bf16 2 0) fun n => readTag (vecImg (vecOf op.2.1 0) opDescs) xOps 0 ((rowTilesOf zeroTile.1 (tile8 .bf16 2 0) n).headD n) zeroTile.1).isSome = true :=
  fun _ _ => ⟨vec_ready _ _ _ (fresh_plain _), rfl, operands_arrived _ _ 0 (by decide), rfl, rfl⟩

theorem wit_ReductionPositionTransposeResult_others : ∀ vop ∈ [0x28, 0x30, 0x38],
    VecReady (vecOf vop 0) opDescs xOps ∧ (vecOf vop 0).vop = vop ∧
    operandTiles (vecState vop 0) (vecImg (vecOf vop 0) opDescs) xOps true 0 9 = some (some zeroTile) ∧
    descOf (vecImg (vecOf vop 0) opDescs) xOps 3 = some (tile8 .bf16 2 0) ∧
    (dstTags (tile8 .bf16 2 0) fun n => readTag (vecImg (vecOf vop 0) opDescs) xOps 0 (n * (0 + 1)) zeroTile.1).isSome = true ∧
    (dstTags (tile8 .bf16 2 0) fun n => readTag (vecImg (vecOf vop 0) opDescs) xOps 0 n zeroTile.1).isSome = true := fun _ _ =>
  ⟨vec_ready _ _ _ (fresh_plain _), rfl, operands_arrived _ _ 0 (by decide), rfl, rfl, rfl⟩

/-- A table with one zero segment. -/
def zeroTab : TableRec := ⟨1, 0, false, 0, false, false, false, 0, 0, 0, 0, 0, 0, 0, 0, 0, [(0, 0, 0)]⟩

/-- The state in which table station 1 is about to issue `vecOf vop 0`. -/
def tabState (vop : Nat) (x : Step := xOps) : State := { ctxs := [(0, ctxFor (tabImg (vecOf vop 0) opDescs [zeroTab]))], steps := [x] }

theorem wit_TableStationResultAndWaits_result : ∀ vop ∈ [1, 2],
    TabReady (vecOf vop 0) opDescs [zeroTab] xOps ∧ (vecOf vop 0).vop = vop ∧
    descOf (tabImg (vecOf vop 0) opDescs [zeroTab]) xOps 3 = some (tile8 .bf16 2 0) ∧
    (tabImg (vecOf vop 0) opDescs [zeroTab]).tabs[(vecOf vop 0).arg]? = some zeroTab ∧
    operandTiles (tabState vop) (tabImg (vecOf vop 0) opDescs [zeroTab]) xOps true 0 9 = some (some zeroTile) ∧
    operandTiles (tabState vop) (tabImg (vecOf vop 0) opDescs [zeroTab]) xOps true 1 9 = some (some zeroTile) ∧
    (dstTags (tile8 .bf16 2 0) fun n => readTag (tabImg (vecOf vop 0) opDescs [zeroTab]) xOps 0 n zeroTile.1).isSome = true := fun _ _ =>
  ⟨tab_ready _ _ _ _ (fresh_plain _), rfl, rfl, rfl, rfl, rfl, rfl⟩

/-- A running step with a transfer of one FP32 block toward line 8 of pier 0 still to land. -/
def xAwaits : Step := { state := .running, inbound := [⟨0, 0, 0, 1, 8, 4, 0⟩] }

theorem wit_TableStationResultAndWaits_bankWrite :
    PierTurn { ctxs := [(0, ctxFor (pierImg (.bankWrite 0 4) [tile8 .fp32 2 0]))], steps := [xAwaits] } 0 0 xAwaits
      (pierImg (.bankWrite 0 4) [tile8 .fp32 2 0]) (ctxFor (pierImg (.bankWrite 0 4) [tile8 .fp32 2 0])) {} (pierIns (.bankWrite 0 4)) ∧
    ∃ l < 4 * (maskArrays 3#64).length, awaitsLine (pierImg (.bankWrite 0 4) [tile8 .fp32 2 0]) xAwaits 0 (4 + l) 5 = true :=
  ⟨⟨rfl, rfl, rfl, rfl, rfl, rfl, by decide, .inr rfl⟩, 7, by decide, by decide⟩

/-- A pier on whose array 0 two matrix instructions lag by twelve k-steps in all. -/
def lagging : UnitSt := { mmas := [⟨0, 0, 0, false, .bf16, .bf16, false, true, 0, 0, 1, 0, [], false, 0⟩, ⟨0, 0, 1, false, .bf16, .bf16, false, true, 0, 0, 1, 0, [], false, 0⟩] }

/-- The step of that pier. -/
def xLags : Step := { state := .running, units := [(0, lagging)] }

theorem wit_TableStationResultAndWaits_lag : ∀ op ∈ [mmaOp, .fill true .bf16 7 4094],
    PierTurn { ctxs := [(0, ctxFor (pierImg op))], steps := [xLags] } 0 0 xLags (pierImg op) (ctxFor (pierImg op)) lagging (pierIns op) ∧
    lagging.overLag 5 = true := fun op _ =>
  ⟨⟨rfl, rfl, rfl, rfl, rfl, rfl, by simp [phasesDue, pierImg], .inr rfl⟩, by decide⟩

theorem wit_TableStationResultAndWaits_vector : ∀ op ∈ vectorOps,
    VecReady (vecOf op.2.1 0) opDescs x0 ∧ (vecOf op.2.1 0).vop = op.2.1 ∧
    operandTiles (vecState op.2.1 0 x0) (vecImg (vecOf op.2.1 0) opDescs) x0 true 0 9 = none ∧
    (∀ r ∈ (vecState op.2.1 0 x0).host.reads, r.failed = false) := fun _ _ =>
  ⟨vec_ready _ _ _ (fresh_plain _), rfl, rfl, fun _ h => by cases h⟩

theorem wit_TableStationResultAndWaits_table :
    TabReady (vecOf 1 0) opDescs [zeroTab] x0 ∧ (vecOf 1 0).vop = 1 ∧
    operandTiles (tabState 1 x0) (tabImg (vecOf 1 0) opDescs [zeroTab]) x0 true 0 9 = none ∧ (∀ r ∈ (tabState 1 x0).host.reads, r.failed = false) :=
  ⟨tab_ready _ _ _ _ (fresh_plain _), rfl, rfl, fun _ h => by cases h⟩

/-! ### Gather stations -/

/-- A routing of 8 tokens over 8 experts, top 2, with spill: scores in stream 0, tokens in stream 1, dispatch in stream 2. -/
def rout : Routing := ⟨8, 8, 2, true, true, 2048, 2048, 0, 1, 2⟩

/-- Streams of the gather images: scores and tokens, the dispatch table, and windows of 16 blocks of rows. -/
def gatherDescs : List Desc :=
  [tile8 .fp32 2 0, tile8 .fp32 2 0, { tile8 .fp32 2 0 with tiles := 16 }, { tile8 .fp32 2 0 with tiles := 16 }, tile8 .fp32 2 0, tile8 .fp32 2 0]

/-- An image with routing 0 and the bindings of its backward pass. -/
def gatherImg : Image :=
  { routings := [rout], descs := gatherDescs, binds := [⟨6, 0, 0, false, 9, 4, 5⟩, ⟨7, 0, 0, false, 9, 0, 5⟩] }

/-- A running step of `gatherImg` whose inputs have arrived, with the records of a routing. -/
def xGather : Step :=
  { state := .running, streams := [(0, zeroStream 256), (1, zeroStream 256)], routes := [(0, [⟨0, 3, 0, 0, 0, 0x3F800000⟩, ⟨0, 4, 1, 2, 0, 0⟩])] }

/-- The state of the gather witnesses. -/
def gatherState : State := { ctxs := [(0, ctxFor gatherImg)], steps := [xGather] }

/-- A whole stream of one tile of zeros. -/
def zeroMat : Mat := (tile8 .fp32 2 0, [[some (List.replicate 256 0)]])

theorem wit_RoutingFillsWindows :
    workingStep gatherState 0 = some (xGather, gatherImg) ∧ gatherImg.routings[0]? = some rout ∧
    readMat gatherState gatherImg xGather rout.score 9 = some zeroMat ∧ readMat gatherState gatherImg xGather rout.token 9 = some zeroMat ∧
    descOf gatherImg xGather rout.dispatch = some { tile8 .fp32 2 0 with tiles := 16 } ∧
    descOf gatherImg xGather 3 = some { tile8 .fp32 2 0 with tiles := 16 } ∧ rout.dispatch ≠ 3 ∧
    OnTime gatherImg xGather (gatherUnit gatherImg xGather 0 9) 9 0 ∧
    (dstTags { tile8 .fp32 2 0 with tiles := 16 } fun n => readTag gatherImg xGather rout.token n zeroMat.1).isSome = true :=
  ⟨rfl, rfl, rfl, rfl, rfl, rfl, by decide, onTime_noTiming _ _ _ _ _ rfl, rfl⟩

theorem wit_CombineAndBackwardResult_combine :
    workingStep gatherState 0 = some (xGather, gatherImg) ∧ gatherImg.routings[0]? = some rout ∧
    kfind xGather.routes 0 = some [⟨0, 3, 0, 0, 0, 0x3F800000⟩, ⟨0, 4, 1, 2, 0, 0⟩] ∧ readMat gatherState gatherImg xGather 1 9 = some zeroMat ∧
    descOf gatherImg xGather 4 = some (tile8 .fp32 2 0) ∧ OnTime gatherImg xGather (gatherUnit gatherImg xGather 0 9) 9 0 ∧
    (dstTags (tile8 .fp32 2 0) fun n => readTag gatherImg xGather 1 n zeroMat.1).isSome = true :=
  ⟨rfl, rfl, rfl, rfl, rfl, onTime_noTiming _ _ _ _ _ rfl, rfl⟩

theorem wit_CombineAndBackwardResult_backward :
    workingStep gatherState 0 = some (xGather, gatherImg) ∧
    gatherImg.binds[0]? = some ⟨6, 0, 0, false, 9, 4, 5⟩ ∧ gatherImg.binds[1]? = some ⟨7, 0, 0, false, 9, 0, 5⟩ ∧
    gatherImg.routings[0]? = some rout ∧ (kfind xGather.routes 0).isSome = true ∧ readMat gatherState gatherImg xGather 0 9 = some zeroMat ∧
    readMat gatherState gatherImg xGather 1 9 = some zeroMat ∧ descOf gatherImg xGather 4 = some (tile8 .fp32 2 0) ∧
    descOf gatherImg xGather 5 = some (tile8 .fp32 2 0) ∧ OnTime gatherImg xGather (gatherUnit gatherImg xGather 0 9) 9 0 ∧
    (dstTags (tile8 .fp32 2 0) fun n => readTag gatherImg xGather 0 n zeroMat.1).isSome = true :=
  ⟨rfl, rfl, rfl, rfl, rfl, rfl, rfl, rfl, rfl, onTime_noTiming _ _ _ _ _ rfl, rfl⟩

theorem wit_BlockListsAreSorted_dense :
    workingStep gatherState 0 = some (xGather, gatherImg) ∧ (descOf gatherImg xGather 0).map (·.fmt) = some .fp32 ∧
    readMat gatherState gatherImg xGather 0 9 = some zeroMat ∧ descOf gatherImg xGather 3 = some { tile8 .fp32 2 0 with tiles := 16 } ∧
    ((allBlocks zeroMat).filter fun e => e.2.2.any fun w => decide (w % 2 ^ 31 ≠ 0)).length ≤ listCapacity gatherImg 3 ∧
    OnTime gatherImg xGather (gatherUnit gatherImg xGather 0 9) 9 0 := ⟨rfl, rfl, rfl, rfl, by decide, onTime_noTiming _ _ _ _ _ rfl⟩

theorem wit_BlockListsAreSorted_embedding :
    ((usedBlockRows [9, 3, 9]).flatMap fun br => (List.range (zeroMat.1.width / 8)).map fun bc =>
      ((br, bc, (List.range 64).map fun e => (idRow [9, 3, 9] zeroMat (8 * br + e / 8) (8 * bc + e % 8)).1) : ListEntry)).length ≤ listCapacity gatherImg 3 := by
  decide

/-! ### The deck, the bearings and the landing -/

/-- A running step of `img` in a context whose virtual page 0 is frame 5. -/
def memCtx (img : Image) : Ctx := { images := [(0, img)], pageMap := [(0, 5)], frames := [5], drawn := 1,
                                    windows := [⟨274877906944, 1, true, true, [0x40000000]⟩] }

/-- An image with one stored BF16 stream of two tiles at address 0, and a prefetch binding of depth 2 for stream 1 in the host window. -/
def memImg : Image :=
  { descs := [{ tile8 .bf16 0 0 with tiles := 2, stride0 := 128, rowTiles := 2 },
              { tile8 .bf16 0 274877906944 with tiles := 4, stride0 := 128, rowTiles := 4 }, { tile8 .bf16 1 64 with tiles := 1 }],
    binds := [⟨3, 1, 0, false, 0, 2, 0⟩] }

/-- The state of the deck witnesses, with the streams `ss`. -/
def memState (x : Step) : State := { ctxs := [(0, memCtx memImg)], steps := [x] }

/-- Descriptors 0 and 1 of `memImg`. -/
def stored0 : Desc := { tile8 .bf16 0 0 with tiles := 2, stride0 := 128, rowTiles := 2 }
def host1 : Desc := { tile8 .bf16 0 274877906944 with tiles := 4, stride0 := 128, rowTiles := 4 }

theorem wit_TilesAreReadAhead_bearing :
    stepOf (memState x0) 0 = some x0 ∧ x0.state.working = true ∧ ctxOf (memState x0) 0 = some (memCtx memImg) ∧
    kfind (memCtx memImg).images 0 = some memImg ∧ descOf memImg x0 0 = some stored0 ∧ stored0.space = 0 ∧
    bindOf memImg 2 0 = none ∧ 0 = (x0.stream 0).fetched.length / max 1 (presentCount memImg stored0) ∧ 0 < stored0.tiles ∧
    tagFor memImg x0 0 0 stored0.stash = some 0 ∧ (memState x0).sm.poison = [] ∧ stored0.base < windowBase ∧
    writeAhead memImg x0 stored0 9 (blockAddr memImg stored0 0) stored0.blockBytes = false ∧
    ((tileOffsets memImg stored0 0).filterMap fun a => (paOf (memCtx memImg) a).map (resolve (memState x0)))[0]? = some 10485760 ∧
    memImg.multi = false := ⟨rfl, rfl, rfl, rfl, rfl, rfl, rfl, rfl, by decide, rfl, rfl, by decide, rfl, rfl, rfl⟩

theorem wit_TilesAreReadAhead_weight :
    let img : Image := { memImg with binds := [⟨2, 0, 0, false, 0, 9, 0⟩] }
    let c : Ctx := { memCtx img with tensors := [{ num := 9, blocks := 1, shardBlocks := 1 }] }
    bindOf img 2 0 = some ⟨2, 0, 0, false, 0, 9, 0⟩ ∧ (tensorOf c 9).isSome = true ∧ tagFor img x0 0 0 stored0.stash = some 0 := ⟨rfl, rfl, rfl⟩

theorem wit_TilesAreReadAhead_prefetch :
    stepOf (memState x0) 0 = some x0 ∧ x0.state = .running ∧ imageOf (memState x0) x0 = some memImg ∧
    bindOf memImg 3 1 = some ⟨3, 1, 0, false, 0, 2, 0⟩ ∧ descOf memImg x0 1 = some host1 := ⟨rfl, rfl, rfl, rfl, rfl⟩

/-- A step with one block of each of streams 0 to 2 on the deck or read, and a transfer of stream 0 toward pier 3. -/
def xLands : Step :=
  { state := .running, streams := [(0, { zeroStream 128 with fetched := [⟨[], 0, 0⟩] }), (1, zeroStream 128), (2, zeroStream 128)],
    inbound := [⟨3, 0, 0, 1, 40, 4, 0⟩] }

theorem wit_ArrivalsLand_pier :
    stepOf (memState xLands) 0 = some xLands ∧ xLands.state.working = true ∧ ctxOf (memState xLands) 0 = some (memCtx memImg) ∧
    kfind (memCtx memImg).images 0 = some memImg ∧ descOf memImg xLands 0 = some stored0 ∧
    (xLands.inbound.find? fun w => decide (w.pier = 3 ∧ w.desc = 0)) = some ⟨3, 0, 0, 1, 40, 4, 0⟩ ∧
    (∀ j < 1, (sourceBlock (memState xLands) memImg xLands 0 stored0 4 (0 + j)).isSome = true) ∧
    (xLands.unit 3).mmas = [] ∧ (xLands.unit 3).fills = [] ∧ bindOf memImg 3 0 = none ∧
    residentLine memImg (memCtx memImg) 3 41 ≠ residentLine memImg (memCtx memImg) 3 40 :=
  ⟨rfl, rfl, rfl, rfl, rfl, rfl, by decide, rfl, rfl, rfl, by decide⟩

theorem wit_ArrivalsLand_local :
    descOf memImg xLands 2 = some { tile8 .bf16 1 64 with tiles := 1 } ∧ (xLands.stream 2).blocks.length = 0 + 1 ∧ (xLands.stream 2).memPos ≤ 0 ∧
    (xLands.stream 2).blocks[0]? = some ⟨List.replicate 128 0, 0, 0⟩ := ⟨rfl, rfl, by decide, rfl⟩

/-- The image whose deck writes are streams 0 and 1. -/
def outImg : Image := { memImg with writes := [0, 1], binds := [] }

theorem wit_ArrivalsLand_memory :
    let s : State := { ctxs := [(0, memCtx outImg)], steps := [xLands] }
    kfind (memCtx outImg).images 0 = some outImg ∧ descOf outImg xLands 0 = some stored0 ∧ stored0.space = 0 ∧ outImg.writes.contains 0 = true ∧
    bindOf outImg 2 0 = none ∧ (xLands.stream 0).blocks[(xLands.stream 0).memPos]? = some ⟨List.replicate 128 0, 0, 0⟩ ∧
    blockAddr outImg stored0 0 < windowBase ∧ (List.replicate 128 (0 : Byte)).length ≤ 512 ∧ s.sm.poison = [] ∧ (∀ w ∈ s.sm.mem.log, w.step ≠ 0) ∧
    (paOf (memCtx outImg) 0).isSome = true := ⟨rfl, rfl, rfl, rfl, rfl, rfl, by decide, by simp, rfl, (fun _ h => by cases h), rfl⟩

theorem wit_ArrivalsLand_staging :
    descOf outImg xLands 1 = some host1 ∧ host1.space = 0 ∧ outImg.writes.contains 1 = true ∧ bindOf outImg 2 1 = none ∧ bindOf outImg 4 1 = none ∧
    (xLands.stream 1).blocks[(xLands.stream 1).memPos]? = some ⟨List.replicate 128 0, 0, 0⟩ ∧
    windowBase ≤ blockAddr outImg host1 0 := ⟨rfl, rfl, rfl, rfl, rfl, rfl, by decide⟩

/-! ### BAR0 -/

/-- A module that is ready with its link up. -/
def up : State :=
  { boot := { stage := 0x0C, ready := true, railsOn := true, cxlTraining := false, idReady := true, memInit := true }, host := { up := true, rate := 2, width := 16 } }

theorem wit_RegisterReadsAnswer :
    up.host.up = true ∧ up.boot.ready = true ∧ 0x10018 % 8 = 0 ∧ regValue up 0x10018 = some 0 ∧ isRc 0x10018 = true ∧
    regValue up 0x40000 = some 0x0C ∧ isRc 0x40000 = false ∧ malformed up 0x10019 4 = true ∧ malformed up 0x90000 8 = true ∧
    (∀ k x, up.regs.latch = some (k, x) → k ≠ 0x10018) := ⟨rfl, rfl, rfl, rfl, rfl, by decide, by decide, by decide, by decide, by
  intro k x h; cases h⟩

/-- A ready module with the administrative ring and the ring of context 3. -/
def rings : State :=
  { up with admin := some { rcd := { cmdBase := 0x1000, statusBase := 0x2000, ctrlBase := 0x3000, cmdLog2 := 6, statusLog2 := 6 } },
            rings := [(3, { rcd := { cmdBase := 0x4000, statusBase := 0x5000, ctrlBase := 0x6000, cmdLog2 := 6, statusLog2 := 6, coalCount := 1, coalUs := 5 }, coalArmed := true,
                            statusTail := 2 })] }

theorem wit_DoorbellTakesValidIndices :
    rings.host.up = true ∧ rings.boot.ready = true ∧ (ringOf rings (.ctx 3)).isSome = true ∧ (ringOf rings .admin).isSome = true ∧ 3 < 256 :=
  ⟨rfl, rfl, rfl, rfl, by decide⟩

/-- A ready module whose vector 3 is masked and pending, and whose vector 257 sent a message in this microsecond and owes another. -/
def vectors : State :=
  { rings with msix := { table := [(257, { addr := 0x1000, control := 0 })], pend := [3], window := [257, 258], owed := [257] } }

theorem wit_MsixMessagesFollowTheTable :
    vectors.host.up = true ∧ vectors.boot.ready = true ∧ (vecEntry vectors 3).control.getLsbD 0 = true ∧ (5#64).getLsbD 32 = false ∧ 3 ∈ vectors.msix.pend ∧
    (∃ g, ringOf vectors (.ctx 3) = some g ∧ g.coalArmed = true ∧ g.fresh ≠ 0) ∧ 257 ∈ vectors.msix.window ∧ 257 ∈ vectors.msix.owed ∧
    (vecEntry vectors 257).control.getLsbD 0 = false ∧ 258 ∈ vectors.msix.window ∧ 258 ∉ vectors.msix.owed :=
  ⟨rfl, rfl, rfl, rfl, by decide, ⟨_, rfl, rfl, by decide⟩, by decide, by decide, rfl, by decide, by decide⟩

theorem wit_ErrorLogWindowAndW1c : up.host.up = true ∧ up.boot.ready = true ∧ 7 < 8 ∧ 9 < 10 := by decide

theorem wit_AdminRingInstallation :
    up.host.up = true ∧ up.boot.ready = true ∧ (1#64).getLsbD 0 = true ∧ ringFault (adminRecBytes up) (ctxSpans up) (allPages up) ≠ none := by decide

/-- A ready module whose administrative ring record names three regions of host memory. -/
def recorded : State := { up with regs := { adminRec := BitVec.ofNat 256 (leNat (leBytes 8 0x1000 ++ leBytes 8 0x2000 ++ leBytes 8 0x3000 ++ [0x66, 0, 0, 0])) } }

theorem wit_AdminRingInstallation_good :
    ringFault (adminRecBytes recorded) (ctxSpans recorded) (allPages recorded) = none ∧ recorded.admin = none := by decide

theorem wit_AdminRingInstallation_busy :
    ∃ g, ({ recorded with admin := some { cmds := [{}] } } : State).admin = some g ∧ g.cmds ≠ [] ∧
      ringFault (adminRecBytes { recorded with admin := some { cmds := [{}] } }) (ctxSpans { recorded with admin := some { cmds := [{}] } })
        (allPages { recorded with admin := some { cmds := [{}] } }) = none := ⟨_, rfl, by decide, by decide⟩

/-! ### The CXL link and host memory -/

/-- A write of path `p` of context 3, sent. -/
def hw (p : HwPath) : HostWrite := { id := 4, ctx := some 3, path := p, ring := some (.ctx 3), addr := 0x5000, bytes := [1] }

/-- A ready module with that write in flight. -/
def writing (p : HwPath) : State := { rings with host := { rings.host with writes := [hw p], nextId := 9 } }

theorem wit_HostWritesSettleOrAreGivenUp_observed : ∀ p : HwPath,
    ((writing p).host.writes.find? fun v => decide (v.id = (hw p).id)) = some (hw p) ∧ (hw p).lost = false ∧ (writing p).host.up = true ∧ (hw p).sent = true ∧
    (∀ v ∈ (writing p).host.writes, v.id ∉ (hw p).after) ∧ (writing p).sched.owing = [] ∧ (writing p).sched.follows = [] ∧ (∀ k, ctxOf (writing p) 3 = some k → k.destroying = none) ∧
    (∀ g, ringOf (writing p) (.ctx 3) = some g → ∀ c ∈ g.cmds, c.held = none) := fun p =>
  ⟨rfl, rfl, rfl, rfl, by
    intro v hv; simp only [writing, List.mem_singleton] at hv; simp [hv, hw], rfl, rfl, by intro k hk; simp [writing, ctxOf, rings, up, kfind] at hk, by
    intro g hg c hc; simp [writing, rings, ringOf, kfind] at hg; simp [← hg] at hc⟩

theorem wit_HostWritesSettleOrAreGivenUp_interrupt :
    let s : State := { writing .ctrl with msix := { table := [(3, { addr := 0x1000, control := 0 })] } }
    ∃ g, (hw .ctrl).ring = some (.ctx 3) ∧ (hw .ctrl).ctx = (RingId.ctx 3).ctxNo ∧ ringOf s (.ctx 3) = some g ∧ (∀ c ∈ g.cmds, c.held = none) ∧
      g.due (g.freshAt (hw .ctrl).tail) = true ∧ (∀ v ∈ s.host.writes, v.ring = some (.ctx 3) → v.path = .ctrl → (hw .ctrl).id ≤ v.id) ∧
      (vecEntry s (RingId.ctx 3).vector).control.getLsbD 0 = false :=
  ⟨_, rfl, rfl, rfl, (fun _ h => by cases h), by decide, (fun v h _ _ => by
    simp only [writing, List.mem_singleton] at h; simp [h, hw]), rfl⟩

/-- A command whose reply waits for the writes below 6. -/
def heldCmd : Cmd := { accepted := true, opcode := 0x0080, held := some {}, upTo := some 6 }

theorem wit_HostWritesSettleOrAreGivenUp_held :
    let s : State := { writing .result with rings := [(3, { cmds := [heldCmd] })] }
    ∃ g, (hw .result).path ≠ .ctrl ∧ ringOf s (.ctx 3) = some g ∧ g.cmds = [heldCmd] ∧ heldCmd.held = some {} ∧ heldCmd.upTo = some 6 ∧
      (∀ v ∈ s.host.writes, v.ctx = (hw .result).ctx → v.id < 6 → v.id = (hw .result).id) :=
  ⟨_, by decide, rfl, rfl, rfl, rfl, by decide⟩

theorem wit_HostWritesSettleOrAreGivenUp_noGo : ∀ p ∈ [HwPath.status, .event, .ctrl],
    ((writing p).host.writes.find? fun v => decide (v.id = (hw p).id)) = some (hw p) ∧ (hw p).path ∈ [HwPath.status, .event, .ctrl] := fun _ h => ⟨rfl, h⟩

theorem wit_HostWritesSettleOrAreGivenUp_step :
    let w : HostWrite := { hw .offload with step := some 0 }
    let s : State := { memState x0 with host := { writes := [w] } }
    (s.host.writes.find? fun v => decide (v.id = w.id)) = some w ∧ w.path = .offload ∧ stepOf s 0 = some x0 ∧ ringOf s (.ctx 3) = none ∧
      ∀ img, imageOf s x0 = some img → img.multi = false := ⟨rfl, rfl, rfl, rfl, fun _ h => by cases h; rfl⟩

theorem wit_HostWritesSettleOrAreGivenUp_noStep :
    let s : State := { host := { writes := [hw .shadow] } }
    let o : State := { host := { writes := [hw .offload] } }
    ((s.host.writes.find? fun v => decide (v.id = (hw .shadow).id)) = some (hw .shadow) ∧ (hw .shadow).step = none ∧ ringOf s (.ctx 3) = none) ∧
    (o.host.writes.find? fun v => decide (v.id = (hw .offload).id)) = some (hw .offload) ∧ (hw .offload).step = none ∧ ringOf o (.ctx 3) = none :=
  ⟨⟨rfl, rfl, rfl⟩, rfl, rfl, rfl⟩

/-- A step whose stream 1 has the blocks of three of its four tiles. -/
def xReads : Step := { state := .running, streams := [(1, { fetched := [⟨[], 0, 0⟩, ⟨[], 0, 0⟩, ⟨[], 0, 0⟩] })] }

/-- The read of tile 3 of stream 1 of that step. -/
def lastTile : HostRead := { id := 2, ctx := some 0, owner := .stream 0 1 3, addr := 0x40000000, len := 128 }

theorem wit_HostReadsAndRequestsAreAnswered_tile :
    let s : State := { memState xReads with host := { reads := [lastTile] } }
    (s.host.reads.find? fun v => decide (v.id = lastTile.id)) = some lastTile ∧ lastTile.data = none ∧ lastTile.failed = false ∧ offloadAhead s lastTile = false ∧
      lastTile.owner = .stream 0 1 (xReads.stream 1).fetched.length ∧ stepOf s 0 = some xReads ∧ imageOf s xReads = some memImg ∧
      descOf memImg xReads 1 = some host1 ∧ streamLen memImg host1 ≤ (xReads.stream 1).fetched.length + 1 ∧
      (∀ v ∈ s.host.reads, v.id ≠ lastTile.id → ∀ n, v.owner ≠ .stream 0 1 n) :=
  ⟨rfl, rfl, rfl, rfl, rfl, rfl, rfl, rfl, by decide, fun v hv h => by
    simp only [List.mem_singleton] at hv; exact absurd (by rw [hv]) h⟩

theorem wit_HostReadsAndRequestsAreAnswered_failed :
    let rd : HostRead := { lastTile with owner := .prefetch 0 1 3 }
    let s : State := { memState x0 with host := { reads := [rd] } }
    (s.host.reads.find? fun v => decide (v.id = rd.id)) = some rd ∧ rd.data = none ∧ rd.failed = false ∧ offloadAhead s rd = false ∧
      HostData.bytes .poison = none := ⟨rfl, rfl, rfl, rfl, rfl⟩

/-- The read of the first block of stream 0, which has failed. -/
def badRead : HostRead := { id := 2, ctx := some 0, owner := .stream 0 0 0, failed := true }

theorem wit_HostReadsAndRequestsAreAnswered_consumer : ∀ op ∈ vectorOps,
    let s : State := { vecState op.2.1 0 x0 with host := { reads := [badRead] } }
    VectorTurn s 0 1 x0 (vecImg (vecOf op.2.1 0) opDescs) (ctxFor (vecImg (vecOf op.2.1 0) opDescs)) {} (vecOf op.2.1 0) ∧
    (vecOf op.2.1 0).vop = op.2.1 ∧ operandTiles s (vecImg (vecOf op.2.1 0) opDescs) x0 true 0 9 = none ∧
    (vecImg (vecOf op.2.1 0) opDescs).multi = false ∧ badRead ∈ s.host.reads ∧ badRead.failed = true ∧
    badRead.owner = .stream 0 0 (x0.stream 0).fetched.length := fun op _ =>
  ⟨⟨rfl, rfl, rfl, rfl, rfl, rfl, by simp [phasesDue, vecImg], .inr (by simp [waitsDone, vecImg])⟩, rfl, rfl, rfl, by simp, rfl, rfl⟩

theorem wit_LinkEventsChangeTheLink :
    State.reset.boot.powered = true ∧ State.reset.boot.perstN = true ∧ State.reset.host.up = false ∧ linkMode 2 16 = true ∧ linkMode 1 4 = true ∧
    State.reset.sched.owing = [] ∧ State.reset.sched.follows = [] ∧ up.host.up = true ∧ hostCapacity { up with host := { up.host with rate := 1, width := 4 } } < hostCapacity up ∧
    ({ up with host := {} } : State).host.up = false ∧ up.boot.cxlTraining = false ∧ up.boot.powered = true ∧ up.boot.fatal = false := by decide

/-! ### Power, resets and boot -/

theorem wit_ResetsAndPowerKeepNonVolatileState :
    up.boot.powered = true ∧ up.boot.railsRemoved = false ∧ (0x4C5A0001#64).setWidth 32 = 0x4C5A0001#32 ∧ up.host.up = true ∧ up.mgmt.restarting = false ∧
    mgmtUp up = true ∧ ({ up with mgmt := { up.mgmt with written := [2] } } : State).mgmt.written ≠ [] ∧
    ({ up with boot := { up.boot with powered := false } } : State).boot.powered = false := by decide

/-- A powered module in boot stage `k`. -/
def stage (k : Nat) : State := { boot := { stage := k, idReady := true } }

theorem wit_BootAdvancesToReady : ∀ k ∈ [0x01, 0x02, 0x03, 0x04, 0x05, 0x06, 0x07, 0x08, 0x09, 0x0A, 0x0B],
    (stage k).boot.powered = true ∧ (stage k).boot.fatal = false ∧ (stage k).boot.perstN = true ∧ (stage k).boot.stage = k ∧ (stage k).boot.idReady = true ∧
    (stage k).store.loader = [{}, {}] ∧ (stage k).store.firmware = [{}, {}] ∧ (stage k).store.badRecords = 0 ∧ (stage k).power.events < 1024 ∧
    (stage k).store.lostStacks = [] ∧ coolantMet { temps := [320, 320, 320, 320], flow := 8000 } = true := by decide

theorem wit_BootAdvancesToReady_identity : 0x06 ≤ State.reset.boot.stage + 5 ∧ ({ boot := { stage := 0x06 } } : State).boot.idReady = false := by decide

set_option exponentiation.threshold 1000
set_option maxRecDepth 20000

/-! ### Rings and commands -/

/-- A command of opcode `op` with the argument bits `args` (from bit 32 on) and the parameter block `param`. -/
def cmd (op args : Nat) (param : Bytes := []) : Cmd := { opcode := op, desc := BitVec.ofNat 512 (op + args), param := param }

/-- A ready module whose administrative ring holds `c`. -/
def onAdmin (c : Cmd) : State := { rings with admin := some { rcd := { ctrlBase := 0x3000, cmdLog2 := 6, statusLog2 := 6 }, cmds := [c] } }

/-- A ready module with context 3, whose ring holds `c`. -/
def onCtx (k : Ctx) (c : Cmd) : State :=
  { rings with ctxs := [(3, k)], rings := [(3, { rcd := { ctrlBase := 0x6000, cmdLog2 := 6, statusLog2 := 6 }, cmds := [c] })] }

theorem current_admin (op args : Nat) (p : Bytes) : Current (onAdmin (cmd op args p)) .admin op (cmd op args p) :=
  ⟨by simp [curCmd, adminFirst, onAdmin, ringOf, cmd, begun], by simp [onAdmin, ringOf, Ring.cmd], by simp [onAdmin, ringOf]⟩

theorem current_ctx (k : Ctx) (op args : Nat) (p : Bytes) : Current (onCtx k (cmd op args p)) (.ctx 3) op (cmd op args p) :=
  ⟨by simp [curCmd, adminFirst, onCtx, rings, ringOf, kfind, cmd, begun], by simp [onCtx, ringOf, kfind, Ring.cmd], by simp [onCtx, ringOf, kfind]⟩

/-- A ready module with context 3, whose ring has one command to fetch. -/
def toFetch : State :=
  { rings with ctxs := [(3, {})], rings := [(3, { rcd := { cmdBase := 0x4000, ctrlBase := 0x6000, cmdLog2 := 6, statusLog2 := 6 }, cmdTail := 1 })] }

/-- The entry of a NOP with SEQ 0. -/
def nopEntry : Bytes := leBytes 64 1

theorem wit_CommandsAreFetchedAndOrdered_fetch :
    ∃ g, ringOf toFetch (.ctx 3) = some g ∧ eligible g = true ∧ ringLive toFetch (.ctx 3) = true ∧ toFetch.boot.fatal = false ∧
      opLegal (.ctx 3) (cmdOf nopEntry g.cmdHead.toNat toFetch.clk.uptime) = true ∧
      (cmdOf nopEntry g.cmdHead.toNat toFetch.clk.uptime).seqNo = g.expSeq.toNat ∧
      fieldFault toFetch (.ctx 3) (cmdOf nopEntry g.cmdHead.toNat toFetch.clk.uptime) = none ∧
      (cmdOf nopEntry g.cmdHead.toNat toFetch.clk.uptime).paramBytes = 0 :=
  ⟨_, rfl, by decide, by decide, rfl, by decide, by decide, by decide, by decide⟩

/-- The entry of a CTX_CREATE, which is not legal on the ring of a context. -/
def illegalEntry : Bytes := leBytes 64 0x10

theorem wit_CommandsAreFetchedAndOrdered_illegal :
    opLegal (.ctx 3) (cmdOf illegalEntry 0 0) = false ∧ (cmdOf illegalEntry 0 0).cfence = false ∧ HostData.bytes .error = none ∧
    (∃ g, ringOf toFetch (.ctx 3) = some g ∧ (∀ k ∈ g.cmds, k.seq ≠ (cmdOf illegalEntry 0 0).seq) ∧
      ∀ k ∈ g.cmds, k.accepted = true ∧ opLong k.opcode = true ∧ k.held = none) :=
  ⟨by decide, by decide, rfl, _, rfl, (fun _ h => by cases h), fun _ h => by cases h⟩

/-- The same ring behind a NOP that has not been accepted. -/
def behind : State :=
  { toFetch with rings := [(3, { rcd := { cmdBase := 0x4000, ctrlBase := 0x6000, cmdLog2 := 6, statusLog2 := 6 }, cmdTail := 2, cmdHead := 1, cmds := [{ opcode := 1 }] })] }

theorem wit_CommandsAreFetchedAndOrdered_behind :
    ∃ g, ringOf behind (.ctx 3) = some g ∧ eligible g = true ∧ ringLive behind (.ctx 3) = true ∧
      opLegal (.ctx 3) (cmdOf illegalEntry g.cmdHead.toNat behind.clk.uptime) = false ∧
      (∀ k ∈ g.cmds, k.seq ≠ (cmdOf illegalEntry g.cmdHead.toNat behind.clk.uptime).seq) ∧ (∃ k ∈ g.cmds, ¬ (k.accepted = true ∧ opLong k.opcode = true)) :=
  ⟨_, rfl, by decide, by decide, by decide, by decide, by decide⟩

theorem wit_CommandsAreFetchedAndOrdered_nop : Current (onAdmin (cmd 1 0)) .admin 0x0001 (cmd 1 0) := current_admin 1 0 []

theorem wit_CommandsAreFetchedAndOrdered_fence :
    Current (onCtx {} (cmd 0x80 0)) (.ctx 3) 0x0080 (cmd 0x80 0) ∧ ctxOf (onCtx {} (cmd 0x80 0)) 3 = some {} ∧ (onCtx {} (cmd 0x80 0)).sm.poison = [] ∧
    (∀ g, ringOf (onCtx {} (cmd 0x80 0)) (.ctx 3) = some g → ∀ k ∈ g.cmds, k.held = none) ∧
    writesOpen (onCtx {} (cmd 0x80 0)) (some 3) (onCtx {} (cmd 0x80 0)).host.nextId = false ∧
    writesOpen { onCtx {} (cmd 0x80 0) with host := { writes := [hw .result], nextId := 9 } } (some 3) 9 = true :=
  ⟨current_ctx _ _ _ _, rfl, rfl, (fun g h k hk => by
    simp [onCtx, ringOf, kfind] at h; simp only [← h, List.mem_singleton] at hk; rw [hk]; rfl), by decide, by decide⟩

/-- CTX_CREATE of context 7 with TAG 9, two frames, no window and no grant. -/
def createCmd : Cmd :=
  cmd 0x10 (7 * 2 ^ 288 + 9 * 2 ^ 320 + 2 * 2 ^ 352) (leBytes 8 0x10000 ++ leBytes 8 0x20000 ++ leBytes 8 0x30000 ++ [0x66, 0, 0, 0] ++ leBytes 4 0)

theorem wit_ContextCommandsTakeEffect_create :
    Current (onAdmin createCmd) .admin 0x0010 createCmd ∧ ctxOf (onAdmin createCmd) (createCmd.fld 295 288) = none ∧
    (∀ q ∈ (onAdmin createCmd).ctxs, q.2.tag.toNat ≠ createCmd.fld 351 320) ∧
    ringFault createCmd.param (allSpans (onAdmin createCmd)) (allPages (onAdmin createCmd)) = none ∧
    readWindows (onAdmin createCmd) createCmd.param (ringSpans (ringRecOf createCmd.param) ++ allSpans (onAdmin createCmd)) (createCmd.fld 391 384) [] [] = .good [] ∧
    claimsFault false (createCmd.fld 383 352) createCmd.param 32 (createCmd.fld 407 392) [] = none ∧
    newFrames (onAdmin createCmd) (createCmd.fld 383 352) = some [0, 1] ∧ (allPages (onAdmin createCmd)).length ≤ 524288 :=
  ⟨current_admin _ _ _, by decide, (fun _ h => by cases h), by decide, rfl, by decide, by decide, by decide⟩

/-- A context with one GENERAL window of one page, which the host may be written through. -/
def windowed : Ctx := { windows := [⟨windowBase, 1, true, true, [0x40000000]⟩], frames := [5, 6] }

/-- CTX_QUERY with a result buffer of 256 bytes in that window. -/
def queryCmd : Cmd := cmd 0x12 (windowBase * 2 ^ 192 + 256 * 2 ^ 256)

theorem wit_ContextCommandsTakeEffect_query :
    Current (onCtx windowed queryCmd) (.ctx 3) 0x0012 queryCmd ∧ ctxOf (onCtx windowed queryCmd) 3 = some windowed ∧ 256 ≤ queryCmd.resultBytes ∧
    queryCmd.resultAddr % 64 = 0 ∧ hostAddr windowed queryCmd.resultAddr = some 0x40000000 := ⟨current_ctx _ _ _ _, rfl, by decide, by decide, by decide⟩

/-- GROUP_SET of the group of nodes 2 and 5. -/
def groupCmd : Cmd := cmd 0xB1 (2 * 2 ^ 288) ([2, 0, 5, 0] ++ List.replicate 12 0)

theorem wit_ContextCommandsTakeEffect_group :
    Current (onCtx {} groupCmd) (.ctx 3) 0x00B1 groupCmd ∧ ctxOf (onCtx {} groupCmd) 3 = some {} ∧ ctxBusy (onCtx {} groupCmd) 3 = false ∧ groupFault groupCmd = none ∧
    5 ∈ groupMembers groupCmd := ⟨current_ctx _ _ _ _, rfl, by decide, by decide, by decide⟩

/-- CTX_DESTROY of context 3. -/
def destroyCmd : Cmd := cmd 0x11 (3 * 2 ^ 288)

theorem wit_ContextDestructionScrubs_destroy :
    let s : State := { onAdmin destroyCmd with ctxs := [(3, windowed)] }
    Current s .admin 0x0011 destroyCmd ∧ ctxOf s (destroyCmd.fld 295 288) = some windowed ∧ windowed.destroying = none :=
  ⟨⟨rfl, rfl, rfl⟩, rfl, rfl⟩

theorem wit_ContextDestructionScrubs_unit :
    let k : Ctx := { destroying := some 0, scrubUnits := [4] }
    let s : State := { onAdmin destroyCmd with ctxs := [(3, k)] }
    ctxOf s 3 = some k ∧ k.destroying = some 0 ∧ k.scrubFrames = [] ∧ 4 ∈ k.scrubUnits ∧ (∀ x ∈ s.steps, x.ctx ≠ 3) ∧
    unitClaimed s (.pier 4) = false := ⟨rfl, rfl, rfl, by decide, (fun _ h => by cases h), rfl⟩

theorem wit_ContextDestructionScrubs_frame :
    let k : Ctx := { destroying := some 0, scrubFrames := [5, 6] }
    let s : State := { onAdmin { destroyCmd with accepted := true } with ctxs := [(3, k)] }
    ((ringOf s .admin).bind fun g => g.cmd 0) = some { destroyCmd with accepted := true } ∧ destroyCmd.opcode = 0x0011 ∧
    (s.ctxs.find? fun q => decide (q.2.destroying = some 0)) = some (3, k) ∧ k.scrubFrames = [5, 6] ∧ s.store.retired = [] ∧
    (∀ x ∈ s.steps, x.ctx ≠ 3) ∧ (∀ b < 8, higherWork s b 5 = false) := ⟨rfl, rfl, rfl, rfl, rfl, (fun _ h => by cases h), by decide⟩

/-- The smallest image: a header and one empty claim list (R146, R147, R155). -/
def leastImage : Bytes :=
  leBytes 4 0x4C5A0601 ++ leBytes 4 1 ++ leBytes 4 384 ++ leBytes 4 100 ++ leBytes 4 0 ++ [0, 1] ++ List.replicate 106 0 ++
    [9, 0, 0, 0] ++ leBytes 4 1 ++ leBytes 4 256 ++ leBytes 4 16 ++ List.replicate 112 0 ++ List.replicate 128 0

/-- A context that may load it. -/
def loader : Ctx := { windowed with grants := [⟨12, 0, 132, 0⟩] }

/-- SCHED_LOAD of the image at the beginning of the window into slot 2. -/
def loadCmd : Cmd := cmd 0x20 (2 * 2 ^ 288 + windowBase * 2 ^ 320)

theorem wit_ScheduleImagesLoadAndUnload_load :
    Current (onCtx loader loadCmd) (.ctx 3) 0x0020 loadCmd ∧ ctxOf (onCtx loader loadCmd) 3 = some loader ∧ kfind loader.images (loadCmd.fld 291 288) = none ∧
    inGeneral loader false (loadCmd.fld 383 320) (leAt leastImage 8 4) = true := ⟨current_ctx _ _ _ _, rfl, rfl, by decide⟩

/-- The image that SCHED_LOAD makes of those bytes. -/
def leastLoaded : Image := withUses leastImage loader (withNulls (imageIn leastImage)) (ownNode (onCtx loader loadCmd))

theorem wit_ScheduleImagesLoadAndUnload_checks :
    imageFault leastImage (onCtx loader loadCmd) loader (loadedBinds loader) = none ∧
    firstExcess loader.grants (imageClaims leastLoaded) = none ∧ reservedClash (onCtx loader loadCmd) leastLoaded = none ∧
    loader.drawn + (newPages loader (dataPages leastLoaded (usesIn leastImage (directory leastImage) leastLoaded (ownNode (onCtx loader loadCmd))))).length +
      imageFrames leastLoaded ≤ loader.frames.length := by decide

theorem wit_ScheduleImagesLoadAndUnload_place :
    let k : Ctx := { images := [(2, {})] }
    let s : State := onCtx k { loadCmd with accepted := true }
    ctxOf s 3 = some k ∧ ((ringOf s (.ctx 3)).bind fun g => g.cmd 0) = some { loadCmd with accepted := true } ∧ loadCmd.opcode = 0x0020 ∧
    kfind k.images (loadCmd.fld 291 288) = some {} ∧ ({} : Image).placed = false ∧ (({} : Image).binds.filter (hostFilled {})).length ≤ [HostData.ok []].length ∧
    (∀ h ∈ [HostData.ok []], (HostData.bytes h).isSome = true) ∧ (∀ b < 8, higherWork s b 5 = false) :=
  ⟨rfl, rfl, rfl, rfl, rfl, by decide, by decide, by decide⟩

/-- SCHED_UNLOAD of slot 2. -/
def unloadCmd : Cmd := cmd 0x21 (2 * 2 ^ 288)

theorem wit_ScheduleImagesLoadAndUnload_unload :
    let k : Ctx := { images := [(2, { placed := true })] }
    Current (onCtx k unloadCmd) (.ctx 3) 0x0021 unloadCmd ∧ ctxOf (onCtx k unloadCmd) 3 = some k ∧ kfind k.images (unloadCmd.fld 291 288) = some { placed := true } ∧
    (∀ x ∈ (onCtx k unloadCmd).steps, x.ctx = 3 → x.slot ≠ unloadCmd.fld 291 288) := ⟨current_ctx _ _ _ _, rfl, rfl, fun _ h => by cases h⟩

/-- STEP_RUN of slot 2. -/
def runCmd : Cmd := cmd 0x40 (2 * 2 ^ 288)

/-- A running service with the empty image in slot 2. -/
def serving : Ctx := { images := [(2, { placed := true, length := 100 })], service := .running, frames := [5] }

theorem wit_StepsAreQueuedAndKilled_run :
    Current (onCtx serving runCmd) (.ctx 3) 0x0040 runCmd ∧ ctxOf (onCtx serving runCmd) 3 = some serving ∧
    loadedImage serving (runCmd.fld 291 288) = some { placed := true, length := 100 } ∧
    ({ placed := true, length := 100 } : Image).spoiled = false ∧
    stepRunFault (onCtx serving runCmd) serving runCmd { placed := true, length := 100 } = none := ⟨current_ctx _ _ _ _, rfl, rfl, rfl, by decide⟩

/-- STEP_KILL of the step that SEQ 8 began. -/
def killCmd : Cmd := { cmd 0x41 (8 * 2 ^ 288) with seq := 4 }

/-- The accepted STEP_RUN of SEQ 8. -/
def ranCmd : Cmd := { cmd 0x40 (8 * 2 ^ 32) with accepted := true, seq := 2 }

/-- Its step. -/
def xRan : Step := { id := 6, ctx := 3, seq := 2, slot := 2, state := .running }

/-- A ready module with that step and the STEP_KILL. -/
def killing : State := { onCtx serving killCmd with steps := [xRan], rings := [(3, { rcd := { ctrlBase := 0x6000, cmdLog2 := 6, statusLog2 := 6 }, cmds := [ranCmd, killCmd] })] }

theorem wit_StepsAreQueuedAndKilled_kill :
    Current killing (.ctx 3) 0x0041 killCmd ∧ ctxOf killing 3 = some serving ∧ killCmd.fld 320 320 = 0 ∧ stepOf killing xRan.id = some xRan ∧
    (∃ g, ringOf killing (.ctx 3) = some g ∧ g.cmd xRan.seq = some ranCmd ∧
      (∀ y ∈ killing.steps, y.ctx = 3 → y.id ≠ xRan.id → (g.cmd y.seq).map Cmd.seqNo ≠ some (killCmd.fld 319 288))) ∧
    ranCmd.seqNo = killCmd.fld 319 288 ∧ xRan.seq ≠ killCmd.seq ∧ xRan.state ≠ .committed ∧ xRan.state ≠ .hold ∧ xRan.ctx = 3 ∧
    pastCommit killing xRan = false ∧ killing.sched.owing = [] ∧ killing.sched.follows = [] ∧ ranCmd.opcode = 0x0040 ∧ ranCmd.cfence = false :=
  ⟨⟨rfl, rfl, rfl⟩, rfl, rfl, rfl, ⟨_, rfl, rfl, fun y hy _ h => by simp only [killing, List.mem_singleton] at hy; exact absurd (by rw [hy]) h⟩,
    rfl, by decide, by decide, by decide, rfl, rfl, rfl, rfl, rfl, rfl⟩

/-! ### The timetable and admission -/

/-- TIMETABLE_SET of one slot of 100 ticks for context 3 in a period of 1,000. -/
def tableCmd : Cmd := cmd 0x30 (1000 * 2 ^ 288 + 2 ^ 320) (leBytes 8 (100 * 2 ^ 27 + 3 * 2 ^ 54 + 2 ^ 63))

theorem wit_TimetableChangesAtBoundaries_set :
    let s : State := { onAdmin tableCmd with ctxs := [(3, { cls := true })] }
    Current s .admin 0x0030 tableCmd ∧ tableCmd.fld 330 320 ≠ 0 ∧
    tableSetFault s (tableCmd.fld 319 288) [] ((List.range (tableCmd.fld 330 320)).map (slotEntAt tableCmd.param)) = none ∧ s.sched.table = none :=
  ⟨⟨rfl, rfl, rfl⟩, by decide, by decide, rfl⟩

theorem wit_TimetableChangesAtBoundaries_remove :
    Current (onAdmin (cmd 0x30 0)) .admin 0x0030 (cmd 0x30 0) ∧ (cmd 0x30 0).fld 330 320 = 0 := ⟨current_admin _ _ _, by decide⟩

/-- A table whose slot 0 belongs to context 3 and lends its bubbles. -/
def oneSlot : TimeTab := ⟨1000, [⟨0, 100, 3, true, true⟩]⟩

/-- A ready module with that table. -/
def tabled (x : List Step) : State := { rings with sched := { table := some oneSlot }, ctxs := [(3, serving), (4, serving)], steps := x }

theorem wit_TimetableChangesAtBoundaries_boundary : (tabled []).sched.table = some oneSlot := rfl

/-- A queued step of context `n`. -/
def xQueued (i n : Nat) : Step := { id := i, ctx := n, slot := 2 }

theorem wit_StepsAreAdmitted_slot :
    slotAt (tabled [xQueued 6 3]) 0 = some ⟨0, 100, 3, true, true⟩ ∧ 0 ∉ (tabled [xQueued 6 3]).sched.active ∧ slotVictims (tabled [xQueued 6 3]) = [] ∧
    (∃ img c, admissible { tabled [xQueued 6 3] with sched := { (tabled [xQueued 6 3]).sched with active := [0] } } 3 none = some (xQueued 6 3, img, c) ∧
      thinOk c img = true) := ⟨rfl, by decide, rfl, _, _, rfl, rfl⟩

/-- An admitted best-effort step of context 4. -/
def xBest : Step := { xQueued 7 4 with state := .running, kind := .bestEffort }

theorem wit_StepsAreAdmitted_victim :
    slotAt (tabled [xBest]) 0 = some ⟨0, 100, 3, true, true⟩ ∧ 0 ∉ (tabled [xBest]).sched.active ∧
    slotVictims (tabled [xBest]) = [xBest] ∧ headStep (tabled [xBest]) 3 = none ∧ 3 ≠ xBest.ctx ∧ ctxOf (tabled [xBest]) xBest.ctx = some serving ∧
    (∀ img, imageOf (tabled [xBest]) xBest = some img → finalLate img xBest = none) :=
  ⟨rfl, by decide, rfl, rfl, by decide, rfl, fun _ h => by cases h; rfl⟩

theorem wit_StepsAreAdmitted_slotEnd :
    let s : State := { tabled [] with sched := { table := some oneSlot, active := [0] } }
    0 ∈ s.sched.active ∧ slotAt s 0 = some ⟨0, 100, 3, true, true⟩ ∧ ctxOf s 3 = some serving := ⟨by decide, rfl, rfl⟩

theorem wit_StepsAreAdmitted_bestEffort :
    let s : State := { tabled [xQueued 6 4] with sched := {} }
    inSlot s = false ∧ (∃ img c, nextBestEffort s = some (4, xQueued 6 4, img, c) ∧ thinOk c img = true) := ⟨rfl, _, _, rfl, rfl⟩

/-- The image of a real-time step with bubble 0 of 1,000 cycles, which lends claim list 1. -/
def bubbly : Image := { placed := true, length := 100, claims := [[], []], timing := [⟨5, 0, 0, 1000, 1⟩] }

/-- Its running step. -/
def xLender : Step := { id := 8, ctx := 3, slot := 2, state := .running, kind := .realTime }

/-- A ready module in the slot of that step, with a step of context 4 queued. -/
def lending : State :=
  { tabled [xLender, xQueued 6 4] with ctxs := [(3, { serving with images := [(2, bubbly)] }), (4, serving)], sched := { table := some oneSlot, active := [0] } }

theorem wit_StepsAreAdmitted_bubble :
    stepOf lending 8 = some xLender ∧ xLender.state = .running ∧ xLender.kind = .realTime ∧ imageOf lending xLender = some bubbly ∧ bubbleOf bubbly 0 = some ⟨5, 0, 0, 1000, 1⟩ ∧
    (∃ m c, admissible lending 4 (some 8) = some (xQueued 6 4, m, c) ∧ 32 + m.length + m.finalSlack ≤ 1000 ∧
      (m.claims.headD []).all (granted (bubbly.claims.getD 1 [])) = true ∧ thinOk c m = true) ∧
    0 ∈ lending.sched.active ∧ slotAt lending 0 = some ⟨0, 100, 3, true, true⟩ ∧ 4 ≠ xLender.ctx ∧ 0 ∉ xLender.lent :=
  ⟨rfl, rfl, rfl, rfl, rfl, ⟨_, _, rfl, by decide, rfl, rfl⟩, by decide, rfl, by decide, by decide⟩

/-! ### A step from preamble to release -/

/-- An image with one instruction on pier 0, a phase entry, a wait point on stream 0 and its fill segment. -/
def phased : Image :=
  { piers := [(0, [⟨5, 1, .flagClear false⟩])], descs := [tile8 .bf16 2 0], finalSlack := 3,
    timing := [⟨1, 7, 2, 4, 0⟩, ⟨3, 1, 3, 0, 0⟩, ⟨4, 1, 9, 10, 0⟩], parts := [] }

/-- A running step of it in the state `x`. -/
def phasing (x : Step) : State := { runs phased with steps := [x] }

theorem wit_StepsProgressOrSlip_preamble :
    stepOf (phasing { state := .admitted }) 0 = some { state := .admitted } ∧
    stepOf (phasing { state := .admitted, start := 40 }) 0 = some { state := .admitted, start := 40 } ∧
    imageOf (phasing { state := .admitted, start := 40 }) { state := .admitted, start := 40 } = some phased := ⟨rfl, rfl, rfl⟩

theorem wit_StepsProgressOrSlip_phase :
    imageOf (phasing x0) x0 = some phased ∧ phased.phases[0]? = some ⟨1, 7, 2, 4, 0⟩ ∧ nextCycle phased x0 (UnitRef.pier 0).key = some 5 ∧
    (x0.unit (UnitRef.pier 0).key).phase = 0 ∧ 2 ≤ 5 ∧ offsetOf phased x0 (UnitRef.pier 0).key ≤ 4 := ⟨rfl, rfl, rfl, rfl, by decide, by decide⟩

theorem segs_phased : segsOf phased 1 = [⟨4, 1, 9, 10, 0⟩] := by simp [segsOf, phased]

theorem wit_StepsProgressOrSlip_wait :
    waitOf phased 1 = some ⟨3, 1, 3, 0, 0⟩ ∧ 1 ∉ x0.waits ∧ waitArrived (ctxFor phased) phased x0 ⟨3, 1, 3, 0, 0⟩ = false ∧
    waitArrived (ctxFor phased) phased { x0 with streams := [(0, zeroStream 128)] } ⟨3, 1, 3, 0, 0⟩ = true ∧ (∀ q ∈ x0.usedSegs, q.1 = 1 → segmentRun phased x0 q = true) ∧
    ((segsOf phased 1).find? fun g => !x0.usedSegs.contains (1, g.arg2)) = some ⟨4, 1, 9, 10, 0⟩ ∧
    ((segsOf phased 1).find? fun g => !({ x0 with usedSegs := [(1, 0)] } : Step).usedSegs.contains (1, g.arg2)) = none ∧
    waitArrived (ctxFor phased) phased { x0 with usedSegs := [(1, 0)] } ⟨3, 1, 3, 0, 0⟩ = false ∧
    (∀ q ∈ ({ x0 with usedSegs := [(1, 0)] } : Step).usedSegs, q.1 = 1 → segmentRun phased { x0 with usedSegs := [(1, 0)] } q = true) :=
  ⟨rfl, by decide, rfl, rfl, (fun _ h => by cases h), by rw [segs_phased]; rfl, by rw [segs_phased]; rfl, rfl, by decide +kernel⟩

/-- A step whose pier has slipped by five cycles. -/
def xSlipped : Step := { state := .running, units := [(0, { slip := 5 })] }

theorem wit_StepsProgressOrSlip_slip :
    let s : State := { phasing xSlipped with rings := [(0, { rcd := { ctrlBase := 0x6000, cmdLog2 := 6, statusLog2 := 6 }, cmds := [{ ranCmd with seq := 0 }] })] }
    stepOf s 0 = some xSlipped ∧ imageOf s xSlipped = some phased ∧ phased.multi = false ∧
    (∃ g, ringOf s (.ctx 0) = some g ∧ g.cmd xSlipped.seq = some { ranCmd with seq := 0 }) ∧ ranCmd.opcode = 0x0040 ∧
    ranCmd.cfence = false ∧ s.sched.owing = [] ∧ s.sched.follows = [] ∧ phased.phases[0]? = some ⟨1, 7, 2, 4, 0⟩ ∧ 2 ≤ 5 ∧
    nextCycle phased xSlipped (UnitRef.pier 0).key = some 5 ∧ phased.finalSlack < offsetOf phased xSlipped (UnitRef.pier 0).key ∧
    (xSlipped.unit (UnitRef.pier 0).key).phase = 0 ∧ 4 < offsetOf phased xSlipped (UnitRef.pier 0).key :=
  ⟨rfl, rfl, rfl, ⟨_, rfl, rfl⟩, rfl, rfl, rfl, rfl, rfl, by decide, rfl, by decide, rfl, by decide⟩

/-- A staged step of the empty image, with a write on a die and one in stacked memory. -/
def staged (fl : List Event) : State :=
  { runs {} with steps := [{ state := .staged, units := [(0, { events := fl })] }], sm := { mem := { log := [⟨0, 3, 4096, 9, 0⟩] } },
                 pm := { tile := { log := [⟨0, 3, 64, 7, 0⟩] } }, ctxs := [(0, { images := [(0, {})], trapMask := 1 })] }

theorem wit_CommitMakesWritesStand_commit :
    stepOf (staged []) 0 = some { state := .staged, units := [(0, { events := [] })] } ∧
    imageOf (staged []) { state := .staged, units := [(0, { events := [] })] } = some {} ∧ allLanded {} { state := .staged, units := [(0, { events := [] })] } = true ∧
    shadowsOpen (staged []) 0 = false ∧ flagSummary { state := .staged, units := [(0, { events := [] })] } &&& 1 = 0 ∧
    gatherPending {} { state := .staged, units := [(0, { events := [] })] } = false ∧ ({} : Image).multi = false ∧ (staged []).sched.active = [] ∧
    (staged []).sched.owing = [] ∧ (staged []).sched.follows = [] ∧
    (∃ w ∈ (staged []).sm.mem.log, w.step = 0 ∧ w.addr = 4096 ∧ 0 < w.cycle) := ⟨rfl, rfl, rfl, rfl, by decide, rfl, rfl, rfl, rfl, rfl, by decide⟩

/-- An event of flag NI. -/
def invalid : Event := ⟨2, .pier false 0 0 0 0 0, 1, true, true⟩

theorem wit_CommitMakesWritesStand_trap :
    stepOf (staged [invalid]) 0 = some { state := .staged, units := [(0, { events := [invalid] })] } ∧
    imageOf (staged [invalid]) { state := .staged, units := [(0, { events := [invalid] })] } = some {} ∧
    allLanded {} { state := .staged, units := [(0, { events := [invalid] })] } = true ∧ gatherPending {} { state := .staged, units := [(0, { events := [invalid] })] } = false ∧
    shadowsOpen (staged [invalid]) 0 = false ∧
    flagSummary { state := .staged, units := [(0, { events := [invalid] })] } &&& 1 ≠ 0 := ⟨rfl, rfl, rfl, rfl, rfl, by decide⟩

theorem wit_CommitMakesWritesStand_release :
    let x : Step := { state := .committed }
    let s : State := { runs {} with steps := [x], rings := [(0, { rcd := { ctrlBase := 0x6000, cmdLog2 := 6, statusLog2 := 6 }, cmds := [{ ranCmd with seq := 0 }] })] }
    stepOf s 0 = some x ∧ ctxOf s 0 = some { images := [(0, {})] } ∧ ({ images := [(0, {})] } : Ctx).sender = none ∧ x.staged = [] ∧
    s.sched.owing = [] ∧ s.sched.follows = [] ∧ (∃ g, ringOf s (.ctx 0) = some g ∧ g.cmd x.seq = some { ranCmd with seq := 0 }) ∧ ranCmd.opcode = 0x0040 ∧ ranCmd.cfence = false :=
  ⟨rfl, rfl, rfl, rfl, rfl, rfl, ⟨_, rfl, rfl⟩, rfl, rfl⟩

set_option exponentiation.threshold 5000
set_option maxRecDepth 20000

/-! ### Weights and the model store -/

/-- A modulus of 4,096 bits, made for these tests, of which the signature below was made. -/
def trustKey : Nat :=
    0x5e001802afe220bc4cf117b22cbb36743655ccff849328aaeb4a6cb02283901119d3dfbfa3d6b4777bb22cf9d71b0bc79a471076d0fbed2d31ff03f86bb42513ae22232fe1117bf647f509e4bd4afe8230cd25d68d823cb86b6af924a0de342990200c98f62f40c1c84853d6bd2a0aff2c539bacbbc64a45ac074069b3c0a8fd * 2 ^ 0 +
    0x150b47e2b6ed953e30e38067500c35334fcd41ef6f7cabaa8cd9c3dc40f7bf67cbe4b44b0b1b9e0f1d80982d6eeb6710491d5a09b454d088b0fe59c3158bedb19b05b387f7b0cece5ddc65fdde0ff146dfc6c2539096f404fb579881f342c7825d8442d3d2eb0b69ec56038599659fcc1fb53ec98651f1e06e74024be59562a7 * 2 ^ 1024 +
    0xc5451ef58f466a369800becaa1a263b602025c1bc2d941a41438478442c11397b7c9d7822d741d08fd834b958b0f335895f7144e56e96ef7234e2322f820082e10aaa12b22c96d79a25cc84647d84ac15167ab5667d944213677e52c5925c43dab5ddaadce2e9fd5811d1f69773cb1e5b1f0d46003c4ef12f91e59a8dea6086 * 2 ^ 2048 +
    0xdffed726523542ff077ca7671ac6e88f8c6630f795b805967acc75e3bf1864804f6ea754e3718ff180c84ba2208e5c6cc31da67ec471a3032f29479b54f81d0ee696e0d1d248c4721aa3b17b4ebd9f62f3809b54c966ec3041d48a66d575b00b694d3bbe8823bc03b06af38d2ed4fef3b1e93b81b1f2b5d09f31e0021a0a9ac3 * 2 ^ 3072

/-- The RSASSA-PSS signature of `storeHead` under that key. -/
def trustSig : Nat :=
    0x3e39fa7cec7c9a6d43eaf0d2c1ec17707a513c7930c92be9c8e595288dde35eba444974034754903d8601717487a4b0ee203ce788fab0f047928f7f81c043add9ac5c2fcd1c184eb46d1d6d3f5da2e3d147472bf828ddde7a230c16cc5f348213c0763b65913cb58ecec7c95f200b03ad7f6ef509186ebc5bd9686193db2bd10 * 2 ^ 0 +
    0x77c0672f409948c02cd69019b691bcc9fb874bc10727feb94622cfa2a8ee3a7e4ad626f45966a69242926c83b64fd57cb788c1a4e734467816ffc8e23fe426f1bc08bafe35e287a6467bc8968fa99b4d32828b22bec369852c4976be42d1b2da21f70ed9feeed967dd5a249dde48e1ffc671f3165ce168ab5862ecce4cb338e0 * 2 ^ 1024 +
    0x69141e1aba54b204d21d9c01a2ac1dbf9d8adeca5b5f109bf03b911bbb378ecd2fce1b026a4bf1846f28d49a247592556cf68e907dbb080382935c400eb5bdf1f29090c808239b61275a88b29d26fef330ac66ab7605d17e211d390b42800eaa49bffda29792f5734a8bed1575ee4b77900add3556cd349e8105c1cd03bbd4c5 * 2 ^ 2048 +
    0x79c862df082255ee181a84fafe87f9719100763ec55a1eb3a0ed72d22684c86ed31e98c29030fd04c5205ff40484fdbc4fc24ef1f29daac58845c645d0132166a0e618c8fc8d06cf78d8ac7d066fee2dd611f261cf5dc404040f817e0d8a3fbf1f2ccdb20e053ad5afb09243921b522124cb69d7c664df47852b9815585b0dc9 * 2 ^ 3072

/-- The header and directory of a store image of one BF16 block, its digest table, whose one digest is that of no bytes, and its signature (R300, R301). -/
def storeHead : Bytes :=
  leBytes 4 0x4C5A0C01 ++ leBytes 2 1 ++ leBytes 2 0 ++ leBytes 8 5 ++ leBytes 4 1 ++ leBytes 4 0 ++ leBytes 8 0x200000 ++ leBytes 8 0 ++ leBytes 8 256 ++
    leBytes 8 320 ++ leBytes 8 384 ++ leBytes 8 0x100000 ++ List.replicate 184 0 ++
    leBytes 4 0x10 ++ leBytes 4 8 ++ leBytes 4 8 ++ leBytes 4 1 ++ leBytes 8 0x100000 ++ leBytes 8 128 ++ List.replicate 32 0 ++
    leBytes 64 0x3eda27f97a3238a5817a4147bd31b9632fec7e87d21883ffb0f2855d3cd1d047cee96cd321a9f483dc15570b05e420d607806dd6502854f1bdb8ef7e35e183cf ++ beBytes 512 trustSig

/-- A record of the configuration that holds the key. -/
def trustRecord : CfgRec := { bytes := List.replicate 592 0 ++ leBytes 512 trustKey ++ List.replicate 7088 0 }

/-- A ready module of which that record is in force, with context 3 and its command `c`. -/
def trusting (k : Ctx) (c : Cmd) : State := { onCtx k c with store := { cfgForce := trustRecord } }

theorem test_storeImage_signed : imageTrusted (trusting {} {}) storeHead = true := by decide +kernel

theorem test_storeImage_wellFormed : storeImageFault storeHead = none := by decide +kernel

theorem test_storeImage_block : blockTrusted storeHead 0 [] = true := by decide +kernel

/-- Trust depends only on the record in force. -/
theorem imageTrusted_congr (s t : State) (h : Bytes) (e : s.store.cfgForce = t.store.cfgForce) : imageTrusted s h = imageTrusted t h := by
  unfold imageTrusted; rw [e]

theorem wit_ServiceStopsSwapsAndStarts_stop :
    let c := cmd 0x52 (2 ^ 288)
    Current (onCtx serving c) (.ctx 3) 0x0052 c ∧ ctxOf (onCtx serving c) 3 = some serving ∧ serving.service = .running ∧ c.desc.getLsbD 288 = true :=
  ⟨current_ctx _ _ _ _, rfl, rfl, by decide⟩

theorem wit_ServiceStopsSwapsAndStarts_discard :
    let s : State := { onCtx serving (cmd 0x52 0) with steps := [{ xQueued 6 3 with seq := 2 }, { xQueued 7 3 with seq := 3, rerun := true }] }
    Current s (.ctx 3) 0x0052 (cmd 0x52 0) ∧ ctxOf s 3 = some serving ∧ serving.service = .running ∧ (cmd 0x52 0).desc.getLsbD 288 = false ∧
    (∀ x ∈ s.steps, x.ctx = 3 → x.state = .queued → x.seq ≠ (cmd 0x52 0).seq) ∧ (s.steps.map (·.id)).Nodup :=
  ⟨⟨rfl, rfl, rfl⟩, rfl, rfl, by decide, by decide, by decide⟩

theorem wit_ServiceStopsSwapsAndStarts_start :
    let k : Ctx := { tensors := [{ num := 9, loaded := true }] }
    let c := cmd 0x53 0
    Current (onCtx k c) (.ctx 3) 0x0053 c ∧ ctxOf (onCtx k c) 3 = some k ∧ k.service = .stopped ∧ k.swapWait = none ∧ (∀ t ∈ k.tensors, t.loaded = true) ∧
    (∀ j, k.load = some j → j.direct = false) ∧ slowOpen (onCtx k c) (some 3) (onCtx k c).host.nextId = false :=
  ⟨current_ctx _ _ _ _, rfl, rfl, rfl, by decide, (fun _ h => by cases h), rfl⟩

/-- A running service with a pending copy of tensor 9. -/
def pended : Ctx := { serving with tensors := [{ num := 9, frozen := true, blocks := 1, loaded := true, ages := [0] }], pendingTensors := [9],
                                   pendingCopies := [(copyKey 9 0 3, 0x3F80)] }

theorem wit_ServiceStopsSwapsAndStarts_swap :
    let c := cmd 0x51 (2 ^ 288)
    Current (onCtx pended c) (.ctx 3) 0x0051 c ∧ ctxOf (onCtx pended c) 3 = some pended ∧ pended.service = .running ∧ pended.swapWait = none ∧
    pended.pendingTensors ≠ [] ∧ (∀ x ∈ (onCtx pended c).steps, x.ctx ≠ 3) :=
  ⟨current_ctx _ _ _ _, rfl, rfl, rfl, by decide, fun _ h => by cases h⟩

/-- The same context once its service has stopped for the swap. -/
def swapped : Ctx := { pended with service := .stopped, swapWait := some (0, true) }

theorem wit_ServiceStopsSwapsAndStarts_switch :
    let q : Cmd := { cmd 0x51 (2 ^ 288) with accepted := true }
    let s := onCtx swapped q
    ctxOf s 3 = some swapped ∧ swapped.swapWait = some (q.seq, true) ∧ swapped.service = .stopped ∧ ctxBusy s 3 = false ∧
    (∃ g, ringOf s (.ctx 3) = some g ∧ g.cmd q.seq = some q) ∧ q.opcode = 0x0051 ∧ swapped.sender = none := ⟨rfl, rfl, rfl, rfl, ⟨_, rfl, rfl⟩, rfl, rfl⟩

theorem wit_StoreTransfersComplete_writes :
    let s : State := { store := { slots := [(5, { a := { blocks := [(7, [1])] } })],
                                  writing := [.copyA 2 none, .copyB 3 none, .directory 4 none, .repairSlot 5, .repairBlock 5 7 true] } }
    s.store.writing[0]? = some (.copyA 2 none) ∧ s.store.writing[1]? = some (.copyB 3 none) ∧ s.store.writing[2]? = some (.directory 4 none) ∧
    s.store.writing[3]? = some (.repairSlot 5) ∧ s.store.writing[4]? = some (.repairBlock 5 7 true) ∧
    kfind ((kget {} s.store.slots 5).copy !true).blocks 7 = some [1] := ⟨rfl, rfl, rfl, rfl, rfl, rfl⟩

/-- An unfrozen tensor of one block in group 0. -/
def oneBlock : Tensor := { num := 9, blocks := 1, shardBlocks := 1, ages := [0], loaded := true }

/-- A context that loads its tensor from slot 2 of the store. -/
def loading : Ctx := { tensors := [oneBlock], frames := [5, 6, 7], load := some { slot := 2, head := storeHead, records := [(9, 0, 0, false)] } }

/-- A ready module with that context; copy A of the slot is valid, and copy B where `b` says so. -/
def reading (b : Bool) : State :=
  { rings with ctxs := [(3, loading)], store := { slots := [(2, { a := { valid := true, head := storeHead }, b := { valid := b, head := storeHead } })] } }

theorem wit_StoreTransfersComplete_reads : ∀ b : Bool,
    ctxOf (reading b) 3 = some loading ∧ (∃ j, loading.load = some j ∧ j.source = 0 ∧ 0 < baseFrom ∧ j.nextBlock loading = some 0 ∧ j.receivers = [] ∧ 0 ∉ j.retry ∧
      (kget {} (reading b).store.slots j.slot).a.valid = true ∧ (kget {} (reading b).store.slots j.slot).b.valid = b ∧
      kget [] (kget {} (reading b).store.slots j.slot).a.blocks 0 = [] ∧ blockTrusted j.head 0 [] = true) := fun b =>
  ⟨rfl, _, rfl, rfl, by decide, by decide +kernel, rfl, by decide, by cases b <;> rfl, by cases b <;> rfl, by cases b <;> rfl, test_storeImage_block⟩

/-- WEIGHTS_LOAD of an image in host memory into slot 4 of the store. -/
def storeCmd : Cmd := cmd 0x50 (4 * 2 ^ 292 + 0x40000000 * 2 ^ 352)

theorem wit_StoreTransfersComplete_install :
    let s : State := { onAdmin storeCmd with store := { cfgForce := trustRecord } }
    Current s .admin 0x0050 storeCmd ∧ (kget {} s.store.slots (storeCmd.fld 295 292)).busy = false ∧
    (kget {} s.store.slots (storeCmd.fld 295 292)).repair = false ∧ slotRead s (storeCmd.fld 295 292) = false ∧ storeImageFault storeHead = none ∧
    imageTrusted s storeHead = true ∧ extentsUsed s (storeCmd.fld 295 292) + 2 * ceilDiv (imgBytes storeHead) (2 ^ 30) ≤ 4032 ∧ imgBlocks storeHead ≠ 0 :=
  ⟨⟨rfl, rfl, rfl⟩, rfl, rfl, rfl, test_storeImage_wellFormed, (imageTrusted_congr _ _ _ rfl).trans test_storeImage_signed, by decide +kernel, by decide +kernel⟩

/-- DIRECT WEIGHTS_LOAD of tensor 9 from slot 2 of the store. -/
def directCmd : Cmd := cmd 0x50 (2 ^ 288 + 2 ^ 291 + 2 * 2 ^ 292 + 2 ^ 320) (leBytes 32 9)

/-- The context that loads it. -/
def stopped : Ctx := { tensors := [oneBlock], frames := [5, 6, 7], drawn := 3 }

/-- A ready module with that context, its command and the image in slot 2. -/
def stored : State :=
  { onCtx stopped directCmd with store := { cfgForce := trustRecord, slots := [(2, { a := { valid := true, head := storeHead } })] } }

theorem wit_StoreTransfersComplete_load :
    Current stored (.ctx 3) 0x0050 directCmd ∧ ctxOf stored 3 = some stopped ∧ directCmd.fld 290 289 = 0 ∧
    (kget {} stored.store.slots (directCmd.fld 295 292)).a.valid = true ∧ (kget {} stored.store.slots (directCmd.fld 295 292)).a.head = storeHead ∧
    (kget {} stored.store.slots (directCmd.fld 295 292)).damaged = false ∧ (kget {} stored.store.slots (directCmd.fld 295 292)).busy = false ∧
    (kget {} stored.store.slots (directCmd.fld 295 292)).repair = false ∧ storeImageFault storeHead = none ∧ imageTrusted stored storeHead = true ∧ stopped.load = none ∧ directCmd.desc.getLsbD 291 = true ∧
    stopped.service = .stopped ∧ stopped.drawn ≤ stopped.frames.length :=
  ⟨⟨rfl, rfl, rfl⟩, rfl, by decide, rfl, rfl, rfl, rfl, rfl, test_storeImage_wellFormed, (imageTrusted_congr _ _ _ rfl).trans test_storeImage_signed, rfl, by decide, rfl, by decide⟩

theorem wit_StoreTransfersComplete_records :
    ((List.range (loadRecords directCmd.param (directCmd.fld 335 320)).length).findSome?
      (recordFault stopped directCmd.param 0 (loadRecords directCmd.param (directCmd.fld 335 320)))) = none ∧
    recordsImageFault stopped storeHead (loadRecords directCmd.param (directCmd.fld 335 320)) = none ∧
    baseFault stored storeHead (loadRecords directCmd.param (directCmd.fld 335 320)) = none := by decide +kernel

/-! ### Keystones, optimiser state and checkpoints -/

/-- An AdamW group. -/
def adam : OptGroup := { rule := 1, beta1 := 0x3F666666, beta2 := 0x3F7FBE77, eps := 0x322BCC77, lrPeak := 0x3A83126F, decay := 1000 }

/-- The context of the keystone witnesses: one tensor of one block under that group, clipped at 1.0 where `clip` says so. -/
def training (k : KeyIns) (ds : List Desc) (clip : Bool) : Ctx :=
  { images := [(0, keyImg k ds)], tensors := [oneBlock], groups := [adam], maxNorm := if clip then 0x3F800000 else 0, frames := [5, 6, 7] }

/-- ACCEPT, UPDATE from the buffer, UPDATE from a stream, and UPDATE_LIST of block 0 of tensor 9. -/
def keyOf (kop desc : Nat) : KeyIns := ⟨kop, desc, 9, 9, 0, 1⟩

/-- A step whose gradient block has arrived in stream 1, and which knows S. -/
def xGrads (b : Bytes) : Step :=
  { state := .running, streams := [(1, { blocks := [⟨b, 0, 0⟩, ⟨List.replicate 256 0, 0, 0⟩] })], total := some 0, scalars := [(0, [0x3A83126F, 0, 0, 0, 0, 0])] }

theorem fresh_grads (b : Bytes) : Fresh (xGrads b) := ⟨rfl, rfl, rfl, rfl, rfl, rfl⟩

/-- The stream of an FP32 gradient. -/
def gradDescs : List Desc := [tile8 .fp32 2 0, { tile8 .fp32 2 0 with tiles := 2 }]

/-- A state with that step. -/
def keyed (k : KeyIns) (clip : Bool) (b : Bytes) : State := { ctxs := [(0, training k gradDescs clip)], steps := [xGrads b] }

theorem wit_KeystoneEntriesUpdateShadows_accept : ∀ clip : Bool,
    KeyReady (keyOf 1 1) gradDescs (xGrads (List.replicate 256 1)) (training (keyOf 1 1) gradDescs clip) ∧
    tensorOf (training (keyOf 1 1) gradDescs clip) 9 = some oneBlock ∧ normNeeded (training (keyOf 1 1) gradDescs clip) = clip ∧
    (∃ qs, entryBlocks (keyed (keyOf 1 1) clip (List.replicate 256 1)) (keyImg (keyOf 1 1) gradDescs) (xGrads (List.replicate 256 1)) oneBlock (keyOf 1 1) = some qs ∧
      qs.map (·.1) = [0] ∧ (qs.map (·.1)).Nodup) := fun clip =>
  ⟨key_ready _ _ _ _ (fresh_grads _) rfl, by cases clip <;> rfl, by cases clip <;> rfl, _, rfl, rfl, by simp⟩

theorem wit_KeystoneEntriesUpdateShadows_update : ∀ d ∈ [0, 1],
    let s := keyed (keyOf 2 d) true (List.replicate 256 1)
    let x := xGrads (List.replicate 256 1)
    let c := training (keyOf 2 d) gradDescs true
    KeyReady (keyOf 2 d) gradDescs x c ∧ tensorOf c 9 = some oneBlock ∧ settleNorm c (keyImg (keyOf 2 d) gradDescs) x = x ∧
    x.total ≠ none ∧ s.sm.poison = [] ∧ mastersMissing x oneBlock [0] = [] ∧ x.skipped = false ∧ oneBlock.num < 4096 ∧
    (d = 1 → ∃ qs, entryBlocks s (keyImg (keyOf 2 d) gradDescs) x oneBlock (keyOf 2 d) = some qs ∧ qs.map (·.1) = [0]) := fun d _ =>
  ⟨key_ready _ _ _ _ (fresh_grads _) rfl, rfl, rfl, by decide, rfl, rfl, rfl, by decide, fun h => by subst h; exact ⟨_, rfl, rfl⟩⟩

theorem wit_KeystoneEntriesUpdateShadows_skip :
    mastersMissing { xGrads [] with skipped := true } oneBlock [0] = [] ∧ ({ xGrads [] with skipped := true } : Step).skipped = true := ⟨rfl, rfl⟩

/-- A block list with the one block (0, 0) and a capacity of 1. -/
def oneEntry : Bytes := leBytes 4 1 ++ leBytes 4 1 ++ List.replicate 8 0 ++ List.replicate 264 0

theorem wit_KeystoneEntriesUpdateShadows_list :
    KeyReady (keyOf 3 1) gradDescs (xGrads oneEntry) (training (keyOf 3 1) gradDescs false) ∧
    normNeeded (training (keyOf 3 1) gradDescs false) = false ∧ settleNorm (training (keyOf 3 1) gradDescs false) (keyImg (keyOf 3 1) gradDescs) (xGrads oneEntry) = xGrads oneEntry ∧
    (entryBlocks (keyed (keyOf 3 1) false oneEntry) (keyImg (keyOf 3 1) gradDescs) (xGrads oneEntry) oneBlock (keyOf 3 1)).map (·.map (·.1)) = some [0] :=
  ⟨key_ready _ _ _ _ (fresh_grads _) rfl, rfl, rfl, by decide +kernel⟩

/-- The OPT_CONFIG of one SGD group and of tensor 9 with RESET: header, group record, tensor record. -/
def optCmd : Cmd :=
  cmd 0x60 (112 * 2 ^ 96 + 2 ^ 294 + 2 ^ 300)
    (List.replicate 16 0 ++ (List.replicate 36 0 ++ leBytes 4 1 ++ List.replicate 24 0) ++ (leBytes 4 (9 + 2 ^ 21) ++ leBytes 4 1 ++ leBytes 4 0 ++ leBytes 4 1 ++ List.replicate 16 0))

/-- Its context: it has three frames and another tensor, frozen. -/
def configured : Ctx := { frames := List.range 9, tensors := [{ num := 8, frozen := true, blocks := 1, loaded := true }, oneBlock], drawn := 5, groups := [adam] }

theorem wit_OptimiserConfigurationTakesEffect :
    let s := onCtx configured optCmd
    Current s (.ctx 3) 0x0060 optCmd ∧ ctxOf s 3 = some configured ∧ ctxBusy s 3 = false ∧
    ([16], optCmd.paramBytes - 32 * [80].length) = groupOffsets optCmd.param (optCmd.fld 298 294) 16 ∧
    [80] = (List.range (optCmd.fld 312 300)).map (fun i => optCmd.paramBytes - 32 * (optCmd.fld 312 300) + 32 * i) ∧
    optFault configured optCmd.param [16] [80] = none ∧
    (configured.tensors.any fun q => !q.frozen && !([80].map fun o => (tensorAt optCmd.param o).num).contains q.num && decide (1 ≤ q.group)) = false ∧
    configured.drawn - optFrames configured + optFrames (optApplied configured optCmd.param (optCmd.fld 293 288) [16] [80]) ≤ configured.frames.length ∧
    (leAt optCmd.param 80 4).testBit 21 = true :=
  ⟨current_ctx _ _ _ _, rfl, rfl, by decide, by decide, by decide, by decide, by decide, by decide⟩

/-- A node that carries frames. -/
def node5 : NodeRec := { node := 5, retxUs := 20 }

theorem wit_CheckpointStreamsRunAndRestore_start :
    let c := cmd 0x70 (2 ^ 288 + 2 * 2 ^ 360 + 4 * 2 ^ 344 + 2 * 2 ^ 296)
    let c' := cmd 0x70 (2 * 2 ^ 296)
    (Current (onCtx windowed c) (.ctx 3) 0x0070 c ∧ c.desc.getLsbD 288 = true ∧ windowed.partner = none ∧ windowed.drawn + c.fld 391 360 ≤ windowed.frames.length) ∧
    Current (onCtx windowed c') (.ctx 3) 0x0070 c' ∧ c'.desc.getLsbD 288 = false ∧ windowed.sender = none :=
  ⟨⟨current_ctx _ _ _ _, by decide, rfl, by decide⟩, current_ctx _ _ _ _, by decide, rfl⟩

/-- The region of a partner: commit 3 in the base, nothing since, and its closed half. -/
def region (closed : Option (List (Nat × Bytes))) : Partner := { peer := 5, frames := 2, m := 4, baseSeq := 3, counts := [1], closed := closed, base := [(baseKey 0 9 0 4, 0x40000000)] }

theorem wit_CheckpointStreamsRunAndRestore_stop :
    let k : Ctx := { partner := some (region none), drawn := 2 }
    let k' : Ctx := { sender := some { peer := 2, lastAcked := 7 } }
    let c := cmd 0x71 (2 ^ 288)
    (Current (onCtx k c) (.ctx 3) 0x0071 c ∧ c.desc.getLsbD 288 = true) ∧ Current (onCtx k' (cmd 0x71 0)) (.ctx 3) 0x0071 (cmd 0x71 0) ∧
    (cmd 0x71 0).desc.getLsbD 288 = false ∧ k'.ckptWait = none ∧ (∀ q, k'.sender = some q → q.stopping = none ∧ q.unacked = []) :=
  ⟨⟨current_ctx _ _ _ _, by decide⟩, current_ctx _ _ _ _, by decide, rfl, by decide⟩

/-- A ready module of node 5 with context 3. -/
def noded (k : Ctx) : State := { rings with ctxs := [(3, k)], slory := { node := some node5 } }

theorem wit_CheckpointStreamsRunAndRestore_base :
    let k : Ctx := { tensors := [oneBlock], sender := some { peer := 2 } }
    ctxOf (noded k) 3 = some k ∧ (noded k).slory.node = some node5 ∧ publishingAdmitted (noded k) 3 = false ∧ (∀ t ∈ k.tensors, t.frozen = true ∨ t.slow = false) ∧
    ({ peer := 2, unacked := [(0, [])] } : CkptStream).unacked ≠ [] := ⟨rfl, rfl, rfl, by decide, by decide⟩

theorem wit_CheckpointStreamsRunAndRestore_rebase :
    let k : Ctx := { partner := some (region (some [])) }
    ctxOf (noded k) 3 = some k ∧ (region (some [])).closed ≠ none ∧ (∀ b < 8, higherWork (noded k) b 6 = false) ∧
    (∀ f ∈ (noded k).slory.rxFlows, ¬ (f.op = 5 ∧ f.key.tag = k.tag.toNat)) :=
  ⟨rfl, by decide, by decide, fun _ h => by cases h⟩

/-- CKPT_RESTORE of the state of node 5 that this node holds. -/
def restoreCmd : Cmd := cmd 0x72 (5 * 2 ^ 288 + 5 * 2 ^ 304)

theorem wit_CheckpointStreamsRunAndRestore_restore :
    let k : Ctx := { tensors := [oneBlock], partner := some (region none), groups := [adam] }
    let s : State := { onCtx k restoreCmd with slory := { node := some node5 } }
    Current s (.ctx 3) 0x0072 restoreCmd ∧ ctxOf s 3 = some k ∧ k.service = .stopped ∧ s.slory.node = some node5 ∧ node5.node = restoreCmd.fld 302 288 ∧
    node5.domain = restoreCmd.fld 303 303 ∧ (region none).peer = restoreCmd.fld 318 304 ∧ (region none).peerDomain = restoreCmd.fld 319 319 ∧
    (region none).state.seq = some 3 ∧ (k.tensors.map (·.num)).Nodup ∧ (∀ tn ∈ k.tensors, tn.num < 4096 ∧ tn.shardBlocks ≤ 2 ^ 32) :=
  ⟨⟨rfl, rfl, rfl⟩, rfl, rfl, rfl, by decide, by decide, by decide, by decide, rfl, by simp, by decide⟩

set_option exponentiation.threshold 5000
set_option maxRecDepth 20000

/-! ### Fabric entries and collectives -/

/-- An image of nodes 2 and 5 whose abutment 1 has the one entry `k`. -/
def fabImg (k : FabIns) (ds : List Desc) : Image := { fabrics := [(1, [k])], descs := ds, parts := [2, 5] }

/-- It is the turn of abutment 1 of the step `x` in the context `c` of a module with the transport `sl`, on time. -/
abbrev FabReady (k : FabIns) (ds : List Desc) (x : Step) (c : Ctx) (sl : Slory) : Prop :=
  FabricTurn { ctxs := [(0, c)], steps := [x], slory := sl } 0 1 x (fabImg k ds) c {} k ∧ OnTime (fabImg k ds) x {} k.cycle 0

theorem fab_ready (k : FabIns) (ds : List Desc) (x : Step) (c : Ctx) (sl : Slory) (h : Fresh x) (h5 : c.images = [(0, fabImg k ds)]) : FabReady k ds x c sl :=
  ⟨⟨by simp [stepOf, h.id], h.running, by simp [ctxOf, kfind, h.ctx], by simp [h5, kfind, h.slot],
    by simp [Step.unit, h.units, kget, kfind, UnitSt.located, h.segs], by simp [fabImg, kget, kfind], by simp [phasesDue, fabImg],
    .inr (by simp [waitsDone, fabImg])⟩, onTime_noTiming _ _ _ _ _ rfl⟩

/-- Entry `fop` of stream `d` with peer `n`, source index `i` and flow 6. -/
def fabOf (fop d n i : Nat) : FabIns := ⟨fop, d, n, 9, 6, i, 0⟩

/-- The context of the fabric witnesses, with tag 7. -/
def fabCtx (k : FabIns) (ds : List Desc) : Ctx := { images := [(0, fabImg k ds)], tag := 7 }

/-- A BF16 tile on the deck, one in the local store of span 0, and an FP32 tile on the deck. -/
def fabDescs : List Desc := [tile8 .bf16 2 0, tile8 .bf16 1 64, tile8 .fp32 2 0]

/-- A step of number 4 whose stream 0 has arrived. -/
def xFab : Step := { state := .running, number := 4, streams := [(0, zeroStream 128)] }

theorem fresh_fab : Fresh xFab := ⟨rfl, rfl, rfl, rfl, rfl, rfl⟩

/-- The transport of node 5 with the received flows `fs`. -/
def sloryWith (fs : List RxFlow) : Slory := { node := some node5, rxFlows := fs, nextFlow := 40 }

/-- The state of a fabric witness at node 5, with the received flows `fs`. -/
def fabState (k : FabIns) (x : Step) (fs : List RxFlow) : State :=
  { ctxs := [(0, fabCtx k fabDescs)], steps := [x], slory := sloryWith fs }

theorem wit_FabricEntriesSendAndReceive_send : ∀ fop ∈ [1, 3, 5],
    FabReady (fabOf fop 0 2 1) fabDescs xFab (fabCtx (fabOf fop 0 2 1) fabDescs) (sloryWith []) ∧
    (fabState (fabOf fop 0 2 1) xFab []).slory.node = some node5 ∧ (fabOf fop 0 2 1).fop = fop ∧ descOf (fabImg (fabOf fop 0 2 1) fabDescs) xFab 0 = some (tile8 .bf16 2 0) :=
  fun _ _ => ⟨fab_ready _ _ _ _ _ fresh_fab rfl, rfl, rfl, rfl⟩

theorem wit_FabricEntriesSendAndReceive_bytes :
    (∃ b, sendBytes (fabState (fabOf 1 0 2 1) xFab []) (fabImg (fabOf 1 0 2 1) fabDescs) xFab 0 (tile8 .bf16 2 0) 9 = some b) ∧
    (∃ b, sendBytes (fabState (fabOf 5 0 2 1) xFab []) (fabImg (fabOf 5 0 2 1) fabDescs) xFab 0 (tile8 .bf16 2 0) 9 = some b) ∧
    (fabOf 3 0 2 1).node ≠ node5.node ∧
    (∃ b, redBytes (fabState (fabOf 3 0 2 1) { xFab with accWritten := [6] } []) (fabCtx (fabOf 3 0 2 1) fabDescs) (fabImg (fabOf 3 0 2 1) fabDescs)
      { xFab with accWritten := [6] } (fabOf 3 0 2 1) = some b) := ⟨⟨_, rfl⟩, ⟨_, rfl⟩, by decide, ⟨_, rfl⟩⟩

theorem wit_FabricEntriesSendAndReceive_norm :
    FabReady (fabOf 7 0 0 0) fabDescs xFab (fabCtx (fabOf 7 0 0 0) fabDescs) (sloryWith []) ∧
    (fabOf 7 0 0 0).fop = 7 ∧ acceptsDone (fabImg (fabOf 7 0 0 0) fabDescs) xFab = true := ⟨fab_ready _ _ _ _ _ fresh_fab rfl, rfl, rfl⟩

theorem wit_FabricEntriesSendAndReceive_own :
    FabReady (fabOf 3 2 5 1) fabDescs { xFab with streams := [(2, zeroStream 256)] } (fabCtx (fabOf 3 2 5 1) fabDescs) (sloryWith []) ∧
    (fabOf 3 2 5 1).node = node5.node ∧
    (∃ b, redBytes (fabState (fabOf 3 2 5 1) { xFab with streams := [(2, zeroStream 256)] } []) (fabCtx (fabOf 3 2 5 1) fabDescs) (fabImg (fabOf 3 2 5 1) fabDescs)
      { xFab with streams := [(2, zeroStream 256)] } (fabOf 3 2 5 1) = some b) := ⟨fab_ready _ _ _ _ _ ⟨rfl, rfl, rfl, rfl, rfl, rfl⟩ rfl, by decide, ⟨_, rfl⟩⟩

/-- A complete flow of opcode `op` and flow number 6 from node 2, of `n` bytes, with source index `i`. -/
def flowIn (op i n : Nat) : RxFlow :=
  { id := i, key := ⟨7, 0, 2, 5, 4, 0, 6⟩, op := op, data := [(0, List.replicate n 1)], last := some 0, stepId := some 0, srcIndex := i }

theorem wit_FabricEntriesSendAndReceive_recv :
    let k := fabOf 2 0 2 0
    let k' := fabOf 6 1 2 0
    (FabReady k fabDescs xFab (fabCtx k fabDescs) (sloryWith [flowIn 1 0 128]) ∧
      stepRx (fabState k xFab [flowIn 1 0 128]) xFab 1 6 (fun f => decide (f.key.src = 2)) = some (flowIn 1 0 128)) ∧
    FabReady k' fabDescs xFab (fabCtx k' fabDescs) (sloryWith [flowIn 4 0 128]) ∧
    stepRx (fabState k' xFab [flowIn 4 0 128]) xFab 4 6 (fun f => decide (f.key.src = 2)) = some (flowIn 4 0 128) ∧
    descOf (fabImg k' fabDescs) xFab 1 = some (tile8 .bf16 1 64) ∧ (recvBlocks (tile8 .bf16 1 64) 9 (flowIn 4 0 128).bytes).length = 1 :=
  ⟨⟨fab_ready _ _ _ _ _ fresh_fab rfl, rfl⟩, fab_ready _ _ _ _ _ fresh_fab rfl, rfl, rfl, rfl⟩

theorem wit_ReductionsAddInSourceOrder_dense :
    let k := fabOf 4 0 0 1
    let s := fabState k xFab [flowIn 2 0 256, flowIn 2 1 256]
    FabReady k fabDescs xFab (fabCtx k fabDescs) (sloryWith [flowIn 2 0 256, flowIn 2 1 256]) ∧ contributions s xFab k = some [List.replicate 256 1, List.replicate 256 1] ∧
    descOf (fabImg k fabDescs) xFab 0 = some (tile8 .bf16 2 0) ∧ carriesList (fabImg k fabDescs) 0 = false :=
  ⟨fab_ready _ _ _ _ _ fresh_fab rfl, by decide, rfl, rfl⟩

/-- An image whose reduction of stream 2 is of block lists. -/
def listImg : Image := { fabImg (fabOf 4 2 0 0) fabDescs with keystones := [(0, [keyOf 3 2])] }

theorem wit_ReductionsAddInSourceOrder_list :
    let x := xFab
    let s : State := { ctxs := [(0, { images := [(0, listImg)], tag := 7 })], steps := [x],
                       slory := { rxFlows := [{ flowIn 2 0 0 with data := [(0, oneEntry)] }] } }
    FabricTurn s 0 1 x listImg { images := [(0, listImg)], tag := 7 } {} (fabOf 4 2 0 0) ∧ OnTime listImg x {} 9 0 ∧ carriesList listImg 2 = true ∧
    contributions s x (fabOf 4 2 0 0) = some [oneEntry] ∧ (mergeLists ([oneEntry].map listEntries)).length ≤ leAt oneEntry 4 4 :=
  ⟨⟨rfl, rfl, rfl, rfl, rfl, rfl, by simp [phasesDue, listImg, fabImg], .inr (by simp [waitsDone, listImg, fabImg])⟩, onTime_noTiming _ _ _ _ _ rfl, rfl,
    by decide +kernel, by decide +kernel⟩

theorem wit_ReductionsAddInSourceOrder_acc :
    let k := fabOf 8 0 0 0
    FabReady k fabDescs xFab (fabCtx k fabDescs) (sloryWith []) ∧ listStream (fabImg k fabDescs) xFab 0 = false ∧
    (∃ gs, streamWords (fabState k xFab []) (fabImg k fabDescs) xFab 0 (tile8 .bf16 2 0) 9 = some gs ∧ gs.length ≤ 1099511627776) :=
  ⟨fab_ready _ _ _ _ _ fresh_fab rfl, rfl, _, rfl, by decide⟩

/-- A step whose stream 0 carries a block list. -/
def xList : Step := { state := .running, number := 4, streams := [(0, { blocks := (rawBlocks 128 oneEntry 4), list := true })] }

theorem wit_ReductionsAddInSourceOrder_accList :
    let k := fabOf 8 0 0 0
    FabReady k fabDescs xList (fabCtx k fabDescs) (sloryWith []) ∧ listStream (fabImg k fabDescs) xList 0 = true ∧
    (∃ b, sendBytes (fabState k xList []) (fabImg k fabDescs) xList 0 (tile8 .bf16 2 0) 9 = some b ∧
      (mergeLists [[], listEntries b]).length ≤ leAt b 4 4) ∧ (fabCtx k fabDescs).thinPos = 0 :=
  ⟨fab_ready _ _ _ _ _ ⟨rfl, rfl, rfl, rfl, rfl, rfl⟩ rfl, rfl, ⟨oneEntry, by decide +kernel, by decide +kernel⟩, rfl⟩

/-! ### The transport -/

/-- A frame from node 2 for tag 7 and step 4, looped within the module. -/
def frameOf (op seq attempt sub : Nat) (last : Bool) (b : Bytes) (step : Nat := 4) : RxFrame :=
  { port := 8, udp := sloryHeader op 0 2 7 step 6 5 seq 0 b.length attempt last sub 0 ++ b, octets := 32 + b.length }

/-- The context of `rxState`. -/
def rxCtx (img : Image) : Ctx := { images := [(0, img)], tag := 7, repeatLimit := 2 }

/-- A ready node 5 whose context 0 has the step `x` of the image `img`, and which holds the frame `f`. -/
def rxState (img : Image) (x : List Step) (f : RxFrame) : State :=
  { rings with ctxs := [(0, rxCtx img)], steps := x, slory := { node := some node5, rx := [f], nextFlow := 40 } }

theorem wit_SloryFramesAreTaken_fault : ∃ f, nextRx (rxState {} [] (frameOf 1 0 0 0 true [])) = some f ∧ f.port = 8 ∧
    hdrFault { rxState {} [] (frameOf 1 0 0 0 true []) with ctxs := [] } f = some 4 ∧ hdrFault { rxState {} [] f with slory := {} } f = some 2 :=
  ⟨_, rfl, rfl, by decide, by decide⟩

theorem wit_SloryFramesAreTaken_data : ∀ q ∈ [((1, 2) : Nat × Nat), (4, 6), (2, 4)],
    let f := frameOf q.1 3 0 0 false (List.replicate 64 9)
    let s := rxState (fabImg (fabOf q.2 2 2 0) fabDescs) [{ xFab with attempt := 0 }] f
    let h := sloryHdr f.udp
    nextRx s = some f ∧ hdrFault s f = none ∧ h.op = q.1 ∧ ctxByTag s h.tag = some (0, rxCtx (fabImg (fabOf q.2 2 2 0) fabDescs)) ∧
    isStale s 0 (rxCtx (fabImg (fabOf q.2 2 2 0) fabDescs)) h = false ∧ admittedAt s 0 h = some { xFab with attempt := 0 } ∧ imageOf s { xFab with attempt := 0 } = some (fabImg (fabOf q.2 2 2 0) fabDescs) ∧
    128 * h.off + h.len ≤ 256 ∧ 2 ∈ (fabImg (fabOf q.2 2 2 0) fabDescs).parts ∧ h.src = 2 ∧
    entrySize (fabImg (fabOf q.2 2 2 0) fabDescs) { xFab with attempt := 0 } (if h.op = 1 then fun k => decide (k.fop = 2 ∧ k.node = h.src ∧ k.flow = h.flow)
        else if h.op = 4 then fun k => decide (k.fop = 6 ∧ k.node = h.src ∧ k.flow = h.flow)
        else fun k => decide (k.fop = 4 ∧ k.flow = h.flow ∧ h.srcIndex ≤ k.srcIndex)) = some 256 := by decide +kernel

theorem wit_SloryFramesAreTaken_attempts :
    let f := frameOf 1 3 1 0 false []
    let s := rxState (fabImg (fabOf 2 2 2 0) fabDescs) [{ xFab with attempt := 2 }] f
    let s' := rxState (fabImg (fabOf 2 2 2 0) fabDescs) [{ xFab with attempt := 0 }] f
    (∃ n c, ctxByTag s 7 = some (n, c) ∧ isStale s n c (sloryHdr f.udp) = true) ∧
    (∃ n c, ctxByTag s' 7 = some (n, c) ∧ isStale s' n c (sloryHdr f.udp) = false ∧ admittedAt s' n (sloryHdr f.udp) = none) :=
  ⟨⟨_, _, rfl, by decide⟩, ⟨_, _, rfl, by decide, by decide⟩⟩

theorem wit_SloryFramesAreTaken_bcast :
    let f := frameOf 3 0 0 0 false [1, 2] 0
    let c : Ctx := { tag := 7, load := some { source := 2 } }
    let s : State := { rxState {} [] f with ctxs := [(0, c)] }
    nextRx s = some f ∧ hdrFault s f = none ∧ ctxByTag s (sloryHdr f.udp).tag = some (0, c) ∧ ({ source := 2 } : LoadJob).parent = none ∧ (sloryHdr f.udp).op = 3 ∧ (sloryHdr f.udp).last = false ∧
    128 * (sloryHdr f.udp).off + (sloryHdr f.udp).len ≤ storeBlock ∧ (∀ g ∈ s.slory.rxFlows, g.id < 40) := by decide +kernel

theorem wit_SloryFramesAreTaken_delta :
    let f := frameOf 5 0 0 0 true [1, 2]
    let c : Ctx := { tag := 7, partner := some { region none with peer := 2 } }
    let s : State := { rxState {} [] f with ctxs := [(0, c)] }
    nextRx s = some f ∧ hdrFault s f = none ∧ (sloryHdr f.udp).op = 5 ∧ (sloryHdr f.udp).src = 2 ∧ (sloryHdr f.udp).dom = 0 ∧ (sloryHdr f.udp).off = 0 ∧ (sloryHdr f.udp).seq = 0 ∧
    (sloryHdr f.udp).last = true ∧ (sloryHdr f.udp).len ≤ 2 * 2097152 ∧ withholds c = false := by decide +kernel

/-- A flow toward node 2 with two frames sent. -/
def flowOut : TxFlow := { id := 9, key := ⟨7, 0, 5, 2, 4, 0, 6⟩, op := 1, frames := [(0, [1]), (1, [2])], sentUpTo := 2, stepId := some 0 }

/-- A node that has sent it and holds the answer `f`. -/
def answered (f : RxFrame) : State :=
  { rxState {} [] f with slory := { node := some node5, rx := [f], tx := [flowOut], rxFlows := [{ flowIn 1 0 8 with sinceAck := 1 }] } }

theorem wit_AnswersAndTimersKeepFlowsMoving_answers :
    let f := frameOf 0x10 1 0 0 false (leBytes 8 0)
    let g := frameOf 0x11 1 0 1 false []
    (nextRx (answered f) = some f ∧ hdrFault (answered f) f = none ∧ (ctxByTag (answered f) 7).isSome = true ∧ ackedFlow (answered f) (sloryHdr f.udp) = some flowOut ∧
      (sloryHdr f.udp).seq ≤ flowOut.sentUpTo ∧ (∀ i ∈ ackedSeqs (sloryHdr f.udp), i < flowOut.sentUpTo) ∧ flowOut.stepId ≠ none) ∧
    nextRx (answered g) = some g ∧ hdrFault (answered g) g = none ∧ ackedFlow (answered g) (sloryHdr g.udp) = some flowOut ∧ flowOut.frames[(sloryHdr g.udp).seq]? = some (1, [2]) ∧
    flowOut.awaits (sloryHdr g.udp).seq = true ∧ kfind flowOut.nakAt (sloryHdr g.udp).seq = none := by decide +kernel

theorem wit_AnswersAndTimersKeepFlowsMoving_timers :
    let s := answered (frameOf 0x11 1 0 1 false [])
    (s.slory.tx.find? fun f => decide (f.id = 9)) = some flowOut ∧ flowOut.awaits 1 = true ∧ flowOut.frames[1]? = some (1, [2]) ∧
    (s.slory.rxFlows.find? fun f => decide (f.id = 0)) = some { flowIn 1 0 8 with sinceAck := 1 } ∧ (flowIn 1 0 8).op ≠ 5 ∧ s.slory.node = some node5 ∧
    ({ flowIn 1 0 8 with sinceAck := 1 } : RxFlow).key.src ≠ node5.node := ⟨rfl, rfl, rfl, rfl, by decide, rfl, by decide⟩

/-- An image of nodes 2 and 5 that this node, number 5, does not lead, and one of nodes 5 and 2 that it leads. -/
def follow : Image := { parts := [2, 5] }

/-- A leader's node with a token of kind `sub`, where the votes of `ok` are in. -/
def leading (sub : Nat) (ok : List Nat) : State :=
  let f := frameOf 0x12 0 0 sub true (tokenBytes 0x0006 2 0)
  { rxState { parts := [5, 2] } [{ xFab with state := .hold }] f with
    slory := { node := some node5, rx := [f], leaders := [{ ctx := 0, step := 4, ok := ok }], nextFlow := 40 } }

theorem wit_LeaderDecidesOnce_votes : ∀ sub ∈ [1, 2, 3], ∀ ok ∈ [[], [5]],
    ∃ f, nextRx (leading sub ok) = some f ∧ f.port = 8 ∧ hdrFault (leading sub ok) f = none ∧
      ctxByTag (leading sub ok) (sloryHdr f.udp).tag = some (0, rxCtx { parts := [5, 2] }) ∧
      isStale (leading sub ok) 0 (rxCtx { parts := [5, 2] }) (sloryHdr f.udp) = false ∧
      admittedAt (leading sub ok) 0 (sloryHdr f.udp) = some { xFab with state := .hold } ∧
      leaderOf (leading sub ok) 0 (sloryHdr f.udp).step = some { ctx := 0, step := 4, ok := ok } ∧
      (sloryHdr f.udp).op = 0x12 ∧ (sloryHdr f.udp).sub = sub ∧ (sloryHdr f.udp).src ∈ ({ parts := [5, 2] } : Image).parts ∧ (sloryHdr f.udp).attempt = 0 := by
  intro sub h ok h'
  simp only [List.mem_cons, List.not_mem_nil, or_false] at h h'
  rcases h with rfl | rfl | rfl <;> rcases h' with rfl | rfl <;>
    exact ⟨_, rfl, rfl, by decide +kernel, by decide +kernel, by decide +kernel, by decide +kernel, by decide +kernel, by decide +kernel, by decide +kernel, by decide +kernel, by decide +kernel⟩

theorem wit_LeaderDecidesOnce_deadline :
    leaderOf (leading 1 []) 0 4 = some { ctx := 0, step := 4, ok := [] } ∧ collectiveStep (leading 1 []) 0 4 = some { xFab with state := .hold } ∧
    imageOf (leading 1 []) { xFab with state := .hold } = some { parts := [5, 2] } ∧ (leading 1 []).slory.node = some node5 ∧
    ctxOf (leading 1 []) 0 = some (rxCtx { parts := [5, 2] }) := ⟨rfl, rfl, rfl, rfl, rfl⟩

/-- A participant in decision hold that holds the decision `sub`. -/
def deciding (sub : Nat) : State := rxState follow [{ xFab with state := .hold }] (frameOf 0x12 0 0 sub true (tokenBytes 0x0006 2 0))

theorem wit_ParticipantsFollowTheDecision_decision : ∀ sub ∈ [0x10, 0x11, 0x12],
    ∃ f, nextRx (deciding sub) = some f ∧ f.port = 8 ∧ hdrFault (deciding sub) f = none ∧ (sloryHdr f.udp).op = 0x12 ∧ (sloryHdr f.udp).sub = sub ∧
      ctxByTag (deciding sub) (sloryHdr f.udp).tag = some (0, rxCtx follow) ∧ isStale (deciding sub) 0 (rxCtx follow) (sloryHdr f.udp) = false ∧
      admittedAt (deciding sub) 0 (sloryHdr f.udp) = some { xFab with state := .hold } ∧
      imageOf (deciding sub) { xFab with state := .hold } = some follow ∧ (sloryHdr f.udp).src = follow.leader ∧
      (deciding sub).sched.owing = [] ∧ (deciding sub).sched.follows = [] ∧ ({ xFab with state := .hold } : Step).kind ≠ .realTime := by
  intro sub h
  simp only [List.mem_cons, List.not_mem_nil, or_false] at h
  rcases h with rfl | rfl | rfl <;>
    exact ⟨_, rfl, rfl, by decide +kernel, by decide +kernel, by decide +kernel, by decide +kernel, by decide +kernel, by decide +kernel, rfl, by decide +kernel, rfl, rfl, by decide⟩

theorem wit_ParticipantsFollowTheDecision_timeout :
    stepOf (deciding 0x10) 0 = some { xFab with state := .hold } ∧ (ctxOf (deciding 0x10) 0).isSome = true ∧ (deciding 0x10).sched.owing = [] ∧
    (deciding 0x10).sched.follows = [] := ⟨rfl, rfl, rfl, rfl⟩

set_option exponentiation.threshold 5000
set_option maxRecDepth 20000

/-! ### Ports -/

/-- A port record with 802.1Q tags, PFC and pre-emption: port 2, 800 Gb/s, MTU 1,518. -/
def portRec : PortRec :=
  { lanes := 3, vlanEn := true, preemptEn := true, verifyEn := true, pcpExpress := 5, pcpBulk := 1, pfcRx := 0x22, vid := 7, maxFrame := 1518, hopLimit := 64,
    mac := 0x020000000005, ipv4 := 0x0A000005, ipv6 := 0xFD000000000000000000000000000005 }

/-- Its 64 bytes. -/
def portRecBytes : Bytes :=
  leBytes 8 (2 + 3 * 2 ^ 4 + 2 ^ 9 + 2 ^ 10 + 2 ^ 11 + 5 * 2 ^ 16 + 2 ^ 19 + 0x22 * 2 ^ 32 + 7 * 2 ^ 40) ++ leBytes 2 1518 ++ [64, 0] ++
    beBytes 6 0x020000000005 ++ beBytes 4 0x0A000005 ++ [0, 0] ++ beBytes 16 0xFD000000000000000000000000000005 ++ List.replicate 24 0

/-- The node record of node 5 behind port 2. -/
def nodeRecBytes : Bytes :=
  leBytes 4 (5 + 4791 * 65536) ++ List.replicate 28 0 ++ List.replicate 64 0 ++ (leBytes 6 0x020000000001 ++ [0, 0] ++ leBytes 4 0x0A000000 ++ List.replicate 20 0) ++
    List.replicate 160 0

theorem wit_PortsAreConfiguredAndTrain_ports :
    let c := cmd 0xB0 (4 * 2 ^ 288) portRecBytes
    Current (onAdmin c) .admin 0x00B0 c ∧ c.desc.getLsbD 296 = false ∧ ((List.range 8).filter fun q => c.desc.getLsbD (288 + q)) = [2] ∧
    portRecFault c.param 2 0 = none ∧ portRecAt c.param 0 = portRec ∧ portClaimed (onAdmin c) 2 = false :=
  ⟨current_admin _ _ _, by decide, by decide +kernel, by decide +kernel, by decide +kernel, rfl⟩

theorem wit_PortsAreConfiguredAndTrain_node :
    let c := cmd 0xB0 (2 ^ 296) nodeRecBytes
    Current (onAdmin c) .admin 0x00B0 c ∧ c.desc.getLsbD 296 = true ∧ (∀ q < 8, c.desc.getLsbD (288 + q) = false) ∧
    nodeRecFault c.param (fun q => (portOf { onAdmin c with ports := [(2, { rcd := portRec })] } q).rcd) = none ∧ (nodeRecAt c.param).node = 5 ∧
    (∀ x ∈ (onAdmin c).steps, x.state.live = false ∧ x.state ≠ .hold) := ⟨current_admin _ _ _, by decide, by decide, by decide +kernel, by decide +kernel, fun _ h => by cases h⟩

/-- Port 2 in the state `p`. -/
def ported (p : Port) : State := { rings with ports := [(2, p)], slory := { node := some { node5 with port := 4791 } } }

theorem wit_PortsAreConfiguredAndTrain_link :
    let p : Port := { rcd := portRec, training := true }
    let u : Port := { rcd := portRec, up := true, verify := 1 }
    portOf (ported p) 2 = p ∧ p.training = true ∧ p.up = false ∧ p.rcd.lanes ≠ 0 ∧ portOf (ported u) 2 = u ∧ u.up = true ∧ u.verify = 1 :=
  ⟨rfl, rfl, rfl, by decide, rfl, rfl, rfl⟩

/-- A frame to send, of priority `k`. -/
def toSend (k : Nat) : TxFrame := ⟨List.replicate 64 9, some 3, none, k⟩

/-- A frame long enough to be cut once. -/
def longFrame : TxFrame := ⟨List.replicate 200 9, some 3, none, 1⟩

/-- A port that is up with an express and a pre-emptable frame. -/
def sending : Port := { rcd := portRec, up := true, express := [toSend 5], bulk := [toSend 1] }

theorem wit_PortsTransmitExpressFirst :
    let s := ported sending
    let cutting : Port := { sending with onWire := some longFrame, preempt := true }
    portOf s 2 = sending ∧ sending.up = true ∧ ({ sending with expressWire := some (toSend 5) } : Port).expressWire = some (toSend 5) ∧
    sending.expressWire = none ∧ sending.ready sending.express = some (toSend 5) ∧ sending.onWire = none ∧
    (cutting.ready cutting.express = some (toSend 5) ∧ cutting.onWire = some longFrame ∧ cutting.cut = false ∧ cutting.canCut longFrame = true) ∧
    cutting.canCut (toSend 1) = false ∧ ({ cutting with cut := true, express := [] } : Port).ready [] = none ∧
    bulkReady (ported { sending with express := [] }) 2 = some (toSend 1) ∧ bulkReady (ported { sending with express := [], bulk := [] }) 2 = none ∧
    ({ sending with paused := 0x20 } : Port).ready sending.express = none := by decide +kernel

/-- A port that is up. -/
def listening : Port := { rcd := portRec, up := true, paused := 0x20, ignore := 2, pfcOn := 4, rxHeld := [(2, 50000)] }

/-- A PAUSE frame. -/
def pauseBytes : Bytes := etherBytes portRec 0x0180C2000001 0x8808 none (beBytes 2 1 ++ beBytes 2 9)

theorem wit_FlowControlPausesPriorities :
    portOf (ported listening) 2 = listening ∧ classifyFrame portRec 2 (pfcBytes portRec 5 0xFFFF) = .pfc ∧ classifyFrame portRec 2 pauseBytes = .pause ∧
    listening.paused.testBit 5 = true ∧ listening.ignore.testBit 1 = true ∧ listening.pfcOn.testBit 2 = true ∧ 49152 ≤ kget 0 listening.rxHeld 2 ∧
    listening.up = true := by decide +kernel

/-- A UDP frame for this port and the transport, an ARP request for its address, and a neighbour solicitation for it. -/
def udpFrame : Bytes :=
  etherBytes { portRec with mac := 0x020000000001 } 0x020000000005 0x0800 none
    (ipBytes false 64 0x0A000002 0x0A000005 17 (udpBytes false 0x0A000002 0x0A000005 4791 4791 (List.replicate 40 3)))
def arpFrame : Bytes :=
  etherBytes { portRec with mac := 0x020000000001 } 0xFFFFFFFFFFFF 0x0806 none
    (beBytes 8 0x0001080006040001 ++ beBytes 6 0x020000000001 ++ beBytes 4 0x0A000002 ++ beBytes 6 0 ++ beBytes 4 0x0A000005)
def solicitFrame : Bytes :=
  let body := fun (c : Nat) => beBytes 2 0x8700 ++ beBytes 2 c ++ beBytes 4 0 ++ beBytes 16 portRec.ipv6
  let dst := solicitedGroup portRec.ipv6
  etherBytes { portRec with mac := 0x020000000001 } (groupMac dst) 0x86DD none
    (ipBytes true 255 0xFD000000000000000000000000000002 dst 58 (body (inetSum (pseudo6 0xFD000000000000000000000000000002 dst 58 24 ++ body 0))))

theorem wit_ReceivedFramesAreClassified :
    portOf (ported listening) 2 = listening ∧ listening.up = true ∧ classifyFrame portRec 2 (List.replicate 10 0) = .drop 24 ∧
    (∃ ns f, classifyFrame portRec 2 udpFrame = .udp ns f 4791 ∧ rxTotal listening + f.octets ≤ 524288) ∧
    (∃ nd, (ported listening).slory.node = some nd ∧ nd.port = 4791) ∧ (ported { listening with rxHeld := [(2, 524288)] }).slory.node.map (·.port) = some 4791 ∧
    524288 < rxTotal { listening with rxHeld := [(2, 524288)] } + 86 ∧
    classifyFrame portRec 2 arpFrame = .arp true ∧ classifyFrame portRec 2 solicitFrame = .solicit true :=
  ⟨rfl, rfl, by decide +kernel, ⟨false, ⟨2, 0x0A000002, false, 0, 86, List.replicate 40 3, 0⟩, by decide +kernel, by decide⟩, ⟨_, rfl, rfl⟩, rfl, by decide,
    by decide +kernel, by decide +kernel⟩

/-! ### Stacked memory, sensors and power -/

/-- PAGE_RETIRE of granule 9 of stack 2. -/
def retireCmd : Cmd := cmd 0x90 (2 * 2 ^ 288 + 9 * 2 ^ 291)

theorem wit_BearingsKeepMemoryWhole_retire :
    Current (onAdmin retireCmd) .admin 0x0090 retireCmd ∧ 2 = retireCmd.fld 290 288 ∧ 9 = retireCmd.fld 309 291 ∧
    kfind (onAdmin retireCmd).store.retired (granKey 2 9) = none ∧ 9 < spareFirst ∧ freeSpare (onAdmin retireCmd) 2 = some 0 ∧
    frameOwner (onAdmin retireCmd) (9 / 4) = none ∧ (∀ j < 8, (stackOf (onAdmin retireCmd) j).wc = []) ∧ MemoryCanonical (onAdmin retireCmd) :=
  ⟨current_admin _ _ _, by decide, by decide, rfl, by decide, rfl, rfl, by decide, rfl⟩

theorem wit_BearingsKeepMemoryWhole_copy :
    let x : Ctx := { frames := [2], retiring := [(2, 9, 0)] }
    let s : State := { onAdmin { retireCmd with accepted := true } with ctxs := [(3, x)] }
    let s' : State := { onAdmin { retireCmd with accepted := true } with sm := { retiring := [(2, 9, 0)] } }
    pendingRetire s 2 9 = some (some 3, (2, 9, 0)) ∧ ctxBusy s 3 = false ∧ pendingRetire s' 2 9 = some (none, (2, 9, 0)) ∧
    ∀ u ∈ [s, s'], higherWork u 2 4 = false ∧ kfind u.store.retired (granKey 2 9) = none ∧ freeSpare u 2 = some 0 ∧ (∀ j < 8, (stackOf u j).wc = []) ∧
      Memory.wf u.sm.mem.base = true := by decide +kernel

/-- A module whose stack 0 has an idle write-combining entry of line 4, and a corrected line 5 to rewrite; one transfer has failed twice. -/
def bearing : State :=
  { rings with sm := { stk := [(0, { wc := [{ line := 4, ctx := 3, mask := BitVec.allOnes 128 }], rewrites := [(5, 0)], parityTry := [(6, 2)] })] } }

theorem wit_BearingsKeepMemoryWhole_lines :
    let full : WcEntry := { line := 4, ctx := 3, mask := BitVec.allOnes 128 }
    let part : WcEntry := { line := 4, ctx := 3, mask := 1 }
    let merging : State := { rings with sm := { stk := [(0, { wc := [part] })] } }
    bearing.boot.fatal = false ∧ bearing.boot.powered = true ∧ ((stackOf bearing 0).wc.find? fun e => decide (e.line = 4)) = some full ∧ full.plain = true ∧
    ((stackOf merging 0).wc.find? fun e => decide (e.line = 4)) = some part ∧ part.plain = false ∧ linePoisoned merging (4 * 128) = false ∧
    ((stackOf bearing 0).rewrites.any fun q => decide (q.1 = 5)) = true ∧
    (paStack (6 * 128) = 0 ∧ inStructures (6 * 128) = false ∧ linePoisoned merging (6 * 128) = false ∧ higherWork merging 0 7 = false) ∧
    (stackOf bearing (paStack 768)).lost = false ∧ kget 0 (stackOf bearing (paStack 768)).parityTry (768 / 128) = 2 ∧
    kget 0 (stackOf merging (paStack 768)).parityTry (768 / 128) < 2 := by decide +kernel

theorem wit_SensorsGovernPower :
    up.boot.powered = true ∧ highest ([1500, 1850].take 38) = 1850 ∧ highest ((List.range 8).flatMap fun i => if i = 3 then [1400, 1510].take 8 else (stackOf up i).sensors) = 1510 ∧
    up.boot.railsOn = true ∧ up.power.flow < 1000 ∧ up.boot.fatal = false ∧ ({ recovery := true, flow := 4000 } : Power).recovery = true ∧ up.power.logicLimit = false ∧
    up.power.dramLimit = false := by decide

theorem wit_PowerIsMeasuredAndControlled :
    up.boot.powered = true ∧ ({ mode := .normal } : Power).mode = .normal ∧ up.boot.railsRemoved = false ∧ up.power.recovery = false ∧
    (up.power.droopRecent.filter fun t => decide (up.clk.uptime < t + 100000)).length < 15 ∧ ({ mode := .test } : Power).mode ≠ .normal ∧
    ({ droopHold := true } : Power).droopHold = true := by decide

theorem wit_ServiceCommandsReply_reports :
    let c := cmd 0xA1 (0x5000 * 2 ^ 192 + 2304 * 2 ^ 256)
    let k := cmd 0xA1 (windowBase * 2 ^ 192 + 128 * 2 ^ 256)
    let a := cmd 0xC0 (0x5000 * 2 ^ 192 + 8192 * 2 ^ 256)
    (Current (onAdmin c) .admin 0x00A1 c ∧ 2304 ≤ c.resultBytes ∧ c.resultAddr % 64 = 0) ∧
    (Current (onCtx windowed k) (.ctx 3) 0x00A1 k ∧ 128 ≤ k.resultBytes ∧ k.resultAddr % 64 = 0 ∧ hostAddr windowed k.resultAddr = some 0x40000000) ∧
    (Current (onAdmin a) .admin 0x00C0 a ∧ 8192 ≤ a.resultBytes ∧ a.resultAddr % 64 = 0) ∧
    let b := cmd 0xC0 (windowBase * 2 ^ 192 + 8192 * 2 ^ 256)
    Current (onCtx windowed b) (.ctx 3) 0x00C0 b ∧ 8192 ≤ b.resultBytes ∧ b.resultAddr % 64 = 0 ∧ ctxOf (onCtx windowed b) 3 = some windowed ∧
    windowed.destroying = none :=
  ⟨⟨current_admin _ _ _, by decide, by decide⟩, ⟨current_ctx _ _ _ _, by decide, by decide, by decide⟩, ⟨current_admin _ _ _, by decide, by decide⟩,
    current_ctx _ _ _ _, by decide, by decide, rfl, rfl⟩

theorem wit_ServiceCommandsReply_diag :
    let c := cmd 0xF0 0
    let s := onAdmin c
    Current s .admin 0x00F0 c ∧ s.ctxs = [] ∧ s.diag = none ∧ s.power.recovery = false ∧ s.boot.ready = true ∧
    ({ s with diag := some ⟨0, 1⟩ } : State).diag = some ⟨0, 1⟩ ∧ ((ringOf s .admin).bind fun g => g.cmd c.seq) = some c :=
  ⟨current_admin _ _ _, rfl, rfl, rfl, rfl, rfl, rfl⟩

theorem wit_ServiceCommandsReply_timeout : ∀ op ∈ [0x20, 0x50, 0x70, 0x72],
    let c : Cmd := { cmd op 0 with accepted := true }
    let k : Ctx := { load := some {}, sender := some {} }
    let s := onCtx k c
    ((ringOf s (.ctx 3)).bind fun g => g.cmd c.seq) = some c ∧ c.accepted = true ∧ c.held = none ∧ s.sched.owing = [] ∧ s.sched.follows = [] ∧ c.opcode = op ∧
    ctxOf s 3 = some k ∧ k.load = some {} ∧ ({} : LoadJob).seq = c.seq ∧ k.sender = some {} ∧ ({} : CkptStream).stopping = none := by
  intro op h
  simp only [List.mem_cons, List.not_mem_nil, or_false] at h
  rcases h with rfl | rfl | rfl | rfl <;> exact ⟨rfl, rfl, rfl, rfl, rfl, rfl, rfl, rfl, rfl, rfl, rfl⟩

theorem wit_ServiceCommandsReply_adminTimeout : ∀ op ∈ [0x50, 0x90, 0xF0],
    let c : Cmd := { cmd op 0 with accepted := true }
    let s : State := { onAdmin c with store := { writing := [.retire 2 9 0 (some 0)] } }
    ((ringOf s .admin).bind fun g => g.cmd c.seq) = some c ∧ c.accepted = true ∧ c.held = none ∧ s.sched.owing = [] ∧ s.sched.follows = [] ∧ c.opcode = op ∧
    (op = 0x50 → installCmd s (c.fld 295 292) = some c) ∧ StoreWrite.retire 2 9 0 (some c.seq) ∈ s.store.writing := by
  intro op h
  simp only [List.mem_cons, List.not_mem_nil, or_false] at h
  rcases h with rfl | rfl | rfl <;> exact ⟨rfl, rfl, rfl, rfl, rfl, rfl, by decide, List.mem_singleton.mpr rfl⟩

/-! ### Watchdogs, the management bus and the rules stated whole -/

theorem wit_WatchdogsLogOrHalt :
    toFetch.boot.powered = true ∧ (∀ u, kfind toFetch.mgmt.coreTries 4 = some u → u + 100000 < toFetch.clk.uptime) ∧
    (kfind ({ coreTries := [(4, 0)] } : Mgmt).coreTries 4 = some 0 ∧ toFetch.clk.uptime ≤ 0 + 100000) ∧ toFetch.boot.fatal = false ∧
    (∃ g, ringOf toFetch (.ctx 3) = some g ∧ eligible g = true) ∧ toFetch.mgmt.restarting = false :=
  ⟨rfl, (fun _ h => by cases h), by decide, rfl, ⟨_, rfl, by decide⟩, rfl⟩

theorem wit_ManagementBusAnswers :
    mgmtUp up = true ∧ msgByte [0, 0x81, 1, 0, 9] 2 = 1 ∧ msgByte [0, 0x81, 1, 0, 9] 4 = 9 ∧ msgByte [0, 0x81, 9] 2 ∉ [1, 2, 4, 5] ∧ msgByte [1, 0x81, 0, 1, 3] 3 = 1 ∧
    msgByte [1, 0x81, 0, 9] 3 ∉ [1, 2, 3, 4, 5] ∧ up.boot.stage ≠ 0xF0 ∧ up.boot.stage ≠ 0xE0 ∧ (9, (up.boot.stage : Int)) ∈ [(9, (12 : Int))] ∧
    (kget {} ({ up with store := { slots := [(4, { busy := true })] } } : State).store.slots 4).busy = true ∧
    (kget {} up.store.slots 4).busy = false ∧ (kget {} up.store.slots 4).repair = false ∧ slotRead up 4 = false ∧
    ({ up with mgmt := { written := [1] } } : State).mgmt.written ≠ [] ∧ up.boot.railsRemoved = false := by decide

theorem wit_RingsExpectTheNextSeq_create :
    ∃ t, exec (.ctxCreate .admin []) (onAdmin createCmd) = .next t ∧ (ctxOf t 7).isSome = true ∧ createCmd.fld 295 288 = 7 := ⟨_, rfl, by decide +kernel, by decide⟩

theorem wit_RingsExpectTheNextSeq_other :
    (1#64).getLsbD 0 = true ∧ ringFault (adminRecBytes recorded) (ctxSpans recorded) (allPages recorded) = none ∧ (∀ g, recorded.admin = some g → g.cmds = []) ∧
    (cmdOf (leBytes 64 (1 + 5 * 2 ^ 32)) 0 0).seqNo = 5 := ⟨by decide, by decide, (fun _ h => by cases h), by decide⟩

theorem wit_CapInForceIsTheLeastLimit :
    let c := cmd 0xA0 (2501 * 2 ^ 288)
    let d := cmd 0xA0 (900 * 2 ^ 288)
    (∃ f ∈ (stage 3).store.firmware.take 2, fwOk (stage 3) f = true) ∧ (stage 3).boot.stage = 3 ∧ Current (onAdmin c) .admin 0x00A0 c ∧
    (onAdmin c).power.capLimit < c.fld 299 288 ∧ Current (onAdmin d) .admin 0x00A0 d ∧ d.fld 299 288 ≤ (onAdmin d).power.capLimit :=
  ⟨⟨{}, by decide, by decide⟩, rfl, current_admin _ _ _, by decide, current_admin _ _ _, by decide⟩

/-! ### Worked examples of the manual -/

/-- BF16 operands of one k-step. -/
def step33 (bank : BitVec 32) (a b : Nat) (first : Bool) : BitVec 32 × Nat := mac bank (fdec .bf16 a) (fdec .bf16 b) first

/-- The cell example after R33, steps 0 to 2: a product, a small product lost to rounding, an ordinary sum. -/
theorem test_mac_sums :
    step33 0 0x3FC0 0x4000 true = (0x40400000, 0) ∧ step33 0x40400000 0x3400 0x3F80 false = (0x40400000, 0) ∧
    step33 0x40400000 0x3FA0 0x3FA0 false = (0x40920000, 0) := by decide +kernel

/-- The cell example after R33, steps 3 to 5: overflow raises OV, infinity stays, a NaN input raises NI. -/
theorem test_mac_specials :
    step33 0x40920000 0x7F00 0x4080 false = (0x7F800000, 8) ∧ step33 0x7F800000 0xC000 0x4040 false = (0x7F800000, 0) ∧
    step33 0x7F800000 0xFF81 0x3F80 false = (0x7FC00000, 1) := by decide +kernel

/-- R38: 5.5625 in FP32 to the two 8-bit formats, and what becomes of infinity. -/
theorem test_conversions :
    fconv .fp32 .e4m3 0x40B20000 = (0x4B, 0) ∧ fconv .fp32 .e5m2 0x40B20000 = (0x46, 0) ∧
    fconv .fp32 .e4m3 0x7F800000 = (0x7E, 16) ∧ fconv .fp32 .e5m2 0x7F800000 = (0x7C, 0) := by decide +kernel

/-- A BF16 stream of 16 × 24 tiles, for the example after R121. -/
def tile24 : Desc := { tile8 .bf16 4 0 with rows := 16, cols := 24 }

/-- The example after R121: element (10, 19) of a 16 × 24 BF16 tile lies at byte 678. -/
theorem test_blocked_layout : blockOff {} tile24 5 + 2 * 19 = 678 := by decide

/-- A square table in EXPONENT mode, even, with the segment of the example after R141. -/
def squareTable : TableRec :=
  ⟨0, 0, true, 2, false, false, false, 112, 65535, 0, 0, 0, 0, 0, 0, 0, List.replicate 488 (0, 0, 0) ++ [(0x3FC80000, 0x40200000, 0x3F800000)]⟩

/-- The example after R141: x = 0x3FA30000 in segment 488, and by the fold its negative as well. -/
theorem test_table_eval : (tableEval squareTable 0x3FA30000).1 = 0x3FCF9200 ∧ (tableEval squareTable 0xBFA30000).1 = 0x3FCF9200 := by decide +kernel

/-- The group of the worked ADAMW element after R211. -/
def adamw : OptGroup := { rule := 1, beta1 := 0x3F000000, beta2 := 0x3F400000, eps := 0x35800000 }

/-- The worked ADAMW element after R211: master, moments, and the BF16 working copy. -/
theorem test_adamw :
    (let r := keyRule adamw [0x3C800000, 0x3F800000, 0x3F000000, 0x3E800000, 0x3D000000, 0x40000000] one32 0x3F800000 0 0 0x3F000000
     (r.1, r.2.1, r.2.2.1)) = (0x3F7C0000, 0x3E800000, 0x3D800000) ∧ fconv .fp32 .bf16 0x3F7C0000 = (0x3F7C, 0) := by decide +kernel

/-- The example after R193: two masters round to neighbouring BF16 working elements. -/
theorem test_working_copy : fconv .fp32 .bf16 0x3F808000 = (0x3F80, 0) ∧ fconv .fp32 .bf16 0x3F80A000 = (0x3F81, 0) := by decide +kernel

/-- The example after R232. -/
theorem test_address_map : paChannel 0x1234567A80 = 21 ∧ paStack 0x1234567A80 = 3 := by decide

/-- The two status replies of the example after R371. -/
theorem test_reply_bytes :
    (replyBytes { status := 3, opcode := 0x40, seq := 0x107, ctx := some 3, kind := 2, detail0 := 0xC }).take 16 =
      [0x03, 0, 0x40, 0, 0x07, 1, 0, 0, 0x03, 0x05, 0, 0, 0x0C, 0, 0, 0] ∧
    (replyBytes { status := 2, opcode := 0x40, seq := 0x108, ctx := some 3, kind := 1, detail1 := 36 }).take 12 =
      [0x02, 0, 0x40, 0, 0x08, 1, 0, 0, 0x03, 0x03, 0, 0] := by decide

/-- The example after R400: the stretch of a row, and with one more span. -/
theorem test_predicted_stretch : predictedS 1400000 520000 688000 = 1212 := by decide

/-- R276: payload bytes a frame with a 1,518-byte and with an 8,294-byte limit, untagged IPv4. -/
theorem test_flow_payload :
    flowP { State.reset with ports := [(0, { rcd := { maxFrame := 1518 } })] } 0 = 1408 ∧
    flowP { State.reset with ports := [(0, { rcd := { maxFrame := 8294 } })] } 0 = 8192 := by decide

/-- R225: one literal word, and a zero run of three words before a literal word with its tail of zeros dropped. -/
theorem test_delta_segments :
    encodeWords 9 [5, 0, 0] = [0, 0, 1, 0, 5, 0, 0, 0] ∧ encodeWords 9 [0, 0, 0, 7, 0] = [3, 0, 1, 0, 7, 0, 0, 0] ∧
    decodeWords 9 5 [3, 0, 1, 0, 7, 0, 0, 0] = [0, 0, 0, 7, 0] := by decide

/-- The two contacts that R456 names. -/
theorem test_edge_contacts : edgeContact .a 113 = some (.ethTx 37 false) ∧ edgeContact .b 241 = some (.cxlRx 15 true) := by decide

/-- The table gives its rows no bits: a word of zeros spells no command. -/
theorem test_table_words : (Sys2Proof.decodeTableWord 8 0).isNone = true := by decide

end Sys2Proof.Tests
end

/-! PROOFS of the scope family: every command completes (O3). An outcome answers when it is a next state; each meaning of a row is a
tree of lookups and guards, and the lemmas follow that tree: every leaf is a next state, the state as it was where the row's event
cannot occur (the model's choice, log entry 5). -/

namespace Sys2Proof.Completion

open Sys2Proof.Machine Sys2Proof.Safety

/-- The outcome is a next state: neither a fault nor a refusal. -/
def Answers (o : Host.Outcome State Fault Refusal) : Prop := ∃ t, o = .next t

theorem completes_iff_answers {c : Instr} {s : State} : Completes c s ↔ Answers (exec c s) := Iff.rfl

theorem Answers.next (t : State) : Answers (.next t) := ⟨t, rfl⟩

/-- A guard answers when both its branches do. -/
theorem Answers.ite {p : Prop} [Decidable p] {o q : Host.Outcome State Fault Refusal} (ho : Answers o) (hq : Answers q) :
    Answers (if p then o else q) := by
  split
  · exact ho
  · exact hq

/-! ### Piers: whatever the instruction does, its turn passes, waits or issues -/

theorem pierTurn_answers (st p stall dry : Nat) (run : State → Step → Image → Ctx → PierIns → Option (Option (State × Step)))
    (s : State) : Answers (pierTurn st p stall dry run s) := by
  unfold pierTurn
  split
  · exact .next s
  split
  · exact .next s
  · exact .next _
  · exact .ite (.next _) (.next _)

/-! ### Streams: a row that finds no step or no image leaves the state as it is -/

theorem execBearingReadReturn_answers (st desc : Nat) (eccs : List Ecc) (s : State) :
    Answers (execBearingReadReturn st desc eccs s) := by
  unfold execBearingReadReturn
  split
  · exact .next s
  split
  · split
    · exact .next _
    refine .ite (.next s) ?_
    split
    · exact .next s
    dsimp only
    split <;> exact .next _
  · exact .next s

theorem execDeckArrival_answers (st desc : Nat) (dest : DeckDest) (s : State) : Answers (execDeckArrival st desc dest s) := by
  unfold execDeckArrival
  split
  · exact .next s
  split
  · split
    · exact .next s
    refine .ite (.next s) ?_
    split
    · exact .next _
    · exact .ite (.next _) (.next s)
    · exact .ite (.next _) (.next s)
  · exact .next s

theorem execPrefetch_answers (st desc : Nat) (s : State) : Answers (execPrefetch st desc s) := by
  unfold execPrefetch
  split
  · exact .next s
  split <;> exact .next _

/-! ### Gather commands: without a working step nothing happens; an operand that is not there makes the station wait -/

theorem execRouting_answers (st sp cycle ri win : Nat) (s : State) : Answers (execRouting st sp cycle ri win s) := by
  unfold execRouting
  split
  · exact .next s
  split
  · exact .next s
  split <;> exact .next _

theorem execCombine_answers (st sp cycle ri win dst : Nat) (s : State) : Answers (execCombine st sp cycle ri win dst s) := by
  unfold execCombine
  split
  · exact .next s
  split
  · split <;> exact .next _
  · exact .next s

theorem execCombineBwd_answers (st sp bi win : Nat) (s : State) : Answers (execCombineBwd st sp bi win s) := by
  unfold execCombineBwd
  split
  · exact .next s
  split
  · exact .next s
  split
  · split
    · refine .ite (.next _) (.ite (.ite (.next _) ?_) (.next s))
      dsimp only
      split <;> exact .next _
    · exact .next _
  · exact .next s

theorem execDispatchBwd_answers (st sp bi : Nat) (s : State) : Answers (execDispatchBwd st sp bi s) := by
  unfold execDispatchBwd
  split
  · exact .next s
  split
  · exact .next s
  split
  · split
    · exact .ite (.next _) (.next s)
    · exact .next _
  · exact .next s

theorem execBlockListBuild_answers (st sp cycle src dst stall : Nat) (s : State) :
    Answers (execBlockListBuild st sp cycle src dst stall s) := by
  unfold execBlockListBuild
  split
  · exact .next s
  refine .ite (.next s) ?_
  split <;> exact .next _

theorem execSparseEmbeddingList_answers (st sp cycle : Nat) (ids : List Nat) (src dst stall : Nat) (s : State) :
    Answers (execSparseEmbeddingList st sp cycle ids src dst stall s) := by
  unfold execSparseEmbeddingList
  split
  · exact .next s
  refine .ite (.next s) ?_
  split <;> exact .next _

/-! ### Command fetch: a ring that may not fetch is left alone; host data that does not come fails the fetch -/

theorem execCommandFetch_answers (r : RingId) (entry param : HostData) (s : State) :
    Answers (execCommandFetch r entry param s) := by
  unfold execCommandFetch
  split
  · exact .next s
  refine .ite ?_ (.next s)
  split <;> exact .next _

/-! ### Scrub of a context that is being destroyed -/

theorem execUnitScrub_answers (n : Nat) (u : UnitRef) (s : State) : Answers (execUnitScrub n u s) := by
  unfold execUnitScrub
  split
  · exact .next s
  · exact .ite (.next _) (.next s)

/-! ### Admission and bubbles -/

theorem execBestEffortAdmission_answers (s : State) : Answers (execBestEffortAdmission s) := by
  unfold execBestEffortAdmission
  refine .ite (.next _) ?_
  split <;> exact .next _

theorem execBubble_answers (st bub n : Nat) (s : State) : Answers (execBubble st bub n s) := by
  unfold execBubble
  split
  · exact .next s
  split
  · exact .ite (.next _) (.next s)
  · exact .next s

/-! ### Power stages and droop -/

theorem execPowerStageFault_answers (stage : Nat) (fatal : Bool) (s : State) : Answers (execPowerStageFault stage fatal s) :=
  .ite (.next s) (.ite (.next _) (.next _))

theorem execDroop_answers (d : Nat) (s : State) : Answers (execDroop d s) :=
  .ite (.ite (.next _) (.next _)) (.next s)

/-! ### Vector stations that look at their instruction before they run it -/

theorem execPartAdd_answers (st sp stall : Nat) (s : State) : Answers (execPartAdd st sp stall s) := by
  unfold execPartAdd
  split
  · exact .next s
  refine .ite ?_ (.next s)
  split <;> exact .next _

theorem execPos_answers (st sp stall : Nat) (s : State) : Answers (execPos st sp stall s) := by
  unfold execPos
  split
  · exact .next s
  refine .ite ?_ (.next s)
  split <;> exact .next _

theorem execTranspose_answers (st sp stall : Nat) (s : State) : Answers (execTranspose st sp stall s) := by
  unfold execTranspose
  split
  · exact .next s
  refine .ite ?_ (.next s)
  split <;> exact .next _

/-! ### Keystones: off its turn nothing happens; blocks or a norm still missing make the keystone wait -/

theorem execAccept_answers (st b stall : Nat) (s : State) : Answers (execAccept st b stall s) := by
  unfold execAccept
  split
  · exact .next s
  split <;> exact .next _

theorem execUpdate_answers (st b stall : Nat) (eccs : List Ecc) (s : State) : Answers (execUpdate st b stall eccs s) := by
  unfold execUpdate
  split
  · exact .next s
  dsimp only
  split
  · exact .next s
  refine .ite (.next _) ?_
  split <;> exact .next _

theorem execUpdateList_answers (st b stall : Nat) (eccs : List Ecc) (s : State) : Answers (execUpdateList st b stall eccs s) := by
  unfold execUpdateList
  split
  · exact .next s
  dsimp only
  split
  · exact .next s
  refine .ite (.next _) ?_
  split <;> exact .next _

theorem execKeystoneFlagClear_answers (st b stall : Nat) (s : State) : Answers (execKeystoneFlagClear st b stall s) := by
  unfold execKeystoneFlagClear
  split <;> exact .next _

/-! ### Switch of the weight pointers -/

theorem execPointerSwitch_answers (n : Nat) (s : State) : Answers (execPointerSwitch n s) := by
  unfold execPointerSwitch
  split
  · exact .next s
  split
  · exact .next s
  · exact .ite (.next s) (.next _)

/-! ### Stacked memory: retirement, write combining, patrol scrub and retries -/

theorem execRetirementCopy_answers (b g : Nat) (eccs : List Ecc) (s : State) (fence : List Ecc) :
    Answers (execRetirementCopy b g eccs s fence) := by
  unfold execRetirementCopy
  split
  · exact .next s
  refine .ite (.next s) (.ite (.next _) ?_)
  split <;> exact .next _

theorem execWriteCombiningIdleFlush_answers (b line : Nat) (ecc : Ecc) (s : State) :
    Answers (execWriteCombiningIdleFlush b line ecc s) := by
  unfold execWriteCombiningIdleFlush
  split
  · exact .next s
  · exact .ite (.next s) (.next _)

theorem execPatrolScrub_answers (b line : Nat) (ecc : Ecc) (twin : Bool) (s : State) :
    Answers (execPatrolScrub b line ecc twin s) := by
  unfold execPatrolScrub
  refine .ite (.next s) ?_
  refine .ite ?_ ?_
  · split
    · exact .next _
    · exact .next _
    · exact .ite (.next _) (.next _)
    · exact .next _
    · exact .next _
  · dsimp only
    split
    · exact .next _
    split <;> exact .next _

theorem execParityRetry_answers (pa src : Nat) (ok : Bool) (s : State) : Answers (execParityRetry pa src ok s) :=
  .ite (.next s) (.ite (.next _) (.ite (.next _) (.next _)))

/-! ### Model store, and work that a command leaves behind -/

theorem execStoreReadCompletion_answers (n blk : Nat) (good : Bool) (s : State) :
    Answers (execStoreReadCompletion n blk good s) := by
  unfold execStoreReadCompletion
  split
  · exact .next s
  split
  · exact .next s
  · exact .ite (.next _) (.ite (.next _) (.next _))

theorem execStoreWriteCompletion_answers (i : Nat) (s : State) : Answers (execStoreWriteCompletion i s) := by
  unfold execStoreWriteCompletion
  split <;> exact .next _

theorem execCommandWorkAccess_answers (r : RingId) (seq : Nat) (s : State) (host : List HostData) :
    Answers (execCommandWorkAccess r seq s host) := by
  unfold execCommandWorkAccess
  split
  · exact .next s
  refine .ite (.next s) (.ite (.next _) (.ite ?_ (.ite (.next _) (.next s))))
  split <;> exact .next _

/-! ### Boot stages: a row outside its stage leaves the state as it is -/

theorem execRom_answers (s : State) : Answers (execRom s) := by
  unfold execRom
  refine .ite (.next s) ?_
  split <;> exact .next _

theorem execLoader_answers (s : State) : Answers (execLoader s) := by
  unfold execLoader
  refine .ite (.next s) ?_
  split <;> exact .next _

theorem execRecords_answers (s : State) : Answers (execRecords s) :=
  .ite (.next s) (.ite (.next _) (.ite (.next _) (.next _)))

theorem execStackTrain_answers (failed : List Nat) (s : State) : Answers (execStackTrain failed s) := by
  unfold execStackTrain
  refine .ite (.next s) ?_
  split <;> exact .next _

theorem execSelfTest_answers (ok : Bool) (s : State) : Answers (execSelfTest ok s) :=
  .ite (.next s) (.ite (.next _) (.next _))

/-! ### Checkpoint streams -/

theorem execCkptBaseSend_answers (n : Nat) (slow : List HostData) (s : State) : Answers (execCkptBaseSend n slow s) := by
  unfold execCkptBaseSend
  split
  · exact .next s
  split
  · exact .next s
  refine .ite (.next s) ?_
  dsimp only
  split <;> exact .next _

theorem execStreamTimeout_answers (n : Nat) (s : State) : Answers (execStreamTimeout n s) := by
  unfold execStreamTimeout
  split
  · exact .next s
  split
  · exact .next s
  · exact .ite (.next s) (.next _)

/-! ### Timetable -/

theorem execSlotStart_answers (i : Nat) (s : State) : Answers (execSlotStart i s) := by
  unfold execSlotStart
  split
  · exact .next s
  · exact .ite (.next s) (.next _)

theorem execPeriodBoundary_answers (s : State) : Answers (execPeriodBoundary s) := by
  unfold execPeriodBoundary
  split <;> exact .next _

/-! ### Steps: preamble, phases, slack and wait points -/

theorem execPreambleStart_answers (st : Nat) (s : State) : Answers (execPreambleStart st s) := by
  unfold execPreambleStart
  split
  · exact .next s
  · exact .ite (.next _) (.next s)

theorem execPreambleEnd_answers (st : Nat) (s : State) : Answers (execPreambleEnd st s) := by
  unfold execPreambleEnd
  split
  · exact .next s
  refine .ite ?_ (.next s)
  dsimp only
  split <;> exact .next _

theorem execPhase_answers (st : Nat) (u : UnitRef) (m : Nat) (energies : List (Nat × Nat)) (s : State) :
    Answers (execPhase st u m energies s) := by
  unfold execPhase
  split
  · exact .next s
  dsimp only
  split
  · exact .ite (.next s) (.ite (.next _) (.next _))
  · exact .next s

theorem execFinalSlackExceeded_answers (st : Nat) (u : UnitRef) (s : State) : Answers (execFinalSlackExceeded st u s) := by
  unfold execFinalSlackExceeded
  split
  · exact .next s
  split
  · exact .ite (.next _) (.next s)
  · exact .next s

theorem execWait_answers (st w : Nat) (s : State) : Answers (execWait st w s) := by
  unfold execWait
  split
  · exact .next s
  split
  · refine .ite (.next s) (.ite (.next _) ?_)
    split <;> exact .next _
  · exact .next s

/-! ### Commit point and release -/

theorem execCommitPoint_answers (st : Nat) (energies : List (Nat × Nat)) (s : State) :
    Answers (execCommitPoint st energies s) := by
  unfold execCommitPoint
  split
  · exact .next s
  · exact .ite (.next _) (.ite (.next s) (.ite (.next _) (.ite (.next _) (.next _))))

theorem execReleaseComplete_answers (st : Nat) (bad : List Nat) (badDelta : Bool) (s : State) :
    Answers (execReleaseComplete st bad badDelta s) := by
  unfold execReleaseComplete
  split
  · exact .next s
  · exact .ite (.next s) (.ite (.next _) (.next _))

/-! ### Transmission of a frame, express or bulk -/

theorem execFrameTransmit_answers (q : Nat) (s : State) : Answers (execFrameTransmit q s) := by
  unfold execFrameTransmit
  refine .ite (.next s) ?_
  split
  · exact .next _
  · exact .next _
  · exact .ite (.next _) (.ite (.next _) (.next _))
  · exact .ite (.next _) (.next _)
  · split <;> exact .next _

/-! ### Timers of the transport -/

theorem execAckTimer_answers (flow : Nat) (s : State) : Answers (execAckTimer flow s) := by
  unfold execAckTimer
  split
  · exact .next s
  · exact .ite (.next s) (.ite (.next _) (.next _))

theorem execRetransmissionTimer_answers (flow seq : Nat) (s : State) : Answers (execRetransmissionTimer flow seq s) := by
  unfold execRetransmissionTimer
  split
  · exact .next s
  · exact .ite (.next _) (.next s)

/-! ### Fabric abutments: off its turn nothing happens; a flow, an operand or a descriptor still missing makes the abutment wait -/

theorem execRecv_answers (st q stall : Nat) (s : State) : Answers (execRecv st q stall s) := by
  unfold execRecv
  split
  · exact .next s
  split <;> exact .next _

theorem execSplitRecv_answers (st q stall : Nat) (s : State) : Answers (execSplitRecv st q stall s) := by
  unfold execSplitRecv
  split
  · exact .next s
  split <;> exact .next _

theorem execRedSend_answers (st q stall : Nat) (s : State) : Answers (execRedSend st q stall s) := by
  unfold execRedSend
  split
  · exact .next s
  split <;> exact .next _

theorem execRedRecv_answers (st q stall : Nat) (s : State) : Answers (execRedRecv st q stall s) := by
  unfold execRedRecv
  split
  · exact .next s
  split <;> exact .next _

theorem execNorm_answers (st q stall : Nat) (s : State) : Answers (execNorm st q stall s) := by
  unfold execNorm
  split
  · exact .next s
  · exact .ite (.next _) (.next _)

theorem execAcc_answers (st q stall : Nat) (s : State) : Answers (execAcc st q stall s) := by
  unfold execAcc
  split
  · exact .next s
  split
  · exact .next s
  refine .ite ?_ ?_
  · split <;> exact .next _
  · split <;> exact .next _

/-! ### Rebase of a stream -/

theorem execRebaseComplete_answers (n : Nat) (s : State) : Answers (execRebaseComplete n s) := by
  unfold execRebaseComplete
  split
  · exact .next s
  split
  · exact .next s
  · exact .ite (.next s) (.next _)

/-! ### Deadlines of the collective -/

theorem execCollectiveDeadline_answers (n step : Nat) (s : State) : Answers (execCollectiveDeadline n step s) := by
  unfold execCollectiveDeadline
  split
  · split
    · exact .ite (.next _) (.next s)
    · exact .next s
  · exact .next s

theorem execDecisionHoldTimeout_answers (st : Nat) (s : State) : Answers (execDecisionHoldTimeout st s) := by
  unfold execDecisionHoldTimeout
  split
  · exact .next s
  · exact .ite (.next s) (.next _)

/-! ### Reception of a frame -/

theorem execEthernetFrameReceive_answers (q : Nat) (phy : PhyStatus) (frame : Bytes) (s : State) :
    Answers (execEthernetFrameReceive q phy frame s) := by
  unfold execEthernetFrameReceive
  refine .ite (.next s) ?_
  split <;> exact .next _

/-! ### Host link -/

theorem execHostWriteGo_answers (id : Nat) (s : State) : Answers (execHostWriteGo id s) := by
  unfold execHostWriteGo
  split
  · exact .next s
  · exact .ite (.next _) (.ite (.next s) (.next _))

theorem execGoTimeout_answers (id : Nat) (s : State) : Answers (execGoTimeout id s) := by
  unfold execGoTimeout
  split
  · exact .next s
  refine .ite (.next s) ?_
  dsimp only
  split <;> exact .next _

theorem execHostReadCompletion_answers (id : Nat) (d : HostData) (s : State) : Answers (execHostReadCompletion id d s) := by
  unfold execHostReadCompletion
  split
  · exact .next s
  refine .ite (.next s) ?_
  split
  · split <;> exact .next _
  · exact .next _

theorem execHostReadTimeout_answers (id : Nat) (s : State) : Answers (execHostReadTimeout id s) := by
  unfold execHostReadTimeout
  split
  · exact .next s
  · exact .ite (.next s) (.next _)

theorem execCxlLinkRetrain_answers (rate width : Nat) (s : State) : Answers (execCxlLinkRetrain rate width s) :=
  .ite (.ite (.next _) (.next _)) (.next s)

/-! ### Management messages -/

theorem execMctpControlMessage_answers (msg : Bytes) (s : State) : Answers (execMctpControlMessage msg s) := by
  unfold execMctpControlMessage
  refine .ite (.next s) ?_
  split
  · exact .ite (.next _) (.next _)
  · exact .next _
  · exact .next _
  · exact .next _
  · exact .next _

theorem execPldmBase_answers (msg : Bytes) (s : State) : Answers (execPldmBase msg s) := by
  unfold execPldmBase
  refine .ite (.next s) ?_
  split <;> exact .next _

theorem execPldmSensorReading_answers (id : Nat) (s : State) : Answers (execPldmSensorReading id s) := by
  unfold execPldmSensorReading
  refine .ite (.next s) ?_
  split <;> exact .next _

theorem execPldmFirmwareUpdate_answers (cls : Nat) (image : Bytes) (s : State) :
    Answers (execPldmFirmwareUpdate cls image s) :=
  .ite (.next s) (.ite (.next _) (.ite (.next _) (.ite (.next _) (.ite (.next _) (.next _)))))

/-! ### Diagnostics -/

theorem execDiagTestComplete_answers (failed : Nat) (s : State) : Answers (execDiagTestComplete failed s) := by
  unfold execDiagTestComplete
  split
  · exact .next s
  split <;> exact .next _

/-! ### Coalescing timer -/

theorem execCoalUs_answers (r : RingId) (s : State) : Answers (execCoalUs r s) := by
  unfold execCoalUs
  split
  · exact .ite (.next _) (.next s)
  · exact .next s

/-! ### Timeout of an accepted command, by its ring and opcode -/

theorem execCommandTimeout_answers (r : RingId) (seq : Nat) (s : State) : Answers (execCommandTimeout r seq s) := by
  unfold execCommandTimeout
  split
  · exact .next s
  refine .ite (.next s) ?_
  split <;> exact .next _

/-! ### Watchdogs and control-core memory -/

theorem execControlCoreWatchdog_answers (core : Nat) (s : State) : Answers (execControlCoreWatchdog core s) := by
  unfold execControlCoreWatchdog
  refine .ite (.next s) ?_
  split
  · exact .ite (.next _) (.next _)
  · exact .next _

theorem execCommandProgressWatchdog_answers (r : RingId) (s : State) : Answers (execCommandProgressWatchdog r s) := by
  unfold execCommandProgressWatchdog
  split
  · exact .ite (.next _) (.next s)
  · exact .next s

theorem execControlCoreMemoryError_answers (what : Nat) (corrected : Bool) (s : State) :
    Answers (execControlCoreMemoryError what corrected s) :=
  .ite (.next s) (.ite (.next _) (.next _))

/-! ### Every command -/

/-- Settles O3, by the row of the command: most meanings answer outright or by one guard, a pier's row by its turn, and the others by
the lemma on their meaning. -/
theorem everyCommandCompletes : Obligations.EveryCommandCompletes := by
  intro c s
  rw [completes_iff_answers]
  cases c with
  | nop | ctxCreate | ctxDestroy | ctxQuery | schedLoad | schedUnload | timetableSet | stepRun | stepKill | weightsLoad
  | weightsSwap | serviceStop | serviceStart | optConfig | ckptStreamStart | ckptStreamStop | ckptRestore | fence | pageRetire
  | powerCapSet | energyRead | fabricConfig | groupSet | attestReport | diagRun | dbAdmin | rstControl | rstAdminInstall
  | errLogSelect | errLogAck | w1cWrite | rcRegisterRead | lowHalfRead | registerWrite | add | sub | mul | fma | min | max | cmp
  | abs | neg | cvt | scale | select | div | sqrt | recip | rsqrt | rowSum | rowMax | rowSumsq | vectorFlagClear | eval | derivMul
  | tableFlagClear | send | splitSend | write | reduce | bcast | split | delta | ack | nak | voteRepeat | voteFail | voteReceive
  | decideCommit | decideRepeat | decideEnd | refresh | perstNDeassert | managementControllerRestart => exact .next _
  | dbCtx | msixRateWindow | msixTableWrite | malformedRegisterAccess | slotEnd | pfcFrame | pauseFrame | arpRequest
  | neighbourSolicitation | verifyFrame | pfcRepeat | pauseExpiry | pauseStorm | pauseIgnoreEnd | portLinkUp | portLinkDown
  | portTrainingTimeout | verifyDone | correctedRewrite | dramSensorRead | channelNoResponse | hostSnoop | cxlMemRequest
  | cxlLinkUp | hostLinkDown | hostLinkDown10s | powerGood | powerLost | inputOvervoltage | perstNAssert | flr | linkReset
  | managementReset | firmware | interlock | interlockWarning | rails | memInit | identity | ready | managementControllerWatchdog
  | powerMeasurement | fall | capDecision | logicSensorRead | coolantSensorRead | thermalCapUpdate | flowTrip | droopHoldEnd
  | recoveryExit | i3cAddressAssignment | activateFirmware | errorUnsupportedCmd | cxlCorrectableError =>
    exact .ite (.next _) (.next _)
  | mma | fill | drain | bankWrite | flagClear | tileIn | tileOut | blocksIn | blocksOut =>
    dsimp only [exec, execMma, execFill, execDrain, execBankWrite, execFlagClear, execTileIn, execTileOut, execBlocksIn, execBlocksOut]
    exact pierTurn_answers ..
  | bearingReadReturn => exact execBearingReadReturn_answers ..
  | deckArrival => exact execDeckArrival_answers ..
  | prefetch => exact execPrefetch_answers ..
  | routing => exact execRouting_answers ..
  | combine => exact execCombine_answers ..
  | combineBwd => exact execCombineBwd_answers ..
  | dispatchBwd => exact execDispatchBwd_answers ..
  | blockListBuild => exact execBlockListBuild_answers ..
  | sparseEmbeddingList => exact execSparseEmbeddingList_answers ..
  | commandFetch => exact execCommandFetch_answers ..
  | unitScrub => exact execUnitScrub_answers ..
  | bestEffortAdmission => exact execBestEffortAdmission_answers ..
  | bubble => exact execBubble_answers ..
  | powerStageFault => exact execPowerStageFault_answers ..
  | droop => exact execDroop_answers ..
  | partAdd => exact execPartAdd_answers ..
  | pos => exact execPos_answers ..
  | transpose => exact execTranspose_answers ..
  | accept => exact execAccept_answers ..
  | update => exact execUpdate_answers ..
  | updateList => exact execUpdateList_answers ..
  | keystoneFlagClear => exact execKeystoneFlagClear_answers ..
  | pointerSwitch => exact execPointerSwitch_answers ..
  | retirementCopy b g eccs fence => exact execRetirementCopy_answers b g eccs s fence
  | writeCombiningIdleFlush => exact execWriteCombiningIdleFlush_answers ..
  | patrolScrub => exact execPatrolScrub_answers ..
  | parityRetry => exact execParityRetry_answers ..
  | storeReadCompletion => exact execStoreReadCompletion_answers ..
  | storeWriteCompletion => exact execStoreWriteCompletion_answers ..
  | commandWorkAccess => exact execCommandWorkAccess_answers ..
  | rom => exact execRom_answers ..
  | loader => exact execLoader_answers ..
  | records => exact execRecords_answers ..
  | stackTrain => exact execStackTrain_answers ..
  | selfTest => exact execSelfTest_answers ..
  | ckptBaseSend => exact execCkptBaseSend_answers ..
  | streamTimeout => exact execStreamTimeout_answers ..
  | slotStart => exact execSlotStart_answers ..
  | periodBoundary => exact execPeriodBoundary_answers ..
  | preambleStart => exact execPreambleStart_answers ..
  | preambleEnd => exact execPreambleEnd_answers ..
  | phase => exact execPhase_answers ..
  | finalSlackExceeded => exact execFinalSlackExceeded_answers ..
  | wait => exact execWait_answers ..
  | commitPoint => exact execCommitPoint_answers ..
  | releaseComplete => exact execReleaseComplete_answers ..
  | frameTransmit => exact execFrameTransmit_answers ..
  | ackTimer => exact execAckTimer_answers ..
  | retransmissionTimer => exact execRetransmissionTimer_answers ..
  | recv => exact execRecv_answers ..
  | splitRecv => exact execSplitRecv_answers ..
  | redSend => exact execRedSend_answers ..
  | redRecv => exact execRedRecv_answers ..
  | norm => exact execNorm_answers ..
  | acc => exact execAcc_answers ..
  | rebaseComplete => exact execRebaseComplete_answers ..
  | collectiveDeadline => exact execCollectiveDeadline_answers ..
  | decisionHoldTimeout => exact execDecisionHoldTimeout_answers ..
  | ethernetFrameReceive => exact execEthernetFrameReceive_answers ..
  | hostWriteGo => exact execHostWriteGo_answers ..
  | goTimeout => exact execGoTimeout_answers ..
  | hostReadCompletion => exact execHostReadCompletion_answers ..
  | hostReadTimeout => exact execHostReadTimeout_answers ..
  | cxlLinkRetrain => exact execCxlLinkRetrain_answers ..
  | mctpControlMessage => exact execMctpControlMessage_answers ..
  | pldmBase => exact execPldmBase_answers ..
  | pldmSensorReading => exact execPldmSensorReading_answers ..
  | pldmFirmwareUpdate => exact execPldmFirmwareUpdate_answers ..
  | diagTestComplete => exact execDiagTestComplete_answers ..
  | coalUs => exact execCoalUs_answers ..
  | commandTimeout => exact execCommandTimeout_answers ..
  | controlCoreWatchdog => exact execControlCoreWatchdog_answers ..
  | commandProgressWatchdog => exact execCommandProgressWatchdog_answers ..
  | controlCoreMemoryError => exact execControlCoreMemoryError_answers ..

end Sys2Proof.Completion


/-! PROOFS of the device-overview family: an empty queue lets one tick of the timebase pass (O2). The clock after
a tick is named once, with a lemma for each of the statement's facts about it. -/

namespace Sys2Proof.Timebase

open Sys2Proof.Machine

/-- The clock after one tick at stretch `stretch`: of the 7,500 parts a tick brings (R18, R396), every `stretch` of them make an
arithmetic cycle, and what is left over waits for the next tick. -/
def tickedClock (stretch : Nat) (c : Clock) : Clock where
  uptime := satAdd max64 c.uptime 1
  acc := (c.acc + 7500) % stretch
  cycles := c.cycles + (c.acc + 7500) / stretch

theorem tick_of_powered {s : State} (h : s.boot.powered = true) :
    tick s = { s with clk := tickedClock s.power.stretch s.clk } := if_pos h

theorem step_of_pending_nil {s : State} (h : s.pending = []) : step s = .next (tick s) := by
  unfold step
  rw [h]

theorem tickedClock_uptime (stretch : Nat) (c : Clock) : (tickedClock stretch c).uptime = min max64 (c.uptime + 1) := rfl

/-- No part of a cycle is lost: whole cycles and remainder together grow by 7,500 parts, so cycles advance by 7,500 / S on average. -/
theorem tickedClock_parts (stretch : Nat) (c : Clock) :
    (tickedClock stretch c).cycles * stretch + (tickedClock stretch c).acc = c.cycles * stretch + c.acc + 7500 :=
  calc (c.cycles + (c.acc + 7500) / stretch) * stretch + (c.acc + 7500) % stretch
    _ = c.cycles * stretch + ((c.acc + 7500) / stretch * stretch + (c.acc + 7500) % stretch) := by
      rw [Nat.add_mul, Nat.add_assoc]
    _ = c.cycles * stretch + c.acc + 7500 := by rw [Nat.div_add_mod', Nat.add_assoc]

theorem tickedClock_acc_lt {stretch : Nat} (h : 0 < stretch) (c : Clock) : (tickedClock stretch c).acc < stretch :=
  Nat.mod_lt _ h

/-- Settles O2: the step is a tick, the tick changes the clock only, and the clock's parts add up. -/
theorem emptyQueueTicksTimebase : Obligations.EmptyQueueTicksTimebase := by
  intro s hempty hpowered hstretch
  have hstep : step s = .next { s with clk := tickedClock s.power.stretch s.clk } := by
    rw [step_of_pending_nil hempty, tick_of_powered hpowered]
  exact ⟨_, hstep, rfl, tickedClock_uptime _ _, tickedClock_parts _ _, tickedClock_acc_lt hstretch _⟩

end Sys2Proof.Timebase


/-! PROOFS of the number-format family, the results of stations: row reductions, PART_ADD, POS and TRANSPOSE (O11). What a station
writes for a list of tiles is one relation between the states before and after, which composes tile by tile; every station
instruction then reads its result off it. -/

namespace Sys2Proof.StationResults

open Sys2Proof.Machine Sys2Proof.Safety Sys2Proof.Laws

/-! ### Bytes of blocks and runs of writes -/

theorem length_leBytes (n x : Nat) : (leBytes n x).length = n := by
  induction n generalizing x with
  | zero => rfl
  | succ n ih => rw [leBytes, List.length_cons, ih]

theorem length_blockOf (f : Fmt) (xs : List Nat) : (blockOf f xs).length = xs.length * f.size := by
  induction xs with
  | nil => rw [blockOf, List.flatMap_nil, List.length_nil, List.length_nil, Nat.zero_mul]
  | cons x xs ih =>
    rw [blockOf, List.flatMap_cons, List.length_append, length_leBytes, ← blockOf, ih, List.length_cons, Nat.succ_mul, Nat.add_comm]

/-- A run of writes is seen at its own addresses only. -/
theorem vread_vwriteRun_of_outside {α : Type} (dflt : α) (xs : List α) (v : Vers α) (st cyc a st' cyc' a' : Nat)
    (h : ¬ (a ≤ a' ∧ a' < a + xs.length)) : vread dflt (vwriteRun v st cyc a xs) st' cyc' a' = vread dflt v st' cyc' a' := by
  induction xs generalizing v a with
  | nil => rfl
  | cons x xs ih =>
    rw [List.length_cons] at h
    rw [vwriteRun, ih _ _ (by omega), vread_vwrite_of_ne dflt v st st' cyc cyc' a a' x (.inr (by omega))]

/-- Runs of writes, one per item of a list, are seen at their own addresses only. -/
theorem vread_foldl_vwriteRun_of_outside {α β : Type} (dflt : α) (at_ : β → Nat) (run : β → List α) (l : List β) (v : Vers α)
    (st cyc st' cyc' a : Nat) (h : ∀ b ∈ l, ¬ (at_ b ≤ a ∧ a < at_ b + (run b).length)) :
    vread dflt (l.foldl (fun m b => vwriteRun m st cyc (at_ b) (run b)) v) st' cyc' a = vread dflt v st' cyc' a := by
  induction l generalizing v with
  | nil => rfl
  | cons b l ih =>
    rw [List.foldl_cons, ih _ fun c hc => h c (List.mem_cons_of_mem _ hc),
      vread_vwriteRun_of_outside _ _ _ _ _ _ _ _ _ (h b (List.mem_cons_self ..))]

/-! ### Events leave a unit at its place -/

/-- `v` stands at the place of `u` in its list, with the same slip and entrance cycles. -/
structure SamePlace (u v : UnitSt) : Prop where
  next : v.next = u.next
  slip : v.slip = u.slip
  entrance : v.entrance = u.entrance

theorem SamePlace.refl (u : UnitSt) : SamePlace u u := ⟨rfl, rfl, rfl⟩

theorem SamePlace.trans {u v w : UnitSt} (h : SamePlace u v) (k : SamePlace v w) : SamePlace u w :=
  ⟨k.next.trans h.next, k.slip.trans h.slip, k.entrance.trans h.entrance⟩

theorem samePlace_raise (u : UnitSt) (cyc : Nat) (pl : EventAt) (f : Nat) : SamePlace u (u.raise cyc pl f) := by
  unfold UnitSt.raise
  split
  · exact .refl u
  · exact ⟨rfl, rfl, rfl⟩

theorem samePlace_foldl {β : Type} (f : UnitSt → β → UnitSt) (hf : ∀ u b, SamePlace u (f u b)) (l : List β) (u : UnitSt) :
    SamePlace u (l.foldl f u) := by
  induction l generalizing u with
  | nil => exact .refl u
  | cons b l ih => exact (hf u b).trans (ih _)

/-! ### Writing tiles -/

/-- The present blocks of tile `n` with the elements `val`: the block's index and its bytes, in block order (R119, R120). -/
def tileBlocksOf (img : Image) (d : Desc) (val : Nat → Nat → Nat → Nat) (n : Nat) : List (Nat × Bytes) :=
  (presentIdx img d).map fun b =>
    (b, blockOf d.fmt ((List.range 64).map fun e => val n (8 * (b / (d.cols / 8)) + e / 8) (8 * (b % (d.cols / 8)) + e % 8)))

theorem tileBytes_eq (img : Image) (d : Desc) (val : Nat → Nat → Nat → Nat) :
    tileBytes img d val = (List.range d.tiles).flatMap fun n => (tileBlocksOf img d val n).map (·.2) := by
  simp only [tileBytes, tileBlocksOf, List.map_map, Function.comp_def]

theorem mem_presentIdx_of_mem_tileBlocksOf {img : Image} {d : Desc} {val : Nat → Nat → Nat → Nat} {n : Nat} {b : Nat × Bytes}
    (h : b ∈ tileBlocksOf img d val n) : b.1 ∈ presentIdx img d := by
  obtain ⟨i, hi, rfl⟩ := List.mem_map.mp h
  exact hi

theorem length_of_mem_tileBlocksOf {img : Image} {d : Desc} {val : Nat → Nat → Nat → Nat} {n : Nat} {b : Nat × Bytes}
    (h : b ∈ tileBlocksOf img d val n) : b.2.length = d.blockBytes := by
  obtain ⟨i, -, rfl⟩ := List.mem_map.mp h
  rw [length_blockOf, List.length_map, List.length_range, Desc.blockBytes]

theorem stream_produce (x : Step) (i k : Nat) (bs : List StreamBlock) :
    (produce x i bs).stream k = if k = i then { x.stream i with blocks := (x.stream i).blocks ++ bs } else x.stream k :=
  stream_setStream x i k _

/-- From `s` and `x` to `s'` and `x'` a station of span `sp` sent the tiles `ns` of stream `dst` with the elements `val`: they stand at
the stream's end and, for a stream of SPACE 01b of the span, at their lines of the local store (R135, R136). -/
structure TilesWritten (img : Image) (sp dst : Nat) (d : Desc) (cyc : Nat) (val : Nat → Nat → Nat → Nat) (ns : List Nat)
    (s s' : State) (x x' : Step) : Prop where
  id : x'.id = x.id
  units : x'.units = x.units
  blocks : ∃ more : List StreamBlock, (x'.stream dst).blocks = (x.stream dst).blocks ++ more ∧
    (more.map (·.bytes) = ns.flatMap fun n => (tileBlocksOf img d val n).map (·.2)) ∧ ∀ b ∈ more, b.cycle = cyc
  streams : ∀ k, k ≠ dst → x'.stream k = x.stream k
  state : s' = { s with pm := { s.pm with loc := s'.pm.loc } }
  elsewhere : ¬ (d.space = 1 ∧ d.span = sp) → s'.pm.loc = s.pm.loc
  outside : ∀ st' cyc' a, (∀ n ∈ ns, ∀ b ∈ presentIdx img d,
      ¬ (locBase sp + tileAddr d n + blockOff img d b ≤ a ∧ a < locBase sp + tileAddr d n + blockOff img d b + d.blockBytes)) →
    vread 0 s'.pm.loc st' cyc' a = vread 0 s.pm.loc st' cyc' a

section Tiles

variable {img : Image} {sp dst : Nat} {d : Desc} {cyc : Nat} {val : Nat → Nat → Nat → Nat}

theorem TilesWritten.nil (s : State) (x : Step) : TilesWritten img sp dst d cyc val [] s s x x where
  id := rfl
  units := rfl
  blocks := ⟨[], (List.append_nil _).symm, rfl, fun _ h => absurd h List.not_mem_nil⟩
  streams _ _ := rfl
  state := rfl
  elsewhere _ := rfl
  outside _ _ _ _ := rfl

theorem TilesWritten.append {ns ms : List Nat} {s s' s'' : State} {x x' x'' : Step} (h : TilesWritten img sp dst d cyc val ns s s' x x')
    (k : TilesWritten img sp dst d cyc val ms s' s'' x' x'') : TilesWritten img sp dst d cyc val (ns ++ ms) s s'' x x'' where
  id := k.id.trans h.id
  units := k.units.trans h.units
  blocks := by
    obtain ⟨a, ha, hab, hac⟩ := h.blocks
    obtain ⟨b, hb, hbb, hbc⟩ := k.blocks
    refine ⟨a ++ b, ?_, ?_, fun e he => (List.mem_append.mp he).elim (hac e) (hbc e)⟩
    · rw [hb, ha, List.append_assoc]
    · rw [List.map_append, hab, hbb, List.flatMap_append]
  streams i hi := (k.streams i hi).trans (h.streams i hi)
  state := by rw [k.state, h.state]
  elsewhere hn := (k.elsewhere hn).trans (h.elsewhere hn)
  outside st' cyc' a ha := (k.outside st' cyc' a fun n hn => ha n (List.mem_append_right _ hn)).trans
    (h.outside st' cyc' a fun n hn => ha n (List.mem_append_left _ hn))

/-- The local store after a station of step `st` has written tile `n` there. -/
def storeTile (img : Image) (sp : Nat) (d : Desc) (cyc : Nat) (val : Nat → Nat → Nat → Nat) (st n : Nat) (loc : Vers Byte) : Vers Byte :=
  (tileBlocksOf img d val n).foldl (fun m b => vwriteRun m st cyc (locBase sp + tileAddr d n + blockOff img d b.1) b.2) loc

/-- The step after a station has sent tile `n` to the deck. -/
def sentTile (img : Image) (dst : Nat) (d : Desc) (cyc : Nat) (val : Nat → Nat → Nat → Nat) (x : Step) (n tag : Nat) : Step :=
  produce x dst ((tileBlocksOf img d val n).map fun b => ⟨b.2, tag, cyc⟩)

theorem TilesWritten.steps_eq {ns : List Nat} {s s' : State} {x x' : Step} (h : TilesWritten img sp dst d cyc val ns s s' x x') :
    s'.steps = s.steps := by rw [h.state]

theorem TilesWritten.stepOf_eq {ns : List Nat} {s s' : State} {x x' : Step} (h : TilesWritten img sp dst d cyc val ns s s' x x') (i : Nat) :
    stepOf s' i = stepOf s i := by rw [stepOf, stepOf, h.steps_eq]

theorem TilesWritten.unit_eq {ns : List Nat} {s s' : State} {x x' : Step} (h : TilesWritten img sp dst d cyc val ns s s' x x') (k : Nat) :
    x'.unit k = x.unit k := by rw [Step.unit, Step.unit, h.units]

/-- What a station writes for one tile: its blocks go to the stream, and for a stream of SPACE 01b of the span to the local store too. -/
theorem stationWrite_eq (s : State) (x : Step) (n tag : Nat) :
    stationWrite s img x sp dst d cyc n tag (val n) =
      if d.space = 1 ∧ d.span = sp then
        ({ s with pm := { s.pm with loc := storeTile img sp d cyc val x.id n s.pm.loc } },
          (sentTile img dst d cyc val x n tag).setStream dst { (sentTile img dst d cyc val x n tag).stream dst with
            memPos := ((sentTile img dst d cyc val x n tag).stream dst).memPos + (tileBlocksOf img d val n).length })
      else (s, sentTile img dst d cyc val x n tag) := rfl

/-- Outside the tile's blocks the local store reads as before. -/
theorem vread_storeTile_of_outside (st n : Nat) (loc : Vers Byte) (st' cyc' a : Nat) (h : ∀ b ∈ presentIdx img d,
      ¬ (locBase sp + tileAddr d n + blockOff img d b ≤ a ∧ a < locBase sp + tileAddr d n + blockOff img d b + d.blockBytes)) :
    vread 0 (storeTile img sp d cyc val st n loc) st' cyc' a = vread 0 loc st' cyc' a := by
  refine vread_foldl_vwriteRun_of_outside 0 (fun b : Nat × Bytes => locBase sp + tileAddr d n + blockOff img d b.1) (·.2) _ _ _ _ _ _ _ ?_
  intro b hb
  rw [length_of_mem_tileBlocksOf hb]
  exact h b.1 (mem_presentIdx_of_mem_tileBlocksOf hb)

theorem stream_sentTile (x : Step) (n tag k : Nat) :
    (sentTile img dst d cyc val x n tag).stream k =
      if k = dst then { x.stream dst with blocks := (x.stream dst).blocks ++ (tileBlocksOf img d val n).map fun b => ⟨b.2, tag, cyc⟩ }
      else x.stream k := stream_produce x dst k _

/-- Writing one tile is writing the list of that tile. -/
theorem stationWrite_written (s : State) (x : Step) (n tag : Nat) :
    TilesWritten img sp dst d cyc val [n] s (stationWrite s img x sp dst d cyc n tag (val n)).1 x
      (stationWrite s img x sp dst d cyc n tag (val n)).2 := by
  have hbytes : (((tileBlocksOf img d val n).map fun b => (⟨b.2, tag, cyc⟩ : StreamBlock)).map (·.bytes)) =
      [n].flatMap fun n => (tileBlocksOf img d val n).map (·.2) := by
    rw [List.map_map, List.flatMap_singleton]
    rfl
  have hcyc : ∀ b ∈ (tileBlocksOf img d val n).map fun b => (⟨b.2, tag, cyc⟩ : StreamBlock), b.cycle = cyc := by
    intro b hb
    obtain ⟨_, -, rfl⟩ := List.mem_map.mp hb
    rfl
  rw [stationWrite_eq]
  split
  case isTrue hl =>
    refine ⟨rfl, rfl, ⟨_, ?_, hbytes, hcyc⟩, fun k hk => ?_, rfl, fun hn => absurd hl hn,
      fun st' cyc' a ha => vread_storeTile_of_outside _ _ _ _ _ _ (ha n (List.mem_singleton_self n))⟩
    · rw [stream_setStream, if_pos rfl, stream_sentTile, if_pos rfl]
    · rw [stream_setStream, if_neg hk, stream_sentTile, if_neg hk]
  case isFalse =>
    refine ⟨rfl, rfl, ⟨_, ?_, hbytes, hcyc⟩, fun k hk => ?_, rfl, fun _ => rfl, fun _ _ _ _ => rfl⟩
    · rw [stream_sentTile, if_pos rfl]
    · rw [stream_sentTile, if_neg hk]

/-- One tile of a station's work: written, with the events of its elements raised in the unit. -/
def tileStep (img : Image) (sp dst : Nat) (d : Desc) (cyc : Nat) (tag : Nat → Nat) (fn : ElemFn) (at_ : Nat → Nat → Nat → Nat × EventAt)
    (p : State × Step × UnitSt) (n : Nat) : State × Step × UnitSt :=
  let w := stationWrite p.1 img p.2.1 sp dst d cyc n (tag n) fun i j => (fn n i j).1
  (w.1, w.2, (tileElems img d).foldl (fun u e => u.raise (at_ n e.1 e.2).1 (at_ n e.1 e.2).2 (fn n e.1 e.2).2) p.2.2)

theorem foldl_tileStep_written (tag : Nat → Nat) (fn : ElemFn) (at_ : Nat → Nat → Nat → Nat × EventAt) (ns : List Nat)
    (p : State × Step × UnitSt) :
    TilesWritten img sp dst d cyc (fun n i j => (fn n i j).1) ns p.1 (ns.foldl (tileStep img sp dst d cyc tag fn at_) p).1 p.2.1
        (ns.foldl (tileStep img sp dst d cyc tag fn at_) p).2.1 ∧
      SamePlace p.2.2 (ns.foldl (tileStep img sp dst d cyc tag fn at_) p).2.2 := by
  induction ns generalizing p with
  | nil => exact ⟨.nil _ _, .refl _⟩
  | cons n ns ih =>
    obtain ⟨hw, hu⟩ := ih (tileStep img sp dst d cyc tag fn at_ p n)
    exact ⟨(stationWrite_written (val := fun n i j => (fn n i j).1) p.1 p.2.1 n (tag n)).append hw,
      (samePlace_foldl _ (fun u e => samePlace_raise u _ _ _) _ _).trans hu⟩

/-- A station's whole work: every tile of the stream is written, and the unit keeps its place. -/
theorem stationFold_written (s : State) (x : Step) (u : UnitSt) (tag : Nat → Nat) (fn : ElemFn)
    (at_ : Nat → Nat → Nat → Nat × EventAt) :
    TilesWritten img sp dst d cyc (fun n i j => (fn n i j).1) (List.range d.tiles) s (stationFold s img x sp u dst d cyc tag fn at_).1 x
        (stationFold s img x sp u dst d cyc tag fn at_).2.1 ∧
      SamePlace u (stationFold s img x sp u dst d cyc tag fn at_).2.2 := by
  obtain ⟨hw, hu⟩ := foldl_tileStep_written (img := img) (sp := sp) (dst := dst) (d := d) (cyc := cyc) tag fn at_ (List.range d.tiles) (s, x, u)
  exact ⟨⟨hw.id, hw.units, hw.blocks, hw.streams, hw.state, hw.elsewhere, hw.outside⟩, hu⟩

/-- Setting a step whose streams are those after the writing: the station has written its stream (R135, R136). -/
theorem TilesWritten.stationWrote {s s' : State} {x x₀ x' y : Step}
    (h : TilesWritten img sp dst d cyc val (List.range d.tiles) s s' x₀ x') (hx : ∀ k, x₀.stream k = x.stream k)
    (hy : ∀ k, y.stream k = x'.stream k) : StationWrote s (setStep s' y) img sp dst d cyc x (settle s' y) val := by
  refine ⟨?_, fun k hk => ?_, ?_, ?_, h.elsewhere, fun st' cyc' a ha => h.outside st' cyc' a fun n hn => ha n (List.mem_range.mp hn)⟩
  · obtain ⟨more, hm, hb, hc⟩ := h.blocks
    refine ⟨more, ?_, ?_, hc⟩
    · rw [settle_stream, hy, hm, hx]
    · rw [hb, tileBytes_eq]
  · rw [settle_stream, hy, h.streams k hk, hx]
  · rw [OnlyDies, setStep, h.state]
  · show s'.pm = { s.pm with loc := s'.pm.loc }
    rw [h.state]

/-- An issue looks at the steps alone. -/
theorem issued_of_steps {s s' t : State} {st key stall dry : Nat} {x y : Step} {u : UnitSt} (h : Issued s' t st key stall dry x u y)
    (hs : s'.steps = s.steps) : Issued s t st key stall dry x u y := by
  have e : ∀ i, stepOf s i = stepOf s' i := fun i => by rw [stepOf, stepOf, hs]
  obtain ⟨hy, hn, hl, he, hu, ho⟩ := h
  exact ⟨hy, hn, hl, he, hu, fun i hi => (ho i hi).trans (e i).symm⟩

/-- A station instruction on time whose tags are known issues and writes its results. -/
theorem stationRun_wrote {s : State} {st key stall : Nat} {x : Step} {u : UnitSt} {tag : Nat → Option Nat} (fn : ElemFn)
    (at_ : Nat → Nat → Nat → Nat × EventAt) (hx : stepOf s st = some x) (ht : OnTime img x u cyc stall)
    (htag : (dstTags d tag).isSome = true) :
    ∃ y, Issued s (stationRun s img x key sp u stall dst d cyc tag fn at_) st key stall 0 x u y ∧
      StationWrote s (stationRun s img x key sp u stall dst d cyc tag fn at_) img sp dst d cyc x y fun n i j => (fn n i j).1 := by
  obtain ⟨ts, hts⟩ := Option.isSome_iff_exists.mp htag
  unfold stationRun
  rw [hts]
  dsimp only
  rw [issueOr_onTime key _ ht]
  obtain ⟨hw, hu⟩ := stationFold_written (img := img) (sp := sp) (dst := dst) (d := d) (cyc := cyc) s x u (ts.getD · 0) fn at_
  exact ⟨_, issued_of_steps (issued_setStep ((hw.stepOf_eq st).trans hx) (hw.id.trans (id_of_stepOf hx)) hu.next hu.slip hu.entrance
    fun k _ => hw.unit_eq k) hw.steps_eq, hw.stationWrote (fun _ => rfl) fun _ => rfl⟩

end Tiles

/-! ### Row reductions, PART_ADD, POS and TRANSPOSE -/

/-- The three reductions run the same meaning, each with its combining operation and its operation on an element (R138). -/
theorem exec_rowOp {op : (Nat → Nat → Nat → Instr) × Nat × RowFn × (Fmt → FV → Nat × Nat)} (h : op ∈ rowOps) (st sp stall : Nat)
    (s : State) :
    exec (op.1 st sp stall) s = .next (vecRow op.2.1 op.2.2.1 op.2.2.2 st sp stall s) := by
  rcases List.mem_cons.mp h with rfl | h
  · rfl
  rcases List.mem_cons.mp h with rfl | h
  · rfl
  rcases List.mem_singleton.mp h with rfl
  rfl

section Turns

variable {s : State} {st sp stall : Nat} {x : Step} {img : Image} {c : Ctx} {u : UnitSt} {ins : VecIns}
  {a : Desc × List (List (Option Bytes))} {d : Desc}

/-- Element (i, j) of a row reduction: the reduced row in column 0, +0 elsewhere. -/
def rowElem (g : RowFn) (pre : Fmt → FV → Nat × Nat) (cf : Fmt) (a : Desc × List (List (Option Bytes))) (d : Desc) : ElemFn := fun n i j =>
  if j = 0 then
    let r := rowReduce g pre cf a.1 a.2 (rowTilesOf a.1 d n) i
    let q := fconv cf d.fmt r.1
    (q.1, r.2 ||| q.2)
  else (0, 0)

theorem rowElem_fst (g : RowFn) (pre : Fmt → FV → Nat × Nat) (cf : Fmt) (n i j : Nat) :
    (rowElem g pre cf a d n i j).1 = if j = 0 then (fconv cf d.fmt (rowReduce g pre cf a.1 a.2 (rowTilesOf a.1 d n) i).1).1 else 0 := by
  unfold rowElem
  split <;> rfl

/-- On its turn, with its operand arrived, a row reduction is one station instruction. -/
theorem vecRow_onTurn {vop : Nat} (g : RowFn) (pre : Fmt → FV → Nat × Nat) (h : VectorTurn s st sp x img c u ins) (hop : ins.vop = vop)
    (ha : operandTiles s img x true ins.srcA ins.cycle = some (some a)) (hd : descOf img x ins.dst = some d) :
    vecRow vop g pre st sp stall s =
      stationRun s img x (2000 + sp) sp u stall ins.dst d ins.cycle (fun n => readTag img x ins.srcA ((rowTilesOf a.1 d n).headD n) a.1)
        (rowElem g pre (precFmt ins.prec) a d)
        (fun n i _ => (ins.cycle + laneGroup a.1 (fullLanes ins.prec) ((rowTilesOf a.1 d n).headD n) i 0,
          .station ((rowTilesOf a.1 d n).headD n) i 0 u.next)) := by
  unfold vecRow
  rw [nextIns_eq_some.mpr h]
  dsimp only
  rw [if_pos hop, ha, hd]
  rfl

/-- On its turn, with its operand arrived, PART_ADD is one station instruction. -/
theorem execPartAdd_onTurn (h : VectorTurn s st sp x img c u ins) (hop : ins.vop = 0x28)
    (ha : operandTiles s img x true ins.srcA ins.cycle = some (some a)) (hd : descOf img x ins.dst = some d) :
    execPartAdd st sp stall s = .next (stationRun s img x (2000 + sp) sp u stall ins.dst d ins.cycle
      (fun n => readTag img x ins.srcA (n * (ins.arg + 1)) a.1)
      (fun n i j =>
        let r := partSum (precFmt ins.prec) ((List.range (ins.arg + 1)).map fun k =>
          let w := widen (precFmt ins.prec) a.1.fmt (operandBits (some a) (n * (ins.arg + 1) + k) i j)
          ((fcvt (precFmt ins.prec) w.1).1, w.2))
        let q := fconv (precFmt ins.prec) d.fmt r.1
        (q.1, r.2 ||| q.2))
      (fun n i j => (ins.cycle + laneGroup d (fullLanes ins.prec) n i j, .station (n * (ins.arg + 1)) i j u.next))) := by
  unfold execPartAdd
  rw [nextIns_eq_some.mpr h]
  dsimp only
  rw [if_pos hop, ha, hd]

/-- On its turn POS is one station instruction; its result has tag 0. -/
theorem execPos_onTurn (h : VectorTurn s st sp x img c u ins) (hop : ins.vop = 0x30) (hd : descOf img x ins.dst = some d) :
    execPos st sp stall s = .next (stationRun s img x (2000 + sp) sp u stall ins.dst d ins.cycle (fun _ => some 0)
      (fun n i j => posBits d.fmt (if ins.arg = 0 then (posOf d n i j).1 else (posOf d n i j).2))
      (fun n i j => (ins.cycle + laneGroup d 512 n i j, .station n i j u.next))) := by
  unfold execPos
  rw [nextIns_eq_some.mpr h]
  dsimp only
  rw [if_pos hop, hd]

/-- On its turn, with its operand arrived, TRANSPOSE is one station instruction. -/
theorem execTranspose_onTurn (h : VectorTurn s st sp x img c u ins) (hop : ins.vop = 0x38)
    (ha : operandTiles s img x true ins.srcA ins.cycle = some (some a)) (hd : descOf img x ins.dst = some d) :
    execTranspose st sp stall s = .next (stationRun s img x (2000 + sp) sp u stall ins.dst d ins.cycle
      (fun n => readTag img x ins.srcA n a.1)
      (fun n i j => fconv a.1.fmt d.fmt (operandBits (some a) n j i))
      (fun n i j => (ins.cycle + laneGroup a.1 (fullLanes ins.prec) n j i, .station n j i u.next))) := by
  unfold execTranspose
  rw [nextIns_eq_some.mpr h]
  dsimp only
  rw [if_pos hop, ha, hd]

end Turns

/-- A station that takes every tag from a known one is never kept waiting for a tag. -/
theorem dstTags_const_isSome (d : Desc) (t : Nat) : (dstTags d fun _ => some t).isSome = true := by
  have e : (fun _ : Nat => if d.stash = 7 then some 7 else some t) = fun _ => pure (if d.stash = 7 then 7 else t) := by
    funext
    split <;> rfl
  rw [dstTags, e, List.mapM_pure]
  rfl

/-- Settles O11: each instruction is one station instruction with its own element function, and a station instruction on time writes
what that function gives. -/
theorem reductionPositionTransposeResult : Obligations.ReductionPositionTransposeResult := by
  refine ⟨?rows, fun s st sp stall x img c u ins d hturn hdst htime => ⟨?partAdd, ?pos, ?transpose⟩⟩
  case rows =>
    intro op hop s st sp stall x img c u ins a d hturn hvop htime ha hdst htag
    obtain ⟨y, hy, hw⟩ := stationRun_wrote (rowElem op.2.2.1 op.2.2.2 (precFmt ins.prec) a d) _ hturn.step htime htag
    refine ⟨_, y, exec_rowOp hop st sp stall s, ?_⟩
    rw [vecRow_onTurn _ _ hturn hvop ha hdst]
    simp only [rowElem_fst] at hw
    exact ⟨hy, hw⟩
  case partAdd =>
    intro a hvop ha htag
    obtain ⟨y, hy, hw⟩ := stationRun_wrote _ _ hturn.step htime htag
    exact ⟨_, y, execPartAdd_onTurn hturn hvop ha hdst, hy, hw⟩
  case pos =>
    intro hvop
    obtain ⟨y, hy, hw⟩ := stationRun_wrote _ _ hturn.step htime (dstTags_const_isSome d 0)
    exact ⟨_, y, execPos_onTurn hturn hvop hdst, hy, hw⟩
  case transpose =>
    intro a hvop ha htag
    obtain ⟨y, hy, hw⟩ := stationRun_wrote _ _ hturn.step htime htag
    exact ⟨_, y, execTranspose_onTurn hturn hvop ha hdst, hy, hw⟩

end Sys2Proof.StationResults


/-! PROOFS of the number-format family, the ordered sums of the fabric: RED_RECV and ACC (O44). RED_RECV's addition is a station's
work over the tiles of its stream, so the relation of the part above says what it writes; ACC changes its step and the shadow slot
of its accumulator. -/

namespace Sys2Proof.OrderedSums

open Sys2Proof.Machine Sys2Proof.Safety Sys2Proof.Laws Sys2Proof.StationResults

/-! ### The step after an entry has issued -/

section Issue

variable {s : State} {st q stall : Nat} {x : Step} {img : Image} {c : Ctx} {u : UnitSt} {k : FabIns}

theorem nextFab_onTurn {fop : Nat} (h : FabricTurn s st q x img c u k) (hf : k.fop = fop) : nextFab s st q fop = some (x, img, c, u, k) := by
  unfold nextFab
  rw [nextIns_eq_some.mpr h]
  dsimp only
  rw [if_pos hf]

theorem unit_fabIssued (n : Nat) : (fabIssued x q u stall n).unit (2400 + q) = u.issued stall 0 :=
  (unit_setUnit x (2400 + q) (2400 + q) _).trans (if_pos rfl)

/-- A unit put back at its place leaves every unit of the step at its place. -/
theorem unit_next_setUnit {v : UnitSt} {key : Nat} (h : SamePlace (x.unit key) v) (j : Nat) : ((x.setUnit key v).unit j).next = (x.unit j).next := by
  rw [unit_setUnit]
  split
  · next hj => rw [hj, h.next]
  · rfl

theorem settle_accWritten (s : State) (x : Step) : (settle s x).accWritten = x.accWritten := by
  rcases settle_eq s x with h | ⟨-, h⟩
  · rw [h]
  · rw [h]

end Issue

/-! ### Ordered reductions (R284) -/

section Reduction

variable {s : State} {st q stall : Nat} {x : Step} {img : Image} {c : Ctx} {u : UnitSt} {k : FabIns} {bs : List Bytes} {d : Desc}

/-- On its turn, with every contribution here, RED_RECV adds them. -/
theorem execRedRecv_onTurn (h : FabricTurn s st q x img c u k) (ht : OnTime img x u k.cycle stall) (hf : k.fop = 4)
    (hbs : contributions s x k = some bs) (hd : descOf img x k.desc = some d) :
    execRedRecv st q stall s = .next (redSum s img (fabIssued x q u stall 0) k d (Config.addInstr q u.next % 65536) bs) := by
  unfold execRedRecv
  rw [nextFab_onTurn h hf]
  dsimp only
  rw [hbs, hd]
  dsimp only
  rw [issueOr_onTime _ _ ht]

/-- The addition of tiles: the station writes the sums, and every unit of the step keeps its place. -/
theorem redSum_dense_wrote {x₀ : Step} (ins : Nat) (hx : stepOf s st = some x) (hid : x₀.id = st) (hs : ∀ j, x₀.stream j = x.stream j)
    (hl : carriesList img k.desc = false) :
    ∃ y, stepOf (redSum s img x₀ k d ins bs) st = some y ∧ (∀ j, (y.unit j).next = (x₀.unit j).next) ∧
      StationWrote s (redSum s img x₀ k d ins bs) img k.span k.desc d k.cycle x y fun n i j => (redElem img d bs n i j).1 := by
  unfold redSum
  rw [hl, if_neg Bool.false_ne_true]
  obtain ⟨hw, hu⟩ := stationFold_written (img := img) (sp := k.span) (dst := k.desc) (d := d) (cyc := k.cycle) s x₀ (x₀.unit (2000 + k.span))
    (fun _ => d.stash) (redElem img d bs) (fun n i j => (k.cycle + laneGroup d 512 n i j, .station n i j ins))
  refine ⟨_, stepOf_setStep_self ((hw.stepOf_eq st).trans hx) (hw.id.trans hid), fun j => ?_, hw.stationWrote hs fun _ => rfl⟩
  rw [settle_unit, unit_next_setUnit (by rw [hw.unit_eq]; exact hu), hw.unit_eq]

/-- The addition of block lists within CAPACITY: the merged list is what the stream carries next. -/
theorem redSum_list_wrote {x₀ : Step} (ins : Nat) (hx : stepOf s st = some x) (hid : x₀.id = st)
    (hl : carriesList img k.desc = true) (hcap : (mergeLists (bs.map listEntries)).length ≤ leAt (bs.headD []) 4 4) :
    ∃ y, stepOf (redSum s img x₀ k d ins bs) st = some y ∧ (y.stream k.desc).list = true ∧
      (y.stream k.desc).blocks = (x₀.stream k.desc).blocks ++
        rawBlocks d.blockBytes (listBytes (leAt (bs.headD []) 4 4) (mergedEntries (mergeLists (bs.map listEntries)))) k.cycle := by
  unfold redSum
  dsimp only
  rw [hl, if_pos rfl, if_neg (Nat.not_lt.mpr hcap)]
  refine ⟨_, stepOf_setStep_self hx hid, ?_, ?_⟩
  · rw [settle_stream]
    exact congrArg StreamSt.list ((stream_setStream _ k.desc k.desc _).trans (if_pos rfl))
  · rw [settle_stream]
    refine (congrArg StreamSt.blocks ((stream_setStream _ k.desc k.desc _).trans (if_pos rfl))).trans ?_
    exact congrArg StreamSt.blocks ((stream_produce _ k.desc k.desc _).trans (if_pos rfl))

end Reduction

/-! ### Accumulators (R288) -/

theorem accKey_eq_add (a : Nat) (slot : Bool) (e : Nat) : accKey a slot e = accKey a slot 0 + e := by
  rw [accKey, accKey, Nat.add_zero]

/-- The keys of one slot lie below or above those of the other. -/
theorem accKey_outside_other (a : Nat) (slot : Bool) {e : Nat} (he : e < 1099511627776) :
    accKey a slot e < accKey a (!slot) 0 ∨ accKey a (!slot) 0 + 1099511627776 ≤ accKey a slot e := by
  cases slot <;> simp only [accKey, b2n, Bool.not_true, Bool.not_false, if_true, Bool.false_eq_true, if_false] <;> omega

/-- The words written stand in the shadow slot. -/
theorem kget_putAcc_shadow (c : Ctx) (a : Nat) {ws : List Nat} {e : Nat} (he : e < ws.length) :
    kget 0 (putAcc c a ws).acc (accKey a (!accLive c a) e) = BitVec.ofNat 32 (ws.getD e 0) := by
  have hin : accKey a (!accLive c a) 0 ≤ accKey a (!accLive c a) e ∧
      accKey a (!accLive c a) e < accKey a (!accLive c a) 0 + (ws.map (BitVec.ofNat 32)).length := by
    rw [accKey_eq_add a _ e, List.length_map]
    omega
  rw [putAcc, kget_ksetRun, if_pos hin, accKey_eq_add a _ e, Nat.add_sub_cancel_left, List.getD_eq_getElem _ _ (by rwa [List.length_map]),
    List.getElem_map, List.getD_eq_getElem _ _ he]

/-- The live slot stays as it was. -/
theorem kget_putAcc_live (c : Ctx) (a : Nat) {ws : List Nat} {e : Nat} (hw : ws.length ≤ 1099511627776) (he : e < 1099511627776) :
    kget 0 (putAcc c a ws).acc (accKey a (accLive c a) e) = kget 0 c.acc (accKey a (accLive c a) e) := by
  have hout := accKey_outside_other a (accLive c a) he
  rw [putAcc, kget_ksetRun, if_neg (by rw [List.length_map]; omega), kget_kclear, if_pos hout]

theorem length_accSums (c : Ctx) (a : Nat) (gs : List Nat) : ((accSums c a gs).map (·.1)).length = gs.length := by
  rw [List.length_map, accSums, List.length_map, List.length_range]

/-- A sum of ACC: the gradient alone at thinning position 0, else the live word plus the gradient (R287, R288). -/
theorem getD_accSums (c : Ctx) (a : Nat) {gs : List Nat} {e : Nat} (he : e < gs.length) :
    ((accSums c a gs).map (·.1)).getD e 0 = if c.thinPos = 0 then gs.getD e 0
      else (fadd .fp32 (dec32 (kget 0 c.acc (accKey a (accLive c a) e)).toNat) (dec32 (gs.getD e 0))).1 := by
  rw [List.getD_eq_getElem _ _ (by rwa [length_accSums]), List.getElem_map]
  simp only [accSums, List.getElem_map, List.getElem_range]
  split <;> rfl

theorem accList_kput_shadow (c : Ctx) (a : Nat) (l : Nat × List ListEntry) :
    accList { c with accLists := kput c.accLists (2 * a + b2n (!accLive c a)) l } a (!accLive c a) = some l := kfind_kput_self _ _ _

theorem accList_kput_live (c : Ctx) (a : Nat) (l : Nat × List ListEntry) :
    accList { c with accLists := kput c.accLists (2 * a + b2n (!accLive c a)) l } a (accLive c a) = accList c a (accLive c a) := by
  refine kfind_kput_of_ne _ _ ?_
  cases accLive c a <;> simp [b2n]

section Accumulate

variable {s : State} {st q stall : Nat} {x : Step} {img : Image} {c : Ctx} {u : UnitSt} {k : FabIns} {d : Desc}

/-- The step after an ACC of accumulator `a` has issued. -/
def accIssued (x : Step) (q : Nat) (u : UnitSt) (stall a : Nat) : Step := noteAcc (fabIssued x q u stall 0) a

theorem noteAcc_eq (x : Step) (a : Nat) : ∃ l, noteAcc x a = { x with accWritten := l } ∧ a ∈ l := by
  unfold noteAcc
  split
  · next h => exact ⟨_, rfl, List.contains_iff_mem.mp h⟩
  · exact ⟨_, rfl, List.mem_append_right _ (List.mem_singleton_self a)⟩

theorem samePlace_mergedEvents (u : UnitSt) (cyc ins : Nat) (m : List (Nat × Nat × List (Nat × Nat))) :
    SamePlace u (mergedEvents u cyc ins m) := by
  refine samePlace_foldl _ (fun v i => ?_) _ u
  split
  · exact samePlace_foldl _ (fun w e => samePlace_raise w _ _ _) _ v
  · exact .refl v

/-- What an ACC leaves: its entry issued, the accumulator noted as written, the context with its new slot. -/
theorem accumulated (c' : Ctx) (a : Nat) {key : Nat} {v : UnitSt} (hx : stepOf s st = some x)
    (hv : SamePlace ((accIssued x q u stall a).unit key) v) :
    ∃ y, stepOf (setStep (setCtx s x.ctx c') ((accIssued x q u stall a).setUnit key v)) st = some y ∧
      (y.unit (2400 + q)).next = u.next + 1 ∧ a ∈ y.accWritten ∧
      ctxOf (setStep (setCtx s x.ctx c') ((accIssued x q u stall a).setUnit key v)) x.ctx = some c' := by
  obtain ⟨l, hl, hmem⟩ := noteAcc_eq (fabIssued x q u stall 0) a
  refine ⟨_, stepOf_setStep_self (s := setCtx s x.ctx c') hx ?_, ?_, ?_, (ctxOf_setCtx s x.ctx x.ctx c').trans (if_pos rfl)⟩
  · show (accIssued x q u stall a).id = st
    rw [accIssued, hl]
    exact (id_of_stepOf hx : x.id = st)
  · rw [settle_unit, unit_next_setUnit hv, accIssued, hl]
    exact congrArg UnitSt.next (unit_fabIssued (x := x) (q := q) (u := u) (stall := stall) 0)
  · rw [settle_accWritten]
    show a ∈ (accIssued x q u stall a).accWritten
    rwa [accIssued, hl]

/-- A dense ACC on its turn: the shadow slot takes the sums of the gradient's words; which events the unit notes is left open. -/
theorem execAcc_dense_onTurn {gs : List Nat} (h : FabricTurn s st q x img c u k) (ht : OnTime img x u k.cycle stall) (hf : k.fop = 8)
    (hd : descOf img x k.desc = some d) (hl : listStream img x k.desc = false) (hg : streamWords s img x k.desc d k.cycle = some gs) :
    ∃ v, SamePlace ((accIssued x q u stall k.flow).unit (2000 + k.span)) v ∧
      execAcc st q stall s = .next (setStep (setCtx s x.ctx (putAcc c k.flow ((accSums c k.flow gs).map (·.1))))
        ((accIssued x q u stall k.flow).setUnit (2000 + k.span) v)) := by
  unfold execAcc
  rw [nextFab_onTurn h hf]
  dsimp only
  rw [hd]
  dsimp only
  rw [hl, if_neg Bool.false_ne_true, hg]
  dsimp only
  rw [issueOr_onTime _ _ ht]
  exact ⟨_, samePlace_foldl _ (fun v w => samePlace_raise v _ _ _) _ _, rfl⟩

/-- An ACC of a block list within CAPACITY on its turn: the shadow slot takes the merged list. -/
theorem execAcc_list_onTurn {b : Bytes} (h : FabricTurn s st q x img c u k) (ht : OnTime img x u k.cycle stall) (hf : k.fop = 8)
    (hd : descOf img x k.desc = some d) (hl : listStream img x k.desc = true) (hb : sendBytes s img x k.desc d k.cycle = some b)
    {m : List (Nat × Nat × List (Nat × Nat))}
    (hm : m = mergeLists [if c.thinPos = 0 then [] else ((accList c k.flow (accLive c k.flow)).map (·.2)).getD [], listEntries b])
    (hcap : m.length ≤ leAt b 4 4) :
    ∃ v, SamePlace ((accIssued x q u stall k.flow).unit (2000 + k.span)) v ∧
      execAcc st q stall s = .next (setStep
        (setCtx s x.ctx { c with accLists := kput c.accLists (2 * k.flow + b2n (!accLive c k.flow)) (leAt b 4 4, mergedEntries m) })
        ((accIssued x q u stall k.flow).setUnit (2000 + k.span) v)) := by
  subst hm
  unfold execAcc
  rw [nextFab_onTurn h hf]
  dsimp only
  rw [hd]
  dsimp only
  rw [hl, if_pos rfl, hb]
  dsimp only
  rw [issueOr_onTime _ _ ht, if_neg (Nat.not_lt.mpr hcap)]
  exact ⟨_, samePlace_mergedEvents _ _ _ _, rfl⟩

end Accumulate

/-- Settles O44: RED_RECV by the sums its station writes, tiles or list; ACC by what it leaves in the step and in the two slots. -/
theorem reductionsAddInSourceOrder : Obligations.ReductionsAddInSourceOrder := by
  refine ⟨?redRecv, ?acc, ?accList⟩
  case redRecv =>
    intro s st q stall x img c u k bs d hturn htime hfop hbs hd
    have hid : (fabIssued x q u stall 0).id = st := (id_of_stepOf hturn.step : x.id = st)
    have hexec := execRedRecv_onTurn hturn htime hfop hbs hd
    constructor
    · intro hl
      obtain ⟨y, hy, hnext, hw⟩ := redSum_dense_wrote (bs := bs) (d := d) (Config.addInstr q u.next % 65536) hturn.step hid (fun _ => rfl) hl
      exact ⟨_, y, hexec, hy, by rw [hnext, unit_fabIssued]; rfl, hw⟩
    · intro hl hcap
      obtain ⟨y, hy, hlist, hblocks⟩ := redSum_list_wrote (d := d) (Config.addInstr q u.next % 65536) hturn.step hid hl hcap
      exact ⟨_, y, hexec, hy, hlist, hblocks⟩
  case acc =>
    intro s st q stall x img c u k gs d hturn htime hfop hd hl hg hlen
    obtain ⟨v, hv, hexec⟩ := execAcc_dense_onTurn hturn htime hfop hd hl hg
    obtain ⟨y, hy, hnext, hmem, hctx⟩ := accumulated (putAcc c k.flow ((accSums c k.flow gs).map (·.1))) k.flow hturn.step hv
    refine ⟨_, y, _, hexec, hy, hnext, hmem, hctx, rfl, fun e he => ?_, fun e he => kget_putAcc_live c k.flow ?_ he⟩
    · rw [kget_putAcc_shadow c k.flow (by rwa [length_accSums]), getD_accSums c k.flow he]
    · rwa [length_accSums]
  case accList =>
    intro s st q stall x img c u k b d live hturn htime hfop hd hl hb hlive hcap
    subst hlive
    obtain ⟨v, hv, hexec⟩ := execAcc_list_onTurn hturn htime hfop hd hl hb rfl hcap
    obtain ⟨y, hy, hnext, hmem, hctx⟩ := accumulated { c with accLists := kput c.accLists _ _ } k.flow hturn.step hv
    exact ⟨_, y, _, hexec, hy, hnext, hmem, hctx, rfl, accList_kput_shadow .., accList_kput_live ..⟩

end Sys2Proof.OrderedSums


/-! PROOFS of the number-format family, the end of a step: commit point, trap and release (O37). A memory after a commit reads the
step's last write; the state at the commit point differs from the one before in contexts and power alone; a reply that waits for
nothing is a write to the status ring, and no later work of the row takes that write back. -/

namespace Sys2Proof.Commits

open Sys2Proof.Machine Sys2Proof.Safety Sys2Proof.Laws

/-! ### A versioned memory after a commit (R235) -/

/-- Writes whose value depends on the address alone: an address written reads that value, every other as before. -/
theorem kget_foldl_kset {α : Type} [DecidableEq α] (dflt : α) (f : Nat → α) (l : List (WriteRec α)) (m : KMap α) (a : Nat) :
    kget dflt (l.foldl (fun b w => kset dflt b w.addr (f w.addr)) m) a = if a ∈ l.map (·.addr) then f a else kget dflt m a := by
  induction l generalizing m with
  | nil => rfl
  | cons w l ih =>
    rw [List.foldl_cons, ih, kget_kset, List.map_cons]
    by_cases hl : a ∈ l.map (·.addr)
    · rw [if_pos hl, if_pos (List.mem_cons_of_mem _ hl)]
    · by_cases hw : a = w.addr
      · rw [if_neg hl, if_pos hw, if_pos (hw ▸ List.mem_cons_self ..), hw]
      · rw [if_neg hl, if_neg hw, if_neg fun h => (List.mem_cons.mp h).elim hw hl]

section Memory

variable {α : Type} [DecidableEq α] (dflt : α) {v : Vers α} {st : Nat} {os : List Nat} {a : Nat}

theorem kget_vcommit (v : Vers α) (st : Nat) (os : List Nat) (a : Nat) :
    kget dflt (vcommit dflt v st os).base a =
      if a ∈ (v.log.filter fun w => decide (w.step = st ∧ 0 < w.cycle)).map (·.addr) then vfinal dflt v st a else kget dflt v.base a :=
  kget_foldl_kset dflt (vfinal dflt v st) _ v.base a

theorem kget_vcommit_written (h : ∃ w ∈ v.log, w.step = st ∧ w.addr = a ∧ 0 < w.cycle) :
    kget dflt (vcommit dflt v st os).base a = vfinal dflt v st a := by
  obtain ⟨w, hw, hst, ha, hc⟩ := h
  rw [kget_vcommit, if_pos (List.mem_map.mpr ⟨w, List.mem_filter.mpr ⟨hw, decide_eq_true ⟨hst, hc⟩⟩, ha⟩)]

theorem kget_vcommit_untouched (h : ∀ w ∈ v.log, w.step = st → w.addr = a → w.cycle = 0) :
    kget dflt (vcommit dflt v st os).base a = kget dflt v.base a := by
  rw [kget_vcommit, if_neg]
  intro ha
  obtain ⟨w, hw, hwa⟩ := List.mem_map.mp ha
  obtain ⟨hmem, hp⟩ := List.mem_filter.mp hw
  obtain ⟨hst, hc⟩ := of_decide_eq_true hp
  exact hc.ne' (h w hmem hst hwa)

/-- No write of the step stays open: what it wrote is for every later step to read. -/
theorem step_ne_of_mem_vcommit_log (h : st ∉ os) : ∀ w ∈ (vcommit dflt v st os).log, w.step ≠ st := by
  intro w hw
  rcases List.mem_append.mp hw with hk | hk
  · obtain ⟨o, ho, hwo⟩ := List.mem_flatMap.mp hk
    obtain ⟨b, -, rfl⟩ := List.mem_map.mp hwo
    exact fun e => h (e ▸ ho)
  · exact of_decide_eq_true (List.mem_filter.mp hk).2

end Memory

theorem id_not_mem_otherLive (s : State) (x : Step) : x.id ∉ otherLive s x := by
  intro h
  obtain ⟨y, hy, he⟩ := List.mem_map.mp h
  have := (List.mem_filter.mp hy).2
  simp only [Bool.and_eq_true, decide_eq_true_eq] at this
  exact this.2 he

theorem commitMemories_mem (s : State) (x : Step) : (commitMemories s x).sm.mem = vcommit 0 s.sm.mem x.id (otherLive s x) := rfl

theorem commitMemories_tile (s : State) (x : Step) : (commitMemories s x).pm.tile = vcommit 0 s.pm.tile x.id (otherLive s x) := rfl

/-! ### Reading a state through a frame -/

theorem stepOf_eq_of_frame {l : List Part} {s t : State} (h : Frame l s t) (hs : Part.steps ∉ l) (i : Nat) : stepOf t i = stepOf s i := by
  have e : t.steps = s.steps := h .steps hs
  rw [stepOf, stepOf, e]

theorem ctxOf_eq_of_frame {l : List Part} {s t : State} (h : Frame l s t) (hc : Part.ctxs ∉ l) (n : Nat) : ctxOf t n = ctxOf s n := by
  have e : t.ctxs = s.ctxs := h .ctxs hc
  rw [ctxOf, ctxOf, e]

/-! ### Slots that owe nothing (R165, R166) -/

theorem payOwed_of_none {s : State} (ho : s.sched.owing = []) (hf : s.sched.follows = []) : payOwed s = s := by
  unfold payOwed
  rw [ho, List.foldl_nil]
  dsimp only
  rw [hf, List.foldl_nil]

theorem afterCommit_of_no_slot {s : State} (n : Nat) (h : s.sched.active = []) : afterCommit s n = s := by
  unfold afterCommit
  rw [h]
  rfl

/-! ### The state at the commit point -/

theorem learnAll_trapMask (c : Ctx) (img : Image) (slot m : Nat) (es : List (Nat × Nat)) : (learnAll c img slot m es).trapMask = c.trapMask := by
  unfold learnAll
  induction es generalizing c with
  | nil => rfl
  | cons e es ih =>
    rw [List.foldl_cons, ih, learnPhase]
    split <;> rfl

/-- The state in which the commit point looks at the flags: the energies of the last phase learned, the gaps begun (R399, R404). -/
def atCommitPoint (s : State) (x : Step) (img : Image) (es : List (Nat × Nat)) : State :=
  openGaps (match (img.phases).getLast? with
    | some p => updCtx s x.ctx fun c => learnAll c img x.slot p.id es
    | none => s) x img 0

theorem atCommitPoint_frame (s : State) (x : Step) (img : Image) (es : List (Nat × Nat)) :
    Frame [.ctxs, .power] s (atCommitPoint s x img es) := by
  unfold atCommitPoint
  refine (openGaps_frame _ x img 0).after (by decide) ?_
  split
  · exact (updCtx_frame s x.ctx _).mono (by decide)
  · exact Frame.refl _ s

theorem ctxOf_atCommitPoint {s : State} {x : Step} {c : Ctx} (img : Image) (es : List (Nat × Nat)) (h : ctxOf s x.ctx = some c) :
    ∃ k, ctxOf (atCommitPoint s x img es) x.ctx = some k ∧ k.trapMask = c.trapMask := by
  unfold atCommitPoint
  rw [ctxOf_eq_of_frame (openGaps_frame _ x img 0) (by decide)]
  split
  · rw [ctxOf_updCtx, if_pos rfl, h]
    exact ⟨_, rfl, learnAll_trapMask ..⟩
  · exact ⟨c, h, rfl⟩

theorem trapped_atCommitPoint {s : State} {x : Step} {c : Ctx} (img : Image) (es : List (Nat × Nat)) (h : ctxOf s x.ctx = some c) :
    trapped (atCommitPoint s x img es) x = decide (flagSummary x &&& c.trapMask ≠ 0) := by
  obtain ⟨k, hk, hm⟩ := ctxOf_atCommitPoint img es h
  unfold trapped
  rw [hk, ← hm]

section CommitPoint

variable {s : State} {st : Nat} {x : Step} {img : Image} {c : Ctx}

theorem workingStep_of_staged (hx : stepOf s st = some x) (hst : x.state = .staged) (hi : imageOf s x = some img) :
    workingStep s st = some (x, img) := by
  unfold workingStep
  rw [hx]
  dsimp only
  rw [hst, hi]
  rfl

/-- COMMIT_POINT of a staged step of one module with nothing left to land: the flags decide between a trap and the commit (R45, R171). -/
theorem execCommitPoint_of_staged (es : List (Nat × Nat)) (hx : stepOf s st = some x) (hst : x.state = .staged) (hi : imageOf s x = some img)
    (hm : img.multi = false) (hg : gatherPending img x = false) (hl : allLanded img x = true) (hs : shadowsOpen s x.ctx = false) :
    execCommitPoint st es s = if trapped (atCommitPoint s x img es) x then
      .next (payOwed (endStep (atCommitPoint s x img es) x (plain stArithTrap))) else .next (commitNow (atCommitPoint s x img es) x img) := by
  unfold execCommitPoint
  rw [workingStep_of_staged hx hst hi]
  dsimp only
  rw [if_neg (by simp [hst, hg]), if_neg (by simp [hl, hs]), hm, Bool.false_and]
  simp only [Bool.false_eq_true, if_false]
  rfl

end CommitPoint

/-! ### The commit -/

theorem bookFiller_pm (s : State) (x : Step) : (bookFiller s x).pm = s.pm := bookFiller_frame s x .pm (by decide)

/-- The state after the commit itself: the writes stand, the context and the step have committed (R159, R171). -/
def committedState (s : State) (x : Step) (img : Image) : State :=
  setStep (noteSums (updCtx (commitMemories (bookFiller s x) x) x.ctx fun c => commitCtx c img x) x) { x with state := .committed }

theorem committedState_frame (s : State) (x : Step) (img : Image) : Frame [.ctxs, .steps, .pm, .mem, .sm, .power] s (committedState s x img) := by
  refine (setStep_frame _ _).after (by decide) ((noteSums_frame _ x).after (by decide) ((updCtx_frame _ x.ctx _).after (by decide) ?_))
  exact (commitMemories_frame _ x).after (by decide) ((bookFiller_frame s x).mono (by decide))

/-- Once the memories stand, the commit changes contexts, steps and power alone. -/
theorem committedState_frame_memories (s : State) (x : Step) (img : Image) :
    Frame [.ctxs, .steps] (commitMemories (bookFiller s x) x) (committedState s x img) :=
  (setStep_frame _ _).after (by decide) ((noteSums_frame _ x).after (by decide) ((updCtx_frame _ x.ctx _).mono (by decide)))

theorem ctxOf_noteSums {s : State} {x : Step} {c : Ctx} (h : ctxOf s x.ctx = some c) :
    ∃ k, ctxOf (noteSums s x) x.ctx = some k ∧ k.droppedPairs = c.droppedPairs ∧ k.spilledPairs = c.spilledPairs := by
  unfold noteSums
  rw [ctxOf_updCtx, if_pos rfl, h]
  exact ⟨_, rfl, rfl, rfl⟩

theorem ctxOf_committedState {s : State} {x : Step} {c : Ctx} (img : Image) (h : ctxOf s x.ctx = some c) :
    ∃ k, ctxOf (committedState s x img) x.ctx = some k ∧ k.droppedPairs = x.dropped ∧ k.spilledPairs = x.spilled := by
  have hc : ctxOf (commitMemories (bookFiller s x) x) x.ctx = some c := by
    rw [ctxOf_eq_of_frame (commitMemories_frame _ x) (by decide), ctxOf_eq_of_frame (bookFiller_frame s x) (by decide), h]
  obtain ⟨k, hk, hd, hs⟩ := ctxOf_noteSums (s := updCtx (commitMemories (bookFiller s x) x) x.ctx fun c => commitCtx c img x)
    (by rw [ctxOf_updCtx, if_pos rfl, hc]; rfl)
  exact ⟨k, (ctxOf_eq_of_frame (setStep_frame _ _) (by decide) _).trans hk, hd, hs⟩

theorem settle_of_not_running (s : State) {x : Step} (h : x.state ≠ .running) : settle s x = x :=
  (settle_eq s x).resolve_right fun hr => h hr.1

theorem stepOf_committedState {s : State} {st : Nat} {x : Step} (img : Image) (h : stepOf s st = some x) :
    stepOf (committedState s x img) st = some { x with state := .committed } ∧
      ∀ i, i ≠ st → stepOf (committedState s x img) i = stepOf s i := by
  have hid : x.id = st := id_of_stepOf h
  have hsteps : ∀ i, stepOf (noteSums (updCtx (commitMemories (bookFiller s x) x) x.ctx fun c => commitCtx c img x) x) i = stepOf s i := fun i => by
    rw [stepOf_eq_of_frame (noteSums_frame _ x) (by decide), stepOf_eq_of_frame (updCtx_frame _ _ _) (by decide),
      stepOf_eq_of_frame (commitMemories_frame _ x) (by decide), stepOf_eq_of_frame (bookFiller_frame s x) (by decide)]
  constructor
  · refine (stepOf_setStep_self (y := { x with state := .committed }) ((hsteps st).trans h) hid).trans ?_
    rw [settle_of_not_running]
    exact StepState.noConfusion
  · intro i hi
    exact (stepOf_setStep_of_ne _ (y := { x with state := .committed }) fun e => hi (e.trans hid)).trans (hsteps i)

/-- The release of delta records touches the context's sender alone. -/
theorem ctxOf_releaseDeltas {s : State} {x : Step} {c : Ctx} (h : ctxOf s x.ctx = some c) :
    ∃ q, ctxOf (releaseDeltas s x) x.ctx = some { c with sender := q } := by
  unfold releaseDeltas
  rw [h]
  dsimp only
  split
  · exact ⟨c.sender, h⟩
  · split
    · rw [ctxOf_eq_of_frame (startOpenFlow_frame _ _ _ _ _ _ _ _ _ _) (by decide), ctxOf_setCtx, if_pos rfl]
      exact ⟨_, rfl⟩
    · exact ⟨c.sender, h⟩

/-- After the commit stacked memory holds what the step wrote (R235). -/
theorem committed_mem (s : State) (x : Step) (img : Image) :
    (releaseDeltas (committedState s x img) x).sm.mem = vcommit 0 s.sm.mem x.id (otherLive (bookFiller s x) x) :=
  calc (releaseDeltas (committedState s x img) x).sm.mem
    _ = (committedState s x img).sm.mem := releaseDeltas_frame _ x .mem (by decide)
    _ = (commitMemories (bookFiller s x) x).sm.mem := committedState_frame_memories s x img .mem (by decide)
    _ = vcommit 0 (bookFiller s x).sm.mem x.id (otherLive (bookFiller s x) x) := commitMemories_mem _ x
    _ = vcommit 0 s.sm.mem x.id (otherLive (bookFiller s x) x) := by
      rw [show (bookFiller s x).sm.mem = s.sm.mem from bookFiller_frame s x .mem (by decide)]

/-- After the commit the tile stores hold what the step wrote (R82). -/
theorem committed_tile (s : State) (x : Step) (img : Image) :
    (releaseDeltas (committedState s x img) x).pm.tile = vcommit 0 s.pm.tile x.id (otherLive (bookFiller s x) x) := by
  have hr : (releaseDeltas (committedState s x img) x).pm = (committedState s x img).pm := releaseDeltas_frame _ x .pm (by decide)
  have hc : (committedState s x img).pm = (commitMemories (bookFiller s x) x).pm := committedState_frame_memories s x img .pm (by decide)
  rw [hr, hc, commitMemories_tile, bookFiller_pm]

/-- Where no slot is in progress for a real-time step and none owes an admission, a commit ends with the release of the deltas. -/
theorem commitNow_of_no_slot {s : State} {x : Step} (img : Image) (hr : x.kind = .realTime → s.sched.active = [])
    (ho : s.sched.owing = []) (hf : s.sched.follows = []) : commitNow s x img = releaseDeltas (committedState s x img) x := by
  have hc : (committedState s x img).sched = s.sched := committedState_frame s x img .sched (by decide)
  have hs : (releaseDeltas (committedState s x img) x).sched = s.sched :=
    Eq.trans (releaseDeltas_frame (committedState s x img) x .sched (by decide)) hc
  show payOwed (if x.kind = .realTime then afterCommit (releaseDeltas (committedState s x img) x) x.ctx
    else releaseDeltas (committedState s x img) x) = _
  split
  · next hk => rw [afterCommit_of_no_slot _ (hs ▸ hr hk), payOwed_of_none (hs ▸ ho) (hs ▸ hf)]
  · rw [payOwed_of_none (hs ▸ ho) (hs ▸ hf)]

/-! ### A trap -/

theorem stepOf_replyStep_self (s : State) (x : Step) (y : Reply) : stepOf (replyStep s x y) x.id = none := by
  unfold replyStep
  dsimp only
  rw [stepOf_eq_of_frame (stoppingEnd_frame _ _) (by decide), stepOf_dropStep, if_pos rfl]

theorem ended_id (x : Step) (status : Nat) : (x.ended status).id = x.id := by
  unfold Step.ended
  split <;> rfl

theorem stepOf_endStep_self (s : State) (x : Step) (y : Reply) : stepOf (endStep s x y) x.id = none := by
  unfold endStep
  dsimp only
  rw [← ended_id x y.status]
  exact stepOf_replyStep_self _ _ _

theorem noteSums_pm (s : State) (x : Step) : (noteSums s x).pm = s.pm := noteSums_frame s x .pm (by decide)

theorem openWrites_pm (s : State) (x : Step) : (openWrites s x).pm = s.pm := openWrites_frame s x .pm (by decide)

theorem replyStep_pm (s : State) (x : Step) (y : Reply) : (replyStep s x y).pm = s.pm := replyStep_frame s x y .pm (by decide)

/-- A step that ends while it holds claims discards what it wrote on the dies (R88). -/
theorem endStep_pm_of_live {s : State} {x : Step} (y : Reply) (h : x.state.live = true) : (endStep s x y).pm = dropDies s.pm x.id := by
  unfold endStep
  dsimp only
  rw [if_pos (Or.inl h : x.state.live = true ∨ x.state = .hold), replyStep_pm]
  show (if y.status = stArithTrap then _ else _ : State).pm = _
  split
  · rw [noteSums_pm, openWrites_pm, bookFiller_pm]
  · rw [openWrites_pm, bookFiller_pm]

/-! ### The release -/

/-- From `s` to `t` the numbers of host writes only grow. -/
def NextIdLe (s t : State) : Prop := s.host.nextId ≤ t.host.nextId

theorem nextIdLe_foldl {β : Type} (f : State → β → State) (hf : ∀ u b, NextIdLe u (f u b)) (l : List β) (s : State) :
    NextIdLe s (l.foldl f s) := by
  induction l generalizing s with
  | nil => exact Nat.le_refl _
  | cons b l ih => exact Nat.le_trans (hf s b) (ih _)

theorem nextIdLe_issueWrite (s : State) (n : Option Nat) (path : HwPath) (r : Option RingId) (addr : Nat) (b : Bytes) (after : List Nat) :
    NextIdLe s (issueWrite s n path r addr b after) := Nat.le_succ _

theorem nextIdLe_writeHostAfter (s : State) (n : Nat) (path : HwPath) (va : Nat) (b : Bytes) (after : List Nat) :
    NextIdLe s (writeHostAfter s n path va b after) := by
  unfold writeHostAfter
  split
  · exact Nat.le_refl _
  · refine nextIdLe_foldl _ (fun u q => ?_) _ s
    split
    · exact nextIdLe_issueWrite ..
    · exact Nat.le_refl _

theorem nextIdLe_writeResult (s : State) (r : RingId) (addr : Nat) (b : Bytes) : NextIdLe s (writeResult s r addr b) := by
  cases r with
  | admin => exact nextIdLe_foldl _ (fun u q => nextIdLe_issueWrite ..) _ s
  | ctx n => exact nextIdLe_writeHostAfter ..

theorem nextIdLe_releaseMirrors (s : State) (x : Step) : NextIdLe s (releaseMirrors s x) := by
  unfold releaseMirrors
  split
  · exact Nat.le_refl _
  · split
    · exact nextIdLe_foldl _ (fun u t => nextIdLe_writeHostAfter ..) _ s
    · exact Nat.le_refl _

/-- The state in which a step is answered: its records written, its energy booked. -/
def answeredState (s : State) (x : Step) : State :=
  bookStep (if writesRecords x then
    writeResult s (.ctx x.ctx) x.resultAddr (((recordsFit x).1.take (recordsFit x).2).flatMap (leBytes 16)) else s) x

theorem answeredState_frame (s : State) (x : Step) : Frame [.host, .ctxs, .power] s (answeredState s x) := by
  refine (bookStep_frame _ x).after (by decide) ?_
  split
  · exact (writeResult_frame s _ _ _).mono (by decide)
  · exact Frame.refl _ s

theorem nextIdLe_answeredState (s : State) (x : Step) : NextIdLe s (answeredState s x) := by
  unfold NextIdLe answeredState
  rw [show (bookStep _ x).host = _ from bookStep_frame _ x .host (by decide)]
  split
  · exact nextIdLe_writeResult ..
  · exact Nat.le_refl _

/-- The reply of a STEP_RUN without CFENCE is on its way to the ring at once (R343, R345, R368). -/
theorem replyStep_posts {s : State} {x : Step} {g : Ring} {q : Cmd} (y : Reply) (hg : ringOf s (.ctx x.ctx) = some g) (hq : g.cmd x.seq = some q)
    (hop : q.opcode = 0x0040) (hf : q.cfence = false) :
    ∃ w ∈ (replyStep s x y).host.writes, s.host.nextId ≤ w.id ∧ w.path = .status ∧
      w.bytes = replyBytes { stepReply x y with opcode := q.opcode, seq := q.seqNo, ctx := some x.ctx } := by
  have hring : ((ringOf (answeredState s x) (.ctx x.ctx)).bind fun g => g.cmd q.seq) = some q := by
    rw [(answeredState_frame s x).ring (by decide) (by decide), hg, cmd_seq hq]
    exact hq
  have hhost : (replyStep s x y).host = (endCmd (answeredState s x) (.ctx x.ctx) q.seq (stepReply x y)).host := by
    rw [cmd_seq hq]
    exact stoppingEnd_frame _ _ .host (by decide)
  obtain ⟨g', -, ⟨-, w, hw, hid, hpath, -, hbytes⟩ | ⟨hwaits, -⟩⟩ := endCmd_replied (stepReply x y) hring
  · exact ⟨w, hhost ▸ hw, Nat.le_trans (nextIdLe_answeredState s x) hid, hpath, hbytes⟩
  · simp [hf, hop] at hwaits

/-- Work on another ring takes no write to the host back. -/
theorem mem_writes_endCmd {s : State} {w : HostWrite} (r : RingId) (seq : Nat) (y : Reply) (h : w ∈ s.host.writes) :
    w ∈ (endCmd s r seq y).host.writes := by
  unfold endCmd
  split
  · exact h
  · next c hc =>
    obtain ⟨g, hg, -⟩ := Option.bind_eq_some_iff.mp hc
    dsimp only
    split
    · rwa [show (updCmd s r seq _).host = s.host from updCmd_frame s r seq _ .host (by decide)]
    · exact ((postReply_spec seq _ hg).1.trans (releaseHeld_kept _ r)).2.1 w h

theorem destroyTraffic_writes (s : State) (n : Nat) (tag : BitVec 32) : (destroyTraffic s n tag).host.writes = s.host.writes := by
  unfold destroyTraffic
  split
  · rfl
  · rw [show (updCtx _ n _).host = _ from updCtx_frame _ n _ .host (by decide)]
    exact congrArg (·.writes) (wcDiscard_frame s _ .host (by decide))

/-- The end of a context's destruction takes no write back: those of the context become those of a former one. -/
theorem finishDestroy_keeps_write {s : State} {w : HostWrite} (n : Nat) (h : w ∈ s.host.writes) :
    ∃ v ∈ (finishDestroy s n).host.writes, v.id = w.id ∧ v.path = w.path ∧ v.bytes = w.bytes := by
  unfold finishDestroy
  split
  · split
    · exact ⟨w, h, rfl, rfl, rfl⟩
    · split
      · exact ⟨w, h, rfl, rfl, rfl⟩
      · refine ⟨if w.ctx = some n then { w with former := true } else w, mem_writes_endCmd _ _ _ (List.mem_map_of_mem h), ?_⟩
        split <;> exact ⟨rfl, rfl, rfl⟩
  · exact ⟨w, h, rfl, rfl, rfl⟩

theorem finishDestroy_sched (s : State) (n : Nat) (ho : s.sched.owing = []) (hf : s.sched.follows = []) :
    (finishDestroy s n).sched.owing = [] ∧ (finishDestroy s n).sched.follows = [] := by
  unfold finishDestroy
  split
  · split
    · exact ⟨ho, hf⟩
    · split
      · exact ⟨ho, hf⟩
      · dsimp only
        rw [show (endCmd _ .admin _ _).sched = _ from endCmd_frame _ _ _ _ .sched (by decide)]
        refine ⟨ho, ?_⟩
        show s.sched.follows.filter _ = []
        rw [hf]
        rfl
  · exact ⟨ho, hf⟩

/-- What CTX_DESTROY still has to do after a release takes no write back, wakes no slot and brings no step back. -/
theorem afterRelease_keeps {s : State} {w : HostWrite} (n : Nat) (hw : w ∈ s.host.writes) (ho : s.sched.owing = []) (hf : s.sched.follows = []) :
    (∃ v ∈ (afterRelease s n).host.writes, v.id = w.id ∧ v.path = w.path ∧ v.bytes = w.bytes) ∧
      (afterRelease s n).sched.owing = [] ∧ (afterRelease s n).sched.follows = [] ∧ ∀ i, stepOf (afterRelease s n) i = stepOf s i := by
  unfold afterRelease
  split
  · next k _ =>
    split
    · have hs : (destroyTraffic s n k.tag).sched = s.sched := destroyTraffic_frame s n k.tag .sched (by decide)
      have hd := finishDestroy_sched (destroyTraffic s n k.tag) n (hs ▸ ho) (hs ▸ hf)
      refine ⟨finishDestroy_keeps_write n (destroyTraffic_writes s n k.tag ▸ hw), hd.1, hd.2, fun i => ?_⟩
      rw [stepOf_eq_of_frame (finishDestroy_frame _ n) (by decide), stepOf_eq_of_frame (destroyTraffic_frame s n k.tag) (by decide)]
    · exact ⟨⟨w, hw, rfl, rfl, rfl⟩, ho, hf, fun _ => rfl⟩
  · exact ⟨⟨w, hw, rfl, rfl, rfl⟩, ho, hf, fun _ => rfl⟩

theorem deltasOpen_of_no_sender {s : State} {x : Step} {c : Ctx} (h : ctxOf s x.ctx = some c) (hs : c.sender = none) : deltasOpen s x = false := by
  unfold deltasOpen
  rw [h]
  dsimp only
  rw [hs, Bool.and_false]

theorem mergeStaged_nil : mergeStaged [] = [] := by
  rw [mergeStaged, List.mergeSort_nil]
  rfl

/-- RELEASE_COMPLETE of a committed step with nothing staged and no partner: the mirrors, the reply, and what follows it (R171, R244). -/
theorem execReleaseComplete_of_nothing_staged {s : State} {st : Nat} {x : Step} {c : Ctx} (hx : stepOf s st = some x) (hst : x.state = .committed)
    (hc : ctxOf s x.ctx = some c) (hs : c.sender = none) (hstaged : x.staged = []) :
    execReleaseComplete st [] false s = .next (payOwed (afterRelease
      (replyStep (dropFlight (releaseMirrors s x) x) x { status := stOk, committed := true }) x.ctx)) := by
  unfold execReleaseComplete
  rw [hx]
  dsimp only
  rw [if_neg (not_not_intro hst), Bool.false_and, if_neg Bool.false_ne_true, deltasOpen_of_no_sender hc hs, if_neg Bool.false_ne_true, hstaged,
    mergeStaged_nil]
  rfl

/-- Settles O37: the commit by what it leaves in steps, context and memories; the trap by the end of the step; the release by the reply. -/
theorem commitMakesWritesStand : Obligations.CommitMakesWritesStand := by
  refine ⟨?commit, ?trap, ?release⟩
  case commit =>
    intro s st es x img c hx hst hi hc hm hr ho hf hg hl hs hflags
    have hat := atCommitPoint_frame s x img es
    have hsched : (atCommitPoint s x img es).sched = s.sched := hat .sched (by decide)
    obtain ⟨k₀, hk₀, -⟩ := ctxOf_atCommitPoint img es hc
    obtain ⟨k, hk, hdropped, hspilled⟩ := ctxOf_committedState img hk₀
    obtain ⟨q, hq⟩ := ctxOf_releaseDeltas hk
    obtain ⟨hcommitted, hothers⟩ := stepOf_committedState img ((stepOf_eq_of_frame hat (by decide) st).trans hx)
    have hid : x.id = st := id_of_stepOf hx
    have hmem := committed_mem (atCommitPoint s x img es) x img
    have htile := committed_tile (atCommitPoint s x img es) x img
    rw [show (atCommitPoint s x img es).sm.mem = s.sm.mem from hat .mem (by decide), hid] at hmem
    rw [show (atCommitPoint s x img es).pm = s.pm from hat .pm (by decide), hid] at htile
    have hsteps := stepOf_eq_of_frame (releaseDeltas_frame (committedState (atCommitPoint s x img es) x img) x) (by decide)
    refine ⟨releaseDeltas (committedState (atCommitPoint s x img es) x img) x, { x with state := .committed }, { k with sender := q },
      ?_, (hsteps st).trans hcommitted, rfl, hq, hdropped, hspilled, fun i hi => ?_, fun a ha => ?_, fun a ha => ?_, fun a ha => ?_, ?_⟩
    · show execCommitPoint st es s = _
      rw [execCommitPoint_of_staged es hx hst hi hm hg hl hs, trapped_atCommitPoint img es hc, if_neg (by simp [hflags]),
        commitNow_of_no_slot img (hsched ▸ hr) (hsched ▸ ho) (hsched ▸ hf)]
    · rw [hsteps, hothers i hi, stepOf_eq_of_frame hat (by decide)]
    · rw [hmem, kget_vcommit_written 0 ha]
    · rw [hmem, kget_vcommit_untouched 0 ha]
    · rw [htile, kget_vcommit_written 0 ha]
    · rw [hmem]
      exact step_ne_of_mem_vcommit_log 0 (hid ▸ id_not_mem_otherLive _ x)
  case trap =>
    intro s st es x img c hx hst hi hc hm ho hf hg hl hs hflags
    have hid : x.id = st := id_of_stepOf hx
    have hat := atCommitPoint_frame s x img es
    have hsched : (endStep (atCommitPoint s x img es) x (plain stArithTrap)).sched = s.sched :=
      Eq.trans (endStep_frame _ _ _ .sched (by decide)) (hat .sched (by decide))
    have hpm : (endStep (atCommitPoint s x img es) x (plain stArithTrap)).pm = dropDies s.pm st := by
      rw [endStep_pm_of_live _ (by rw [hst]; rfl), hid, show (atCommitPoint s x img es).pm = s.pm from hat .pm (by decide)]
    refine ⟨endStep (atCommitPoint s x img es) x (plain stArithTrap), ?_, ?_, ?_, ?_⟩
    · show execCommitPoint st es s = _
      rw [execCommitPoint_of_staged es hx hst hi hm hg hl hs, trapped_atCommitPoint img es hc, if_pos (decide_eq_true hflags),
        payOwed_of_none (hsched ▸ ho) (hsched ▸ hf)]
    · rw [← hid]
      exact stepOf_endStep_self _ _ _
    · rw [hpm]
      exact fun w hw => of_decide_eq_true (List.mem_filter.mp hw).2
    · rw [hpm]
      rfl
  case release =>
    intro s st x c g q hx hst hc hs hstaged ho hf hg hq hop hfence
    have hu : Frame [.host, .slory] s (dropFlight (releaseMirrors s x) x) :=
      (dropFlight_frame _ x).after (by decide) ((releaseMirrors_frame s x).mono (by decide))
    obtain ⟨w, hw, hwid, hpath, hbytes⟩ := replyStep_posts { status := stOk, committed := true }
      ((hu.ring (by decide) (by decide) _).trans hg) hq hop hfence
    have hsched : (replyStep (dropFlight (releaseMirrors s x) x) x { status := stOk, committed := true }).sched = s.sched :=
      Eq.trans (replyStep_frame _ _ _ .sched (by decide)) (hu .sched (by decide))
    obtain ⟨⟨v, hv, hvid, hvpath, hvbytes⟩, howing, hfollows, hsteps⟩ := afterRelease_keeps x.ctx hw (hsched ▸ ho) (hsched ▸ hf)
    refine ⟨_, execReleaseComplete_of_nothing_staged hx hst hc hs hstaged, ?_⟩
    rw [payOwed_of_none howing hfollows]
    refine ⟨?_, v, hv, ?_, hvpath.trans hpath, hvbytes.trans hbytes⟩
    · rw [hsteps, ← id_of_stepOf hx]
      exact stepOf_replyStep_self _ _ _
    · rw [hvid]
      exact Nat.le_trans (nextIdLe_releaseMirrors s x) hwid

end Sys2Proof.Commits


/-! PROOFS of the array family, what a step reads of the memories of the dies: after a fold of writes, after runs of writes, and where
arrays, slots, banks and lines lie. -/

namespace Sys2Proof.DieMemories

open Sys2Proof.Machine Sys2Proof.StationResults

/-! ### Reading after a fold of writes -/

section Folds

variable {σ β γ : Type} (rd : σ → γ) (f : σ → β → σ)

/-- Writes that a reading does not see leave it alone. -/
theorem read_foldl_of_unseen (l : List β) (s : σ) (h : ∀ b ∈ l, ∀ s, rd (f s b) = rd s) : rd (l.foldl f s) = rd s := by
  induction l generalizing s with
  | nil => rfl
  | cons b l ih =>
    rw [List.foldl_cons, ih _ fun c hc => h c (List.mem_cons_of_mem _ hc), h b (List.mem_cons_self ..)]

/-- A reading that one write of the list sets and no other is seen by. -/
theorem read_foldl_of_mem {l : List β} {b : β} {val : γ} (hb : b ∈ l) (s : σ) (hset : ∀ s, rd (f s b) = val)
    (hother : ∀ c ∈ l, c ≠ b → ∀ s, rd (f s c) = rd s) : rd (l.foldl f s) = val := by
  induction l generalizing s with
  | nil => cases hb
  | cons c l ih =>
    rw [List.foldl_cons]
    by_cases hl : b ∈ l
    · exact ih hl _ fun e he => hother e (List.mem_cons_of_mem _ he)
    · obtain rfl : b = c := (List.mem_cons.mp hb).resolve_right hl
      rw [read_foldl_of_unseen rd f l _ fun e he => hother e (List.mem_cons_of_mem _ he) (ne_of_mem_of_not_mem he hl), hset]

/-- A reading that write number `r` sets and no later one is seen by. -/
theorem read_foldl_of_last {l : List β} {r : Nat} {b : β} {val : γ} (hr : l[r]? = some b) (s : σ) (hset : ∀ s, rd (f s b) = val)
    (hlater : ∀ j c, r < j → l[j]? = some c → ∀ s, rd (f s c) = rd s) : rd (l.foldl f s) = val := by
  induction l generalizing r s with
  | nil => cases hr
  | cons c l ih =>
    rw [List.foldl_cons]
    cases r with
    | zero =>
      obtain rfl : c = b := Option.some.inj hr
      rw [read_foldl_of_unseen rd f l _ fun e he => ?_, hset]
      obtain ⟨j, hj⟩ := List.mem_iff_getElem?.mp he
      exact hlater (j + 1) e (Nat.succ_pos j) hj
    | succ r => exact ih hr _ fun j e hj => hlater (j + 1) e (Nat.succ_lt_succ hj)

end Folds

/-! ### Runs of writes, read in the next nominal cycle (R134) -/

section Runs

variable {α : Type}

/-- What a read of cycle `cyc` sees was logged by then. -/
theorem vlast_cycle_le_read {st cyc a : Nat} (l : List (WriteRec α)) {acc : Option (Nat × α)} (ha : ∀ e, acc = some e → e.1 ≤ cyc)
    {e : Nat × α} (h : vlast st cyc a l acc = some e) : e.1 ≤ cyc := by
  induction l generalizing acc with
  | nil => exact ha e h
  | cons w t ih =>
    rw [vlast_cons] at h
    refine ih (fun e' he => ?_) h
    rcases ite_eq_iff.mp he with ⟨hw, he⟩ | ⟨-, he⟩
    · cases he
      exact (of_decide_eq_true (Bool.and_eq_true_iff.mp hw).1).2.2
    · exact ha e' he

/-- The record logged last is what the next nominal cycle reads, whatever is logged for later cycles. -/
theorem vread_append_next (d : α) (v : Vers α) (st cyc a : Nat) (x : α) (rank : Nat) :
    vread d { v with log := v.log ++ [⟨st, cyc + 1, a, x, rank⟩] } st (cyc + 1) a = x := by
  simp only [vread, vlast_append]
  cases hv : vlast st (cyc + 1) a v.log none with
  | none => simp [vlast]
  | some e => simp [vlast, vlast_cycle_le_read v.log (acc := none) (fun _ he => by cases he) hv]

theorem vread_vwrite_next (d : α) (v : Vers α) (st cyc a : Nat) (x : α) : vread d (vwrite v st cyc a x) st (cyc + 1) a = x :=
  vread_append_next d v st cyc a x 0

/-- A run of writes reads back in the next nominal cycle. -/
theorem vread_vwriteRun_next (d : α) (xs : List α) (v : Vers α) (st cyc a : Nat) {k : Nat} (h : k < xs.length) :
    vread d (vwriteRun v st cyc a xs) st (cyc + 1) (a + k) = xs.getD k d := by
  induction xs generalizing v a k with
  | nil => cases h
  | cons x xs ih =>
    rw [vwriteRun]
    cases k with
    | zero => rw [vread_vwriteRun_of_outside _ _ _ _ _ _ _ _ _ (by omega)]; exact vread_vwrite_next d v st cyc a x
    | succ k => rw [show a + (k + 1) = a + 1 + k by omega, ih _ _ (Nat.lt_of_succ_lt_succ h)]; rfl

/-- A run of writes is not seen at its own nominal cycle or before. -/
theorem vread_vwriteRun_of_le (d : α) (xs : List α) (v : Vers α) (st cyc a st' a' : Nat) {cyc' : Nat} (h : cyc' ≤ cyc) :
    vread d (vwriteRun v st cyc a xs) st' cyc' a' = vread d v st' cyc' a' := by
  induction xs generalizing v a with
  | nil => rfl
  | cons x xs ih => rw [vwriteRun, ih, vread_vwrite_of_le d v st st' cyc cyc' a a' x h]

end Runs

/-! ### Bytes of slices and lines -/

theorem slice_eq_map (b : Bytes) (o n : Nat) : slice b o n = (List.range n).map fun i => b.getD (o + i) 0 := by
  refine List.ext_getElem (by simp [slice]) fun i h1 h2 => ?_
  have hi : i < n := by simpa using h2
  by_cases hb : o + i < b.length
  · rw [List.getElem_map, List.getElem_range, List.getD_eq_getElem _ _ hb]
    simp [slice, show i < b.length - o by omega, hi]
  · rw [List.getElem_map, List.getElem_range, List.getD_eq_default _ _ (by omega)]
    simp [slice, List.getElem_append, show ¬ i < b.length - o by omega]

theorem getD_map_range {α : Type} (d : α) (g : Nat → α) {n i : Nat} (h : i < n) : ((List.range n).map g).getD i d = g i := by
  rw [List.getD_eq_getElem _ _ (by rwa [List.length_map, List.length_range]), List.getElem_map, List.getElem_range]

theorem length_slice (b : Bytes) (o n : Nat) : (slice b o n).length = n := by
  rw [slice_eq_map, List.length_map, List.length_range]

theorem getD_slice (b : Bytes) (o : Nat) {n i : Nat} (h : i < n) : (slice b o n).getD i 0 = b.getD (o + i) 0 := by
  rw [slice_eq_map, getD_map_range 0 _ h]

/-- An item of `n` rows of `w` items, laid end to end. -/
theorem getD_flatMap_rows {α : Type} (d : α) (g : Nat → Nat → α) (w : Nat) {n k : Nat} (h : k < n * w) :
    ((List.range n).flatMap fun l => (List.range w).map (g l)).getD k d = g (k / w) (k % w) := by
  have hlen : ∀ n, ((List.range n).flatMap fun l => (List.range w).map (g l)).length = n * w := fun n => by simp
  induction n with
  | zero => simp at h
  | succ n ih =>
    rw [List.range_succ, List.flatMap_append, List.flatMap_singleton]
    by_cases hk : k < n * w
    · rw [List.getD_append _ _ _ _ (by rwa [hlen]), ih hk]
    · have hw : k - n * w < w := by rw [Nat.succ_mul] at h; omega
      have hdiv : k / w = n := Nat.div_eq_of_lt_le (by omega) h
      have hmod : k % w = k - n * w := by rw [Nat.mod_eq_sub_div_mul, hdiv]
      rw [List.getD_append_right _ _ _ _ (by rw [hlen]; omega), hlen, getD_map_range d _ hw, hdiv, hmod]

theorem length_readLines (s : State) (img : Image) (c : Ctx) (st p cyc addr n : Nat) : (readLines s img c st p cyc addr n).length = 64 * n := by
  simp [readLines, vreadRun, Nat.mul_comm]

/-- A byte of lines as a step reads them: of line `k / 64`, at offset `k % 64`. -/
theorem getD_readLines (s : State) (img : Image) (c : Ctx) (st p cyc addr : Nat) {n k : Nat} (h : k < 64 * n) :
    (readLines s img c st p cyc addr n).getD k 0 = vread 0 s.pm.tile st cyc (lineKey p (residentLine img c p (addr + k / 64)) + k % 64) :=
  getD_flatMap_rows 0 (fun l i => vread 0 s.pm.tile st cyc (lineKey p (residentLine img c p (addr + l)) + i)) 64 (by omega)

/-! ### Where the arrays' slots and banks and the lines of a store lie (R14, R60, R133) -/

theorem size_pos (f : Fmt) : 0 < f.size := by cases f <;> decide

theorem size_le (f : Fmt) : f.size ≤ 8 := by cases f <;> decide

/-- The rows of a block's lines lie within the eight rows of a slot (R62). -/
theorem rows_le {f : Fmt} {l : Nat} (hl : l < blockLines f) : 8 / blockLines f * l + 8 / blockLines f ≤ 8 :=
  calc 8 / blockLines f * l + 8 / blockLines f
    _ = 8 / blockLines f * (l + 1) := (Nat.mul_succ _ _).symm
    _ ≤ 8 / blockLines f * blockLines f := Nat.mul_le_mul_left _ hl
    _ ≤ 8 := Nat.div_mul_le_self 8 _

theorem row_lt {f : Fmt} {l r : Nat} (hl : l < blockLines f) (hr : r < 8 / blockLines f) : 8 / blockLines f * l + r < 8 :=
  Nat.lt_of_lt_of_le (Nat.add_lt_add_left hr _) (rows_le hl)

/-- Distinct lines hold distinct rows of a slot. -/
theorem row_apart (w : Nat) {l m r : Nat} (h : l ≠ m) (hr : r < w) : ¬ (w * m ≤ w * l + r ∧ w * l + r < w * m + w) := by
  rintro ⟨h1, h2⟩
  rcases Nat.lt_or_gt_of_ne h with hlt | hlt
  · have := Nat.mul_le_mul_left w (Nat.succ_le_of_lt hlt)
    rw [Nat.mul_succ] at this
    omega
  · have := Nat.mul_le_mul_left w (Nat.succ_le_of_lt hlt)
    rw [Nat.mul_succ] at this
    omega

/-- The same bytes of the same slot of distinct arrays do not meet. -/
theorem slotKey_apart (p : Nat) {i j : Nat} (h : i ≠ j) (sideB : Bool) (f : Fmt) (slot : Nat) {k o n : Nat} (hk : k < 64 * f.size)
    (hn : o + n ≤ 64 * f.size) : ¬ (slotKey (arrayNo p j) sideB f slot + o ≤ slotKey (arrayNo p i) sideB f slot + k ∧
      slotKey (arrayNo p i) sideB f slot + k < slotKey (arrayNo p j) sideB f slot + o + n) := by
  have := size_le f
  simp only [slotKey, arrayNo]
  omega

/-- The valid bits of the same slot of distinct arrays do not meet. -/
theorem validKey_apart (p : Nat) {i j : Nat} (h : i ≠ j) (sideB : Bool) (f : Fmt) (slot : Nat) {k o n : Nat} (hk : k < 8) (hn : o + n ≤ 8) :
    ¬ (8 * markKey (arrayNo p j) sideB f slot + o ≤ 8 * markKey (arrayNo p i) sideB f slot + k ∧
      8 * markKey (arrayNo p i) sideB f slot + k < 8 * markKey (arrayNo p j) sideB f slot + o + n) := by
  simp only [markKey, arrayNo]
  omega

theorem markKey_ne (p : Nat) {i j : Nat} (h : i ≠ j) (sideB : Bool) (f : Fmt) (slot : Nat) :
    markKey (arrayNo p i) sideB f slot ≠ markKey (arrayNo p j) sideB f slot := by
  simp only [markKey, arrayNo]
  omega

/-- The same bank of distinct arrays does not meet. -/
theorem bankKey_apart (p : Nat) {i j : Nat} (h : i ≠ j) (bank : Nat) {e : Nat} (he : e < 64) :
    ¬ (bankKey (arrayNo p j) bank 0 0 ≤ bankKey (arrayNo p i) bank 0 0 + e ∧
      bankKey (arrayNo p i) bank 0 0 + e < bankKey (arrayNo p j) bank 0 0 + 64) := by
  simp only [bankKey, arrayNo]
  omega

theorem chainKey_ne (p : Nat) {i j : Nat} (h : i ≠ j) (bank : Nat) : 4 * arrayNo p i + bank ≠ 4 * arrayNo p j + bank := by
  simp only [arrayNo]
  omega

/-- Distinct lines of a tile store do not meet. -/
theorem lineKey_apart (p : Nat) {a b : Nat} (h : a ≠ b) {e : Nat} (he : e < 64) :
    ¬ (lineKey p b ≤ lineKey p a + e ∧ lineKey p a + e < lineKey p b + 64) := by
  simp only [lineKey]
  omega

/-! ### Selected arrays (R58) -/

theorem maskArrays_nodup (m : BitVec 64) : (maskArrays m).Nodup := List.nodup_range.filter _

/-- The array of rank `r`. -/
theorem getElem?_maskArrays (m : BitVec 64) {r : Nat} (h : r < (maskArrays m).length) :
    (maskArrays m)[r]? = some ((maskArrays m).getD r 0) := by
  rw [List.getD_eq_getElem _ _ h, List.getElem?_eq_getElem h]

/-- Arrays of distinct rank are distinct. -/
theorem ne_of_rank_ne {m : BitVec 64} {r j i k : Nat} (h : r ≠ j) (hr : (maskArrays m)[r]? = some i) (hj : (maskArrays m)[j]? = some k) :
    i ≠ k := by
  rintro rfl
  obtain ⟨hlen, -⟩ := List.getElem?_eq_some_iff.mp hr
  exact h ((List.getElem?_inj hlen (maskArrays_nodup m)).mp (hr.trans hj.symm))

end Sys2Proof.DieMemories


/-! PROOFS of the array family, the turn of a pier: an instruction that issues or waits, and what the pier's work after it may change. -/

namespace Sys2Proof.PierTurns

open Sys2Proof.Machine Sys2Proof.Safety Sys2Proof.Laws Sys2Proof.StationResults Sys2Proof.DieMemories

/-! ### Issuing and waiting -/

section Turns

variable {s t : State} {st p stall dry : Nat} {x y : Step} {img : Image} {c : Ctx} {u : UnitSt} {ins : PierIns}
  {run : State → Step → Image → Ctx → PierIns → Option (Option (State × Step))}

/-- On its turn, on time and with no array lagging, an instruction that may go issues, and the pier's work goes forward. -/
theorem pierTurn_issues (h : PierTurn s st p x img c u ins) (ht : OnTime img x u ins.cycle stall) (hl : u.overLag ins.cycle = false)
    (hr : run s (x.setUnit p (u.issued stall dry)) img c ins = some (some (t, y))) :
    pierTurn st p stall dry run s = .next (pierAdvance t img c y p) := by
  unfold pierTurn
  rw [nextIns_eq_some.mpr h]
  dsimp only
  rw [hr]
  dsimp only
  rw [hl, if_neg Bool.false_ne_true, issueOr_onTime p _ ht]

/-- On its turn an instruction that must wait leaves the pier waiting. -/
theorem pierTurn_waits (h : PierTurn s st p x img c u ins) (hr : run s (x.setUnit p (u.issued stall dry)) img c ins = some none) :
    pierTurn st p stall dry run s = .next (waitUnit s x p u stall dry) := by
  unfold pierTurn
  rw [nextIns_eq_some.mpr h]
  dsimp only
  rw [hr]

end Turns

theorem overLag_of_mmas_nil {u : UnitSt} (h : u.mmas = []) (cyc : Nat) : u.overLag cyc = false := by
  rw [UnitSt.overLag, h]
  rfl

/-! ### A pier's place in its list does not depend on its k-steps (R55, R161) -/

theorem leave_mmas (img : Image) (cs : List Nat) (u : UnitSt) (l : List MmaRun) :
    UnitSt.leave img cs { u with mmas := l } = { UnitSt.leave img cs u with mmas := l } := by
  unfold UnitSt.leave
  dsimp only
  split
  · split <;> rfl
  · rfl

theorem skipTails_mmas (img : Image) (cs : List Nat) (u : UnitSt) (l : List MmaRun) :
    UnitSt.skipTails img cs { u with mmas := l } = { UnitSt.skipTails img cs u with mmas := l } := by
  unfold UnitSt.skipTails
  refine List.foldl_hom (fun v : UnitSt => { v with mmas := l }) fun v q => ?_
  dsimp only
  generalize List.find? _ _ = g
  cases g <;> rfl

theorem enter_mmas (img : Image) (x : Step) (cs : List Nat) (u : UnitSt) (l : List MmaRun) :
    UnitSt.enter img x cs { u with mmas := l } = { UnitSt.enter img x cs u with mmas := l } := by
  unfold UnitSt.enter
  dsimp only
  split
  · split <;> rfl
  · rfl

theorem located_mmas (img : Image) (x : Step) (cs : List Nat) (u : UnitSt) (l : List MmaRun) :
    UnitSt.located img x cs { u with mmas := l } = { UnitSt.located img x cs u with mmas := l } := by
  unfold UnitSt.located
  split
  · rfl
  · rw [leave_mmas]
    dsimp only
    split
    · rfl
    · rw [skipTails_mmas, enter_mmas]

theorem located_setUnit (img : Image) (x : Step) (k : Nat) (v : UnitSt) (cs : List Nat) (u : UnitSt) :
    UnitSt.located img (x.setUnit k v) cs u = UnitSt.located img x cs u := rfl

/-- The cycle of the pier's next instruction is the same with other k-steps under way. -/
theorem nextCycle_mmas (img : Image) (x : Step) (p : Nat) (l : List MmaRun) :
    nextCycle img (x.setUnit p { x.unit p with mmas := l }) p = nextCycle img x p := by
  unfold nextCycle Image.unitAt
  rw [unit_setUnit, if_pos rfl, located_setUnit, located_mmas]

/-! ### What the k-steps of a pier may change (R67, R74) -/

/-- From `q` to `r` the k-steps of a pier changed banks and chains alone, and the unit keeps its place. -/
structure MmasRan (q r : State × UnitSt × List MmaRun × Nat) : Prop where
  state : r.1 = { q.1 with pm := { q.1.pm with bank := r.1.pm.bank, chain := r.1.pm.chain } }
  place : SamePlace q.2.1 r.2.1

theorem MmasRan.refl (q : State × UnitSt × List MmaRun × Nat) : MmasRan q q := ⟨rfl, .refl _⟩

theorem MmasRan.trans {q r w : State × UnitSt × List MmaRun × Nat} (h : MmasRan q r) (k : MmasRan r w) : MmasRan q w :=
  ⟨by rw [k.state, h.state], h.place.trans k.place⟩

theorem samePlace_raiseAll (u : UnitSt) (evs : List (Nat × EventAt × Nat)) : SamePlace u (u.raiseAll evs) :=
  samePlace_foldl _ (fun v _ => samePlace_raise v _ _ _) evs u

/-- One matrix instruction: either it stays with the k-steps it has fired, or its bank takes its new value. -/
theorem runMma_ran (st p : Nat) (whole : Bool) (lim : Option Nat) (q : State × UnitSt × List MmaRun × Nat) (m : MmaRun) :
    MmasRan q (runMma st p whole lim q m) := by
  unfold runMma
  split
  next s u left fired =>
  split
  · exact ⟨rfl, .refl u⟩
  · obtain ⟨hn, hl, he⟩ := samePlace_raiseAll u
      (MmaWork.go s st p whole lim (8 * m.kb - m.fired) { run := m, ramp := kget {} u.ramps m.array }).events
    dsimp only
    split
    · exact ⟨rfl, hn, hl, he⟩
    · exact ⟨rfl, hn, hl, he⟩

theorem foldl_runMma_ran (st p : Nat) (whole : Bool) (lim : Option Nat) (ms : List MmaRun) (q : State × UnitSt × List MmaRun × Nat) :
    MmasRan q (ms.foldl (runMma st p whole lim) q) := by
  induction ms generalizing q with
  | nil => exact .refl q
  | cons m ms ih => exact (runMma_ran st p whole lim q m).trans (ih _)

/-! ### The work of a pier after an instruction -/

/-- What has landed is delivered: the state, and the FILLs still open. -/
def delivered (s : State) (img : Image) (c : Ctx) (x : Step) (p : Nat) : State × List OpenFill :=
  (x.unit p).fills.foldl (deliverFill img c x p) (s, [])

theorem delivered_frame (s : State) (img : Image) (c : Ctx) (x : Step) (p : Nat) : Frame [.pm] s (delivered s img c x p).1 :=
  Frame.foldl_fst _ _ (fun q k => deliverFill_frame q img c x p k) (Frame.refl _ s)

/-- After the deliveries the k-steps run: the state, the unit, the k-steps still to fire and the cells that fired. -/
def fired (s : State) (img : Image) (c : Ctx) (x : Step) (p : Nat) : State × UnitSt × List MmaRun × Nat :=
  (x.unit p).mmas.foldl (runMma x.id p img.zeroSkip (nextCycle img x p))
    ((delivered s img c x p).1, { x.unit p with fills := (delivered s img c x p).2 }, [], 0)

theorem fired_frame (s : State) (img : Image) (c : Ctx) (x : Step) (p : Nat) : Frame [.pm] s (fired s img c x p).1 :=
  Frame.foldl_fst _ _ (fun q m => runMma_frame q x.id p img.zeroSkip (nextCycle img x p) m) (delivered_frame s img c x p)

/-- The step after the work of a pier. -/
def worked (s : State) (img : Image) (c : Ctx) (x : Step) (p : Nat) : Step :=
  { x.setUnit p { (fired s img c x p).2.1 with mmas := (fired s img c x p).2.2.1 } with
    activity := { x.activity with arrays := x.activity.arrays + (fired s img c x p).2.2.2 } }

theorem pierAdvance_eq (s : State) (img : Image) (c : Ctx) (x : Step) (p : Nat) :
    pierAdvance s img c x p = setStep (fired s img c x p).1 (worked s img c x p) := rfl

theorem unit_worked (s : State) (img : Image) (c : Ctx) (x : Step) (p k : Nat) :
    (worked s img c x p).unit k = if k = p then { (fired s img c x p).2.1 with mmas := (fired s img c x p).2.2.1 } else x.unit k :=
  unit_setUnit x p k _

theorem delivered_of_fills_nil {s : State} {img : Image} {c : Ctx} {x : Step} {p : Nat} (h : (x.unit p).fills = []) :
    delivered s img c x p = (s, []) := by
  rw [delivered, h]
  rfl

/-- With nothing under way a pier has no work. -/
theorem pierAdvance_idle {s : State} {img : Image} {c : Ctx} {x : Step} {p : Nat} (hm : (x.unit p).mmas = []) (hf : (x.unit p).fills = []) :
    pierAdvance s img c x p = setStep s (x.setUnit p (x.unit p)) := by
  have hd := delivered_of_fills_nil (s := s) (img := img) (c := c) hf
  have hr : fired s img c x p = (s, x.unit p, [], 0) := by
    rw [fired, hm, hd, List.foldl_nil]
    dsimp only
    rw [← hf]
  rw [pierAdvance_eq, worked, hr]
  dsimp only
  rw [← hm]
  rfl

/-- Of the dies, the k-steps after the deliveries change banks and chains alone. -/
theorem pierAdvance_pm (s : State) (img : Image) (c : Ctx) (x : Step) (p : Nat) :
    (pierAdvance s img c x p).pm =
      { (delivered s img c x p).1.pm with bank := (fired s img c x p).1.pm.bank, chain := (fired s img c x p).1.pm.chain } :=
  congrArg State.pm (foldl_runMma_ran _ _ _ _ _ _).state

/-- With nothing under way the dies stay as they are. -/
theorem pierAdvance_pm_of_idle {s : State} {img : Image} {c : Ctx} {x : Step} {p : Nat} (hm : (x.unit p).mmas = []) (hf : (x.unit p).fills = []) :
    (pierAdvance s img c x p).pm = s.pm := by
  rw [pierAdvance_idle hm hf]
  rfl

/-- With no k-steps under way the dies are as the deliveries leave them. -/
theorem pierAdvance_pm_of_mmas_nil {s : State} {img : Image} {c : Ctx} {x : Step} {p : Nat} (h : (x.unit p).mmas = []) :
    (pierAdvance s img c x p).pm = (delivered s img c x p).1.pm := by
  rw [pierAdvance_eq, setStep, fired, h]
  rfl

/-- One open FILL delivers what has landed for it. -/
theorem delivered_pm_of_fills_singleton {s : State} {img : Image} {c : Ctx} {x : Step} {p : Nat} {k : OpenFill} (h : (x.unit p).fills = [k]) :
    (delivered s img c x p).1.pm = (k.deliver s img c x p).1 := by
  rw [delivered, h]
  rfl

section Issue

variable {s s' : State} {st p stall dry : Nat} {x y : Step} {img : Image} {c : Ctx} {u : UnitSt}

/-- An instruction that leaves the unit at the place of its issue, and the other units alone, has issued. -/
theorem issued_of_samePlace {key : Nat} (hx : stepOf s st = some x) (hs : s'.steps = s.steps) (hy : y.id = st)
    (hp : SamePlace (u.issued stall dry) (y.unit key)) (hu : ∀ k, k ≠ key → y.unit k = x.unit k) :
    Issued s (setStep s' y) st key stall dry x u (settle s' y) := by
  have e : ∀ i, stepOf s' i = stepOf s i := fun i => by rw [stepOf, stepOf, hs]
  refine ⟨stepOf_setStep_self ((e st).trans hx) hy, ?_, ?_, ?_, fun k hk => ?_, fun i hi => ?_⟩
  · rw [settle_unit, hp.next]
    rfl
  · rw [settle_unit, hp.slip]
    rfl
  · rw [settle_unit, hp.entrance]
    rfl
  · rw [settle_unit, hu k hk]
  · rw [stepOf_setStep_of_ne s' fun h => hi (h.trans hy), e]

/-- The work of a pier after an instruction that has issued. -/
theorem pierAdvance_issued (hx : stepOf s st = some x) (hs : s'.steps = s.steps) (hy : y.id = st)
    (hp : SamePlace (u.issued stall dry) (y.unit p)) (hu : ∀ k, k ≠ p → y.unit k = x.unit k) :
    ∃ z, Issued s (pierAdvance s' img c y p) st p stall dry x u z ∧ (z.unit p).mmas = (fired s' img c y p).2.2.1 := by
  have hsteps : (fired s' img c y p).1.steps = s.steps := Eq.trans (fired_frame s' img c y p .steps (by decide)) hs
  rw [pierAdvance_eq]
  refine ⟨_, issued_of_samePlace hx hsteps hy ?_ fun k hk => ?_, ?_⟩
  · rw [unit_worked, if_pos rfl]
    obtain ⟨hn, hl, he⟩ := (foldl_runMma_ran y.id p img.zeroSkip (nextCycle img y p) (y.unit p).mmas
      ((delivered s' img c y p).1, { y.unit p with fills := (delivered s' img c y p).2 }, [], 0)).place
    exact hp.trans ⟨hn, hl, he⟩
  · rw [unit_worked, if_neg hk, hu k hk]
  · rw [settle_unit, unit_worked, if_pos rfl]

/-- With nothing else under way, an instruction that has changed the dies alone has issued, and the dies stay so. -/
theorem pierAdvance_issued_idle (img : Image) (c : Ctx) (hx : stepOf s st = some x) (hs : Frame [.pm] s s') (hy : y.id = st)
    (hp : y.unit p = u.issued stall dry) (hu : ∀ k, k ≠ p → y.unit k = x.unit k) (hm : u.mmas = []) (hf : u.fills = []) :
    ∃ z, Issued s (pierAdvance s' img c y p) st p stall dry x u z ∧ OnlyDies s (pierAdvance s' img c y p) ∧
      (pierAdvance s' img c y p).pm = s'.pm := by
  obtain ⟨z, hz, -⟩ := pierAdvance_issued (img := img) (c := c) hx (hs .steps (by decide)) hy (by rw [hp]; exact .refl _) hu
  exact ⟨z, hz, Frame.onlyDies ((pierAdvance_frame s' img c y p).after (by decide) (hs.mono (by decide))),
    pierAdvance_pm_of_idle (by rw [hp]; exact hm) (by rw [hp]; exact hf)⟩

end Issue

end Sys2Proof.PierTurns


/-! PROOFS of the array family, FLAG_CLEAR (O8): the statement fails for a station that holds an event of a pier. A station's FLAG_CLEAR
selects no array, and an event placed in an array is cleared only where its array is selected (R86, R144). No run puts such an event
into a station; the statement ranges over every state. -/

namespace Sys2Proof.FlagClears

open Sys2Proof.Machine Sys2Proof.Safety

/-- A FLAG_CLEAR of a vector station, of nominal cycle 9 and without RECORD. -/
def clearIns : VecIns := ⟨0x3F, false, false, 0, 0, 0, 0, 9, 0⟩

/-- An image whose vector station 1 has this one instruction. -/
def clearImg : Image := { vectors := [(1, [clearIns])] }

/-- The context of the image. -/
def clearCtx : Ctx := { images := [(0, clearImg)] }

/-- Vector station 1 at the head of its list, with an event of nominal cycle 0 that is placed in array 0 of a pier. -/
def misplacedUnit : UnitSt := { events := [⟨0, .pier false 0 0 0 0 0, 1, true, true⟩] }

/-- The step of the station. -/
def misplacedStep : Step := { state := .running, units := [(2001, misplacedUnit)] }

/-- A module that runs the step. -/
def misplacedState : State := { ctxs := [(0, clearCtx)], steps := [misplacedStep] }

theorem misplaced_turn : VectorTurn misplacedState 0 1 misplacedStep clearImg clearCtx misplacedUnit clearIns :=
  ⟨rfl, rfl, rfl, rfl, rfl, rfl, by decide, .inr rfl⟩

/-- The FLAG_CLEAR leaves the station's sticky flags as they were. -/
theorem misplaced_sticky_stays {t : State} {y : Step} (h : exec (.vectorFlagClear 0 1 0) misplacedState = .next t) (hy : stepOf t 0 = some y) :
    stickyOf (y.unit 2001) = 1 := by
  cases h
  cases hy
  decide

/-- Refutes O8: the event of cycle 0 keeps its flag through a station's FLAG_CLEAR of cycle 9, since it is placed in an array and the
FLAG_CLEAR of a station selects none; the statement says that the flag is cleared. -/
theorem not_flagClearSparesLaterEvents : ¬ Obligations.FlagClearSparesLaterEvents := by
  rintro ⟨-, hstation, -⟩
  obtain ⟨t, y, ht, ⟨hy, -⟩, -, -, hcleared, -⟩ := hstation misplacedState 0 1 0 misplacedStep clearImg clearCtx misplacedUnit clearIns 2001
    (.vectorFlagClear 0 1 0) (.inl ⟨misplaced_turn, rfl, rfl⟩) rfl rfl
  rw [misplaced_sticky_stays ht hy] at hcleared
  exact absurd hcleared (by decide)

end Sys2Proof.FlagClears


/-! PROOFS of the array family, what FILL, BANK_WRITE and DRAIN write (O6, O7): a rule for each write of one slot, line or bank, and
the memories after the writes of a whole instruction. -/

namespace Sys2Proof.LineWrites

open Sys2Proof.Machine Sys2Proof.Safety Sys2Proof.Laws Sys2Proof.StationResults Sys2Proof.DieMemories Sys2Proof.PierTurns

/-! ### A line that reaches a slot (R62) -/

section SlotLine

variable (pm : PierMem) (st cyc a : Nat) (sideB : Bool) (f : Fmt) (slot l : Nat) {b : Bytes}

theorem writeSlotLine_feeder_own (hb : b.length = 64) {e : Nat} (he : e < 64) :
    vread 0 (writeSlotLine pm st cyc a sideB f slot l b).feeder st (cyc + 1) (slotKey a sideB f slot + 64 * l + e) = b.getD e 0 :=
  vread_vwriteRun_next 0 b pm.feeder st cyc _ (by rwa [hb])

theorem writeSlotLine_feeder_unseen (hb : b.length = 64) (st' cyc' k : Nat)
    (h : ¬ (slotKey a sideB f slot + 64 * l ≤ k ∧ k < slotKey a sideB f slot + 64 * l + 64)) :
    vread 0 (writeSlotLine pm st cyc a sideB f slot l b).feeder st' cyc' k = vread 0 pm.feeder st' cyc' k :=
  vread_vwriteRun_of_outside 0 b pm.feeder st cyc _ st' cyc' k (by rwa [hb])

theorem writeSlotLine_valid_own (b : Bytes) {r : Nat} (hr : r < 8 / blockLines f) :
    vread false (writeSlotLine pm st cyc a sideB f slot l b).valid st (cyc + 1)
      (8 * markKey a sideB f slot + 8 / blockLines f * l + r) = true :=
  (vread_vwriteRun_next false _ pm.valid st cyc _ (by rwa [List.length_replicate])).trans (List.getD_replicate _ hr)

theorem writeSlotLine_valid_unseen (b : Bytes) (st' cyc' k : Nat)
    (h : ¬ (8 * markKey a sideB f slot + 8 / blockLines f * l ≤ k ∧
      k < 8 * markKey a sideB f slot + 8 / blockLines f * l + 8 / blockLines f)) :
    vread false (writeSlotLine pm st cyc a sideB f slot l b).valid st' cyc' k = vread false pm.valid st' cyc' k :=
  vread_vwriteRun_of_outside false _ pm.valid st cyc _ st' cyc' k (by rwa [List.length_replicate])

/-- A slot that a FILL opens has no valid row. -/
theorem openSlot_valid_own (mark : Nat) {r : Nat} (hr : r < 8) :
    vread false (openSlot pm st cyc a sideB f slot mark).valid st (cyc + 1) (8 * markKey a sideB f slot + r) = false :=
  (vread_vwriteRun_next false _ pm.valid st cyc _ (by rwa [List.length_replicate])).trans (List.getD_replicate _ hr)

theorem openSlot_valid_unseen (mark st' cyc' k : Nat) (h : ¬ (8 * markKey a sideB f slot ≤ k ∧ k < 8 * markKey a sideB f slot + 8)) :
    vread false (openSlot pm st cyc a sideB f slot mark).valid st' cyc' k = vread false pm.valid st' cyc' k :=
  vread_vwriteRun_of_outside false _ pm.valid st cyc _ st' cyc' k (by rwa [List.length_replicate])

end SlotLine

/-! ### The lines of a FILL (R58, R62, R64) -/

section Fill

variable {s : State} {img : Image} {c : Ctx} {x : Step} {p : Nat} {k : OpenFill}

/-- The lines of a FILL that have landed. -/
def landedLines (img : Image) (x : Step) (p : Nat) (k : OpenFill) : List Nat :=
  k.wait.filter fun l => !awaitsLine img x p (k.addr + l) k.cycle

/-- Line `l` of a FILL comes into the slot of array `i`. -/
def fillLine (s : State) (img : Image) (c : Ctx) (x : Step) (p : Nat) (k : OpenFill) (i : Nat) (pm : PierMem) (l : Nat) : PierMem :=
  writeSlotLine pm x.id k.cycle (arrayNo p i) k.sideB k.fmt k.slot l (readLines s img c x.id p k.cycle (k.addr + l) 1)

/-- The memories once the lines that have landed stand in the slots of all selected arrays. -/
def fillLines (s : State) (img : Image) (c : Ctx) (x : Step) (p : Nat) (k : OpenFill) (pm : PierMem) : PierMem :=
  k.arrays.foldl (fun pm i => (landedLines img x p k).foldl (fillLine s img c x p k i) pm) pm

theorem mem_landedLines {l : Nat} : l ∈ landedLines img x p k ↔ l ∈ k.wait ∧ awaitsLine img x p (k.addr + l) k.cycle = false := by
  rw [landedLines, List.mem_filter, Bool.not_eq_true']

/-- Marks given to slots change no other memory. -/
theorem foldl_skip_eq (g : Nat → Nat) (st cyc mark : Nat) (l : List Nat) (pm : PierMem) :
    l.foldl (fun pm i => { pm with skip := vwrite pm.skip st cyc (g i) mark }) pm =
      { pm with skip := l.foldl (fun v i => vwrite v st cyc (g i) mark) pm.skip } := by
  induction l generalizing pm with
  | nil => rfl
  | cons i l ih => rw [List.foldl_cons, ih, List.foldl_cons]

/-- What a FILL delivers: the landed lines to every array, and with the last of them the marks. -/
theorem deliver_fst (s : State) (img : Image) (c : Ctx) (x : Step) (p : Nat) (k : OpenFill) :
    (k.deliver s img c x p).1 = { fillLines s img c x p k s.pm with skip := (k.deliver s img c x p).1.skip } := by
  unfold OpenFill.deliver
  dsimp only
  split
  · rw [foldl_skip_eq]
    rfl
  · rfl

/-- Once every line has landed each slot has its mark. -/
theorem deliver_skip (hw : k.wait ≠ []) (h : ∀ l ∈ k.wait, awaitsLine img x p (k.addr + l) k.cycle = false) {i : Nat} (hi : i ∈ k.arrays) :
    vread 0 (k.deliver s img c x p).1.skip x.id (k.cycle + 1) (markKey (arrayNo p i) k.sideB k.fmt k.slot) =
      fillMark s img c x.id p k.cycle k.addr (blockLines k.fmt) := by
  have hleft : (k.wait.filter fun l => awaitsLine img x p (k.addr + l) k.cycle) = [] :=
    List.filter_eq_nil_iff.mpr fun l hl => by rw [h l hl]; exact Bool.false_ne_true
  have hhere : (k.wait.filter fun l => !awaitsLine img x p (k.addr + l) k.cycle) = k.wait :=
    List.filter_eq_self.mpr fun l hl => by rw [h l hl]; rfl
  unfold OpenFill.deliver
  dsimp only
  rw [hleft, hhere, if_pos ⟨rfl, hw⟩]
  refine read_foldl_of_mem (fun pm : PierMem => vread 0 pm.skip x.id (k.cycle + 1) (markKey (arrayNo p i) k.sideB k.fmt k.slot)) _ hi _
    (fun pm => vread_vwrite_next 0 _ _ _ _ _) fun j _ hj pm => vread_vwrite_of_ne 0 _ _ _ _ _ _ _ _ (.inr (markKey_ne p hj.symm _ _ _))

/-- The lines of a FILL change feeders and valid bits alone. -/
theorem fillLines_eq (pm : PierMem) : ∃ fe va, fillLines s img c x p k pm = { pm with feeder := fe, valid := va } :=
  List.foldlRecOn (motive := fun q => ∃ fe va, q = { pm with feeder := fe, valid := va }) _ _ ⟨_, _, rfl⟩ fun _ hq _ _ =>
    List.foldlRecOn (motive := fun q => ∃ fe va, q = { pm with feeder := fe, valid := va }) _ _ hq fun _ ⟨_, _, hq⟩ _ _ =>
      ⟨_, _, by rw [hq]; rfl⟩

section Reads

variable {γ : Type} (rd : PierMem → γ) {i l : Nat}

/-- A reading that one line of one array sets and no other write of the FILL is seen by. -/
theorem read_fillLines_own {val : γ} (hi : i ∈ k.arrays) (hl : l ∈ landedLines img x p k) (pm : PierMem)
    (hset : ∀ pm, rd (fillLine s img c x p k i pm l) = val)
    (hline : ∀ m ∈ landedLines img x p k, m ≠ l → ∀ pm, rd (fillLine s img c x p k i pm m) = rd pm)
    (harray : ∀ j ∈ k.arrays, j ≠ i → ∀ m ∈ landedLines img x p k, ∀ pm, rd (fillLine s img c x p k j pm m) = rd pm) :
    rd (fillLines s img c x p k pm) = val :=
  read_foldl_of_mem rd _ hi pm (fun pm => read_foldl_of_mem rd _ hl pm hset hline) fun j hj hji pm =>
    read_foldl_of_unseen rd _ _ pm (harray j hj hji)

/-- A reading that no line of the FILL is seen by. -/
theorem read_fillLines_unseen (pm : PierMem)
    (h : ∀ j ∈ k.arrays, ∀ m ∈ landedLines img x p k, ∀ pm, rd (fillLine s img c x p k j pm m) = rd pm) :
    rd (fillLines s img c x p k pm) = rd pm :=
  read_foldl_of_unseen rd _ _ pm fun j hj pm => read_foldl_of_unseen rd _ _ pm (h j hj)

end Reads

variable {i l : Nat} (hwait : ∀ m ∈ k.wait, m < blockLines k.fmt)

include hwait

theorem lt_of_mem_landedLines {m : Nat} (h : m ∈ landedLines img x p k) : m < blockLines k.fmt := hwait m (mem_landedLines.mp h).1

/-- A line that has landed is in the slot of every selected array. -/
theorem fillLines_feeder (hi : i ∈ k.arrays) (hl : l ∈ landedLines img x p k) {b : Nat} (hb : b < 64) (pm : PierMem) :
    vread 0 (fillLines s img c x p k pm).feeder x.id (k.cycle + 1) (slotKey (arrayNo p i) k.sideB k.fmt k.slot + 64 * l + b) =
      vread 0 s.pm.tile x.id k.cycle (lineKey p (residentLine img c p (k.addr + l)) + b) := by
  have hlt : l < k.fmt.size := lt_of_mem_landedLines hwait hl
  refine read_fillLines_own (fun pm : PierMem => vread 0 pm.feeder x.id (k.cycle + 1) _) hi hl pm (fun pm => ?own)
    (fun m _ hm pm => ?line) fun j _ hj m hm pm => ?array
  case own =>
    refine (writeSlotLine_feeder_own _ _ _ _ _ _ _ _ (length_readLines ..) hb).trans ?_
    rw [getD_readLines _ _ _ _ _ _ _ hb, Nat.div_eq_of_lt hb, Nat.mod_eq_of_lt hb, Nat.add_zero]
  case line => exact writeSlotLine_feeder_unseen _ _ _ _ _ _ _ _ (length_readLines ..) _ _ _ (by omega)
  case array =>
    have hmlt : m < k.fmt.size := lt_of_mem_landedLines hwait hm
    have hapart := slotKey_apart p hj.symm k.sideB k.fmt k.slot (k := 64 * l + b) (o := 64 * m) (n := 64) (by omega) (by omega)
    exact writeSlotLine_feeder_unseen _ _ _ _ _ _ _ _ (length_readLines ..) _ _ _ (by omega)

/-- Bytes of no selected slot keep their values. -/
theorem fillLines_feeder_unseen (pm : PierMem) (st' cyc' a : Nat)
    (h : ∀ i ∈ k.arrays, ¬ (slotKey (arrayNo p i) k.sideB k.fmt k.slot ≤ a ∧
      a < slotKey (arrayNo p i) k.sideB k.fmt k.slot + 64 * k.fmt.size)) :
    vread 0 (fillLines s img c x p k pm).feeder st' cyc' a = vread 0 pm.feeder st' cyc' a := by
  refine read_fillLines_unseen (fun pm : PierMem => vread 0 pm.feeder st' cyc' a) pm fun j hj m hm pm => ?_
  have hmlt : m < k.fmt.size := lt_of_mem_landedLines hwait hm
  have hj := h j hj
  exact writeSlotLine_feeder_unseen _ _ _ _ _ _ _ _ (length_readLines ..) _ _ _ (by omega)

/-- The rows of a line that has landed are valid. -/
theorem fillLines_valid (hi : i ∈ k.arrays) (hl : l ∈ landedLines img x p k) {r : Nat} (hr : r < 8 / blockLines k.fmt) (pm : PierMem) :
    vread false (fillLines s img c x p k pm).valid x.id (k.cycle + 1)
      (8 * markKey (arrayNo p i) k.sideB k.fmt k.slot + 8 / blockLines k.fmt * l + r) = true := by
  refine read_fillLines_own (fun pm : PierMem => vread false pm.valid x.id (k.cycle + 1) _) hi hl pm
    (fun pm => writeSlotLine_valid_own _ _ _ _ _ _ _ _ _ hr) (fun m _ hm pm => ?line) fun j _ hj m hm pm => ?array
  case line =>
    have hapart := row_apart (8 / blockLines k.fmt) hm.symm hr
    exact writeSlotLine_valid_unseen _ _ _ _ _ _ _ _ _ _ _ _ (by omega)
  case array =>
    have hrow := row_lt (lt_of_mem_landedLines hwait hl) hr
    have hend := rows_le (lt_of_mem_landedLines hwait hm)
    have hapart := validKey_apart p hj.symm k.sideB k.fmt k.slot hrow hend
    exact writeSlotLine_valid_unseen _ _ _ _ _ _ _ _ _ _ _ _ (by omega)

/-- The rows of a line still on its way stay as they are. -/
theorem fillLines_valid_of_not_landed (hl : l < blockLines k.fmt) (hn : l ∉ landedLines img x p k) {r : Nat} (hr : r < 8 / blockLines k.fmt)
    (pm : PierMem) :
    vread false (fillLines s img c x p k pm).valid x.id (k.cycle + 1)
        (8 * markKey (arrayNo p i) k.sideB k.fmt k.slot + 8 / blockLines k.fmt * l + r) =
      vread false pm.valid x.id (k.cycle + 1) (8 * markKey (arrayNo p i) k.sideB k.fmt k.slot + 8 / blockLines k.fmt * l + r) := by
  refine read_fillLines_unseen (fun pm : PierMem => vread false pm.valid x.id (k.cycle + 1) _) pm fun j _ m hm pm => ?_
  refine writeSlotLine_valid_unseen _ _ _ _ _ _ _ _ _ _ _ _ ?_
  by_cases hj : i = j
  · subst hj
    have hapart := row_apart (8 / blockLines k.fmt) (ne_of_mem_of_not_mem hm hn).symm hr
    omega
  · have hrow := row_lt hl hr
    have hend := rows_le (lt_of_mem_landedLines hwait hm)
    have hapart := validKey_apart p hj k.sideB k.fmt k.slot hrow hend
    omega

end Fill

/-! ### Whole lines of a tile store (R80, R100) -/

/-- Writes `n` lines of a pier's tile store from line `addr` on, each where it is resident, with their zero tags. -/
def putLines (pm : PierMem) (img : Image) (c : Ctx) (st cyc p : Nat) (f : Fmt) (addr n : Nat) (b : Bytes) : PierMem :=
  (List.range n).foldl (fun pm l =>
    { pm with tile := vwriteRun pm.tile st cyc (lineKey p (residentLine img c p (addr + l))) (slice b (64 * l) 64)
              zero := vwrite pm.zero st cyc (4096 * p + residentLine img c p (addr + l)) (allZero f (slice b (64 * l) 64)) }) pm

theorem writeLines_eq_putLines (pm : PierMem) (img : Image) (c : Ctx) (st cyc p : Nat) (f : Fmt) (addr : Nat) (b : Bytes) :
    writeLines pm img c st cyc p f addr b = putLines pm img c st cyc p f addr (b.length / 64) b := rfl

theorem landBlock_eq_putLines (pm : PierMem) (img : Image) (c : Ctx) (x : Step) (w : Inbound) (d : Desc) (j : Nat) (b : Bytes) :
    landBlock pm img c x w d j b =
      putLines pm img c x.id w.cycle w.pier d.fmt (w.line + moveLine img d w.first j) (blockLines d.fmt) b := rfl

section Lines

variable (pm : PierMem) (img : Image) (c : Ctx) (st cyc p : Nat) (f : Fmt) (addr : Nat) {n : Nat} (b : Bytes)

/-- Lines written change tile stores and zero tags alone. -/
theorem putLines_eq (n : Nat) : ∃ ti ze, putLines pm img c st cyc p f addr n b = { pm with tile := ti, zero := ze } :=
  List.foldlRecOn (motive := fun q => ∃ ti ze, q = { pm with tile := ti, zero := ze }) _ _ ⟨_, _, rfl⟩ fun _ ⟨_, _, hq⟩ _ _ =>
    ⟨_, _, by rw [hq]⟩

/-- A line reads back, where no later one of the same writes is resident in the same place. -/
theorem putLines_tile_own {l : Nat} (hl : l < n)
    (hlast : ∀ m, l < m → m < n → residentLine img c p (addr + m) ≠ residentLine img c p (addr + l)) {e : Nat} (he : e < 64) :
    vread 0 (putLines pm img c st cyc p f addr n b).tile st (cyc + 1) (lineKey p (residentLine img c p (addr + l)) + e) =
      b.getD (64 * l + e) 0 := by
  refine read_foldl_of_last (fun pm : PierMem => vread 0 pm.tile st (cyc + 1) _) _ (List.getElem?_range hl) pm (fun pm => ?own)
    fun j m hj hm pm => ?later
  case own =>
    exact (vread_vwriteRun_next 0 _ _ _ _ _ (by rwa [length_slice])).trans (getD_slice b _ he)
  case later =>
    obtain ⟨hjn, rfl⟩ := List.getElem?_eq_some_iff.mp hm
    rw [List.getElem_range]
    rw [List.length_range] at hjn
    exact vread_vwriteRun_of_outside 0 _ _ _ _ _ _ _ _ (by rw [length_slice]; exact lineKey_apart p (hlast j hj hjn).symm he)

/-- Bytes of no written line keep their values. -/
theorem putLines_tile_unseen (st' cyc' k : Nat) (h : ∀ m < n, ¬ (lineKey p (residentLine img c p (addr + m)) ≤ k ∧
      k < lineKey p (residentLine img c p (addr + m)) + 64)) :
    vread 0 (putLines pm img c st cyc p f addr n b).tile st' cyc' k = vread 0 pm.tile st' cyc' k :=
  read_foldl_of_unseen (fun pm : PierMem => vread 0 pm.tile st' cyc' k) _ _ pm fun m hm pm =>
    vread_vwriteRun_of_outside 0 _ _ _ _ _ _ _ _ (by rw [length_slice]; exact h m (List.mem_range.mp hm))

end Lines

end Sys2Proof.LineWrites


/-! PROOFS of the array family, FILL and BANK_WRITE (O6). -/

namespace Sys2Proof.FillAndBankWrite

open Sys2Proof.Machine Sys2Proof.Safety Sys2Proof.Laws Sys2Proof.StationResults Sys2Proof.DieMemories Sys2Proof.PierTurns
  Sys2Proof.LineWrites

/-! ### A FILL as it issues -/

/-- From `s` and `x` to `s₁` and `y` pier `p` issued the FILL `k` from its place `u`: its slots are open, and no line has come. -/
structure FillOpened (s : State) (x : Step) (u : UnitSt) (p stall dry : Nat) (k : OpenFill) (s₁ : State) (y : Step) : Prop where
  id : y.id = x.id
  inbound : y.inbound = x.inbound
  unit : y.unit p = { u.issued stall dry with fills := [k] }
  others : ∀ j, j ≠ p → y.unit j = x.unit j
  frame : Frame [.pm] s s₁
  dies : s₁.pm = { s.pm with skip := s₁.pm.skip, valid := s₁.pm.valid }
  invalid : ∀ i ∈ k.arrays, ∀ r < 8, vread false s₁.pm.valid x.id (k.cycle + 1) (8 * markKey (arrayNo p i) k.sideB k.fmt k.slot + r) = false

/-- The FILL of an instruction: every line is still to come. -/
def newFill (cyc : Nat) (mask : BitVec 64) (sideB : Bool) (f : Fmt) (slot addr : Nat) : OpenFill :=
  ⟨cyc, maskArrays mask, sideB, f, slot, addr, List.range (blockLines f)⟩

theorem foldl_openSlot_eq (st cyc p : Nat) (sideB : Bool) (f : Fmt) (slot mark : Nat) (is : List Nat) (pm : PierMem) :
    ∃ m v, is.foldl (fun pm i => openSlot pm st cyc (arrayNo p i) sideB f slot mark) pm = { pm with skip := m, valid := v } := by
  induction is generalizing pm with
  | nil => exact ⟨_, _, rfl⟩
  | cons i is ih => exact ih _

section Fill

variable {s : State} {st p stall dry : Nat} {x : Step} {img : Image} {c : Ctx} {u : UnitSt} {ins : PierIns} {sideB : Bool} {f : Fmt}
  {slot addr : Nat}

theorem issueFill_opened (cyc : Nat) (mask : BitVec 64) (hf : u.fills = []) :
    FillOpened s x u p stall dry (newFill cyc mask sideB f slot addr)
      (issueFill s img (x.setUnit p (u.issued stall dry)) p cyc mask sideB f slot addr).1
      (issueFill s img (x.setUnit p (u.issued stall dry)) p cyc mask sideB f slot addr).2 where
  id := rfl
  inbound := rfl
  unit := by
    refine (unit_setUnit _ p p _).trans ?_
    rw [if_pos rfl, unit_setUnit, if_pos rfl, show (u.issued stall dry).fills = [] from hf]
    rfl
  others k hk := by
    refine (unit_setUnit _ p k _).trans ?_
    rw [if_neg hk, unit_setUnit, if_neg hk]
  frame := issueFill_frame s img (x.setUnit p (u.issued stall dry)) p cyc mask sideB f slot addr
  dies := by
    obtain ⟨m, v, h⟩ := foldl_openSlot_eq x.id cyc p sideB f slot
      (if (List.range (blockLines f)).all fun l => nullLine img p (addr + l) then 2 else 0) (maskArrays mask) s.pm
    have hpm : (issueFill s img (x.setUnit p (u.issued stall dry)) p cyc mask sideB f slot addr).1.pm = { s.pm with skip := m, valid := v } := h
    rw [hpm]
  invalid i hi r hr := by
    refine read_foldl_of_mem (fun pm : PierMem => vread false pm.valid x.id (cyc + 1) (8 * markKey (arrayNo p i) sideB f slot + r)) _ hi s.pm
      (fun pm => openSlot_valid_own _ _ _ _ _ _ _ _ hr) fun j _ hj pm => ?_
    have hapart := validKey_apart p hj.symm sideB f slot (o := 0) (n := 8) hr (by omega)
    exact openSlot_valid_unseen _ _ _ _ _ _ _ _ _ _ _ (by omega)

/-- On its turn, on time and with no array lagging, FILL opens its slots and the pier's work goes forward. -/
theorem execFill_onTurn (h : PierTurn s st p x img c u ins) (hop : ins.op = .fill sideB f slot addr) (ht : OnTime img x u ins.cycle stall)
    (hl : u.overLag ins.cycle = false) (hf : u.fills = []) :
    ∃ s₁ y, execFill st p stall dry s = .next (pierAdvance s₁ img c y p) ∧
      FillOpened s x u p stall dry (newFill ins.cycle ins.mask sideB f slot addr) s₁ y :=
  ⟨_, _, pierTurn_issues h ht hl (by simp only [hop]; rfl), issueFill_opened ins.cycle ins.mask hf⟩

end Fill

/-! ### What a FILL leaves -/

section Opened

variable {s s₁ : State} {x y : Step} {u : UnitSt} {p stall dry : Nat} {k : OpenFill} {img : Image} {c : Ctx}

theorem awaitsLine_of_inbound (h : y.inbound = x.inbound) (img : Image) (p l cyc : Nat) : awaitsLine img y p l cyc = awaitsLine img x p l cyc := by
  unfold awaitsLine
  rw [h]

variable (h : FillOpened s x u p stall dry k s₁ y)

include h

theorem FillOpened.pm : (pierAdvance s₁ img c y p).pm =
    { fillLines s₁ img c y p k s₁.pm with
        skip := (k.deliver s₁ img c y p).1.skip
        bank := (fired s₁ img c y p).1.pm.bank
        chain := (fired s₁ img c y p).1.pm.chain } := by
  have hf : (y.unit p).fills = [k] := by rw [h.unit]
  rw [pierAdvance_pm, delivered_pm_of_fills_singleton hf, deliver_fst]

theorem FillOpened.landed (l : Nat) : l ∈ landedLines img y p k ↔ l ∈ k.wait ∧ awaitsLine img x p (k.addr + l) k.cycle = false := by
  rw [mem_landedLines, awaitsLine_of_inbound h.inbound]

/-- Of the dies nothing but feeders, with their valid bits and marks, and banks, with their chains, differ. -/
theorem FillOpened.dies_after : ∃ fe va sk ba ch, (pierAdvance s₁ img c y p).pm =
    { s.pm with feeder := fe, valid := va, skip := sk, bank := ba, chain := ch } := by
  obtain ⟨fe, va, hl⟩ := fillLines_eq (s := s₁) (img := img) (c := c) (x := y) (p := p) (k := k) s₁.pm
  rw [h.pm, hl, h.dies]
  exact ⟨_, _, _, _, _, rfl⟩

theorem FillOpened.stores_after : (pierAdvance s₁ img c y p).pm.tile = s.pm.tile ∧ (pierAdvance s₁ img c y p).pm.zero = s.pm.zero ∧
    (pierAdvance s₁ img c y p).pm.loc = s.pm.loc := by
  obtain ⟨fe, va, sk, ba, ch, hpm⟩ := h.dies_after (img := img) (c := c)
  rw [hpm]
  exact ⟨rfl, rfl, rfl⟩

theorem FillOpened.banks_after (hm : u.mmas = []) :
    (pierAdvance s₁ img c y p).pm.bank = s.pm.bank ∧ (pierAdvance s₁ img c y p).pm.chain = s.pm.chain := by
  have hf : (y.unit p).fills = [k] := by rw [h.unit]
  have hu : (y.unit p).mmas = [] := by rw [h.unit]; exact hm
  obtain ⟨fe, va, hl⟩ := fillLines_eq (s := s₁) (img := img) (c := c) (x := y) (p := p) (k := k) s₁.pm
  rw [pierAdvance_pm_of_mmas_nil hu, delivered_pm_of_fills_singleton hf, deliver_fst, hl, h.dies]
  exact ⟨rfl, rfl⟩

section Reads

variable (hwait : ∀ m ∈ k.wait, m < blockLines k.fmt) {i l : Nat} (hi : i ∈ k.arrays)

include hwait hi

/-- The rows of a line that has landed are valid and hold its bytes. -/
theorem FillOpened.landed_after (hl : l ∈ k.wait) (ha : awaitsLine img x p (k.addr + l) k.cycle = false) :
    (∀ b < 64, vread 0 (pierAdvance s₁ img c y p).pm.feeder x.id (k.cycle + 1) (slotKey (arrayNo p i) k.sideB k.fmt k.slot + 64 * l + b) =
      vread 0 s.pm.tile x.id k.cycle (lineKey p (residentLine img c p (k.addr + l)) + b)) ∧
    ∀ r < 8 / blockLines k.fmt, vread false (pierAdvance s₁ img c y p).pm.valid x.id (k.cycle + 1)
      (8 * markKey (arrayNo p i) k.sideB k.fmt k.slot + 8 / blockLines k.fmt * l + r) = true := by
  have hmem := (h.landed (img := img) l).mpr ⟨hl, ha⟩
  have htile : s₁.pm.tile = s.pm.tile := (congrArg PierMem.tile h.dies :)
  rw [h.pm, ← h.id, ← htile]
  exact ⟨fun b hb => fillLines_feeder hwait hi hmem hb s₁.pm, fun r hr => fillLines_valid hwait hi hmem hr s₁.pm⟩

/-- The rows of a line still on its way are invalid. -/
theorem FillOpened.awaited_after (hl : l < blockLines k.fmt) (ha : awaitsLine img x p (k.addr + l) k.cycle = true) {r : Nat}
    (hr : r < 8 / blockLines k.fmt) : vread false (pierAdvance s₁ img c y p).pm.valid x.id (k.cycle + 1)
      (8 * markKey (arrayNo p i) k.sideB k.fmt k.slot + 8 / blockLines k.fmt * l + r) = false := by
  have hmem : l ∉ landedLines img y p k := fun hm => by
    rw [((h.landed l).mp hm).2] at ha
    cases ha
  have hopen := h.invalid i hi _ (row_lt hl hr)
  rw [← Nat.add_assoc, ← h.id] at hopen
  rw [h.pm, ← h.id]
  exact (fillLines_valid_of_not_landed hwait hl hmem hr s₁.pm).trans hopen

end Reads

/-- With the last line every slot has its mark. -/
theorem FillOpened.mark_after {i : Nat} (hi : i ∈ k.arrays) (hw : k.wait ≠ []) (ha : ∀ l ∈ k.wait, awaitsLine img x p (k.addr + l) k.cycle = false) :
    slotMark (pierAdvance s₁ img c y p) x.id (arrayNo p i) k.sideB k.fmt k.slot (k.cycle + 1) =
      fillMark s img c x.id p k.cycle k.addr (blockLines k.fmt) := by
  have hzero : s₁.pm.zero = s.pm.zero := (congrArg PierMem.zero h.dies :)
  have hmark : fillMark s₁ img c x.id p k.cycle k.addr (blockLines k.fmt) = fillMark s img c x.id p k.cycle k.addr (blockLines k.fmt) := by
    unfold fillMark
    rw [hzero]
  rw [slotMark, h.pm, ← hmark, ← h.id]
  exact deliver_skip hw (fun l hl => (awaitsLine_of_inbound h.inbound img p _ _).trans (ha l hl)) hi

/-- Bytes of no selected slot keep their values. -/
theorem FillOpened.feeder_unseen (hwait : ∀ m ∈ k.wait, m < blockLines k.fmt) (st' cyc' a : Nat)
    (ha : ∀ i ∈ k.arrays, ¬ (slotKey (arrayNo p i) k.sideB k.fmt k.slot ≤ a ∧
      a < slotKey (arrayNo p i) k.sideB k.fmt k.slot + 64 * k.fmt.size)) :
    vread 0 (pierAdvance s₁ img c y p).pm.feeder st' cyc' a = vread 0 s.pm.feeder st' cyc' a := by
  have hfeeder : s₁.pm.feeder = s.pm.feeder := (congrArg PierMem.feeder h.dies :)
  rw [h.pm, ← hfeeder]
  exact fillLines_feeder_unseen hwait s₁.pm st' cyc' a ha

end Opened

/-! ### BANK_WRITE (R68) -/

section BankWrite

variable {s : State} {st p stall dry : Nat} {x : Step} {img : Image} {c : Ctx} {u : UnitSt} {ins : PierIns} {bank addr : Nat}

/-- The FP32 block of rank `r`, four lines from ADDR + 4r on. -/
def bankBlock (s : State) (img : Image) (c : Ctx) (st p cyc addr r : Nat) : List (BitVec 32) :=
  (List.range 64).map fun e => BitVec.ofNat 32 (leAt (readLines s img c st p cyc (addr + 4 * r) 4) (4 * e) 4)

theorem length_bankBlock (s : State) (img : Image) (c : Ctx) (st p cyc addr r : Nat) : (bankBlock s img c st p cyc addr r).length = 64 := by
  rw [bankBlock, List.length_map, List.length_range]

theorem getD_bankBlock (s : State) (img : Image) (c : Ctx) (st p cyc addr r : Nat) {e : Nat} (he : e < 64) :
    (bankBlock s img c st p cyc addr r).getD e 0 = BitVec.ofNat 32 (leNat ((List.range 4).map fun b =>
      vread 0 s.pm.tile st cyc (lineKey p (residentLine img c p (addr + 4 * r + e / 16)) + (4 * e + b) % 64))) := by
  rw [bankBlock, getD_map_range 0 _ he, leAt, slice_eq_map]
  refine congrArg (fun l => BitVec.ofNat 32 (leNat l)) (List.map_congr_left fun b hb => ?_)
  have hb4 : b < 4 := List.mem_range.mp hb
  rw [getD_readLines _ _ _ _ _ _ _ (by omega), show (4 * e + b) / 64 = e / 16 by omega]

/-- A bank takes a block and begins a chain. -/
def putBank (pm : PierMem) (st cyc a bank : Nat) (vals : List (BitVec 32)) : PierMem :=
  { pm with bank := vwriteRun pm.bank st cyc (bankKey a bank 0 0) vals, chain := vwrite pm.chain st cyc (4 * a + bank) 0 }

/-- The memories of the dies after a BANK_WRITE: the bank of the array of each rank takes its block. -/
def bankWritten (s : State) (img : Image) (c : Ctx) (st p cyc : Nat) (mask : BitVec 64) (bank addr : Nat) : PierMem :=
  ((maskArrays mask).zip (List.range (maskArrays mask).length)).foldl
    (fun pm r => putBank pm st cyc (arrayNo p r.1) bank (bankBlock s img c st p cyc addr r.2)) s.pm

/-- On its turn, on time, with its lines here and no array lagging, BANK_WRITE issues. -/
theorem execBankWrite_onTurn (h : PierTurn s st p x img c u ins) (hop : ins.op = .bankWrite bank addr) (ht : OnTime img x u ins.cycle stall)
    (hl : ∀ l < 4 * (maskArrays ins.mask).length, awaitsLine img x p (addr + l) ins.cycle = false) (hlag : u.overLag ins.cycle = false) :
    ∃ s' y, execBankWrite st p stall dry s = .next (pierAdvance s' img c y p) ∧ y.id = x.id ∧ y.unit p = u.issued stall dry ∧
      (∀ k, k ≠ p → y.unit k = x.unit k) ∧ Frame [.pm] s s' ∧ s'.pm = bankWritten s img c x.id p ins.cycle ins.mask bank addr := by
  have hnone : ((List.range (4 * (maskArrays ins.mask).length)).any fun l =>
      awaitsLine img (x.setUnit p (u.issued stall dry)) p (addr + l) ins.cycle) = false :=
    List.any_eq_false.mpr fun l hmem => by
      rw [awaitsLine_of_inbound (x := x) (y := x.setUnit p (u.issued stall dry)) rfl, hl l (List.mem_range.mp hmem)]
      exact Bool.false_ne_true
  exact ⟨_, (issueBankWrite s img c (x.setUnit p (u.issued stall dry)) p ins.cycle ins.mask bank addr).2,
    pierTurn_issues h ht hlag (by simp only [hop, hnone]; rfl), rfl, (unit_setUnit x p p _).trans (if_pos rfl),
    fun k hk => (unit_setUnit x p k _).trans (if_neg hk),
    issueBankWrite_frame s img c (x.setUnit p (u.issued stall dry)) p ins.cycle ins.mask bank addr, rfl⟩

/-- A bank after a BANK_WRITE holds the block of its array's rank, and its chain begins. -/
theorem bankWritten_own (s : State) (img : Image) (c : Ctx) (st p cyc : Nat) (mask : BitVec 64) (bank addr : Nat) {r e : Nat}
    (hr : r < (maskArrays mask).length) (he : e < 64) :
    vread 0 (bankWritten s img c st p cyc mask bank addr).bank st (cyc + 1) (bankKey (arrayNo p ((maskArrays mask).getD r 0)) bank 0 0 + e) =
        (bankBlock s img c st p cyc addr r).getD e 0 ∧
      vread 0 (bankWritten s img c st p cyc mask bank addr).chain st (cyc + 1) (4 * arrayNo p ((maskArrays mask).getD r 0) + bank) = 0 := by
  have hrank := getElem?_maskArrays mask hr
  have hitem : ((maskArrays mask).zip (List.range (maskArrays mask).length))[r]? = some ((maskArrays mask).getD r 0, r) :=
    List.getElem?_zip_eq_some.mpr ⟨hrank, List.getElem?_range hr⟩
  have hlater : ∀ j i, r < j → ((maskArrays mask).zip (List.range (maskArrays mask).length))[j]? = some i → (maskArrays mask).getD r 0 ≠ i.1 :=
    fun j i hj hi => ne_of_rank_ne (Nat.ne_of_lt hj) hrank (List.getElem?_zip_eq_some.mp hi).1
  constructor
  · refine read_foldl_of_last (fun pm : PierMem => vread 0 pm.bank st (cyc + 1) _) _ hitem s.pm
      (fun pm => vread_vwriteRun_next 0 _ _ _ _ _ (by rwa [length_bankBlock])) fun j i hj hi pm => ?_
    exact vread_vwriteRun_of_outside 0 _ _ _ _ _ _ _ _ (by rw [length_bankBlock]; exact bankKey_apart p (hlater j i hj hi) bank he)
  · exact read_foldl_of_last (fun pm : PierMem => vread 0 pm.chain st (cyc + 1) _) _ hitem s.pm (fun pm => vread_vwrite_next 0 _ _ _ _ _)
      fun j i hj hi pm => vread_vwrite_of_ne 0 _ _ _ _ _ _ _ _ (.inr (chainKey_ne p (hlater j i hj hi) bank))

/-- Elements of no selected bank keep their values. -/
theorem bankWritten_unseen (s : State) (img : Image) (c : Ctx) (st p cyc : Nat) (mask : BitVec 64) (bank addr st' cyc' k : Nat)
    (h : ∀ i ∈ maskArrays mask, ¬ (bankKey (arrayNo p i) bank 0 0 ≤ k ∧ k < bankKey (arrayNo p i) bank 0 0 + 64)) :
    vread 0 (bankWritten s img c st p cyc mask bank addr).bank st' cyc' k = vread 0 s.pm.bank st' cyc' k :=
  read_foldl_of_unseen (fun pm : PierMem => vread 0 pm.bank st' cyc' k) _ _ s.pm fun r hr pm =>
    vread_vwriteRun_of_outside 0 _ _ _ _ _ _ _ _ (by rw [length_bankBlock]; exact h r.1 (List.of_mem_zip hr).1)

/-- BANK_WRITE changes banks and chains alone. -/
theorem bankWritten_eq (s : State) (img : Image) (c : Ctx) (st p cyc : Nat) (mask : BitVec 64) (bank addr : Nat) :
    ∃ ba ch, bankWritten s img c st p cyc mask bank addr = { s.pm with bank := ba, chain := ch } :=
  List.foldlRecOn (motive := fun q => ∃ ba ch, q = { s.pm with bank := ba, chain := ch }) _ _ ⟨_, _, rfl⟩ fun _ ⟨_, _, hq⟩ _ _ =>
    ⟨_, _, by rw [hq]; rfl⟩

end BankWrite

/-- Settles O6: FILL by what its slots hold once the lines that have landed are delivered, BANK_WRITE by what its banks hold. -/
theorem fillAndBankWriteDeliverLines : Obligations.FillAndBankWriteDeliverLines := by
  refine ⟨?fill, ?bankWrite⟩
  case fill =>
    intro s st p stall dry x img c u ins sideB f slot addr hturn hop htime hlag hfills
    obtain ⟨s₁, y, hexec, hopened⟩ := execFill_onTurn (dry := dry) hturn hop htime hlag hfills
    obtain ⟨z, hissued, -⟩ := pierAdvance_issued (img := img) (c := c) (u := u) (stall := stall) (dry := dry) hturn.step
      (hopened.frame .steps (by decide)) (hopened.id.trans (id_of_stepOf hturn.step)) (by rw [hopened.unit]; exact ⟨rfl, rfl, rfl⟩) hopened.others
    obtain ⟨htile, hzero, hloc⟩ := hopened.stores_after (img := img) (c := c)
    obtain rfl : x.id = st := id_of_stepOf hturn.step
    have hlt : ∀ m ∈ List.range (blockLines f), m < blockLines f := fun m hm => List.mem_range.mp hm
    refine ⟨_, z, hexec, hissued, Frame.onlyDies ((pierAdvance_frame s₁ img c y p).after (by decide) (hopened.frame.mono (by decide))),
      htile, hzero, hloc, hopened.banks_after, ?landed, ?awaited, ?mark, ?unseen⟩
    case landed => exact fun l hl ha i hi => hopened.landed_after hlt hi (List.mem_range.mpr hl) ha
    case awaited => exact fun l hl ha i hi r hr => hopened.awaited_after hlt hi hl ha hr
    case mark =>
      exact fun ha i hi => hopened.mark_after hi (by simp [newFill, blockLines, Nat.ne_of_gt (size_pos f)])
        fun l hl => ha l (List.mem_range.mp hl)
    case unseen => exact hopened.feeder_unseen hlt
  case bankWrite =>
    intro s st p stall dry x img c u ins bank addr hturn hop hlanded htime hmmas hfills
    obtain ⟨s', y, hexec, hid, hunit, hothers, hframe, hwritten⟩ :=
      execBankWrite_onTurn (dry := dry) hturn hop htime hlanded (overLag_of_mmas_nil hmmas _)
    obtain ⟨z, hissued, hdies, hpm⟩ :=
      pierAdvance_issued_idle img c hturn.step hframe (hid.trans (id_of_stepOf hturn.step)) hunit hothers hmmas hfills
    obtain ⟨ba, ch, heq⟩ := bankWritten_eq s img c x.id p ins.cycle ins.mask bank addr
    obtain rfl : x.id = st := id_of_stepOf hturn.step
    refine ⟨_, z, hexec, hissued, hdies, ?_, fun r hr e he => ?_, fun st' cyc' k hk => ?_⟩
    · rw [hpm, hwritten, heq]
    · rw [hpm, hwritten, ← getD_bankBlock s img c x.id p ins.cycle addr r he]
      exact bankWritten_own s img c x.id p ins.cycle ins.mask bank addr hr he
    · rw [hpm, hwritten]
      exact bankWritten_unseen s img c x.id p ins.cycle ins.mask bank addr st' cyc' k hk

end Sys2Proof.FillAndBankWrite


/-! PROOFS of the array family, DRAIN (O7): the memories of the dies after a DRAIN of either kind, and the wait for an open add. -/

namespace Sys2Proof.Drains

open Sys2Proof.Machine Sys2Proof.Safety Sys2Proof.Laws Sys2Proof.StationResults Sys2Proof.DieMemories Sys2Proof.PierTurns
  Sys2Proof.LineWrites

/-! ### The block of a bank (R69) -/

section Block

variable (s : State) (st a bank cyc : Nat) (f : Fmt)

theorem length_drainedBlock : (drainedBlock s st a bank cyc f).length = 64 * f.size := by
  rw [drainedBlock, length_blockOf, List.length_map, List.length_range]

theorem blockOf_drainElems : blockOf f ((drainElems f (bankVals s st a bank cyc)).map (·.1)) = drainedBlock s st a bank cyc f := by
  rw [drainElems, bankVals, vreadRun, List.map_map, List.map_map, drainedBlock]
  refine congrArg (blockOf f) (List.map_congr_left fun e _ => ?_)
  simp only [Function.comp]
  split <;> rfl

end Block

/-! ### The memories after a DRAIN (R67, R69) -/

section Dies

variable (s : State) (img : Image) (c : Ctx) (st p cyc : Nat) (mask : BitVec 64) (bank : Nat) (f : Fmt) (sideB : Bool) (addr : Nat)

/-- The dies after a DRAIN to the arrays' own feeders. -/
def drainedToFeeder : PierMem :=
  (maskArrays mask).foldl (fun pm i => writeSlot pm st cyc (arrayNo p i) sideB f addr (drainedBlock s st (arrayNo p i) bank cyc f) 0) s.pm

/-- The dies after a DRAIN to the tile store. -/
def drainedToStore : PierMem :=
  ((maskArrays mask).zip (List.range (maskArrays mask).length)).foldl (fun pm r =>
    putLines pm img c st cyc p f (addr + r.2 * f.size) f.size (drainedBlock s st (arrayNo p r.1) bank cyc f)) s.pm

theorem foldl_zip_range {σ α : Type} (g : σ → α → σ) (l : List α) (q : σ) :
    (l.zip (List.range l.length)).foldl (fun q r => g q r.1) q = l.foldl g q := by
  conv_rhs => rw [← List.map_fst_zip (l₁ := l) (l₂ := List.range l.length) (by rw [List.length_range]), List.foldl_map]

theorem issueDrain_pm (x : Step) (toFeeder : Bool) :
    (issueDrain s img c x p cyc mask bank toFeeder f sideB addr).1.pm =
      if toFeeder then drainedToFeeder s x.id p cyc mask bank f sideB addr else drainedToStore s img c x.id p cyc mask bank f addr := by
  unfold issueDrain
  dsimp only
  rw [List.zip_map_left, List.foldl_map]
  simp only [Prod.map, id, blockOf_drainElems]
  cases toFeeder with
  | true => exact foldl_zip_range (fun pm i => writeSlot pm x.id cyc (arrayNo p i) sideB f addr (drainedBlock s x.id (arrayNo p i) bank cyc f) 0) _ _
  | false =>
    simp only [writeLines_eq_putLines, length_drainedBlock, Nat.mul_div_cancel_left f.size (show 0 < 64 by decide)]
    rfl

variable {i : Nat}

/-- Every selected slot holds its drained block, without a mark. -/
theorem drainedToFeeder_own (hi : i ∈ maskArrays mask) :
    (∀ b < 64 * f.size, vread 0 (drainedToFeeder s st p cyc mask bank f sideB addr).feeder st (cyc + 1)
        (slotKey (arrayNo p i) sideB f addr + b) = (drainedBlock s st (arrayNo p i) bank cyc f).getD b 0) ∧
      vread 0 (drainedToFeeder s st p cyc mask bank f sideB addr).skip st (cyc + 1) (markKey (arrayNo p i) sideB f addr) = 0 := by
  constructor
  · intro b hb
    refine read_foldl_of_mem (fun pm : PierMem => vread 0 pm.feeder st (cyc + 1) (slotKey (arrayNo p i) sideB f addr + b)) _ hi s.pm
      (fun pm => vread_vwriteRun_next 0 _ _ _ _ _ (by rwa [length_drainedBlock])) fun j _ hj pm => ?_
    have hapart := slotKey_apart p hj.symm sideB f addr (o := 0) (n := 64 * f.size) hb (by omega)
    exact vread_vwriteRun_of_outside 0 _ _ _ _ _ _ _ _ (by rw [length_drainedBlock]; omega)
  · exact read_foldl_of_mem (fun pm : PierMem => vread 0 pm.skip st (cyc + 1) (markKey (arrayNo p i) sideB f addr)) _ hi s.pm
      (fun pm => vread_vwrite_next 0 _ _ _ _ _) fun j _ hj pm => vread_vwrite_of_ne 0 _ _ _ _ _ _ _ _ (.inr (markKey_ne p hj.symm _ _ _))

theorem drainedToFeeder_eq : ∃ fe va sk, drainedToFeeder s st p cyc mask bank f sideB addr = { s.pm with feeder := fe, valid := va, skip := sk } :=
  List.foldlRecOn (motive := fun q => ∃ fe va sk, q = { s.pm with feeder := fe, valid := va, skip := sk }) _ _ ⟨_, _, _, rfl⟩
    fun _ ⟨_, _, _, hq⟩ _ _ => ⟨_, _, _, by rw [hq]; rfl⟩

theorem drainedToStore_eq : ∃ ti ze, drainedToStore s img c st p cyc mask bank f addr = { s.pm with tile := ti, zero := ze } :=
  List.foldlRecOn (motive := fun q => ∃ ti ze, q = { s.pm with tile := ti, zero := ze }) _ _ ⟨_, _, rfl⟩ fun _ ⟨_, _, hq⟩ r _ => by
    rw [hq]
    exact putLines_eq ..

/-- Neither kind of DRAIN touches a bank, a chain or a local store. -/
theorem drained_keeps (toFeeder : Bool) {pm : PierMem}
    (h : pm = if toFeeder then drainedToFeeder s st p cyc mask bank f sideB addr else drainedToStore s img c st p cyc mask bank f addr) :
    pm.bank = s.pm.bank ∧ pm.chain = s.pm.chain ∧ pm.loc = s.pm.loc := by
  cases toFeeder with
  | true =>
    obtain ⟨fe, va, sk, heq⟩ := drainedToFeeder_eq s st p cyc mask bank f sideB addr
    rw [h, if_pos rfl, heq]
    exact ⟨rfl, rfl, rfl⟩
  | false =>
    obtain ⟨ti, ze, heq⟩ := drainedToStore_eq s img c st p cyc mask bank f addr
    rw [h, if_neg Bool.false_ne_true, heq]
    exact ⟨rfl, rfl, rfl⟩

/-- Line `l` of the block of rank `r` stands in the store, where no later line of the DRAIN is resident in the same place. -/
theorem drainedToStore_own {r l : Nat} (hr : r < (maskArrays mask).length) (hl : l < f.size)
    (hlast : ∀ m, r * f.size + l < m → m < (maskArrays mask).length * f.size →
      residentLine img c p (addr + m) ≠ residentLine img c p (addr + (r * f.size + l))) {b : Nat} (hb : b < 64) :
    vread 0 (drainedToStore s img c st p cyc mask bank f addr).tile st (cyc + 1)
        (lineKey p (residentLine img c p (addr + (r * f.size + l))) + b) =
      (drainedBlock s st (arrayNo p ((maskArrays mask).getD r 0)) bank cyc f).getD (64 * l + b) 0 := by
  have hitem : ((maskArrays mask).zip (List.range (maskArrays mask).length))[r]? = some ((maskArrays mask).getD r 0, r) :=
    List.getElem?_zip_eq_some.mpr ⟨getElem?_maskArrays mask hr, List.getElem?_range hr⟩
  refine read_foldl_of_last (fun pm : PierMem => vread 0 pm.tile st (cyc + 1) _) _ hitem s.pm (fun pm => ?own) fun j i hj hi pm => ?later
  case own =>
    rw [← Nat.add_assoc]
    refine putLines_tile_own pm img c st cyc p f (addr + r * f.size) _ hl (fun m hm hmn => ?_) hb
    have hm' : r * f.size + m < (maskArrays mask).length * f.size :=
      Nat.lt_of_lt_of_le (by rw [Nat.succ_mul]; omega) (Nat.mul_le_mul_right f.size hr)
    rw [Nat.add_assoc, Nat.add_assoc]
    exact hlast _ (by omega) hm'
  case later =>
    obtain ⟨hj', rfl⟩ : j < (maskArrays mask).length ∧ j = i.2 := by
      obtain ⟨hjn, hji⟩ := List.getElem?_eq_some_iff.mp (List.getElem?_zip_eq_some.mp hi).2
      exact ⟨by simpa using hjn, by simpa using hji⟩
    refine putLines_tile_unseen pm img c st cyc p f _ _ _ _ _ fun m hm => ?_
    have hm' : i.2 * f.size + m < (maskArrays mask).length * f.size :=
      Nat.lt_of_lt_of_le (by rw [Nat.succ_mul]; omega) (Nat.mul_le_mul_right f.size hj')
    have hrj : (r + 1) * f.size ≤ i.2 * f.size := Nat.mul_le_mul_right f.size hj
    rw [Nat.succ_mul] at hrj
    rw [Nat.add_assoc]
    exact lineKey_apart p (hlast _ (by omega) hm').symm hb

/-- Bytes of no line of the DRAIN keep their values. -/
theorem drainedToStore_unseen (st' cyc' k : Nat) (h : ∀ m < (maskArrays mask).length * f.size,
      ¬ (lineKey p (residentLine img c p (addr + m)) ≤ k ∧ k < lineKey p (residentLine img c p (addr + m)) + 64)) :
    vread 0 (drainedToStore s img c st p cyc mask bank f addr).tile st' cyc' k = vread 0 s.pm.tile st' cyc' k := by
  refine read_foldl_of_unseen (fun pm : PierMem => vread 0 pm.tile st' cyc' k) _ _ s.pm fun r hr pm => ?_
  have hrank : r.2 < (maskArrays mask).length := List.mem_range.mp (List.of_mem_zip hr).2
  refine putLines_tile_unseen pm img c st cyc p f _ _ _ _ _ fun m hm => ?_
  rw [Nat.add_assoc]
  exact h _ (Nat.lt_of_lt_of_le (by rw [Nat.succ_mul]; omega) (Nat.mul_le_mul_right f.size hrank))

end Dies

/-! ### The instruction (R70, R75) -/

section Turn

variable {s : State} {st p stall dry : Nat} {x : Step} {img : Image} {c : Ctx} {u : UnitSt} {ins : PierIns} {bank : Nat} {toFeeder : Bool}
  {f : Fmt} {sideB : Bool} {addr : Nat}

/-- Events leave the work under way as it is. -/
theorem raiseAll_work (u : UnitSt) (evs : List (Nat × EventAt × Nat)) :
    (u.raiseAll evs).mmas = u.mmas ∧ (u.raiseAll evs).fills = u.fills :=
  List.foldlRecOn (motive := fun v : UnitSt => v.mmas = u.mmas ∧ v.fills = u.fills) _ _ ⟨rfl, rfl⟩ fun v hv e _ => by
    unfold UnitSt.raise
    split <;> exact hv

/-- While an add into its bank is open, DRAIN waits. -/
theorem execDrain_waits (h : PierTurn s st p x img c u ins) (hop : ins.op = .drain bank toFeeder f sideB addr)
    (ha : u.addsOpen ins.cycle ins.mask bank = true) : execDrain st p stall dry s = .next (waitUnit s x p u stall dry) := by
  have hopen : ((x.setUnit p (u.issued stall dry)).unit p).addsOpen ins.cycle ins.mask bank = true := by
    rw [unit_setUnit, if_pos rfl]
    exact ha
  exact pierTurn_waits h (by simp only [hop, hopen, if_true])

/-- A DRAIN raises events in its unit and leaves the step's other units alone. -/
theorem issueDrain_step (s : State) (img : Image) (c : Ctx) (x : Step) (p cyc : Nat) (mask : BitVec 64) (bank : Nat) (toFeeder : Bool) (f : Fmt)
    (sideB : Bool) (addr : Nat) : ∃ evs, (issueDrain s img c x p cyc mask bank toFeeder f sideB addr).2.unit p = (x.unit p).raiseAll evs ∧
      (∀ k, k ≠ p → (issueDrain s img c x p cyc mask bank toFeeder f sideB addr).2.unit k = x.unit k) ∧
      (issueDrain s img c x p cyc mask bank toFeeder f sideB addr).2.id = x.id := by
  cases toFeeder <;>
    exact ⟨_, (unit_setUnit _ p p _).trans (if_pos rfl), fun k hk => (unit_setUnit _ p k _).trans (if_neg hk), rfl⟩

/-- On its turn, on time, with no array lagging and no add open, DRAIN issues. -/
theorem execDrain_issues (h : PierTurn s st p x img c u ins) (hop : ins.op = .drain bank toFeeder f sideB addr)
    (ha : u.addsOpen ins.cycle ins.mask bank = false) (ht : OnTime img x u ins.cycle stall) (hl : u.overLag ins.cycle = false) :
    ∃ s' y, execDrain st p stall dry s = .next (pierAdvance s' img c y p) ∧ y.id = x.id ∧ SamePlace (u.issued stall dry) (y.unit p) ∧
      (y.unit p).mmas = u.mmas ∧ (y.unit p).fills = u.fills ∧ (∀ k, k ≠ p → y.unit k = x.unit k) ∧ Frame [.pm] s s' ∧
      s'.pm = if toFeeder then drainedToFeeder s x.id p ins.cycle ins.mask bank f sideB addr
        else drainedToStore s img c x.id p ins.cycle ins.mask bank f addr := by
  have hself : (x.setUnit p (u.issued stall dry)).unit p = u.issued stall dry := (unit_setUnit x p p _).trans (if_pos rfl)
  have hopen : ((x.setUnit p (u.issued stall dry)).unit p).addsOpen ins.cycle ins.mask bank = false := by
    rw [hself]
    exact ha
  obtain ⟨evs, hunit, hothers, hid⟩ :=
    issueDrain_step s img c (x.setUnit p (u.issued stall dry)) p ins.cycle ins.mask bank toFeeder f sideB addr
  rw [hself] at hunit
  refine ⟨_, (issueDrain s img c (x.setUnit p (u.issued stall dry)) p ins.cycle ins.mask bank toFeeder f sideB addr).2,
    pierTurn_issues h ht hl (by simp only [hop, hopen]; rfl), hid, ?_, ?_, ?_, fun k hk => ?_,
    issueDrain_frame s img c (x.setUnit p (u.issued stall dry)) p ins.cycle ins.mask bank toFeeder f sideB addr, issueDrain_pm ..⟩
  · rw [hunit]
    exact samePlace_raiseAll _ evs
  · rw [hunit, (raiseAll_work _ evs).1]
    rfl
  · rw [hunit, (raiseAll_work _ evs).2]
    rfl
  · rw [hothers k hk, unit_setUnit, if_neg hk]

end Turn

/-- Settles O7: the wait by the open add; else by the memories that the DRAIN leaves, which the k-steps under way do not touch but for
banks and chains. -/
theorem drainWritesTheBank : Obligations.DrainWritesTheBank := by
  intro s st p stall dry x img c u ins bank toFeeder f sideB addr hturn hop
  constructor
  · intro hopen
    exact ⟨_, _, execDrain_waits hturn hop hopen, waited_waitUnit p stall dry u hturn.step, (waitUnit_frame s x p u stall dry).onlySteps⟩
  · intro hopen htime hlag hfills
    obtain ⟨s', y, hexec, hid, hplace, hmmas, hfills', hothers, hframe, hdies⟩ := execDrain_issues (dry := dry) hturn hop hopen htime hlag
    obtain ⟨z, hissued, -⟩ := pierAdvance_issued (img := img) (c := c) hturn.step (hframe .steps (by decide))
      (hid.trans (id_of_stepOf hturn.step)) hplace hothers
    have hpm := pierAdvance_pm s' img c y p
    rw [delivered_of_fills_nil (hfills'.trans hfills)] at hpm
    obtain rfl : x.id = st := id_of_stepOf hturn.step
    obtain ⟨hbank, hchain, hloc⟩ := drained_keeps s img c x.id p ins.cycle ins.mask bank f sideB addr toFeeder hdies
    refine ⟨_, z, hexec, hissued, Frame.onlyDies ((pierAdvance_frame s' img c y p).after (by decide) (hframe.mono (by decide))),
      fun hm => ?banks, ?loc, ?_⟩
    case banks =>
      rw [pierAdvance_pm_of_mmas_nil (hmmas.trans hm), delivered_of_fills_nil (hfills'.trans hfills)]
      exact ⟨hbank, hchain⟩
    case loc =>
      rw [hpm]
      exact hloc
    rw [hpm]
    cases toFeeder with
    | true =>
      rw [if_pos rfl] at hdies ⊢
      obtain ⟨fe, va, sk, heq⟩ := drainedToFeeder_eq s x.id p ins.cycle ins.mask bank f sideB addr
      refine ⟨?_, ?_, fun i hi => ?_⟩
      · show s'.pm.tile = s.pm.tile
        rw [hdies, heq]
      · show s'.pm.zero = s.pm.zero
        rw [hdies, heq]
      · rw [slotMark, hpm, hdies]
        exact drainedToFeeder_own s x.id p ins.cycle ins.mask bank f sideB addr hi
    | false =>
      rw [if_neg Bool.false_ne_true] at hdies ⊢
      obtain ⟨ti, ze, heq⟩ := drainedToStore_eq s img c x.id p ins.cycle ins.mask bank f addr
      refine ⟨?_, ?_, ?_, fun r hr l hl hlast b hb => ?_, fun st' cyc' k hk => ?_⟩
      · show s'.pm.feeder = s.pm.feeder
        rw [hdies, heq]
      · show s'.pm.skip = s.pm.skip
        rw [hdies, heq]
      · show s'.pm.valid = s.pm.valid
        rw [hdies, heq]
      · rw [hdies]
        exact drainedToStore_own s img c x.id p ins.cycle ins.mask bank f addr hr hl hlast hb
      · rw [hdies]
        exact drainedToStore_unseen s img c x.id p ins.cycle ins.mask bank f addr st' cyc' k hk

end Sys2Proof.Drains


/-! PROOFS of the array family, MMA (O5): the k-steps of one array build the elements that the statement writes out, in ascending order;
arrays one after another leave each other's operands as they are. -/

namespace Sys2Proof.MatrixProducts

open Sys2Proof.Machine Sys2Proof.Safety Sys2Proof.Laws Sys2Proof.StationResults Sys2Proof.DieMemories Sys2Proof.PierTurns

/-! ### The k-steps of one array (R52, R61, R63) -/

section KSteps

variable (s : State) (st p : Nat)

/-- Element (r, e) of the bank of a matrix instruction after its first `n` k-steps, and whether a product has reached it. -/
def runElem (m : MmaRun) (r e n : Nat) : BitVec 32 × Bool :=
  mmaElem s st (arrayNo p m.array) m.bank m.acc m.fmtA m.fmtB m.ta m.tb m.aSlot m.bSlot m.cycle r e n

/-- Whether k-step `n` of a matrix instruction is of a slot that is skipped (R63). -/
def marked (m : MmaRun) (n : Nat) : Prop :=
  slotMark s st (arrayNo p m.array) false m.fmtA (m.aSlot + n / 8) (m.cycle + n) ≠ 0 ∨
    slotMark s st (arrayNo p m.array) true m.fmtB (m.bSlot + n / 8) (m.cycle + n) ≠ 0

theorem runElem_succ_of_marked {m : MmaRun} {n : Nat} (h : marked s st p m n) (r e : Nat) :
    runElem s st p m r e (n + 1) = runElem s st p m r e n := if_pos h

/-- The product that k-step `n` adds to element (r, e). -/
theorem runElem_succ_of_not_marked {m : MmaRun} {n : Nat} (h : ¬ marked s st p m n) (r e : Nat) :
    runElem s st p m r e (n + 1) =
      ((mac (runElem s st p m r e n).1 (entrance s st (arrayNo p m.array) false m.fmtA (m.aSlot + n / 8) (m.cycle + n) (n % 8) (!m.ta) r)
        (entrance s st (arrayNo p m.array) true m.fmtB (m.bSlot + n / 8) (m.cycle + n) (n % 8) m.tb e)
        (!m.acc && !(runElem s st p m r e n).2)).1, true) := if_neg h

theorem begun_eq (m : MmaRun) : m.begun s st p = { m with vals := (m.begun s st p).vals, kIdx := (m.begun s st p).kIdx } := by
  unfold MmaRun.begun
  split <;> rfl

theorem begun_of_fired {m : MmaRun} (h : m.fired ≠ 0) : m.begun s st p = m := if_neg h

/-- A skipped k-step counts and changes no value. -/
theorem fire_of_marked {m : MmaRun} (h : marked s st p m m.fired) :
    ∃ k, (m.fire s st p).1 = { m with fired := m.fired + 1, vals := (m.begun s st p).vals, kIdx := k } := by
  unfold marked at h
  unfold MmaRun.fire
  rw [begun_eq]
  dsimp only
  rw [if_pos h]
  exact ⟨_, rfl⟩

/-- Element `e` of the bank after the next k-step, not skipped: the product of entrances `e / 8` and `e % 8` is added (R51, R52). -/
def nextElem (m : MmaRun) (e : Nat) : BitVec 32 :=
  (mac ((m.begun s st p).vals.getD e 0)
    (entrance s st (arrayNo p m.array) false m.fmtA (m.aSlot + m.fired / 8) (m.cycle + m.fired) (m.fired % 8) (!m.ta) (e / 8))
    (entrance s st (arrayNo p m.array) true m.fmtB (m.bSlot + m.fired / 8) (m.cycle + m.fired) (m.fired % 8) m.tb (e % 8))
    (!m.acc && !m.started)).1

/-- A k-step adds its 64 products. -/
theorem fire_of_not_marked {m : MmaRun} (h : ¬ marked s st p m m.fired) :
    ∃ k, (m.fire s st p).1 =
      { m with fired := m.fired + 1, vals := (List.range 64).map (nextElem s st p m), started := true, kIdx := k } := by
  unfold marked at h
  unfold MmaRun.fire
  rw [begun_eq]
  dsimp only
  rw [if_neg h, List.map_map]
  refine ⟨(m.begun s st p).kIdx + 1, congrArg
    (fun v => ({ m with fired := m.fired + 1, vals := v, started := true, kIdx := (m.begun s st p).kIdx + 1 } : MmaRun))
    (List.map_congr_left fun e he => ?_)⟩
  have he64 : e < 64 := List.mem_range.mp he
  simp only [Function.comp, nextElem]
  rw [getD_map_range _ _ (show e / 8 < 8 by omega), getD_map_range _ _ (show e % 8 < 8 by omega)]

/-- `m` is `m₀` after its first `n` k-steps: its values are the elements that `n` products in ascending order give. -/
structure Fired (m₀ m : MmaRun) (n : Nat) : Prop where
  run : m = { m₀ with fired := n, vals := m.vals, started := m.started, kIdx := m.kIdx }
  vals : (m.begun s st p).vals = (List.range 64).map fun e => (runElem s st p m₀ (e / 8) (e % 8) n).1
  started : ∀ r e, (runElem s st p m₀ r e n).2 = m.started

variable {s st p}

/-- Before its first k-step an instruction reads its bank as it stands. -/
theorem fired_zero {m₀ : MmaRun} (h0 : m₀.fired = 0) (hs : m₀.started = false) : Fired s st p m₀ m₀ 0 where
  run := by rw [← h0]
  vals := by
    rw [MmaRun.begun, if_pos h0]
    refine List.map_congr_left fun e _ => ?_
    show _ = vread 0 s.pm.bank st m₀.cycle (bankKey (arrayNo p m₀.array) m₀.bank (e / 8) (e % 8))
    rw [show bankKey (arrayNo p m₀.array) m₀.bank (e / 8) (e % 8) = bankKey (arrayNo p m₀.array) m₀.bank 0 0 + e by
      simp only [bankKey]; omega]
  started _ _ := hs.symm

/-- The next k-step. -/
theorem Fired.fire {m₀ m : MmaRun} {n : Nat} (h : Fired s st p m₀ m n) : Fired s st p m₀ (m.fire s st p).1 (n + 1) := by
  obtain ⟨hrun, hvals, hstarted⟩ := h
  have hn : m.fired = n := by rw [hrun]
  have hiff : marked s st p m m.fired ↔ marked s st p m₀ n := by rw [hrun]; rfl
  by_cases hm : marked s st p m m.fired
  · obtain ⟨k, hk⟩ := fire_of_marked s st p hm
    have hm₀ := hiff.mp hm
    rw [hk]
    refine ⟨?_, ?_, fun r e => ?_⟩
    · rw [hrun]
    · rw [begun_of_fired s st p (Nat.succ_ne_zero _)]
      simp only [runElem_succ_of_marked s st p hm₀]
      exact hvals
    · rw [runElem_succ_of_marked s st p hm₀]
      exact hstarted r e
  · obtain ⟨k, hk⟩ := fire_of_not_marked s st p hm
    have hm₀ := fun h => hm (hiff.mpr h)
    rw [hk]
    refine ⟨?_, ?_, fun r e => ?_⟩
    · rw [hrun]
    · rw [begun_of_fired s st p (Nat.succ_ne_zero _)]
      refine List.map_congr_left fun e he => ?_
      have he64 : e < 64 := List.mem_range.mp he
      simp only [nextElem]
      rw [hvals, getD_map_range 0 _ he64, runElem_succ_of_not_marked s st p hm₀, hstarted, hn]
      rw [hrun]
    · rw [runElem_succ_of_not_marked s st p hm₀]

/-- Every k-step from the `n`-th on fires that is due and finds its operands. -/
theorem Fired.go {m₀ : MmaRun} {whole : Bool} {lim : Option Nat} (k : Nat) {n : Nat} {w : MmaWork} (h : Fired s st p m₀ w.run n)
    (hready : ∀ j < n + k, ({ m₀ with fired := j } : MmaRun).ready s st p whole = true) (hlim : ∀ l, lim = some l → m₀.cycle + (n + k) ≤ l + 1) :
    Fired s st p m₀ (MmaWork.go s st p whole lim k w).run (n + k) := by
  induction k generalizing n w with
  | zero => exact h
  | succ k ih =>
    have hr : w.run.ready s st p whole = true := by
      rw [h.run]
      exact hready n (by omega)
    have hfired : w.run.fired = n := by rw [h.run]
    have hcycle : w.run.cycle = m₀.cycle := by rw [h.run]
    unfold MmaWork.go
    rw [hr, hfired, hcycle, Bool.and_true]
    have hdue : ∀ l, lim = some l → m₀.cycle + n ≤ l := fun l hl => by
      have := hlim l hl
      omega
    cases lim with
    | none =>
      rw [if_pos rfl, show n + (k + 1) = n + 1 + k by omega]
      exact ih h.fire (fun j hj => hready j (by omega)) fun l hl => nomatch hl
    | some l =>
      rw [if_pos (decide_eq_true (hdue l rfl)), show n + (k + 1) = n + 1 + k by omega]
      exact ih h.fire (fun j hj => hready j (by omega)) fun l' hl' => by
        have := hlim l' hl'
        omega

end KSteps

/-! ### The operands of the arrays (R74) -/

/-- A step finds the same operands in `s` and in `t`: feeders with marks and valid bits, and every bank at cycle `cyc`. -/
structure SameOperands (st cyc : Nat) (s t : State) : Prop where
  feeder : t.pm.feeder = s.pm.feeder
  valid : t.pm.valid = s.pm.valid
  skip : t.pm.skip = s.pm.skip
  bank : ∀ k, vread 0 t.pm.bank st cyc k = vread 0 s.pm.bank st cyc k

section Operands

variable {s t : State} {st p cyc : Nat} {m : MmaRun}

theorem runElem_of_sameOperands (h : SameOperands st m.cycle s t) (r e n : Nat) : runElem t st p m r e n = runElem s st p m r e n := by
  have hmark : ∀ a sideB f slot t', slotMark t st a sideB f slot t' = slotMark s st a sideB f slot t' := fun a sideB f slot t' => by
    rw [slotMark, slotMark, h.skip]
  have hent : ∀ a sideB f slot t' k byCol j, entrance t st a sideB f slot t' k byCol j = entrance s st a sideB f slot t' k byCol j :=
    fun a sideB f slot t' k byCol j => by simp only [entrance, slotElem, h.feeder]
  unfold runElem
  induction n with
  | zero => rw [mmaElem, mmaElem, h.bank]
  | succ n ih => simp only [mmaElem, ih, hmark, hent]

theorem ready_of_sameOperands (h : SameOperands st cyc s t) (whole : Bool) : m.ready t st p whole = m.ready s st p whole := by
  simp only [MmaRun.ready, lanesReady, h.valid]

/-- The values of a matrix instruction's bank after all its k-steps; an overwrite that no product has reached leaves +0.0 (R63). -/
def doneVals (s : State) (st p : Nat) (m : MmaRun) : List (BitVec 32) :=
  (List.range 64).map fun e =>
    if !m.acc && !(runElem s st p m (e / 8) (e % 8) (8 * m.kb)).2 then 0 else (runElem s st p m (e / 8) (e % 8) (8 * m.kb)).1

/-- A matrix instruction that has not begun, whose k-steps are all due and find their operands. -/
structure CanRun (s : State) (st p : Nat) (whole : Bool) (lim : Option Nat) (m : MmaRun) : Prop where
  fired : m.fired = 0
  started : m.started = false
  pos : 0 < m.kb
  ready : ∀ j < 8 * m.kb, ({ m with fired := j } : MmaRun).ready s st p whole = true
  due : ∀ l, lim = some l → m.cycle + 8 * m.kb ≤ l + 1

/-- The bank that a matrix instruction leaves once its last k-step has fired. -/
theorem finish_of_fired {m₀ m : MmaRun} (h : Fired s st p m₀ m (8 * m₀.kb)) (hk : 0 < m₀.kb) (pm : PierMem) :
    (m.finish pm st p).bank = vwriteRun pm.bank st (m₀.cycle + 8 * m₀.kb - 1) (bankKey (arrayNo p m₀.array) m₀.bank 0 0) (doneVals s st p m₀) := by
  have hfired : m.fired ≠ 0 := by rw [h.run]; show 8 * m₀.kb ≠ 0; omega
  have hvals := h.vals
  rw [begun_of_fired s st p hfired] at hvals
  have hdone : (if !m₀.acc && !m.started then List.replicate 64 0 else m.vals) = doneVals s st p m₀ := by
    simp only [doneVals, h.started]
    split
    · rw [List.map_const', List.length_range]
    · exact hvals
  rw [MmaRun.finish, ← hdone]
  dsimp only
  rw [h.run]

/-- One matrix instruction that can run runs to its end. -/
theorem runMma_runs {whole : Bool} {lim : Option Nat} {q : State × UnitSt × List MmaRun × Nat} (hm : CanRun s st p whole lim m)
    (hq : SameOperands st m.cycle s q.1) (hleft : q.2.2.1 = []) :
    SameOperands st m.cycle s (runMma st p whole lim q m).1 ∧ (runMma st p whole lim q m).2.2.1 = [] ∧
      (runMma st p whole lim q m).1.pm.bank =
        vwriteRun q.1.pm.bank st (m.cycle + 8 * m.kb - 1) (bankKey (arrayNo p m.array) m.bank 0 0) (doneVals s st p m) := by
  obtain ⟨t, u, left, n⟩ := q
  obtain rfl : left = [] := hleft
  have hrun : Fired t st p m (MmaWork.go t st p whole lim (8 * m.kb) { run := m, ramp := kget {} u.ramps m.array }).run (8 * m.kb) := by
    have hgo := Fired.go (s := t) (whole := whole) (lim := lim) (w := { run := m, ramp := kget {} u.ramps m.array }) (8 * m.kb)
      (fired_zero hm.fired hm.started) (fun j hj => (ready_of_sameOperands hq whole).trans (hm.ready j (by omega))) fun l hl => by
        have hdue := hm.due l hl
        rwa [Nat.zero_add]
    rwa [Nat.zero_add] at hgo
  have hfired : ¬ (MmaWork.go t st p whole lim (8 * m.kb) { run := m, ramp := kget {} u.ramps m.array }).run.fired < 8 * m.kb := by
    rw [hrun.run]
    exact Nat.lt_irrefl _
  have hbank := finish_of_fired hrun hm.pos t.pm
  have hvals : doneVals t st p m = doneVals s st p m := by simp only [doneVals, runElem_of_sameOperands hq]
  have hexec : (runMma st p whole lim (t, u, [], n) m).1 =
        { t with pm := (MmaWork.go t st p whole lim (8 * m.kb) { run := m, ramp := kget {} u.ramps m.array }).run.finish t.pm st p } ∧
      (runMma st p whole lim (t, u, [], n) m).2.2.1 = [] := by
    unfold runMma
    dsimp only
    rw [List.any_nil, if_neg Bool.false_ne_true, hm.fired, Nat.sub_zero, if_neg hfired]
    exact ⟨rfl, rfl⟩
  rw [hexec.1, hexec.2]
  refine ⟨⟨hq.feeder, hq.valid, hq.skip, fun k => ?_⟩, rfl, hbank.trans (by rw [hvals])⟩
  rw [← hq.bank k]
  show vread 0 (MmaRun.finish _ _ _ _).bank st m.cycle k = _
  rw [hbank]
  exact vread_vwriteRun_of_le 0 _ _ _ _ _ _ _ (by have := hm.pos; omega)

/-- Matrix instructions of one cycle that can run run to their ends, one after another. -/
theorem foldl_runMma_runs {whole : Bool} {lim : Option Nat} (ms : List MmaRun) {q : State × UnitSt × List MmaRun × Nat}
    (hms : ∀ m ∈ ms, CanRun s st p whole lim m ∧ m.cycle = cyc) (hq : SameOperands st cyc s q.1) (hleft : q.2.2.1 = []) :
    (ms.foldl (runMma st p whole lim) q).2.2.1 = [] ∧
      (ms.foldl (runMma st p whole lim) q).1.pm.bank = ms.foldl (fun v m =>
        vwriteRun v st (m.cycle + 8 * m.kb - 1) (bankKey (arrayNo p m.array) m.bank 0 0) (doneVals s st p m)) q.1.pm.bank := by
  induction ms generalizing q with
  | nil => exact ⟨hleft, rfl⟩
  | cons m ms ih =>
    obtain ⟨hm, rfl⟩ := hms m (List.mem_cons_self ..)
    obtain ⟨hq', hleft', hbank⟩ := runMma_runs hm hq hleft
    obtain ⟨hl, hb⟩ := ih (fun m' hm' => hms m' (List.mem_cons_of_mem _ hm')) hq' hleft'
    exact ⟨hl, by rw [List.foldl_cons, List.foldl_cons, hb, hbank]⟩

/-- A matrix instruction whose first operands are not valid stays as it is. -/
theorem runMma_waits {whole : Bool} {lim : Option Nat} {q : State × UnitSt × List MmaRun × Nat} (h0 : m.fired = 0) (hk : 0 < m.kb)
    (hn : m.ready q.1 st p whole = false) : (runMma st p whole lim q m).1 = q.1 ∧ (runMma st p whole lim q m).2.2.1 = q.2.2.1 ++ [m] := by
  obtain ⟨t, u, left, n⟩ := q
  obtain ⟨k, hk'⟩ : ∃ k, 8 * m.kb = k + 1 := ⟨8 * m.kb - 1, by omega⟩
  have hgo : MmaWork.go t st p whole lim (8 * m.kb) { run := m, ramp := kget {} u.ramps m.array } = { run := m, ramp := kget {} u.ramps m.array } := by
    rw [hk']
    unfold MmaWork.go
    rw [show m.ready t st p whole = false from hn, Bool.and_false, if_neg Bool.false_ne_true]
  unfold runMma
  dsimp only
  split
  · exact ⟨rfl, rfl⟩
  · rw [h0, Nat.sub_zero, hgo]
    dsimp only
    rw [h0, if_pos (by omega)]
    exact ⟨rfl, rfl⟩

theorem foldl_runMma_waits {whole : Bool} {lim : Option Nat} (ms : List MmaRun) {q : State × UnitSt × List MmaRun × Nat}
    (hms : ∀ m ∈ ms, m.fired = 0 ∧ 0 < m.kb ∧ m.ready q.1 st p whole = false) :
    (ms.foldl (runMma st p whole lim) q).1 = q.1 ∧ (ms.foldl (runMma st p whole lim) q).2.2.1 = q.2.2.1 ++ ms := by
  induction ms generalizing q with
  | nil => exact ⟨rfl, (List.append_nil _).symm⟩
  | cons m ms ih =>
    obtain ⟨h0, hk, hn⟩ := hms m (List.mem_cons_self ..)
    obtain ⟨hs, hl⟩ := runMma_waits (lim := lim) h0 hk hn
    obtain ⟨hs', hl'⟩ := ih (q := runMma st p whole lim q m) fun m' hm' => by rw [hs]; exact hms m' (List.mem_cons_of_mem _ hm')
    exact ⟨hs'.trans hs, by rw [List.foldl_cons, hl', hl, List.append_assoc]; rfl⟩

end Operands

/-! ### The instruction (R56, R73, R74) -/

/-- The banks of arrays written one after another: each holds its own values. -/
theorem vread_banks_own {vals : Nat → List (BitVec 32)} (hlen : ∀ i, (vals i).length = 64) (v : Vers (BitVec 32)) (st cyc p bank : Nat)
    {is : List Nat} {i e : Nat} (hi : i ∈ is) (he : e < 64) :
    vread 0 (is.foldl (fun v i => vwriteRun v st cyc (bankKey (arrayNo p i) bank 0 0) (vals i)) v) st (cyc + 1)
      (bankKey (arrayNo p i) bank 0 0 + e) = (vals i).getD e 0 :=
  read_foldl_of_mem (fun v : Vers (BitVec 32) => vread 0 v st (cyc + 1) (bankKey (arrayNo p i) bank 0 0 + e)) _ hi v
    (fun v => vread_vwriteRun_next 0 _ v st cyc _ (by rwa [hlen]))
    fun j _ hj v => vread_vwriteRun_of_outside 0 _ v st cyc _ _ _ _ (by rw [hlen]; exact bankKey_apart p hj.symm bank he)

theorem length_doneVals (s : State) (st p : Nat) (m : MmaRun) : (doneVals s st p m).length = 64 := by
  rw [doneVals, List.length_map, List.length_range]

theorem getD_doneVals (s : State) (st p : Nat) (m : MmaRun) {r e : Nat} (hr : r < 8) (he : e < 8) :
    (doneVals s st p m).getD (8 * r + e) 0 =
      if !m.acc && !(runElem s st p m r e (8 * m.kb)).2 then 0 else (runElem s st p m r e (8 * m.kb)).1 := by
  rw [doneVals, getD_map_range 0 _ (by omega), show (8 * r + e) / 8 = r by omega, show (8 * r + e) % 8 = e by omega]

/-- The share of array `i` in an MMA. -/
def newRun (cyc bank : Nat) (acc : Bool) (fa fb : Fmt) (ta tb : Bool) (aSlot bSlot kb i : Nat) : MmaRun :=
  { array := i, cycle := cyc, bank := bank, acc := acc, fmtA := fa, fmtB := fb, ta := ta, tb := tb, aSlot := aSlot, bSlot := bSlot, kb := kb }

/-- The first k-step of an array's share. -/
theorem ready_newRun (s : State) (st p : Nat) (whole : Bool) (cyc bank : Nat) (acc : Bool) (fa fb : Fmt) (ta tb : Bool) (aSlot bSlot kb i : Nat) :
    (newRun cyc bank acc fa fb ta tb aSlot bSlot kb i).ready s st p whole =
      (lanesReady s st (arrayNo p i) false fa aSlot cyc 0 (!ta) whole && lanesReady s st (arrayNo p i) true fb bSlot cyc 0 tb whole) := by
  simp only [MmaRun.ready, newRun, Nat.zero_div, Nat.add_zero, Nat.zero_mod]

section Turn

variable {s : State} {st p stall dry : Nat} {x : Step} {img : Image} {c : Ctx} {u : UnitSt} {ins : PierIns} {bank : Nat} {acc : Bool}
  {fa fb : Fmt} {ta tb : Bool} {aSlot bSlot kb : Nat}

/-- On its turn, on time and with nothing under way, MMA issues: each selected array has its share, and the pier's work goes forward. -/
theorem execMma_onTurn (h : PierTurn s st p x img c u ins) (hop : ins.op = .mma bank acc fa fb ta tb aSlot bSlot kb)
    (ht : OnTime img x u ins.cycle stall) (hm : u.mmas = []) :
    ∃ y, execMma st p stall dry s = .next (pierAdvance s img c y p) ∧ y.id = x.id ∧
      y.unit p = { u.issued stall dry with mmas := (maskArrays ins.mask).map (newRun ins.cycle bank acc fa fb ta tb aSlot bSlot kb) } ∧
      (∀ k, k ≠ p → y.unit k = x.unit k) ∧ nextCycle img y p = nextCycle img (x.setUnit p (u.issued stall dry)) p := by
  have hself : (x.setUnit p (u.issued stall dry)).unit p = u.issued stall dry := (unit_setUnit x p p _).trans (if_pos rfl)
  have hmmas : (u.issued stall dry).mmas = [] := hm
  refine ⟨issueMma (x.setUnit p (u.issued stall dry)) p ins.cycle ins.mask bank acc fa fb ta tb aSlot bSlot kb,
    pierTurn_issues h ht (overLag_of_mmas_nil hm _) (by simp only [hop]), rfl, ?_, fun k hk => ?_, nextCycle_mmas img _ p _⟩
  · refine (unit_setUnit _ p p _).trans ?_
    rw [if_pos rfl, hself, hmmas]
    rfl
  · refine (unit_setUnit _ p k _).trans ?_
    rw [if_neg hk, unit_setUnit, if_neg hk]

end Turn

/-- Settles O5: where every operand is valid each array runs to the end of its k-steps, and its bank takes the values that they build;
where no first operands are valid each array's share stays as it is. -/
theorem mmaAddsProductsInOrder : Obligations.MmaAddsProductsInOrder := by
  intro s st p stall dry x img c u ins bank acc fa fb ta tb aSlot bSlot kb hturn hop hkb htime hmmas hfills
  obtain ⟨y, hexec, hid, hunit, hothers, hnext⟩ := execMma_onTurn (dry := dry) hturn hop htime hmmas
  obtain ⟨z, hissued, hleft⟩ := pierAdvance_issued (s' := s) (img := img) (c := c) hturn.step rfl (hid.trans (id_of_stepOf hturn.step))
    (by rw [hunit]; exact ⟨rfl, rfl, rfl⟩) hothers
  obtain rfl : x.id = st := id_of_stepOf hturn.step
  have hdel := delivered_of_fills_nil (s := s) (img := img) (c := c) (x := y) (p := p) (by rw [hunit]; exact hfills)
  have hfired : fired s img c y p = ((maskArrays ins.mask).map (newRun ins.cycle bank acc fa fb ta tb aSlot bSlot kb)).foldl
      (runMma x.id p img.zeroSkip (nextCycle img (x.setUnit p (u.issued stall dry)) p)) (s, { y.unit p with fills := [] }, [], 0) := by
    rw [fired, hdel, hnext, hid, hunit]
  have hpm := pierAdvance_pm s img c y p
  rw [hdel] at hpm
  constructor
  case left =>
    intro hdue hready
    obtain ⟨hnone, hbank⟩ := foldl_runMma_runs (whole := img.zeroSkip) (lim := nextCycle img (x.setUnit p (u.issued stall dry)) p)
      (q := (s, { y.unit p with fills := [] }, [], 0)) ((maskArrays ins.mask).map (newRun ins.cycle bank acc fa fb ta tb aSlot bSlot kb))
      (fun m hm => by
        obtain ⟨i, hi, rfl⟩ := List.mem_map.mp hm
        exact ⟨⟨rfl, rfl, hkb, fun j hj => Bool.and_eq_true_iff.mpr (hready i hi j hj), hdue⟩, rfl⟩)
      (⟨rfl, rfl, rfl, fun _ => rfl⟩ : SameOperands x.id ins.cycle s s) rfl
    rw [← hfired] at hnone hbank
    rw [List.foldl_map] at hbank
    have hbanks : (pierAdvance s img c y p).pm.bank = (maskArrays ins.mask).foldl (fun v i =>
        vwriteRun v x.id (ins.cycle + 8 * kb - 1) (bankKey (arrayNo p i) bank 0 0)
          (doneVals s x.id p (newRun ins.cycle bank acc fa fb ta tb aSlot bSlot kb i))) s.pm.bank := by
      rw [hpm]
      exact hbank
    have hlen := fun i => length_doneVals s x.id p (newRun ins.cycle bank acc fa fb ta tb aSlot bSlot kb i)
    refine ⟨_, z, hexec, hissued, (pierAdvance_frame s img c y p).onlyDies, hleft.trans hnone, by rw [hpm], fun i hi r hr e he => ?_,
      fun st' cyc' k hk => ?_⟩
    · have hlast : ins.cycle + 8 * kb = ins.cycle + 8 * kb - 1 + 1 := by omega
      have hkey : bankKey (arrayNo p i) bank r e = bankKey (arrayNo p i) bank 0 0 + (8 * r + e) := by simp only [bankKey]; omega
      rw [hlast, hkey, hbanks, vread_banks_own hlen s.pm.bank x.id (ins.cycle + 8 * kb - 1) p bank hi (by omega)]
      exact getD_doneVals s x.id p (newRun ins.cycle bank acc fa fb ta tb aSlot bSlot kb i) hr he
    · rw [hbanks]
      exact vread_foldl_vwriteRun_of_outside 0 (fun i => bankKey (arrayNo p i) bank 0 0) _ _ _ _ _ _ _ _ fun i hi => by
        rw [hlen]
        exact hk i hi
  case right =>
    intro hwait
    obtain ⟨hstate, hstay⟩ := foldl_runMma_waits (st := x.id) (p := p) (whole := img.zeroSkip)
      (lim := nextCycle img (x.setUnit p (u.issued stall dry)) p) (q := (s, { y.unit p with fills := [] }, [], 0))
      ((maskArrays ins.mask).map (newRun ins.cycle bank acc fa fb ta tb aSlot bSlot kb)) fun m hm => by
        obtain ⟨i, hi, rfl⟩ := List.mem_map.mp hm
        exact ⟨rfl, hkb, by rw [ready_newRun]; exact Bool.and_eq_false_iff.mpr (hwait i hi)⟩
    rw [← hfired] at hstate hstay
    have hz : (z.unit p).mmas = (maskArrays ins.mask).map (newRun ins.cycle bank acc fa fb ta tb aSlot bSlot kb) := hleft.trans hstay
    refine ⟨_, z, hexec, hissued, ?_, ?_, fun m hm => ?_⟩
    · rw [pierAdvance_eq, hstate]
      exact (setStep_frame s _).onlySteps
    · rw [hz, List.map_map]
      exact List.map_id _
    · rw [hz] at hm
      obtain ⟨i, -, rfl⟩ := List.mem_map.mp hm
      rfl

end Sys2Proof.MatrixProducts


/-! PROOFS of the array family, writes of a step to stacked memory (R235, R236): they pass through the write-combining buffers, and the
step reads them back from the next nominal cycle on. -/

namespace Sys2Proof.StackedWrites

open Sys2Proof.Machine Sys2Proof.Laws Sys2Proof.StationResults Sys2Proof.DieMemories

/-! ### Write combining with nothing poisoned (R236 to R239) -/

/-- Between the states the buffers of the stacks alone changed. -/
def OnlyBuffers (s t : State) : Prop := t = { s with sm := { s.sm with stk := t.sm.stk } }

theorem OnlyBuffers.refl (s : State) : OnlyBuffers s s := rfl

theorem OnlyBuffers.trans {s t u : State} (h : OnlyBuffers s t) (k : OnlyBuffers t u) : OnlyBuffers s u := by
  unfold OnlyBuffers at *
  rw [k, h]

theorem OnlyBuffers.poison {s t : State} (h : OnlyBuffers s t) : t.sm.poison = s.sm.poison := by rw [h]

theorem setStack_onlyBuffers (s : State) (b : Nat) (k : Stack) : OnlyBuffers s (setStack s b k) := rfl

theorem cleanCws_of_poison_nil {s : State} (h : s.sm.poison = []) (cs : List Nat) : cleanCws s cs = s := by
  rw [cleanCws, h, List.filter_nil, ← h]

theorem checkLines_of_poison_nil {s : State} (h : s.sm.poison = []) (pa : Nat) (src : MemSource) : checkLines s [pa] [.ok] src = (s, none) := by
  have hp : linePoisoned s pa = false := by rw [linePoisoned, h]; rfl
  show checkLine [.ok] src (s, none) (0, pa) = _
  unfold checkLine
  rw [hp]
  rfl

section Combining

variable {s : State} (h : s.sm.poison = [])

include h

theorem wcOut_onlyBuffers (b : Nat) (e : WcEntry) : OnlyBuffers s (wcOut s b e .ok) := by
  have hd : (wcDrop s b e.line).sm.poison = [] := h
  have hb : OnlyBuffers s (wcDrop s b e.line) := setStack_onlyBuffers _ _ _
  unfold wcOut
  dsimp only
  split
  · rwa [cleanCws_of_poison_nil hd]
  · rwa [show Ecc.alone .ok = .ok from rfl, checkLines_of_poison_nil hd]

theorem wcOut_setStack_onlyBuffers (b b' : Nat) (k : Stack) (e : WcEntry) : OnlyBuffers s (wcOut (setStack s b k) b' e .ok) :=
  (setStack_onlyBuffers s b k).trans (wcOut_onlyBuffers (s := setStack s b k) h b' e)

theorem wcRoom_onlyBuffers (b share : Nat) (st : Option Nat) : OnlyBuffers s (wcRoom s b share st .ok) := by
  unfold wcRoom
  dsimp only
  split
  · split
    · exact wcOut_onlyBuffers h _ _
    · exact .refl s
  · split
    · split
      · exact wcOut_onlyBuffers h _ _
      · exact .refl s
    · exact .refl s

/-- The entry of a line that a write opens. -/
theorem wcOpen_onlyBuffers (there : Bool) (b share : Nat) (st : Option Nat) (e : WcEntry) :
    OnlyBuffers s (if there then s else setStack (wcRoom s b share st .ok) b
      { stackOf (wcRoom s b share st .ok) b with wc := (stackOf (wcRoom s b share st .ok) b).wc ++ [e] }) := by
  split
  · exact .refl s
  · exact (wcRoom_onlyBuffers h b share st).trans (setStack_onlyBuffers _ _ _)

theorem wcWrite_onlyBuffers (pa : Nat) (bs : Bytes) (ctx : Nat) (st : Option Nat) (share : Nat) :
    OnlyBuffers s (wcWrite s pa bs ctx st share .ok) := by
  have hopen := wcOpen_onlyBuffers h ((stackOf s (paStack pa)).wc.any fun e => decide (e.line = pa / 128)) (paStack pa) share st
    ⟨pa / 128, 0, 0, ctx, st⟩
  unfold wcWrite
  dsimp only
  split
  · exact hopen
  · split
    · exact hopen.trans (wcOut_setStack_onlyBuffers (hopen.poison.trans h) _ _ _ _)
    · exact hopen.trans (setStack_onlyBuffers _ _ _)

end Combining

/-! ### Writes of a rank within the nominal cycle (R235) -/

section Ranks

variable {α : Type}

/-- No write of a step at a nominal cycle ranks above `rank`. -/
def RankedBelow (st cyc rank : Nat) (l : List (WriteRec α)) : Prop := ∀ w ∈ l, w.step = st → w.cycle = cyc → w.rank ≤ rank

theorem ranked_eq_append {l : List (WriteRec α)} {w : WriteRec α} (h : RankedBelow w.step w.cycle w.rank l) : ranked w l = l ++ [w] := by
  induction l with
  | nil => rfl
  | cons e l ih =>
    have he : ¬ (e.step = w.step ∧ e.addr = w.addr ∧ e.cycle = w.cycle ∧ w.rank < e.rank) := by
      rintro ⟨h1, -, h2, h3⟩
      exact absurd (h e (List.mem_cons_self ..) h1 h2) (Nat.not_le.mpr h3)
    rw [ranked, if_neg he, ih fun v hv => h v (List.mem_cons_of_mem _ hv), List.cons_append]

theorem RankedBelow.append {st cyc rank a : Nat} {l : List (WriteRec α)} (h : RankedBelow st cyc rank l) (x : α) :
    RankedBelow st cyc rank (l ++ [⟨st, cyc, a, x, rank⟩]) := by
  intro w hw hs hc
  rcases List.mem_append.mp hw with hw | hw
  · exact h w hw hs hc
  · rw [List.mem_singleton.mp hw]

/-- A run of writes that outranks the others of its nominal cycle: its first write is logged last of all so far. -/
theorem vputRun_cons {v : Vers α} {st cyc rank : Nat} (h : RankedBelow st (cyc + 1) rank v.log) (a : Nat) (x : α) (xs : List α) :
    vputRun v st cyc rank a (x :: xs) =
      vputRun { v with log := v.log ++ [⟨st, cyc + 1, a, x, rank⟩] } st cyc rank (a + 1) xs := by
  rw [vputRun, ranked_eq_append h]

theorem rankedBelow_vputRun {v : Vers α} {st cyc rank : Nat} (h : RankedBelow st (cyc + 1) rank v.log) (a : Nat) (xs : List α) :
    RankedBelow st (cyc + 1) rank (vputRun v st cyc rank a xs).log := by
  induction xs generalizing v a with
  | nil => exact h
  | cons x xs ih =>
    rw [vputRun_cons h]
    exact ih (h.append x) _

theorem vread_append_of_ne (d : α) (v : Vers α) {w : WriteRec α} (st cyc : Nat) {a : Nat} (h : a ≠ w.addr) :
    vread d { v with log := v.log ++ [w] } st cyc a = vread d v st cyc a := by
  have hn : ¬ (w.step = st ∧ w.addr = a ∧ w.cycle ≤ cyc) := fun hw => h hw.2.1.symm
  simp only [vread, vlast_append, vlast, hn, decide_false, Bool.false_and, if_false, Bool.false_eq_true]

theorem vread_vputRun_of_outside (d : α) {v : Vers α} {st cyc rank : Nat} (h : RankedBelow st (cyc + 1) rank v.log) (xs : List α) {a : Nat}
    (st' cyc' : Nat) {q : Nat} (hq : ∀ i < xs.length, a + i ≠ q) :
    vread d (vputRun v st cyc rank a xs) st' cyc' q = vread d v st' cyc' q := by
  induction xs generalizing v a with
  | nil => rfl
  | cons x xs ih =>
    rw [vputRun_cons h, ih (h.append x) fun i hi => by have := hq (i + 1) (Nat.succ_lt_succ hi); omega]
    exact vread_append_of_ne d v st' cyc' (hq 0 (Nat.succ_pos _)).symm

/-- A run of writes that outranks the others of its nominal cycle reads back in the next one. -/
theorem vread_vputRun_next (d : α) {v : Vers α} {st cyc rank : Nat} (h : RankedBelow st (cyc + 1) rank v.log) (xs : List α) (a : Nat) {k : Nat}
    (hk : k < xs.length) : vread d (vputRun v st cyc rank a xs) st (cyc + 1) (a + k) = xs.getD k d := by
  induction xs generalizing v a k with
  | nil => cases hk
  | cons x xs ih =>
    rw [vputRun_cons h]
    cases k with
    | zero =>
      rw [vread_vputRun_of_outside d (h.append x) xs st (cyc + 1) fun i _ => by omega]
      exact vread_append_next d v st cyc a x rank
    | succ k =>
      rw [show a + (k + 1) = a + 1 + k by omega, ih (h.append x) _ (Nat.lt_of_succ_lt_succ hk)]
      rfl

end Ranks

/-! ### Where a virtual address lies (R248, R375) -/

/-- Where a byte of a context's stacked-memory range goes. -/
def placeOf (s : State) (c : Ctx) (va : Nat) : Option Nat := (paOf c va).map (resolve s)

section Places

variable {s : State} {c : Ctx} {a i j q : Nat}

/-- Addresses of one line move to a spare together. -/
theorem resolve_add (s : State) {pa e : Nat} (h : pa % 128 + e < 128) : resolve s (pa + e) = resolve s pa + e := by
  have hs : paStack (pa + e) = paStack pa := by
    simp only [paStack, fld, Nat.shiftRight_eq_div_pow]
    rw [show (pa + e) / 2 ^ 12 = pa / 2 ^ 12 by omega, show (pa + e) / 2 ^ 15 = pa / 2 ^ 15 by omega]
  have hg : paGranule (pa + e) = paGranule pa := by
    simp only [paGranule, fld, Nat.shiftRight_eq_div_pow]
    rw [show (pa + e) / 2 ^ 19 = pa / 2 ^ 19 by omega]
  unfold resolve
  rw [hs, hg]
  cases kfind s.store.retired (granKey (paStack pa) (paGranule pa)) with
  | none => rfl
  | some k => dsimp only; omega

theorem placeOf_add (s : State) (c : Ctx) {a e : Nat} (h : a % 128 + e < 128) : placeOf s c (a + e) = (placeOf s c a).map (· + e) := by
  unfold placeOf paOf
  rw [show (a + e) / 2097152 = a / 2097152 by omega]
  cases kfind c.pageMap (a / 2097152) with
  | none => rfl
  | some f =>
    simp only [Option.map_some]
    rw [show f * 2097152 + (a + e) % 2097152 = f * 2097152 + a % 2097152 + e by omega, resolve_add s (by omega)]

/-- A byte keeps its offset within the granule. -/
theorem placeOf_mod (h : placeOf s c a = some q) : q % 524288 = a % 524288 := by
  obtain ⟨pa, hpa, rfl⟩ := Option.map_eq_some_iff.mp h
  obtain ⟨f, -, rfl⟩ := Option.map_eq_some_iff.mp hpa
  unfold resolve
  split <;> omega

/-- Distinct bytes of a short run go to distinct places. -/
theorem placeOf_ne (hq : placeOf s c (a + i) = some q) (hi : i < 524288) (hj : j < 524288) (h : i ≠ j) : placeOf s c (a + j) ≠ some q := by
  intro hq'
  have := placeOf_mod hq
  have := placeOf_mod hq'
  omega

end Places

/-! ### The runs of a write, line by line (R236) -/

/-- One run of a write, within one line: it is logged, and enters the write-combining buffer. -/
def storeRun (img : Image) (c : Ctx) (x : Step) (cyc rank : Nat) (s : State) (r : Nat × Bytes) : State :=
  match paOf c r.1 with
  | none => s
  | some pa =>
    let pa := resolve s pa
    let s := { s with sm := { s.sm with mem := vputRun s.sm.mem x.id cyc rank pa r.2 } }
    wcWrite s pa r.2 x.ctx (some x.id) (wcShare img (paStack pa)) .ok

theorem storeVa_eq (s : State) (img : Image) (c : Ctx) (x : Step) (cyc rank va : Nat) (bs : Bytes) :
    storeVa s img c x cyc rank va bs .ok = (lineRuns (bs.length / 128 + 2) va bs).foldl (storeRun img c x cyc rank) s := rfl

theorem lineRuns_nil (fuel a : Nat) : lineRuns fuel a [] = [] := by cases fuel <;> rfl

theorem lineRuns_succ (fuel a : Nat) {b : Bytes} (h : b ≠ []) :
    lineRuns (fuel + 1) a b = (a, b.take (128 - a % 128)) :: lineRuns fuel (a + (128 - a % 128)) (b.drop (128 - a % 128)) := by
  cases b with
  | nil => exact absurd rfl h
  | cons => rfl

/-- From `s` to `t` a step has written at nominal cycle `cyc` with a rank that no write of that cycle exceeds; addresses go where they went,
nothing is poisoned, and what stood in memory at its admission is as it was. -/
structure Wrote (s : State) (st cyc rank : Nat) (t : State) : Prop where
  rest : t = { s with sm := t.sm }
  poison : t.sm.poison = []
  base : t.sm.mem.base = s.sm.mem.base
  ranks : RankedBelow st (cyc + 1) rank t.sm.mem.log

section Runs

variable {s t : State} {img : Image} {c : Ctx} {x : Step} {cyc rank : Nat}

theorem Wrote.resolve_eq (h : Wrote s x.id cyc rank t) : resolve t = resolve s := by
  funext pa
  rw [resolve, h.rest]
  rfl

theorem Wrote.placeOf_eq (h : Wrote s x.id cyc rank t) (c : Ctx) (a : Nat) : placeOf t c a = placeOf s c a := by
  rw [placeOf, h.resolve_eq]
  rfl

/-- A run whose line is not mapped writes nothing. -/
theorem storeRun_of_unmapped {r : Nat × Bytes} (h : placeOf t c r.1 = none) : storeRun img c x cyc rank t r = t := by
  unfold storeRun
  rw [Option.map_eq_none_iff.mp h]

/-- A run whose line is mapped is logged where the line lies. -/
theorem storeRun_mem (hp : t.sm.poison = []) {r : Nat × Bytes} {q : Nat} (h : placeOf t c r.1 = some q) :
    ∃ stk, storeRun img c x cyc rank t r = { t with sm := { t.sm with mem := vputRun t.sm.mem x.id cyc rank q r.2, stk := stk } } := by
  obtain ⟨pa, hpa, rfl⟩ := Option.map_eq_some_iff.mp h
  unfold storeRun
  rw [hpa]
  exact ⟨_, wcWrite_onlyBuffers (s := { t with sm := { t.sm with mem := vputRun t.sm.mem x.id cyc rank (resolve t pa) r.2 } }) hp
    (resolve t pa) r.2 x.ctx (some x.id) (wcShare img (paStack (resolve t pa)))⟩

theorem Wrote.storeRun (h : Wrote s x.id cyc rank t) (r : Nat × Bytes) : Wrote s x.id cyc rank (storeRun img c x cyc rank t r) := by
  cases hq : placeOf t c r.1 with
  | none => rwa [storeRun_of_unmapped hq]
  | some q =>
    obtain ⟨stk, hstk⟩ := storeRun_mem (img := img) (x := x) (cyc := cyc) (rank := rank) h.poison hq
    rw [hstk]
    exact ⟨by rw [h.rest], h.poison, (vputRun_base ..).trans h.base, rankedBelow_vputRun h.ranks _ _⟩

theorem Wrote.foldl (h : Wrote s x.id cyc rank t) (rs : List (Nat × Bytes)) :
    Wrote s x.id cyc rank (rs.foldl (StackedWrites.storeRun img c x cyc rank) t) := by
  induction rs generalizing t with
  | nil => exact h
  | cons r rs ih => exact ih (h.storeRun r)

/-- Places that no byte of a run goes to keep their values. -/
theorem storeRun_unseen (h : Wrote s x.id cyc rank t) {a : Nat} {b : Bytes} (hb : a % 128 + b.length ≤ 128) {q : Nat}
    (hq : ∀ i < b.length, placeOf s c (a + i) ≠ some q) :
    vread 0 (storeRun img c x cyc rank t (a, b)).sm.mem x.id (cyc + 1) q = vread 0 t.sm.mem x.id (cyc + 1) q := by
  cases hp : placeOf t c a with
  | none => rw [storeRun_of_unmapped hp]
  | some p =>
    obtain ⟨stk, hstk⟩ := storeRun_mem (r := (a, b)) (img := img) (x := x) (cyc := cyc) (rank := rank) h.poison hp
    rw [hstk]
    refine vread_vputRun_of_outside 0 h.ranks b _ _ fun i hi he => hq i hi ?_
    rw [placeOf_add s c (by omega), ← h.placeOf_eq, hp, Option.map_some, he]

/-- The bytes of a run read back. -/
theorem storeRun_own (h : Wrote s x.id cyc rank t) {a : Nat} {b : Bytes} (hb : a % 128 + b.length ≤ 128) {e q : Nat} (he : e < b.length)
    (hq : placeOf s c (a + e) = some q) :
    vread 0 (storeRun img c x cyc rank t (a, b)).sm.mem x.id (cyc + 1) q = b.getD e 0 := by
  rw [placeOf_add s c (by omega), ← h.placeOf_eq] at hq
  obtain ⟨p, hp, rfl⟩ := Option.map_eq_some_iff.mp hq
  obtain ⟨stk, hstk⟩ := storeRun_mem (r := (a, b)) (img := img) (x := x) (cyc := cyc) (rank := rank) h.poison hp
  rw [hstk]
  exact vread_vputRun_next 0 h.ranks b p he

/-- Places that no byte of a write goes to keep their values. -/
theorem lineRuns_unseen (h : Wrote s x.id cyc rank t) (fuel : Nat) {a : Nat} {b : Bytes} {q : Nat}
    (hq : ∀ i < b.length, placeOf s c (a + i) ≠ some q) :
    vread 0 ((lineRuns fuel a b).foldl (storeRun img c x cyc rank) t).sm.mem x.id (cyc + 1) q = vread 0 t.sm.mem x.id (cyc + 1) q := by
  induction fuel generalizing a b t with
  | zero => rfl
  | succ fuel ih =>
    by_cases hb : b = []
    · rw [hb, lineRuns_nil]; rfl
    · rw [lineRuns_succ fuel a hb, List.foldl_cons, ih (h.storeRun _) fun i hi => ?rest]
      · exact storeRun_unseen h (by rw [List.length_take]; omega) fun i hi => hq i (by rw [List.length_take] at hi; omega)
      case rest =>
        rw [List.length_drop] at hi
        rw [Nat.add_assoc]
        exact hq _ (by omega)

/-- The bytes of a short write read back. -/
theorem lineRuns_own (h : Wrote s x.id cyc rank t) {fuel a : Nat} {b : Bytes} (hf : a % 128 + b.length ≤ 128 * fuel) (hl : b.length ≤ 524288)
    {e q : Nat} (he : e < b.length) (hq : placeOf s c (a + e) = some q) :
    vread 0 ((lineRuns fuel a b).foldl (storeRun img c x cyc rank) t).sm.mem x.id (cyc + 1) q = b.getD e 0 := by
  induction fuel generalizing a b e t with
  | zero => omega
  | succ fuel ih =>
    have hb : b ≠ [] := List.ne_nil_of_length_pos (by omega)
    rw [lineRuns_succ fuel a hb, List.foldl_cons]
    by_cases hn : e < 128 - a % 128
    · rw [lineRuns_unseen (h.storeRun _) fuel fun i hi => ?later, storeRun_own h (by rw [List.length_take]; omega)
        (by rw [List.length_take]; omega) hq]
      · simp [List.getD, hn]
      case later =>
        rw [List.length_drop] at hi
        rw [Nat.add_assoc]
        exact placeOf_ne hq (by omega) (by omega) (by omega)
    · rw [ih (h.storeRun _) (e := e - (128 - a % 128)) (by rw [List.length_drop]; omega) (by rw [List.length_drop]; omega)
        (by rw [List.length_drop]; omega) (by rw [← hq]; congr 1; omega)]
      simp [List.getD, List.getElem?_drop, show 128 - a % 128 + (e - (128 - a % 128)) = e by omega]

end Runs

section Write

variable {s : State} {x : Step} {cyc rank : Nat} (img : Image) (c : Ctx) (va : Nat) (bs : Bytes)

/-- With nothing poisoned a write changes stacked memory alone. -/
theorem storeVa_wrote (hp : s.sm.poison = []) (hr : RankedBelow x.id (cyc + 1) rank s.sm.mem.log) :
    Wrote s x.id cyc rank (storeVa s img c x cyc rank va bs .ok) := by
  rw [storeVa_eq]
  exact Wrote.foldl ⟨rfl, hp, rfl, hr⟩ _

/-- Each byte of a write of mapped addresses reads back from the next nominal cycle on (R235). -/
theorem readVa_storeVa (hp : s.sm.poison = []) (hr : RankedBelow x.id (cyc + 1) rank s.sm.mem.log) (hl : bs.length ≤ 524288) {e : Nat}
    (he : e < bs.length) (hm : (paOf c (va + e)).isSome = true) :
    readVa (storeVa s img c x cyc rank va bs .ok) c x.id (cyc + 1) (va + e) 1 = [bs.getD e 0] := by
  have hw := storeVa_wrote img c va bs hp hr
  obtain ⟨pa, hpa⟩ := Option.isSome_iff_exists.mp hm
  have hread := lineRuns_own (img := img) (x := x) (⟨rfl, hp, rfl, hr⟩ : Wrote s x.id cyc rank s)
    (fuel := bs.length / 128 + 2) (by omega) hl he (show placeOf s c (va + e) = some (resolve s pa) by rw [placeOf, hpa]; rfl)
  rw [← storeVa_eq] at hread
  show [match paOf c (va + e + 0) with
    | some pa => vread 0 (storeVa s img c x cyc rank va bs .ok).sm.mem x.id (cyc + 1) (resolve (storeVa s img c x cyc rank va bs .ok) pa)
    | none => 0] = _
  rw [Nat.add_zero, hpa]
  dsimp only
  rw [hw.resolve_eq, hread]

end Write

end Sys2Proof.StackedWrites


/-! PROOFS of the array family, flits that land (O17): in a tile store, in a local store, in stacked memory and in staging. -/

namespace Sys2Proof.Arrivals

open Sys2Proof.Machine Sys2Proof.Safety Sys2Proof.Laws Sys2Proof.StationResults Sys2Proof.DieMemories Sys2Proof.PierTurns
  Sys2Proof.LineWrites Sys2Proof.StackedWrites

theorem settle_inbound (s : State) (x : Step) : (settle s x).inbound = x.inbound := by
  rcases settle_eq s x with h | ⟨-, h⟩
  · rw [h]
  · rw [h]

theorem settle_staged (s : State) (x : Step) : (settle s x).staged = x.staged := by
  rcases settle_eq s x with h | ⟨-, h⟩
  · rw [h]
  · rw [h]

/-! ### Where a flit goes (R134) -/

section Destinations

variable {s : State} {st desc : Nat} {x : Step} {img : Image} {c : Ctx} {d : Desc}

/-- Flits of a stream of a step whose units are at work. -/
structure Arriving (s : State) (st desc : Nat) (x : Step) (img : Image) (c : Ctx) (d : Desc) : Prop where
  step : stepOf s st = some x
  working : x.state.working = true
  ctx : ctxOf s x.ctx = some c
  image : kfind c.images x.slot = some img
  desc : descOf img x desc = some d

/-- The landing of flits at each destination; only a stream that the image writes is carried to its storage. -/
def landing (s : State) (desc : Nat) (x : Step) (img : Image) (c : Ctx) (d : Desc) : DeckDest → Host.Outcome State Fault Refusal
  | .pier p => .next (landPier s img c x desc p d)
  | .loc sp => if d.space = 1 ∧ d.span = sp then .next (landLocal s img x desc d) else .next s
  | .memory ecc => if d.space = 0 ∧ img.writes.contains desc then .next (landMemory s img c x desc d ecc) else .next s

theorem execDeckArrival_eq (h : Arriving s st desc x img c d) (dest : DeckDest) :
    exec (.deckArrival st desc dest) s = landing s desc x img c d dest := by
  have himg : imageOf s x = some img := by rw [imageOf, h.ctx, Option.bind_some, h.image]
  show execDeckArrival st desc dest s = _
  unfold execDeckArrival
  rw [h.step]
  dsimp only
  rw [h.ctx, himg]
  dsimp only
  rw [h.desc]
  dsimp only
  rw [h.working, Bool.not_true, if_neg Bool.false_ne_true]
  rfl

theorem execDeckArrival_pier (h : Arriving s st desc x img c d) (p : Nat) :
    exec (.deckArrival st desc (.pier p)) s = .next (landPier s img c x desc p d) := execDeckArrival_eq h _

theorem execDeckArrival_loc (h : Arriving s st desc x img c d) (hd : d.space = 1) :
    exec (.deckArrival st desc (.loc d.span)) s = .next (landLocal s img x desc d) :=
  (execDeckArrival_eq h _).trans (if_pos ⟨hd, rfl⟩)

theorem execDeckArrival_memory (h : Arriving s st desc x img c d) (hd : d.space = 0) (hw : img.writes.contains desc = true) (ecc : Ecc) :
    exec (.deckArrival st desc (.memory ecc)) s = .next (landMemory s img c x desc d ecc) :=
  (execDeckArrival_eq h _).trans (if_pos ⟨hd, hw⟩)

end Destinations

/-! ### Tile stores (R80, R100, R134) -/

section TileStore

variable {s : State} {img : Image} {c : Ctx} {x : Step} {w : Inbound} {d : Desc} {bs : Nat → Bytes}

/-- The dies once the first `n` blocks of a transfer have landed. -/
def landBlocks (pm : PierMem) (img : Image) (c : Ctx) (x : Step) (w : Inbound) (d : Desc) (bs : Nat → Bytes) (n : Nat) : PierMem :=
  (List.range n).foldl (fun pm j => landBlock pm img c x w d j (bs j)) pm

/-- A transfer of which every block is delivered lands whole. -/
theorem landAll_eq (h0 : w.landed = 0) (hb : ∀ j < w.blocks, sourceBlock s img x w.desc d w.cycle (w.first + j) = some (bs j)) :
    landAll s img c x w d = (landBlocks s.pm img c x w d bs w.blocks, w.blocks) := by
  have hgo : ∀ n ≤ w.blocks, (List.range n).foldl (fun p j =>
      if j = p.2 then
        match (if j < w.landed then none else sourceBlock s img x w.desc d w.cycle (w.first + j)) with
        | some b => (landBlock p.1 img c x w d j b, j + 1)
        | none => if j < w.landed then (p.1, j + 1) else p
      else p) (s.pm, 0) = (landBlocks s.pm img c x w d bs n, n) := by
    intro n hn
    induction n with
    | zero => rfl
    | succ n ih =>
      rw [List.range_succ, List.foldl_append, ih (by omega), List.foldl_cons, List.foldl_nil, if_pos rfl, h0, if_neg (Nat.not_lt_zero _),
        hb n (by omega), landBlocks, landBlocks, List.range_succ, List.foldl_append]
      rfl
  exact hgo w.blocks le_rfl

theorem landBlocks_eq (pm : PierMem) (n : Nat) : ∃ ti ze, landBlocks pm img c x w d bs n = { pm with tile := ti, zero := ze } :=
  List.foldlRecOn (motive := fun q => ∃ ti ze, q = { pm with tile := ti, zero := ze }) _ _ ⟨_, _, rfl⟩ fun _ ⟨_, _, hq⟩ j _ => by
    obtain ⟨_, _, h⟩ := putLines_eq (n := blockLines d.fmt) (pm := { pm with tile := _, zero := _ }) (img := img) (c := c) (st := x.id)
      (cyc := w.cycle) (p := w.pier) (f := d.fmt) (addr := w.line + moveLine img d w.first j) (b := bs j)
    exact ⟨_, _, by rw [hq, landBlock_eq_putLines, h]⟩

/-- Bytes of no line that a block takes keep their values. -/
theorem landBlocks_tile_unseen (pm : PierMem) (n st' cyc' k : Nat) (h : ∀ j < n, ∀ l < d.fmt.size,
      ¬ (lineKey w.pier (residentLine img c w.pier (w.line + moveLine img d w.first j + l)) ≤ k ∧
        k < lineKey w.pier (residentLine img c w.pier (w.line + moveLine img d w.first j + l)) + 64)) :
    vread 0 (landBlocks pm img c x w d bs n).tile st' cyc' k = vread 0 pm.tile st' cyc' k :=
  read_foldl_of_unseen (fun pm : PierMem => vread 0 pm.tile st' cyc' k) _ _ pm fun j hj pm =>
    putLines_tile_unseen pm img c x.id w.cycle w.pier d.fmt _ (bs j) st' cyc' k (h j (List.mem_range.mp hj))

/-- The shadow ranges noted are all that changes. -/
theorem inboundShadows_eq (img : Image) (x : Step) (w : Inbound) (d : Desc) : ∃ l, inboundShadows img x w d = { x with shadowRanges := l } :=
  List.foldlRecOn (motive := fun q => ∃ l, q = { x with shadowRanges := l }) _ _ ⟨_, rfl⟩ fun _ ⟨_, hq⟩ _ _ => ⟨_, by rw [hq]; rfl⟩

/-- A transfer that lands whole is forgotten, and the dies hold its blocks. -/
theorem landPier_of_delivered {st desc p : Nat} (hx : stepOf s st = some x)
    (hw : (x.inbound.find? fun w => decide (w.pier = p ∧ w.desc = desc)) = some w) (h0 : w.landed = 0) (hpos : 0 < w.blocks)
    (hb : ∀ j < w.blocks, sourceBlock s img x desc d w.cycle (w.first + j) = some (bs j)) (hm : (x.unit p).mmas = [])
    (hf : (x.unit p).fills = []) (h3 : bindOf img 3 desc = none) :
    ∃ y, stepOf (landPier s img c x desc p d) st = some y ∧ OnlyDies s (landPier s img c x desc p d) ∧
      (landPier s img c x desc p d).pm = landBlocks s.pm img c x w d bs w.blocks ∧ y.inbound = x.inbound.erase w := by
  have hdesc : w.desc = desc := (of_decide_eq_true (List.find?_some (p := fun w : Inbound => decide (w.pier = p ∧ w.desc = desc)) hw)).2
  have hid : x.id = st := id_of_stepOf hx
  obtain ⟨l, hl⟩ := inboundShadows_eq img { x with activity := { x.activity with deck := x.activity.deck + (w.blocks - w.landed) } } w d
  have hland : landPier s img c x desc p d = setStep { s with pm := landBlocks s.pm img c x w d bs w.blocks }
      (({ x with activity := { x.activity with deck := x.activity.deck + (w.blocks - w.landed) }, shadowRanges := l,
                 inbound := x.inbound.erase w } : Step).setUnit p (x.unit p)) := by
    unfold landPier
    rw [hw]
    dsimp only
    rw [landAll_eq h0 (by rwa [hdesc])]
    dsimp only
    rw [if_neg (by omega), hl]
    dsimp only
    rw [if_pos le_rfl, h3]
    exact pierAdvance_idle hm hf
  rw [hland]
  refine ⟨_, stepOf_setStep_self hx hid, ?_, rfl, settle_inbound _ _⟩
  exact Frame.onlyDies ((setStep_frame _ _).after (by decide) (Frame.upd rfl (Frame.refl _ _)))

end TileStore

/-! ### Local stores (R134) -/

section LocalStore

variable {s : State} {st desc : Nat} {x : Step} {img : Image} {d : Desc}

theorem landLocal_memPos (hx : stepOf s st = some x) :
    ∃ y, stepOf (landLocal s img x desc d) st = some y ∧ (y.stream desc).memPos = (x.stream desc).blocks.length := by
  have hid : x.id = st := id_of_stepOf hx
  refine ⟨_, stepOf_setStep_self hx hid, ?_⟩
  rw [settle_stream, stream_setStream, if_pos rfl]

/-- The last block of a stream stands in the local store after it has landed. -/
theorem landLocal_last {k : Nat} {b : StreamBlock} (hx : stepOf s st = some x) (hk : (x.stream desc).blocks.length = k + 1)
    (hp : (x.stream desc).memPos ≤ k) (hb : (x.stream desc).blocks[k]? = some b) {e : Nat} (he : e < b.bytes.length) :
    vread 0 (landLocal s img x desc d).pm.loc st (b.cycle + 1) (locBase d.span + blockAddr img d k + e) = b.bytes.getD e 0 := by
  obtain rfl : x.id = st := id_of_stepOf hx
  have hlast : ((List.range (x.stream desc).blocks.length).filter fun k => decide ((x.stream desc).memPos ≤ k)) =
      (List.range k).filter (fun k => decide ((x.stream desc).memPos ≤ k)) ++ [k] := by
    rw [hk, List.range_succ, List.filter_append, List.filter_singleton, decide_eq_true hp, cond_true]
  unfold landLocal
  dsimp only [setStep]
  rw [hlast, List.foldl_append, List.foldl_cons, List.foldl_nil, hb]
  exact vread_vwriteRun_next 0 _ _ _ _ _ he

end LocalStore

/-! ### Stacked memory (R134, R235) -/

section StackedMemory

variable {s : State} {st desc : Nat} {x : Step} {img : Image} {c : Ctx} {d : Desc} {b : StreamBlock}

/-- The step once a block of a stream has left for stacked memory. -/
def sentOne (x : Step) (desc : Nat) : Step :=
  let y := x.setStream desc { x.stream desc with memPos := (x.stream desc).memPos + 1 }
  { y with activity := { y.activity with memory := y.activity.memory + 1 } }

theorem landMemory_eq_storeVa (ecc : Ecc) (h2 : bindOf img 2 desc = none) (hb : (x.stream desc).blocks[(x.stream desc).memPos]? = some b)
    (ha : blockAddr img d (x.stream desc).memPos < windowBase) :
    landMemory s img c x desc d ecc = storeVa (setStep s (sentOne x desc)) img c (sentOne x desc) b.cycle desc
      (blockAddr img d (x.stream desc).memPos) b.bytes ecc := by
  unfold landMemory
  dsimp only
  rw [hb, h2, Option.bind_none]
  dsimp only
  rw [if_pos ha]
  rfl

theorem stepOf_of_wrote {t u : State} {cyc rank : Nat} (h : Wrote t st cyc rank u) (i : Nat) : stepOf u i = stepOf t i := by
  rw [stepOf, h.rest]
  rfl

end StackedMemory

/-! ### Staging (R171, R190) -/

/-- A block for a window that is not OFFLOAD waits in staging. -/
theorem landMemory_staged {s : State} {st desc : Nat} {x : Step} {img : Image} {c : Ctx} {d : Desc} {b : StreamBlock} (ecc : Ecc)
    (hx : stepOf s st = some x) (h2 : bindOf img 2 desc = none) (h4 : bindOf img 4 desc = none)
    (hb : (x.stream desc).blocks[(x.stream desc).memPos]? = some b) (ha : windowBase ≤ blockAddr img d (x.stream desc).memPos) :
    ∃ y, stepOf (landMemory s img c x desc d ecc) st = some y ∧ OnlySteps s (landMemory s img c x desc d ecc) ∧
      (y.stream desc).memPos = (x.stream desc).memPos + 1 ∧
      y.staged = x.staged ++ [⟨b.cycle, desc, blockAddr img d (x.stream desc).memPos, b.bytes⟩] := by
  have hid : x.id = st := id_of_stepOf hx
  unfold landMemory
  dsimp only
  rw [hb, h2, h4, Option.bind_none, Option.isSome_none]
  dsimp only
  rw [if_neg (Nat.not_lt.mpr ha), if_neg Bool.false_ne_true]
  refine ⟨_, stepOf_setStep_self hx hid, (setStep_frame _ _).onlySteps, ?_, settle_staged _ _⟩
  rw [settle_stream]
  exact congrArg StreamSt.memPos ((stream_setStream ..).trans (if_pos rfl))

/-- Settles O17: a transfer lands block by block, a stream of the local store up to its last block, a block of stacked memory line by line
behind the writes of its cycle that rank no higher, and a block for a window joins the staged ones. -/
theorem arrivalsLand : Obligations.ArrivalsLand := by
  intro s st desc x img c d hx hwork hc himg hd
  have harr : Arriving s st desc x img c d := ⟨hx, hwork, hc, himg, hd⟩
  obtain rfl : x.id = st := id_of_stepOf hx
  refine ⟨fun p w bs hw h0 hpos hb hm hf h3 => ?tile, fun hs => ?loc, fun b hs hwr h2 hb ha hlen hp hr => ?stacked,
    fun b ecc hs hwr h2 h4 hb ha => ?staged⟩
  case tile =>
    obtain ⟨y, hy, hdies, hpm, hin⟩ := landPier_of_delivered (c := c) hx hw h0 hpos hb hm hf h3
    have hpier : w.pier = p := (of_decide_eq_true (List.find?_some (p := fun w : Inbound => decide (w.pier = p ∧ w.desc = desc)) hw)).1
    subst hpier
    refine ⟨_, y, execDeckArrival_pier harr w.pier, hy, hdies, ?_, hin, fun st' cyc' k hk => ?_, fun h1 l hl hlast e he => ?_⟩
    · obtain ⟨ti, ze, h⟩ := landBlocks_eq (img := img) (c := c) (x := x) (w := w) (d := d) (bs := bs) s.pm w.blocks
      rw [hpm, h]
    · rw [hpm]
      exact landBlocks_tile_unseen s.pm w.blocks st' cyc' k hk
    · rw [hpm, h1]
      exact putLines_tile_own s.pm img c x.id w.cycle w.pier d.fmt _ (bs 0) hl hlast he
  case loc =>
    obtain ⟨y, hy, hpos⟩ := landLocal_memPos (img := img) (d := d) hx
    exact ⟨_, y, execDeckArrival_loc harr hs, hy, (landLocal_frame s img x desc d).onlyDies, rfl, hpos,
      fun k b hk hle hb e he => landLocal_last hx hk hle hb he⟩
  case stacked =>
    have hwrote := storeVa_wrote (s := setStep s (sentOne x desc)) (x := sentOne x desc) img c (blockAddr img d (x.stream desc).memPos)
      b.bytes hp hr
    rw [← landMemory_eq_storeVa (s := s) (c := c) .ok h2 hb ha] at hwrote
    refine ⟨_, settle s (sentOne x desc), execDeckArrival_memory harr hs hwr .ok, ?_, ?_, ?_, hwrote.base, fun e he hmap => ?_⟩
    · rw [stepOf_of_wrote hwrote]
      exact stepOf_setStep_self hx rfl
    · rw [hwrote.rest]
      rfl
    · rw [settle_stream]
      exact congrArg StreamSt.memPos ((stream_setStream ..).trans (if_pos rfl))
    · rw [landMemory_eq_storeVa .ok h2 hb ha]
      exact readVa_storeVa (s := setStep s (sentOne x desc)) (x := sentOne x desc) img c _ b.bytes hp hr (by omega) he hmap
  case staged =>
    obtain ⟨y, hy, hsteps, hpos, hstaged⟩ := landMemory_staged (c := c) ecc hx h2 h4 hb ha
    exact ⟨_, y, execDeckArrival_memory harr hs hwr ecc, hy, hsteps, hpos, hstaged⟩

end Sys2Proof.Arrivals


/-! PROOFS of the sparsity family, COMBINE and the backward passes (O14). Each command is one station instruction, COMBINE_BWD two in a
row; of the step such an instruction changes its unit, its stream and what it counts, so the second one starts where the first left the
station. -/

namespace Sys2Proof.GatherStations

open Sys2Proof.Machine Sys2Proof.Safety Sys2Proof.Laws Sys2Proof.StationResults

theorem stepOf_of_workingStep {s : State} {st : Nat} {x : Step} {img : Image} (h : workingStep s st = some (x, img)) : stepOf s st = some x := by
  unfold workingStep at h
  split at h
  · cases h
  next x' hx =>
  split at h
  · obtain ⟨_, -, he⟩ := Option.map_eq_some_iff.mp h
    rw [hx, (Prod.mk.inj he).1]
  · cases h

/-! ### Events change a unit's list of events and its counters alone (R87, R144) -/

/-- `v` is `u` after some events. -/
def Raised (u v : UnitSt) : Prop := v = { u with events := v.events, counters := v.counters }

theorem Raised.refl (u : UnitSt) : Raised u u := rfl

theorem Raised.trans {u v w : UnitSt} (h : Raised u v) (k : Raised v w) : Raised u w := by
  unfold Raised at *
  rw [k, h]

theorem Raised.samePlace {u v : UnitSt} (h : Raised u v) : SamePlace u v := by
  rw [h]
  exact ⟨rfl, rfl, rfl⟩

theorem Raised.begun {u v : UnitSt} (h : Raised u v) : v.begun = u.begun := by rw [h]

theorem Raised.phase {u v : UnitSt} (h : Raised u v) : v.phase = u.phase := by rw [h]

theorem raised_raise (u : UnitSt) (cyc : Nat) (pl : EventAt) (f : Nat) : Raised u (u.raise cyc pl f) := by
  unfold UnitSt.raise
  split <;> rfl

theorem raised_foldl {β : Type} (f : UnitSt → β → UnitSt) (hf : ∀ u b, Raised u (f u b)) (l : List β) (u : UnitSt) :
    Raised u (l.foldl f u) := by
  induction l generalizing u with
  | nil => exact .refl u
  | cons b l ih => exact (hf u b).trans (ih _)

/-- A unit that has begun no fewer phases and slipped no further is on time where the other is (R158). -/
theorem onTime_of_le {img : Image} {x y : Step} {u v : UnitSt} {cyc stall : Nat} (h : OnTime img x u cyc stall) (hb : u.begun ≤ v.begun)
    (hs : v.slip ≤ u.slip) (hd : y.usedSegs = x.usedSegs) : OnTime img y v cyc stall := by
  refine List.find?_eq_none.mpr fun t ht => ?_
  have hlate := List.find?_eq_none.mp h t (List.drop_subset_drop_left _ hb ht)
  rw [decide_eq_true_eq] at hlate ⊢
  rw [show displacement img y cyc = displacement img x cyc by rw [displacement, displacement, hd]]
  omega

theorem onTime_of_raised {img : Image} {x y : Step} {u v : UnitSt} {cyc stall : Nat} (h : OnTime img x u cyc stall) (hv : Raised u v)
    (hd : y.usedSegs = x.usedSegs) : OnTime img y v cyc stall := onTime_of_le h hv.begun.ge hv.samePlace.slip.le hd

/-! ### What a station instruction leaves of the step -/

/-- From `x` to `y` only units, streams, activity counters and the staging of the step changed. -/
def Worked (x y : Step) : Prop := y = { x with state := y.state, units := y.units, streams := y.streams, activity := y.activity }

theorem Worked.refl (x : Step) : Worked x x := rfl

theorem Worked.trans {x y z : Step} (h : Worked x y) (k : Worked y z) : Worked x z := by
  unfold Worked at *
  rw [k, h]

theorem Worked.usedSegs {x y : Step} (h : Worked x y) : y.usedSegs = x.usedSegs := by rw [h]

theorem Worked.routes {x y : Step} (h : Worked x y) : y.routes = x.routes := by rw [h]

theorem Worked.dropped {x y : Step} (h : Worked x y) : y.dropped = x.dropped := by rw [h]

theorem worked_setUnit (x : Step) (k : Nat) (u : UnitSt) : Worked x (x.setUnit k u) := rfl

theorem worked_settle (s : State) (x : Step) : Worked x (settle s x) := by
  rcases settle_eq s x with h | ⟨-, h⟩
  · rw [h]
    exact .refl x
  · rw [h]
    rfl

section Station

variable {s : State} {st key sp dst cyc stall : Nat} {x : Step} {img : Image} {u : UnitSt} {d : Desc}

theorem stationWrite_worked (s : State) (x : Step) (n tag : Nat) (elem : Nat → Nat → Nat) :
    Worked x (stationWrite s img x sp dst d cyc n tag elem).2 := by
  rw [stationWrite_eq (val := fun _ => elem)]
  split <;> rfl

theorem foldl_tileStep_worked (tag : Nat → Nat) (fn : ElemFn) (at_ : Nat → Nat → Nat → Nat × EventAt) (ns : List Nat)
    (p : State × Step × UnitSt) :
    Worked p.2.1 (ns.foldl (tileStep img sp dst d cyc tag fn at_) p).2.1 ∧ Raised p.2.2 (ns.foldl (tileStep img sp dst d cyc tag fn at_) p).2.2 := by
  induction ns generalizing p with
  | nil => exact ⟨.refl _, .refl _⟩
  | cons n ns ih =>
    obtain ⟨hw, hu⟩ := ih (tileStep img sp dst d cyc tag fn at_ p n)
    exact ⟨(stationWrite_worked p.1 p.2.1 n (tag n) _).trans hw, (raised_foldl _ (fun v e => raised_raise v _ _ _) _ _).trans hu⟩

theorem stationFold_worked (s : State) (x : Step) (u : UnitSt) (tag : Nat → Nat) (fn : ElemFn) (at_ : Nat → Nat → Nat → Nat × EventAt) :
    Worked x (stationFold s img x sp u dst d cyc tag fn at_).2.1 ∧ Raised u (stationFold s img x sp u dst d cyc tag fn at_).2.2 := by
  obtain ⟨hw, hu⟩ := foldl_tileStep_worked (img := img) (sp := sp) (dst := dst) (d := d) (cyc := cyc) tag fn at_ (List.range d.tiles) (s, x, u)
  exact ⟨hw.trans rfl, hu⟩

/-- A station instruction on time whose tags are known, run on a step `x` and a unit `u` that preparations have made of the step `x₀` and
its unit `u₀`: it issues, writes its results, and leaves the rest of the step as it was prepared. -/
theorem stationRun_worked {x₀ : Step} {u₀ : UnitSt} {tag : Nat → Option Nat} (fn : ElemFn) (at_ : Nat → Nat → Nat → Nat × EventAt)
    (hx : stepOf s st = some x₀) (hid : x.id = x₀.id) (hunits : x.units = x₀.units) (hu : Raised u₀ u) (ht : OnTime img x u cyc stall)
    (htag : (dstTags d tag).isSome = true) :
    ∃ y, Issued s (stationRun s img x key sp u stall dst d cyc tag fn at_) st key stall 0 x₀ u₀ y ∧
      StationWrote s (stationRun s img x key sp u stall dst d cyc tag fn at_) img sp dst d cyc x y (fun n i j => (fn n i j).1) ∧
      Worked x y ∧ (y.unit key).begun = max u.begun u.phase := by
  obtain ⟨ts, hts⟩ := Option.isSome_iff_exists.mp htag
  unfold stationRun
  rw [hts]
  dsimp only
  rw [issueOr_onTime key _ ht]
  obtain ⟨hw, -⟩ := stationFold_written (img := img) (sp := sp) (dst := dst) (d := d) (cyc := cyc) s x u (ts.getD · 0) fn at_
  obtain ⟨hk, hr⟩ := stationFold_worked (img := img) (sp := sp) (dst := dst) (d := d) (cyc := cyc) s x u (ts.getD · 0) fn at_
  obtain ⟨hn, hl, he⟩ := (hu.trans hr).samePlace
  refine ⟨_, issued_of_steps (issued_setStep ((hw.stepOf_eq st).trans hx) ((hw.id.trans hid).trans (id_of_stepOf hx)) hn hl he fun k _ => ?_)
    hw.steps_eq, hw.stationWrote (fun _ => rfl) fun _ => rfl, (hk.trans (worked_setUnit _ _ _)).trans (worked_settle _ _), ?_⟩
  · rw [hw.unit_eq, Step.unit, Step.unit, hunits]
  · rw [settle_unit, unit_setUnit, if_pos rfl, UnitSt.issued, hr.begun, hr.phase]

end Station

/-! ### COMBINE, COMBINE_BWD and DISPATCH_BWD as station instructions (R110, R186, R187) -/

section Commands

variable {s : State} {st sp cycle ri bi win dst : Nat} {x : Step} {img : Image} {r : Routing} {recs : List Dispatch} {b : Bind}

/-- With its operand arrived, COMBINE is one station instruction. -/
theorem execCombine_onOperands {m : Mat} {d : Desc} (hx : workingStep s st = some (x, img)) (hr : img.routings[ri]? = some r)
    (hrecs : kfind x.routes ri = some recs) (hm : readMat s img x win cycle = some m) (hd : descOf img x dst = some d) :
    execCombine st sp cycle ri win dst s = .next (stationRun s img x (2200 + sp) sp (gatherUnit img x sp cycle) 0 dst d cycle
      (fun n => readTag img x win n m.1)
      (fun n i j =>
        let o := combineElem recs r.topk (d.globalPos n i j).1 fun q => m.elem (windowRow r q) (d.globalPos n i j).2
        let c := fconv .fp32 d.fmt o.1
        (c.1, o.2 ||| c.2))
      (fun n i j => (cycle + laneGroup d 512 n i j, .station n i j (gatherUnit img x sp cycle).next))) := by
  unfold execCombine
  rw [hx]
  dsimp only
  rw [hr, hrecs]
  dsimp only
  rw [hm, hd]

/-- The sum of a list of FP32 words in order, with its flags (R187). -/
def rankSum : List Nat → Nat × Nat
  | [] => (0, 0)
  | h :: l => l.foldl (fun a v => let q := fadd .fp32 (dec32 a.1) (dec32 v); (q.1, a.2 ||| q.2)) (h, 0)

theorem rankSum_cons_fst (h : Nat) (l : List Nat) : (rankSum (h :: l)).1 = l.foldl (fun a v => (fadd .fp32 (dec32 a) (dec32 v)).1) h :=
  (List.foldl_hom Prod.fst fun _ _ => rfl).symm

/-- The records of a token's kept ranks, in rank order. -/
def keptRecords (r : Routing) (recs : List Dispatch) (t : Nat) : List Dispatch :=
  (List.range r.topk).filterMap fun k => (recordOf recs t k).filter fun q => decide (q.status ≠ 2)

/-- With its operand arrived, DISPATCH_BWD is one station instruction. -/
theorem execDispatchBwd_onOperands {m : Mat} {d : Desc} (hx : workingStep s st = some (x, img)) (hb : img.binds[bi]? = some b)
    (hk : b.kind = 7) (hr : img.routings[b.stream]? = some r) (hrecs : kfind x.routes b.stream = some recs)
    (hm : readMat s img x b.source b.cycle = some m) (hd : descOf img x b.aux = some d) :
    execDispatchBwd st sp bi s = .next (stationRun s img x (2200 + sp) sp (gatherUnit img x sp b.cycle) 0 b.aux d b.cycle
      (fun n => readTag img x b.source n m.1)
      (fun n i j => rankSum ((keptRecords r recs (d.globalPos n i j).1).map fun q => m.elem (windowRow r q) (d.globalPos n i j).2))
      (fun n i j => (b.cycle + laneGroup d 512 n i j, .station n i j (gatherUnit img x sp b.cycle).next))) := by
  unfold execDispatchBwd
  rw [hx]
  dsimp only
  rw [hb]
  dsimp only
  rw [hr, hrecs]
  dsimp only
  rw [hm, hd]
  dsimp only
  rw [if_pos hk]
  rfl

/-- The gradient of an element of a window row: the record's gate times its token's output gradient (R186). -/
def windowGradient (r : Routing) (recs : List Dispatch) (dout : Mat) (dw : Desc) : ElemFn := fun n i j =>
  match recordAt r recs (dw.globalPos n i j).1 with
  | some d => fmulV .fp32 (dec32 d.gate) (dec32 (dout.elem d.token (dw.globalPos n i j).2))
  | none => (0, 0)

/-- The gradient of a kept record's gate: the output gradient times the expert's output, summed over the row (R186). -/
def gateGradient (r : Routing) (recs : List Dispatch) (dout m : Mat) (dg : Desc) : ElemFn := fun n i j =>
  match recordOf recs (dg.globalPos n i j).1 (dg.globalPos n i j).2 with
  | some d =>
    if (dg.globalPos n i j).2 < r.topk ∧ d.status ≠ 2 then
      gateSum dout.1.width fun h => fmulV .fp32 (dec32 (dout.elem (dg.globalPos n i j).1 h)) (dec32 (m.elem (windowRow r d) h))
    else (0, 0)
  | none => (0, 0)

/-- The place of an event of a gather command on stream `d`. -/
def gatherPlace (cycle ins : Nat) (d : Desc) (n i j : Nat) : Nat × EventAt := (cycle + laneGroup d 512 n i j, .station n i j ins)

/-- The state after the window gradients of COMBINE_BWD. -/
def windowGradientsRun (s : State) (img : Image) (x : Step) (sp : Nat) (b : Bind) (r : Routing) (recs : List Dispatch) (dout : Mat) (dw : Desc) :
    State :=
  stationRun s img x (2200 + sp) sp (gatherUnit img x sp b.cycle) 0 b.count dw b.cycle (fun n => readTag img x b.source n dout.1)
    (windowGradient r recs dout dw) (gatherPlace b.cycle (gatherUnit img x sp b.cycle).next dw)

/-- With its operands arrived and on time, COMBINE_BWD is two station instructions under one place of the station's list. -/
theorem execCombineBwd_onOperands {dout m : Mat} {dw dg : Desc} {z : Step} (hx : workingStep s st = some (x, img))
    (hb : img.binds[bi]? = some b) (hk : b.kind = 6) (hr : img.routings[b.stream]? = some r) (hrecs : kfind x.routes b.stream = some recs)
    (hdout : readMat s img x b.source b.cycle = some dout) (hm : readMat s img x win b.cycle = some m) (hdw : descOf img x b.count = some dw)
    (hdg : descOf img x b.aux = some dg) (ht : OnTime img x (gatherUnit img x sp b.cycle) b.cycle 0)
    (htw : (dstTags dw fun n => readTag img x b.source n dout.1).isSome = true)
    (htg : (dstTags dg fun n => readTag img x b.source n dout.1).isSome = true)
    (hz : stepOf (windowGradientsRun s img x sp b r recs dout dw) st = some z) :
    execCombineBwd st sp bi win s = .next (stationRun (windowGradientsRun s img x sp b r recs dout dw) img z (2200 + sp) sp
      { z.unit (2200 + sp) with next := (gatherUnit img x sp b.cycle).next } 0 b.aux dg b.cycle (fun n => readTag img x b.source n dout.1)
      (gateGradient r recs dout m dg) (gatherPlace b.cycle (gatherUnit img x sp b.cycle).next dg)) := by
  unfold execCombineBwd
  rw [hx]
  dsimp only
  rw [hb]
  dsimp only
  rw [hr, hrecs]
  dsimp only
  rw [hdout, hm, hdw, hdg]
  dsimp only
  rw [Option.isNone_eq_false_iff.mpr htw, Option.isNone_eq_false_iff.mpr htg, Bool.or_self, if_neg Bool.false_ne_true, if_pos hk,
    show latePhase img x (gatherUnit img x sp b.cycle) b.cycle 0 = none from ht, Option.isSome_none, if_neg Bool.false_ne_true]
  split
  · next hn => exact absurd (hn.symm.trans hz) (Option.some_ne_none z).symm
  · next z' hz' =>
    obtain rfl : z' = z := Option.some.inj (hz'.symm.trans hz)
    rfl

end Commands

theorem stationWrote_congr {s t : State} {img : Image} {sp dst : Nat} {d : Desc} {cyc : Nat} {x y : Step} {val val' : Nat → Nat → Nat → Nat}
    (h : StationWrote s t img sp dst d cyc x y val) (hv : ∀ n i j, val n i j = val' n i j) : StationWrote s t img sp dst d cyc x y val' := by
  rwa [show val' = val from (funext fun n => funext fun i => funext fun j => hv n i j).symm]

/-- Settles O14: COMBINE and DISPATCH_BWD by the results of their station instruction; COMBINE_BWD by those of its two instructions, of
which the second begins no phase that the first has not begun. -/
theorem combineAndBackwardResult : Obligations.CombineAndBackwardResult := by
  refine ⟨?combine, ?combineBwd, ?dispatchBwd⟩
  case combine =>
    intro s st sp cycle ri win dst x img r recs m d hx hr hrecs hm hd ht htag
    obtain ⟨y, hy, hw⟩ := stationRun_wrote _ _ (stepOf_of_workingStep hx) ht htag
    exact ⟨_, y, execCombine_onOperands hx hr hrecs hm hd, hy, hw⟩
  case combineBwd =>
    intro s st sp bi win x img b r recs dout m dw dg hx hb hk hr hrecs hdout hm hdw hdg ht htw htg
    obtain ⟨z, hz, hwz, hkept, hbegun⟩ := stationRun_worked (windowGradient r recs dout dw)
      (gatherPlace b.cycle (gatherUnit img x sp b.cycle).next dw) (stepOf_of_workingStep hx) rfl rfl (.refl _) ht htw
    obtain ⟨hstep, -, hslip, -⟩ := hz
    have ht2 : OnTime img z { z.unit (2200 + sp) with next := (gatherUnit img x sp b.cycle).next } b.cycle 0 :=
      onTime_of_le ht (hbegun ▸ Nat.le_max_left _ _) (hslip ▸ Nat.min_le_right _ _) hkept.usedSegs
    obtain ⟨y, ⟨hy, hnext, -⟩, hwy⟩ := stationRun_wrote (gateGradient r recs dout m dg)
      (gatherPlace b.cycle (gatherUnit img x sp b.cycle).next dg) hstep ht2 htg
    refine ⟨_, _, z, y, execCombineBwd_onOperands hx hb hk hr hrecs hdout hm hdw hdg ht htw htg hstep, hstep, hy, hnext, ?_, ?_⟩
    · refine stationWrote_congr hwz fun n i j => ?_
      unfold windowGradient
      cases recordAt r recs (dw.globalPos n i j).1 <;> rfl
    · refine stationWrote_congr hwy fun n i j => ?_
      unfold gateGradient
      cases recordOf recs (dg.globalPos n i j).1 (dg.globalPos n i j).2 with
      | none => rfl
      | some q => exact apply_ite Prod.fst _ _ _
  case dispatchBwd =>
    intro s st sp bi x img b r recs m d hx hb hk hr hrecs hm hd ht htag
    obtain ⟨y, hy, hw⟩ := stationRun_wrote _ _ (stepOf_of_workingStep hx) ht htag
    refine ⟨_, y, execDispatchBwd_onOperands hx hb hk hr hrecs hm hd, hy, stationWrote_congr hw fun n i j => ?_⟩
    unfold keptRecords
    split
    · next he => rw [he]; rfl
    · next he => rw [he, rankSum_cons_fst]

end Sys2Proof.GatherStations


/-! PROOFS of the sparsity family, ROUTING (O13). Assigning one pair appends one record and takes at most one row; what the statement says
of the records is an invariant of that, over the pairs rank by rank. The windows are then one station instruction, run on the step in
which the dispatch table has been sent. -/

namespace Sys2Proof.RoutingWindows

open Sys2Proof.Machine Sys2Proof.Safety Sys2Proof.Laws Sys2Proof.StationResults Sys2Proof.GatherStations

/-! ### Assigning one pair (R107) -/

/-- The rows of the primary (status 0) or spill (status 1) window of expert `e` that are taken. -/
def taken (a : RouteAcc) (status e : Nat) : Nat := kget 0 (if status = 0 then a.used else a.spilled) e

/-- The rows that a window of a status holds (R105). -/
def room (r : Routing) (status : Nat) : Nat := windowRows r (if status = 0 then r.cf else r.sf)

/-- From `a` to `a'` one pair was assigned, with record `d`: in a window it has the next row, elsewhere it is dropped, and it leaves the
primary window only when that is full. -/
structure Placed (r : Routing) (a a' : RouteAcc) (d : Dispatch) : Prop where
  recs : a'.recs = a.recs ++ [d]
  counts : ∀ status < 2, ∀ e, taken a' status e = taken a status e + if d.status = status ∧ d.expert = e then 1 else 0
  dropped : a'.dropped = a.dropped + if d.status = 2 then 1 else 0
  row : d.status ≠ 2 → d.status < 2 ∧ d.row = taken a d.status d.expert ∧ d.row < room r d.status
  spill : d.status = 1 → r.spill = true
  full : d.status ≠ 0 → room r 0 ≤ taken a 0 d.expert

theorem taken_used (a : RouteAcc) (e : Nat) : taken a 0 e = kget 0 a.used e := rfl

theorem taken_spilled (a : RouteAcc) (e : Nat) : taken a 1 e = kget 0 a.spilled e := rfl

/-- The three outcomes of R107. -/
theorem assign_placed (r : Routing) (a : RouteAcc) (t e rank gate : Nat) :
    ∃ d, (d.token = t ∧ d.rank = rank) ∧ Placed r a (assign r a t e rank gate) d := by
  unfold assign
  dsimp only
  split
  case isTrue hu =>
    refine ⟨_, ⟨rfl, rfl⟩, rfl, fun status hst i => ?_, rfl, fun _ => ⟨Nat.zero_lt_two, rfl, hu⟩, fun h => absurd h Nat.zero_ne_one,
      fun h => absurd rfl h⟩
    obtain rfl | rfl : status = 0 ∨ status = 1 := by omega
    · simp only [taken_used, kget_kput]
      grind
    · simp [taken_spilled]
  case isFalse hu =>
  split
  case isTrue hs =>
    obtain ⟨hspill, hrow⟩ := Bool.and_eq_true_iff.mp hs
    refine ⟨_, ⟨rfl, rfl⟩, rfl, fun status hst i => ?_, rfl, fun _ => ⟨Nat.one_lt_two, rfl, of_decide_eq_true hrow⟩, fun _ => hspill,
      fun _ => Nat.le_of_not_lt hu⟩
    obtain rfl | rfl : status = 0 ∨ status = 1 := by omega
    · simp [taken_used]
    · simp only [taken_spilled, kget_kput]
      grind
  case isFalse hs =>
    refine ⟨_, ⟨rfl, rfl⟩, rfl, fun status hst i => ?_, rfl, fun h => absurd rfl h, nofun,
      fun _ => Nat.le_of_not_lt hu⟩
    rw [if_neg (by simp; omega)]
    rfl

theorem Placed.taken_le {r : Routing} {a a' : RouteAcc} {d : Dispatch} (h : Placed r a a' d) {status : Nat} (hs : status < 2) (e : Nat) :
    taken a status e ≤ taken a' status e := by
  rw [h.counts status hs e]
  exact Nat.le_add_right _ _

theorem Placed.taken_self {r : Routing} {a a' : RouteAcc} {d : Dispatch} (h : Placed r a a' d) (hd : d.status ≠ 2) :
    taken a' d.status d.expert = d.row + 1 := by
  obtain ⟨hs, hrow, -⟩ := h.row hd
  rw [h.counts _ hs, if_pos ⟨rfl, rfl⟩, hrow]

/-! ### What holds of the records so far -/

/-- The records of an assignment agree with its counts: kept records have distinct rows below what their windows have taken, windows are
never overfull, and no record stands outside a primary window that has room. -/
structure Filled (r : Routing) (a : RouteAcc) : Prop where
  bounded : ∀ status < 2, ∀ e, taken a status e ≤ room r status
  row : ∀ d ∈ a.recs, d.status ≠ 2 → d.status < 2 ∧ d.row < taken a d.status d.expert
  spill : ∀ d ∈ a.recs, d.status = 1 → r.spill = true
  own : ∀ d ∈ a.recs, ∀ e ∈ a.recs, d.status ≠ 2 → d.status = e.status → d.expert = e.expert → d.row = e.row → d = e
  full : ∀ d ∈ a.recs, d.status ≠ 0 → taken a 0 d.expert = room r 0
  used : ∀ e, taken a 0 e = (a.recs.filter fun q => decide (q.status = 0 ∧ q.expert = e)).length
  dropped : a.dropped = (a.recs.filter fun q => decide (q.status = 2)).length

theorem filled_empty (r : Routing) : Filled r {} where
  bounded status _ e := by
    unfold taken
    split <;> exact Nat.zero_le _
  row _ h := absurd h List.not_mem_nil
  spill _ h := absurd h List.not_mem_nil
  own _ h := absurd h List.not_mem_nil
  full _ h := absurd h List.not_mem_nil
  used _ := rfl
  dropped := rfl

theorem Filled.row_lt_room {r : Routing} {a : RouteAcc} (f : Filled r a) {d : Dispatch} (hd : d ∈ a.recs) (hk : d.status ≠ 2) :
    d.row < room r d.status := by
  obtain ⟨hs, hrow⟩ := f.row d hd hk
  exact hrow.trans_le (f.bounded d.status hs d.expert)

/-- The items of a list with one more that meet a condition. -/
theorem length_filter_concat {α : Type} (p : α → Prop) [DecidablePred p] (l : List α) (b : α) :
    ((l ++ [b]).filter fun q => decide (p q)).length = (l.filter fun q => decide (p q)).length + if p b then 1 else 0 := by
  rw [List.filter_append, List.length_append]
  by_cases h : p b <;> simp [h]

section Step

variable {r : Routing} {a a' : RouteAcc} {d : Dispatch}

theorem Placed.bounded (h : Placed r a a' d) (f : Filled r a) {status : Nat} (hs : status < 2) (e : Nat) :
    taken a' status e ≤ room r status := by
  rw [h.counts status hs e]
  split
  next he =>
    obtain ⟨rfl, rfl⟩ := he
    obtain ⟨-, hrow, hlt⟩ := h.row (Nat.ne_of_lt hs)
    omega
  next => exact f.bounded status hs e

theorem Placed.filled (h : Placed r a a' d) (f : Filled r a) : Filled r a' where
  bounded _ hs e := h.bounded f hs e
  row := by
    rw [h.recs]
    refine List.forall_mem_append.mpr ⟨fun q hq hk => ?_, List.forall_mem_singleton.mpr fun hk => ?_⟩
    · obtain ⟨hs, hrow⟩ := f.row q hq hk
      exact ⟨hs, hrow.trans_le (h.taken_le hs _)⟩
    · exact ⟨(h.row hk).1, by rw [h.taken_self hk]; exact Nat.lt_succ_self _⟩
  spill := by
    rw [h.recs]
    exact List.forall_mem_append.mpr ⟨f.spill, List.forall_mem_singleton.mpr h.spill⟩
  own := by
    have hnew : d.status ≠ 2 → ∀ q ∈ a.recs, q.status = d.status → q.expert = d.expert → q.row ≠ d.row := by
      intro hk q hq hs he
      obtain ⟨-, hrow, -⟩ := h.row hk
      obtain ⟨-, hlt⟩ := f.row q hq (hs ▸ hk)
      rw [hs, he, ← hrow] at hlt
      exact hlt.ne
    rw [h.recs]
    refine List.forall_mem_append.mpr ⟨fun q hq => List.forall_mem_append.mpr ⟨f.own q hq, List.forall_mem_singleton.mpr ?_⟩,
      List.forall_mem_singleton.mpr (List.forall_mem_append.mpr ⟨fun q hq => ?_, List.forall_mem_singleton.mpr fun _ _ _ _ => rfl⟩)⟩
    · exact fun hk hs he hr => absurd hr (hnew (hs ▸ hk) q hq hs he)
    · exact fun hk hs he hr => absurd hr.symm (hnew hk q hq hs.symm he.symm)
  full := by
    rw [h.recs]
    refine List.forall_mem_append.mpr ⟨fun q hq hs => ?_, List.forall_mem_singleton.mpr fun hs => ?_⟩
    · exact (h.bounded f Nat.zero_lt_two _).antisymm (f.full q hq hs ▸ h.taken_le Nat.zero_lt_two _)
    · exact (h.bounded f Nat.zero_lt_two _).antisymm ((h.full hs).trans (h.taken_le Nat.zero_lt_two _))
  used e := by rw [h.recs, length_filter_concat, h.counts 0 Nat.zero_lt_two e, f.used e]
  dropped := by rw [h.recs, length_filter_concat, h.dropped, f.dropped]

end Step

/-! ### All pairs, rank by rank -/

/-- The pairs of a token and a rank in the order of R107. -/
def pairs (r : Routing) : List (Nat × Nat) := (List.range r.topk).flatMap fun rank => (List.range r.tokens).map fun t => (t, rank)

theorem mem_pairs {r : Routing} {t rank : Nat} (ht : t < r.tokens) (hr : rank < r.topk) : (t, rank) ∈ pairs r :=
  List.mem_flatMap.mpr ⟨rank, List.mem_range.mpr hr, List.mem_map.mpr ⟨t, List.mem_range.mpr ht, rfl⟩⟩

theorem length_pairs (r : Routing) : (pairs r).length = r.tokens * r.topk := by
  simp [pairs, Nat.mul_comm]

/-- Assigns the pair `p` to the expert and with the gate that `sel` and `gates` give. -/
def assignPair (r : Routing) (sel gates : Nat → List Nat) (a : RouteAcc) (p : Nat × Nat) : RouteAcc :=
  assign r a p.1 ((sel p.1).getD p.2 0) p.2 ((gates p.1).getD p.2 0)

theorem assignAll_eq (r : Routing) (sel gates : Nat → List Nat) : assignAll r sel gates = (pairs r).foldl (assignPair r sel gates) {} := by
  rw [pairs, List.foldl_flatMap]
  simp only [List.foldl_map]
  rfl

theorem foldl_assignPair (r : Routing) (sel gates : Nat → List Nat) (ps : List (Nat × Nat)) {a : RouteAcc} (f : Filled r a) :
    Filled r (ps.foldl (assignPair r sel gates) a) ∧
      ((ps.foldl (assignPair r sel gates) a).recs.map fun d => (d.token, d.rank)) = (a.recs.map fun d => (d.token, d.rank)) ++ ps := by
  induction ps generalizing a with
  | nil => exact ⟨f, (List.append_nil _).symm⟩
  | cons p ps ih =>
    obtain ⟨d, ⟨ht, hr⟩, hd⟩ := assign_placed r a p.1 ((sel p.1).getD p.2 0) p.2 ((gates p.1).getD p.2 0)
    obtain ⟨hf, hkeys⟩ := ih (a := assignPair r sel gates a p) (hd.filled f)
    refine ⟨hf, hkeys.trans ?_⟩
    rw [assignPair, hd.recs, List.map_append, List.append_assoc, List.map_singleton, ht, hr]
    rfl

section All

variable (r : Routing) (sel gates : Nat → List Nat)

theorem assignAll_filled : Filled r (assignAll r sel gates) := by
  rw [assignAll_eq]
  exact (foldl_assignPair r sel gates (pairs r) (filled_empty r)).1

theorem assignAll_keys : ((assignAll r sel gates).recs.map fun d => (d.token, d.rank)) = pairs r := by
  rw [assignAll_eq]
  exact (foldl_assignPair r sel gates (pairs r) (filled_empty r)).2

theorem length_assignAll : (assignAll r sel gates).recs.length = r.tokens * r.topk := by
  rw [← length_pairs, ← assignAll_keys r sel gates, List.length_map]

/-- Every token and rank has a record. -/
theorem exists_record {t rank : Nat} (ht : t < r.tokens) (hr : rank < r.topk) :
    ∃ d ∈ (assignAll r sel gates).recs, d.token = t ∧ d.rank = rank := by
  have hmem := mem_pairs ht hr
  rw [← assignAll_keys r sel gates] at hmem
  obtain ⟨d, hd, hkey⟩ := List.mem_map.mp hmem
  exact ⟨d, hd, Prod.mk.inj hkey⟩

end All

/-! ### Tags stay known while streams go on (R198) -/

/-- Every stream of `y` goes on from where it stands in `x`. -/
structure GoesOn (x y : Step) : Prop where
  bindings : y.bindings = x.bindings
  fetched : ∀ k, (y.stream k).fetched = (x.stream k).fetched
  blocks : ∀ k, ∃ more, (y.stream k).blocks = (x.stream k).blocks ++ more

section Tags

variable {img : Image} {x y : Step}

theorem GoesOn.descOf_eq (h : GoesOn x y) (i : Nat) : descOf img y i = descOf img x i := by
  unfold descOf
  rw [h.bindings]

theorem GoesOn.deliveredTag_eq {i n t : Nat} {d : Desc} (h : GoesOn x y) (ht : deliveredTag img x i d n = some t) :
    deliveredTag img y i d n = some t := by
  obtain ⟨more, hmore⟩ := h.blocks i
  unfold deliveredTag at ht ⊢
  dsimp only at ht ⊢
  rw [h.fetched, hmore]
  obtain ⟨b, hb, rfl⟩ := Option.map_eq_some_iff.mp ht
  refine Option.map_eq_some_iff.mpr ⟨b, ?_, rfl⟩
  rcases Option.or_eq_some_iff.mp hb with hf | ⟨hf, hs⟩
  · rw [hf, Option.some_or]
  · rw [hf, Option.none_or, List.getElem?_append_left (List.getElem?_eq_some_iff.mp hs).1, hs]

theorem GoesOn.tagOf_eq {f i n t : Nat} (h : GoesOn x y) (ht : tagOf img x f i n = some t) : tagOf img y f i n = some t := by
  induction f generalizing i n t with
  | zero => cases ht
  | succ f ih =>
    unfold tagOf at ht ⊢
    rw [h.descOf_eq]
    cases hd : descOf img x i with
    | none => rw [hd] at ht; cases ht
    | some d =>
      rw [hd] at ht
      dsimp only at ht ⊢
      cases hq : deliveredTag img x i d n with
      | none => rw [hq] at ht; cases ht
      | some q =>
        rw [hq] at ht
        rw [h.deliveredTag_eq hq]
        dsimp only at ht ⊢
        split
        next h7 => rwa [if_pos h7] at ht
        next h7 =>
          rw [if_neg h7] at ht
          cases hb : bindOf img 1 i with
          | none => rw [hb] at ht; cases ht
          | some b => rw [hb] at ht; exact ih ht

theorem GoesOn.tagOf_isSome {f i n : Nat} (h : GoesOn x y) (ht : (tagOf img x f i n).isSome = true) :
    (tagOf img y f i n).isSome = true := by
  obtain ⟨t, ht⟩ := Option.isSome_iff_exists.mp ht
  rw [h.tagOf_eq ht, Option.isSome_some]

theorem GoesOn.tagFor_isSome {i n dflt : Nat} (h : GoesOn x y) (ht : (tagFor img x i n dflt).isSome = true) :
    (tagFor img y i n dflt).isSome = true := by
  unfold tagFor at ht ⊢
  rw [h.descOf_eq]
  split
  next d b hd hb =>
    rw [hd, hb] at ht
    dsimp only at ht
    split
    next h7 => rw [if_pos h7] at ht; exact h.tagOf_isSome ht
    next => rfl
  next => rfl

theorem GoesOn.readTag_isSome {i n : Nat} {d : Desc} (h : GoesOn x y) (ht : (readTag img x i n d).isSome = true) :
    (readTag img y i n d).isSome = true := by
  unfold readTag at ht ⊢
  split
  next => rfl
  next hn =>
    refine h.tagFor_isSome ?_
    split at ht
    next t hx => rw [h.tagOf_eq hx] at hn; cases hn
    next => exact ht

theorem isSome_mapM {α β : Type} (f : α → Option β) (l : List α) : (l.mapM f).isSome = true ↔ ∀ a ∈ l, (f a).isSome = true := by
  induction l with
  | nil => simp
  | cons a l ih =>
    rw [List.forall_mem_cons, ← ih, List.mapM_cons]
    cases f a <;> cases l.mapM f <;> simp

theorem GoesOn.dstTags_isSome {d e : Desc} {i : Nat} (h : GoesOn x y) (ht : (dstTags d fun n => readTag img x i n e).isSome = true) :
    (dstTags d fun n => readTag img y i n e).isSome = true := by
  unfold dstTags at ht ⊢
  refine (isSome_mapM _ _).mpr fun n hn => ?_
  have hk := (isSome_mapM _ _).mp ht n hn
  split
  next => rfl
  next h7 => rw [if_neg h7] at hk; exact h.readTag_isSome hk

end Tags

/-! ### ROUTING as a station instruction (R108, R109, R112) -/

/-- The assignment that ROUTING makes from the scores. -/
def routeAcc (r : Routing) (sc : Mat) : RouteAcc :=
  let sel := fun t => topK (fun e => dec32 (sc.elem t e)) r.experts r.topk
  assignAll r sel fun t => (gatesOf r.gate ((sel t).map fun e => sc.elem t e)).1

/-- The step after the dispatch table has been sent and the pairs have been counted. -/
def routedStep (x : Step) (ri cyc : Nat) (r : Routing) (dt : Desc) (a : RouteAcc) : Step :=
  let x := produce x r.dispatch (rawBlocks dt.blockBytes (dispatchTable r a) cyc)
  { x with
    routes := kput x.routes ri a.recs
    dropped := satAdd max32 x.dropped a.dropped
    spilled := satAdd max32 x.spilled (total (a.spilled.map (·.2)))
    rowsUsed := (List.range 256).foldl (fun m e => kset 0 m (ri * 256 + e) (kget 0 a.used e)) x.rowsUsed }

/-- An element of the windows: a copy of the token's row in a row that a record names, +0 elsewhere (R108). -/
def windowElem (r : Routing) (recs : List Dispatch) (tok : Mat) (dw : Desc) : ElemFn := fun n i j =>
  match recordAt r recs (dw.globalPos n i j).1 with
  | some d => (tok.copy dw.fmt d.token (dw.globalPos n i j).2, 0)
  | none => (0, 0)

section Routed

variable {s : State} {st sp cyc ri win : Nat} {x : Step} {img : Image} {r : Routing} {sc tok : Mat} {dt dw : Desc} {a : RouteAcc}

theorem stream_routedStep (k : Nat) : (routedStep x ri cyc r dt a).stream k =
    if k = r.dispatch then { x.stream r.dispatch with
      blocks := (x.stream r.dispatch).blocks ++ rawBlocks dt.blockBytes (dispatchTable r a) cyc } else x.stream k :=
  stream_produce x r.dispatch k _

theorem goesOn_routedStep : GoesOn x (routedStep x ri cyc r dt a) where
  bindings := rfl
  fetched k := by
    rw [stream_routedStep]
    split
    · next h => rw [h]
    · rfl
  blocks k := by
    rw [stream_routedStep]
    split
    · next h => rw [h]; exact ⟨_, rfl⟩
    · exact ⟨[], (List.append_nil _).symm⟩

theorem routeStep_eq : ∃ u, Raised (gatherUnit img x sp cyc) u ∧
    routeStep s img x sp cyc ri win r dt dw sc tok =
      stationRun s img (routedStep x ri cyc r dt (routeAcc r sc)) (2200 + sp) sp u 0 win dw cyc
        (fun n => readTag img (routedStep x ri cyc r dt (routeAcc r sc)) r.token n tok.1) (windowElem r (routeAcc r sc).recs tok dw)
        (gatherPlace cyc u.next dw) := by
  refine ⟨_, ?_, rfl⟩
  exact raised_foldl _ (fun u t => (raised_foldl _ (fun v e => raised_raise v _ _ _) _ u).trans (raised_raise _ _ _ _)) _ _

theorem execRouting_onOperands (hx : workingStep s st = some (x, img)) (hr : img.routings[ri]? = some r)
    (hsc : readMat s img x r.score cyc = some sc) (htok : readMat s img x r.token cyc = some tok) (hdt : descOf img x r.dispatch = some dt)
    (hdw : descOf img x win = some dw) : execRouting st sp cyc ri win s = .next (routeStep s img x sp cyc ri win r dt dw sc tok) := by
  unfold execRouting
  rw [hx]
  dsimp only
  rw [hr]
  dsimp only
  rw [hsc, htok, hdt, hdw]

end Routed

/-- Settles O13: the records by the invariant of the assignment, the windows by the station instruction that writes them. -/
theorem routingFillsWindows : Obligations.RoutingFillsWindows := by
  intro s st sp cycle ri win x img r sc tok dt dw hx hr hsc htok hdt hdw hne ht htag
  have f : Filled r (routeAcc r sc) := assignAll_filled r _ _
  obtain ⟨u, hu, hrun⟩ := routeStep_eq (s := s) (img := img) (x := x) (sp := sp) (cyc := cycle) (ri := ri) (win := win) (r := r) (sc := sc)
    (tok := tok) (dt := dt) (dw := dw)
  obtain ⟨y, hy, ⟨⟨more, hmore, hbytes, -⟩, -, hdies, -⟩, hkept, -⟩ := stationRun_worked
    (x := routedStep x ri cycle r dt (routeAcc r sc)) (windowElem r (routeAcc r sc).recs tok dw) (gatherPlace cycle u.next dw)
    (stepOf_of_workingStep hx) rfl rfl hu (onTime_of_raised ht hu rfl) (goesOn_routedStep.dstTags_isSome htag)
  rw [← hrun] at hy hdies
  refine ⟨_, y, (routeAcc r sc).recs, execRouting_onOperands hx hr hsc htok hdt hdw, hy, hdies, ?routes, length_assignAll r _ _,
    fun n hn k hk => exists_record r _ _ hn hk, fun d hd => ⟨fun h0 => ?primary, fun h1 => ⟨f.spill d hd h1, ?spill⟩⟩, f.own,
    fun d hd h => (f.used d.expert).symm.trans (f.full d hd h), ?dropped, ?windows⟩
  case routes =>
    rw [hkept.routes]
    exact kfind_kput_self _ _ _
  case primary =>
    have hlt := f.row_lt_room hd (by omega)
    rwa [h0] at hlt
  case spill =>
    have hlt := f.row_lt_room hd (by omega)
    rwa [h1] at hlt
  case dropped =>
    rw [hkept.dropped, ← f.dropped]
    rfl
  case windows =>
    rw [hmore, List.map_append, hbytes, stream_routedStep, if_neg hne.symm]
    congr
    funext n i j
    unfold windowElem
    cases recordAt r (routeAcc r sc).recs (dw.globalPos n i j).1 <;> rfl

end Sys2Proof.RoutingWindows


/-! PROOFS of the sparsity family, block lists (O15). The two builders hand a list to its stream; the list's keys rise because rows and
columns are taken in order, and the blocks on the stream hold its bytes from the first on. -/

namespace Sys2Proof.BlockLists

open Sys2Proof.Machine Sys2Proof.Safety Sys2Proof.Laws Sys2Proof.StationResults Sys2Proof.DieMemories Sys2Proof.GatherStations

/-! ### The order of keys (R113) -/

/-- Key `a` stands before key `b`. -/
def KeyBefore (a b : Nat × Nat) : Prop := a.1 < b.1 ∨ (a.1 = b.1 ∧ a.2 < b.2)

/-- The key of an entry. -/
def entryKey (e : ListEntry) : Nat × Nat := (e.1, e.2.1)

/-- Entries taken row by row, in each row column by column, stand in key order. -/
theorem pairwise_entries {rows : List Nat} (h : rows.Pairwise (· < ·)) (n : Nat) (words : Nat → Nat → List Nat) :
    (rows.flatMap fun br => (List.range n).map fun bc => ((br, bc, words br bc) : ListEntry)).Pairwise
      fun a b => KeyBefore (entryKey a) (entryKey b) := by
  refine List.pairwise_flatMap.mpr ⟨fun br _ => List.pairwise_map.mpr (List.pairwise_lt_range.imp fun hlt => .inr ⟨rfl, hlt⟩),
    h.imp fun hlt e he f hf => .inl ?_⟩
  obtain ⟨_, -, rfl⟩ := List.mem_map.mp he
  obtain ⟨_, -, rfl⟩ := List.mem_map.mp hf
  exact hlt

theorem pairwise_allBlocks (m : Mat) : (allBlocks m).Pairwise fun a b => KeyBefore (entryKey a) (entryKey b) :=
  pairwise_entries List.pairwise_lt_range _ _

theorem eq_or_mem_of_mem_keys_kput {α : Type} {m : KMap α} {k j : Nat} {v : α} (h : j ∈ (kput m k v).map (·.1)) :
    j = k ∨ j ∈ m.map (·.1) := by
  induction m with
  | nil => exact .inl (List.mem_singleton.mp h)
  | cons e t ih =>
    obtain ⟨i, w⟩ := e
    unfold kput at h
    split at h
    · exact List.mem_cons.mp h
    · split at h
      · exact (List.mem_cons.mp h).imp_right (List.mem_cons_of_mem _)
      · rcases List.mem_cons.mp h with rfl | ht
        · exact .inr (List.mem_cons_self ..)
        · exact (ih ht).imp_right (List.mem_cons_of_mem _)

/-- The keys of a sparse map go on rising when one is written. -/
theorem pairwise_keys_kput {α : Type} {m : KMap α} (k : Nat) (v : α) (h : (m.map (·.1)).Pairwise (· < ·)) :
    ((kput m k v).map (·.1)).Pairwise (· < ·) := by
  induction m with
  | nil => exact List.pairwise_singleton _ _
  | cons e t ih =>
    obtain ⟨i, w⟩ := e
    obtain ⟨hi, ht⟩ := List.pairwise_cons.mp h
    unfold kput
    split
    next hk => exact List.pairwise_cons.mpr ⟨List.forall_mem_cons.mpr ⟨hk, fun j hj => hk.trans (hi j hj)⟩, h⟩
    next hk =>
    split
    next he => exact List.pairwise_cons.mpr ⟨he ▸ hi, ht⟩
    next hne =>
      refine List.pairwise_cons.mpr ⟨fun j hj => ?_, ih ht⟩
      rcases eq_or_mem_of_mem_keys_kput hj with rfl | hj
      · exact Nat.lt_of_le_of_ne (Nat.le_of_not_lt hk) (Ne.symm hne)
      · exact hi j hj

theorem pairwise_usedBlockRows (ids : List Nat) : (usedBlockRows ids).Pairwise (· < ·) :=
  List.foldlRecOn (motive := fun m : KMap Unit => (m.map (·.1)).Pairwise (· < ·)) ids _ List.Pairwise.nil
    fun _ h i _ => pairwise_keys_kput (i / 8) () h

/-! ### The bytes of a list on its stream -/

theorem le_ceilDiv_mul (a : Nat) {n : Nat} (hn : 0 < n) : a ≤ ceilDiv a n * n := by
  have hdiv := Nat.div_add_mod (a + n - 1) n
  have hmod := Nat.mod_lt (a + n - 1) hn
  rw [ceilDiv, Nat.mul_comm]
  omega

theorem flatMap_bytes_rawBlocks (n : Nat) (b : Bytes) (cyc : Nat) : (rawBlocks n b cyc).flatMap (·.bytes) =
    (List.range (ceilDiv b.length n)).flatMap fun k => (List.range n).map fun i => b.getD (n * k + i) 0 := by
  simp only [rawBlocks, List.flatMap_map, slice_eq_map]

/-- The blocks that raw bytes are cut into begin with those bytes. -/
theorem take_bytes_rawBlocks {n : Nat} (hn : 0 < n) (b : Bytes) (cyc : Nat) : ((rawBlocks n b cyc).flatMap (·.bytes)).take b.length = b := by
  have hle := le_ceilDiv_mul b.length hn
  rw [flatMap_bytes_rawBlocks]
  refine List.ext_getElem ?_ fun j hj hb => ?_
  · simpa using hle
  · rw [List.getElem_take, ← List.getD_eq_getElem _ 0, getD_flatMap_rows 0 (fun k i => b.getD (n * k + i) 0) n (hb.trans_le hle),
      Nat.div_add_mod, List.getD_eq_getElem _ _ hb]

/-! ### Sending a list (R114) -/

/-- The step after a list of bytes `b` has been handed to stream `dst`. -/
def sentList (x : Step) (dst n : Nat) (b : Bytes) (cyc : Nat) : Step :=
  let x := produce x dst (rawBlocks n b cyc)
  x.setStream dst { x.stream dst with list := true }

theorem stream_sentList (x : Step) (dst n : Nat) (b : Bytes) (cyc k : Nat) : (sentList x dst n b cyc).stream k =
    if k = dst then { x.stream dst with blocks := (x.stream dst).blocks ++ rawBlocks n b cyc, list := true } else x.stream k := by
  unfold sentList
  dsimp only
  rw [stream_setStream, stream_produce, stream_produce, if_pos rfl]
  split <;> rfl

section Builders

variable {s : State} {st sp cycle src dst stall cap : Nat} {ids : List Nat} {x : Step} {img : Image} {u : UnitSt} {d : Desc} {m : Mat}
  {es : List ListEntry}

theorem emitList_onTime (ht : OnTime img x u cycle stall) (hcap : es.length ≤ cap) :
    emitList s img x sp dst cap cycle stall u d es =
      setStep s ((sentList x dst d.blockBytes (listBytes cap es) cycle).setUnit (2200 + sp) (u.issued stall 0)) := by
  unfold emitList
  rw [issueOr_onTime _ _ ht, if_neg (Nat.not_lt.mpr hcap)]
  rfl

/-- The entries of the block rows of the used ids (R116). -/
def embeddingEntries (ids : List Nat) (m : Mat) : List ListEntry :=
  (usedBlockRows ids).flatMap fun br => (List.range (m.1.width / 8)).map fun bc =>
    (br, bc, (List.range 64).map fun e => (idRow ids m (8 * br + e / 8) (8 * bc + e % 8)).1)

theorem pairwise_embeddingEntries (ids : List Nat) (m : Mat) :
    (embeddingEntries ids m).Pairwise fun a b => KeyBefore (entryKey a) (entryKey b) := pairwise_entries (pairwise_usedBlockRows ids) _ _

/-- The entries of the blocks that are not all ±0 (R114). -/
def nonzeroEntries (m : Mat) : List ListEntry := (allBlocks m).filter fun e => e.2.2.any fun w => decide (w % 2 ^ 31 ≠ 0)

theorem execBlockListBuild_onOperands (hx : workingStep s st = some (x, img)) (hf : (descOf img x src).map (·.fmt) = some .fp32)
    (hm : readMat s img x src cycle = some m) (hd : descOf img x dst = some d) :
    execBlockListBuild st sp cycle src dst stall s =
      .next (emitList s img x sp dst (listCapacity img dst) cycle stall (gatherUnit img x sp cycle) d (nonzeroEntries m)) := by
  unfold execBlockListBuild
  rw [hx]
  dsimp only
  rw [if_neg (not_not_intro hf), hm, hd]
  rfl

/-- SPARSE_EMBEDDING_LIST raises the events of its additions before it sends its list. -/
theorem execSparseEmbeddingList_onOperands (hx : workingStep s st = some (x, img)) (hf : (descOf img x src).map (·.fmt) = some .fp32)
    (hm : readMat s img x src cycle = some m) (hd : descOf img x dst = some d) :
    ∃ u, Raised (gatherUnit img x sp cycle) u ∧ execSparseEmbeddingList st sp cycle ids src dst stall s =
      .next (emitList s img x sp dst (listCapacity img dst) cycle stall u d (embeddingEntries ids m)) := by
  unfold execSparseEmbeddingList
  rw [hx]
  dsimp only
  rw [if_neg (not_not_intro hf), hm, hd]
  refine ⟨_, ?_, rfl⟩
  exact raised_foldl _ (fun v _ => raised_foldl _ (fun v _ => raised_foldl _ (fun v _ => raised_raise v _ _ _) _ v) _ v) _ _

end Builders

/-- Settles O15: both builders send a list whose entries were taken row by row and column by column. -/
theorem blockListsAreSorted : Obligations.BlockListsAreSorted := by
  intro s st sp cycle src dst stall ids x img m d es i hx hf hm hd hcap ht hi
  have hstep := stepOf_of_workingStep hx
  obtain ⟨⟨u, hu, hexec⟩, hsorted⟩ : (∃ u, Raised (gatherUnit img x sp cycle) u ∧
      exec i s = .next (emitList s img x sp dst (listCapacity img dst) cycle stall u d es)) ∧
      es.Pairwise fun a b => KeyBefore (entryKey a) (entryKey b) := by
    rcases hi with ⟨rfl, rfl⟩ | ⟨rfl, rfl⟩
    · exact ⟨⟨_, .refl _, execBlockListBuild_onOperands hx hf hm hd⟩, (pairwise_allBlocks m).filter _⟩
    · exact ⟨execSparseEmbeddingList_onOperands hx hf hm hd, pairwise_embeddingEntries ids m⟩
  rw [emitList_onTime (onTime_of_raised ht hu rfl) hcap] at hexec
  obtain ⟨hnext, hslip, hentrance⟩ := hu.samePlace
  refine ⟨_, _, (x.stream dst).blocks, rawBlocks d.blockBytes (listBytes (listCapacity img dst) es) cycle, hexec,
    issued_setStep hstep (id_of_stepOf hstep : x.id = st) hnext hslip hentrance fun _ _ => rfl, rfl, ?list, ?blocks, rfl,
    take_bytes_rawBlocks (Nat.mul_pos (by decide) (size_pos d.fmt)) _ _, List.pairwise_map.mpr hsorted, fun k hk => ?others⟩
  case list =>
    rw [settle_stream]
    exact congrArg StreamSt.list ((stream_sentList ..).trans (if_pos rfl))
  case blocks =>
    rw [settle_stream]
    exact congrArg StreamSt.blocks ((stream_sentList ..).trans (if_pos rfl))
  case others =>
    rw [settle_stream]
    exact (stream_sentList ..).trans (if_neg hk)

end Sys2Proof.BlockLists


/-! PROOFS of the streams family, the movement of streams between the deck and a tile store (O9). A movement changes the streams and the
transfers of its step alone; its pier, with nothing else under way, then has no work. -/

namespace Sys2Proof.StreamMoves

open Sys2Proof.Machine Sys2Proof.Safety Sys2Proof.Laws Sys2Proof.StationResults Sys2Proof.DieMemories Sys2Proof.PierTurns
  Sys2Proof.FillAndBankWrite Sys2Proof.Arrivals Sys2Proof.RoutingWindows

/-! ### Where a movement begins (R92, R120, R133) -/

/-- A whole spaced tile begins at the place of its first present block. -/
theorem moveBase_tile (img : Image) (d : Desc) (addr : Nat) :
    moveBase img d true addr = addr + (if d.packed then 0 else blockLines d.fmt * (presentIdx img d).headD 0) := by
  unfold moveBase
  cases d.packed <;> rfl

theorem tileBlocksOf_of_getElem? {img : Image} {desc : Nat} {d : Desc} (h : img.descs[desc]? = some d) :
    Machine.tileBlocksOf img desc = presentCount img d := by
  unfold Machine.tileBlocksOf
  rw [h]

/-- A bound BASE does not change how many blocks of a tile are present. -/
theorem tileBlocksOf_of_descOf {img : Image} {x : Step} {desc : Nat} {d : Desc} (h : descOf img x desc = some d) :
    Machine.tileBlocksOf img desc = presentCount img d := by
  obtain ⟨e, he, rfl⟩ := Option.map_eq_some_iff.mp h
  rw [tileBlocksOf_of_getElem? he]
  split <;> rfl

section Moves

variable {s : State} {st p stall dry : Nat} {x : Step} {img : Image} {c : Ctx} {u : UnitSt} {ins : PierIns} {desc addr n line cyc : Nat}
  {d : Desc} {tile : Bool}

/-- With nothing else under way, an instruction that changes no unit of the step issues; of the state the steps alone change, and
streams and transfers are as the instruction leaves them. -/
theorem pierAdvance_moved (c : Ctx) {y : Step} (hx : stepOf s st = some x) (hm : u.mmas = []) (hf : u.fills = []) (hid : y.id = x.id)
    (hu : ∀ k, y.unit k = (x.setUnit p (u.issued stall dry)).unit k) :
    ∃ z, Issued s (pierAdvance s img c y p) st p stall dry x u z ∧ OnlySteps s (pierAdvance s img c y p) ∧ z.inbound = y.inbound ∧
      ∀ k, z.stream k = y.stream k := by
  have hp : y.unit p = u.issued stall dry := (hu p).trans ((unit_setUnit x p p _).trans (if_pos rfl))
  rw [pierAdvance_idle (by rw [hp]; exact hm) (by rw [hp]; exact hf)]
  refine ⟨_, issued_of_samePlace hx rfl (hid.trans (id_of_stepOf hx)) ?_ fun k hk => ?_, (setStep_frame _ _).onlySteps, settle_inbound _ _,
    fun k => settle_stream _ _ _⟩
  · rw [unit_setUnit, if_pos rfl, hp]
    exact .refl _
  · rw [unit_setUnit, if_neg hk, hu, unit_setUnit, if_neg hk]

/-! ### Movement in -/

theorem stream_issueIn (x : Step) (p cyc desc n line k : Nat) : (issueIn x p cyc desc n line).stream k =
    if k = desc then { x.stream desc with pos := kput (x.stream desc).pos p (kget 0 (x.stream desc).pos p + n) } else x.stream k :=
  stream_setStream x desc k _

/-- On its turn, on time and with nothing under way, TILE_IN takes the present blocks of one tile. -/
theorem execTileIn_onTurn (h : PierTurn s st p x img c u ins) (hop : ins.op = .tileIn desc addr) (ht : OnTime img x u ins.cycle stall)
    (hm : u.mmas = []) (hd : img.descs[desc]? = some d) : execTileIn st p stall dry s = .next (pierAdvance s img c
      (issueIn (x.setUnit p (u.issued stall dry)) p ins.cycle desc (presentCount img d)
        (addr + (if d.packed then 0 else blockLines d.fmt * (presentIdx img d).headD 0))) p) :=
  pierTurn_issues h ht (overLag_of_mmas_nil hm _)
    (by simp only [hop, hd, Option.map_some, tileBlocksOf_of_getElem? hd, moveBase_tile])

/-- On its turn, on time and with nothing under way, BLOCKS_IN takes NB blocks. -/
theorem execBlocksIn_onTurn (h : PierTurn s st p x img c u ins) (hop : ins.op = .blocksIn desc addr n) (ht : OnTime img x u ins.cycle stall)
    (hm : u.mmas = []) : execBlocksIn st p stall dry s =
      .next (pierAdvance s img c (issueIn (x.setUnit p (u.issued stall dry)) p ins.cycle desc n addr) p) :=
  pierTurn_issues h ht (overLag_of_mmas_nil hm _) (by simp only [hop])

/-- After a movement in, the transfer is under way from the pier's position in the stream, which has moved past its blocks. -/
theorem issueIn_moved (c : Ctx) (hx : stepOf s st = some x) (hm : u.mmas = []) (hf : u.fills = []) :
    let t := pierAdvance s img c (issueIn (x.setUnit p (u.issued stall dry)) p cyc desc n line) p
    ∃ y, Issued s t st p stall dry x u y ∧ OnlySteps s t ∧
      y.inbound = x.inbound ++ [⟨p, desc, kget 0 (x.stream desc).pos p, n, line, cyc, 0⟩] ∧
      y.stream desc = { x.stream desc with pos := kput (x.stream desc).pos p (kget 0 (x.stream desc).pos p + n) } ∧
      (∀ k, k ≠ desc → y.stream k = x.stream k) := by
  obtain ⟨y, hissued, hsteps, hin, hstream⟩ :=
    pierAdvance_moved (img := img) c (y := issueIn (x.setUnit p (u.issued stall dry)) p cyc desc n line) hx hm hf rfl fun _ => rfl
  refine ⟨y, hissued, hsteps, hin, ?_, fun k hk => ?_⟩
  · rw [hstream, stream_issueIn, if_pos rfl]
    rfl
  · rw [hstream, stream_issueIn, if_neg hk]
    rfl

/-! ### Movement out -/

/-- The bytes of `n` lines, one by one. -/
theorem readLines_eq_map (s : State) (img : Image) (c : Ctx) (st p cyc addr n : Nat) : readLines s img c st p cyc addr n =
    (List.range (64 * n)).map fun b => vread 0 s.pm.tile st cyc (lineKey p (residentLine img c p (addr + b / 64)) + b % 64) := by
  refine List.ext_getElem (by rw [length_readLines, List.length_map, List.length_range]) fun i hi _ => ?_
  rw [length_readLines] at hi
  rw [← List.getD_eq_getElem _ 0, getD_readLines _ _ _ _ _ _ _ hi, List.getElem_map, List.getElem_range]

theorem stream_issueOut (s : State) (img : Image) (c : Ctx) (x : Step) (d : Desc) (p cyc desc n line k : Nat) :
    (issueOut s img c x d p cyc desc n line).stream k =
      if k = desc then
        { x.stream desc with
          outPos := kput (x.stream desc).outPos p (kget 0 (x.stream desc).outPos p + n)
          blocks := (x.stream desc).blocks ++ (List.range n).map fun j =>
            ⟨readLines s img c x.id p cyc (line + moveLine img d (kget 0 (x.stream desc).outPos p) j) (blockLines d.fmt),
              (tagFor img x desc ((kget 0 (x.stream desc).outPos p + j) / presentCount img d) 0).getD 0, cyc⟩ }
      else x.stream k := by
  unfold issueOut
  dsimp only
  rw [stream_produce, stream_setStream, stream_setStream, if_pos rfl]
  split <;> rfl

/-- Issuing an instruction leaves the streams where they stand. -/
theorem goesOn_setUnit (x : Step) (p : Nat) (v : UnitSt) : GoesOn x (x.setUnit p v) :=
  ⟨rfl, fun _ => rfl, fun _ => ⟨[], (List.append_nil _).symm⟩⟩

/-- The next `n` blocks out have landed, from `line` on, and their tags are known. -/
def OutKnown (img : Image) (x : Step) (d : Desc) (p cyc desc n line : Nat) : Prop :=
  ∀ j < n, (∀ l < d.fmt.size, awaitsLine img x p (line + moveLine img d (kget 0 (x.stream desc).outPos p) j + l) cyc = false) ∧
    (tagFor img x desc ((kget 0 (x.stream desc).outPos p + j) / presentCount img d) 0).isSome = true

theorem OutKnown.outReady_setUnit (h : OutKnown img x d p cyc desc n line) (v : UnitSt) :
    outReady img (x.setUnit p v) d p cyc desc n line = true := by
  refine List.all_eq_true.mpr fun j hj => ?_
  obtain ⟨hlanded, htag⟩ := h j (List.mem_range.mp hj)
  refine Bool.and_eq_true_iff.mpr ⟨List.all_eq_true.mpr fun l hl => ?_, (goesOn_setUnit x p v).tagFor_isSome htag⟩
  rw [awaitsLine_of_inbound (x := x) (y := x.setUnit p v) rfl, Bool.not_eq_true']
  exact hlanded l (List.mem_range.mp hl)

theorem OutKnown.moveOut_eq (h : OutKnown img x d p cyc desc n (moveBase img d tile addr)) (c : Ctx) (v : UnitSt)
    (hd : descOf img x desc = some d) : moveOut s img c (x.setUnit p v) tile p cyc desc n addr =
      some (some (s, issueOut s img c (x.setUnit p v) d p cyc desc n (moveBase img d tile addr))) := by
  unfold moveOut
  rw [show descOf img (x.setUnit p v) desc = some d from hd, Option.map_some]
  dsimp only
  rw [if_pos (h.outReady_setUnit v)]

/-- On its turn, on time, with nothing under way and its blocks known, TILE_OUT sends the present blocks of one tile. -/
theorem execTileOut_onTurn (h : PierTurn s st p x img c u ins) (hop : ins.op = .tileOut desc addr) (ht : OnTime img x u ins.cycle stall)
    (hm : u.mmas = []) (hd : descOf img x desc = some d)
    (ho : OutKnown img x d p ins.cycle desc (presentCount img d)
      (addr + (if d.packed then 0 else blockLines d.fmt * (presentIdx img d).headD 0))) : execTileOut st p stall dry s =
      .next (pierAdvance s img c (issueOut s img c (x.setUnit p (u.issued stall dry)) d p ins.cycle desc (presentCount img d)
        (addr + (if d.packed then 0 else blockLines d.fmt * (presentIdx img d).headD 0))) p) := by
  rw [← moveBase_tile] at ho ⊢
  exact pierTurn_issues h ht (overLag_of_mmas_nil hm _) (by simp only [hop, tileBlocksOf_of_descOf hd, ho.moveOut_eq c _ hd])

/-- On its turn, on time, with nothing under way and its blocks known, BLOCKS_OUT sends NB blocks. -/
theorem execBlocksOut_onTurn (h : PierTurn s st p x img c u ins) (hop : ins.op = .blocksOut desc addr n) (ht : OnTime img x u ins.cycle stall)
    (hm : u.mmas = []) (hd : descOf img x desc = some d) (ho : OutKnown img x d p ins.cycle desc n addr) : execBlocksOut st p stall dry s =
      .next (pierAdvance s img c (issueOut s img c (x.setUnit p (u.issued stall dry)) d p ins.cycle desc n addr) p) :=
  pierTurn_issues h ht (overLag_of_mmas_nil hm _)
    (by simp only [hop]; exact OutKnown.moveOut_eq (tile := false) ho c _ hd)

/-- After a movement out, the lines of the store stand at the stream's end as its next blocks. -/
theorem issueOut_moved (c : Ctx) (hx : stepOf s st = some x) (hm : u.mmas = []) (hf : u.fills = []) :
    let t := pierAdvance s img c (issueOut s img c (x.setUnit p (u.issued stall dry)) d p cyc desc n line) p
    ∃ y, Issued s t st p stall dry x u y ∧ OnlySteps s t ∧
      (y.stream desc).blocks.map (·.bytes) = (x.stream desc).blocks.map (·.bytes) ++ (List.range n).map (fun j =>
        (List.range (64 * d.fmt.size)).map fun b =>
          vread 0 s.pm.tile st cyc
            (lineKey p (residentLine img c p (line + moveLine img d (kget 0 (x.stream desc).outPos p) j + b / 64)) + b % 64)) ∧
      kget 0 (y.stream desc).outPos p = kget 0 (x.stream desc).outPos p + n ∧
      (∀ k, k ≠ desc → y.stream k = x.stream k) := by
  obtain rfl : x.id = st := id_of_stepOf hx
  obtain ⟨y, hissued, hsteps, -, hstream⟩ := pierAdvance_moved (img := img) c
    (y := issueOut s img c (x.setUnit p (u.issued stall dry)) d p cyc desc n line) hx hm hf rfl fun _ => rfl
  refine ⟨y, hissued, hsteps, ?_, ?_, fun k hk => ?_⟩
  · rw [hstream, stream_issueOut, if_pos rfl]
    simp only [List.map_append, List.map_map, Function.comp_def, readLines_eq_map]
    rfl
  · rw [hstream, stream_issueOut, if_pos rfl]
    exact (kget_kput 0 _ p p _).trans (if_pos rfl)
  · rw [hstream, stream_issueOut, if_neg hk]
    rfl

end Moves

/-- Settles O9: each movement is its pier's turn, which with nothing under way changes streams and transfers of the step alone. -/
theorem streamsMoveBetweenDeckAndStore : Obligations.StreamsMoveBetweenDeckAndStore := by
  refine ⟨fun s st p stall dry x img c u ins desc addr n line d i hturn htime hm hf hd hi => ?movesIn,
    fun s st p stall dry x img c u ins d desc addr n line i hturn htime hm hf hd hi hknown => ?movesOut⟩
  case movesIn =>
    obtain ⟨y, hmoved⟩ := issueIn_moved (img := img) (p := p) (stall := stall) (dry := dry) (desc := desc) (n := n) (line := line)
      (cyc := ins.cycle) c hturn.step hm hf
    rcases hi with ⟨hop, rfl, rfl, rfl⟩ | ⟨hop, rfl, rfl⟩
    · exact ⟨_, y, execTileIn_onTurn hturn hop htime hm hd, hmoved⟩
    · exact ⟨_, y, execBlocksIn_onTurn hturn hop htime hm, hmoved⟩
  case movesOut =>
    obtain ⟨y, hmoved⟩ := issueOut_moved (img := img) (p := p) (stall := stall) (dry := dry) (desc := desc) (n := n) (line := line)
      (cyc := ins.cycle) (d := d) c hturn.step hm hf
    rcases hi with ⟨hop, rfl, rfl, rfl⟩ | ⟨hop, rfl, rfl⟩
    · exact ⟨_, y, execTileOut_onTurn hturn hop htime hm hd hknown, hmoved⟩
    · exact ⟨_, y, execBlocksOut_onTurn hturn hop htime hm hd hknown, hmoved⟩

end Sys2Proof.StreamMoves


/-! PROOFS of the streams family, element-wise vector instructions and the table station (O10, O12). Every such instruction is one
station instruction with its own element function; where an operand has not arrived, it is a wait. -/

namespace Sys2Proof.StationElements

open Sys2Proof.Machine Sys2Proof.Safety Sys2Proof.Laws Sys2Proof.StationResults Sys2Proof.PierTurns

/-! ### Waiting (R75, R134, R145) -/

section Waits

variable {s : State} {st key stall dry : Nat} {x : Step} {u : UnitSt}

/-- An answer that leaves the unit waiting: the unit waited, and nothing but its step changed. -/
theorem waited_of_eq_waitUnit {o : Host.Outcome State Fault Refusal} (hx : stepOf s st = some x)
    (h : o = .next (waitUnit s x key u stall dry)) : ∃ t y, o = .next t ∧ Waited s t st key stall dry x u y ∧ OnlySteps s t :=
  ⟨_, _, h, waited_waitUnit key stall dry u hx, (waitUnit_frame s x key u stall dry).onlySteps⟩

/-- Where no read of the host has failed, a unit that finds no data waits (R342). -/
theorem waitFor_of_no_failed_read (h : ∀ r ∈ s.host.reads, r.failed = false) (ds : List Nat) :
    waitFor s x key u stall dry ds = waitUnit s x key u stall dry := by
  have hnone : brokenRead s x ds = none := List.find?_eq_none.mpr fun r hr => by
    rw [h r hr, Bool.false_and]
    exact Bool.false_ne_true
  unfold waitFor
  rw [hnone]

end Waits

/-! ### Element-wise vector instructions (R136, R137) -/

/-- Each of the operations runs the one element-wise meaning, with the ARG of the instruction it is about to issue. -/
theorem exec_vectorOp (st sp stall : Nat) (s : State) : ∀ op ∈ vectorOps, ∃ lanes, exec (op.1 st sp stall) s =
    .next (vecElem op.2.1 op.2.2.1 op.2.2.2.1 lanes (op.2.2.2.2 (nextArg s st (2000 + sp) fun img => kget [] img.vectors sp)) st sp stall s) := by
  simp only [vectorOps, List.forall_mem_cons]
  exact ⟨⟨fullLanes, rfl⟩, ⟨fullLanes, rfl⟩, ⟨fullLanes, rfl⟩, ⟨fullLanes, rfl⟩, ⟨fullLanes, rfl⟩, ⟨fullLanes, rfl⟩, ⟨fullLanes, rfl⟩,
    ⟨fullLanes, rfl⟩, ⟨fullLanes, rfl⟩, ⟨fullLanes, rfl⟩, ⟨fullLanes, rfl⟩, ⟨fullLanes, rfl⟩, ⟨divLanes, rfl⟩, ⟨divLanes, rfl⟩,
    ⟨divLanes, rfl⟩, ⟨divLanes, rfl⟩, fun _ h => absurd h List.not_mem_nil⟩

theorem nextArg_onTurn {s : State} {st key : Nat} {listOf : Image → List VecIns} {x : Step} {img : Image} {c : Ctx} {u : UnitSt} {ins : VecIns}
    (h : Turn s st key listOf (·.cycle) x img c u ins) : nextArg s st key listOf = ins.arg := by
  unfold nextArg
  rw [nextIns_eq_some.mpr h]

section Vector

variable {s : State} {st sp stall vop : Nat} {x : Step} {img : Image} {c : Ctx} {u : UnitSt} {ins : VecIns} {useB useC : Bool}
  {lanes : Bool → Nat} {g : VecFn} {a : Desc × List (List (Option Bytes))} {b e : Option (Desc × List (List (Option Bytes)))} {d : Desc}

/-- On its turn, with its operands arrived, an element-wise instruction is one station instruction. -/
theorem vecElem_onTurn (h : VectorTurn s st sp x img c u ins) (hop : ins.vop = vop)
    (ha : operandTiles s img x true ins.srcA ins.cycle = some (some a)) (hb : operandTiles s img x useB ins.srcB ins.cycle = some b)
    (he : operandTiles s img x useC ins.srcC ins.cycle = some e) (hd : descOf img x ins.dst = some d) :
    vecElem vop useB useC lanes g st sp stall s =
      stationRun s img x (2000 + sp) sp u stall ins.dst d ins.cycle (fun n => readTag img x ins.srcA n a.1)
        (elemResult g (precFmt ins.prec) d.fmt ins.bcast a.1 (some a) b e)
        (fun n i j => (ins.cycle + laneGroup d (lanes ins.prec) n i j, .station n i j u.next)) := by
  unfold vecElem
  rw [nextIns_eq_some.mpr h]
  dsimp only
  rw [if_pos hop, ha, hb, he, hd]

/-- On its turn, while SRC_A has not arrived, an element-wise instruction waits for its operands. -/
theorem vecElem_waits (h : VectorTurn s st sp x img c u ins) (hop : ins.vop = vop)
    (ha : operandTiles s img x true ins.srcA ins.cycle = none) (hr : ∀ r ∈ s.host.reads, r.failed = false) :
    vecElem vop useB useC lanes g st sp stall s = waitUnit s x (2000 + sp) u stall 0 := by
  unfold vecElem
  rw [nextIns_eq_some.mpr h]
  dsimp only
  rw [if_pos hop, ha]
  exact waitFor_of_no_failed_read hr _

end Vector

/-- Settles O10: each operation is one station instruction, and a station instruction on time writes what its element function gives. -/
theorem vectorElementwiseResult : Obligations.VectorElementwiseResult := by
  intro op hop s st sp stall x img c u ins a b e da d hturn hvop htime ha hda hb he hdst htag
  obtain ⟨a, rfl, rfl⟩ := Option.map_eq_some_iff.mp hda
  obtain ⟨lanes, hexec⟩ := exec_vectorOp st sp stall s op hop
  rw [nextArg_onTurn hturn, vecElem_onTurn hturn hvop ha hb he hdst] at hexec
  obtain ⟨y, hissued, hwrote⟩ := stationRun_wrote _ _ hturn.step htime htag
  exact ⟨_, y, hexec, hissued, hwrote⟩

/-! ### The table station (R140 to R142) -/

/-- One element of a table-station instruction: `g` at the operands in FP32, converted into DST's format. -/
def tabResult (g : Nat → Nat → Nat × Nat) (df : Fmt) (bcast : Bool) (a : Desc × List (List (Option Bytes)))
    (b : Option (Desc × List (List (Option Bytes)))) : ElemFn := fun n i j =>
  let va := widen .fp32 a.1.fmt (operandBits (some a) n i j)
  let vb := widen .fp32 (operandFmt b) (operandBits b (bTile a.1 b bcast n) i (if bcast then 0 else j))
  let r := g (fcvt .fp32 va.1).1 (fcvt .fp32 vb.1).1
  let q := fconv .fp32 df r.1
  (q.1, r.2 ||| q.2 ||| va.2 ||| vb.2)

section Table

variable {s : State} {st sp stall code : Nat} {x : Step} {img : Image} {c : Ctx} {u : UnitSt} {ins : VecIns} {useB : Bool}
  {g : TableRec → Nat → Nat → Nat × Nat} {a : Desc × List (List (Option Bytes))} {b : Option (Desc × List (List (Option Bytes)))}
  {d : Desc} {tab : TableRec}

/-- On its turn, with its operands arrived, a table-station instruction is one station instruction. -/
theorem tabElem_onTurn (h : TableTurn s st sp x img c u ins) (hop : ins.vop = code)
    (ha : operandTiles s img x true ins.srcA ins.cycle = some (some a)) (hb : operandTiles s img x useB ins.srcB ins.cycle = some b)
    (hd : descOf img x ins.dst = some d) (ht : img.tabs[ins.arg]? = some tab) :
    tabElem code useB g st sp stall s =
      stationRun s img x (2100 + sp) sp u stall ins.dst d ins.cycle (fun n => readTag img x ins.srcA n a.1)
        (tabResult (g tab) d.fmt ins.bcast a b) (fun n i j => (ins.cycle + laneGroup d 128 n i j, .station n i j u.next)) := by
  unfold tabElem
  rw [nextIns_eq_some.mpr h]
  dsimp only
  rw [if_pos hop, ha, hb, hd, ht]
  rfl

/-- On its turn, while SRC_A has not arrived, a table-station instruction waits for its operands. -/
theorem tabElem_waits (h : TableTurn s st sp x img c u ins) (hop : ins.vop = code)
    (ha : operandTiles s img x true ins.srcA ins.cycle = none) (hr : ∀ r ∈ s.host.reads, r.failed = false) :
    tabElem code useB g st sp stall s = waitUnit s x (2100 + sp) u stall 0 := by
  unfold tabElem
  rw [nextIns_eq_some.mpr h]
  dsimp only
  rw [if_pos hop, ha]
  exact waitFor_of_no_failed_read hr _

end Table

/-! ### Piers that wait (R75, R134) -/

section Piers

variable {s t : State} {st p stall dry : Nat} {x y : Step} {img : Image} {c : Ctx} {u : UnitSt} {ins : PierIns}
  {run : State → Step → Image → Ctx → PierIns → Option (Option (State × Step))}

/-- While an entrance would lag by more than 8 k-steps, the pier waits at an instruction that could go (R75). -/
theorem pierTurn_lags (h : PierTurn s st p x img c u ins) (hl : u.overLag ins.cycle = true)
    (hr : run s (x.setUnit p (u.issued stall dry)) img c ins = some (some (t, y))) :
    pierTurn st p stall dry run s = .next (waitUnit s x p u stall dry) := by
  unfold pierTurn
  rw [nextIns_eq_some.mpr h]
  dsimp only
  rw [hr]
  dsimp only
  rw [hl, if_pos rfl]

/-- While a line that it reads has not landed, BANK_WRITE waits (R134). -/
theorem execBankWrite_waits {bank addr : Nat} (h : PierTurn s st p x img c u ins) (hop : ins.op = .bankWrite bank addr)
    (ha : ∃ l < 4 * (maskArrays ins.mask).length, awaitsLine img x p (addr + l) ins.cycle = true) :
    execBankWrite st p stall dry s = .next (waitUnit s x p u stall dry) := by
  obtain ⟨l, hl, ha⟩ := ha
  have hany : ((List.range (4 * (maskArrays ins.mask).length)).any fun l =>
      awaitsLine img (x.setUnit p (u.issued stall dry)) p (addr + l) ins.cycle) = true :=
    List.any_eq_true.mpr ⟨l, List.mem_range.mpr hl, ha⟩
  exact pierTurn_waits h (by simp only [hop, hany, if_true])

/-- MMA and FILL could always go: while an entrance would lag, they wait (R75). -/
theorem execMma_lags {bank : Nat} {acc : Bool} {fa fb : Fmt} {ta tb : Bool} {aSlot bSlot kb : Nat} (h : PierTurn s st p x img c u ins)
    (hop : ins.op = .mma bank acc fa fb ta tb aSlot bSlot kb) (hl : u.overLag ins.cycle = true) :
    execMma st p stall dry s = .next (waitUnit s x p u stall dry) := pierTurn_lags h hl (by simp only [hop]; rfl)

theorem execFill_lags {sideB : Bool} {f : Fmt} {slot addr : Nat} (h : PierTurn s st p x img c u ins) (hop : ins.op = .fill sideB f slot addr)
    (hl : u.overLag ins.cycle = true) : execFill st p stall dry s = .next (waitUnit s x p u stall dry) :=
  pierTurn_lags h hl (by simp only [hop]; rfl)

end Piers

/-- Settles O12: the table station's instructions by their element functions; the waits by the one way in which each kind of unit
leaves its instruction where it is. -/
theorem tableStationResultAndWaits : Obligations.TableStationResultAndWaits := by
  refine ⟨fun s st sp stall x img c u ins d tab a hturn htime hdst htab ha htag => ⟨fun hvop => ?eval, fun b hvop hb => ?derivMul⟩,
    fun s st p stall dry x img c u ins hturn => ⟨fun bank addr hop hawaits => ?bankWrite, fun i hlag hi => ?lag⟩,
    fun op hop s st sp stall x img c u ins hturn hvop ha hreads => ?vector,
    fun s st sp stall x img c u ins hturn hvop ha hreads => ?table⟩
  case eval =>
    obtain ⟨y, hissued, hwrote⟩ := stationRun_wrote (tabResult (fun v _ => tableEval tab v) d.fmt ins.bcast a none) _ hturn.step htime htag
    exact ⟨_, y, congrArg Host.Outcome.next (tabElem_onTurn hturn hvop ha rfl hdst htab), hissued, hwrote⟩
  case derivMul =>
    obtain ⟨y, hissued, hwrote⟩ := stationRun_wrote _ _ hturn.step htime htag
    exact ⟨_, y, congrArg Host.Outcome.next (tabElem_onTurn hturn hvop ha hb hdst htab), hissued, hwrote⟩
  case bankWrite => exact waited_of_eq_waitUnit hturn.step (execBankWrite_waits hturn hop hawaits)
  case lag =>
    rcases hi with ⟨bank, acc, fa, fb, ta, tb, aSlot, bSlot, kb, hop, rfl⟩ | ⟨sideB, f, slot, addr, hop, rfl⟩
    · exact waited_of_eq_waitUnit hturn.step (execMma_lags hturn hop hlag)
    · exact waited_of_eq_waitUnit hturn.step (execFill_lags hturn hop hlag)
  case vector =>
    obtain ⟨lanes, hexec⟩ := exec_vectorOp st sp stall s op hop
    rw [vecElem_waits hturn hvop ha hreads] at hexec
    exact waited_of_eq_waitUnit hturn.step hexec
  case table => exact waited_of_eq_waitUnit hturn.step (congrArg Host.Outcome.next (tabElem_waits hturn hvop ha hreads))

end Sys2Proof.StationElements


/-! PROOFS of the streams family, tiles read ahead (O16): what a checked read of a tile's lines comes to, the tile that a bearing brings
to hand, and the reads that PREFETCH issues. -/

namespace Sys2Proof.TilesAhead

open Sys2Proof.Machine Sys2Proof.Safety Sys2Proof.Laws Sys2Proof.Commits Sys2Proof.Arrivals

/-! ### Poison (R240) -/

theorem poison_eq_of_frame {l : List Part} {s t : State} (h : Frame l s t) (hs : Part.sm ∉ l) : t.sm.poison = s.sm.poison := by
  have hsm : { t.sm with mem := s.sm.mem } = s.sm := h .sm hs
  exact (congrArg Stacked.poison hsm :)

theorem linePoisoned_eq_of_poison {s t : State} (h : t.sm.poison = s.sm.poison) (pa : Nat) : linePoisoned t pa = linePoisoned s pa := by
  rw [linePoisoned, linePoisoned, h]

theorem linePoisoned_poisonLine (s : State) (pa : Nat) : linePoisoned (poisonLine s pa) pa = true := by
  have hmem : pa / 128 * 4 + 0 ∈ lineCws pa := List.mem_map_of_mem (List.mem_range.mpr (by decide))
  refine List.any_eq_true.mpr ⟨_, hmem, List.contains_iff_mem.mpr (List.mem_append.mpr ?_)⟩
  by_cases h : pa / 128 * 4 + 0 ∈ s.sm.poison
  · exact .inl h
  · exact .inr (List.mem_filter.mpr ⟨hmem, by simpa using h⟩)

/-- A fresh uncorrectable codeword poisons its line, and nothing but that. -/
theorem poison_noteUncorrectable (s : State) (pa cw : Nat) (src : MemSource) :
    (noteUncorrectable s pa cw src).1.sm.poison = (poisonLine s pa).sm.poison := by
  have hlog : (logMem (poisonLine s pa) 2 pa src 63 cw).1.sm.poison = (poisonLine s pa).sm.poison :=
    (poison_eq_of_frame (logErr_frame _ _ _ _) (by decide) : _ = (noteMem (poisonLine s pa) 2 pa src 63 cw).1.sm.poison)
  unfold noteUncorrectable
  dsimp only
  split
  · exact (poison_eq_of_frame (sendVector_frame _ _) (by decide)).trans hlog
  · exact hlog

theorem poison_iteSelf {p : Prop} [Decidable p] {s t : State} (h : t.sm.poison = s.sm.poison) :
    (if p then t else s).sm.poison = s.sm.poison := by
  split
  · exact h
  · rfl

/-- The end of a step poisons nothing and cleans nothing. -/
theorem poison_endStep (s : State) (x : Step) (y : Reply) : (endStep s x y).sm.poison = s.sm.poison := by
  have hreply : (endStep s x y).sm.poison = _ := poison_eq_of_frame (replyStep_frame _ _ _) (by decide)
  have hflight (t : State) : (wcRelease (dropFlight t x) x.id).sm.poison = t.sm.poison := rfl
  have hlearn : (learnKill (slopeChange (bookFiller s x)) x).sm.poison = (bookFiller s x).sm.poison :=
    (poison_eq_of_frame (learnKill_frame _ x) (by decide) : _ = (slopeChange (bookFiller s x)).sm.poison)
  have hopen (t : State) : (openWrites t x).sm.poison = t.sm.poison := poison_eq_of_frame (openWrites_frame t x) (by decide)
  rw [hreply, hflight, poison_iteSelf (poison_eq_of_frame (noteSums_frame _ x) (by decide))]
  refine (poison_iteSelf ?_).trans (poison_eq_of_frame (bookFiller_frame s x) (by decide))
  exact (hopen _).trans hlearn

/-! ### A checked read with one verdict or none (R240, R243) -/

theorem linePoisoned_of_poison_nil {s : State} (h : s.sm.poison = []) (pa : Nat) : linePoisoned s pa = false := by
  rw [linePoisoned, h]
  rfl

section Checks

variable {s : State} {eccs : List Ecc} {src : MemSource} {e : Nat × Nat} {pa : Nat}

theorem verdicts_eq_nil {l : Nat} (h : ∀ v ∈ eccs, v.line ≠ l) : (eccs.filter fun v => decide (v.line = l)) = [] :=
  List.filter_eq_nil_iff.mpr fun v hv => by simpa using h v hv

/-- A line without a verdict, in memory with nothing poisoned, is delivered. -/
theorem checkLine_of_no_verdict (hp : s.sm.poison = []) (he : ∀ v ∈ eccs, v.line ≠ e.1) : checkLine eccs src (s, none) e = (s, none) := by
  unfold checkLine
  rw [linePoisoned_of_poison_nil hp, if_neg Bool.false_ne_true, verdicts_eq_nil he, List.foldl_nil]

theorem foldl_checkLine_of_no_verdict (hp : s.sm.poison = []) (l : List (Nat × Nat)) (hl : ∀ e ∈ l, ∀ v ∈ eccs, v.line ≠ e.1) :
    l.foldl (checkLine eccs src) (s, none) = (s, none) :=
  List.foldlRecOn (motive := fun q => q = (s, none)) l _ rfl fun q hq e he => by rw [hq, checkLine_of_no_verdict hp (hl e he)]

/-- With no verdict and nothing poisoned every line is delivered. -/
theorem checkLines_nil_eccs (hp : s.sm.poison = []) (pas : List Nat) (src : MemSource) : checkLines s pas [] src = (s, none) :=
  foldl_checkLine_of_no_verdict hp _ fun _ _ _ h => absurd h List.not_mem_nil

/-- The read has met a line that cannot be delivered, and the line at `pa` reads as poisoned. -/
structure Undelivered (pa : Nat) (q : State × Option (BitVec 128)) : Prop where
  record : q.2.isSome = true
  poisoned : linePoisoned q.1 pa = true

/-- Lines without a verdict keep it so. -/
theorem Undelivered.checkLine {q : State × Option (BitVec 128)} (h : Undelivered pa q) (he : ∀ v ∈ eccs, v.line ≠ e.1) :
    Undelivered pa (checkLine eccs src q e) := by
  unfold Machine.checkLine
  split
  · exact ⟨by rw [Option.isSome_or, h.record, Bool.true_or], (linePoisoned_eq_of_poison rfl pa).trans h.poisoned⟩
  · rw [verdicts_eq_nil he, List.foldl_nil]
    exact h

/-- An uncorrectable codeword in a line that is not poisoned: the line is poisoned and cannot be delivered. -/
theorem checkLine_uncorrectable (hp : s.sm.poison = []) (l cw : Nat) :
    Undelivered pa (checkLine [.uncorrectable l cw] src (s, none) (l, pa)) := by
  have hone : ([.uncorrectable l cw] : List Ecc).filter (fun v => decide (v.line = l)) = [.uncorrectable l cw] :=
    List.filter_cons_of_pos (decide_eq_true rfl)
  unfold checkLine
  rw [linePoisoned_of_poison_nil hp, if_neg Bool.false_ne_true, hone]
  exact ⟨rfl, (linePoisoned_eq_of_poison (poison_noteUncorrectable s pa cw src) pa).trans (linePoisoned_poisonLine s pa)⟩

/-- The lines of a read, with their places in it, around line `l`. -/
theorem zip_range_eq_around {pas : List Nat} {l : Nat} (h : pas[l]? = some pa) : ∃ before after,
    (List.range pas.length).zip pas = before ++ (l, pa) :: after ∧ (∀ e ∈ before, l ≠ e.1) ∧ ∀ e ∈ after, l ≠ e.1 := by
  have hlen : l < pas.length := (List.getElem?_eq_some_iff.mp h).1
  have hmem : (l, pa) ∈ (List.range pas.length).zip pas :=
    List.mem_iff_getElem?.mpr ⟨l, List.getElem?_zip_eq_some.mpr ⟨List.getElem?_range hlen, h⟩⟩
  obtain ⟨before, after, heq⟩ := List.append_of_mem hmem
  have hnodup : (((List.range pas.length).zip pas).map Prod.fst).Nodup := by
    rw [List.map_fst_zip (by rw [List.length_range])]
    exact List.nodup_range
  rw [heq, List.map_append, List.map_cons, List.nodup_append, List.nodup_cons] at hnodup
  obtain ⟨-, ⟨hafter, -⟩, hbefore⟩ := hnodup
  exact ⟨before, after, heq, fun e he hl => hbefore _ (List.mem_map_of_mem he) l (List.mem_cons_self ..) hl.symm,
    fun e he hl => hafter (List.mem_map.mpr ⟨e, he, hl.symm⟩)⟩

/-- A read whose line `l` holds an uncorrectable codeword cannot be delivered, and poisons that line. -/
theorem checkLines_uncorrectable (hp : s.sm.poison = []) {pas : List Nat} {l : Nat} (h : pas[l]? = some pa) (cw : Nat) (src : MemSource) :
    Undelivered pa (checkLines s pas [.uncorrectable l cw] src) := by
  obtain ⟨before, after, heq, hbefore, hafter⟩ := zip_range_eq_around h
  unfold checkLines
  rw [heq, List.foldl_append, List.foldl_cons, foldl_checkLine_of_no_verdict hp before fun e he v hv => ?_]
  · exact List.foldlRecOn (motive := Undelivered pa) after _ (checkLine_uncorrectable hp l cw) fun q hq e he =>
      hq.checkLine fun v hv => by rw [List.mem_singleton.mp hv]; exact hafter e he
  · rw [List.mem_singleton.mp hv]
    exact hbefore e he

end Checks

/-! ### A step of one module that fails (R289) -/

theorem failStep_of_single {s : State} {x : Step} {img : Image} (y : Reply) (hi : imageOf s x = some img) (hm : img.multi = false) :
    failStep s x y = endStep s x y := by
  unfold failStep
  rw [hi]
  dsimp only
  rw [hm, if_neg fun h => Bool.false_ne_true h.1]

/-! ### Bearing reads (R152, R235, R240, R243) -/

/-- The lines that the present blocks of tile `n` take, where they are stored: of the bound ring copy for a weight stream. -/
def storedLines (s : State) (img : Image) (c : Ctx) (x : Step) (desc : Nat) (d : Desc) (n tag : Nat) : List Nat :=
  match weightOf img c x desc tag with
  | some (t, k) => (tileOffsets img d n).map (tensorPa s c t.num k)
  | none => (tileOffsets img d n).filterMap fun a => (paOf c a).map (resolve s)

/-- The step once tile `n`, read over `lines` lines, is at hand. -/
def withTile (img : Image) (c : Ctx) (x : Step) (desc : Nat) (d : Desc) (n tag lines : Nat) : Step :=
  let y := fetch x desc (memBlocks img c x desc d n tag)
  { y with activity := { y.activity with memory := y.activity.memory + lines } }

/-- What the verdicts deliver wrong stands in the ring copy that a weight stream reads (R240). -/
def withWrongData (s : State) (img : Image) (c : Ctx) (x : Step) (desc : Nat) (d : Desc) (n tag : Nat) (eccs : List Ecc) : State :=
  match weightOf img c x desc tag with
  | some (t, k) => updCtx s x.ctx fun c =>
      (wrongData eccs).foldl (fun c e => putCopy c t k ((tileOffsets img d n).getD e.1 0 + 32 * e.2.1) e.2.2) c
  | none => s

/-- What the read of tile `n` comes to, from the outcome of the check of its lines. -/
def readOutcome (img : Image) (c : Ctx) (x : Step) (desc : Nat) (d : Desc) (n tag lines : Nat) (eccs : List Ecc) :
    State × Option (BitVec 128) → Host.Outcome State Fault Refusal
  | (s, some rec) => .next (failStep s x (memUe rec))
  | (s, none) =>
    let s := withWrongData s img c x desc d n tag eccs
    .next (setStep s (withTile img ((ctxOf s x.ctx).getD c) x desc d n tag lines))

/-- Tile `n` of a stored stream is the next to be read, and its tag is known. -/
structure TileDue (s : State) (st desc : Nat) (x : Step) (img : Image) (c : Ctx) (d : Desc) (n tag : Nat) : Prop where
  arriving : Arriving s st desc x img c d
  space : d.space = 0
  place : n = (x.stream desc).fetched.length / max 1 (presentCount img d)
  left : n < d.tiles
  stored : bindOf img 2 desc = none → d.base < windowBase
  tagKnown : tagFor img x desc n d.stash = some tag

section Bearing

variable {s : State} {st desc n tag : Nat} {x : Step} {img : Image} {c : Ctx} {d : Desc} {eccs : List Ecc}

theorem imageOf_of_arriving (h : Arriving s st desc x img c d) : imageOf s x = some img := by
  rw [imageOf, h.ctx, Option.bind_some, h.image]

theorem weightOf_eq_none (h : bindOf img 2 desc = none) : weightOf img c x desc tag = none := by
  rw [weightOf, h]
  rfl

theorem weightOf_eq_some {b : Bind} {tn : Tensor} (h : bindOf img 2 desc = some b) (ht : tensorOf c b.count = some tn) :
    weightOf img c x desc tag = some (tn, boundCopy x tn tag) := by
  rw [weightOf, h, Option.bind_some, ht]
  rfl

/-- A tile that is due is read: the check of its lines decides. -/
theorem execBearingReadReturn_eq (h : TileDue s st desc x img c d n tag) (eccs : List Ecc) :
    exec (.bearingReadReturn st desc eccs) s =
      readOutcome img c x desc d n tag (storedLines s img c x desc d n tag).length eccs
        (checkLines s (storedLines s img c x desc d n tag) eccs .stepRead) := by
  obtain ⟨harr, hspace, rfl, hleft, hstored, htag⟩ := h
  have hgo : ¬ ((!x.state.working) = true ∨ d.space ≠ 0 ∨ d.tiles ≤ (x.stream desc).fetched.length / max 1 (presentCount img d) ∨
      ((bindOf img 2 desc).isNone = true ∧ windowBase ≤ d.base)) := by
    rintro (hw | hs | hn | ⟨hb, hw⟩)
    · rw [harr.working] at hw
      cases hw
    · exact hs hspace
    · omega
    · exact absurd (hstored (Option.isNone_iff_eq_none.mp hb)) (Nat.not_lt.mpr hw)
  show execBearingReadReturn st desc eccs s = _
  unfold execBearingReadReturn
  rw [harr.step]
  dsimp only
  rw [harr.ctx, imageOf_of_arriving harr]
  dsimp only
  rw [harr.desc]
  dsimp only
  rw [if_neg hgo, htag]
  rfl

/-- With nothing poisoned and no verdict, the tile of a stream in stacked memory is at hand. -/
theorem execBearingReadReturn_stored (h : TileDue s st desc x img c d n tag) (hp : s.sm.poison = []) (h2 : bindOf img 2 desc = none) :
    exec (.bearingReadReturn st desc []) s =
      .next (setStep s (withTile img c x desc d n tag (storedLines s img c x desc d n tag).length)) := by
  rw [execBearingReadReturn_eq h, checkLines_nil_eccs hp, readOutcome, withWrongData, weightOf_eq_none h2]
  dsimp only
  rw [h.arriving.ctx, Option.getD_some]

/-- With nothing poisoned and no verdict, the tile of a weight stream is at hand. -/
theorem execBearingReadReturn_weight {b : Bind} {tn : Tensor} (h : TileDue s st desc x img c d n tag) (hp : s.sm.poison = [])
    (h2 : bindOf img 2 desc = some b) (ht : tensorOf c b.count = some tn) : exec (.bearingReadReturn st desc []) s =
      .next (setStep (updCtx s x.ctx fun c => c) (withTile img c x desc d n tag (storedLines s img c x desc d n tag).length)) := by
  have hctx : ctxOf (updCtx s x.ctx fun c => c) x.ctx = some c := by
    rw [ctxOf_updCtx, if_pos rfl, h.arriving.ctx]
    rfl
  rw [execBearingReadReturn_eq h, checkLines_nil_eccs hp, readOutcome, withWrongData, weightOf_eq_some h2 ht]
  show Host.Outcome.next (setStep (updCtx s x.ctx fun c => c)
    (withTile img ((ctxOf (updCtx s x.ctx fun c => c) x.ctx).getD c) x desc d n tag _)) = _
  rw [hctx, Option.getD_some]

/-- An uncorrectable line of a tile ends the step of one module and stays poisoned. -/
theorem execBearingReadReturn_uncorrectable (h : TileDue s st desc x img c d n tag) (hp : s.sm.poison = []) (hm : img.multi = false)
    {l pa : Nat} (hl : (storedLines s img c x desc d n tag)[l]? = some pa) (cw : Nat) :
    ∃ t, exec (.bearingReadReturn st desc [.uncorrectable l cw]) s = .next t ∧ stepOf t st = none ∧ linePoisoned t pa = true := by
  obtain ⟨hrec, hpoisoned⟩ := checkLines_uncorrectable hp hl cw .stepRead
  have hctx := ctxOf_eq_of_frame (checkLines_frame s (storedLines s img c x desc d n tag) [.uncorrectable l cw] .stepRead) (by decide) x.ctx
  obtain rfl : x.id = st := id_of_stepOf h.arriving.step
  rw [execBearingReadReturn_eq h]
  generalize checkLines s (storedLines s img c x desc d n tag) [.uncorrectable l cw] .stepRead = q at hrec hpoisoned hctx ⊢
  obtain ⟨t, rec⟩ := q
  obtain ⟨rec, rfl⟩ := Option.isSome_iff_exists.mp hrec
  have himg : imageOf t x = some img := by
    rw [imageOf, hctx]
    exact imageOf_of_arriving h.arriving
  refine ⟨_, rfl, ?_, ?_⟩
  · rw [failStep_of_single _ himg hm]
    exact stepOf_endStep_self _ _ _
  · rw [failStep_of_single _ himg hm, linePoisoned_eq_of_poison (poison_endStep _ _ _)]
    exact hpoisoned

/-! ### What a tile at hand leaves of the step -/

theorem stream_withTile (k lines : Nat) : (withTile img c x desc d n tag lines).stream k =
    if k = desc then { x.stream desc with fetched := (x.stream desc).fetched ++ memBlocks img c x desc d n tag } else x.stream k :=
  stream_setStream x desc k _

theorem memPos_withTile (k lines : Nat) : ((withTile img c x desc d n tag lines).stream k).memPos = (x.stream k).memPos := by
  rw [stream_withTile]
  split
  · next hk => rw [hk]
  · rfl

theorem settle_bindings (s : State) (x : Step) : (settle s x).bindings = x.bindings := by
  rcases settle_eq s x with h | ⟨-, h⟩
  · rw [h]
  · rw [h]

theorem settle_ctx (s : State) (x : Step) : (settle s x).ctx = x.ctx := by
  rcases settle_eq s x with h | ⟨-, h⟩
  · rw [h]
  · rw [h]

/-- The blocks of a stream in stacked memory only say that they are at hand (R235). -/
theorem memBlocks_of_stored (h : bindOf img 2 desc = none) :
    memBlocks img c x desc d n tag = (presentIdx img d).map fun _ => ⟨[], tag, 0⟩ := by
  rw [memBlocks, h]
  rfl

/-- The blocks of a weight stream are those of the bound ring copy. -/
theorem memBlocks_of_weight {b : Bind} {tn : Tensor} (h : bindOf img 2 desc = some b) (ht : tensorOf c b.count = some tn) :
    memBlocks img c x desc d n tag = (presentIdx img d).map fun i =>
      ⟨copyBytes c tn (boundCopy x tn tag) (tileAddr d n + blockOff img d i) d.blockBytes, tag, 0⟩ := by
  rw [memBlocks, h, Option.bind_some, ht]

/-- Which writes are ahead of a read depends on the bindings and on how far each stream has been written. -/
theorem writeAhead_congr {y : Step} (hb : y.bindings = x.bindings) (hm : ∀ j, (y.stream j).memPos = (x.stream j).memPos) (cyc a len : Nat) :
    writeAhead img y d cyc a len = writeAhead img x d cyc a len := by
  have hd : ∀ j, descOf img y j = descOf img x j := fun j => by rw [descOf, descOf, hb]
  simp only [writeAhead, hd, hm]

/-- A block at hand of a stream in stacked memory reads as the writes of earlier nominal cycles left it, once none is ahead (R235). -/
theorem sourceBlock_of_inMemory {k cyc : Nat} (hs : d.space = 0) (ha : d.base < windowBase) (h2 : bindOf img 2 desc = none)
    (hc : ctxOf s x.ctx = some c) (hk : k < (x.stream desc).fetched.length)
    (hw : writeAhead img x d cyc (blockAddr img d k) d.blockBytes = false) :
    sourceBlock s img x desc d cyc k = some (readVa s c x.id cyc (blockAddr img d k) d.blockBytes) := by
  have hin : inMemory img d desc = true := by
    rw [inMemory, h2, decide_eq_true ⟨hs, ha⟩]
    rfl
  unfold sourceBlock
  dsimp only
  rw [if_neg (by rw [hs]; decide), if_pos hs, List.getElem?_eq_getElem hk, hc, hin, hw]
  rfl

/-- Bringing a tile to hand changes nothing of what its stream's blocks read. -/
theorem sourceBlock_withTile {k cyc lines : Nat} (hs : d.space = 0) (ha : d.base < windowBase) (h2 : bindOf img 2 desc = none)
    (hc : ctxOf s x.ctx = some c) (hk : k < ((settle s (withTile img c x desc d n tag lines)).stream desc).fetched.length)
    (hw : writeAhead img x d cyc (blockAddr img d k) d.blockBytes = false) :
    sourceBlock (setStep s (withTile img c x desc d n tag lines)) img (settle s (withTile img c x desc d n tag lines)) desc d cyc k =
      some (readVa s c x.id cyc (blockAddr img d k) d.blockBytes) := by
  have hctx : ctxOf s (settle s (withTile img c x desc d n tag lines)).ctx = some c := by
    rw [settle_ctx]
    exact hc
  have hsame := writeAhead_congr (x := x) (y := settle s (withTile img c x desc d n tag lines)) (img := img) (d := d) (settle_bindings _ _)
    (fun j => by rw [settle_stream, memPos_withTile]) cyc (blockAddr img d k) d.blockBytes
  rw [sourceBlock_of_inMemory (s := setStep s _) hs ha h2 hctx hk (hsame.trans hw), settle_id]
  rfl

end Bearing

/-! ### Prefetch (R92, R189) -/

/-- Reads issued one after another: they alone are new, and each has its number. -/
theorem foldl_issueRead_eq (ctx : Option Nat) (owner : Nat → HrOwner) (addr : Nat → Nat) (len : Nat) (ks : List Nat) (s : State) :
    ∃ more, ks.foldl (fun s k => issueRead s ctx (owner k) (addr k) len) s =
        { s with host := { s.host with reads := s.host.reads ++ more, nextId := s.host.nextId + more.length } } ∧
      (∀ r ∈ more, r.len = len) ∧ more.map (·.addr) = ks.map addr := by
  induction ks generalizing s with
  | nil => exact ⟨[], by rw [List.append_nil]; rfl, fun _ h => absurd h List.not_mem_nil, rfl⟩
  | cons k ks ih =>
    obtain ⟨more, hstate, hlen, haddr⟩ := ih (issueRead s ctx (owner k) (addr k) len)
    refine ⟨⟨s.host.nextId, ctx, owner k, addr k, len, none, false⟩ :: more, ?_, List.forall_mem_cons.mpr ⟨rfl, hlen⟩, ?_⟩
    · rw [List.foldl_cons, hstate, issueRead]
      dsimp only
      rw [List.append_assoc, List.singleton_append, List.length_cons, Nat.add_assoc, Nat.add_comm 1]
    · rw [List.map_cons, haddr, List.map_cons]

/-- Topping up a prefetched stream asks for its next present blocks in ascending order, as far as there is room. -/
theorem prefetchMore_reads (s : State) (img : Image) (x : Step) (b : Bind) (d : Desc) : ∃ more, prefetchMore s img x b d =
        { s with host := { s.host with reads := s.host.reads ++ more, nextId := s.host.nextId + more.length } } ∧
      (∀ r ∈ more, r.len = d.blockBytes) ∧
      more.map (·.addr) = (List.range
        (min (streamLen img d) ((consumed img x b.stream / max 1 (presentCount img d) + b.count) * presentCount img d) -
          blocksAsked s x b.stream)).map fun k => blockAddr img d (blocksAsked s x b.stream + k) :=
  foldl_issueRead_eq (some x.ctx) (fun k => .prefetch x.id b.stream (blocksAsked s x b.stream + k))
    (fun k => blockAddr img d (blocksAsked s x b.stream + k)) d.blockBytes _ s

theorem stream_of_bindOf {img : Image} {kind i : Nat} {b : Bind} (h : bindOf img kind i = some b) : b.stream = i :=
  (of_decide_eq_true (List.find?_some (p := fun b : Bind => decide (b.kind = kind ∧ b.stream = i)) h)).2

theorem execPrefetch_eq {s : State} {st desc : Nat} {x : Step} {img : Image} {b : Bind} {d : Desc} (hx : stepOf s st = some x)
    (hr : x.state = .running) (hi : imageOf s x = some img) (hb : bindOf img 3 desc = some b) (hd : descOf img x desc = some d) :
    execPrefetch st desc s = .next (prefetchMore s img x b d) := by
  have hrun : runningStep s st = some (x, img) := by
    unfold runningStep
    rw [hx]
    dsimp only
    rw [if_pos hr, hi]
    rfl
  unfold execPrefetch
  rw [hrun]
  dsimp only
  rw [hb, hd]

/-- Settles O16: a tile that is due is read where its lines are clean, and ends the step where one is not; PREFETCH issues its reads one
after another. -/
theorem tilesAreReadAhead : Obligations.TilesAreReadAhead := by
  refine ⟨fun s st desc x img c d n tag hx hwork hc himg hd hspace hn hleft htag hp => ⟨fun hbase h2 => ?memory, fun b tn h2 ht => ?weight⟩,
    fun s st desc x img b d hx hrun himg hb hd => ?prefetch⟩
  case memory =>
    have hdue : TileDue s st desc x img c d n tag := ⟨⟨hx, hwork, hc, himg, hd⟩, hspace, hn, hleft, fun _ => hbase, htag⟩
    have hlines : storedLines s img c x desc d n tag = (tileOffsets img d n).filterMap fun a => (paOf c a).map (resolve s) := by
      rw [storedLines, weightOf_eq_none h2]
    refine ⟨?atHand, fun l cw pa hl hm => execBearingReadReturn_uncorrectable hdue hp hm (hlines ▸ hl) cw⟩
    obtain rfl : x.id = st := id_of_stepOf hx
    refine ⟨_, _, execBearingReadReturn_stored hdue hp h2, stepOf_setStep_self hx rfl, (setStep_frame _ _).onlySteps, ?_, fun k hk => ?_,
      fun cyc k hk hw => ?_⟩
    · rw [settle_stream, stream_withTile, if_pos rfl, memBlocks_of_stored h2]
    · rw [settle_stream, stream_withTile, if_neg hk]
    · exact sourceBlock_withTile hspace hbase h2 hc hk hw
  case weight =>
    have hdue : TileDue s st desc x img c d n tag :=
      ⟨⟨hx, hwork, hc, himg, hd⟩, hspace, hn, hleft, fun h => (nomatch h.symm.trans h2), htag⟩
    obtain rfl : x.id = st := id_of_stepOf hx
    have hkept : stepOf (updCtx s x.ctx fun c => c) x.id = some x := (stepOf_eq_of_frame (updCtx_frame _ _ _) (by decide) _).trans hx
    refine ⟨_, _, execBearingReadReturn_weight hdue hp h2 ht, stepOf_setStep_self hkept rfl, fun k hk => ?_, ?_⟩
    · rw [settle_stream, stream_withTile, if_neg hk]
    · rw [settle_stream, stream_withTile, if_pos rfl, memBlocks_of_weight h2 ht]
  case prefetch =>
    obtain ⟨more, hstate, hlen, haddr⟩ := prefetchMore_reads s img x b d
    rw [stream_of_bindOf hb] at haddr
    exact ⟨_, more, execPrefetch_eq hx hrun himg hb hd, hstate, hlen, haddr⟩

end Sys2Proof.TilesAhead


/-! PROOFS of the schedule family, the timetable (O34). Accepting a command leaves it on its ring, so that the command that then ends is
answered; TIMETABLE_SET changes the schedule alone besides, and the ends of slots leave the table, its waiting successor and the origin. -/

namespace Sys2Proof.Timetables

open Sys2Proof.Machine Sys2Proof.Safety Sys2Proof.Laws

/-! ### A command that is accepted and ends (R335, R356, R363) -/

/-- A reply takes its own command off the ring and no other. -/
theorem postReply_cmds {s : State} {r : RingId} {g : Ring} (seq : Nat) (y : Reply) (h : ringOf s r = some g) :
    ∃ g', ringOf (postReply s r seq y) r = some g' ∧ g'.cmds = g.cmds.filter fun c => decide (c.seq ≠ seq) := by
  have hu : ringOf (updRing (bookAccepted s r seq) r fun g => { g with cmds := g.cmds.filter fun c => decide (c.seq ≠ seq) }) r =
      some { g with cmds := g.cmds.filter fun c => decide (c.seq ≠ seq) } := by
    rw [ringOf_updRing, if_pos rfl, bookAccepted_ring, h]
    rfl
  obtain ⟨⟨g', hg, hcmds, -⟩, -⟩ := postEntry_spec .status (replyBytes y) hu
  exact ⟨g', hg, hcmds⟩

theorem cmd_of_filter_ne {g g' : Ring} {seq q : Nat} (h : g'.cmds = g.cmds.filter fun c => decide (c.seq ≠ seq)) (hq : q ≠ seq) :
    g'.cmd q = g.cmd q := by
  unfold Ring.cmd
  rw [h, List.find?_filter]
  congr 1
  funext c
  by_cases hc : c.seq = q
  · simp [hc, hq]
  · simp [hc]

/-- Releasing held replies leaves the command of a fetch number under which no reply is held. -/
theorem releaseHeld_keeps_cmd {s : State} {r : RingId} {g : Ring} {q : Nat} (h : ringOf s r = some g)
    (hq : ∀ d ∈ g.cmds, d.seq = q → d.held = none) : ((ringOf (releaseHeld s r) r).bind fun g => g.cmd q) = g.cmd q := by
  suffices ∃ g', ringOf (releaseHeld s r) r = some g' ∧ g'.cmd q = g.cmd q by
    obtain ⟨g', hg, hc⟩ := this
    rw [hg]
    exact hc
  unfold releaseHeld
  rw [h]
  refine List.foldlRecOn (motive := fun u => ∃ g', ringOf u r = some g' ∧ g'.cmd q = g.cmd q) g.cmds _ ⟨g, h, rfl⟩ fun u hu d hd => ?_
  obtain ⟨g', hg, hc⟩ := hu
  split
  · next y n hheld _ =>
    split
    · exact ⟨g', hg, hc⟩
    · obtain ⟨g'', hg'', hcmds⟩ := postReply_cmds d.seq y hg
      have hne : q ≠ d.seq := fun e => by simp [hq d hd e.symm] at hheld
      exact ⟨g'', hg'', (cmd_of_filter_ne hcmds hne).trans hc⟩
  · exact ⟨g', hg, hc⟩

theorem held_of_current {s : State} {r : RingId} {op : Nat} {c : Cmd} (h : Current s r op c) : c.held = none := by
  obtain ⟨-, -, -, -, -, hheld, -⟩ := curCmd_some h.1
  exact hheld

/-- A command as `acceptCmd` marks it at tick `tick`. -/
def markAccepted (tick : Nat) (c : Cmd) : Cmd := { c with accepted := true, since := tick }

theorem acceptCmd_eq (s : State) (r : RingId) (seq : Nat) :
    acceptCmd s r seq = releaseHeld (updCmd s r seq (markAccepted s.clk.uptime)) r := rfl

/-- Accepting the current command marks it, and leaves it on its ring. -/
theorem acceptCmd_keeps_cmd {s u : State} {r : RingId} {op : Nat} {c : Cmd} (h : Current s r op c) (hr : ringOf u r = ringOf s r) :
    ((ringOf (acceptCmd u r c.seq) r).bind fun g => g.cmd c.seq) = some (markAccepted u.clk.uptime c) := by
  have hheld := held_of_current h
  obtain ⟨-, hcmd, hone⟩ := h
  obtain ⟨g, hg, hc⟩ := Option.bind_eq_some_iff.mp hcmd
  rw [hg, Option.map_some, Option.some_inj] at hone
  have hu : ringOf (updCmd u r c.seq (markAccepted u.clk.uptime)) r =
      some { g with cmds := g.cmds.map fun d => if d.seq = c.seq then markAccepted u.clk.uptime d else d } := by
    rw [updCmd, ringOf_updRing, if_pos rfl, hr, hg]
    rfl
  have hsole : ∀ d ∈ g.cmds, d.seq = c.seq → d = c := fun d hd hs =>
    List.mem_singleton.mp (hone ▸ List.mem_filter.mpr ⟨hd, decide_eq_true hs⟩)
  rw [acceptCmd_eq, releaseHeld_keeps_cmd hu, cmd_map g c.seq (markAccepted u.clk.uptime) fun _ => rfl, hc]
  · rfl
  · intro d hd hs
    obtain ⟨b, hb, rfl⟩ := List.mem_map.mp hd
    by_cases hb' : b.seq = c.seq
    · rw [if_pos hb', hsole b hb hb']
      exact hheld
    · rw [if_neg hb'] at hs
      exact absurd hs hb'

theorem nextId_le_acceptCmd (s : State) (r : RingId) (seq : Nat) : s.host.nextId ≤ (acceptCmd s r seq).host.nextId := by
  have hhost : (updCmd s r seq (markAccepted s.clk.uptime)).host = s.host := updCmd_frame s r seq _ .host (by decide)
  exact hhost ▸ (releaseHeld_kept (updCmd s r seq (markAccepted s.clk.uptime)) r).2.2

/-- The current command that is accepted and ends with ST_OK is answered, whatever its work did besides rings and host writes. -/
theorem endOk_ended {s u : State} {r : RingId} {op : Nat} {c : Cmd} (h : Current s r op c) (hr : ringOf u r = ringOf s r)
    (hh : u.host = s.host) (result : Nat) : Ended s (endOk u r c result) r c stOk result := by
  have hcmd : ((ringOf (acceptCmd u r c.seq) r).bind fun g => g.cmd (markAccepted u.clk.uptime c).seq) = some (markAccepted u.clk.uptime c) :=
    acceptCmd_keeps_cmd h hr
  obtain ⟨g, hg, hreplied⟩ := endCmd_replied { status := stOk, result := result } hcmd
  refine ⟨_, rfl, rfl, rfl, rfl, g, hg, hreplied.imp_left fun ⟨hgone, w, hw, hid, hwrite⟩ => ⟨hgone, w, hw, ?_, hwrite⟩⟩
  exact Nat.le_trans (hh ▸ nextId_le_acceptCmd u r c.seq) hid

theorem endOk_sched (s : State) (r : RingId) (c : Cmd) (result : Nat) : (endOk s r c result).sched = s.sched :=
  endOk_frame s r c result .sched (by decide)

/-! ### TIMETABLE_SET (R162, R163) -/

/-- The table that a TIMETABLE_SET names. -/
def namedTable (c : Cmd) : TimeTab := ⟨c.fld 319 288, (List.range (c.fld 330 320)).map (slotEntAt c.param)⟩

theorem execTimetableSet_removal {s : State} {c : Cmd} (h : curCmd s .admin 0x0030 = some c) (hn : c.fld 330 320 = 0) :
    exec (.timetableSet .admin) s = .next (endOk (acceptTable s none) .admin c 0) := by
  show execTimetableSet .admin s = _
  unfold execTimetableSet withCmd
  rw [h]
  dsimp only
  rw [if_pos hn]

theorem execTimetableSet_table {s : State} {c : Cmd} (h : curCmd s .admin 0x0030 = some c) (hn : c.fld 330 320 ≠ 0)
    (hf : tableSetFault s (namedTable c).period [] (namedTable c).slots = none) :
    exec (.timetableSet .admin) s = .next (endOk (acceptTable s (some (namedTable c))) .admin c 0) := by
  unfold namedTable at hf
  show execTimetableSet .admin s = _
  unfold execTimetableSet withCmd
  rw [h]
  dsimp only
  rw [if_neg hn, hf]
  rfl

theorem acceptTable_ended {s : State} {c : Cmd} (h : Current s .admin 0x0030 c) (t : Option TimeTab) :
    Ended s (endOk (acceptTable s t) .admin c 0) .admin c 0 0 :=
  endOk_ended h ((acceptTable_frame s t).ring (by decide) (by decide) _) (acceptTable_frame s t .host (by decide)) 0

theorem acceptTable_sched_of_none {s : State} (h : s.sched.table = none) (u : TimeTab) :
    (acceptTable s (some u)).sched =
      { s.sched with table := some u, origin := s.clk.uptime + 1, active := [], owing := [], follows := [] } := by
  unfold acceptTable
  rw [h]

theorem acceptTable_sched_of_table {s : State} (h : s.sched.table ≠ none) (t : Option TimeTab) :
    (acceptTable s t).sched = { s.sched with waiting := some t } := by
  obtain ⟨u, hu⟩ := Option.ne_none_iff_exists'.mp h
  unfold acceptTable
  rw [hu]

/-! ### The period boundary (R163) -/

/-- From `s` to `t` the table, what waits to replace it, and the start of its period stand. -/
def TableKept (s t : State) : Prop :=
  t.sched.table = s.sched.table ∧ t.sched.waiting = s.sched.waiting ∧ t.sched.origin = s.sched.origin

theorem TableKept.trans {s t u : State} (h : TableKept s t) (k : TableKept t u) : TableKept s u := by
  obtain ⟨htable, hwaiting, horigin⟩ := h
  obtain ⟨ktable, kwaiting, korigin⟩ := k
  exact ⟨ktable.trans htable, kwaiting.trans hwaiting, korigin.trans horigin⟩

theorem endSlot_tableKept (s : State) (i : Nat) : TableKept s (endSlot s i) := by
  unfold endSlot
  dsimp only
  split
  · exact ⟨rfl, rfl, rfl⟩
  · unfold TableKept
    rw [show (updCtx _ _ _).sched = _ from updCtx_frame _ _ _ .sched (by decide)]
    exact ⟨rfl, rfl, rfl⟩

theorem foldl_endSlot_tableKept (s : State) (l : List Nat) : TableKept s (l.foldl endSlot s) :=
  List.foldlRecOn (motive := TableKept s) l endSlot ⟨rfl, rfl, rfl⟩ fun u hu i _ => hu.trans (endSlot_tableKept u i)

theorem foldl_endSlot_steps (s : State) (l : List Nat) : (l.foldl endSlot s).steps = s.steps :=
  (Frame.foldl endSlot l endSlot_frame (Frame.refl _ s)) .steps (by decide)

theorem execPeriodBoundary_of_table {s : State} {tb : TimeTab} (h : s.sched.table = some tb) :
    exec .periodBoundary s = .next { s.sched.active.foldl endSlot s with
      sched := { (s.sched.active.foldl endSlot s).sched with
        origin := s.sched.origin + tb.period, table := s.sched.waiting.getD (some tb), waiting := none,
        active := [], owing := [], follows := [] } } := by
  obtain ⟨-, hwaiting, horigin⟩ := foldl_endSlot_tableKept s s.sched.active
  show execPeriodBoundary s = _
  unfold execPeriodBoundary
  rw [h]
  dsimp only
  rw [hwaiting, horigin]

/-- Settles O34: TIMETABLE_SET by the table it accepts and the end of its command, the boundary by the slots that it ends. -/
theorem timetableChangesAtBoundaries : Obligations.TimetableChangesAtBoundaries := by
  refine ⟨fun s c hc hn hfault => ?set, fun s c hc hn => ?remove, fun s tb htb => ?boundary⟩
  case set =>
    refine ⟨_, execTimetableSet_table hc.1 hn hfault, acceptTable_ended hc _, fun hnone => ?_, fun hsome => ?_⟩
    · rw [endOk_sched, acceptTable_sched_of_none hnone]
      exact ⟨rfl, rfl, rfl⟩
    · rw [endOk_sched, acceptTable_sched_of_table hsome]
      exact ⟨rfl, rfl⟩
  case remove =>
    refine ⟨_, execTimetableSet_removal hc.1 hn, acceptTable_ended hc none, fun hsome => ?_⟩
    rw [endOk_sched, acceptTable_sched_of_table hsome]
  case boundary =>
    exact ⟨_, execPeriodBoundary_of_table htb, rfl, rfl, rfl, rfl, rfl, foldl_endSlot_steps s _⟩

end Sys2Proof.Timetables


/-! PROOFS of the schedule family, admission (O35). An admission replaces one queued step by the same step admitted; each way of admitting
steps is then its own choice of the step, of the kind and of what it does before. -/

namespace Sys2Proof.Admissions

open Sys2Proof.Machine Sys2Proof.Safety Sys2Proof.Laws Sys2Proof.Commits

/-! ### Which step may be admitted -/

theorem headStep_mem {s : State} {n : Nat} {x : Step} (h : headStep s n = some x) : x ∈ s.steps := List.mem_of_find?_eq_some h

/-- Only a context's oldest queued step may be admitted. -/
theorem headStep_of_admissible {s : State} {n : Nat} {skip : Option Nat} {x : Step} {img : Image} {c : Ctx}
    (h : admissible s n skip = some (x, img, c)) : headStep s n = some x := by
  unfold admissible at h
  split at h
  · next hx =>
    split at h
    · cases h
    · split at h
      · cases h
        exact hx
      · cases h
  · cases h

theorem admissible_of_no_headStep {s : State} {n : Nat} (skip : Option Nat) (h : headStep s n = none) : admissible s n skip = none := by
  unfold admissible
  rw [h]
  split
  · next hx => cases hx
  · rfl

theorem mem_of_admissible {s : State} {n : Nat} {skip : Option Nat} {x : Step} {img : Image} {c : Ctx}
    (h : admissible s n skip = some (x, img, c)) : x ∈ s.steps := headStep_mem (headStep_of_admissible h)

/-- The context whose turn it is may have its oldest queued step admitted. -/
theorem admissible_of_nextBestEffort {s : State} {n : Nat} {x : Step} {img : Image} {c : Ctx} (h : nextBestEffort s = some (n, x, img, c)) :
    admissible s n none = some (x, img, c) := by
  unfold nextBestEffort at h
  obtain ⟨m, -, hm⟩ := List.exists_of_findSome?_eq_some h
  cases ha : admissible s m none with
  | none => simp [ha] at hm
  | some q =>
    obtain ⟨y, i, k⟩ := q
    rw [ha] at hm
    dsimp only at hm
    split at hm
    · cases hm
    · split at hm
      · split at hm
        · cases hm
          exact ha
        · cases hm
      · cases hm
        exact ha

/-! ### Taking a step in (R44, R170) -/

theorem admittedStep_fields (s : State) (x : Step) (c : Ctx) (kind : AdmitKind) (lender : Option Nat) :
    (admittedStep s x c kind lender).id = x.id ∧ (admittedStep s x c kind lender).state = .admitted ∧
      (admittedStep s x c kind lender).kind = kind ∧ (admittedStep s x c kind lender).lender = lender ∧
      (admittedStep s x c kind lender).admitted = s.clk.uptime := by
  unfold admittedStep
  dsimp only
  split <;> exact ⟨rfl, rfl, rfl, rfl, rfl⟩

/-- A step of the list of steps is found under its number, it or one before it. -/
theorem stepOf_isSome_of_mem {s : State} {x : Step} (h : x ∈ s.steps) : (stepOf s x.id).isSome :=
  List.find?_isSome.mpr ⟨x, h, decide_eq_true rfl⟩

/-- After one step has been replaced under its number. -/
theorem find?_replace (l : List Step) {x z : Step} (h : z.id = x.id) (i : Nat) :
    ((l.map fun y => if y.id = x.id then z else y).find? fun y => decide (y.id = i)) =
      (l.find? fun y => decide (y.id = i)).map fun y => if y.id = x.id then z else y := by
  rw [List.find?_map]
  congr 2
  funext y
  by_cases hy : y.id = x.id
  · simp [hy, h]
  · simp [hy]

/-- What an admission that THIN_POS allows does to the steps: the step is admitted, every other stands, and so does the schedule. -/
theorem admitStep_of_thinOk {s : State} {x : Step} {img : Image} {c : Ctx} (kind : AdmitKind) (lender : Option Nat) (ht : thinOk c img = true)
    (hx : (stepOf s x.id).isSome) :
    stepOf (admitStep s x img c kind lender) x.id = some (admittedStep s x c kind lender) ∧
      (∀ j, j ≠ x.id → stepOf (admitStep s x img c kind lender) j = stepOf s j) ∧ (admitStep s x img c kind lender).sched = s.sched := by
  have hsteps (i : Nat) : stepOf (admitStep s x img c kind lender) i =
      (stepOf s i).map fun y => if y.id = x.id then admittedStep s x c kind lender else y := by
    obtain ⟨hid, -⟩ := admittedStep_fields s x c kind lender
    rw [admitStep, if_pos ht, stepOf_eq_of_frame (openLeader_frame _ x img) (by decide)]
    exact find?_replace s.steps hid i
  refine ⟨?_, fun j hj => ?_, admitStep_frame s x img c kind lender .sched (by decide)⟩
  · obtain ⟨y, hy⟩ := Option.isSome_iff_exists.mp hx
    rw [hsteps, hy, Option.map_some, if_pos (id_of_stepOf hy)]
  · rw [hsteps]
    cases hy : stepOf s j with
    | none => rfl
    | some y => rw [Option.map_some, if_neg (id_of_stepOf hy ▸ hj)]

/-! ### The start of a slot (R165, R166) -/

theorem slotAt_eq_of_frame {l : List Part} {s t : State} (h : Frame l s t) (hs : Part.sched ∉ l) (i : Nat) : slotAt t i = slotAt s i := by
  have e : t.sched = s.sched := h .sched hs
  rw [slotAt, slotAt, e]

/-- Slot `i` has begun. -/
def begunSlot (s : State) (i : Nat) : State := { s with sched := { s.sched with active := s.sched.active ++ [i] } }

/-- Slot `i` no longer owes its owner an admission. -/
def paidSlot (s : State) (i : Nat) : State := { s with sched := { s.sched with owing := s.sched.owing.filter fun j => decide (j ≠ i) } }

theorem mem_active_begunSlot (s : State) (i : Nat) : i ∈ (begunSlot s i).sched.active :=
  List.mem_append_right _ (List.mem_singleton_self i)

/-- SLOT_START of a slot that has not begun: the best-effort steps in its way are killed, then its owner has its turn. -/
theorem execSlotStart_of_begins {s : State} {i : Nat} {e : SlotEnt} (h : slotAt s i = some e) (hi : i ∉ s.sched.active) :
    exec (.slotStart i) s = .next (slotAdmit (begunSlot ((slotVictims s).foldl timetableKill s) i) i) := by
  show execSlotStart i s = _
  unfold execSlotStart
  rw [h]
  dsimp only
  rw [if_neg (by simpa using hi)]
  rfl

theorem slotAdmit_of_admissible {s : State} {i : Nat} {e : SlotEnt} {x : Step} {img : Image} {c : Ctx} (h : slotAt s i = some e)
    (ha : admissible s e.owner none = some (x, img, c)) : slotAdmit s i = admitStep (paidSlot s i) x img c .realTime none := by
  unfold slotAdmit
  rw [h]
  dsimp only
  rw [ha]
  rfl

theorem slotAdmit_of_no_headStep {s : State} {i : Nat} {e : SlotEnt} (h : slotAt s i = some e) (hn : headStep s e.owner = none) :
    slotAdmit s i = s := by
  unfold slotAdmit
  rw [h]
  dsimp only
  rw [admissible_of_no_headStep none hn, hn]
  rfl

/-! ### A best-effort step that a slot puts back (R168) -/

/-- The step that a kill for re-run leaves in the queue. -/
def requeued (x : Step) (attempt : Nat) : Step :=
  { id := x.id, ctx := x.ctx, seq := x.seq, fence := x.fence, slot := x.slot, number := x.number,
    bindings := x.bindings, resultAddr := x.resultAddr, resultBytes := x.resultBytes, attempt := attempt,
    rerun := true, boundGen := x.boundGen, boundAges := x.boundAges, scalars := x.scalars,
    killed := x.killed.plus x.activity }

/-- What a kill for re-run does before the step goes back: its work of the attempt is discarded, its energy booked. -/
def discarded (s : State) (x : Step) : State :=
  wcRelease (dropFlight (keepWrites { learnKill (slopeChange (bookFiller s x)) x with pm := dropDies (bookFiller s x).pm x.id } x) x) x.id

theorem rerunStep_eq (s : State) (x : Step) (attempt : Nat) : rerunStep s x attempt =
    { discarded s x with steps := requeued x attempt :: (discarded s x).steps.filter fun z => decide (z.id ≠ x.id) } := rfl

theorem discarded_steps (s : State) (x : Step) : (discarded s x).steps = s.steps := by
  have hlearn : (learnKill (slopeChange (bookFiller s x)) x).steps = (slopeChange (bookFiller s x)).steps :=
    learnKill_frame _ x .steps (by decide)
  have hfiller : (bookFiller s x).steps = s.steps := bookFiller_frame s x .steps (by decide)
  exact hlearn.trans hfiller

theorem rerunStep_steps (s : State) (x : Step) (attempt : Nat) :
    (rerunStep s x attempt).steps = requeued x attempt :: s.steps.filter fun z => decide (z.id ≠ x.id) := by
  rw [rerunStep_eq, discarded_steps]

theorem learnPhase_ttKills (c : Ctx) (slot : Nat) (img : Image) (m sp v : Nat) : (learnPhase c slot img m sp v).ttKills = c.ttKills := by
  unfold learnPhase
  split <;> rfl

/-- From `s` to `t` context `n` stands, with its count of timetable kills. -/
def KillsKept (n : Nat) (s t : State) : Prop := ∀ k, ctxOf s n = some k → ∃ k', ctxOf t n = some k' ∧ k'.ttKills = k.ttKills

theorem KillsKept.of_frame {l : List Part} {n : Nat} {s t : State} (h : Frame l s t) (hc : Part.ctxs ∉ l) : KillsKept n s t :=
  fun k hk => ⟨k, (ctxOf_eq_of_frame h hc n).trans hk, rfl⟩

theorem KillsKept.trans {n : Nat} {s t u : State} (h : KillsKept n s t) (h' : KillsKept n t u) : KillsKept n s u := fun k hk =>
  have ⟨k', hk', e⟩ := h k hk
  have ⟨k'', hk'', e'⟩ := h' k' hk'
  ⟨k'', hk'', e'.trans e⟩

theorem killsKept_learnKill (n : Nat) (s : State) (x : Step) : KillsKept n s (learnKill s x) := by
  unfold learnKill
  split
  · exact fun k hk => ⟨k, hk, rfl⟩
  · next img _ =>
    refine List.foldlRecOn (motive := KillsKept n s) (openPhases img x) _ (fun k hk => ⟨k, hk, rfl⟩) fun u hu p _ => hu.trans fun k hk => ?_
    dsimp only
    rw [ctxOf_updCtx]
    split
    · next hn =>
      subst hn
      exact ⟨_, congrArg (Option.map _) hk, learnPhase_ttKills ..⟩
    · exact ⟨k, hk, rfl⟩

theorem killsKept_discarded (n : Nat) (s : State) (x : Step) : KillsKept n s (discarded s x) :=
  (KillsKept.of_frame ((slopeChange_frame _).after (by decide) (bookFiller_frame s x)) (by decide)).trans (killsKept_learnKill n _ x)

/-- A timetable kill, where no unit fails the final check, is a kill for re-run that the context counts (R168, R174). -/
theorem timetableKill_of_on_time {s : State} {x : Step} (h : ∀ img, imageOf s x = some img → finalLate img x = none) :
    timetableKill s x = updCtx (rerunStep s x x.attempt) x.ctx fun c => { c with ttKills := satAdd max32 c.ttKills 1 } := by
  unfold timetableKill
  cases hi : imageOf s x with
  | none => rfl
  | some img =>
    rw [Option.bind_some, h img hi]
    rfl

theorem timetableKill_steps {s : State} {x : Step} (h : ∀ img, imageOf s x = some img → finalLate img x = none) :
    (timetableKill s x).steps = requeued x x.attempt :: s.steps.filter fun z => decide (z.id ≠ x.id) := by
  rw [timetableKill_of_on_time h, show (updCtx _ _ _).steps = _ from updCtx_frame _ _ _ .steps (by decide), rerunStep_steps]

theorem ctxOf_timetableKill {s : State} {x : Step} {k : Ctx} (h : ∀ img, imageOf s x = some img → finalLate img x = none)
    (hk : ctxOf s x.ctx = some k) : ∃ k', ctxOf (timetableKill s x) x.ctx = some k' ∧ k'.ttKills = satAdd max32 k.ttKills 1 := by
  obtain ⟨k', hk', e⟩ := killsKept_discarded x.ctx s x k hk
  refine ⟨{ k' with ttKills := satAdd max32 k'.ttKills 1 }, ?_, congrArg (satAdd max32 · 1) e⟩
  rw [timetableKill_of_on_time h, ctxOf_updCtx, if_pos rfl]
  exact congrArg (Option.map _) hk'

/-- The kill queues a step of its own context alone. -/
theorem headStep_timetableKill {s : State} {x : Step} {n : Nat} (h : ∀ img, imageOf s x = some img → finalLate img x = none)
    (hn : n ≠ x.ctx) (hs : headStep s n = none) : headStep (timetableKill s x) n = none := by
  unfold headStep at hs ⊢
  rw [timetableKill_steps h, List.find?_eq_none]
  rw [List.find?_eq_none] at hs
  rintro y (_ | ⟨_, hy⟩)
  · exact fun hq => hn (of_decide_eq_true hq).1.symm
  · exact hs y (List.mem_filter.mp hy).1

/-! ### The end of a slot (R166) -/

theorem execSlotEnd_of_active {s : State} {i : Nat} (h : i ∈ s.sched.active) : exec (.slotEnd i) s = .next (endSlot s i) := by
  show execSlotEnd i s = _
  rw [execSlotEnd, if_pos (List.contains_iff_mem.mpr h)]

theorem endSlot_active (s : State) (i : Nat) : (endSlot s i).sched.active = s.sched.active.filter fun j => decide (j ≠ i) := by
  unfold endSlot
  dsimp only
  split
  · rfl
  · rw [show (updCtx _ _ _).sched = _ from updCtx_frame _ _ _ .sched (by decide)]

theorem ctxOf_endSlot {s : State} {i : Nat} {e : SlotEnt} {k : Ctx} (h : slotAt s i = some e) (hk : ctxOf s e.owner = some k) :
    ctxOf (endSlot s i) e.owner = some { k with overruns := satAdd max32 k.overruns (s.steps.filter fun x => x.state.live &&
      decide (x.ctx = e.owner ∧ x.kind = .realTime ∧ s.sched.origin + e.start ≤ x.admitted)).length } := by
  unfold endSlot
  rw [h]
  dsimp only
  rw [ctxOf_updCtx, if_pos rfl]
  exact congrArg (Option.map _) hk

/-! ### Best effort and bubbles (R167, R169) -/

/-- Context `n` was the one admitted last. -/
def turnTaken (s : State) (n : Nat) : State := { s with sched := { s.sched with lastCtx := n } }

theorem execBestEffortAdmission_of_next {s : State} {n : Nat} {x : Step} {img : Image} {c : Ctx} (hs : inSlot s = false)
    (h : nextBestEffort s = some (n, x, img, c)) :
    exec .bestEffortAdmission s = .next (admitStep (turnTaken s n) x img c .bestEffort none) := by
  show execBestEffortAdmission s = _
  rw [execBestEffortAdmission, if_neg (by simp [hs]), h]
  rfl

/-- Whether a slot in progress lends the bubbles of a step. -/
def lendsBubbles (s : State) (y : Step) : Bool :=
  s.sched.active.any fun i => match slotAt s i with | some e => decide (e.owner = y.ctx) && e.lend | none => false

theorem lendsBubbles_of_slot {s : State} {y : Step} {i : Nat} {e : SlotEnt} (hi : i ∈ s.sched.active) (hs : slotAt s i = some e)
    (ho : e.owner = y.ctx) (hl : e.lend = true) : lendsBubbles s y = true :=
  List.any_eq_true.mpr ⟨i, hi, by simp [hs, ho, hl]⟩

theorem workingStep_of_running {s : State} {st : Nat} {x : Step} {img : Image} (hx : stepOf s st = some x) (hr : x.state = .running)
    (hi : imageOf s x = some img) : workingStep s st = some (x, img) := by
  unfold workingStep
  rw [hx]
  dsimp only
  rw [hr, hi]
  rfl

theorem execBubble_of_lends {s : State} {st bub n : Nat} {y x : Step} {img m : Image} {c : Ctx} {tm : Timing}
    (hw : workingStep s st = some (y, img)) (hb : bubbleOf img bub = some tm) (ha : admissible s n (some st) = some (x, m, c))
    (hk : y.kind = .realTime) (hl : lendsBubbles s y = true) (hn : n ≠ y.ctx) (hu : bub ∉ y.lent) (hf : m.reserved ≤ tm.arg1)
    (hg : (m.claims.headD []).all (granted (img.claims.getD tm.arg2 [])) = true) :
    exec (.bubble st bub n) s = .next (admitStep (setStep s { y with lent := y.lent ++ [bub] }) x m c .lent (some st)) := by
  show execBubble st bub n s = _
  unfold execBubble
  rw [hw]
  dsimp only
  rw [hb, ha]
  dsimp only
  rw [if_pos ⟨hk, hl, hn, by simpa using hu, hf, hg⟩]

theorem stepOf_setStep_isSome {s : State} {i : Nat} (y : Step) (h : (stepOf s i).isSome) : (stepOf (setStep s y) i).isSome := by
  rw [stepOf_setStep, Option.isSome_map]
  exact h

/-- Settles O35: a slot by its victims and its owner's turn, best effort and a bubble by the admission of the step that is next. -/
theorem stepsAreAdmitted : Obligations.StepsAreAdmitted := by
  refine ⟨⟨?slot, ?victim, ?slotEnd⟩, ?bestEffort, ?bubble⟩
  case slot =>
    intro s i e x img c hs hi hv ha ht
    have hadmit : slotAdmit (begunSlot s i) i = admitStep (paidSlot (begunSlot s i) i) x img c .realTime none :=
      slotAdmit_of_admissible (s := begunSlot s i) hs ha
    obtain ⟨hstep, hothers, hsched⟩ := admitStep_of_thinOk (s := paidSlot (begunSlot s i) i) .realTime none ht
      (stepOf_isSome_of_mem (mem_of_admissible ha))
    obtain ⟨-, hstate, hkind, -, htick⟩ := admittedStep_fields (paidSlot (begunSlot s i) i) x c .realTime none
    refine ⟨_, _, by rw [execSlotStart_of_begins hs hi, hv, List.foldl_nil, hadmit], ?_, hstep, hstate, hkind, htick, hothers⟩
    rw [hsched]
    exact mem_active_begunSlot s i
  case victim =>
    intro s i e x k hs hi hv hn hlate howner hk
    have hslot : slotAt (begunSlot (timetableKill s x) i) i = some e :=
      (slotAt_eq_of_frame (timetableKill_frame s x) (by decide) i).trans hs
    obtain ⟨k', hk', hkills⟩ := ctxOf_timetableKill hlate hk
    refine ⟨begunSlot (timetableKill s x) i, requeued x x.attempt, k', ?_, mem_active_begunSlot _ i, ?_, rfl, rfl, rfl, rfl, hk', hkills⟩
    · rw [execSlotStart_of_begins hs hi, hv, List.foldl_cons, List.foldl_nil,
        slotAdmit_of_no_headStep hslot (headStep_timetableKill hlate howner hn)]
    · show (timetableKill s x).steps.find? _ = _
      rw [timetableKill_steps hlate]
      exact List.find?_cons_of_pos (decide_eq_true rfl)
  case slotEnd =>
    intro s i e k hi hs hk
    refine ⟨_, _, execSlotEnd_of_active hi, ?_, endSlot_frame s i .steps (by decide), ctxOf_endSlot hs hk, rfl⟩
    rw [endSlot_active]
    exact fun h => of_decide_eq_true (List.mem_filter.mp h).2 rfl
  case bestEffort =>
    intro s n x img c hs hnext ht
    have hx : (stepOf s x.id).isSome := stepOf_isSome_of_mem (mem_of_admissible (admissible_of_nextBestEffort hnext))
    obtain ⟨hstep, hothers, hsched⟩ := admitStep_of_thinOk (s := turnTaken s n) .bestEffort none ht hx
    obtain ⟨-, hstate, hkind, -⟩ := admittedStep_fields (turnTaken s n) x c .bestEffort none
    exact ⟨_, _, execBestEffortAdmission_of_next hs hnext, hstep, hstate, hkind, congrArg (·.lastCtx) hsched, hothers⟩
  case bubble =>
    intro s st bub n y x img m c tm i e hy hr hi hb ha hk hactive hs howner hlend hn hu hf hg ht
    obtain ⟨hstep, -, -⟩ := admitStep_of_thinOk .lent (some st) ht
      (stepOf_setStep_isSome { y with lent := y.lent ++ [bub] } (stepOf_isSome_of_mem (mem_of_admissible ha)))
    obtain ⟨-, hstate, hkind, hlender, -⟩ := admittedStep_fields (setStep s { y with lent := y.lent ++ [bub] }) x c .lent (some st)
    exact ⟨_, _, execBubble_of_lends (workingStep_of_running hy hr hi) hb ha hk (lendsBubbles_of_slot hactive hs howner hlend) hn hu hf hg,
      hstep, hstate, hkind, hlender⟩

end Sys2Proof.Admissions


/-! PROOFS of the schedule family, a step's preamble (O36). PREAMBLE_END sets a step running and settles it, and a step whose image lists
no instruction has finished as it starts to run: it is staged at once (R170), where the statement has every step running. -/

namespace Sys2Proof.Preambles

open Sys2Proof.Machine Sys2Proof.Safety Sys2Proof.Laws Sys2Proof.Commits

/-- After PREAMBLE_END the step runs, or is staged already where nothing of it is left to run (R170). -/
theorem stepOf_preambleEnd {s t : State} {st : Nat} {x : Step} {img : Image} (hx : stepOf s st = some x) (hst : x.state = .admitted)
    (hstart : x.start ≠ 0) (hi : imageOf s x = some img) (h : exec (.preambleEnd st) s = .next t) :
    stepOf t st = some (settle s { x with state := .running }) := by
  have hset : imageOf (setStep s { x with state := .running }) x = some img := hi
  have hreads (u : State) (l : List Nat) : Frame [.host] u (l.foldl (fun s i => readHostMore s img x i) u) :=
    Frame.foldl _ l (fun v i => readHostMore_frame v img x i) (Frame.refl _ u)
  have hexec : exec (.preambleEnd st) s = .next ((hostStreams img x).foldl (fun s i => readHostMore s img x i)
      (closeGaps (setStep s { x with state := .running }) img)) := by
    show execPreambleEnd st s = _
    unfold execPreambleEnd
    rw [hx]
    dsimp only
    rw [if_pos ⟨hst, hstart⟩, hset]
  obtain rfl := Host.Outcome.next.inj (hexec.symm.trans h)
  rw [stepOf_eq_of_frame (hreads _ _) (by decide), stepOf_eq_of_frame (closeGaps_frame _ img) (by decide)]
  exact stepOf_setStep_self hx (id_of_stepOf hx : x.id = st)

/-- A running step whose image lists no instruction, with nothing that moves or fires on its units, has finished. -/
theorem settle_of_no_lists {s : State} {x : Step} {img : Image} (hi : imageOf s x = some img) (hr : x.state = .running)
    (hl : img.listKeys = []) (hin : x.inbound = []) (hu : x.units = []) : settle s x = { x with state := .staged } := by
  have hfin : img.finished x = true := by
    unfold Image.finished
    rw [hl, hin, hu]
    rfl
  unfold settle
  rw [hi]
  dsimp only
  rw [if_pos ⟨hr, hfin⟩]

/-- A step whose preamble has begun: image cycle 0 falls in cycle 32. -/
def starting : Step := { state := .admitted, start := 32 }

/-- An image of one cycle that lists no instruction. -/
def listless : Image := { placed := true, length := 1 }

/-- A module in whose context 0 that step runs that image. -/
def idleModule : State := { ctxs := [(0, { images := [(0, listless)] })], steps := [starting] }

/-- The step is staged, not running, once its preamble ends. -/
theorem stepOf_preambleEnd_idleModule {t : State} (h : exec (.preambleEnd 0) idleModule = .next t) :
    stepOf t 0 = some { starting with state := .staged } := by
  rw [stepOf_preambleEnd (s := idleModule) (x := starting) (img := listless) rfl rfl (by decide) rfl h]
  exact congrArg some (settle_of_no_lists (img := listless) rfl rfl rfl rfl rfl)

/-- Refutes O36, in its clause on PREAMBLE_END: the step of `idleModule` ends its preamble staged. -/
theorem not_stepsProgressOrSlip : ¬ Obligations.StepsProgressOrSlip := by
  rintro ⟨⟨-, hend, -⟩, -⟩
  obtain ⟨t, y, ht, hy, hrunning, -⟩ := hend idleModule 0 starting listless rfl rfl (by decide) rfl
  rw [stepOf_preambleEnd_idleModule ht, hrunning] at hy
  exact StepState.noConfusion (congrArg Step.state (Option.some.inj hy))

end Sys2Proof.Preambles


/-! PROOFS of the keystone family, what answering a command does to a context: replies book their work to its energy and leave the rest
of it (R383, R384), and the current command ends whatever its own work wrote to host memory (R335, R363). -/

namespace Sys2Proof.ContextWork

open Sys2Proof.Machine Sys2Proof.Safety Sys2Proof.Laws Sys2Proof.Commits Sys2Proof.Timetables

/-! ### Replies and the energy of a context -/

/-- From `s` to `t` context `n` stands, and its energy alone may have changed. -/
def EnergyOnly (n : Nat) (s t : State) : Prop := ∀ k, ctxOf s n = some k → ∃ e, ctxOf t n = some { k with energy := e }

theorem EnergyOnly.of_ctxOf_eq {n : Nat} {s t : State} (h : ctxOf t n = ctxOf s n) : EnergyOnly n s t := fun k hk => ⟨k.energy, h.trans hk⟩

theorem EnergyOnly.of_frame {l : List Part} {n : Nat} {s t : State} (h : Frame l s t) (hc : Part.ctxs ∉ l) : EnergyOnly n s t :=
  .of_ctxOf_eq (ctxOf_eq_of_frame h hc n)

theorem EnergyOnly.refl (n : Nat) (s : State) : EnergyOnly n s s := .of_ctxOf_eq rfl

theorem EnergyOnly.trans {n : Nat} {s t u : State} (h : EnergyOnly n s t) (h' : EnergyOnly n t u) : EnergyOnly n s u := fun k hk =>
  have ⟨e, he⟩ := h k hk
  have ⟨e', he'⟩ := h' { k with energy := e } he
  ⟨e', he'⟩

theorem energyOnly_bookQueue (n : Nat) (s : State) (r : RingId) (a : Activity) : EnergyOnly n s (bookQueue s r a) := by
  cases r with
  | admin => exact .of_ctxOf_eq rfl
  | ctx m =>
    intro k hk
    unfold bookQueue
    dsimp only
    rw [ctxOf_updCtx]
    split
    · next hn =>
      subst hn
      exact ⟨_, congrArg (Option.map _) hk⟩
    · exact ⟨k.energy, hk⟩

theorem energyOnly_bookAccepted (n : Nat) (s : State) (r : RingId) (seq : Nat) : EnergyOnly n s (bookAccepted s r seq) := by
  unfold bookAccepted
  split
  · exact energyOnly_bookQueue n (takeFree (takeFree s).2).2 r _
  · exact .refl n s

theorem energyOnly_postReply (n : Nat) (s : State) (r : RingId) (seq : Nat) (y : Reply) : EnergyOnly n s (postReply s r seq y) :=
  (energyOnly_bookAccepted n s r seq).trans (.of_frame ((postEntry_frame _ r _ _).after (by decide)
    ((updRing_frame (bookAccepted s r seq) r _).mono (by decide))) (l := [.host, .admin, .rings]) (by decide))

theorem energyOnly_releaseHeld (n : Nat) (s : State) (r : RingId) : EnergyOnly n s (releaseHeld s r) := by
  unfold releaseHeld
  split
  · exact .refl n s
  · next g _ =>
    refine List.foldlRecOn (motive := EnergyOnly n s) g.cmds _ (.refl n s) fun u hu c _ => hu.trans ?_
    split
    · split
      · exact .refl n u
      · exact energyOnly_postReply n u r c.seq _
    · exact .refl n u

theorem energyOnly_endCmd (n : Nat) (s : State) (r : RingId) (seq : Nat) (y : Reply) : EnergyOnly n s (endCmd s r seq y) := by
  unfold endCmd
  split
  · exact .refl n s
  · dsimp only
    split
    · exact .of_frame (updCmd_frame s r seq _) (by decide)
    · exact (energyOnly_postReply n s r seq _).trans (energyOnly_releaseHeld n _ r)

theorem energyOnly_acceptCmd (n : Nat) (s : State) (r : RingId) (seq : Nat) : EnergyOnly n s (acceptCmd s r seq) :=
  (EnergyOnly.of_frame (updCmd_frame s r seq _) (by decide)).trans (energyOnly_releaseHeld n _ r)

theorem energyOnly_endOk (n : Nat) (s : State) (r : RingId) (c : Cmd) (result : Nat) : EnergyOnly n s (endOk s r c result) :=
  (energyOnly_acceptCmd n s r c.seq).trans (energyOnly_endCmd n _ r c.seq _)

theorem ctxOf_setCtx_self (s : State) (n : Nat) (k : Ctx) : ctxOf (setCtx s n k) n = some k := (ctxOf_setCtx s n n k).trans (if_pos rfl)

/-- A context that a command has set stands after its reply. -/
theorem ctxOf_endOk_setCtx (s : State) (n : Nat) (k : Ctx) (r : RingId) (c : Cmd) (result : Nat) :
    ∃ e, ctxOf (endOk (setCtx s n k) r c result) n = some { k with energy := e } :=
  energyOnly_endOk n _ r c result k (ctxOf_setCtx_self s n k)

/-! ### The current command of a context -/

theorem withCtxCmd_current {s : State} {n op : Nat} {k : Ctx} {c : Cmd} (h : Current s (.ctx n) op c) (hk : ctxOf s n = some k)
    (f : Nat → Ctx → Cmd → State) : withCtxCmd s (.ctx n) op f = f n k c := by
  obtain ⟨hcur, -⟩ := h
  unfold withCtxCmd
  dsimp only
  rw [hk, hcur]

theorem setCtx_ring (s : State) (n : Nat) (k : Ctx) (r : RingId) : ringOf (setCtx s n k) r = ringOf s r :=
  (setCtx_frame s n k).ring (by decide) (by decide) r

/-- The current command that is accepted and ends with ST_OK is answered, also where its work has written to the host. -/
theorem endOk_ended_of_nextIdLe {s u : State} {r : RingId} {op : Nat} {c : Cmd} (h : Current s r op c) (hr : ringOf u r = ringOf s r)
    (hid : NextIdLe s u) (result : Nat) : Ended s (endOk u r c result) r c stOk result := by
  have hcur : Current { s with host := u.host } r op c := by cases r <;> exact h
  have hring : ringOf u r = ringOf { s with host := u.host } r := by cases r <;> exact hr
  obtain ⟨y, hstatus, hresult, hop, hseq, g, hg, hreplied⟩ := endOk_ended hcur hring rfl result
  exact ⟨y, hstatus, hresult, hop, hseq, g, hg, hreplied.imp_left fun ⟨hgone, w, hw, hle, hwrite⟩ =>
    ⟨hgone, w, hw, Nat.le_trans hid hle, hwrite⟩⟩

end Sys2Proof.ContextWork


/-! PROOFS of the keystone family, OPT_CONFIG (O41): the command works through its tensor records, and no two of them name the same tensor,
so what one registers stands until the command ends. -/

namespace Sys2Proof.OptimiserRecords

open Sys2Proof.Machine Sys2Proof.Safety Sys2Proof.Laws Sys2Proof.DieMemories Sys2Proof.ContextWork

/-- What one item of a list brings about and no other undoes holds after the list. -/
theorem foldl_of_mem {σ β : Type} {f : σ → β → σ} {P : σ → Prop} {l : List β} {b : β} (hb : b ∈ l) (s : σ) (hset : ∀ s, P (f s b))
    (hkeep : ∀ c ∈ l, c ≠ b → ∀ s, P s → P (f s c)) : P (l.foldl f s) := by
  induction l generalizing s with
  | nil => cases hb
  | cons c l ih =>
    rw [List.foldl_cons]
    by_cases hl : b ∈ l
    · exact ih hl _ fun e he => hkeep e (List.mem_cons_of_mem _ he)
    · obtain rfl : b = c := (List.mem_cons.mp hb).resolve_right hl
      exact List.foldlRecOn l f (hset s) fun u hu e he => hkeep e (List.mem_cons_of_mem _ he) (ne_of_mem_of_not_mem he hl) u hu

/-! ### Registering one tensor (R206, R366) -/

section Register

variable {c : Ctx} {t : Tensor} {reset : Bool}

/-- `q` is the tensor that record `t` describes; its ring ages and whether it is loaded are its own. -/
def Describes (t q : Tensor) : Prop := q = { t with ages := q.ages, loaded := q.loaded }

theorem registerTensor_eq (c : Ctx) (t : Tensor) (reset : Bool) :
    ∃ ts ms pa, registerTensor c t reset = { c with tensors := ts, moments := ms, parity := pa } := by
  unfold registerTensor
  cases reset <;> cases tensorOf c t.num <;> exact ⟨_, _, _, rfl⟩

/-- What stands under the number of a record once it is registered, and that every other tensor stays. -/
theorem registerTensor_tensors (c : Ctx) (t : Tensor) (reset : Bool) :
    (∃ q ∈ (registerTensor c t reset).tensors, Describes t q) ∧
    ∀ q ∈ c.tensors, q.num ≠ t.num → q ∈ (registerTensor c t reset).tensors := by
  have htensors : (registerTensor c t reset).tensors = (registerTensor c t false).tensors := by cases reset <;> rfl
  rw [htensors]
  unfold registerTensor
  cases ho : tensorOf c t.num with
  | none =>
    exact ⟨⟨_, List.mem_append_right _ (List.mem_singleton_self _), rfl⟩, fun q hq _ => List.mem_append_left _ hq⟩
  | some o =>
    have hnum : o.num = t.num := of_decide_eq_true (List.find?_some (p := fun q : Tensor => decide (q.num = t.num)) ho)
    dsimp only
    refine ⟨⟨_, List.mem_map.mpr ⟨o, List.mem_of_find?_eq_some ho, if_pos hnum⟩, ?_⟩,
      fun q hq hne => List.mem_map.mpr ⟨q, hq, if_neg hne⟩⟩
    split <;> rfl

theorem registerTensor_moments_false (c : Ctx) (t : Tensor) : (registerTensor c t false).moments = c.moments := by
  unfold registerTensor
  cases tensorOf c t.num <;> rfl

/-- The moments that RESET clears: both planes of both slots. -/
theorem registerTensor_moments_true (c : Ctx) (t : Tensor) : (registerTensor c t true).moments =
    [(false, 0), (true, 0), (false, 1), (true, 1)].foldl (fun m q => kclear m (momentKey q.1 q.2 t.num 0 0) 274877906944) c.moments := by
  unfold registerTensor
  cases tensorOf c t.num <;> rfl

theorem kget_kclear_of_zero {m : KMap (BitVec 32)} {k : Nat} (h : kget 0 m k = 0) (lo n : Nat) : kget 0 (kclear m lo n) k = 0 := by
  rw [kget_kclear, h, ite_self]

theorem kget_moments_reset (slot : Bool) {pl : Nat} (hpl : pl < 2) {j e : Nat} (hj : j < 2 ^ 32) (he : e < 64) :
    kget 0 (registerTensor c t true).moments (momentKey slot pl t.num j e) = 0 := by
  have hslot : (slot, pl) ∈ [(false, 0), (true, 0), (false, 1), (true, 1)] := by
    obtain rfl | rfl : pl = 0 ∨ pl = 1 := by omega
    all_goals cases slot <;> decide
  rw [registerTensor_moments_true]
  refine foldl_of_mem (P := fun m => kget 0 m (momentKey slot pl t.num j e) = 0) hslot _ (fun m => ?_) fun q _ _ m hm => kget_kclear_of_zero hm _ _
  rw [kget_kclear, if_neg]
  dsimp only [momentKey]
  omega

theorem kget_moments_register {k : Nat} (h : kget 0 c.moments k = 0) : kget 0 (registerTensor c t reset).moments k = 0 := by
  cases reset with
  | false => rw [registerTensor_moments_false, h]
  | true =>
    rw [registerTensor_moments_true]
    exact List.foldlRecOn (motive := fun m => kget 0 m k = 0) _ _ h fun m hm q _ => kget_kclear_of_zero hm _ _

end Register

/-! ### The records of a command (R205 to R208) -/

section Records

variable {k : Ctx} {b : Bytes} {gs ts : List Nat}

/-- The context once the header and the group records have taken effect. -/
def withHeader (k : Ctx) (b : Bytes) (thin : Nat) (gs : List Nat) : Ctx :=
  { k with maxNorm := leAt b 0 4, skipNonfinite := bit (leAt b 4 1) 0, groups := gs.map (groupAt b), thinPos := 0, thinN := thin + 1 }

theorem optApplied_eq (k : Ctx) (b : Bytes) (thin : Nat) (gs ts : List Nat) : optApplied k b thin gs ts =
    ts.foldl (fun c o => registerTensor c (tensorAt b o) (bit (leAt b o 4) 21)) (withHeader k b thin gs) := rfl

theorem firstFault_eq_none {α : Type} {a : Option α} {f : Unit → Option α} (h : a.orElse f = none) : a = none ∧ f () = none := by
  cases a with
  | none => exact ⟨rfl, h⟩
  | some _ => cases h

/-- Records that pass the checks name each tensor once. -/
theorem nums_nodup_of_optFault (h : optFault k b gs ts = none) : (ts.map fun o => (tensorAt b o).num).Nodup := by
  unfold optFault at h
  obtain ⟨hrecords, -⟩ := firstFault_eq_none (firstFault_eq_none h).2
  refine List.pairwise_iff_getElem.mpr fun i j hi hj hij heq => ?_
  have hj' : j < ts.length := by simpa using hj
  have hrecord := (firstFault_eq_none (List.findSome?_eq_none_iff.mp hrecords j (List.mem_range.mpr hj'))).2
  have hmem : (ts.map fun o => (tensorAt b o).num)[j] ∈ (ts.map fun o => (tensorAt b o).num).take j :=
    List.mem_take_iff_getElem.mpr ⟨i, by omega, heq⟩
  rw [List.getD_eq_getElem _ _ hj, List.contains_iff_mem.mpr hmem] at hrecord
  cases hrecord

/-- What the record at `o` brings about and the record of another tensor does not undo holds once all are registered. -/
theorem optApplied_of_record {P : Ctx → Prop} (hn : (ts.map fun o => (tensorAt b o).num).Nodup) {o : Nat} (ho : o ∈ ts) (thin : Nat)
    (hset : ∀ c, P (registerTensor c (tensorAt b o) (bit (leAt b o 4) 21)))
    (hkeep : ∀ c t reset, t.num ≠ (tensorAt b o).num → P c → P (registerTensor c t reset)) : P (optApplied k b thin gs ts) :=
  foldl_of_mem ho _ hset fun _ hp hne c hc => hkeep c _ _ (fun e => hne (List.inj_on_of_nodup_map hn hp ho e)) hc

theorem optApplied_registers (hn : (ts.map fun o => (tensorAt b o).num).Nodup) {o : Nat} (ho : o ∈ ts) (thin : Nat) :
    ∃ q ∈ (optApplied k b thin gs ts).tensors, Describes (tensorAt b o) q := by
  refine optApplied_of_record (P := fun c => ∃ q ∈ c.tensors, Describes (tensorAt b o) q) hn ho thin
    (fun c => (registerTensor_tensors c _ _).1) fun c t reset hne ⟨q, hq, hdesc⟩ => ⟨q, (registerTensor_tensors c t reset).2 q hq ?_, hdesc⟩
  rw [hdesc]
  exact hne.symm

theorem optApplied_resets (hn : (ts.map fun o => (tensorAt b o).num).Nodup) {o : Nat} (ho : o ∈ ts) (thin : Nat)
    (hr : (leAt b o 4).testBit 21 = true) (slot : Bool) {pl : Nat} (hpl : pl < 2) {j e : Nat} (hj : j < 2 ^ 32) (he : e < 64) :
    kget 0 (optApplied k b thin gs ts).moments (momentKey slot pl (tensorAt b o).num j e) = 0 := by
  refine optApplied_of_record (P := fun c => kget 0 c.moments (momentKey slot pl (tensorAt b o).num j e) = 0) hn ho thin (fun c => ?_)
    fun c t reset _ => kget_moments_register
  rw [show bit (leAt b o 4) 21 = true from hr]
  exact kget_moments_reset slot hpl hj he

theorem optApplied_keeps {q : Tensor} (hq : q ∈ k.tensors) (h : ∀ o ∈ ts, (tensorAt b o).num ≠ q.num) (thin : Nat) :
    q ∈ (optApplied k b thin gs ts).tensors := by
  rw [optApplied_eq]
  exact List.foldlRecOn (motive := fun c => q ∈ c.tensors) ts _ (show q ∈ (withHeader k b thin gs).tensors from hq)
    fun c hc o ho => (registerTensor_tensors c _ _).2 q hc (h o ho).symm

/-- The tensor records touch no setting of the header or the groups. -/
theorem optApplied_settings (k : Ctx) (b : Bytes) (thin : Nat) (gs ts : List Nat) :
    ∃ tn ms pa, optApplied k b thin gs ts = { withHeader k b thin gs with tensors := tn, moments := ms, parity := pa } := by
  rw [optApplied_eq]
  refine List.foldlRecOn (motive := fun c : Ctx => ∃ (tn : List Tensor) (ms : KMap (BitVec 32)) (pa : KMap Bool), c = { withHeader k b thin gs with tensors := tn, moments := ms, parity := pa }) ts _
    ⟨k.tensors, k.moments, k.parity, rfl⟩ fun c ⟨_, _, _, hc⟩ o _ => ?_
  obtain ⟨tn, ms, pa, h⟩ := registerTensor_eq c (tensorAt b o) (bit (leAt b o 4) 21)
  exact ⟨tn, ms, pa, by rw [h, hc]⟩

end Records

/-! ### The command -/

/-- The context after OPT_CONFIG `c` with its group records at `gs` and its tensor records at `ts`. -/
def configured (k : Ctx) (c : Cmd) (gs ts : List Nat) : Ctx :=
  { optApplied k c.param (c.fld 293 288) gs ts with
    drawn := k.drawn - optFrames k + optFrames (optApplied k c.param (c.fld 293 288) gs ts) }

theorem execOptConfig_accepted {s : State} {n : Nat} {k : Ctx} {c : Cmd} {gs ts : List Nat} (h : Current s (.ctx n) 0x0060 c)
    (hk : ctxOf s n = some k) (hbusy : ctxBusy s n = false) (hgs : (gs, c.paramBytes - 32 * ts.length) = groupOffsets c.param (c.fld 298 294) 16)
    (hts : ts = (List.range (c.fld 312 300)).map fun i => c.paramBytes - 32 * (c.fld 312 300) + 32 * i) (hlen : 32 * ts.length ≤ c.paramBytes)
    (hfault : optFault k c.param gs ts = none)
    (hgroups : (k.tensors.any fun q => !q.frozen && !(ts.map fun o => (tensorAt c.param o).num).contains q.num && decide (gs.length ≤ q.group)) = false)
    (hdrawn : k.drawn - optFrames k + optFrames (optApplied k c.param (c.fld 293 288) gs ts) ≤ k.frames.length) :
    exec (.optConfig (.ctx n)) s = .next (endOk (setCtx s n (configured k c gs ts)) (.ctx n) c 0) := by
  have hcount : ts.length = c.fld 312 300 := by rw [hts, List.length_map, List.length_range]
  have hrecords : ((List.range (c.fld 312 300)).map fun i => c.paramBytes - 32 * ts.length + 32 * i) = ts := by rw [hcount]; exact hts.symm
  show execOptConfig (.ctx n) s = _
  unfold execOptConfig
  rw [withCtxCmd_current h hk]
  dsimp only
  rw [← hgs]
  dsimp only
  rw [hrecords, if_neg (by omega), hbusy, if_neg Bool.false_ne_true, hfault]
  dsimp only
  rw [hgroups, if_neg Bool.false_ne_true, if_neg (by omega)]
  rfl

/-- Settles O41: the settings come from the header, each record from its own registration, and the reply changes the context's energy alone. -/
theorem optimiserConfigurationTakesEffect : Obligations.OptimiserConfigurationTakesEffect := by
  intro s n k c gs ts h hk hbusy hgs hts hlen hfault hgroups hdrawn
  have hn := nums_nodup_of_optFault hfault
  obtain ⟨tn, ms, pa, hset⟩ := optApplied_settings k c.param (c.fld 293 288) gs ts
  obtain ⟨e, he⟩ := ctxOf_endOk_setCtx s n (configured k c gs ts) (.ctx n) c 0
  have hframe := (endOk_frame _ (.ctx n) c 0).after (l := [.host, .admin, .rings, .ctxs, .power, .free]) (by decide)
    ((setCtx_frame s n (configured k c gs ts)).mono (by decide))
  refine ⟨_, _, execOptConfig_accepted h hk hbusy hgs hts hlen hfault hgroups hdrawn, Timetables.endOk_ended h (setCtx_ring s n _ _) rfl 0, he,
    hframe .steps (by decide), hframe.sm_eq (by decide) (by decide), ?_, ?_, ?_, ?_, ?_, fun o ho => optApplied_registers hn ho _,
    fun q hq ho => optApplied_keeps hq ho _, fun o ho hr slot pl hpl j hj e he => optApplied_resets hn ho _ hr slot hpl hj he⟩
  all_goals rw [configured, hset]; rfl

end Sys2Proof.OptimiserRecords


/-! PROOFS of the keystone family, the words of the optimiser's planes (R202, R203, R219): where a word of a slot lies, what writing the
planes of a block changes, and that words written beside the live ones leave those alone. -/

namespace Sys2Proof.OptimiserWords

open Sys2Proof.Machine Sys2Proof.DieMemories

/-! ### Where a word lies -/

/-- A word that the keys of the planes keep apart from every other: its tensor, shard block and element are within their fields. -/
structure InPlane (n j e : Nat) : Prop where
  tensor : n < 4096
  block : j < 2 ^ 32
  word : e < 64

section Keys

variable {b b' : Bool} {n n' j j' e e' : Nat}

theorem parityKey_eq_iff (hn : n < 4096) (hj : j < 2 ^ 32) (hn' : n' < 4096) (hj' : j' < 2 ^ 32) :
    parityKey b' n' j' = parityKey b n j ↔ b' = b ∧ n' = n ∧ j' = j := by
  unfold parityKey b2n
  cases b <;> cases b' <;> simp <;> omega

theorem masterKey_eq_iff (h : InPlane n j e) (h' : InPlane n' j' e') :
    masterKey b' n' j' e' = masterKey b n j e ↔ b' = b ∧ n' = n ∧ j' = j ∧ e' = e := by
  obtain ⟨hn, hj, he⟩ := h
  obtain ⟨hn', hj', he'⟩ := h'
  have hsplit : masterKey b' n' j' e' = masterKey b n j e ↔ parityKey b' n' j' = parityKey b n j ∧ e' = e := by
    unfold masterKey
    omega
  rw [hsplit, parityKey_eq_iff hn hj hn' hj', and_assoc, and_assoc]

theorem momentKey_eq_iff {pl pl' : Nat} (h : InPlane n j e) (h' : InPlane n' j' e') :
    momentKey b' pl' n' j' e' = momentKey b pl n j e ↔ b' = b ∧ pl' = pl ∧ n' = n ∧ j' = j ∧ e' = e := by
  obtain ⟨hn, hj, he⟩ := h
  obtain ⟨hn', hj', he'⟩ := h'
  unfold momentKey b2n
  cases b <;> cases b' <;> simp <;> omega

end Keys

/-! ### Words of a slot -/

/-- A word of a plane in a slot. -/
def slotWord (c : Ctx) (slot : Bool) (pl n j e : Nat) : BitVec 32 :=
  if pl = 0 then kget 0 c.masters (masterKey slot n j e) else kget 0 c.moments (momentKey slot (pl - 1) n j e)

theorem liveWord_eq_slotWord (c : Ctx) (pl n j e : Nat) : liveWord c pl n j e = slotWord c (liveSlot c n j) pl n j e := rfl

/-- A word of a plane in the slot that is not live. -/
def shadowWord (c : Ctx) (pl n j e : Nat) : BitVec 32 := slotWord c (!liveSlot c n j) pl n j e

/-- From `c` to `c'` nothing but words of the planes and of the ring copies changed. -/
def WordsOnly (c c' : Ctx) : Prop := c' = { c with masters := c'.masters, moments := c'.moments, copies := c'.copies }

theorem WordsOnly.refl (c : Ctx) : WordsOnly c c := rfl

theorem WordsOnly.trans {c c' c'' : Ctx} (h : WordsOnly c c') (k : WordsOnly c' c'') : WordsOnly c c'' := by
  unfold WordsOnly at *
  rw [k, h]

theorem WordsOnly.foldl {β : Type} {f : Ctx → β → Ctx} (hf : ∀ c b, WordsOnly c (f c b)) (l : List β) (c : Ctx) : WordsOnly c (l.foldl f c) :=
  List.foldlRecOn (motive := WordsOnly c) l f (.refl c) fun c' h b _ => h.trans (hf c' b)

theorem WordsOnly.liveSlot {c c' : Ctx} (h : WordsOnly c c') (n j : Nat) : liveSlot c' n j = liveSlot c n j := by rw [h]; rfl

theorem WordsOnly.planesOf {c c' : Ctx} (h : WordsOnly c c') (t : Tensor) : planesOf c' t = planesOf c t := by rw [h]; rfl

section Words

variable {c : Ctx} {slot slot' : Bool} {n n' j j' e e' : Nat}

theorem putWord_wordsOnly (c : Ctx) (slot : Bool) (pl n j e : Nat) (v : BitVec 32) : WordsOnly c (putWord c slot pl n j e v) := by
  unfold putWord
  split <;> rfl

theorem slotWord_putWord {pl pl' : Nat} (h : InPlane n j e) (h' : InPlane n' j' e') (v : BitVec 32) :
    slotWord (putWord c slot pl n j e v) slot' pl' n' j' e' =
      if slot' = slot ∧ pl' = pl ∧ n' = n ∧ j' = j ∧ e' = e then v else slotWord c slot' pl' n' j' e' := by
  unfold slotWord putWord
  by_cases hp : pl = 0 <;> by_cases hp' : pl' = 0
  · simp only [hp, hp', if_true, kget_kset, masterKey_eq_iff h h', true_and]
  · simp only [hp, hp', if_true, if_false, false_and, and_false]
  · simp only [hp, hp', if_true, if_false, Ne.symm hp, false_and, and_false]
  · have hpl : pl' - 1 = pl - 1 ↔ pl' = pl := by omega
    simp only [hp, hp', if_false, kget_kset, momentKey_eq_iff h h', hpl]

theorem putBlock_wordsOnly (c : Ctx) (slot : Bool) (pl n j : Nat) (ws : List (BitVec 32)) : WordsOnly c (putBlock c slot pl n j ws) :=
  .foldl (fun c e => putWord_wordsOnly c slot pl n j e _) _ c

theorem slotWord_putBlock_own {pl : Nat} (h : InPlane n j e) (ws : List (BitVec 32)) :
    slotWord (putBlock c slot pl n j ws) slot pl n j e = ws.getD e 0 := by
  refine read_foldl_of_mem (slotWord · slot pl n j e) _ (List.mem_range.mpr h.word) c (fun c => ?_) fun i hi hne c => ?_
  · rw [slotWord_putWord h h, if_pos ⟨rfl, rfl, rfl, rfl, rfl⟩]
  · rw [slotWord_putWord ⟨h.tensor, h.block, List.mem_range.mp hi⟩ h, if_neg fun ⟨_, _, _, _, he⟩ => hne he.symm]

theorem slotWord_putBlock_other {pl pl' : Nat} (hn : n < 4096) (hj : j < 2 ^ 32) (h' : InPlane n' j' e') (ws : List (BitVec 32))
    (hne : ¬ (slot' = slot ∧ pl' = pl ∧ n' = n ∧ j' = j)) :
    slotWord (putBlock c slot pl n j ws) slot' pl' n' j' e' = slotWord c slot' pl' n' j' e' := by
  refine read_foldl_of_unseen (slotWord · slot' pl' n' j' e') _ _ c fun i hi c => ?_
  rw [slotWord_putWord ⟨hn, hj, List.mem_range.mp hi⟩ h', if_neg fun ⟨hs, hp, hn, hj, _⟩ => hne ⟨hs, hp, hn, hj⟩]

end Words

/-! ### The planes of a block -/

theorem two_le_planesOf (c : Ctx) (t : Tensor) : 2 ≤ planesOf c t := by
  unfold planesOf
  split <;> decide

/-- Writes the planes `pls` of a shard block into a slot; the master of a slow-tier tensor is not held on the module (R204). -/
def putPlanes (c : Ctx) (t : Tensor) (slot : Bool) (j : Nat) (pls : List Nat) (words : Nat → List (BitVec 32)) : Ctx :=
  pls.foldl (fun c pl => if pl = 0 ∧ t.slow then c else putBlock c slot pl t.num j (words pl)) c

section Planes

variable {c : Ctx} {t : Tensor} {slot slot' : Bool} {n j j' e : Nat} {pls : List Nat} {words : Nat → List (BitVec 32)}

theorem putPlanes_wordsOnly (c : Ctx) (t : Tensor) (slot : Bool) (j : Nat) (pls : List Nat) (words : Nat → List (BitVec 32)) :
    WordsOnly c (putPlanes c t slot j pls words) := by
  refine .foldl (fun c pl => ?_) pls c
  split
  · exact .refl c
  · exact putBlock_wordsOnly ..

theorem slotWord_putPlanes_own {pl : Nat} (h : InPlane t.num j e) (hp : pl ∈ pls) (hs : ¬ (pl = 0 ∧ t.slow = true)) :
    slotWord (putPlanes c t slot j pls words) slot pl t.num j e = (words pl).getD e 0 := by
  refine read_foldl_of_mem (slotWord · slot pl t.num j e) _ hp c (fun c => ?_) fun q _ hne c => ?_
  · rw [if_neg hs, slotWord_putBlock_own h]
  · split
    · rfl
    · exact slotWord_putBlock_other h.tensor h.block h _ fun he => hne he.2.1.symm

theorem slotWord_putPlanes_other {pl : Nat} (ht : t.num < 4096) (hj : j < 2 ^ 32) (h' : InPlane n j' e)
    (hne : ¬ (slot' = slot ∧ n = t.num ∧ j' = j)) :
    slotWord (putPlanes c t slot j pls words) slot' pl n j' e = slotWord c slot' pl n j' e := by
  refine read_foldl_of_unseen (slotWord · slot' pl n j' e) _ _ c fun q _ c => ?_
  split
  · rfl
  · exact slotWord_putBlock_other ht hj h' _ fun ⟨hs, _, hn, hj⟩ => hne ⟨hs, hn, hj⟩

/-- Planes written into the slot of a block that is not live change no live word. -/
theorem liveWord_putPlanes {pl : Nat} (ht : t.num < 4096) (hj : j < 2 ^ 32) (h' : InPlane n j' e) (hs : slot = !liveSlot c t.num j) :
    liveWord (putPlanes c t slot j pls words) pl n j' e = liveWord c pl n j' e := by
  rw [liveWord_eq_slotWord, liveWord_eq_slotWord, (putPlanes_wordsOnly c t slot j pls words).liveSlot]
  refine slotWord_putPlanes_other ht hj h' ?_
  rintro ⟨hslot, rfl, rfl⟩
  rw [hs] at hslot
  exact (Bool.eq_not_self _).mp hslot

theorem shadowWord_putPlanes_own {pl : Nat} (h : InPlane t.num j e) (hp : pl ∈ pls) (hs : ¬ (pl = 0 ∧ t.slow = true)) (hslot : slot = !liveSlot c t.num j) :
    shadowWord (putPlanes c t slot j pls words) pl t.num j e = (words pl).getD e 0 := by
  rw [shadowWord, (putPlanes_wordsOnly c t slot j pls words).liveSlot, ← hslot, slotWord_putPlanes_own h hp hs]

theorem shadowWord_putPlanes_other {pl : Nat} (ht : t.num < 4096) (hj : j < 2 ^ 32) (h' : InPlane n j' e) (hne : ¬ (n = t.num ∧ j' = j)) :
    shadowWord (putPlanes c t slot j pls words) pl n j' e = shadowWord c pl n j' e := by
  rw [shadowWord, (putPlanes_wordsOnly c t slot j pls words).liveSlot, slotWord_putPlanes_other ht hj h' fun he => hne he.2]
  rfl

end Planes

end Sys2Proof.OptimiserWords


/-! PROOFS of the keystone family, checkpoint streams (O42): a stream starts, sends its base once, breaks and stops; a rebase folds the
closed half of the partner's log; a restore writes the slots that are not live and makes them live with one flip (R226 to R228, R296). -/

namespace Sys2Proof.Checkpoints

open Sys2Proof.Machine Sys2Proof.Safety Sys2Proof.Laws Sys2Proof.DieMemories Sys2Proof.Commits Sys2Proof.Timetables Sys2Proof.ContextWork
  Sys2Proof.OptimiserWords

/-! ### Starting and stopping (R296, R366) -/

section Streams

variable {s : State} {n : Nat} {k : Ctx} {c : Cmd}

/-- The region of a partner that CKPT_STREAM_START begins. -/
def startedPartner (c : Cmd) : Partner :=
  { peer := c.fld 310 296, peerDomain := c.fld 311 311, frames := c.fld 391 360, m := c.fld 359 344 }

/-- The stream of a sender that CKPT_STREAM_START begins. -/
def startedSender (c : Cmd) : CkptStream :=
  { peer := c.fld 310 296, peerDomain := c.fld 311 311, timeoutMs := if c.fld 343 312 = 0 then 1000 else c.fld 343 312 }

theorem execCkptStreamStart_partner (h : Current s (.ctx n) 0x0070 c) (hk : ctxOf s n = some k) (hrole : c.desc.getLsbD 288 = true)
    (hp : k.partner = none) (hroom : k.drawn + c.fld 391 360 ≤ k.frames.length) :
    exec (.ckptStreamStart (.ctx n)) s =
      .next (endOk (setCtx s n { k with drawn := k.drawn + c.fld 391 360, partner := some (startedPartner c) }) (.ctx n) c 0) := by
  show execCkptStreamStart (.ctx n) s = _
  unfold execCkptStreamStart
  rw [withCtxCmd_current h hk]
  dsimp only
  rw [if_pos hrole, hp, if_neg (by decide), if_neg (by omega)]
  rfl

theorem execCkptStreamStart_sender (h : Current s (.ctx n) 0x0070 c) (hk : ctxOf s n = some k) (hrole : c.desc.getLsbD 288 = false)
    (hs : k.sender = none) :
    exec (.ckptStreamStart (.ctx n)) s =
      .next (acceptCmd (setCtx s n { k with ckptWait := some c.seq, sender := some (startedSender c) }) (.ctx n) c.seq) := by
  show execCkptStreamStart (.ctx n) s = _
  unfold execCkptStreamStart
  rw [withCtxCmd_current h hk]
  dsimp only
  rw [hrole, if_neg Bool.false_ne_true, hs, if_neg (by decide)]
  rfl

/-- The state once a partner's flows from its sender are dropped. -/
def withoutDeltas (s : State) (k : Ctx) : State :=
  { s with slory := { s.slory with rxFlows := s.slory.rxFlows.filter fun f => !decide (f.op = 5 ∧ f.key.tag = k.tag.toNat) } }

theorem execCkptStreamStop_partner {p : Partner} (h : Current s (.ctx n) 0x0071 c) (hk : ctxOf s n = some k) (hrole : c.desc.getLsbD 288 = true)
    (hp : k.partner = some p) :
    exec (.ckptStreamStop (.ctx n)) s =
      .next (endOk (setCtx (withoutDeltas s k) n { k with partner := none, drawn := k.drawn - p.frames }) (.ctx n) c (p.state.seq.getD 0)) := by
  show execCkptStreamStop (.ctx n) s = _
  unfold execCkptStreamStop
  rw [withCtxCmd_current h hk]
  dsimp only
  rw [if_pos hrole, hp]
  rfl

theorem execCkptStreamStop_sender {q : CkptStream} (h : Current s (.ctx n) 0x0071 c) (hk : ctxOf s n = some k) (hrole : c.desc.getLsbD 288 = false)
    (hs : k.sender = some q) (hw : k.ckptWait = none) (hstop : q.stopping = none) (hu : q.unacked = []) :
    exec (.ckptStreamStop (.ctx n)) s = .next (endOk (endSender s n q) (.ctx n) c q.lastAcked) := by
  show execCkptStreamStop (.ctx n) s = _
  unfold execCkptStreamStop
  rw [withCtxCmd_current h hk]
  dsimp only
  rw [hrole, if_neg Bool.false_ne_true, hs]
  dsimp only
  rw [hw, hstop, hu, if_neg (by decide), if_pos rfl]

/-- The context of a sender whose stream is gone. -/
def senderDropped (s : State) (n : Nat) : State := updCtx s n fun c => { c with sender := none }

/-- The state once the stream of a sender and its flows are gone. -/
def withoutSender (s : State) (n : Nat) : State :=
  { senderDropped s n with
    slory := { (senderDropped s n).slory with tx := (senderDropped s n).slory.tx.filter fun f => !decide (f.op = 5 ∧ f.ctx = n) } }

theorem withoutSender_frame (s : State) (n : Nat) : Frame [.ctxs, .slory] s (withoutSender s n) :=
  .upd rfl ((updCtx_frame s n _).mono (by decide))

theorem endSender_of_none {q : CkptStream} (hstop : q.stopping = none) : endSender s n q = withoutSender s n := by
  unfold endSender
  rw [hstop]
  rfl

/-- Ending a sender's stream drops it and its flows; a CKPT_STREAM_STOP that waits is answered besides. -/
theorem endSender_answers (s : State) (n : Nat) (q : CkptStream) : EnergyOnly n (withoutSender s n) (endSender s n q) ∧
    Frame [.host, .admin, .rings, .ctxs, .power, .free] (withoutSender s n) (endSender s n q) := by
  cases hstop : q.stopping with
  | none => exact endSender_of_none hstop ▸ ⟨.refl _ _, .refl _ _⟩
  | some seq =>
    unfold endSender
    rw [hstop]
    exact ⟨energyOnly_endCmd n (withoutSender s n) _ _ _, endCmd_frame (withoutSender s n) _ _ _⟩

theorem ctxOf_withoutSender (hk : ctxOf s n = some k) : ctxOf (withoutSender s n) n = some { k with sender := none } :=
  (ctxOf_updCtx s n n fun c => { c with sender := none }).trans (by rw [if_pos rfl, hk]; rfl)

end Streams

/-! ### The base (R227, R278) -/

theorem sendSlory_tx (s : State) (q d n op : Nat) (udp : Bytes) (ctx step : Option Nat) : (sendSlory s q d n op udp ctx step).slory.tx = s.slory.tx := by
  unfold sendSlory
  split
  · rfl
  · split
    · rfl
    · exact congrArg Slory.tx (enqueueFrame_frame s _ _ _ .slory (by decide))

/-- Sending the frames of a flow changes how far it is sent alone. -/
theorem exists_tx_pumpFlow {s : State} {f : TxFlow} {P : TxFlow → Prop} (hf : f ∈ s.slory.tx) (hP : ∀ upTo, P { f with sentUpTo := upTo }) :
    ∃ g ∈ (pumpFlow s f).slory.tx, P g := by
  unfold pumpFlow
  dsimp only
  rw [read_foldl_of_unseen (fun u : State => u.slory.tx) _ _ s fun fr _ u => sendSlory_tx ..]
  refine ⟨_, List.mem_map_of_mem hf, ?_⟩
  rw [if_pos rfl]
  exact hP _

theorem startFlow_begins {s : State} {ctx : Nat} {c : Ctx} {nd : NodeRec} (hc : ctxOf s ctx = some c) (hnode : s.slory.node = some nd)
    (op q dstDom dst step attempt flow srcIndex sub : Nat) (stepId : Option Nat) (b : Bytes) :
    ∃ f ∈ (startFlow s ctx op q dstDom dst step attempt flow srcIndex sub stepId b).slory.tx,
      f.op = op ∧ f.key.dst = dst ∧ f.dstDom = dstDom ∧ f.key.tag = c.tag.toNat := by
  unfold startFlow
  rw [hnode, hc]
  dsimp only
  exact exists_tx_pumpFlow (List.mem_append_right _ (List.mem_singleton_self _)) fun _ => ⟨rfl, rfl, rfl, rfl⟩

theorem startOpenFlow_begins {s : State} {ctx : Nat} {c : Ctx} {nd : NodeRec} (hc : ctxOf s ctx = some c) (hnode : s.slory.node = some nd)
    (op dstDom dst step attempt sub : Nat) (stepId : Option Nat) (b : Bytes) :
    ∃ f ∈ (startOpenFlow s ctx op dstDom dst step attempt sub stepId b).slory.tx,
      f.op = op ∧ f.key.dst = dst ∧ f.dstDom = dstDom ∧ f.key.tag = c.tag.toNat :=
  startFlow_begins (s := (takeFree s).2) hc hnode ..

section Sender

variable {s : State} {n : Nat} {k : Ctx} {q : CkptStream}

/-- The stream of a sender once its base has gone out. -/
def baseGone (k : Ctx) (q : CkptStream) : CkptStream := { q with baseSent := true, unacked := q.unacked ++ [(k.vseq, baseRecords k [])] }

theorem execCkptBaseSend_resident (hk : ctxOf s n = some k) (hs : k.sender = some q) (hsent : q.baseSent = false)
    (hp : publishingAdmitted s n = false) (hslow : ∀ t ∈ k.tensors, t.frozen = true ∨ t.slow = false) :
    exec (.ckptBaseSend n []) s = .next (startOpenFlow (setCtx s n { k with sender := some (baseGone k q) }) n 5 q.peerDomain q.peer
      (k.vseq % 2 ^ 32) 0 0 none (baseRecords k [])) := by
  have hnone : (k.tensors.filter fun t => !t.frozen && t.slow) = [] :=
    List.filter_eq_nil_iff.mpr fun t ht => by rcases hslow t ht with h | h <;> simp [h]
  show execCkptBaseSend n [] s = _
  unfold execCkptBaseSend
  rw [hk]
  dsimp only
  rw [hs]
  dsimp only
  rw [hsent, hp, if_neg (by decide), hnone, List.mergeSort_nil]
  rfl

/-! ### A stream that breaks (R227) -/

/-- The context's stream has ended with `status`, and a CKPT_STREAM_START that waited is answered. -/
def streamEnded (s : State) (n : Nat) (k : Ctx) (q : CkptStream) (status : Nat) : State :=
  match k.ckptWait with
  | some seq => endCmd (endSender (setCtx s n { k with ckptWait := none }) n q) (.ctx n) seq (plain status)
  | none => endSender (setCtx s n { k with ckptWait := none }) n q

theorem breakStream_eq (hk : ctxOf s n = some k) (hs : k.sender = some q) (status : Nat) : breakStream s n status =
    sendVector (postEvent (logErr (streamEnded s n k q status) 0x0702 (some n) (Config.errDetail 0x0702 [q.peer, q.peerDomain])) n
      { status := status, event := 1, detail1 := q.lastAcked }) n := by
  unfold breakStream
  rw [hk]
  dsimp only
  split
  · next hnone => exact absurd (hnone.symm.trans hs) (by simp)
  · next q' hq' =>
    obtain rfl := Option.some.inj (hq'.symm.trans hs)
    rfl

theorem streamEnded_answers (s : State) (n : Nat) (k : Ctx) (q : CkptStream) (status : Nat) :
    EnergyOnly n (withoutSender (setCtx s n { k with ckptWait := none }) n) (streamEnded s n k q status) ∧
    Frame [.host, .admin, .rings, .ctxs, .power, .free] (withoutSender (setCtx s n { k with ckptWait := none }) n) (streamEnded s n k q status) := by
  obtain ⟨henergy, hframe⟩ := endSender_answers (setCtx s n { k with ckptWait := none }) n q
  unfold streamEnded
  split
  · exact ⟨henergy.trans (energyOnly_endCmd n _ _ _ _), hframe.trans (endCmd_frame _ _ _ _)⟩
  · exact ⟨henergy, hframe⟩

theorem execStreamTimeout_unacked (hk : ctxOf s n = some k) (hs : k.sender = some q) (hu : q.unacked ≠ []) :
    exec (.streamTimeout n) s = .next (breakStream s n stTimeout) := by
  show execStreamTimeout n s = _
  unfold execStreamTimeout
  rw [hk]
  dsimp only
  rw [hs]
  dsimp only
  rw [if_neg hu]

/-- A log entry looks at the log before and after and at the time alone. -/
theorem logged_congr {s s' t t' : State} {code : Nat} {ctx : Option Nat} {detail : BitVec 128} (h : Logged s' t' code ctx detail)
    (hs : s'.err = s.err) (hclk : s'.clk = s.clk) (ht : t'.err = t.err) : Logged s t code ctx detail := by
  unfold Logged at *
  rwa [hs, hclk, ht] at h

/-- What a broken stream leaves of its context, of its flows and in the log. -/
theorem breakStream_breaks (hk : ctxOf s n = some k) (hs : k.sender = some q) (status : Nat) :
    (∃ e, ctxOf (breakStream s n status) n = some { k with ckptWait := none, sender := none, energy := e }) ∧
    (∀ f ∈ (breakStream s n status).slory.tx, ¬ (f.op = 5 ∧ f.ctx = n)) ∧
    Logged s (breakStream s n status) 0x0702 (some n) (Config.errDetail 0x0702 [q.peer, q.peerDomain]) := by
  obtain ⟨henergy, hended⟩ := streamEnded_answers s n k q status
  have hdropped := withoutSender_frame (setCtx s n { k with ckptWait := none }) n
  have hposted : Frame [.msix, .out, .host, .admin, .rings] (logErr (streamEnded s n k q status) 0x0702 (some n)
      (Config.errDetail 0x0702 [q.peer, q.peerDomain])) (breakStream s n status) :=
    breakStream_eq hk hs status ▸ (sendVector_frame _ n).after (by decide) ((postEvent_frame _ n _).mono (by decide))
  have hlogged : Frame [.err, .msix, .out, .host, .admin, .rings] (streamEnded s n k q status) (breakStream s n status) :=
    hposted.after (by decide) ((logErr_frame _ _ _ _).mono (by decide))
  obtain ⟨e, he⟩ := henergy _ (ctxOf_withoutSender (ctxOf_setCtx_self s n { k with ckptWait := none }))
  refine ⟨⟨e, (ctxOf_eq_of_frame hlogged (by decide) n).trans he⟩, fun f hf => ?_, logged_congr (logErr_logged (streamEnded s n k q status) _ _ _) ?_ ?_ ?_⟩
  · rw [show (breakStream s n status).slory = _ from hlogged .slory (by decide),
      show (streamEnded s n k q status).slory = _ from hended .slory (by decide)] at hf
    exact of_decide_eq_false ((Bool.not_eq_true' _).mp (List.mem_filter.mp hf).2)
  · exact (hdropped .err (by decide)).trans (hended .err (by decide))
  · exact (hdropped .clk (by decide)).trans (hended .clk (by decide))
  · exact (hposted .err (by decide)).symm

end Sender

/-! ### A rebase (R226) -/

theorem execRebaseComplete_folds {s : State} {n : Nat} {k : Ctx} {p : Partner} (hk : ctxOf s n = some k) (hp : k.partner = some p)
    (hclosed : p.closed ≠ none) (hfree : ∀ b < 8, higherWork s b 6 = false)
    (hflows : ∀ f ∈ s.slory.rxFlows, ¬ (f.op = 5 ∧ f.key.tag = k.tag.toNat)) :
    exec (.rebaseComplete n) s = .next (setCtx s n { k with partner := some p.fold }) := by
  have hidle : ((List.range 8).any fun b => higherWork s b 6) = false :=
    List.any_eq_false.mpr fun b hb => by simp [hfree b (List.mem_range.mp hb)]
  have hnone : (s.slory.rxFlows.filter fun f => decide (f.op = 5 ∧ f.key.tag = k.tag.toNat)) = [] :=
    List.filter_eq_nil_iff.mpr fun f hf => by simpa using hflows f hf
  show execRebaseComplete n s = _
  unfold execRebaseComplete
  rw [hk]
  dsimp only
  rw [hp]
  dsimp only
  rw [hidle, if_neg (by simpa [Option.isNone_iff_eq_none] using hclosed)]
  show Host.Outcome.next ((s.slory.rxFlows.filter _).foldl _ _) = _
  rw [hnone]
  rfl

/-! ### A restore (R228) -/

/-- A fold over states does to context `n` what a fold over contexts does. -/
theorem ctxOf_foldl {β : Type} {n : Nat} {F : State → β → State} {G : Ctx → β → Ctx}
    (hstep : ∀ s k b, ctxOf s n = some k → ctxOf (F s b) n = some (G k b)) (l : List β) {s : State} {k : Ctx} (hk : ctxOf s n = some k) :
    ctxOf (l.foldl F s) n = some (l.foldl G k) := by
  induction l generalizing s k with
  | nil => exact hk
  | cons b l ih => exact ih (hstep s k b hk)

/-- A block of a tensor with the words that a full state holds for it. -/
def restoredBlock (f : FullState) (t : Tensor) (slot : Bool) (j : Nat) (c : Ctx) : Ctx :=
  putPlanes c t slot j (List.range (planesOf c t)) fun pl => (List.range 64).map fun e => kget 0 f.words (baseKey pl t.num j e)

/-- A tensor's slots that are not live with the words that a full state holds for them. -/
def restoredWords (f : FullState) (c : Ctx) (t : Tensor) : Ctx :=
  (List.range t.shardBlocks).foldl (fun k j => restoredBlock f t (!liveSlot c t.num j) j k) c

/-- The tensors of a context that are trained. -/
def trained (c : Ctx) : List Tensor := c.tensors.filter fun t => !t.frozen

/-- The shard blocks of some tensors. -/
def blocksOf (ts : List Tensor) : List (Nat × Nat) := ts.flatMap fun t => (List.range t.shardBlocks).map fun j => (t.num, j)

/-- The flip that makes restored words live. -/
def restoreFlip (f : FullState) (seq : Nat) (ts : List Tensor) (c : Ctx) : Ctx :=
  { c with
    parity := nextParity c (blocksOf ts), table := !c.table, vseq := seq, diverged := false
    counts := (List.range 16).foldl (fun m g => kset 0 m (16 * b2n (!c.table) + g) (f.counts.getD g 0)) c.counts }

/-- A context after a restore. -/
def restoredCtx (f : FullState) (seq : Nat) (c : Ctx) : Ctx :=
  (trained c).foldl (restoreCopy f) (restoreFlip f seq (trained c) ((trained c).foldl (restoredWords f) c))

section Restore

variable {f : FullState} {s : State} {n seq : Nat} {c : Ctx} {t : Tensor}

theorem ctxOf_restoreTensor (hc : ctxOf s n = some c) (t : Tensor) : ctxOf (restoreTensor f n s t) n = some (restoredWords f c t) := by
  unfold restoreTensor restoredWords
  rw [hc]
  refine ctxOf_foldl (fun u k j hk => ?_) _ hc
  have hmaster : ctxOf (if t.slow then writeMaster u n t (!liveSlot c t.num j) j
      ((List.range 64).map fun e => kget 0 f.words (baseKey 0 t.num j e)) else u) n = some k := by
    split
    · exact (ctxOf_eq_of_frame (writeMaster_frame _ _ _ _ _ _) (by decide) n).trans hk
    · exact hk
  exact (ctxOf_updCtx _ n n _).trans (by rw [if_pos rfl, hmaster]; rfl)

/-- The state in which restored words have become live. -/
def flippedState (s : State) (n : Nat) (f : FullState) (seq : Nat) (c : Ctx) : State :=
  updCtx ((trained c).foldl (restoreTensor f n) s) n fun k => (trained c).foldl (restoreCopy f) (restoreFlip f seq (trained c) k)

theorem ctxOf_flippedState (f : FullState) (seq : Nat) (hc : ctxOf s n = some c) :
    ctxOf (flippedState s n f seq c) n = some (restoredCtx f seq c) := by
  have hwords := ctxOf_foldl (fun u k t hk => ctxOf_restoreTensor (f := f) hk t) (trained c) hc
  exact (ctxOf_updCtx _ n n _).trans (by rw [if_pos rfl, hwords]; rfl)

/-- After the flip a restore cleans the poison of what it has written and writes the mirrors of slow-tier tensors. -/
theorem restoreState_eq (f : FullState) (seq : Nat) (hc : ctxOf s n = some c) : ∃ k after, restoreState s n f seq =
    ((trained c).filter (·.slow)).foldl (fun t q => writeMirror t n k q after)
      ((trained c).foldl (fun s q => cleanTensor s k q (ringCopy ((tensorOf k q.num).getD q) 0) true) (flippedState s n f seq c)) := by
  unfold restoreState
  rw [hc]
  dsimp only
  split
  · next hnone => exact absurd (hnone.symm.trans (ctxOf_flippedState f seq hc)) (by simp)
  · exact ⟨_, _, rfl⟩

theorem foldl_cleanTensor_frame (s : State) (k : Ctx) (ts : List Tensor) :
    Frame [.sm] s (ts.foldl (fun s q => cleanTensor s k q (ringCopy ((tensorOf k q.num).getD q) 0) true) s) :=
  Frame.foldl _ _ (fun _ _ => cleanTensor_frame _ _ _ _ _) (Frame.refl _ _)

theorem ctxOf_restoreState (hc : ctxOf s n = some c) : ctxOf (restoreState s n f seq) n = some (restoredCtx f seq c) := by
  obtain ⟨k, after, h⟩ := restoreState_eq f seq hc
  rw [h, ctxOf_eq_of_frame (Frame.foldl _ _ (fun u q => writeMirror_frame u n k q after) (Frame.refl [.host] _)) (by decide),
    ctxOf_eq_of_frame (foldl_cleanTensor_frame _ k _) (by decide), ctxOf_flippedState f seq hc]

theorem nextIdLe_of_frame {l : List Part} {s t : State} (h : Frame l s t) (hh : Part.host ∉ l) : NextIdLe s t := by
  have hhost : t.host = s.host := h .host hh
  rw [NextIdLe, hhost]

theorem nextIdLe_restoreTensor (f : FullState) (n : Nat) (s : State) (t : Tensor) : NextIdLe s (restoreTensor f n s t) := by
  unfold restoreTensor
  split
  · exact Nat.le_refl _
  · refine nextIdLe_foldl _ (fun u j => ?_) _ s
    refine Nat.le_trans ?_ (nextIdLe_of_frame (updCtx_frame _ n _) (by decide))
    split
    · exact nextIdLe_writeHostAfter ..
    · exact Nat.le_refl _

theorem nextIdLe_restoreState (f : FullState) (seq : Nat) (hc : ctxOf s n = some c) : NextIdLe s (restoreState s n f seq) := by
  obtain ⟨k, after, h⟩ := restoreState_eq f seq hc
  rw [h]
  calc s.host.nextId ≤ ((trained c).foldl (restoreTensor f n) s).host.nextId := nextIdLe_foldl _ (nextIdLe_restoreTensor f n) _ s
    _ ≤ (flippedState s n f seq c).host.nextId := nextIdLe_of_frame (updCtx_frame _ n _) (by decide)
    _ ≤ _ := nextIdLe_of_frame (foldl_cleanTensor_frame _ k _) (by decide)
    _ ≤ _ := nextIdLe_foldl _ (fun u q => nextIdLe_writeHostAfter ..) _ _

/-! ### What is live after the flip (R219, R220, R228) -/

theorem restoredBlock_wordsOnly (f : FullState) (t : Tensor) (slot : Bool) (j : Nat) (c : Ctx) : WordsOnly c (restoredBlock f t slot j c) :=
  putPlanes_wordsOnly ..

theorem restoredWords_wordsOnly (f : FullState) (c : Ctx) (t : Tensor) : WordsOnly c (restoredWords f c t) :=
  .foldl (fun k j => restoredBlock_wordsOnly f t _ j k) _ c

theorem shadowWord_restoredWords_own {j e : Nat} (ht : t.num < 4096) (hb : t.shardBlocks ≤ 2 ^ 32) (hs : t.slow = false) (hj : j < t.shardBlocks)
    (he : e < 64) : shadowWord (restoredWords f c t) 0 t.num j e = kget 0 f.words (baseKey 0 t.num j e) := by
  have hin : InPlane t.num j e := ⟨ht, by omega, he⟩
  rw [shadowWord, (restoredWords_wordsOnly f c t).liveSlot]
  refine read_foldl_of_mem (slotWord · (!liveSlot c t.num j) 0 t.num j e) _ (List.mem_range.mpr hj) c (fun k => ?_) fun i hi hne k => ?_
  · rw [restoredBlock, slotWord_putPlanes_own hin (List.mem_range.mpr (Nat.lt_of_lt_of_le Nat.two_pos (two_le_planesOf k t))) (by simp [hs]),
      getD_map_range 0 _ he]
  · have hi' : i < 2 ^ 32 := Nat.lt_of_lt_of_le (List.mem_range.mp hi) hb
    exact slotWord_putPlanes_other ht hi' hin fun h => hne h.2.2.symm

theorem shadowWord_restoredWords_other {m j e : Nat} (ht : t.num < 4096) (hb : t.shardBlocks ≤ 2 ^ 32) (hin : InPlane m j e) (hne : t.num ≠ m) :
    shadowWord (restoredWords f c t) 0 m j e = shadowWord c 0 m j e :=
  read_foldl_of_unseen (shadowWord · 0 m j e) _ _ c fun _ hi _ =>
    shadowWord_putPlanes_other ht (Nat.lt_of_lt_of_le (List.mem_range.mp hi) hb) hin fun h => hne h.1.symm

theorem mem_blocksOf {ts : List Tensor} {q : Nat × Nat} : q ∈ blocksOf ts ↔ ∃ t ∈ ts, t.num = q.1 ∧ q.2 < t.shardBlocks := by
  simp only [blocksOf, List.mem_flatMap, List.mem_map, List.mem_range, Prod.ext_iff]
  exact ⟨fun ⟨t, ht, j, hj, hn, hq⟩ => ⟨t, ht, hn, hq ▸ hj⟩, fun ⟨t, ht, hn, hq⟩ => ⟨t, ht, _, hq, hn, rfl⟩⟩

/-- In the parity table that a commit or a restore makes live, the bit of every updated block is inverted (R220). -/
theorem kget_nextParity {upd : List (Nat × Nat)} {q : Nat × Nat} (hq : q ∈ upd) (hb : ∀ p ∈ upd, p.1 < 4096 ∧ p.2 < 2 ^ 32) :
    kget false (nextParity c upd) (parityKey (!c.table) q.1 q.2) = !liveSlot c q.1 q.2 := by
  refine read_foldl_of_mem (fun m => kget false m (parityKey (!c.table) q.1 q.2)) _ hq _ (fun m => ?_) fun p hp hne m => ?_
  · rw [kget_kset, if_pos rfl]
  · rw [kget_kset, if_neg]
    intro hkey
    obtain ⟨-, hn, hj⟩ := (parityKey_eq_iff (hb p hp).1 (hb p hp).2 (hb q hq).1 (hb q hq).2).mp hkey
    exact hne (Prod.ext hn.symm hj.symm)

theorem restoreCopy_eq (f : FullState) (c : Ctx) (t : Tensor) : ∃ cs tn, restoreCopy f c t = { c with copies := cs, tensors := tn } := by
  unfold restoreCopy takeCopy wholeCopy
  cases t.frozen <;> exact ⟨_, _, rfl⟩

/-- Deriving the working copies changes the ring copies and the tensors that name them alone. -/
theorem restoredCtx_eq (f : FullState) (seq : Nat) (c : Ctx) : ∃ cs tn, restoredCtx f seq c =
    { restoreFlip f seq (trained c) ((trained c).foldl (restoredWords f) c) with copies := cs, tensors := tn } := by
  generalize hk : restoreFlip f seq (trained c) ((trained c).foldl (restoredWords f) c) = k
  rw [restoredCtx, hk]
  refine List.foldlRecOn (motive := fun k' : Ctx => ∃ (cs : KMap (BitVec 16)) (tn : List Tensor), k' = { k with copies := cs, tensors := tn }) _ _
    ⟨k.copies, k.tensors, rfl⟩ fun k' ⟨_, _, hk'⟩ t _ => ?_
  obtain ⟨cs, tn, h⟩ := restoreCopy_eq f k' t
  exact ⟨cs, tn, by rw [h, hk']⟩

/-- After a restore the live master of a trained tensor held on the module is the one of the full state. -/
theorem liveWord_restoredCtx {j e : Nat} (hn : (c.tensors.map (·.num)).Nodup) (hb : ∀ t ∈ c.tensors, t.num < 4096 ∧ t.shardBlocks ≤ 2 ^ 32)
    (ht : t ∈ c.tensors) (hf : t.frozen = false) (hs : t.slow = false) (hj : j < t.shardBlocks) (he : e < 64) :
    liveWord (restoredCtx f seq c) 0 t.num j e = kget 0 f.words (baseKey 0 t.num j e) := by
  have htrained : t ∈ trained c := List.mem_filter.mpr ⟨ht, by rw [hf]; rfl⟩
  have hmem : ∀ q ∈ trained c, q ∈ c.tensors := fun q hq => (List.mem_filter.mp hq).1
  obtain ⟨htn, htb⟩ := hb t ht
  generalize hk : (trained c).foldl (restoredWords f) c = k
  have hwords : shadowWord k 0 t.num j e = kget 0 f.words (baseKey 0 t.num j e) := by
    rw [← hk]
    refine read_foldl_of_mem (shadowWord · 0 t.num j e) _ htrained c (fun k => shadowWord_restoredWords_own htn htb hs hj he) fun q hq hne k => ?_
    obtain ⟨hqn, hqb⟩ := hb q (hmem q hq)
    exact shadowWord_restoredWords_other hqn hqb ⟨htn, by omega, he⟩ fun h => hne (List.inj_on_of_nodup_map hn (hmem q hq) ht h)
  have hslot : liveSlot (restoreFlip f seq (trained c) k) t.num j = !liveSlot k t.num j := by
    refine kget_nextParity (q := (t.num, j)) (mem_blocksOf.mpr ⟨t, htrained, rfl, hj⟩) fun p hp => ?_
    obtain ⟨q, hq, hqn, hqj⟩ := mem_blocksOf.mp hp
    have := hb q (hmem q hq)
    omega
  obtain ⟨cs, tn, hctx⟩ := restoredCtx_eq f seq c
  rw [hctx, hk, ← hwords, shadowWord, ← hslot]
  rfl

theorem restoredCtx_version (f : FullState) (seq : Nat) (c : Ctx) :
    (restoredCtx f seq c).vseq = seq ∧ (restoredCtx f seq c).table = !c.table := by
  have hwords : WordsOnly c ((trained c).foldl (restoredWords f) c) := .foldl (restoredWords_wordsOnly f) _ c
  obtain ⟨cs, tn, hctx⟩ := restoredCtx_eq f seq c
  rw [hctx, hwords]
  exact ⟨rfl, rfl⟩

end Restore

theorem execCkptRestore_here {s : State} {n q : Nat} {k : Ctx} {c : Cmd} {nd : NodeRec} {p : Partner} (b : Bytes) (h : Current s (.ctx n) 0x0072 c)
    (hk : ctxOf s n = some k) (hstop : k.service = .stopped) (hnode : s.slory.node = some nd) (hn : nd.node = c.fld 302 288)
    (hd : nd.domain = c.fld 303 303) (hp : k.partner = some p) (hpeer : p.peer = c.fld 318 304) (hdom : p.peerDomain = c.fld 319 319)
    (hseq : p.state.seq = some q) :
    exec (.ckptRestore (.ctx n) b) s = .next (endOk (restoreState s n p.state q) (.ctx n) c q) := by
  show execCkptRestore (.ctx n) b s = _
  unfold execCkptRestore
  rw [withCtxCmd_current h hk]
  dsimp only
  rw [if_neg (by rw [hstop]; decide), hnode]
  dsimp only
  rw [if_pos (decide_eq_true ⟨hn, hd⟩), hp]
  dsimp only
  rw [if_pos ⟨hpeer, hdom⟩]
  dsimp only
  rw [hseq]

/-! ### The statement -/

/-- Settles O42, clause by clause: what each row of a checkpoint stream comes to, and a restore as one flip over words written beside the live ones. -/
theorem checkpointStreamsRunAndRestore : Obligations.CheckpointStreamsRunAndRestore := by
  refine ⟨fun s n k c h hk => ⟨fun hrole hp hroom => ?_, fun hrole hs => ?_⟩, fun s n k c h hk => ⟨fun p hrole hp => ?_, fun q hrole hs hw hstop hu => ?_⟩,
    fun s n k q nd hk hs hnode => ⟨fun hsent hpub hslow => ?_, fun hu => ?_⟩,
    fun s n k p hk hp hclosed hfree hflows => execRebaseComplete_folds hk hp hclosed hfree hflows,
    fun s n q k c nd p b h hk hstop hnode hn hd hp hpeer hdom hseq hnums hb => ?_⟩
  · obtain ⟨e, he⟩ := ctxOf_endOk_setCtx s n { k with drawn := k.drawn + c.fld 391 360, partner := some (startedPartner c) } (.ctx n) c 0
    exact ⟨_, _, execCkptStreamStart_partner h hk hrole hp hroom, endOk_ended h (setCtx_ring s n _ _) rfl 0, he, rfl, rfl⟩
  · obtain ⟨e, he⟩ := energyOnly_acceptCmd n _ (.ctx n) c.seq _ (ctxOf_setCtx_self s n { k with ckptWait := some c.seq, sender := some (startedSender c) })
    obtain ⟨g, hg, hc⟩ := Option.bind_eq_some_iff.mp (acceptCmd_keeps_cmd h (setCtx_ring s n { k with
      ckptWait := some c.seq, sender := some (startedSender c) } (.ctx n)))
    have hheld := held_of_current h
    exact ⟨_, _, g, _, execCkptStreamStart_sender h hk hrole hs, he, rfl, hg, hc, rfl, hheld⟩
  · obtain ⟨e, he⟩ := ctxOf_endOk_setCtx (withoutDeltas s k) n { k with partner := none, drawn := k.drawn - p.frames } (.ctx n) c (p.state.seq.getD 0)
    exact ⟨_, _, execCkptStreamStop_partner h hk hrole hp, endOk_ended h (setCtx_ring (withoutDeltas s k) n _ _) rfl _, he, rfl, rfl⟩
  · have hexec := execCkptStreamStop_sender h hk hrole hs hw hstop hu
    rw [endSender_of_none hstop] at hexec
    obtain ⟨e, he⟩ := energyOnly_endOk n _ (.ctx n) c q.lastAcked _ (ctxOf_withoutSender hk)
    have hframe := withoutSender_frame s n
    exact ⟨_, _, hexec, endOk_ended h (hframe.ring (by decide) (by decide) _) (hframe .host (by decide)) _, he, rfl⟩
  · have hctx := ctxOf_setCtx_self s n { k with sender := some (baseGone k q) }
    obtain ⟨f, hf, hop, hdst, hdom, htag⟩ := startOpenFlow_begins hctx hnode 5 q.peerDomain q.peer (k.vseq % 2 ^ 32) 0 0 none (baseRecords k [])
    exact ⟨_, _, execCkptBaseSend_resident hk hs hsent hpub hslow,
      (ctxOf_eq_of_frame (startOpenFlow_frame _ _ _ _ _ _ _ _ _ _) (by decide) n).trans hctx, rfl, f, hf, hop, hdst, hdom, htag⟩
  · obtain ⟨⟨e, he⟩, htx, hlog⟩ := breakStream_breaks hk hs stTimeout
    exact ⟨_, _, execStreamTimeout_unacked hk hs hu, he, rfl, rfl, htx, hlog⟩
  · obtain ⟨e, he⟩ := energyOnly_endOk n _ (.ctx n) c q _ (ctxOf_restoreState (f := p.state) (seq := q) hk)
    have hring : ringOf (restoreState s n p.state q) (.ctx n) = ringOf s (.ctx n) := (restoreState_frame s n _ q).ring (by decide) (by decide) _
    obtain ⟨hvseq, htable⟩ := restoredCtx_version p.state q k
    exact ⟨_, _, execCkptRestore_here b h hk hstop hnode hn hd hp hpeer hdom hseq, endOk_ended_of_nextIdLe h hring (nextIdLe_restoreState _ _ hk) q, he,
      hvseq, htable, fun tn ht hf hs j hj e' he' => liveWord_restoredCtx hnums hb ht hf hs hj he'⟩

end Sys2Proof.Checkpoints


/-! PROOFS of the keystone family, ACCEPT and the update entries (O40). Both fold over the blocks of their entry. ACCEPT's blocks lie apart
in the gradient buffer and add their squares in order; an updated block writes the slots that are not live and leaves what every other
block's rule reads as it was. -/

namespace Sys2Proof.Keystones

open Sys2Proof.Machine Sys2Proof.Safety Sys2Proof.Laws Sys2Proof.StationResults Sys2Proof.DieMemories Sys2Proof.PierTurns Sys2Proof.StackedWrites
  Sys2Proof.TilesAhead Sys2Proof.ContextWork Sys2Proof.OptimiserRecords Sys2Proof.OptimiserWords

/-! ### A keystone's turn -/

section Turn

variable {s : State} {st b kop stall : Nat} {x : Step} {img : Image} {c : Ctx} {u v : UnitSt} {k : KeyIns}

theorem nextKey_onTurn (h : KeystoneTurn s st b x img c u k) (hk : k.kop = kop) : nextKey s st b kop = some (x, img, c, u, k) := by
  unfold nextKey
  rw [nextIns_eq_some.mpr h]
  dsimp only
  rw [if_pos hk]

theorem samePlace_issued (h : SamePlace u v) (stall dry : Nat) : SamePlace (u.issued stall dry) (v.issued stall dry) where
  next := congrArg (· + 1) h.next
  slip := congrArg (satAdd max32 · stall) h.slip
  entrance := congrArg (satAdd max32 · dry) h.entrance

theorem settleNorm_eq (c : Ctx) (img : Image) (x : Step) : ∃ v sk, settleNorm c img x = { x with total := v, skipped := sk } := by
  unfold settleNorm takeNorm
  split <;> exact ⟨_, _, rfl⟩

/-- An issue looks at the steps alone, in the state that it leaves too. -/
theorem issued_of_steps_after {s t t' : State} {st key stall dry : Nat} {x y : Step} (h : Issued s t st key stall dry x u y)
    (ht : t'.steps = t.steps) : Issued s t' st key stall dry x u y := by
  have e : ∀ i, stepOf t' i = stepOf t i := fun i => by rw [stepOf, stepOf, ht]
  obtain ⟨hy, hn, hl, he, hu, ho⟩ := h
  exact ⟨(e st).trans hy, hn, hl, he, hu, fun i hi => (e i).trans (ho i hi)⟩

end Turn

/-! ### ACCEPT (R213, R214) -/

section Accept

variable {c : Ctx} {b : Nat} {k : KeyIns}

/-- Where a word of the gradient buffer lies. -/
abbrev gradKey (k : KeyIns) (j e : Nat) : Nat := masterKey false k.tensor j e

theorem gradKey_eq_iff {j j' e e' : Nat} (he : e < 64) (he' : e' < 64) : gradKey k j' e' = gradKey k j e ↔ j' = j ∧ e' = e := by
  dsimp only [gradKey, masterKey, parityKey]
  omega

/-- The gradient buffer with the words of one block. -/
def bufferBlock (k : KeyIns) (q : Nat × Nat × List (Nat × Nat)) (m : KMap (BitVec 32)) : KMap (BitVec 32) :=
  (List.range 64).foldl (fun m e => kput m (gradKey k q.1 e) (BitVec.ofNat 32 ((q.2.2.map (·.1)).getD e 0))) m

theorem kget_bufferBlock_own (q : Nat × Nat × List (Nat × Nat)) (m : KMap (BitVec 32)) {e : Nat} (he : e < 64) :
    kget 0 (bufferBlock k q m) (gradKey k q.1 e) = BitVec.ofNat 32 (q.2.2.getD e (0, 0)).1 := by
  refine read_foldl_of_mem (fun m => kget 0 m (gradKey k q.1 e)) _ (List.mem_range.mpr he) m (fun m => ?_) fun i hi hne m => ?_
  · rw [kget_kput, if_pos rfl]
    exact congrArg (BitVec.ofNat 32) (List.getD_map q.2.2 (0, 0) Prod.fst)
  · rw [kget_kput, if_neg fun h => hne ((gradKey_eq_iff (List.mem_range.mp hi) he).mp h).2.symm]

theorem kget_bufferBlock_other {q : Nat × Nat × List (Nat × Nat)} {j e : Nat} (hj : q.1 ≠ j) (he : e < 64) (m : KMap (BitVec 32)) :
    kget 0 (bufferBlock k q m) (gradKey k j e) = kget 0 m (gradKey k j e) := by
  refine read_foldl_of_unseen (fun m => kget 0 m (gradKey k j e)) _ _ m fun i hi m => ?_
  rw [kget_kput, if_neg fun h => hj ((gradKey_eq_iff (List.mem_range.mp hi) he).mp h).1.symm]

/-- The keystone's sum after one block. -/
def sumBlock (b : Nat) (q : Nat × Nat × List (Nat × Nat)) (m : KMap F64) : KMap F64 :=
  kset 0 m b (dAdd (kget 0 m b) (blockNorm (q.2.2.map (·.1))))

theorem acceptBlock_step (c : Ctx) (b : Nat) (k : KeyIns) (p : Step × UnitSt) (q : Nat × Nat × List (Nat × Nat)) : (acceptBlock c b k p q).1 =
    { p.1 with gradBuf := bufferBlock k q p.1.gradBuf, norms := if normNeeded c then sumBlock b q p.1.norms else p.1.norms } := by
  unfold acceptBlock
  dsimp only
  cases normNeeded c <;> rfl

theorem acceptBlock_place (c : Ctx) (b : Nat) (k : KeyIns) (p : Step × UnitSt) (q : Nat × Nat × List (Nat × Nat)) :
    SamePlace p.2 (acceptBlock c b k p q).2 := by
  unfold acceptBlock
  refine samePlace_foldl _ (fun u e => ?_) _ _
  dsimp only
  split
  · exact (samePlace_raise ..).trans (samePlace_raise ..)
  · exact samePlace_raise ..

/-- The step and the unit once every block of an ACCEPT is accepted. -/
def acceptedBlocks (c : Ctx) (b : Nat) (k : KeyIns) (x : Step) (u : UnitSt) (qs : List (Nat × Nat × List (Nat × Nat))) : Step × UnitSt :=
  qs.foldl (acceptBlock c b k) (x, u)

variable {x : Step} {u : UnitSt} {qs : List (Nat × Nat × List (Nat × Nat))}

theorem acceptedBlocks_work (c : Ctx) (b : Nat) (k : KeyIns) (x : Step) (u : UnitSt) (qs : List (Nat × Nat × List (Nat × Nat))) :
    (∃ buf ns, (acceptedBlocks c b k x u qs).1 = { x with gradBuf := buf, norms := ns }) ∧ SamePlace u (acceptedBlocks c b k x u qs).2 := by
  refine List.foldlRecOn (motive := fun p : Step × UnitSt =>
    (∃ (buf : KMap (BitVec 32)) (ns : KMap F64), p.1 = { x with gradBuf := buf, norms := ns }) ∧ SamePlace u p.2) qs _
    ⟨⟨x.gradBuf, x.norms, rfl⟩, .refl u⟩ fun p ⟨⟨_, _, hp⟩, hu⟩ q _ => ⟨?_, hu.trans (acceptBlock_place ..)⟩
  rw [acceptBlock_step, hp]
  exact ⟨_, _, rfl⟩

theorem acceptedBlocks_gradBuf (hn : (qs.map (·.1)).Nodup) {q : Nat × Nat × List (Nat × Nat)} (hq : q ∈ qs) {e : Nat} (he : e < 64) :
    kget 0 (acceptedBlocks c b k x u qs).1.gradBuf (gradKey k q.1 e) = BitVec.ofNat 32 (q.2.2.getD e (0, 0)).1 := by
  refine read_foldl_of_mem (fun p : Step × UnitSt => kget 0 p.1.gradBuf (gradKey k q.1 e)) _ hq (x, u) (fun p => ?_) fun r hr hne p => ?_
  · rw [acceptBlock_step, kget_bufferBlock_own q _ he]
  · rw [acceptBlock_step, kget_bufferBlock_other (fun h => hne (List.inj_on_of_nodup_map hn hr hq h)) he]

theorem acceptedBlocks_norms_of_not_needed (h : normNeeded c = false) : (acceptedBlocks c b k x u qs).1.norms = x.norms :=
  read_foldl_of_unseen (fun p : Step × UnitSt => p.1.norms) _ qs (x, u) fun q _ p => by rw [acceptBlock_step, h]; rfl

/-- Where the context clips or skips, the keystone's sum takes the squares of the blocks in their order. -/
theorem acceptedBlocks_norms_of_needed (h : normNeeded c = true) : kget 0 (acceptedBlocks c b k x u qs).1.norms b =
    qs.foldl (fun a q => dAdd a (blockNorm (q.2.2.map (·.1)))) (kget 0 x.norms b) := by
  refine (List.foldl_hom (fun p : Step × UnitSt => kget 0 p.1.norms b) fun p q => ?_).symm
  rw [acceptBlock_step, h]
  exact ((kget_kset 0 _ b b _).trans (if_pos rfl)).symm

/-- The step after an ACCEPT, its norm settled. -/
def acceptedStep (c : Ctx) (img : Image) (b stall : Nat) (k : KeyIns) (x : Step) (u : UnitSt) (qs : List (Nat × Nat × List (Nat × Nat))) : Step :=
  settleNorm c img (keyActivity ((acceptedBlocks c b k x u qs).1.setUnit (2300 + b) ((acceptedBlocks c b k x u qs).2.issued stall 0)) qs.length 256)

variable {s : State} {st stall : Nat} {img : Image} {tn : Tensor}

theorem execAccept_onTurn (h : KeystoneTurn s st b x img c u k) (ht : OnTime img x u k.cycle stall) (hk : k.kop = 1)
    (htn : tensorOf c k.tensor = some tn) (hqs : entryBlocks s img x tn k = some qs) :
    exec (.accept st b stall) s = .next (setStep s (acceptedStep c img b stall k x u qs)) := by
  show execAccept st b stall s = _
  unfold execAccept
  rw [nextKey_onTurn h hk]
  dsimp only
  rw [htn, Option.bind_some, hqs]
  dsimp only
  rw [issueOr_onTime _ _ ht]
  rfl

theorem acceptedStep_eq (c : Ctx) (img : Image) (b stall : Nat) (k : KeyIns) (x : Step) (u : UnitSt) (qs : List (Nat × Nat × List (Nat × Nat))) :
    ∃ v sk ac, acceptedStep c img b stall k x u qs =
      { (acceptedBlocks c b k x u qs).1.setUnit (2300 + b) ((acceptedBlocks c b k x u qs).2.issued stall 0) with
        total := v, skipped := sk, activity := ac } := by
  obtain ⟨v, sk, h⟩ := settleNorm_eq c img
    (keyActivity ((acceptedBlocks c b k x u qs).1.setUnit (2300 + b) ((acceptedBlocks c b k x u qs).2.issued stall 0)) qs.length 256)
  exact ⟨v, sk, _, h⟩

theorem acceptedStep_issued (hx : stepOf s st = some x) : Issued s (setStep s (acceptedStep c img b stall k x u qs)) st (2300 + b) stall 0 x u
    (settle s (acceptedStep c img b stall k x u qs)) := by
  obtain ⟨⟨buf, ns, hblocks⟩, hplace⟩ := acceptedBlocks_work c b k x u qs
  obtain ⟨v, sk, ac, h⟩ := acceptedStep_eq c img b stall k x u qs
  have hunit (j : Nat) : (acceptedStep c img b stall k x u qs).unit j = if j = 2300 + b then (acceptedBlocks c b k x u qs).2.issued stall 0 else x.unit j := by
    rw [h]
    exact (unit_setUnit (acceptedBlocks c b k x u qs).1 (2300 + b) j _).trans (by rw [hblocks]; rfl)
  refine issued_of_samePlace hx rfl ?_ ?_ fun j hj => (hunit j).trans (if_neg hj)
  · rw [h, ← id_of_stepOf hx]
    exact (congrArg Step.id hblocks :)
  · rw [hunit, if_pos rfl]
    exact samePlace_issued hplace stall 0

theorem settle_acceptedStep (s : State) : (settle s (acceptedStep c img b stall k x u qs)).gradBuf = (acceptedBlocks c b k x u qs).1.gradBuf ∧
    (settle s (acceptedStep c img b stall k x u qs)).norms = (acceptedBlocks c b k x u qs).1.norms := by
  obtain ⟨v, sk, ac, h⟩ := acceptedStep_eq c img b stall k x u qs
  rcases settle_eq s (acceptedStep c img b stall k x u qs) with hs | ⟨-, hs⟩ <;> rw [hs, h] <;> exact ⟨rfl, rfl⟩

end Accept

/-! ### One updated block (R211, R212, R220) -/

/-- A block of an entry: its shard block, its position in the entry, and its gradient words with their flags. -/
abbrev EntryBlock := Nat × Nat × List (Nat × Nat)

/-- What the update of a block takes and gives: the module, the context, the step and the keystone. -/
abbrev BlockWork := State × Ctx × Step × UnitSt

/-- Between the states host traffic alone changed. -/
def OnlyHost (s t : State) : Prop := t = { s with host := t.host }

theorem OnlyHost.refl (s : State) : OnlyHost s s := rfl

theorem OnlyHost.trans {s t u : State} (h : OnlyHost s t) (k : OnlyHost t u) : OnlyHost s u := by
  unfold OnlyHost at *
  rw [k, h]

theorem writeHostAfter_onlyHost (s : State) (n : Nat) (path : HwPath) (va : Nat) (b : Bytes) (after : List Nat) :
    OnlyHost s (writeHostAfter s n path va b after) := by
  unfold writeHostAfter
  split
  · exact .refl s
  · refine List.foldlRecOn (motive := OnlyHost s) _ _ (.refl s) fun u hu q _ => hu.trans ?_
    split
    · exact rfl
    · exact .refl u

/-- What the rule of a group makes of one element of a block: the new master and moments, and the flags (R211). -/
def ruleOn (t : Tensor) (scale : Nat) (sc : List Nat) (c : Ctx) (x : Step) (q : EntryBlock) (e : Nat) : Nat × Nat × Nat × Nat :=
  keyRule (c.groups.getD t.group {}) sc scale
    (if t.slow then kget 0 x.slowMasters (masterKey false t.num q.1 e) else liveWord c 0 t.num q.1 e).toNat
    (liveWord c 1 t.num q.1 e).toNat (liveWord c 2 t.num q.1 e).toNat (q.2.2.getD e (0, 0)).1

/-- The word of a plane in the result of a rule. -/
def planeWord (r : Nat × Nat × Nat × Nat) (pl : Nat) : BitVec 32 := BitVec.ofNat 32 (if pl = 0 then r.1 else if pl = 1 then r.2.1 else r.2.2.1)

/-- The new words of a plane of a block. -/
def ruleWords (t : Tensor) (scale : Nat) (sc : List Nat) (c : Ctx) (x : Step) (q : EntryBlock) (pl : Nat) : List (BitVec 32) :=
  (List.range 64).map fun e => planeWord (((List.range 64).map (ruleOn t scale sc c x q)).getD e (0, 0, 0, 0)) pl

theorem getD_ruleWords (t : Tensor) (scale : Nat) (sc : List Nat) (c : Ctx) (x : Step) (q : EntryBlock) (pl : Nat) {e : Nat} (he : e < 64) :
    (ruleWords t scale sc c x q pl).getD e 0 = planeWord (ruleOn t scale sc c x q e) pl := by
  rw [ruleWords, getD_map_range 0 _ he, getD_map_range _ _ he]

section Block

variable {t : Tensor} {k : KeyIns} {cpb scale : Nat} {sc : List Nat} {p : BlockWork} {q : EntryBlock}

/-- An updated block changes words of its context, and those of its own planes as its rule says. -/
theorem updateBlock_ctx (t : Tensor) (k : KeyIns) (cpb scale : Nat) (sc : List Nat) (p : BlockWork) (q : EntryBlock) :
    ∃ copy o bs, (updateBlock t k cpb scale sc p q).2.1 =
      putCopy (putPlanes p.2.1 t (!liveSlot p.2.1 t.num q.1) q.1 (List.range (planesOf p.2.1 t)) (ruleWords t scale sc p.2.1 p.2.2.1 q)) t copy o bs :=
  ⟨_, _, _, rfl⟩

/-- What updated blocks may change: host traffic, words of the context, what the step notes of them, and the keystone's events. -/
structure Updated (p p' : BlockWork) : Prop where
  state : OnlyHost p.1 p'.1
  words : WordsOnly p.2.1 p'.2.1
  step : ∃ ps ds, p'.2.2.1 = { p.2.2.1 with shadowParity := ps, deltas := ds }
  place : SamePlace p.2.2.2 p'.2.2.2

theorem Updated.refl (p : BlockWork) : Updated p p := ⟨.refl _, .refl _, ⟨_, _, rfl⟩, .refl _⟩

theorem Updated.trans {p p' p'' : BlockWork} (h : Updated p p') (h' : Updated p' p'') : Updated p p'' where
  state := h.state.trans h'.state
  words := h.words.trans h'.words
  step := by
    obtain ⟨_, _, hs⟩ := h.step
    obtain ⟨ps, ds, hs'⟩ := h'.step
    exact ⟨ps, ds, by rw [hs', hs]⟩
  place := h.place.trans h'.place

theorem updateBlock_updated (t : Tensor) (k : KeyIns) (cpb scale : Nat) (sc : List Nat) (p : BlockWork) (q : EntryBlock) :
    Updated p (updateBlock t k cpb scale sc p q) where
  state := by
    unfold updateBlock
    dsimp only
    split
    · exact (writeHostAfter_onlyHost ..).trans rfl
    · exact .refl _
  words := by
    obtain ⟨copy, o, bs, h⟩ := updateBlock_ctx t k cpb scale sc p q
    rw [h]
    exact (putPlanes_wordsOnly ..).trans rfl
  step := ⟨_, _, rfl⟩
  place := samePlace_foldl _ (fun _ _ => ((samePlace_raise ..).trans (samePlace_raise ..)).trans (samePlace_raise ..)) _ _

section Words

variable (ht : t.num < 4096) (hq : q.1 < 2 ^ 32)

include ht hq

/-- An updated block leaves every live word. -/
theorem liveWord_updateBlock {pl n j e : Nat} (h : InPlane n j e) :
    liveWord (updateBlock t k cpb scale sc p q).2.1 pl n j e = liveWord p.2.1 pl n j e := by
  obtain ⟨copy, o, bs, hctx⟩ := updateBlock_ctx t k cpb scale sc p q
  rw [hctx]
  exact liveWord_putPlanes ht hq h rfl

/-- What the rule makes of any block of the tensor does not change with the update of one. -/
theorem ruleOn_updateBlock {r : EntryBlock} (hr : r.1 < 2 ^ 32) {e : Nat} (he : e < 64) :
    ruleOn t scale sc (updateBlock t k cpb scale sc p q).2.1 (updateBlock t k cpb scale sc p q).2.2.1 r e = ruleOn t scale sc p.2.1 p.2.2.1 r e := by
  have hlive (pl : Nat) := liveWord_updateBlock (k := k) (cpb := cpb) (scale := scale) (sc := sc) (p := p) ht hq (pl := pl) ⟨ht, hr, he⟩
  have hgroups : (updateBlock t k cpb scale sc p q).2.1.groups = p.2.1.groups := by
    rw [(updateBlock_updated t k cpb scale sc p q).words]
  rw [ruleOn, hgroups, hlive, hlive, hlive]
  rfl

theorem shadowWord_updateBlock_own {pl e : Nat} (hpl : pl < planesOf p.2.1 t) (hs : ¬ (pl = 0 ∧ t.slow = true)) (he : e < 64) :
    shadowWord (updateBlock t k cpb scale sc p q).2.1 pl t.num q.1 e = planeWord (ruleOn t scale sc p.2.1 p.2.2.1 q e) pl := by
  obtain ⟨copy, o, bs, hctx⟩ := updateBlock_ctx t k cpb scale sc p q
  rw [hctx]
  exact (shadowWord_putPlanes_own ⟨ht, hq, he⟩ (List.mem_range.mpr hpl) hs rfl).trans (getD_ruleWords _ _ _ _ _ _ _ he)

theorem shadowWord_updateBlock_other {pl j e : Nat} (hj : j < 2 ^ 32) (hne : j ≠ q.1) (he : e < 64) :
    shadowWord (updateBlock t k cpb scale sc p q).2.1 pl t.num j e = shadowWord p.2.1 pl t.num j e := by
  obtain ⟨copy, o, bs, hctx⟩ := updateBlock_ctx t k cpb scale sc p q
  rw [hctx]
  exact shadowWord_putPlanes_other ht hq ⟨ht, hj, he⟩ fun h => hne h.2

end Words

end Block

/-! ### All blocks of an entry -/

/-- The context before the first block of an update: the free ring copy of the tensor is a bit copy of the live one (R212). -/
def ringBegun (c : Ctx) (x : Step) (t : Tensor) : Ctx := if x.shadowCopies.contains t.num then c else wholeCopy c t

theorem clipScale_ringBegun (c : Ctx) (x : Step) (t : Tensor) : clipScale (ringBegun c x t) x = clipScale c x := by
  unfold ringBegun
  split <;> rfl

/-- What the update of the first block takes. -/
def blocksBegun (s : State) (c : Ctx) (x : Step) (t : Tensor) (u : UnitSt) : BlockWork := (s, ringBegun c x t, noteCopy x t.num, u)

/-- The scalars of a tensor's group that a step has taken. -/
def scalarsOf (x : Step) (t : Tensor) : List Nat := ((x.scalars.find? fun p => decide (p.1 = t.group)).map (·.2)).getD []

/-- The work of an update entry on its blocks. -/
def blocksUpdated (s : State) (c : Ctx) (x : Step) (t : Tensor) (u : UnitSt) (k : KeyIns) (cpb : Nat) (qs : List EntryBlock) : BlockWork :=
  qs.foldl (updateBlock t k cpb (clipScale c x) (scalarsOf x t)) (blocksBegun s c x t u)

section Blocks

variable {s : State} {c : Ctx} {x : Step} {t : Tensor} {u : UnitSt} {k : KeyIns} {cpb : Nat} {qs : List EntryBlock}

theorem blocksBegun_cases (s : State) (c : Ctx) (x : Step) (t : Tensor) (u : UnitSt) : blocksBegun s c x t u = (s, c, x, u) ∨
    blocksBegun s c x t u = (s, wholeCopy c t, { x with shadowCopies := x.shadowCopies ++ [t.num] }, u) := by
  unfold blocksBegun ringBegun noteCopy
  split
  · exact .inl rfl
  · exact .inr rfl

theorem liveWord_blocksBegun (pl n j e : Nat) : liveWord (blocksBegun s c x t u).2.1 pl n j e = liveWord c pl n j e := by
  rcases blocksBegun_cases s c x t u with h | h <;> exact (congrArg (fun p : BlockWork => liveWord p.2.1 pl n j e) h :)

theorem ruleOn_blocksBegun (scale : Nat) (sc : List Nat) (q : EntryBlock) (e : Nat) :
    ruleOn t scale sc (blocksBegun s c x t u).2.1 (blocksBegun s c x t u).2.2.1 q e = ruleOn t scale sc c x q e := by
  rcases blocksBegun_cases s c x t u with h | h <;> exact (congrArg (fun p : BlockWork => ruleOn t scale sc p.2.1 p.2.2.1 q e) h :)

theorem blocksBegun_updated (s : State) (c : Ctx) (x : Step) (t : Tensor) (u : UnitSt) :
    WordsOnly c (blocksBegun s c x t u).2.1 ∧ ∃ cs, (blocksBegun s c x t u).2.2.1 = { x with shadowCopies := cs } := by
  rcases blocksBegun_cases s c x t u with h | h <;> rw [h] <;> exact ⟨rfl, _, rfl⟩

theorem blocksUpdated_updated (s : State) (c : Ctx) (x : Step) (t : Tensor) (u : UnitSt) (k : KeyIns) (cpb : Nat) (qs : List EntryBlock) :
    Updated (blocksBegun s c x t u) (blocksUpdated s c x t u k cpb qs) :=
  List.foldlRecOn (motive := Updated (blocksBegun s c x t u)) qs _ (.refl _) fun _ h _ _ => h.trans (updateBlock_updated ..)

section Words

variable (ht : t.num < 4096) (hb : ∀ q ∈ qs, q.1 < 2 ^ 32)

include ht hb

theorem liveWord_blocksUpdated {pl n j e : Nat} (h : InPlane n j e) :
    liveWord (blocksUpdated s c x t u k cpb qs).2.1 pl n j e = liveWord c pl n j e :=
  (read_foldl_of_unseen (fun p : BlockWork => liveWord p.2.1 pl n j e) _ qs _ fun q hq _ => liveWord_updateBlock ht (hb q hq) h).trans
    (liveWord_blocksBegun ..)

theorem ruleOn_blocksUpdated {r : EntryBlock} (hr : r.1 < 2 ^ 32) {e : Nat} (he : e < 64) :
    ruleOn t (clipScale c x) (scalarsOf x t) (blocksUpdated s c x t u k cpb qs).2.1 (blocksUpdated s c x t u k cpb qs).2.2.1 r e =
      ruleOn t (clipScale c x) (scalarsOf x t) c x r e :=
  (read_foldl_of_unseen (fun p : BlockWork => ruleOn t (clipScale c x) (scalarsOf x t) p.2.1 p.2.2.1 r e) _ qs _
    fun q hq _ => ruleOn_updateBlock ht (hb q hq) hr he).trans (ruleOn_blocksBegun ..)

theorem shadowWord_blocksUpdated (hn : (qs.map (·.1)).Nodup) {q : EntryBlock} (hq : q ∈ qs) {pl e : Nat} (hpl : pl < planesOf c t)
    (hs : ¬ (pl = 0 ∧ t.slow = true)) (he : e < 64) :
    shadowWord (blocksUpdated s c x t u k cpb qs).2.1 pl t.num q.1 e = planeWord (ruleOn t (clipScale c x) (scalarsOf x t) c x q e) pl := by
  have hplanes : planesOf (blocksUpdated s c x t u k cpb qs).2.1 t = planesOf c t :=
    ((blocksUpdated_updated s c x t u k cpb qs).words.planesOf t).trans ((blocksBegun_updated s c x t u).1.planesOf t)
  rw [← ruleOn_blocksUpdated (s := s) (u := u) (k := k) (cpb := cpb) ht hb (hb q hq) he]
  refine foldl_of_mem (P := fun p : BlockWork => pl < planesOf p.2.1 t → shadowWord p.2.1 pl t.num q.1 e =
    planeWord (ruleOn t (clipScale c x) (scalarsOf x t) p.2.1 p.2.2.1 q e) pl) hq _ (fun p hp => ?_) (fun r hr hne p hword hp => ?_) (hplanes ▸ hpl)
  · rw [(updateBlock_updated ..).words.planesOf] at hp
    rw [ruleOn_updateBlock ht (hb q hq) (hb q hq) he, shadowWord_updateBlock_own ht (hb q hq) hp hs he]
  · rw [(updateBlock_updated ..).words.planesOf] at hp
    have hj : q.1 ≠ r.1 := fun h => hne (List.inj_on_of_nodup_map hn hr hq h.symm)
    rw [ruleOn_updateBlock ht (hb r hr) (hb q hq) he, shadowWord_updateBlock_other ht (hb r hr) (hb q hq) hj he, hword hp]

/-- The new words stand in the slots that were not live before the update. -/
theorem slotWord_blocksUpdated (hn : (qs.map (·.1)).Nodup) {q : EntryBlock} (hq : q ∈ qs) {pl e : Nat} (hpl : pl < planesOf c t)
    (hs : ¬ (pl = 0 ∧ t.slow = true)) (he : e < 64) :
    slotWord (blocksUpdated s c x t u k cpb qs).2.1 (!liveSlot c t.num q.1) pl t.num q.1 e =
      planeWord (ruleOn t (clipScale c x) (scalarsOf x t) c x q e) pl := by
  have hslot : liveSlot (blocksUpdated s c x t u k cpb qs).2.1 t.num q.1 = liveSlot c t.num q.1 :=
    ((blocksUpdated_updated s c x t u k cpb qs).words.liveSlot _ _).trans ((blocksBegun_updated s c x t u).1.liveSlot _ _)
  rw [← shadowWord_blocksUpdated ht hb hn hq hpl hs he, shadowWord, hslot]

end Words

end Blocks

/-! ### Write combining of what an update writes (R216, R236) -/

theorem OnlyBuffers.foldl {β : Type} {f : State → β → State} (hf : ∀ u b, u.sm.poison = [] → OnlyBuffers u (f u b)) (l : List β) {s : State}
    (h : s.sm.poison = []) : OnlyBuffers s (l.foldl f s) :=
  List.foldlRecOn (motive := OnlyBuffers s) l f (.refl s) fun u hu b _ => hu.trans (hf u b (hu.poison.trans h))

theorem storeTensor_onlyBuffers {s : State} (h : s.sm.poison = []) (img : Image) (c : Ctx) (x : Step) (num area o : Nat) (bs : Bytes) :
    OnlyBuffers s (storeTensor s img c x num area o bs .ok) :=
  OnlyBuffers.foldl (fun _ _ hu => wcWrite_onlyBuffers hu ..) _ h

theorem storeUpdated_onlyBuffers {s : State} (h : s.sm.poison = []) (img : Image) (c : Ctx) (x : Step) (t : Tensor) (j : Nat) :
    OnlyBuffers s (storeUpdated img c x t .ok s j) := by
  have hplanes : OnlyBuffers s ((List.range (planesOf c t)).foldl (fun s pl =>
      if pl = 0 ∧ t.slow then s
      else storeTensor s img c x t.num (planeArea pl (!liveSlot c t.num j)) (256 * j) (List.replicate 256 0) .ok) s) := by
    refine OnlyBuffers.foldl (fun u pl hu => ?_) _ h
    split
    · exact .refl u
    · exact storeTensor_onlyBuffers hu ..
  exact hplanes.trans (storeTensor_onlyBuffers (hplanes.poison.trans h) ..)

/-! ### The update entries (R213, R214) -/

section Update

variable {s : State} {st b stall : Nat} {x z : Step} {img : Image} {c : Ctx} {u : UnitSt} {k : KeyIns} {tn : Tensor} {qs : List EntryBlock}

/-- The blocks of an UPDATE from the gradient buffer. -/
def bufferedBlocks (x : Step) (k : KeyIns) : List EntryBlock := (List.range k.blocks).map fun n =>
  (k.first + 8 * n, n, (List.range 64).map fun e => ((kget 0 x.gradBuf (masterKey false k.tensor (k.first + 8 * n) e)).toNat, 0))

theorem norm_settled (hs : normNeeded c = true → z.total ≠ none) : (normNeeded c && z.total.isNone) = false := by
  cases hn : normNeeded c with
  | false => rfl
  | true => exact Option.isNone_eq_false_iff.mpr (Option.isSome_iff_ne_none.mpr (hs hn))

theorem execUpdate_onTurn (h : KeystoneTurn s st b x img c u k) (hk : k.kop = 2) (ht : tensorOf c k.tensor = some tn) (hz : z = settleNorm c img x)
    (hs : normNeeded c = true → z.total ≠ none) (hqs : (if k.desc = 0 then some (bufferedBlocks z k) else entryBlocks s img z tn k) = some qs) :
    exec (.update st b stall []) s = .next (updateBlocks s z img c u k tn b stall (updateCycles c tn (decide (k.desc = 0))) [] qs) := by
  show execUpdate st b stall [] s = _
  unfold execUpdate
  rw [nextKey_onTurn h hk]
  dsimp only
  rw [← hz, ht]
  dsimp only
  rw [norm_settled hs, if_neg Bool.false_ne_true]
  unfold bufferedBlocks at hqs
  rw [hqs]

theorem execUpdateList_onTurn (h : KeystoneTurn s st b x img c u k) (hk : k.kop = 3) (ht : tensorOf c k.tensor = some tn)
    (hz : z = settleNorm c img x) (hs : normNeeded c = true → z.total ≠ none) (hqs : entryBlocks s img z tn k = some qs) :
    exec (.updateList st b stall []) s = .next (updateBlocks s z img c u k tn b stall (updateCycles c tn false) [] qs) := by
  show execUpdateList st b stall [] s = _
  unfold execUpdateList
  rw [nextKey_onTurn h hk]
  dsimp only
  rw [← hz, ht]
  dsimp only
  rw [norm_settled hs, if_neg Bool.false_ne_true, hqs]

/-- The state of an entry whose update is skipped, or whose list names none of its blocks. -/
def passedState (s : State) (x : Step) (c : Ctx) (u : UnitSt) (b stall : Nat) : State :=
  setStep (setCtx s x.ctx c) (x.setUnit (2300 + b) (u.issued stall 0))

/-- The step after an update. -/
def updatedStep (s : State) (x : Step) (c : Ctx) (u : UnitSt) (k : KeyIns) (t : Tensor) (b stall cpb : Nat) (qs : List EntryBlock) : Step :=
  keyActivity ((blocksUpdated s c x t u k cpb qs).2.2.1.setUnit (2300 + b) ((blocksUpdated s c x t u k cpb qs).2.2.2.issued stall 0))
    qs.length (512 * planesOf (ringBegun c x t) t + 128)

/-- The state after an update, before its words pass through the write-combining buffers. -/
def updatedState (s : State) (x : Step) (c : Ctx) (u : UnitSt) (k : KeyIns) (t : Tensor) (b stall cpb : Nat) (qs : List EntryBlock) : State :=
  setStep (setCtx (blocksUpdated s c x t u k cpb qs).1 x.ctx (blocksUpdated s c x t u k cpb qs).2.1) (updatedStep s x c u k t b stall cpb qs)

/-- With nothing poisoned an entry on time updates its blocks, unless S skips the step. -/
theorem updateBlocks_onTime (ht : OnTime img z u k.cycle stall) (hm : mastersMissing z tn (qs.map (·.1)) = []) (hp : s.sm.poison = []) (cpb : Nat) :
    updateBlocks s z img c u k tn b stall cpb [] qs = if z.skipped ∨ qs = [] then passedState s z c u b stall
      else (qs.map (·.1)).foldl (storeUpdated img (ringBegun c z tn) z tn .ok) (updatedState s z c u k tn b stall cpb qs) := by
  unfold updateBlocks
  rw [hm]
  dsimp only
  rw [checkLines_nil_eccs hp]
  dsimp only
  rw [issueOr_onTime _ _ ht, show wrongData [] = [] from rfl, List.foldl_nil]
  by_cases hskip : z.skipped = true ∨ qs = []
  · rw [if_pos hskip, if_pos hskip]
    rfl
  · rw [if_neg hskip, if_neg hskip]
    unfold updatedState updatedStep blocksUpdated
    rw [← clipScale_ringBegun c z tn]
    rfl

/-! ### What an update entry leaves -/

theorem passedState_issued (hx : stepOf s st = some x) (hz : ∃ v sk, z = { x with total := v, skipped := sk }) :
    Issued s (passedState s z c u b stall) st (2300 + b) stall 0 x u (settle (setCtx s z.ctx c) (z.setUnit (2300 + b) (u.issued stall 0))) := by
  obtain ⟨v, sk, rfl⟩ := hz
  refine issued_of_samePlace hx rfl (id_of_stepOf hx :) ?_ fun j hj => (unit_setUnit _ _ j _).trans (if_neg hj)
  rw [unit_setUnit, if_pos rfl]
  exact .refl _

theorem ctxOf_passedState (hc : ctxOf s x.ctx = some c) (hz : ∃ v sk, z = { x with total := v, skipped := sk }) (n : Nat) :
    ctxOf (passedState s z c u b stall) n = ctxOf s n := by
  obtain ⟨v, sk, rfl⟩ := hz
  refine (ctxOf_setCtx s x.ctx n c).trans ?_
  split
  · next hn => rw [hn, hc]
  · rfl

section Stored

variable (cpb : Nat) (hx : stepOf s st = some x) (hz : ∃ v sk, z = { x with total := v, skipped := sk }) (hp : s.sm.poison = [])

theorem updatedStep_eq (s : State) (x : Step) (c : Ctx) (u : UnitSt) (k : KeyIns) (t : Tensor) (b stall cpb : Nat) (qs : List EntryBlock) :
    ∃ cs ps ds ac, updatedStep s x c u k t b stall cpb qs =
      { x.setUnit (2300 + b) ((blocksUpdated s c x t u k cpb qs).2.2.2.issued stall 0) with
        shadowCopies := cs, shadowParity := ps, deltas := ds, activity := ac } := by
  obtain ⟨ps, ds, hstep⟩ := (blocksUpdated_updated s c x t u k cpb qs).step
  obtain ⟨-, cs, hbegun⟩ := blocksBegun_updated s c x t u
  rw [hbegun] at hstep
  unfold updatedStep
  rw [hstep]
  exact ⟨cs, ps, ds, _, rfl⟩

theorem updatedState_eq (s : State) (x : Step) (c : Ctx) (u : UnitSt) (k : KeyIns) (t : Tensor) (b stall cpb : Nat) (qs : List EntryBlock) :
    ∃ cs ss hs, updatedState s x c u k t b stall cpb qs = { s with ctxs := cs, steps := ss, host := hs } := by
  have hstate : OnlyHost s (blocksUpdated s c x t u k cpb qs).1 := (blocksUpdated_updated s c x t u k cpb qs).state
  rw [updatedState, hstate]
  exact ⟨_, _, _, rfl⟩

include hx hz in
theorem updatedState_issued : Issued s (updatedState s z c u k tn b stall cpb qs) st (2300 + b) stall 0 x u
    (settle (setCtx (blocksUpdated s c z tn u k cpb qs).1 z.ctx (blocksUpdated s c z tn u k cpb qs).2.1) (updatedStep s z c u k tn b stall cpb qs)) := by
  obtain ⟨v, sk, hz⟩ := hz
  obtain ⟨cs, ps, ds, ac, hstep⟩ := updatedStep_eq s z c u k tn b stall cpb qs
  have hstate : OnlyHost s (blocksUpdated s c z tn u k cpb qs).1 := (blocksUpdated_updated s c z tn u k cpb qs).state
  have hunit (j : Nat) : (updatedStep s z c u k tn b stall cpb qs).unit j =
      if j = 2300 + b then (blocksUpdated s c z tn u k cpb qs).2.2.2.issued stall 0 else x.unit j := by
    rw [hstep]
    exact (unit_setUnit z (2300 + b) j _).trans (by rw [hz]; rfl)
  refine issued_of_samePlace hx ?_ ?_ ?_ fun j hj => (hunit j).trans (if_neg hj)
  · exact (congrArg State.steps hstate :)
  · rw [hstep, hz]
    exact (id_of_stepOf hx :)
  · rw [hunit, if_pos rfl]
    exact samePlace_issued (blocksUpdated_updated s c z tn u k cpb qs).place stall 0

/-- The state after an update. -/
def storedState (s : State) (img : Image) (x : Step) (c : Ctx) (u : UnitSt) (k : KeyIns) (t : Tensor) (b stall cpb : Nat) (qs : List EntryBlock) : State :=
  (qs.map (·.1)).foldl (storeUpdated img (ringBegun c x t) x t .ok) (updatedState s x c u k t b stall cpb qs)

include hp in
/-- What an update writes passes through the write-combining buffers alone. -/
theorem storedState_onlyBuffers :
    OnlyBuffers (updatedState s z c u k tn b stall cpb qs) (storedState s img z c u k tn b stall cpb qs) := by
  obtain ⟨cs, ss, hs, heq⟩ := updatedState_eq s z c u k tn b stall cpb qs
  exact OnlyBuffers.foldl (fun v j hv => storeUpdated_onlyBuffers hv img _ z tn j) _ (by rw [heq]; exact hp)

include hp in
/-- An update leaves the contexts and the steps that it set; of the store it changes the buffers alone. -/
theorem storedState_frame (img : Image) (z : Step) (c : Ctx) (u : UnitSt) (k : KeyIns) (tn : Tensor) (b stall : Nat) (qs : List EntryBlock) :
    let t := storedState s img z c u k tn b stall cpb qs
    t = { s with ctxs := t.ctxs, steps := t.steps, host := t.host, sm := t.sm } ∧ t.sm.mem = s.sm.mem ∧
      t.ctxs = (updatedState s z c u k tn b stall cpb qs).ctxs ∧ t.steps = (updatedState s z c u k tn b stall cpb qs).steps := by
  intro t
  have hbuf : OnlyBuffers (updatedState s z c u k tn b stall cpb qs) t := storedState_onlyBuffers cpb hp
  obtain ⟨cs, ss, hs, heq⟩ := updatedState_eq s z c u k tn b stall cpb qs
  rw [heq] at hbuf ⊢
  rw [hbuf]
  exact ⟨rfl, rfl, rfl, rfl⟩

include hp hz in
theorem ctxOf_storedState (n : Nat) : ctxOf (storedState s img z c u k tn b stall cpb qs) n =
    if n = x.ctx then some (blocksUpdated s c z tn u k cpb qs).2.1 else ctxOf s n := by
  obtain ⟨-, -, hctxs, -⟩ := storedState_frame cpb hp img z c u k tn b stall qs
  have hhost : OnlyHost s (blocksUpdated s c z tn u k cpb qs).1 := (blocksUpdated_updated s c z tn u k cpb qs).state
  have hctx : z.ctx = x.ctx := by
    obtain ⟨v, sk, rfl⟩ := hz
    rfl
  rw [ctxOf, hctxs, ← hctx]
  refine (ctxOf_setCtx (blocksUpdated s c z tn u k cpb qs).1 z.ctx n _).trans ?_
  rw [hhost]
  rfl

end Stored

/-- The update entries and the blocks that each of them updates. -/
def UpdateEntry (s : State) (st b stall : Nat) (x z : Step) (img : Image) (tn : Tensor) (k : KeyIns) (qs : List EntryBlock) (i : Instr) : Prop :=
  (k.kop = 2 ∧ k.desc = 0 ∧ i = .update st b stall [] ∧ qs = bufferedBlocks x k) ∨
  (k.kop = 2 ∧ k.desc ≠ 0 ∧ i = .update st b stall [] ∧ entryBlocks s img z tn k = some qs) ∨
  (k.kop = 3 ∧ i = .updateList st b stall [] ∧ entryBlocks s img z tn k = some qs)

theorem exec_updateEntry {i : Instr} (h : KeystoneTurn s st b x img c u k) (ht : tensorOf c k.tensor = some tn) (hz : z = settleNorm c img x)
    (hs : normNeeded c = true → z.total ≠ none) (hi : UpdateEntry s st b stall x z img tn k qs i) :
    ∃ cpb, exec i s = .next (updateBlocks s z img c u k tn b stall cpb [] qs) := by
  rcases hi with ⟨hk, hd, rfl, hqs⟩ | ⟨hk, hd, rfl, hqs⟩ | ⟨hk, rfl, hqs⟩
  · have hbuf : bufferedBlocks z k = qs := by
      obtain ⟨v, sk, heq⟩ := settleNorm_eq c img x
      rw [hqs, hz, heq]
      rfl
    exact ⟨_, execUpdate_onTurn h hk ht hz hs ((if_pos hd).trans (congrArg some hbuf))⟩
  · exact ⟨_, execUpdate_onTurn h hk ht hz hs ((if_neg hd).trans hqs)⟩
  · exact ⟨_, execUpdateList_onTurn h hk ht hz hs hqs⟩

end Update

/-- Settles O40: the blocks of an entry lie apart, and the words an update writes lie beside the live ones that its rule reads. -/
theorem keystoneEntriesUpdateShadows : Obligations.KeystoneEntriesUpdateShadows := by
  unfold Obligations.KeystoneEntriesUpdateShadows
  refine ⟨fun s st b stall x img c u k tn qs h ht hk htn hqs hn => ?_,
    fun s st b stall x z img c u k tn qs i h ht htn hz hs hp hi hn hm => ?_⟩
  · obtain ⟨hbuf, hnorms⟩ := settle_acceptedStep (c := c) (img := img) (b := b) (stall := stall) (k := k) (x := x) (u := u) (qs := qs) s
    refine ⟨_, _, execAccept_onTurn h ht hk htn hqs, acceptedStep_issued h.step, rfl, fun q hq e he => ?_, fun hc => ?_, fun hc => ?_⟩
    · rw [hbuf]
      exact acceptedBlocks_gradBuf hn hq he
    · rw [hnorms, acceptedBlocks_norms_of_not_needed hc]
    · rw [hnorms, acceptedBlocks_norms_of_needed hc]
  · have hnorm : ∃ v sk, z = { x with total := v, skipped := sk } := hz ▸ settleNorm_eq c img x
    obtain ⟨cpb, hexec⟩ := exec_updateEntry h htn hz hs hi
    rw [updateBlocks_onTime ht hm hp cpb] at hexec
    refine ⟨fun hskip => ?_, fun hskip ht hb => ?_⟩
    · rw [if_pos (.inl hskip)] at hexec
      exact ⟨_, _, hexec, passedState_issued h.step hnorm, rfl, ctxOf_passedState h.ctx hnorm⟩
    · by_cases hqs : qs = []
      · rw [if_pos (.inr hqs)] at hexec
        exact ⟨_, _, c, hexec, passedState_issued h.step hnorm, (ctxOf_passedState h.ctx hnorm _).trans h.ctx, rfl, rfl,
          fun n _ => ctxOf_passedState h.ctx hnorm n, fun q hq => absurd (hqs ▸ hq) List.not_mem_nil, fun _ _ _ _ _ _ _ _ => rfl⟩
      · rw [if_neg fun hd => hd.elim (fun h => Bool.false_ne_true (hskip.symm.trans h)) hqs] at hexec
        obtain ⟨hframe, hmem, -, hsteps⟩ := storedState_frame cpb hp img z c u k tn b stall qs
        have hctx := ctxOf_storedState (img := img) (c := c) (u := u) (k := k) (tn := tn) (b := b) (stall := stall) (qs := qs) cpb hnorm hp
        have hword {pl e : Nat} {q : EntryBlock} (hq : q ∈ qs) (he : e < 64) (hpl : pl < planesOf c tn) (hs : ¬ (pl = 0 ∧ tn.slow = true)) :=
          slotWord_blocksUpdated (s := s) (u := u) (k := k) (cpb := cpb) (x := z) ht hb hn hq hpl hs he
        refine ⟨_, _, (blocksUpdated s c z tn u k cpb qs).2.1, hexec, issued_of_steps_after (updatedState_issued cpb h.step hnorm) hsteps,
          (hctx x.ctx).trans (if_pos rfl), hframe, hmem, fun n hn => (hctx n).trans (if_neg hn), fun q hq e he => ⟨fun hslow => ?_, ?_, fun hthree => ?_⟩,
          fun pl _ n hn j hj e he => liveWord_blocksUpdated ht hb ⟨hn, hj, he⟩⟩
        · exact hword hq he (Nat.lt_of_lt_of_le Nat.zero_lt_two (two_le_planesOf c tn)) fun hc => Bool.false_ne_true (hslow.symm.trans hc.2)
        · exact hword (pl := 1) hq he (two_le_planesOf c tn) fun hc => Nat.one_ne_zero hc.1
        · exact hword (pl := 2) hq he (hthree ▸ Nat.lt_succ_self 2) fun hc => absurd hc.1 (by decide)

end Sys2Proof.Keystones


/-! PROOFS of the stacked-memory family: every step keeps stacked memory canonical (O4). An operation that leaves stacked memory alone
keeps its form by its frame; the few that write it keep the form by the laws of the sparse maps. Each meaning of a row is a tree of guards
whose leaves compose such operations, and the lemmas follow that tree. -/

namespace Sys2Proof.MemoryForm

set_option Elab.async false

open Sys2Proof.Machine Sys2Proof.Safety Sys2Proof.Laws

/-! ### Keeping the form along compositions, guards and folds -/

/-- An operation whose frame leaves stacked memory out keeps its form. -/
theorem kept {l : List Part} {s t : State} (f : Frame l s t) (h : MemoryCanonical s) (hl : Part.mem ∉ l := by decide) :
    MemoryCanonical t := f.canonical hl h

theorem ite_canonical {p : Prop} [Decidable p] {s t : State} (hs : MemoryCanonical s) (ht : MemoryCanonical t) :
    MemoryCanonical (if p then s else t) := by
  split
  · exact hs
  · exact ht

/-- A guarded operation: where the guard fails the state stays. -/
theorem guarded_canonical {p : Prop} [Decidable p] {s t : State} (h : MemoryCanonical s) (k : MemoryCanonical s → MemoryCanonical t) :
    MemoryCanonical (if p then t else s) := ite_canonical (k h) h

theorem foldl_canonical {β : Type} {f : State → β → State} {s : State} (l : List β)
    (hf : ∀ u b, MemoryCanonical u → MemoryCanonical (f u b)) (h : MemoryCanonical s) : MemoryCanonical (l.foldl f s) :=
  List.foldlRecOn l f h fun u hu b _ => hf u b hu

theorem foldl_fst_canonical {α β : Type} {f : State × α → β → State × α} {p : State × α} (l : List β)
    (hf : ∀ q b, MemoryCanonical q.1 → MemoryCanonical (f q b).1) (h : MemoryCanonical p.1) : MemoryCanonical (l.foldl f p).1 :=
  List.foldlRecOn (motive := fun q => MemoryCanonical q.1) l f h fun q hq b _ => hf q b hq

theorem canonical_of_checkLines_eq {s t : State} {pas : List Nat} {eccs : List Ecc} {src : MemSource} {r : Option (BitVec 128)}
    (e : checkLines s pas eccs src = (t, r)) (h : MemoryCanonical s) : MemoryCanonical t := by
  have hc := checkLines_canonical pas eccs src h
  rw [e] at hc
  exact hc

/-- Whatever next state an outcome answers, its stacked memory is canonical. -/
def FormKept (o : Host.Outcome State Fault Refusal) : Prop := ∀ t, o = .next t → MemoryCanonical t

theorem FormKept.next {t : State} (h : MemoryCanonical t) : FormKept (.next t) := by
  intro u e
  cases e
  exact h

/-- A guard keeps the form when both its branches do. -/
theorem FormKept.ite {p : Prop} [Decidable p] {o q : Host.Outcome State Fault Refusal} (ho : FormKept o) (hq : FormKept q) :
    FormKept (if p then o else q) := by
  split
  · exact ho
  · exact hq

/-! ### Steps that slip, wait, issue, are killed or commit -/

theorem slipStep_canonical {s : State} (x : Step) (img : Image) (u : UnitRef) (ph : Nat) (h : MemoryCanonical s) :
    MemoryCanonical (slipStep s x img u ph) :=
  ite_canonical (kept (castVote_frame _ _ _ _ _) h) (failStep_canonical _ _ h)

theorem issueOr_canonical {s go : State} (img : Image) (x : Step) (key : Nat) (u : UnitSt) (cyc stall : Nat) (h : MemoryCanonical s)
    (g : MemoryCanonical go) : MemoryCanonical (issueOr s img x key u cyc stall go) := by
  unfold issueOr
  split
  · exact slipStep_canonical _ _ _ _ h
  · exact g

theorem waitFor_canonical {s : State} (x : Step) (key : Nat) (u : UnitSt) (stall dry : Nat) (ds : List Nat) (h : MemoryCanonical s) :
    MemoryCanonical (waitFor s x key u stall dry ds) := by
  unfold waitFor
  split
  · exact failStep_canonical _ _ h
  · exact kept (waitUnit_frame _ _ _ _ _ _) h

theorem killSteps_canonical {s : State} (n : Nat) (h : MemoryCanonical s) : MemoryCanonical (killSteps s n) :=
  foldl_canonical _ (fun _ _ hu => endStep_canonical _ _ hu) h

theorem killStep_canonical {s : State} (x : Step) (h : MemoryCanonical s) : MemoryCanonical (killStep s x) :=
  ite_canonical h (endStep_canonical _ _ h)

theorem timetableKill_canonical {s : State} (x : Step) (h : MemoryCanonical s) : MemoryCanonical (timetableKill s x) := by
  unfold timetableKill
  split
  · exact slipStep_canonical _ _ _ _ h
  · exact kept (updCtx_frame _ _ _) (rerunStep_canonical _ _ h)

theorem stopService_canonical {s : State} (n : Nat) (drain : Bool) (h : MemoryCanonical s) : MemoryCanonical (stopService s n drain) := by
  unfold stopService
  split
  · exact h
  · have hc := fun c : Ctx => kept (setCtx_frame s n c) h
    exact ite_canonical h (kept (stoppingEnd_frame _ _)
      (ite_canonical (hc _) (foldl_canonical _ (fun _ _ hu => endStep_canonical _ _ hu) (hc _))))

theorem commitNow_canonical {s : State} (x : Step) (img : Image) (h : MemoryCanonical s) : MemoryCanonical (commitNow s x img) := by
  have hm := commitMemories_canonical x (kept (bookFiller_frame s x) h)
  have hr : ∀ y : Step, MemoryCanonical (releaseDeltas (setStep (noteSums
      (updCtx (commitMemories (bookFiller s x) x) x.ctx fun c => commitCtx c img x) x) y) x) := fun y =>
    kept (releaseDeltas_frame _ _) <| kept (setStep_frame _ _) <| kept (noteSums_frame _ _) <| kept (updCtx_frame _ _ _) hm
  exact kept (payOwed_frame _) (ite_canonical (kept (afterCommit_frame _ _) (hr _)) (hr _))

/-! ### The device-fatal state, lost stacks and removed rails -/

theorem fatalSteps_canonical {s : State} (h : MemoryCanonical s) : MemoryCanonical (fatalSteps s) :=
  foldl_canonical _ (fun _ _ hu => ite_canonical (kept (replyStep_frame _ _ _) hu) (endStep_canonical _ _ hu)) h

theorem becomeFatal_canonical {s : State} (code : Nat) (ctx : Option Nat) (detail : BitVec 128) (h : MemoryCanonical s) :
    MemoryCanonical (becomeFatal s code ctx detail) := by
  unfold becomeFatal
  refine ite_canonical h ?_
  refine kept (emit_frame _ _) <| kept (emit_frame _ _) <| kept (emit_frame _ _) <| kept (idlePorts_frame _) ?_
  refine foldl_canonical _ (fun _ _ hu => kept (fatalRing_frame _ _) hu) (kept (fatalRing_frame _ _) (fatalSteps_canonical ?_))
  exact kept (raiseVector_frame _ _) h

theorem logFatal_canonical {s : State} (code : Nat) (ctx : Option Nat) (detail : BitVec 128) (h : MemoryCanonical s) :
    MemoryCanonical (logFatal s code ctx detail) :=
  becomeFatal_canonical _ _ _ (kept (logErr_frame _ _ _ _) h)

theorem fatalOpen_canonical {s : State} (code : Nat) (h : MemoryCanonical s) : MemoryCanonical (fatalOpen s code) :=
  logFatal_canonical _ _ _ (kept (takeFree_frame _) h)

theorem tripRails_canonical {s : State} (code : Nat) (detail : BitVec 128) (h : MemoryCanonical s) :
    MemoryCanonical (tripRails s code detail) :=
  (kept (raiseVector_frame _ 259) (logFatal_canonical code none detail h) :)

theorem loseStack_canonical {s : State} (b event : Nat) (rec : BitVec 128) (h : MemoryCanonical s) : MemoryCanonical (loseStack s b event rec) :=
  logFatal_canonical _ _ _ h

theorem trainFailed_canonical {s : State} (k : Nat) (h : MemoryCanonical s) : MemoryCanonical (trainFailed s k) :=
  logFatal_canonical _ _ _ h

theorem groupRead_canonical {s : State} (g : Nat) (v : Int) (h : MemoryCanonical s) : MemoryCanonical (groupRead s g v) := by
  have hc : ∀ (u : State) (i code : Nat) (b : Bool), MemoryCanonical u → MemoryCanonical (cross u g i code b v) :=
    fun _ _ _ _ hu => kept (cross_frame _ _ _ _ _ _) hu
  refine guarded_canonical (kept (applyStretch_frame _) ?_) (tripRails_canonical _ _)
  refine guarded_canonical (guarded_canonical ?_ (kept (enterRecovery_frame _))) (kept (slopeChange_frame _))
  exact hc _ _ _ _ (hc _ _ _ _ (hc _ _ _ _ h))

/-! ### Piers and stations -/

/-- A pier's row keeps the form where what it runs does. -/
theorem pierTurn_kept {st p stall dry : Nat} {run : State → Step → Image → Ctx → PierIns → Option (Option (State × Step))} {s : State}
    (hr : ∀ x img c ins q, run s x img c ins = some (some q) → MemoryCanonical q.1) (h : MemoryCanonical s) :
    FormKept (pierTurn st p stall dry run s) := by
  unfold pierTurn
  split
  · exact .next h
  split
  · exact .next h
  · exact .next (kept (waitUnit_frame _ _ _ _ _ _) h)
  · next hq =>
    exact .ite (.next (kept (waitUnit_frame _ _ _ _ _ _) h))
      (.next (issueOr_canonical _ _ _ _ _ _ h (kept (pierAdvance_frame _ _ _ _ _) (hr _ _ _ _ _ hq))))

theorem moveOut_state {s : State} {img : Image} {c : Ctx} {x : Step} {tile : Bool} {p cyc desc n addr : Nat} {q : State × Step}
    (e : moveOut s img c x tile p cyc desc n addr = some (some q)) : q.1 = s := by
  obtain ⟨d, -, hd⟩ := Option.map_eq_some_iff.mp e
  dsimp only at hd
  split at hd
  · cases hd
    rfl
  · cases hd

theorem stationRun_canonical {s : State} (img x key sp u stall dst d cyc tag fn at_) (h : MemoryCanonical s) :
    MemoryCanonical (stationRun s img x key sp u stall dst d cyc tag fn at_) := by
  unfold stationRun
  split
  · exact kept (waitUnit_frame _ _ _ _ _ _) h
  · exact issueOr_canonical _ _ _ _ _ _ h (kept (setStep_frame _ _) (kept (stationFold_frame _ _ _ _ _ _ _ _ _ _ _) h))

theorem stationClear_canonical {s : State} (key listOf st stall) (h : MemoryCanonical s) :
    MemoryCanonical (stationClear key listOf st stall s) := by
  unfold stationClear
  split
  · exact h
  · exact guarded_canonical h fun h => issueOr_canonical _ _ _ _ _ _ h (kept (setStep_frame _ _) h)

theorem vecElem_canonical {s : State} (vop useB useC lanes g st sp stall) (h : MemoryCanonical s) :
    MemoryCanonical (vecElem vop useB useC lanes g st sp stall s) := by
  unfold vecElem
  split
  · exact h
  · refine guarded_canonical h fun h => ?_
    split
    · exact stationRun_canonical _ _ _ _ _ _ _ _ _ _ _ _ h
    · exact waitFor_canonical _ _ _ _ _ _ h

theorem vecRow_canonical {s : State} (vop g pre st sp stall) (h : MemoryCanonical s) :
    MemoryCanonical (vecRow vop g pre st sp stall s) := by
  unfold vecRow
  split
  · exact h
  · refine guarded_canonical h fun h => ?_
    split
    · exact stationRun_canonical _ _ _ _ _ _ _ _ _ _ _ _ h
    · exact waitFor_canonical _ _ _ _ _ _ h

theorem tabElem_canonical {s : State} (code useB g st sp stall) (h : MemoryCanonical s) :
    MemoryCanonical (tabElem code useB g st sp stall s) := by
  unfold tabElem
  split
  · exact h
  · refine guarded_canonical h fun h => ?_
    split
    · exact stationRun_canonical _ _ _ _ _ _ _ _ _ _ _ _ h
    · exact waitFor_canonical _ _ _ _ _ _ h

theorem execPartAdd_kept {s : State} (st sp stall) (h : MemoryCanonical s) : FormKept (execPartAdd st sp stall s) := by
  unfold execPartAdd
  split
  · exact .next h
  refine .ite ?_ (.next h)
  split
  · exact .next (stationRun_canonical _ _ _ _ _ _ _ _ _ _ _ _ h)
  · exact .next (waitFor_canonical _ _ _ _ _ _ h)

theorem execPos_kept {s : State} (st sp stall) (h : MemoryCanonical s) : FormKept (execPos st sp stall s) := by
  unfold execPos
  split
  · exact .next h
  refine .ite ?_ (.next h)
  split
  · exact .next (stationRun_canonical _ _ _ _ _ _ _ _ _ _ _ _ h)
  · exact .next h

theorem execTranspose_kept {s : State} (st sp stall) (h : MemoryCanonical s) : FormKept (execTranspose st sp stall s) := by
  unfold execTranspose
  split
  · exact .next h
  refine .ite ?_ (.next h)
  split
  · exact .next (stationRun_canonical _ _ _ _ _ _ _ _ _ _ _ _ h)
  · exact .next (waitFor_canonical _ _ _ _ _ _ h)

/-! ### Gather stations -/

theorem gatherWait_canonical {s : State} (img x sp ds) (h : MemoryCanonical s) : MemoryCanonical (gatherWait s img x sp ds) :=
  ite_canonical (slipStep_canonical _ _ _ _ h) (waitFor_canonical _ _ _ _ _ _ h)

theorem emitList_canonical {s : State} (img x sp dst cap cyc stall u d es) (h : MemoryCanonical s) :
    MemoryCanonical (emitList s img x sp dst cap cyc stall u d es) :=
  issueOr_canonical _ _ _ _ _ _ h (ite_canonical (failStep_canonical _ _ h) (kept (setStep_frame _ _) h))

theorem execRouting_kept {s : State} (st sp cycle ri win) (h : MemoryCanonical s) : FormKept (execRouting st sp cycle ri win s) := by
  unfold execRouting
  split
  · exact .next h
  split
  · exact .next h
  split
  · exact .next (stationRun_canonical _ _ _ _ _ _ _ _ _ _ _ _ h)
  · exact .next (gatherWait_canonical _ _ _ _ h)

theorem execCombine_kept {s : State} (st sp cycle ri win dst) (h : MemoryCanonical s) :
    FormKept (execCombine st sp cycle ri win dst s) := by
  unfold execCombine
  split
  · exact .next h
  split
  · split
    · exact .next (stationRun_canonical _ _ _ _ _ _ _ _ _ _ _ _ h)
    · exact .next (gatherWait_canonical _ _ _ _ h)
  · exact .next h

theorem execCombineBwd_kept {s : State} (st sp bi win) (h : MemoryCanonical s) : FormKept (execCombineBwd st sp bi win s) := by
  unfold execCombineBwd
  split
  · exact .next h
  split
  · exact .next h
  split
  · split
    · refine .ite (.next (gatherWait_canonical _ _ _ _ h)) (.ite (.ite (.next (issueOr_canonical _ _ _ _ _ _ h h)) ?_) (.next h))
      dsimp only
      split
      · exact .next (stationRun_canonical _ _ _ _ _ _ _ _ _ _ _ _ h)
      · exact .next (stationRun_canonical _ _ _ _ _ _ _ _ _ _ _ _ (stationRun_canonical _ _ _ _ _ _ _ _ _ _ _ _ h))
    · exact .next (gatherWait_canonical _ _ _ _ h)
  · exact .next h

theorem execDispatchBwd_kept {s : State} (st sp bi) (h : MemoryCanonical s) : FormKept (execDispatchBwd st sp bi s) := by
  unfold execDispatchBwd
  split
  · exact .next h
  split
  · exact .next h
  split
  · split
    · exact .ite (.next (stationRun_canonical _ _ _ _ _ _ _ _ _ _ _ _ h)) (.next h)
    · exact .next (gatherWait_canonical _ _ _ _ h)
  · exact .next h

theorem execBlockListBuild_kept {s : State} (st sp cycle src dst stall) (h : MemoryCanonical s) :
    FormKept (execBlockListBuild st sp cycle src dst stall s) := by
  unfold execBlockListBuild
  split
  · exact .next h
  refine .ite (.next h) ?_
  split
  · exact .next (emitList_canonical _ _ _ _ _ _ _ _ _ _ h)
  · exact .next (gatherWait_canonical _ _ _ _ h)

theorem execSparseEmbeddingList_kept {s : State} (st sp cycle ids src dst stall) (h : MemoryCanonical s) :
    FormKept (execSparseEmbeddingList st sp cycle ids src dst stall s) := by
  unfold execSparseEmbeddingList
  split
  · exact .next h
  refine .ite (.next h) ?_
  split
  · exact .next (emitList_canonical _ _ _ _ _ _ _ _ _ _ h)
  · exact .next (gatherWait_canonical _ _ _ _ h)

/-! ### Streams: tiles that return from the bearings and flits that land -/

theorem imageRead_canonical {s : State} (c x img eccs) (h : MemoryCanonical s) : MemoryCanonical (imageRead s c x img eccs) := by
  unfold imageRead
  split
  · next he => exact canonical_of_checkLines_eq he h
  · next he => exact failStep_canonical _ _ (kept (updCtx_frame _ _ _) (canonical_of_checkLines_eq he h))

theorem execBearingReadReturn_kept {s : State} (st desc eccs) (h : MemoryCanonical s) : FormKept (execBearingReadReturn st desc eccs s) := by
  unfold execBearingReadReturn
  split
  · exact .next h
  split
  · split
    · exact .next (guarded_canonical h (imageRead_canonical _ _ _ _))
    refine .ite (.next h) ?_
    split
    · exact .next h
    dsimp only
    split
    · next he => exact .next (failStep_canonical _ _ (canonical_of_checkLines_eq he h))
    · next he =>
      refine .next (kept (setStep_frame _ _) ?_)
      split
      · exact kept (updCtx_frame _ _ _) (canonical_of_checkLines_eq he h)
      · exact canonical_of_checkLines_eq he h
  · exact .next h

theorem landPier_canonical {s : State} (img c x desc p d) (h : MemoryCanonical s) : MemoryCanonical (landPier s img c x desc p d) := by
  unfold landPier
  split
  · exact kept (pierAdvance_frame _ _ _ _ _) h
  dsimp only
  split
  · exact failStep_canonical _ _ h
  · split
    · exact kept (prefetchMore_frame _ _ _ _ _) (kept (pierAdvance_frame _ _ _ _ _) h)
    · exact kept (pierAdvance_frame _ _ _ _ _) h

theorem landMemory_canonical {s : State} (img c x desc d ecc) (h : MemoryCanonical s) : MemoryCanonical (landMemory s img c x desc d ecc) := by
  unfold landMemory
  dsimp only
  split
  · exact h
  split
  · exact storeTensor_canonical _ _ _ _ _ _ _ _ (kept (setStep_frame _ _) (kept (setCtx_frame _ _ _) h))
  · refine ite_canonical (storeVa_canonical _ _ _ _ _ _ _ _ (kept (setStep_frame _ _) h)) ?_
    exact ite_canonical (kept (tagWrites_frame _ _ _ _) (kept (writeHostVa_frame _ _ _ _ _)
      (kept (setStep_frame _ _) h))) (kept (setStep_frame _ _) h)

theorem execDeckArrival_kept {s : State} (st desc dest) (h : MemoryCanonical s) : FormKept (execDeckArrival st desc dest s) := by
  unfold execDeckArrival
  split
  · exact .next h
  split
  · split
    · exact .next h
    refine .ite (.next h) ?_
    split
    · exact .next (landPier_canonical _ _ _ _ _ _ h)
    · exact .ite (.next (kept (landLocal_frame _ _ _ _ _) h)) (.next h)
    · exact .ite (.next (landMemory_canonical _ _ _ _ _ _ h)) (.next h)
  · exact .next h

theorem execPrefetch_kept {s : State} (st desc) (h : MemoryCanonical s) : FormKept (execPrefetch st desc s) := by
  unfold execPrefetch
  split
  · exact .next h
  split
  · exact .next (kept (prefetchMore_frame _ _ _ _ _) h)
  · exact .next h

/-! ### Keystones -/

theorem updateBlock_canonical (t k cpb scale sc) (p : State × Ctx × Step × UnitSt) (q) (h : MemoryCanonical p.1) :
    MemoryCanonical (updateBlock t k cpb scale sc p q).1 :=
  guarded_canonical h fun h => kept (tagWrites_frame _ _ _ _) (kept (writeMaster_frame _ _ _ _ _ _) h)

theorem storeUpdated_canonical {s : State} (img c x t ecc) (j : Nat) (h : MemoryCanonical s) :
    MemoryCanonical (storeUpdated img c x t ecc s j) :=
  storeTensor_canonical _ _ _ _ _ _ _ _
    (foldl_canonical _ (fun _ _ hu => ite_canonical hu (storeTensor_canonical _ _ _ _ _ _ _ _ hu)) h)

theorem updateBlocks_canonical {s : State} (x img c u k t b stall cpb eccs qs) (h : MemoryCanonical s) :
    MemoryCanonical (updateBlocks s x img c u k t b stall cpb eccs qs) := by
  unfold updateBlocks
  split
  · split
    · exact failStep_canonical _ _ h
    · exact kept (waitUnit_frame _ _ _ _ _ _) (kept (readMasters_frame _ _ _ _ _) h)
  dsimp only
  split
  · next he => exact failStep_canonical _ _ (canonical_of_checkLines_eq he h)
  · next he =>
    have hc := canonical_of_checkLines_eq he h
    refine issueOr_canonical _ _ _ _ _ _ hc (ite_canonical (kept (setStep_frame _ _) (kept (setCtx_frame _ _ _) hc)) ?_)
    refine foldl_canonical _ (fun _ _ hu => storeUpdated_canonical _ _ _ _ _ _ hu) (kept (setStep_frame _ _) (kept (setCtx_frame _ _ _) ?_))
    exact List.foldlRecOn (motive := fun p : State × Ctx × Step × UnitSt => MemoryCanonical p.1) qs _ hc
      fun _ hp _ _ => updateBlock_canonical _ _ _ _ _ _ _ hp

theorem execAccept_kept {s : State} (st b stall) (h : MemoryCanonical s) : FormKept (execAccept st b stall s) := by
  unfold execAccept
  split
  · exact .next h
  split
  · exact .next (waitFor_canonical _ _ _ _ _ _ h)
  · exact .next (issueOr_canonical _ _ _ _ _ _ h (kept (setStep_frame _ _) h))

theorem execUpdate_kept {s : State} (st b stall eccs) (h : MemoryCanonical s) : FormKept (execUpdate st b stall eccs s) := by
  unfold execUpdate
  split
  · exact .next h
  dsimp only
  split
  · exact .next h
  refine .ite (.next (kept (waitUnit_frame _ _ _ _ _ _) h)) ?_
  split
  · exact .next (waitFor_canonical _ _ _ _ _ _ h)
  · exact .next (updateBlocks_canonical _ _ _ _ _ _ _ _ _ _ _ h)

theorem execUpdateList_kept {s : State} (st b stall eccs) (h : MemoryCanonical s) : FormKept (execUpdateList st b stall eccs s) := by
  unfold execUpdateList
  split
  · exact .next h
  dsimp only
  split
  · exact .next h
  refine .ite (.next (kept (waitUnit_frame _ _ _ _ _ _) h)) ?_
  split
  · exact .next (waitFor_canonical _ _ _ _ _ _ h)
  · exact .next (updateBlocks_canonical _ _ _ _ _ _ _ _ _ _ _ h)

theorem execKeystoneFlagClear_kept {s : State} (st b stall) (h : MemoryCanonical s) : FormKept (execKeystoneFlagClear st b stall s) := by
  unfold execKeystoneFlagClear
  split
  · exact .next h
  · exact .next (issueOr_canonical _ _ _ _ _ _ h (kept (setStep_frame _ _) h))

/-! ### Fabric abutments -/

theorem sendEntry_canonical {s : State} (fop op st q stall) (h : MemoryCanonical s) : MemoryCanonical (sendEntry fop op st q stall s) := by
  unfold sendEntry
  split
  · exact h
  split
  · exact waitFor_canonical _ _ _ _ _ _ h
  · exact issueOr_canonical _ _ _ _ _ _ h (kept (stepFlow_frame _ _ _ _ _ _ _ _) (kept (setStep_frame _ _) h))

theorem redSum_canonical {s : State} (img x k d ins bs) (h : MemoryCanonical s) : MemoryCanonical (redSum s img x k d ins bs) :=
  ite_canonical (ite_canonical (failStep_canonical _ _ h) (kept (setStep_frame _ _) h))
    (kept (setStep_frame _ _) (kept (stationFold_frame _ _ _ _ _ _ _ _ _ _ _) h))

theorem execRecv_kept {s : State} (st q stall) (h : MemoryCanonical s) : FormKept (execRecv st q stall s) := by
  unfold execRecv
  split
  · exact .next h
  split
  · exact .next (issueOr_canonical _ _ _ _ _ _ h (kept (setStep_frame _ _) h))
  · exact .next (kept (waitUnit_frame _ _ _ _ _ _) h)

theorem execSplitRecv_kept {s : State} (st q stall) (h : MemoryCanonical s) : FormKept (execSplitRecv st q stall s) := by
  unfold execSplitRecv
  split
  · exact .next h
  split
  · exact .next (issueOr_canonical _ _ _ _ _ _ h (kept (setStep_frame _ _) h))
  · exact .next (kept (waitUnit_frame _ _ _ _ _ _) h)

theorem execRedSend_kept {s : State} (st q stall) (h : MemoryCanonical s) : FormKept (execRedSend st q stall s) := by
  unfold execRedSend
  split
  · exact .next h
  split
  · exact .next (waitFor_canonical _ _ _ _ _ _ h)
  · exact .next (issueOr_canonical _ _ _ _ _ _ h
      (ite_canonical (kept (ownContribution_frame _ _ _ _) (kept (setStep_frame _ _) h))
        (kept (stepFlow_frame _ _ _ _ _ _ _ _) (kept (setStep_frame _ _) h))))

theorem execRedRecv_kept {s : State} (st q stall) (h : MemoryCanonical s) : FormKept (execRedRecv st q stall s) := by
  unfold execRedRecv
  split
  · exact .next h
  split
  · exact .next (issueOr_canonical _ _ _ _ _ _ h (redSum_canonical _ _ _ _ _ _ h))
  · exact .next (kept (waitUnit_frame _ _ _ _ _ _) h)

theorem execNorm_kept {s : State} (st q stall) (h : MemoryCanonical s) : FormKept (execNorm st q stall s) := by
  unfold execNorm
  split
  · exact .next h
  · exact .ite (.next (issueOr_canonical _ _ _ _ _ _ h (kept (stepFlow_frame _ _ _ _ _ _ _ _) (kept (setStep_frame _ _) h))))
      (.next (kept (waitUnit_frame _ _ _ _ _ _) h))

theorem execAcc_kept {s : State} (st q stall) (h : MemoryCanonical s) : FormKept (execAcc st q stall s) := by
  have hs := fun n c y => kept (setStep_frame (setCtx s n c) y) (kept (setCtx_frame s n c) h)
  unfold execAcc
  split
  · exact .next h
  split
  · exact .next h
  refine .ite ?_ ?_
  · split
    · exact .next (waitFor_canonical _ _ _ _ _ _ h)
    · exact .next (issueOr_canonical _ _ _ _ _ _ h (ite_canonical (failStep_canonical _ _ h) (hs _ _ _)))
  · split
    · exact .next (waitFor_canonical _ _ _ _ _ _ h)
    · exact .next (issueOr_canonical _ _ _ _ _ _ h (hs _ _ _))

/-! ### Admission, phases, wait points and the commit of a step -/

theorem execBestEffortAdmission_kept {s : State} (h : MemoryCanonical s) : FormKept (execBestEffortAdmission s) := by
  unfold execBestEffortAdmission
  refine .ite (.next (kept (payOwed_frame _) h)) ?_
  split
  · exact .next h
  · exact .next (kept (admitStep_frame _ _ _ _ _ _) h)

theorem execBubble_kept {s : State} (st bub n) (h : MemoryCanonical s) : FormKept (execBubble st bub n s) := by
  unfold execBubble
  split
  · exact .next h
  split
  · exact .ite (.next (kept (admitStep_frame _ _ _ _ _ _) (kept (setStep_frame _ _) h))) (.next h)
  · exact .next h

theorem execSlotStart_kept {s : State} (i) (h : MemoryCanonical s) : FormKept (execSlotStart i s) := by
  unfold execSlotStart
  split
  · exact .next h
  · exact .ite (.next h) (.next (kept (slotAdmit_frame _ _) (foldl_canonical _ (fun _ _ => timetableKill_canonical _) h)))

theorem execPeriodBoundary_kept {s : State} (h : MemoryCanonical s) : FormKept (execPeriodBoundary s) := by
  unfold execPeriodBoundary
  split
  · exact .next h
  · exact .next (foldl_canonical s.sched.active (fun _ _ => kept (endSlot_frame _ _)) h :)

theorem execPreambleStart_kept {s : State} (st) (h : MemoryCanonical s) : FormKept (execPreambleStart st s) := by
  unfold execPreambleStart
  split
  · exact .next h
  · exact .ite (.next (kept (setStep_frame _ _) h)) (.next h)

theorem execPreambleEnd_kept {s : State} (st) (h : MemoryCanonical s) : FormKept (execPreambleEnd st s) := by
  have hs := fun y => kept (setStep_frame s y) h
  unfold execPreambleEnd
  split
  · exact .next h
  refine .ite ?_ (.next h)
  dsimp only
  split
  · exact .next (foldl_canonical _ (fun _ _ => kept (readHostMore_frame _ _ _ _)) (kept (closeGaps_frame _ _) (hs _)))
  · exact .next (hs _)

theorem execPhase_kept {s : State} (st u m energies) (h : MemoryCanonical s) : FormKept (execPhase st u m energies s) := by
  unfold execPhase
  split
  · exact .next h
  dsimp only
  split
  · refine .ite (.next h) (.ite (.next (kept (payOwed_frame _) (slipStep_canonical _ _ _ _ h))) (.next ?_))
    refine kept (setStep_frame _ _) (kept (closeGaps_frame _ _) ?_)
    split
    · exact kept (updCtx_frame _ _ _) h
    · exact h
  · exact .next h

theorem execFinalSlackExceeded_kept {s : State} (st u) (h : MemoryCanonical s) : FormKept (execFinalSlackExceeded st u s) := by
  unfold execFinalSlackExceeded
  split
  · exact .next h
  split
  · exact .ite (.next (kept (payOwed_frame _) (slipStep_canonical _ _ _ _ h))) (.next h)
  · exact .next h

theorem execWait_kept {s : State} (st w) (h : MemoryCanonical s) : FormKept (execWait st w s) := by
  unfold execWait
  split
  · exact .next h
  split
  · refine .ite (.next h) (.ite (.next (kept (setStep_frame _ _) h)) ?_)
    split
    · exact .next (kept (setStep_frame _ _) h)
    · exact .next (kept (setStep_frame _ _) (kept (openGaps_frame _ _ _ _) h))
  · exact .next h

theorem execCommitPoint_kept {s : State} (st energies) (h : MemoryCanonical s) : FormKept (execCommitPoint st energies s) := by
  unfold execCommitPoint
  split
  · exact .next h
  next x img _ =>
    refine .ite (.next (kept (payOwed_frame _) (slipStep_canonical _ _ _ _ h))) (.ite (.next h) ?_)
    have ho : ∀ u, MemoryCanonical u → MemoryCanonical (openGaps u x img 0) := fun _ => kept (openGaps_frame _ _ _ _)
    have hl : MemoryCanonical (match (img.phases).getLast? with
        | some p => updCtx s x.ctx fun c => learnAll c img x.slot p.id energies
        | none => s) := by
      split
      · exact kept (updCtx_frame _ _ _) h
      · exact h
    refine .ite (.next (kept (payOwed_frame _) (ite_canonical (kept (castVote_frame _ _ _ _ _) (ho _ hl)) (endStep_canonical _ _ (ho _ hl)))))
      (.ite (.next (kept (payOwed_frame _) (kept (castVote_frame _ _ _ _ _) (ho _ hl)))) (.next (commitNow_canonical _ _ (ho _ hl))))

theorem afterRelease_canonical {s : State} (n) (h : MemoryCanonical s) : MemoryCanonical (afterRelease s n) := by
  unfold afterRelease
  split
  · exact guarded_canonical h fun h => kept (finishDestroy_frame _ _) (kept (destroyTraffic_frame _ _ _) h)
  · exact h

theorem execReleaseComplete_kept {s : State} (st bad badDelta) (h : MemoryCanonical s) : FormKept (execReleaseComplete st bad badDelta s) := by
  unfold execReleaseComplete
  split
  · exact .next h
  have hb := fun p n q => guarded_canonical (p := p = true) h (kept (breakStream_frame s n q))
  refine .ite (.next h) (.ite (.next (hb _ _ _)) (.next ?_))
  refine kept (payOwed_frame _) (afterRelease_canonical _ (kept (replyStep_frame _ _ _) (kept (dropFlight_frame _ _) ?_)))
  exact kept (releaseReply_frame _ _ _) (kept (releaseMirrors_frame _ _)
    (foldl_canonical _ (fun _ _ => kept (writeHostVa_frame _ _ _ _ _)) (hb _ _ _)))

/-! ### Guards around a command, a frame or a register write -/

theorem withCmd_canonical {s : State} {r : RingId} {op : Nat} {f : Cmd → State} (hf : ∀ c, MemoryCanonical (f c)) (h : MemoryCanonical s) :
    MemoryCanonical (withCmd s r op f) := by
  rcases withCmd_cases s r op f with ⟨c, -, e⟩ | ⟨-, e⟩
  · rw [e]
    exact hf c
  · rw [e]
    exact h

theorem withCtxCmd_canonical {s : State} {r : RingId} {op : Nat} {f : Nat → Ctx → Cmd → State} (hf : ∀ n k c, MemoryCanonical (f n k c))
    (h : MemoryCanonical s) : MemoryCanonical (withCtxCmd s r op f) := by
  rcases withCtxCmd_cases s r op f with ⟨n, k, c, -, -, -, e⟩ | e
  · rw [e]
    exact hf n k c
  · rw [e]
    exact h

theorem barWrite_canonical {s : State} {off size : Nat} {f : State → State} (hf : ∀ u, MemoryCanonical u → MemoryCanonical (f u))
    (h : MemoryCanonical s) : MemoryCanonical (barWrite s off size f) := by
  rcases barWrite_cases s off size f with ⟨-, e⟩ | ⟨-, e⟩ | ⟨-, e⟩ | ⟨-, -, -, e⟩ <;> rw [e]
  · exact h
  · exact kept (countMalformed_frame _ _) h
  · exact h
  · exact hf _ h

theorem withFrame_canonical {s : State} {mine : SloryHdr → Bool} {g : State → Nat → Ctx → SloryHdr → State}
    (hg : ∀ u n c d, MemoryCanonical u → MemoryCanonical (g u n c d)) (h : MemoryCanonical s) : MemoryCanonical (withFrame s mine g) := by
  unfold withFrame
  split
  · exact h
  split
  · exact kept (logErr_frame _ _ _ _) (kept (bumpSlory_frame _ _ _) (kept (popRx_frame _ _) h))
  · refine guarded_canonical h fun h => ?_
    split
    · exact hg _ _ _ _ (kept (popRx_frame _ _) h)
    · exact h

theorem withStep_canonical {s : State} {n : Nat} {c : Ctx} {d : SloryHdr} {g : Step → Image → State} (hg : ∀ x img, MemoryCanonical (g x img))
    (h : MemoryCanonical s) : MemoryCanonical (withStep s n c d g) := by
  rcases withStep_cases s n c d g with ⟨-, e⟩ | ⟨-, -, e⟩ | ⟨x, -, -, e⟩ <;> rw [e]
  · exact kept (bumpSlory_frame _ _ _) h
  · exact kept (bumpSlory_frame _ _ _) (kept (sendNak_frame _ _ _ _) h)
  · split
    · exact hg _ _
    · exact h

theorem withVote_canonical {s : State} (sub : Nat) {g : State → Leader → Image → SloryHdr → State}
    (hg : ∀ u l img d, MemoryCanonical u → MemoryCanonical (g u l img d)) (h : MemoryCanonical s) : MemoryCanonical (withVote sub g s) := by
  refine withFrame_canonical (fun u n c d hu => withStep_canonical (fun _ img => ?_) hu) h
  have hb := kept (bumpSlory_frame u 7 1) hu
  have ht := kept (takeFrame_frame u d none false) hu
  split
  · exact hb
  · exact ite_canonical (ite_canonical ht (hg _ _ _ _ (kept (setRx_frame _ _) ht))) hb

theorem withDecision_canonical {s : State} (sub : Nat) {g : State → Step → Image → SloryHdr → State}
    (hg : ∀ u x img d, MemoryCanonical u → MemoryCanonical (g u x img d)) (h : MemoryCanonical s) : MemoryCanonical (withDecision sub g s) := by
  refine withFrame_canonical (fun u n c d hu => withStep_canonical (fun x img => ?_) hu) h
  have ht := kept (takeFrame_frame u d none false) hu
  exact ite_canonical (ite_canonical ht (hg _ _ _ _ (kept (setRx_frame _ _) ht))) (kept (bumpSlory_frame _ _ _) hu)

/-! ### Commands of contexts -/

theorem execFence_kept {s : State} (r eccs) (h : MemoryCanonical s) : FormKept (execFence r s eccs) :=
  .next (withCtxCmd_canonical (fun _ _ _ => kept (endCmd_frame _ _ _ _) (kept (acceptCmd_frame _ _ _) (wcFence_canonical _ _ h))) h)

theorem beginDestroy_canonical {s : State} (n k seq) (h : MemoryCanonical s) : MemoryCanonical (beginDestroy s n k seq) :=
  kept (updCtx_frame _ _ _) (kept (destroyTraffic_frame _ _ _) (kept (killCmds_frame _ _) (killSteps_canonical _ h)))

theorem execCtxDestroy_kept {s : State} (r) (h : MemoryCanonical s) : FormKept (execCtxDestroy r s) := by
  refine .next (withCmd_canonical (fun c => ?_) h)
  dsimp only
  split
  · exact kept (refuseField_frame _ _ _ _ _) h
  · exact ite_canonical (kept (refuseField_frame _ _ _ _ _) h)
      (kept (finishDestroy_frame _ _) (beginDestroy_canonical _ _ _ (kept (acceptCmd_frame _ _ _) h)))

theorem execUnitScrub_kept {s : State} (n u) (h : MemoryCanonical s) : FormKept (execUnitScrub n u s) := by
  unfold execUnitScrub
  split
  · exact .next h
  · exact .ite (.next (kept (finishDestroy_frame _ _) (kept (updCtx_frame _ _ _) (kept (scrubUnit_frame _ _) h)))) (.next h)

theorem execCtxQuery_kept {s : State} (r) (h : MemoryCanonical s) : FormKept (execCtxQuery r s) :=
  .next (withCtxCmd_canonical (fun _ _ _ =>
    ite_canonical (kept (refuseField_frame _ _ _ _ _) h) (kept (endOk_frame _ _ _ _) (kept (writeResult_frame _ _ _ _) h))) h)

theorem execGroupSet_kept {s : State} (r) (h : MemoryCanonical s) : FormKept (execGroupSet r s) := by
  refine .next (withCtxCmd_canonical (fun n k c => ite_canonical (kept (refusePlain_frame _ _ _ _) h) ?_) h)
  split
  · exact kept (refuseAt_frame _ _ _ _) h
  split
  · exact ite_canonical (kept (endOk_frame _ _ _ _) (kept (setCtx_frame _ _ _) h)) (kept (refuseField_frame _ _ _ _ _) h)
  · exact kept (refuseField_frame _ _ _ _ _) h

theorem execSchedLoad_kept {s : State} (r image) (h : MemoryCanonical s) : FormKept (execSchedLoad r image s) := by
  refine .next (withCtxCmd_canonical (fun n k c => ite_canonical (kept (refusePlain_frame _ _ _ _) h) ?_) h)
  split
  · exact kept (schedLoad_frame _ _ _ _ _ _) h
  · exact kept (endCmd_frame _ _ _ _) (kept (logErr_frame _ _ _ _) h)

theorem execSchedUnload_kept {s : State} (r) (h : MemoryCanonical s) : FormKept (execSchedUnload r s) := by
  refine .next (withCtxCmd_canonical (fun n k c => ?_) h)
  dsimp only
  split
  · exact kept (refuseField_frame _ _ _ _ _) h
  · exact ite_canonical (kept (refusePlain_frame _ _ _ _) h) (kept (endOk_frame _ _ _ _) (kept (removeImage_frame _ _ _) h))

theorem execTimetableSet_kept {s : State} (r) (h : MemoryCanonical s) : FormKept (execTimetableSet r s) := by
  have ha := fun t c => kept (endOk_frame (acceptTable s t) r c 0) (kept (acceptTable_frame s t) h)
  refine .next (withCmd_canonical (fun c => ite_canonical (ha _ _) ?_) h)
  dsimp only
  split
  · exact kept (refuseAt_frame _ _ _ _) h
  · exact ha _ _

theorem execStepRun_kept {s : State} (r) (h : MemoryCanonical s) : FormKept (execStepRun r s) := by
  refine .next (withCtxCmd_canonical (fun n k c => ?_) h)
  split
  · exact kept (refuseField_frame _ _ _ _ _) h
  · next img _ =>
    split
    · exact kept (endCmd_frame _ _ _ _) h
    · exact (kept (acceptCmd_frame _ r c.seq) (kept (setCtx_frame s n ((boundPages k img (bindingList c)).foldl mapPage k)) h) :)

theorem execStepKill_kept {s : State} (r) (h : MemoryCanonical s) : FormKept (execStepKill r s) := by
  have ho := fun u c (hu : MemoryCanonical u) => kept (endOk_frame (payOwed u) r c 0) (kept (payOwed_frame u) hu)
  refine .next (withCtxCmd_canonical (fun n k c => ite_canonical (ho _ _ (foldl_canonical _ (fun _ _ => killStep_canonical _) h)) ?_) h)
  split
  · exact kept (refuseField_frame _ _ _ _ _) h
  · exact ho _ _ (killStep_canonical _ h)

theorem execOptConfig_kept {s : State} (r) (h : MemoryCanonical s) : FormKept (execOptConfig r s) := by
  refine .next (withCtxCmd_canonical (fun n k c => ?_) h)
  refine ite_canonical (kept (refuseField_frame _ _ _ _ _) h) (ite_canonical (kept (refusePlain_frame _ _ _ _) h) ?_)
  split
  · exact kept (refuseAt_frame _ _ _ _) h
  · exact ite_canonical (kept (refuseField_frame _ _ _ _ _) h)
      (ite_canonical (kept (endCmd_frame _ _ _ _) h) (kept (endOk_frame _ _ _ _) (kept (setCtx_frame _ _ _) h)))

theorem execCkptStreamStart_kept {s : State} (r) (h : MemoryCanonical s) : FormKept (execCkptStreamStart r s) := by
  have hb := fun c => kept (refusePlain_frame s r c stBusy) h
  refine .next (withCtxCmd_canonical (fun n k c => ?_) h)
  refine ite_canonical (ite_canonical (hb c) (ite_canonical (kept (endCmd_frame _ _ _ _) h) ?_)) (ite_canonical (hb c) ?_)
  · exact kept (endOk_frame _ _ _ _) (kept (setCtx_frame _ _ _) h)
  · exact kept (acceptCmd_frame _ _ _) (kept (setCtx_frame _ _ _) h)

theorem execCkptStreamStop_kept {s : State} (r) (h : MemoryCanonical s) : FormKept (execCkptStreamStop r s) := by
  refine .next (withCtxCmd_canonical (fun n k c => ite_canonical ?_ ?_) h)
  · split
    · exact kept (refuseField_frame _ _ _ _ _) h
    · exact kept (endOk_frame _ _ _ _) (kept (setCtx_frame _ _ _) h)
  · split
    · exact kept (refuseField_frame _ _ _ _ _) h
    · exact ite_canonical (kept (refusePlain_frame _ _ _ _) h) (ite_canonical (kept (endOk_frame _ _ _ _) (kept (endSender_frame _ _ _) h))
        (kept (acceptCmd_frame _ _ _) (kept (setCtx_frame _ _ _) h)))

theorem execCkptRestore_kept {s : State} (r fetched) (h : MemoryCanonical s) : FormKept (execCkptRestore r fetched s) := by
  refine .next (withCtxCmd_canonical (fun n k c => ite_canonical (kept (refusePlain_frame _ _ _ _) h) ?_) h)
  dsimp only
  split
  · exact kept (refuseField_frame _ _ _ _ _) h
  split
  · exact kept (endOk_frame _ _ _ _) (kept (restoreState_frame _ _ _ _) h)
  · exact kept (acceptCmd_frame _ _ _) h

/-! ### Weights and service -/

theorem beginLoad_canonical {s : State} (n k r c head) (h : MemoryCanonical s) : MemoryCanonical (beginLoad s n k r c head) := by
  have ha := fun k => kept (acceptCmd_frame (setCtx s n k) r c.seq) (kept (setCtx_frame s n k) h)
  have hp := kept (refusePlain_frame s r c stBusy) h
  refine ite_canonical hp (ite_canonical (kept (refusePlain_frame _ _ _ _) h)
    (ite_canonical (kept (endCmd_frame _ _ _ _) h) (ite_canonical (ha _) ?_)))
  exact kept (readNext_frame _ _ _) (guarded_canonical (ha _) fun hu => foldl_canonical _ (fun _ _ => kept (sendSegment_frame _ _ _ _ _)) hu)

theorem imageLoad_canonical {s : State} (n k r c head signed) (h : MemoryCanonical s) :
    MemoryCanonical (imageLoad s n k r c head signed) := by
  unfold imageLoad
  split
  · exact kept (endCmd_frame _ _ _ _) h
  refine ite_canonical (kept (endCmd_frame _ _ _ _) h) ?_
  dsimp only
  split
  · exact kept (refuseAt_frame _ _ _ _) h
  split
  · exact kept (endCmd_frame _ _ _ _) h
  · exact beginLoad_canonical _ _ _ _ _ h

theorem contextLoad_canonical {s : State} (n k r c head) (h : MemoryCanonical s) : MemoryCanonical (contextLoad s n k r c head) := by
  have hf := fun b => kept (refuseField_frame s r c stBadParam b) h
  unfold contextLoad
  refine ite_canonical (hf _) (ite_canonical (kept (endCmd_frame _ _ _ _) h) (ite_canonical (kept (refusePlain_frame _ _ _ _) h) ?_))
  split
  · exact kept (refuseAt_frame _ _ _ _) h
  split
  · exact imageLoad_canonical _ _ _ _ _ _ h
  · split
    · exact ite_canonical (hf _) (imageLoad_canonical _ _ _ _ _ _ h)
    · exact kept (endCmd_frame _ _ _ _) (kept (logErr_frame _ _ _ _) h)
  · exact beginLoad_canonical _ _ _ _ _ h

theorem execWeightsLoad_kept {s : State} (r head) (h : MemoryCanonical s) : FormKept (execWeightsLoad r head s) := by
  refine .next (withCmd_canonical (fun c => ?_) h)
  split
  · exact kept (storeLoad_frame _ _ _ _) h
  split
  · exact h
  · exact contextLoad_canonical _ _ _ _ _ h

theorem execWeightsSwap_kept {s : State} (r) (h : MemoryCanonical s) : FormKept (execWeightsSwap r s) :=
  .next (withCtxCmd_canonical (fun _ _ _ => ite_canonical (kept (refusePlain_frame _ _ _ _) h) (ite_canonical (kept (refuseField_frame _ _ _ _ _) h)
    (stopService_canonical _ _ (kept (acceptCmd_frame _ _ _) (kept (setCtx_frame _ _ _) h))))) h)

theorem execServiceStart_kept {s : State} (r) (h : MemoryCanonical s) : FormKept (execServiceStart r s) := by
  have hp := fun c st => kept (refusePlain_frame s r c st) h
  refine .next (withCtxCmd_canonical (fun n k c => ?_) h)
  split
  · exact kept (endOk_frame _ _ _ _) h
  · exact hp _ _
  · exact ite_canonical (hp _ _) (ite_canonical (hp _ _) (ite_canonical (hp _ _) (kept (endOk_frame _ _ _ _) (kept (setCtx_frame _ _ _) h))))

theorem placeRecord_canonical (n j) (p : State × Nat × Nat × Nat × Nat) (r) (h : MemoryCanonical p.1) :
    MemoryCanonical (placeRecord n j p r).1 := by
  unfold placeRecord
  split
  · exact h
  split
  · exact h
  refine ite_canonical ?_ (kept (setCtx_frame _ _ _) h)
  have hc := fun c' c t m w => kept (cleanTensor_frame (setCtx p.1 n c') c t m w) (kept (setCtx_frame p.1 n c') h)
  split
  · exact hc _ _ _ _ _
  · exact kept (takeWords_frame _ _ _ _ _) (hc _ _ _ _ _)

theorem loadPlaced_canonical {s : State} (n) (h : MemoryCanonical s) : MemoryCanonical (loadPlaced s n) := by
  unfold loadPlaced
  split
  · exact h
  split
  · exact h
  next j _ =>
    have hr : MemoryCanonical (j.records.foldl (placeRecord n j) (s, 0, 0, 0, 0)).1 :=
      List.foldlRecOn (motive := fun p : State × Nat × Nat × Nat × Nat => MemoryCanonical p.1) j.records _ h
        fun _ hp _ _ => placeRecord_canonical _ _ _ _ hp
    refine ite_canonical h (kept (endCmd_frame _ _ _ _) (kept (updCtx_frame _ _ _) (guarded_canonical hr fun hr => ?_)))
    exact kept (switchDone_frame _ _) (kept (refill_frame _ _ _) hr)

theorem execPointerSwitch_kept {s : State} (n) (h : MemoryCanonical s) : FormKept (execPointerSwitch n s) := by
  unfold execPointerSwitch
  split
  · exact .next h
  split
  · exact .next h
  refine .ite (.next h) (.next ?_)
  refine kept (endCmd_frame _ _ _ _) (kept (updCtx_frame _ _ _)
    (kept (switchDone_frame _ _) (kept (refill_frame _ _ _) (kept (updCtx_frame _ _ _) ?_))))
  exact foldl_canonical _ (fun _ _ => kept (switchTensor_frame _ _ _)) h

/-! ### Retirement, checked reads and lost stacks -/

/-- A state that differs in its model store alone. -/
theorem storeUpd_canonical {s : State} (m : Store) (h : MemoryCanonical s) : MemoryCanonical { s with store := m } := h

theorem retireGranule_canonical {s : State} (b g k seq fence eccs) (h : MemoryCanonical s) :
    MemoryCanonical (retireGranule s b g k seq fence eccs) := by
  unfold retireGranule
  exact kept (storeWrite_frame _ _) (storeUpd_canonical _ (moveGranule_canonical _ _ _ (checkLines_canonical _ _ _ (wcFence_canonical _ _ h))))

theorem withdrawFrame_canonical {s : State} (f : Nat) (h : MemoryCanonical s) : MemoryCanonical (withdrawFrame s f) := ite_canonical h h

theorem dropRetire_canonical {s : State} (n e) (h : MemoryCanonical s) : MemoryCanonical (dropRetire s n e) := by
  unfold dropRetire
  split
  · exact kept (updCtx_frame _ _ _) h
  · exact h

theorem execPageRetire_kept {s : State} (r eccs fence) (h : MemoryCanonical s) : FormKept (execPageRetire r eccs s fence) := by
  refine .next (withCmd_canonical (fun c => ite_canonical (kept (endOk_frame _ _ _ _) h) ?_) h)
  split
  · exact kept (refusePlain_frame _ _ _ _) (kept (logGranule_frame _ _ _ _) (withdrawFrame_canonical _ h))
  split
  · exact kept (updCtx_frame _ _ _) (kept (acceptCmd_frame _ _ _) h)
  · exact retireGranule_canonical _ _ _ _ _ _ (kept (acceptCmd_frame _ _ _) h)

theorem execRetirementCopy_kept {s : State} (b g eccs fence) (h : MemoryCanonical s) : FormKept (execRetirementCopy b g eccs s fence) := by
  unfold execRetirementCopy
  split
  · exact .next h
  have hd := fun n e => dropRetire_canonical n e h
  refine .ite (.next h) (.ite (.next (kept (endCmd_frame _ _ _ _) (hd _ _))) ?_)
  split
  · exact .next (retireGranule_canonical _ _ _ _ _ _ (hd _ _))
  · exact .next (kept (endCmd_frame _ _ _ _) (kept (logGranule_frame _ _ _ _) (withdrawFrame_canonical _ (hd _ _))))

theorem execWriteCombiningIdleFlush_kept {s : State} (b line ecc) (h : MemoryCanonical s) :
    FormKept (execWriteCombiningIdleFlush b line ecc s) := by
  unfold execWriteCombiningIdleFlush
  split
  · exact .next h
  · exact .ite (.next h) (.next (wcOut_canonical _ _ _ h))

theorem execPatrolScrub_kept {s : State} (b line ecc twin) (h : MemoryCanonical s) : FormKept (execPatrolScrub b line ecc twin s) := by
  have hs := fun k => kept (setStack_frame s b k) h
  unfold execPatrolScrub
  refine .ite (.next h) (.ite ?_ ?_)
  · split
    · exact .next (hs _)
    · exact .next (kept (noteCorrected_frame _ _ _ _ _) (hs _))
    · exact .ite (.next (becomeFatal_canonical _ _ _ (kept (logMem_frame _ _ _ _ _ _) (kept (logMem_frame _ _ _ _ _ _) (hs _)))))
        (.next (kept (logMem_frame _ _ _ _ _ _) (hs _)))
    · exact .next (kept (noteCorrected_frame _ _ _ _ _) (hs _))
    · exact .next (hs _)
  · dsimp only
    split
    · next he => exact .next (canonical_of_checkLines_eq he (hs _))
    · next he =>
      have hc := canonical_of_checkLines_eq he (hs _)
      split
      · exact .next (guarded_canonical hc (kept (postEvent_frame _ _ _)))
      · exact .next hc

theorem execParityRetry_kept {s : State} (pa src ok) (h : MemoryCanonical s) : FormKept (execParityRetry pa src ok s) := by
  have hs := fun k => kept (setStack_frame s (paStack pa) k) h
  exact .ite (.next h) (.ite (.next (guarded_canonical (hs _) (kept (logMem_frame _ _ _ _ _ _))))
    (.ite (.next (hs _)) (.next (loseStack_canonical _ _ _ (kept (noteMem_frame _ _ _ _ _ _) (hs _))))))

theorem execChannelNoResponse_kept {s : State} (pa src) (h : MemoryCanonical s) : FormKept (execChannelNoResponse pa src s) :=
  .ite (.next h) (.next (loseStack_canonical _ _ _ (kept (noteMem_frame _ _ _ _ _ _) h)))

/-! ### Model store, command work and timeouts -/

theorem execStoreReadCompletion_kept {s : State} (n blk good) (h : MemoryCanonical s) : FormKept (execStoreReadCompletion n blk good s) := by
  have hk := fun b => kept (keepBlock_frame s n blk b) h
  unfold execStoreReadCompletion
  split
  · exact .next h
  split
  · exact .next h
  · exact .ite (.next (guarded_canonical (hk _) fun hu => kept (logErr_frame _ _ _ _) (kept (storeWrite_frame _ _) hu)))
      (.ite (.next (kept (blockLost_frame _ _ _ _) h)) (.next (kept (setCtx_frame _ _ _) h)))

theorem execStoreWriteCompletion_kept {s : State} (i) (h : MemoryCanonical s) : FormKept (execStoreWriteCompletion i s) := by
  unfold execStoreWriteCompletion
  split
  · exact .next h
  · exact .next (kept (storeWritten_frame _ _) h)

theorem destroyWork_canonical {s : State} (seq) (h : MemoryCanonical s) : MemoryCanonical (destroyWork s seq) := by
  unfold destroyWork
  split
  · exact h
  refine ite_canonical h ?_
  split
  · exact kept (finishDestroy_frame _ _) h
  · exact kept (finishDestroy_frame _ _) (kept (setCtx_frame _ _ _) (scrubFrame_canonical _ h))

theorem execCommandWorkAccess_kept {s : State} (r seq host) (h : MemoryCanonical s) : FormKept (execCommandWorkAccess r seq s host) := by
  unfold execCommandWorkAccess
  split
  · exact .next h
  refine .ite (.next h) (.ite (.next (kept (schedPlaced_frame _ _ _ _) h)) (.ite ?_ (.ite (.next (destroyWork_canonical _ h)) (.next h))))
  split
  · exact .next (loadPlaced_canonical _ h)
  · exact .next h

theorem undoRetire_canonical {s : State} (seq w) (h : MemoryCanonical s) : MemoryCanonical (undoRetire seq s w) := by
  unfold undoRetire
  split
  · exact ite_canonical (storeUpd_canonical _ (moveGranule_canonical _ _ _ h)) h
  · exact h

theorem retireTimeout_canonical {s : State} (seq) (h : MemoryCanonical s) : MemoryCanonical (retireTimeout s seq) :=
  have hu := foldl_canonical s.store.writing (fun _ w => undoRetire_canonical seq w) h
  kept (endCmd_frame _ _ _ _) hu

theorem execCommandTimeout_kept {s : State} (r seq) (h : MemoryCanonical s) : FormKept (execCommandTimeout r seq s) := by
  unfold execCommandTimeout
  split
  · exact .next h
  refine .ite (.next h) ?_
  split
  · exact .next (kept (endCmd_frame _ _ _ _) (kept (removeImage_frame _ _ _) h))
  · exact .next (kept (abortLoad_frame _ _ _) h)
  · exact .next (kept (installTimeout_frame _ _) h)
  · exact .next (kept (ckptTimeout_frame _ _ _) h)
  · exact .next (kept (endCmd_frame _ _ _ _) h)
  · exact .next (kept (payOwed_frame _) (retireTimeout_canonical _ h))
  · exact .next (kept (diagTimeout_frame _ _) h)
  · exact .next h

theorem execCommandFetch_kept {s : State} (r entry param) (h : MemoryCanonical s) : FormKept (execCommandFetch r entry param s) := by
  unfold execCommandFetch
  split
  · exact .next h
  refine .ite ?_ (.next h)
  split
  · exact .next (kept (fetched_frame _ _ _ _ _) h)
  · exact .next (kept (fetchFailed_frame _ _ _) h)

/-! ### Checkpoint streams -/

theorem execCkptBaseSend_kept {s : State} (n slow) (h : MemoryCanonical s) : FormKept (execCkptBaseSend n slow s) := by
  have hc := fun c => kept (setCtx_frame s n c) h
  unfold execCkptBaseSend
  split
  · exact .next h
  split
  · exact .next h
  refine .ite (.next h) ?_
  dsimp only
  split
  · have hl := fun c k addr => kept (logErr_frame (endSender (setCtx s n c) n k) 0x0802 (some n) (BitVec.ofNat 128 addr))
      (kept (endSender_frame _ _ _) (hc c))
    refine .next ?_
    split
    · exact kept (endCmd_frame _ _ _ _) (hl _ _ _)
    · exact hl _ _ _
  · exact .next (kept (startOpenFlow_frame _ _ _ _ _ _ _ _ _ _) (hc _))

theorem execStreamTimeout_kept {s : State} (n) (h : MemoryCanonical s) : FormKept (execStreamTimeout n s) := by
  unfold execStreamTimeout
  split
  · exact .next h
  split
  · exact .next h
  · exact .ite (.next h) (.next (kept (breakStream_frame _ _ _) h))

theorem execRebaseComplete_kept {s : State} (n) (h : MemoryCanonical s) : FormKept (execRebaseComplete n s) := by
  unfold execRebaseComplete
  split
  · exact .next h
  split
  · exact .next h
  · exact .ite (.next h) (.next (foldl_canonical _ (fun _ _ => kept (takeDelta_frame _ _ _)) (kept (setCtx_frame _ _ _) h)))

/-! ### Frames of the transport and the collective -/

theorem execWrite_kept {s : State} (h : MemoryCanonical s) : FormKept (execWrite s) := by
  refine .next (withFrame_canonical (fun u n c d hu => withStep_canonical (fun x img => ?_) hu) h)
  have ht := fun i => kept (takeFrame_frame u d i false) hu
  exact ite_canonical (guarded_canonical (ht _) (kept (takeTotal_frame _ _ _))) (kept (bumpSlory_frame _ _ _) hu)

theorem execSplit_kept {s : State} (h : MemoryCanonical s) : FormKept (execSplit s) :=
  .next (withFrame_canonical (fun _ _ _ _ hu => withStep_canonical (fun _ _ =>
    ite_canonical (kept (takeFrame_frame _ _ _ _) hu) (kept (bumpSlory_frame _ _ _) hu)) hu) h)

theorem execReduce_kept {s : State} (h : MemoryCanonical s) : FormKept (execReduce s) := by
  refine .next (withFrame_canonical (fun u n c d hu => withStep_canonical (fun x img => ?_) hu) h)
  have ht := fun i => kept (takeFrame_frame u d i false) hu
  exact ite_canonical (guarded_canonical (ht _) (kept (takeSum_frame _ _ _ _ _))) (kept (bumpSlory_frame _ _ _) hu)

theorem forgetSegments_canonical {s : State} (tag flow) (h : MemoryCanonical s) : MemoryCanonical (forgetSegments s tag flow) := h

/-- A state that differs in its transport alone. -/
theorem sloryUpd_canonical {s : State} (m : Slory) (h : MemoryCanonical s) : MemoryCanonical { s with slory := m } := h

theorem execBcast_kept {s : State} (children) (h : MemoryCanonical s) : FormKept (execBcast children s) := by
  refine .next (withFrame_canonical (fun u n c d hu => ?_) h)
  have hb := kept (bumpSlory_frame u 7 1) hu
  have ht := fun c => kept (takeFrame_frame (setCtx u n c) d none false) (kept (setCtx_frame u n c) hu)
  dsimp only
  split
  · exact hb
  · exact ite_canonical (guarded_canonical (ht _) fun hr => kept (segmentArrived_frame _ _ _ _)
      (forgetSegments_canonical _ _ (kept (setRx_frame _ _) hr))) hb

theorem execDelta_kept {s : State} (h : MemoryCanonical s) : FormKept (execDelta s) :=
  .next (withFrame_canonical (fun _ _ _ _ hu =>
    ite_canonical (kept (takeDelta_frame _ _ _) (kept (takeFrame_frame _ _ _ _) hu)) (kept (bumpSlory_frame _ _ _) hu)) h)

theorem execAck_kept {s : State} (h : MemoryCanonical s) : FormKept (execAck s) := by
  refine .next (withFrame_canonical (fun u n c d hu => ?_) h)
  split
  · exact kept (strayAnswer_frame _ _ _ _) hu
  · have hp := fun f g => kept (pumpFlow_frame (setTx (bumpSlory u 0 1) f) g) (kept (setTx_frame _ _) (kept (bumpSlory_frame _ _ _) hu))
    refine ite_canonical (kept (bumpSlory_frame _ _ _) hu) (guarded_canonical (hp _ _) fun hr => ?_)
    exact guarded_canonical (sloryUpd_canonical _ hr) (kept (deltaAcked_frame _ _ _))

theorem execNak_kept {s : State} (h : MemoryCanonical s) : FormKept (execNak s) := by
  refine .next (withFrame_canonical (fun u n c d hu => ?_) h)
  split
  · exact kept (strayAnswer_frame _ _ _ _) hu
  · exact guarded_canonical (kept (bumpSlory_frame _ _ _) hu) fun hb => kept (resend_frame _ _ _) (kept (setTx_frame _ _) hb)

theorem execVoteReceive_kept {s : State} (h : MemoryCanonical s) : FormKept (execVoteReceive s) :=
  .next (withVote_canonical _ (fun _ _ _ _ hu => guarded_canonical (kept (setLeader_frame _ _) hu) (kept (decideStep_frame _ _ _ _ _ _))) h)

theorem execDecideCommit_kept {s : State} (h : MemoryCanonical s) : FormKept (execDecideCommit s) :=
  .next (withDecision_canonical _ (fun _ _ _ _ hu => guarded_canonical hu fun hu => commitNow_canonical _ _ (kept (dropLeader_frame _ _) hu)) h)

theorem execDecideRepeat_kept {s : State} (h : MemoryCanonical s) : FormKept (execDecideRepeat s) :=
  .next (withDecision_canonical _ (fun _ _ _ _ hu => kept (payOwed_frame _) (rerunStep_canonical _ _ (kept (bumpSlory_frame _ _ _) hu))) h)

theorem execDecideEnd_kept {s : State} (h : MemoryCanonical s) : FormKept (execDecideEnd s) :=
  .next (withDecision_canonical _ (fun _ _ _ _ hu => kept (payOwed_frame _) (endStep_canonical _ _ (kept (dropLeader_frame _ _) hu))) h)

theorem execCollectiveDeadline_kept {s : State} (n step) (h : MemoryCanonical s) : FormKept (execCollectiveDeadline n step s) := by
  unfold execCollectiveDeadline
  split
  · split
    · exact .ite (.next (kept (decideAgain_frame _ _ _ _) h)) (.next h)
    · exact .next h
  · exact .next h

theorem execDecisionHoldTimeout_kept {s : State} (st) (h : MemoryCanonical s) : FormKept (execDecisionHoldTimeout st s) := by
  unfold execDecisionHoldTimeout
  split
  · exact .next h
  refine .ite (.next h) (.next (kept (payOwed_frame _) (endStep_canonical _ _ (kept (dropLeader_frame _ _) ?_))))
  exact kept (postEvent_frame _ _ _) (kept (logErr_frame _ _ _ _) (kept (bumpSlory_frame _ _ _) (kept (updCtx_frame _ _ _) h)))

theorem execAckTimer_kept {s : State} (flow) (h : MemoryCanonical s) : FormKept (execAckTimer flow s) := by
  have ha := fun f => kept (sendAck_frame s f) h
  unfold execAckTimer
  split
  · exact .next h
  · exact .ite (.next h) (.ite (.next (ha _)) (.next (kept (setRx_frame _ _) (ha _))))

theorem execRetransmissionTimer_kept {s : State} (flow seq) (h : MemoryCanonical s) : FormKept (execRetransmissionTimer flow seq s) := by
  unfold execRetransmissionTimer
  split
  · exact .next h
  · exact .ite (.next (kept (resend_frame _ _ _) h)) (.next h)

/-! ### Ports -/

theorem acceptUdp_canonical {s : State} (q noSum f port) (h : MemoryCanonical s) : MemoryCanonical (acceptUdp s q noSum f port) := by
  have hb : MemoryCanonical (if noSum then bumpPort s q 34 1 else s) := guarded_canonical h (kept (bumpPort_frame _ _ _ _))
  have hn := fun i n (u : State) (hu : MemoryCanonical u) => kept (bumpPort_frame u q i n) hu
  unfold acceptUdp
  refine ite_canonical (hn _ _ _ hb) (ite_canonical (hn _ _ _ hb) (kept (pfcCheck_frame _ _ _) ?_))
  exact sloryUpd_canonical _ (kept (setPort_frame _ _ _) (hn _ _ _ (hn _ _ _ hb)))

theorem actClass_canonical {s : State} (q f c) (h : MemoryCanonical s) : MemoryCanonical (actClass s q f c) := by
  have hb := fun i => kept (bumpPort_frame s q i 1) h
  cases c with
  | drop i => exact hb i
  | pfc => exact kept (obeyPfc_frame _ _ _) (hb 19)
  | pause => exact hb 20
  | arp request => exact guarded_canonical (hb 30) (kept (enqueueFrame_frame _ _ _ _))
  | solicit answer => exact guarded_canonical (hb 30) (kept (enqueueFrame_frame _ _ _ _))
  | udp noSum fr port => exact acceptUdp_canonical _ _ _ _ h

theorem received_canonical {s : State} (q express f c d) (h : MemoryCanonical s) : MemoryCanonical (actClass (countIntact s q express c) q f d) :=
  actClass_canonical _ _ _ (kept (countIntact_frame _ _ _ _) h)

theorem execEthernetFrameReceive_kept {s : State} (q phy frame) (h : MemoryCanonical s) :
    FormKept (execEthernetFrameReceive q phy frame s) := by
  have hb := fun i n => kept (bumpPort_frame s q i n) h
  refine .ite (.next h) ?_
  cases phy with
  | fecError n => exact .next (hb _ _)
  | pcsError => exact .next (hb _ _)
  | assemblyError => exact .next (hb _ _)
  | smdError => exact .next (hb _ _)
  | ok express fragments codewords symbols =>
    exact .next (received_canonical _ _ _ _ _ (kept (bumpPort_frame _ _ _ _) (kept (countFec_frame _ _ _ _) h)))

theorem execFabricConfig_kept {s : State} (r) (h : MemoryCanonical s) : FormKept (execFabricConfig r s) := by
  refine .next (withCmd_canonical (fun c => ?_) h)
  dsimp only
  have hp := kept (refusePlain_frame s r c stBusy) h
  split
  · exact kept (refuseAt_frame _ _ _ _) h
  refine ite_canonical hp ?_
  split
  · exact kept (refuseAt_frame _ _ _ _) h
  · exact ite_canonical hp (kept (endOk_frame _ _ _ _)
      (foldl_canonical _ (fun _ _ => kept (applyPortRec_frame _ _ _)) (guarded_canonical h fun hu => hu)))

theorem sendVerify_canonical {s : State} (q respond) (h : MemoryCanonical s) : MemoryCanonical (sendVerify s q respond) :=
  kept (enqueueFrame_frame _ _ _ _) h

theorem execPortLinkUp_kept {s : State} (q inverted) (h : MemoryCanonical s) : FormKept (execPortLinkUp q s inverted) :=
  .ite (.next (kept (raiseVector_frame _ _) (guarded_canonical (kept (setPort_frame _ _ _) h) (sendVerify_canonical _ _)))) (.next h)

theorem execPortLinkDown_kept {s : State} (q) (h : MemoryCanonical s) : FormKept (execPortLinkDown q s) :=
  .ite (.next (kept (setPort_frame _ _ _) (kept (logErr_frame _ _ _ _) (kept (dropLink_frame _ _) h)))) (.next h)

theorem execVerifyDone_kept {s : State} (q ok) (h : MemoryCanonical s) : FormKept (execVerifyDone q ok s) := by
  have hp := fun p => kept (setPort_frame s q p) h
  exact .ite (.next (ite_canonical (hp _) (kept (logErr_frame _ _ _ _) (hp _)))) (.next h)

theorem execVerifyFrame_kept {s : State} (q respond) (h : MemoryCanonical s) : FormKept (execVerifyFrame q respond s) := by
  have hb := kept (bumpPort_frame s q 18 1) h
  exact .ite (.next (ite_canonical hb (sendVerify_canonical _ _ hb))) (.next h)

theorem execFrameTransmit_kept {s : State} (q) (h : MemoryCanonical s) : FormKept (execFrameTransmit q s) := by
  have hp := fun p => kept (setPort_frame s q p) h
  unfold execFrameTransmit
  refine .ite (.next h) ?_
  split
  · exact .next (kept (sentFrame_frame _ _ _ _) (hp _))
  · exact .next (kept (startExpress_frame _ _ _ _) h)
  · exact .ite (.next (kept (startExpress_frame _ _ _ _) h))
      (.ite (.next (kept (startExpress_frame _ _ _ _) h)) (.next (kept (finishBulk_frame _ _ _) h)))
  · exact .ite (.next (kept (bumpPort_frame _ _ _ _) (hp _))) (.next (kept (finishBulk_frame _ _ _) h))
  · split
    · exact .next (kept (refillBuffers_frame _ _) (hp _))
    · exact .next h

theorem execPauseExpiry_kept {s : State} (q prio) (h : MemoryCanonical s) : FormKept (execPauseExpiry q prio s) :=
  .ite (.next (kept (setPort_frame _ _ _) (kept (countPause_frame _ _ _ _) h))) (.next h)

theorem execPauseStorm_kept {s : State} (q prio) (h : MemoryCanonical s) : FormKept (execPauseStorm q prio s) :=
  .ite (.next (kept (logErr_frame _ _ _ _) (kept (setPort_frame _ _ _) (kept (settlePause_frame _ _ _) h)))) (.next h)

/-! ### Host link -/

theorem execHostWriteGo_kept {s : State} (id) (h : MemoryCanonical s) : FormKept (execHostWriteGo id s) := by
  have he := fun o => kept (emit_frame (dropWrite s id) o) (kept (dropWrite_frame s id) h)
  unfold execHostWriteGo
  split
  · exact .next h
  refine .ite (.next (he _)) (.ite (.next h) (.next (kept (payOwed_frame _) (kept (writeSettled_frame _ _) ?_))))
  split
  · exact kept (ringInterrupt_frame _ _ _) (he _)
  · exact he _

theorem dropAfter_canonical {s : State} (id) (h : MemoryCanonical s) : MemoryCanonical (dropAfter s id) := h

theorem execGoTimeout_kept {s : State} (id) (h : MemoryCanonical s) : FormKept (execGoTimeout id s) := by
  unfold execGoTimeout
  split
  · exact .next h
  next w _ =>
    refine .ite (.next h) ?_
    have hl := kept (logErr_frame s 0x0802 w.ctx (BitVec.ofNat 128 w.addr)) h
    have hw := fun u (hu : MemoryCanonical u) => kept (writeSettled_frame (dropWrite u id) w) (kept (dropWrite_frame u id) hu)
    have hf := fun x : Step => kept (payOwed_frame _) (guarded_canonical (p := x.state.live = true) (hw _ hl)
      (failStep_canonical x (memoryReply 1 w.addr)))
    dsimp only
    split
    · exact .next hl
    · exact .next hl
    · exact .next hl
    · refine .next ?_
      split
      · exact hf _
      · exact hw _ hl
    · refine .next ?_
      split
      · exact hf _
      · exact dropAfter_canonical _ (kept (spoilHeld_frame _ _) (hw _ hl))
    · exact .next (hw _ (kept (spoilHeld_frame _ _) hl))
    · exact .next (hw _ (kept (spoilHeld_frame _ _) hl))
    · exact .next (hw _ (kept (spoilHeld_frame _ _) hl))

theorem readFailed_canonical {s : State} (rd) (h : MemoryCanonical s) : MemoryCanonical (readFailed s rd) := by
  have hl := kept (logErr_frame s 0x0802 rd.ctx (BitVec.ofNat 128 rd.addr)) h
  unfold readFailed
  dsimp only
  split
  · exact kept (abortLoad_frame _ _ _) (kept (dropRead_frame _ _) hl)
  · exact kept (endInstall_frame _ _ _) (kept (dropRead_frame _ _) hl)
  · exact hl

theorem execHostReadCompletion_kept {s : State} (id d) (h : MemoryCanonical s) : FormKept (execHostReadCompletion id d s) := by
  have hd := kept (dropRead_frame s id) h
  unfold execHostReadCompletion
  split
  · exact .next h
  refine .ite (.next h) ?_
  split
  · split
    · exact .next (kept (blockReturned_frame _ _ _ _ _ _) h)
    · exact .next (kept (blockReturned_frame _ _ _ _ _ _) h)
    · exact .next (kept (masterReturned_frame _ _ _ _ _) hd)
    · exact .next (kept (hostLoadBlock_frame _ _ _ _) hd)
    · exact .next (kept (installReturned_frame _ _ _ _) hd)
  · exact .next (readFailed_canonical _ h)

theorem execHostReadTimeout_kept {s : State} (id) (h : MemoryCanonical s) : FormKept (execHostReadTimeout id s) := by
  unfold execHostReadTimeout
  split
  · exact .next h
  · exact .ite (.next h) (.next (readFailed_canonical _ h))

theorem execCxlLinkUp_kept {s : State} (rate width) (h : MemoryCanonical s) : FormKept (execCxlLinkUp rate width s) :=
  .ite (.next (kept (payOwed_frame _) (kept (emit_frame _ _) h))) (.next h)

theorem execCxlLinkRetrain_kept {s : State} (rate width) (h : MemoryCanonical s) : FormKept (execCxlLinkRetrain rate width s) :=
  .ite (.ite (.next (kept (logErr_frame _ _ _ _) (kept (emit_frame _ _) (kept (takeFree_frame _) h)))) (.next (kept (payOwed_frame _) h))) (.next h)

/-! ### Resets and boot -/

theorem releaseFault_canonical {s t : State} (h : MemoryCanonical t) : MemoryCanonical (releaseFault s t) := kept (releaseFault_frame _ _) h

/-- Every reset begins with stacked memory empty of known bytes. -/
theorem fullReset_canonical (s : State) (cause linkStays) : MemoryCanonical (fullReset s cause linkStays) :=
  releaseFault_canonical (guarded_canonical rfl (kept (emit_frame _ _)))

theorem losePower_canonical (s : State) : MemoryCanonical (losePower s) :=
  releaseFault_canonical (guarded_canonical rfl (kept (emit_frame _ _)))

theorem execRom_kept {s : State} (h : MemoryCanonical s) : FormKept (execRom s) := by
  unfold execRom
  refine .ite (.next h) ?_
  split
  · exact .next (kept (bootRecovery_frame _) h)
  · next i _ => exact .next (guarded_canonical (p := i = 1) h (kept (logOpen_frame s 0x0B01)) :)

theorem execLoader_kept {s : State} (h : MemoryCanonical s) : FormKept (execLoader s) := by
  unfold execLoader
  refine .ite (.next h) ?_
  split
  · exact .next (kept (bootRecovery_frame _) h)
  · next i _ => exact .next (kept (takeRecord_frame _) (guarded_canonical (p := i = 1) h (kept (logOpen_frame s 0x0B01)) :))

theorem execRecords_kept {s : State} (h : MemoryCanonical s) : FormKept (execRecords s) :=
  .ite (.next h) (.ite (.next (fatalOpen_canonical _ h)) (.ite (.next (kept (logOpen_frame _ _) h)) (.next h)))

theorem execStackTrain_kept {s : State} (failed) (h : MemoryCanonical s) : FormKept (execStackTrain failed s) := by
  unfold execStackTrain
  refine .ite (.next h) ?_
  split
  · exact .next (logFatal_canonical _ _ _ h)
  · exact .next h
  · exact .next (foldl_canonical _ (fun _ => trainFailed_canonical) h)

theorem execSelfTest_kept {s : State} (ok) (h : MemoryCanonical s) : FormKept (execSelfTest ok s) :=
  .ite (.next h) (.ite (.next h) (.next (fatalOpen_canonical _ h)))

theorem execReady_kept {s : State} (h : MemoryCanonical s) : FormKept (execReady s) :=
  .ite (.next (kept (repairSlots_frame _) h)) (.next h)

theorem execControlCoreWatchdog_kept {s : State} (core) (h : MemoryCanonical s) : FormKept (execControlCoreWatchdog core s) := by
  unfold execControlCoreWatchdog
  refine .ite (.next h) ?_
  split
  · exact .ite (.next (logFatal_canonical _ _ _ h)) (.next (kept (logErr_frame _ _ _ _) h))
  · exact .next (kept (logErr_frame _ _ _ _) h)

theorem execCommandProgressWatchdog_kept {s : State} (r) (h : MemoryCanonical s) : FormKept (execCommandProgressWatchdog r s) := by
  unfold execCommandProgressWatchdog
  split
  · exact .ite (.next (logFatal_canonical _ _ _ h)) (.next h)
  · exact .next h

/-! ### Sensors and power -/

theorem execCoolantSensorRead_kept {s : State} (inlet outlet flow) (h : MemoryCanonical s) :
    FormKept (execCoolantSensorRead inlet outlet flow s) := by
  have hs := guarded_canonical (p := flowCapOf flow < s.power.flowCap) h (kept (slopeChange_frame s))
  exact .ite (.next (kept (applyStretch_frame _)
    (guarded_canonical (kept (changeBit_frame _ _ _ _ _ _) hs) (kept (enterRecovery_frame _))))) (.next h)

theorem execThermalCapUpdate_kept {s : State} (h : MemoryCanonical s) : FormKept (execThermalCapUpdate s) := by
  have hs := guarded_canonical (p := nextThermalCap s.power < s.power.thermalCap) h (kept (slopeChange_frame s))
  exact .ite (.next (kept (applyStretch_frame _) (guarded_canonical hs (kept (enterRecovery_frame _))))) (.next h)

theorem fst_ite_canonical {α : Type} {p : Prop} [Decidable p] {q r : State × α} (hq : MemoryCanonical q.1) (hr : MemoryCanonical r.1) :
    MemoryCanonical (if p then q else r).1 := by
  split
  · exact hq
  · exact hr

theorem floorFirings_canonical {s : State} (sp) (h : MemoryCanonical s) : MemoryCanonical (floorFirings s sp).1 := by
  unfold floorFirings
  exact fst_ite_canonical h (kept (takeFree_frame _) h)

/-- A state that differs in its power management alone. -/
theorem powerUpd_canonical {s : State} (m : Power) (h : MemoryCanonical s) : MemoryCanonical { s with power := m } := h

/-- Folding an operation that counts along keeps the form where the operation does. -/
theorem foldl_counted_canonical {g : State → Nat → State × Nat} (hg : ∀ u i, MemoryCanonical u → MemoryCanonical (g u i).1) (l : List Nat)
    {q : State × Nat} (h : MemoryCanonical q.1) :
    MemoryCanonical (l.foldl (fun (q : State × Nat) i => let r := g q.1 i; (r.1, q.2 + r.2)) q).1 :=
  foldl_fst_canonical l (fun q i => hg q.1 i) h

theorem execPowerMeasurement_kept {s : State} (mw) (h : MemoryCanonical s) : FormKept (execPowerMeasurement mw s) := by
  unfold execPowerMeasurement
  refine .ite (.next (powerUpd_canonical _ ?_)) (.next h)
  exact foldl_counted_canonical (g := floorFirings) (fun _ _ => floorFirings_canonical _) _ h

theorem execFall_kept {s : State} (sp avg) (h : MemoryCanonical s) : FormKept (execFall sp avg s) := by
  have hs := guarded_canonical (p := ((spanHolders s sp).any fun q => !gapLearned s q.1) = true) h (kept (slopeChange_frame s))
  exact .ite (.next hs) (.next h)

theorem execCapDecision_kept {s : State} (pfix meas walk) (h : MemoryCanonical s) : FormKept (execCapDecision pfix meas walk s) := by
  have hc := kept (correctSpans_frame s (targetMw s) pfix ((List.range 32).map (spanEnergy s)) meas) h
  exact .ite (.next h) (.next (kept (changeBit_frame _ _ _ _ _ _) (kept (applyStretch_frame _) (kept (walkS_frame _ _ _) hc))))

theorem execDroop_kept {s : State} (d) (h : MemoryCanonical s) : FormKept (execDroop d s) :=
  .ite (.ite (.next (guarded_canonical (kept (logDroop_frame _ _) h) (kept (enterRecovery_frame _)))) (.next (kept (applyStretch_frame _) h)))
    (.next h)

/-! ### Management -/

theorem execMctpControlMessage_kept {s : State} (msg) (h : MemoryCanonical s) : FormKept (execMctpControlMessage msg s) := by
  unfold execMctpControlMessage
  refine .ite (.next h) ?_
  split
  · exact .ite (.next (kept (emit_frame _ _) h)) (.next (kept (emit_frame _ _) h))
  · exact .next (kept (emit_frame _ _) h)
  · exact .next (kept (emit_frame _ _) (kept (takeFree_frame _) h))
  · exact .next (kept (emit_frame _ _) h)
  · exact .next (kept (emit_frame _ _) h)

theorem execPldmBase_kept {s : State} (msg) (h : MemoryCanonical s) : FormKept (execPldmBase msg s) := by
  unfold execPldmBase
  refine .ite (.next h) ?_
  split
  · exact .next (kept (emit_frame _ _) h)
  · exact .next (kept (emit_frame _ _) h)
  · exact .next (kept (emit_frame _ _) (kept (freeBytes_frame _ _) h))
  · exact .next (kept (emit_frame _ _) h)
  · exact .next (kept (emit_frame _ _) (kept (freeBytes_frame _ _) h))
  · exact .next (kept (emit_frame _ _) h)

theorem execPldmSensorReading_kept {s : State} (id) (h : MemoryCanonical s) : FormKept (execPldmSensorReading id s) := by
  unfold execPldmSensorReading
  refine .ite (.next h) ?_
  split
  · exact .next (kept (emit_frame _ _) h)
  · exact .next (kept (emit_frame _ _) h)

theorem execPldmFirmwareUpdate_kept {s : State} (cls image) (h : MemoryCanonical s) : FormKept (execPldmFirmwareUpdate cls image s) := by
  have he := fun c o => kept (updateEnd_frame s c o) h
  have hw := fun c o => kept (updateEnd_frame (writeObject s c image) c o) (kept (writeObject_frame s c image) h)
  exact .ite (.next h) (.ite (.next (he _ _)) (.ite (.next (ite_canonical (hw _ _) (he _ _))) (.ite (.next (ite_canonical (hw _ _) (he _ _)))
    (.ite (.next (kept (updateRecord_frame _ _) h)) (.next (kept (updateStore_frame _ _ _) h))))))

theorem execDiagTestComplete_kept {s : State} (failed) (h : MemoryCanonical s) : FormKept (execDiagTestComplete failed s) := by
  unfold execDiagTestComplete
  split
  · exact .next h
  split
  · exact .next (kept (endTest_frame _) h)
  · exact .next (kept (endCmd_frame _ _ _ _) (kept (endTest_frame _)
      (ite_canonical (kept (writeResult_frame _ _ _ _) (kept (testResults_frame _) h)) h)))

/-! ### Commands of the module -/

theorem execEnergyRead_kept {s : State} (r) (h : MemoryCanonical s) : FormKept (execEnergyRead r s) := by
  have hw := fun c b => kept (endOk_frame (writeResult s r c.resultAddr b) r c 0) (kept (writeResult_frame s r c.resultAddr b) h)
  have hr := fun c => kept (refuseField_frame s r c stBadParam 256) h
  refine .next (withCmd_canonical (fun c => ?_) h)
  cases r with
  | admin => exact ite_canonical (hr c) (hw c _)
  | ctx n =>
    dsimp only
    split
    · exact h
    · exact ite_canonical (hr c) (hw c _)

theorem execAttestReport_kept {s : State} (r) (h : MemoryCanonical s) : FormKept (execAttestReport r s) :=
  .next (withCmd_canonical (fun _ => ite_canonical (kept (refusePlain_frame _ _ _ _) h) (ite_canonical (kept (refuseField_frame _ _ _ _ _) h)
    (kept (endOk_frame _ _ _ _) (kept (writeResult_frame _ _ _ _) (kept (takeFree_frame _) h))))) h)

theorem execPowerCapSet_kept {s : State} (r) (h : MemoryCanonical s) : FormKept (execPowerCapSet r s) :=
  .next (withCmd_canonical (fun _ => ite_canonical (kept (refuseField_frame _ _ _ _ _) h)
    (kept (endOk_frame _ _ _ _) (kept (setCapW_frame _ _) h))) h)

theorem execDiagRun_kept {s : State} (r) (h : MemoryCanonical s) : FormKept (execDiagRun r s) :=
  .next (withCmd_canonical (fun c => ite_canonical (kept (refusePlain_frame _ _ _ _) h)
    (kept (setMode_frame _) (kept (acceptCmd_frame s r c.seq) h :))) h)

/-! ### Registers -/

theorem barRead_canonical {s : State} (off size) (h : MemoryCanonical s) : MemoryCanonical (barRead s off size) := by
  have ha : ∀ u v, MemoryCanonical u → MemoryCanonical (answer u off size v) := fun _ _ => kept (answer_frame _ _ _ _)
  have hs : MemoryCanonical (settleRead (noLatch s) (off - off % 8)) := guarded_canonical h (kept (settlePort_frame _ _))
  unfold barRead
  refine ite_canonical h (ite_canonical (ha _ _ (kept (countMalformed_frame _ _) hs)) (ite_canonical ?_ (ite_canonical ?_ ?_)))
  · exact ha _ _ (guarded_canonical hs (kept (clearRc_frame _ _)))
  · exact ha _ _ (guarded_canonical hs (kept (clearRc_frame _ _)))
  · split
    · exact ite_canonical (ha _ _ hs) (ha _ _ hs)
    · exact ha _ _ hs

theorem execMalformedRegisterAccess_kept {s : State} (off size read) (h : MemoryCanonical s) :
    FormKept (execMalformedRegisterAccess off size read s) := by
  have hc := kept (countMalformed_frame (noLatch s) off) h
  exact .ite (.next h) (.next (ite_canonical (kept (answer_frame _ _ _ _) hc) hc))

theorem execDbCtx_kept {s : State} (n size high v) (h : MemoryCanonical s) : FormKept (execDbCtx n size high v s) := by
  unfold execDbCtx
  exact .ite (.next (barWrite_canonical (fun _ hu => kept (doorbell_frame _ _ _ _ _) hu) h)) (.next h)

theorem execCoalUs_kept {s : State} (r) (h : MemoryCanonical s) : FormKept (execCoalUs r s) := by
  unfold execCoalUs
  split
  · exact .ite (.next (kept (sendRing_frame _ _) h)) (.next h)
  · exact .next h

theorem execMsixRateWindow_kept {s : State} (vec) (h : MemoryCanonical s) : FormKept (execMsixRateWindow vec s) :=
  .ite (.next (guarded_canonical h fun h => kept (raiseVector_frame _ _) h)) (.next h)

/-! ### The rows of a pier -/

section Pier

variable {s : State} (st p stall dry : Nat) (h : MemoryCanonical s)

include h

theorem execMma_kept : FormKept (execMma st p stall dry s) := by
  refine pierTurn_kept (fun x img c ins q e => ?_) h
  split at e
  · cases e
    exact h
  · cases e

theorem execFill_kept : FormKept (execFill st p stall dry s) := by
  refine pierTurn_kept (fun x img c ins q e => ?_) h
  split at e
  · cases e
    exact kept (issueFill_frame _ _ _ _ _ _ _ _ _ _) h
  · cases e

theorem execDrain_kept : FormKept (execDrain st p stall dry s) := by
  refine pierTurn_kept (fun x img c ins q e => ?_) h
  split at e
  · split at e
    · cases e
    · cases e
      exact kept (issueDrain_frame _ _ _ _ _ _ _ _ _ _ _ _) h
  · cases e

theorem execBankWrite_kept : FormKept (execBankWrite st p stall dry s) := by
  refine pierTurn_kept (fun x img c ins q e => ?_) h
  split at e
  · split at e
    · cases e
    · cases e
      exact kept (issueBankWrite_frame _ _ _ _ _ _ _ _ _) h
  · cases e

theorem execFlagClear_kept : FormKept (execFlagClear st p stall dry s) := by
  refine pierTurn_kept (fun x img c ins q e => ?_) h
  split at e
  · cases e
    exact h
  · cases e

theorem execTileIn_kept : FormKept (execTileIn st p stall dry s) := by
  refine pierTurn_kept (fun x img c ins q e => ?_) h
  split at e
  · obtain ⟨d, -, hd⟩ := Option.map_eq_some_iff.mp e
    cases hd
    exact h
  · cases e

theorem execTileOut_kept : FormKept (execTileOut st p stall dry s) := by
  refine pierTurn_kept (fun x img c ins q e => ?_) h
  split at e
  · rw [moveOut_state e]
    exact h
  · cases e

theorem execBlocksIn_kept : FormKept (execBlocksIn st p stall dry s) := by
  refine pierTurn_kept (fun x img c ins q e => ?_) h
  split at e
  · cases e
    exact h
  · cases e

theorem execBlocksOut_kept : FormKept (execBlocksOut st p stall dry s) := by
  refine pierTurn_kept (fun x img c ins q e => ?_) h
  split at e
  · rw [moveOut_state e]
    exact h
  · cases e

end Pier

/-! ### Every command and every step -/

theorem exec_kept (c : Instr) {s : State} (h : MemoryCanonical s) : FormKept (exec c s) := by
  cases c with
  | nop => exact .next (withCmd_canonical (fun _ => kept (endOk_frame _ _ _ _) h) h)
  | serviceStop => exact .next (withCtxCmd_canonical (fun _ _ _ => kept (endOk_frame _ _ _ _) (stopService_canonical _ _ h)) h)
  | ctxCreate => exact .next (withCmd_canonical (fun _ => kept (ctxCreate_frame _ _ _ _) h) h)
  | ctxDestroy => exact execCtxDestroy_kept _ h
  | ctxQuery => exact execCtxQuery_kept _ h
  | schedLoad => exact execSchedLoad_kept _ _ h
  | schedUnload => exact execSchedUnload_kept _ h
  | timetableSet => exact execTimetableSet_kept _ h
  | stepRun => exact execStepRun_kept _ h
  | stepKill => exact execStepKill_kept _ h
  | weightsLoad => exact execWeightsLoad_kept _ _ h
  | weightsSwap => exact execWeightsSwap_kept _ h
  | serviceStart => exact execServiceStart_kept _ h
  | optConfig => exact execOptConfig_kept _ h
  | ckptStreamStart => exact execCkptStreamStart_kept _ h
  | ckptStreamStop => exact execCkptStreamStop_kept _ h
  | ckptRestore => exact execCkptRestore_kept _ _ h
  | fence => exact execFence_kept _ _ h
  | pageRetire r eccs fence => exact execPageRetire_kept r eccs fence h
  | powerCapSet => exact execPowerCapSet_kept _ h
  | energyRead => exact execEnergyRead_kept _ h
  | fabricConfig => exact execFabricConfig_kept _ h
  | groupSet => exact execGroupSet_kept _ h
  | attestReport => exact execAttestReport_kept _ h
  | diagRun => exact execDiagRun_kept _ h
  | commandFetch => exact execCommandFetch_kept _ _ _ h
  | commandTimeout => exact execCommandTimeout_kept _ _ h
  | dbCtx => exact execDbCtx_kept _ _ _ _ h
  | dbAdmin => exact .next (barWrite_canonical (fun _ hu => kept (doorbell_frame _ _ _ _ _) hu) h)
  | coalUs => exact execCoalUs_kept _ h
  | msixRateWindow => exact execMsixRateWindow_kept _ h
  | msixTableWrite => exact .ite (.next (barWrite_canonical (fun _ hu => kept (msixWrite_frame _ _ _) hu) h)) (.next h)
  | rstControl => exact .next (barWrite_canonical (fun _ hu => guarded_canonical hu fun _ => fullReset_canonical ..) h)
  | rstAdminInstall =>
    exact .next (barWrite_canonical (fun _ hu =>
      ite_canonical hu (ite_canonical (kept (installAdmin_frame _) hu) (kept (earlyWrite_frame _ _) hu))) h)
  | errLogSelect => exact .next (barWrite_canonical (fun _ hu => guarded_canonical hu (kept (selectSlot_frame _ _))) h)
  | errLogAck => exact .next (barWrite_canonical (fun _ hu => kept (ackLog_frame _ _ _) hu) h)
  | w1cWrite => exact .next (barWrite_canonical (fun _ hu => kept (w1c_frame _ _ _ _) hu) h)
  | registerWrite => exact .next (barWrite_canonical (fun _ hu => kept (plainWrite_frame _ _ _) hu) h)
  | rcRegisterRead | lowHalfRead => exact .next (barRead_canonical _ _ h)
  | malformedRegisterAccess => exact execMalformedRegisterAccess_kept _ _ _ h
  | mma => exact execMma_kept _ _ _ _ h
  | fill => exact execFill_kept _ _ _ _ h
  | drain => exact execDrain_kept _ _ _ _ h
  | bankWrite => exact execBankWrite_kept _ _ _ _ h
  | flagClear => exact execFlagClear_kept _ _ _ _ h
  | tileIn => exact execTileIn_kept _ _ _ _ h
  | tileOut => exact execTileOut_kept _ _ _ _ h
  | blocksIn => exact execBlocksIn_kept _ _ _ _ h
  | blocksOut => exact execBlocksOut_kept _ _ _ _ h
  | deckArrival => exact execDeckArrival_kept _ _ _ h
  | bearingReadReturn => exact execBearingReadReturn_kept _ _ _ h
  | prefetch => exact execPrefetch_kept _ _ h
  | add | sub | mul | fma | min | max | cmp | abs | neg | cvt | scale | select | div | sqrt | recip | rsqrt =>
    exact .next (vecElem_canonical _ _ _ _ _ _ _ _ h)
  | rowSum | rowMax | rowSumsq => exact .next (vecRow_canonical _ _ _ _ _ _ h)
  | eval | derivMul => exact .next (tabElem_canonical _ _ _ _ _ _ h)
  | vectorFlagClear | tableFlagClear => exact .next (stationClear_canonical _ _ _ _ h)
  | partAdd => exact execPartAdd_kept _ _ _ h
  | pos => exact execPos_kept _ _ _ h
  | transpose => exact execTranspose_kept _ _ _ h
  | accept => exact execAccept_kept _ _ _ h
  | update => exact execUpdate_kept _ _ _ _ h
  | updateList => exact execUpdateList_kept _ _ _ _ h
  | keystoneFlagClear => exact execKeystoneFlagClear_kept _ _ _ h
  | send | splitSend => exact .next (sendEntry_canonical _ _ _ _ _ h)
  | recv => exact execRecv_kept _ _ _ h
  | splitRecv => exact execSplitRecv_kept _ _ _ h
  | redSend => exact execRedSend_kept _ _ _ h
  | redRecv => exact execRedRecv_kept _ _ _ h
  | norm => exact execNorm_kept _ _ _ h
  | acc => exact execAcc_kept _ _ _ h
  | routing => exact execRouting_kept _ _ _ _ _ h
  | combine => exact execCombine_kept _ _ _ _ _ _ h
  | combineBwd => exact execCombineBwd_kept _ _ _ _ h
  | dispatchBwd => exact execDispatchBwd_kept _ _ _ h
  | blockListBuild => exact execBlockListBuild_kept _ _ _ _ _ _ h
  | sparseEmbeddingList => exact execSparseEmbeddingList_kept _ _ _ _ _ _ _ h
  | slotStart => exact execSlotStart_kept _ h
  | slotEnd => exact .ite (.next (kept (endSlot_frame _ _) h)) (.next h)
  | periodBoundary => exact execPeriodBoundary_kept h
  | bestEffortAdmission => exact execBestEffortAdmission_kept h
  | bubble => exact execBubble_kept _ _ _ h
  | preambleStart => exact execPreambleStart_kept _ h
  | preambleEnd => exact execPreambleEnd_kept _ h
  | phase => exact execPhase_kept _ _ _ _ h
  | wait => exact execWait_kept _ _ h
  | finalSlackExceeded => exact execFinalSlackExceeded_kept _ _ h
  | commitPoint => exact execCommitPoint_kept _ _ h
  | releaseComplete => exact execReleaseComplete_kept _ _ _ h
  | pointerSwitch => exact execPointerSwitch_kept _ h
  | retirementCopy b g eccs fence => exact execRetirementCopy_kept b g eccs fence h
  | ckptBaseSend => exact execCkptBaseSend_kept _ _ h
  | unitScrub => exact execUnitScrub_kept _ _ h
  | ethernetFrameReceive => exact execEthernetFrameReceive_kept _ _ _ h
  | pfcFrame | pauseFrame | arpRequest | neighbourSolicitation => exact .ite (.next (received_canonical _ _ _ _ _ h)) (.next h)
  | verifyFrame => exact execVerifyFrame_kept _ _ h
  | pfcRepeat => exact .ite (.next (kept (sendPfc_frame _ _ _ _) h)) (.next h)
  | pauseExpiry => exact execPauseExpiry_kept _ _ h
  | pauseStorm => exact execPauseStorm_kept _ _ h
  | pauseIgnoreEnd => exact .ite (.next (kept (setPort_frame _ _ _) h)) (.next h)
  | frameTransmit => exact execFrameTransmit_kept _ h
  | portLinkUp => exact execPortLinkUp_kept _ _ h
  | portLinkDown => exact execPortLinkDown_kept _ h
  | portTrainingTimeout => exact .ite (.next (kept (raiseVector_frame _ _) (kept (logErr_frame _ _ _ _) h))) (.next h)
  | verifyDone => exact execVerifyDone_kept _ _ h
  | write => exact execWrite_kept h
  | reduce => exact execReduce_kept h
  | bcast => exact execBcast_kept _ h
  | split => exact execSplit_kept h
  | delta => exact execDelta_kept h
  | ack => exact execAck_kept h
  | nak => exact execNak_kept h
  | voteRepeat => exact .next (withVote_canonical _ (fun _ _ _ _ hu => kept (decideAgain_frame _ _ _ _) hu) h)
  | voteFail => exact .next (withVote_canonical _ (fun _ _ _ _ hu => kept (decideStep_frame _ _ _ _ _ _) hu) h)
  | voteReceive => exact execVoteReceive_kept h
  | decideCommit => exact execDecideCommit_kept h
  | decideRepeat => exact execDecideRepeat_kept h
  | decideEnd => exact execDecideEnd_kept h
  | collectiveDeadline => exact execCollectiveDeadline_kept _ _ h
  | decisionHoldTimeout => exact execDecisionHoldTimeout_kept _ h
  | retransmissionTimer => exact execRetransmissionTimer_kept _ _ h
  | ackTimer => exact execAckTimer_kept _ h
  | streamTimeout => exact execStreamTimeout_kept _ h
  | writeCombiningIdleFlush => exact execWriteCombiningIdleFlush_kept _ _ _ h
  | correctedRewrite => exact .ite (.next (kept (setStack_frame _ _ _) h)) (.next h)
  | refresh => exact .next (guarded_canonical h (kept (setStack_frame _ _ _)))
  | patrolScrub => exact execPatrolScrub_kept _ _ _ _ h
  | dramSensorRead => exact .ite (.next (groupRead_canonical _ _ (kept (setStack_frame _ _ _) h))) (.next h)
  | parityRetry => exact execParityRetry_kept _ _ _ h
  | channelNoResponse => exact execChannelNoResponse_kept _ _ h
  | hostWriteGo => exact execHostWriteGo_kept _ h
  | hostReadCompletion => exact execHostReadCompletion_kept _ _ h
  | hostReadTimeout => exact execHostReadTimeout_kept _ h
  | goTimeout => exact execGoTimeout_kept _ h
  | hostSnoop | cxlMemRequest | i3cAddressAssignment | errorUnsupportedCmd => exact .ite (.next (kept (emit_frame _ _) h)) (.next h)
  | hostLinkDown | cxlCorrectableError => exact .ite (.next (kept (logErr_frame _ _ _ _) (kept (emit_frame _ _) h))) (.next h)
  | hostLinkDown10s => exact .ite (.next (logFatal_canonical _ _ _ h)) (.next h)
  | cxlLinkUp => exact execCxlLinkUp_kept _ _ h
  | cxlLinkRetrain => exact execCxlLinkRetrain_kept _ _ h
  | powerGood | rails => exact .ite (.next h) (.next h)
  | perstNDeassert | managementControllerRestart => exact .next h
  | powerLost | inputOvervoltage => exact .ite (.next (losePower_canonical _)) (.next h)
  | perstNAssert | flr | linkReset | managementReset | activateFirmware => exact .ite (.next (fullReset_canonical ..)) (.next h)
  | rom => exact execRom_kept h
  | loader => exact execLoader_kept h
  | firmware | interlock => exact .ite (.next (kept (enterStage_frame _ _) h)) (.next h)
  | records => exact execRecords_kept h
  | interlockWarning => exact .ite (.next (kept (raiseVector_frame _ _) h)) (.next h)
  | stackTrain => exact execStackTrain_kept _ h
  | memInit => exact fun _ e => execMemInit_canonical h e
  | selfTest => exact execSelfTest_kept _ h
  | identity => exact .ite (.next (ite_canonical h (logFatal_canonical _ _ _ h))) (.next h)
  | ready => exact execReady_kept h
  | controlCoreWatchdog => exact execControlCoreWatchdog_kept _ h
  | commandProgressWatchdog => exact execCommandProgressWatchdog_kept _ h
  | managementControllerWatchdog => exact .ite (.next (kept (logErr_frame _ _ _ _) h)) (.next h)
  | controlCoreMemoryError => exact .ite (.next h) (.ite (.next (kept (logErr_frame _ _ _ _) h)) (.next (logFatal_canonical _ _ _ h)))
  | powerMeasurement => exact execPowerMeasurement_kept _ h
  | fall => exact execFall_kept _ _ h
  | capDecision => exact execCapDecision_kept _ _ _ h
  | logicSensorRead => exact .ite (.next (groupRead_canonical _ _ h)) (.next h)
  | coolantSensorRead => exact execCoolantSensorRead_kept _ _ _ h
  | thermalCapUpdate => exact execThermalCapUpdate_kept h
  | flowTrip => exact .ite (.next (tripRails_canonical _ _ h)) (.next h)
  | powerStageFault =>
    exact .ite (.next h) (.ite (.next (kept (raiseVector_frame _ _) (logFatal_canonical _ _ _ h))) (.next (kept (enterRecovery_frame _) h)))
  | droop => exact execDroop_kept _ h
  | droopHoldEnd => exact .ite (.next (kept (applyStretch_frame _) h)) (.next h)
  | recoveryExit => exact .ite (.next (kept (setMode_frame _) h)) (.next h)
  | mctpControlMessage => exact execMctpControlMessage_kept _ h
  | pldmBase => exact execPldmBase_kept _ h
  | pldmSensorReading => exact execPldmSensorReading_kept _ h
  | pldmFirmwareUpdate => exact execPldmFirmwareUpdate_kept _ _ h
  | storeReadCompletion => exact execStoreReadCompletion_kept _ _ _ h
  | storeWriteCompletion => exact execStoreWriteCompletion_kept _ h
  | rebaseComplete => exact execRebaseComplete_kept _ h
  | diagTestComplete => exact execDiagTestComplete_kept _ h
  | commandWorkAccess => exact execCommandWorkAccess_kept _ _ _ h

/-- Settles O4: a step is a tick, which leaves memory alone, or the front command on the rest of the queue. -/
theorem stepKeepsMemoryCanonical : Obligations.StepKeepsMemoryCanonical := by
  intro s t h e
  unfold step at e
  split at e
  · cases e
    exact kept (tick_frame _) h
  · next c rest _ => exact exec_kept c (s := { s with pending := rest }) h t e

end Sys2Proof.MemoryForm


/-! PROOFS of the stacked-memory family, what the bearings do to memory (O53): a granule is retired into a spare one, lines are written
out, rewritten and scrubbed, and a stack that is lost makes the module device-fatal. -/

namespace Sys2Proof.Bearings

set_option Elab.async false

open Sys2Proof.Machine Sys2Proof.Safety Sys2Proof.Laws Sys2Proof.Commits Sys2Proof.TilesAhead Sys2Proof.StackedWrites

/-! ### Sparse maps -/

section Maps

variable {α β : Type}

theorem mem_of_kfind {m : KMap α} {k : Nat} {v : α} (h : kfind m k = some v) : (k, v) ∈ m := by
  induction m with
  | nil => cases h
  | cons e m ih =>
    obtain ⟨j, w⟩ := e
    unfold kfind at h
    split at h
    · next hj => cases h; exact hj ▸ List.mem_cons_self ..
    · exact List.mem_cons_of_mem _ (ih h)

/-- A map of the values reads as the map of what stood there. -/
theorem kfind_map (f : α → β) (m : KMap α) (k : Nat) : kfind (m.map fun e => (e.1, f e.2)) k = (kfind m k).map f := by
  induction m with
  | nil => rfl
  | cons e m ih =>
    rw [List.map_cons, kfind, kfind, ih]
    split <;> rfl

theorem kget_filter_of_pos {d : α} {m : KMap α} {p : Nat → Bool} {a : Nat} (h : p a = true) :
    kget d (m.filter fun e => p e.1) a = kget d m a := by
  rw [kget, kfind_filter, if_pos h, kget]

theorem kget_filter_of_neg {d : α} {m : KMap α} {p : Nat → Bool} {a : Nat} (h : p a = false) :
    kget d (m.filter fun e => p e.1) a = d := by
  rw [kget, kfind_filter, h]
  rfl

variable [DecidableEq α]

/-- In the canonical form every key lies above the bound. -/
theorem lt_of_mem_kwfFrom {d : α} {m : KMap α} {l : Nat} (h : kwfFrom d (some l) m = true) {e : Nat × α} (he : e ∈ m) : l < e.1 := by
  induction m generalizing l with
  | nil => cases he
  | cons q m ih =>
    obtain ⟨j, w⟩ := q
    simp only [kwfFrom, Bool.and_eq_true, decide_eq_true_eq] at h
    obtain ⟨⟨hlj, -⟩, hm⟩ := h
    rcases List.mem_cons.mp he with rfl | he
    · exact hlj
    · exact hlj.trans (ih hm he)

/-- In the canonical form every entry is the one its key reads. -/
theorem kget_of_mem {d : α} {m : KMap α} {lo : Option Nat} (h : kwfFrom d lo m = true) {e : Nat × α} (he : e ∈ m) : kget d m e.1 = e.2 := by
  induction m generalizing lo with
  | nil => cases he
  | cons q m ih =>
    obtain ⟨j, w⟩ := q
    simp only [kwfFrom, Bool.and_eq_true] at h
    obtain ⟨-, hm⟩ := h
    unfold kget kfind
    rcases List.mem_cons.mp he with rfl | he
    · rw [if_pos rfl]
      rfl
    · rw [if_neg (Nat.ne_of_lt (lt_of_mem_kwfFrom hm he))]
      exact ih hm he

/-- After a run of writes a key reads what one of the writes to it has put there, and as before where none went to it. -/
theorem kget_foldl_kset_cases (d : α) (key : β → Nat) (val : β → α) (l : List β) (m : KMap α) (a : Nat) :
    (∃ e ∈ l, key e = a ∧ kget d (l.foldl (fun m e => kset d m (key e) (val e)) m) a = val e) ∨
      ((∀ e ∈ l, key e ≠ a) ∧ kget d (l.foldl (fun m e => kset d m (key e) (val e)) m) a = kget d m a) := by
  induction l generalizing m with
  | nil => exact .inr ⟨fun _ h => absurd h List.not_mem_nil, rfl⟩
  | cons q l ih =>
    rcases ih (kset d m (key q) (val q)) with ⟨e, he, hk, hv⟩ | ⟨hne, hv⟩
    · exact .inl ⟨e, List.mem_cons_of_mem _ he, hk, hv⟩
    · rw [kget_kset] at hv
      by_cases hq : a = key q
      · rw [if_pos hq] at hv
        exact .inl ⟨q, List.mem_cons_self .., hq.symm, hv⟩
      · rw [if_neg hq] at hv
        refine .inr ⟨fun e he => ?_, hv⟩
        rcases List.mem_cons.mp he with rfl | he
        · exact fun h => hq h.symm
        · exact hne e he

end Maps

/-! ### The bytes of a granule that moves (R248) -/

/-- Where a byte of a granule stands once the granule has moved to granule `h`. -/
def movedTo (h a : Nat) : Nat := h * 524288 + a % 524288

theorem movedTo_div (h a : Nat) : movedTo h a / 524288 = h := by unfold movedTo; omega

theorem movedTo_mod (h a : Nat) : movedTo h a % 524288 = a % 524288 := by unfold movedTo; omega

/-- The stack of an address depends on its place within the granule alone. -/
theorem paStack_eq_of_mod {a c : Nat} (h : a % 524288 = c % 524288) : paStack a = paStack c := by
  have h1 : fld a 14 12 = fld c 14 12 := by simp only [fld, Nat.shiftRight_eq_div_pow]; omega
  have h2 : fld a 17 15 = fld c 17 15 := by simp only [fld, Nat.shiftRight_eq_div_pow]; omega
  rw [paStack, paStack, h1, h2]

theorem inGranule_iff {b g a : Nat} : inGranule b g a = true ↔ a / 524288 = g ∧ paStack a = b := decide_eq_true_iff

theorem inGranule_movedTo {b g h a : Nat} (ha : inGranule b g a = true) : inGranule b h (movedTo h a) = true :=
  inGranule_iff.mpr ⟨movedTo_div h a, (paStack_eq_of_mod (movedTo_mod h a)).trans (inGranule_iff.mp ha).2⟩

/-- Within a granule no two bytes move to one place. -/
theorem movedTo_inj {b g h a c : Nat} (ha : inGranule b g a = true) (hc : inGranule b g c = true) (he : movedTo h a = movedTo h c) : a = c := by
  obtain ⟨ha, -⟩ := inGranule_iff.mp ha
  obtain ⟨hc, -⟩ := inGranule_iff.mp hc
  have hm : a % 524288 = c % 524288 := by rw [← movedTo_mod h a, he, movedTo_mod]
  omega

section Move

variable {s : State} {b g h a : Nat}

/-- What granule `g` of a stack does not hold, and its granule `h` does not. -/
def elsewhere (s : State) (b g h : Nat) : KMap Byte :=
  (s.sm.mem.base.filter fun e => !inGranule b g e.1).filter fun e => !inGranule b h e.1

theorem moveGranule_base (s : State) (b g h : Nat) : (moveGranule s b g h).sm.mem.base =
    (s.sm.mem.base.filter fun e => inGranule b g e.1).foldl (fun m e => kset 0 m (movedTo h e.1) e.2) (elsewhere s b g h) := rfl

theorem kget_moveGranule_moved (hw : MemoryCanonical s) (ha : inGranule b g a = true) :
    kget 0 (moveGranule s b g h).sm.mem.base (movedTo h a) = kget 0 s.sm.mem.base a := by
  rw [moveGranule_base]
  rcases kget_foldl_kset_cases 0 (fun e : Nat × Byte => movedTo h e.1) (·.2) (s.sm.mem.base.filter fun e => inGranule b g e.1)
    (elsewhere s b g h) (movedTo h a) with ⟨e, he, hk, hv⟩ | ⟨hne, hv⟩
  · obtain ⟨hmem, hin⟩ := List.mem_filter.mp he
    rw [hv, ← movedTo_inj hin ha hk]
    exact (kget_of_mem hw hmem).symm
  · have hnone : kfind s.sm.mem.base a = none := by
      cases hf : kfind s.sm.mem.base a with
      | none => rfl
      | some v => exact absurd rfl (hne (a, v) (List.mem_filter.mpr ⟨mem_of_kfind hf, ha⟩))
    rw [hv, elsewhere, kget_filter_of_neg (p := fun i => !inGranule b h i) (by rw [inGranule_movedTo ha]; rfl), kget, hnone]
    rfl

theorem kget_moveGranule_elsewhere (hg : inGranule b g a = false) (hh : inGranule b h a = false) :
    kget 0 (moveGranule s b g h).sm.mem.base a = kget 0 s.sm.mem.base a := by
  rw [moveGranule_base]
  rcases kget_foldl_kset_cases 0 (fun e : Nat × Byte => movedTo h e.1) (·.2) (s.sm.mem.base.filter fun e => inGranule b g e.1)
    (elsewhere s b g h) a with ⟨e, he, rfl, -⟩ | ⟨-, hv⟩
  · rw [inGranule_movedTo (List.mem_filter.mp he).2] at hh
    cases hh
  · rw [hv, elsewhere, kget_filter_of_pos (p := fun i => !inGranule b h i) (by rw [hh]; rfl),
      kget_filter_of_pos (p := fun i => !inGranule b g i) (by rw [hg]; rfl)]

end Move

/-! ### The retirement of a granule (R248) -/

/-- Where no stack has an entry a fence writes nothing out. -/
theorem wcFence_of_empty {s : State} (h : ∀ j < 8, (stackOf s j).wc = []) (sel : WcEntry → Bool) (eccs : List Ecc) : wcFence s sel eccs = s := by
  have key := List.foldlRecOn (motive := fun q => q = (s, eccs)) (List.range 8)
    (fun q b => ((stackOf q.1 b).wc.filter sel).foldl (fenceOut b) q) rfl fun q hq b hb => by
      rw [hq, h b (List.mem_range.mp hb)]
      rfl
  exact congrArg Prod.fst key

/-- A read with no verdict changes nothing but counters of the stacks. -/
theorem checkLines_nil_onlyBuffers (s : State) (pas : List Nat) (src : MemSource) : OnlyBuffers s (checkLines s pas [] src).1 := by
  unfold checkLines
  refine List.foldlRecOn (motive := fun q : State × Option (BitVec 128) => OnlyBuffers s q.1) _ _ (OnlyBuffers.refl s) fun q hq e _ => ?_
  unfold checkLine
  split
  · exact hq.trans (setStack_onlyBuffers _ _ _)
  · exact hq

/-- Granule `g` of stack `b` has been retired into its granule `h`, the spare granule `k`, for the command of sequence `seq`. -/
structure Retired (s t : State) (b g h k seq : Nat) : Prop where
  entry : kfind t.store.retired (granKey b g) = some k
  record : StoreWrite.retire b g k (some seq) ∈ t.store.writing
  steps : t.steps = s.steps
  ctxs : t.ctxs = s.ctxs
  retiring : t.sm.retiring = s.sm.retiring
  moved : ∀ a, inGranule b g a = true → kget 0 t.sm.mem.base (movedTo h a) = kget 0 s.sm.mem.base a
  elsewhere : ∀ a, inGranule b g a = false → inGranule b h a = false → kget 0 t.sm.mem.base a = kget 0 s.sm.mem.base a

/-- The redirection of a granule to its spare granule, with the record on its way to the model store. -/
def redirected (s : State) (b g k seq : Nat) : State :=
  storeWrite { s with store := { s.store with retired := kput s.store.retired (granKey b g) k } } (.retire b g k (some seq))

theorem redirected_frame (s : State) (b g k seq : Nat) : Frame [.store] s (redirected s b g k seq) :=
  (storeWrite_frame _ _).after (by decide) (.upd rfl (.refl _ s))

theorem moveGranule_redirected_retired {s : State} (b g h k seq : Nat) (hw : MemoryCanonical s) :
    Retired s (redirected (moveGranule s b g h) b g k seq) b g h k seq := by
  have hr := redirected_frame (moveGranule s b g h) b g k seq
  have hsm := hr.sm_eq (by decide) (by decide)
  constructor
  case entry => exact kfind_kput_self _ _ _
  case record => exact List.mem_append_right _ (List.mem_singleton_self _)
  case steps => exact hr .steps (by decide)
  case ctxs => exact hr .ctxs (by decide)
  case retiring => exact (congrArg Stacked.retiring hsm :)
  case moved => intro a ha; rw [hsm]; exact kget_moveGranule_moved hw ha
  case elsewhere => intro a hg hh; rw [hsm]; exact kget_moveGranule_elsewhere hg hh

theorem mem_of_onlyBuffers {s t : State} (h : OnlyBuffers s t) : t.sm.mem = s.sm.mem := by rw [h]

theorem canonical_of_onlyBuffers {s t : State} (h : OnlyBuffers s t) (hw : MemoryCanonical s) : MemoryCanonical t := by
  rw [MemoryCanonical, mem_of_onlyBuffers h]
  exact hw

/-- A retirement after reads that changed nothing but buffers of the stacks. -/
theorem Retired.of_onlyBuffers {s u t : State} {b g h k seq : Nat} (hu : OnlyBuffers s u) (hr : Retired u t b g h k seq) :
    Retired s t b g h k seq := by
  obtain ⟨hentry, hrecord, hsteps, hctxs, hretiring, hmoved, helse⟩ := hr
  rw [mem_of_onlyBuffers hu] at hmoved helse
  exact ⟨hentry, hrecord, hsteps.trans (by rw [hu]), hctxs.trans (by rw [hu]), hretiring.trans (by rw [hu]), hmoved, helse⟩

/-- A retirement in which nothing is written out and every line is read moves the granule and redirects it. -/
theorem retireGranule_eq {s : State} (b g k seq : Nat) (hwc : ∀ j < 8, (stackOf s j).wc = []) :
    retireGranule s b g k seq [] [] =
      redirected (moveGranule (checkLines s (granuleLines b g) [] .command).1 b g (spareFirst + k)) b g k seq := by
  unfold retireGranule
  rw [wcFence_of_empty hwc]
  rfl

theorem retireGranule_retired {s : State} (b g k seq : Nat) (hwc : ∀ j < 8, (stackOf s j).wc = []) (hw : MemoryCanonical s) :
    Retired s (retireGranule s b g k seq [] []) b g (spareFirst + k) k seq := by
  have hread := checkLines_nil_onlyBuffers s (granuleLines b g) .command
  rw [retireGranule_eq b g k seq hwc]
  exact Retired.of_onlyBuffers hread (moveGranule_redirected_retired b g (spareFirst + k) k seq (canonical_of_onlyBuffers hread hw))

/-- The spare granules in use stand in the model store. -/
theorem freeSpare_eq_of_store {s t : State} (h : t.store = s.store) (b : Nat) : freeSpare t b = freeSpare s b := by
  unfold freeSpare
  rw [h]

theorem stackOf_eq_of_sm {s t : State} (h : t.sm = s.sm) (b : Nat) : stackOf t b = stackOf s b := by rw [stackOf, h, stackOf]

theorem canonical_of_sm {s t : State} (h : t.sm = s.sm) (hw : MemoryCanonical s) : MemoryCanonical t := by rw [MemoryCanonical, h]; exact hw

section Retirement

variable {s : State} {b g k : Nat}

/-- PAGE_RETIRE of a granule that nothing owns, with a spare granule free. -/
theorem execPageRetire_of_unowned {c : Cmd} (hc : Current s .admin 0x0090 c) (hb : b = c.fld 290 288) (hg : g = c.fld 309 291)
    (hr : kfind s.store.retired (granKey b g) = none) (hs : g < spareFirst) (hf : freeSpare s b = some k) (ho : frameOwner s (g / 4) = none) :
    exec (.pageRetire .admin [] []) s = .next (retireGranule (acceptCmd s .admin c.seq) b g k c.seq [] []) := by
  obtain ⟨hcur, -, -⟩ := hc
  subst hb hg
  show execPageRetire .admin [] s [] = _
  unfold execPageRetire withCmd
  rw [hcur]
  dsimp only
  rw [hr, if_neg (by rintro (h | h); exacts [Bool.false_ne_true h, Nat.not_le.mpr hs h]), hf]
  dsimp only
  rw [ho]

theorem ownerBusy_eq_false {n : Option Nat} (h : ∀ m, n = some m → ctxBusy s m = false) :
    (match (generalizing := false) n with | some n => ctxBusy s n | none => false) = false := by
  cases n with
  | none => rfl
  | some m => exact h m rfl

/-- RETIREMENT_COPY of a pending retirement that nothing holds up, with a spare granule free. -/
theorem execRetirementCopy_of_pending {n : Option Nat} {e : Nat × Nat × Nat} (hp : pendingRetire s b g = some (n, e))
    (hbusy : ∀ m, n = some m → ctxBusy s m = false) (hwork : higherWork s b 4 = false) (hr : kfind s.store.retired (granKey b g) = none)
    (hf : freeSpare s b = some k) :
    exec (.retirementCopy b g [] []) s = .next (retireGranule (dropRetire s n e) b g k e.2.2 [] []) := by
  have hstore : (dropRetire s n e).store = s.store := by
    cases n with
    | none => rfl
    | some m => exact updCtx_frame s m _ .store (by decide)
  have hfree : freeSpare (dropRetire s n e) b = some k := (freeSpare_eq_of_store hstore b).trans hf
  show execRetirementCopy b g [] s [] = _
  unfold execRetirementCopy
  rw [hp]
  dsimp only
  refine (if_neg (ne_true_of_eq_false (Bool.or_eq_false_iff.mpr ⟨ownerBusy_eq_false hbusy, hwork⟩))).trans ?_
  rw [hstore, hr, Option.isSome_none, if_neg Bool.false_ne_true, hfree]

theorem dropRetire_keeps (s : State) (n : Option Nat) (e : Nat × Nat × Nat) :
    (dropRetire s n e).sm.mem = s.sm.mem ∧ (dropRetire s n e).sm.stk = s.sm.stk ∧ (dropRetire s n e).steps = s.steps := by
  cases n with
  | none => exact ⟨rfl, rfl, rfl⟩
  | some m =>
    have hf : Frame [.ctxs] s (dropRetire s (some m) e) := updCtx_frame s m _
    have hsm := hf.sm_eq (by decide) (by decide)
    exact ⟨congrArg Stacked.mem hsm, congrArg Stacked.stk hsm, hf .steps (by decide)⟩

theorem pageRetire_settled {c : Cmd} (hc : Current s .admin 0x0090 c) (hb : b = c.fld 290 288) (hg : g = c.fld 309 291)
    (hr : kfind s.store.retired (granKey b g) = none) (hs : g < spareFirst) (hf : freeSpare s b = some k) (ho : frameOwner s (g / 4) = none)
    (hwc : ∀ j < 8, (stackOf s j).wc = []) (hw : MemoryCanonical s) :
    ∃ t, exec (.pageRetire .admin [] []) s = .next t ∧ kfind t.store.retired (granKey b g) = some k ∧
      StoreWrite.retire b g k (some c.seq) ∈ t.store.writing ∧ t.steps = s.steps ∧
      (∀ a, inGranule b g a = true → kget 0 t.sm.mem.base ((spareFirst + k) * 524288 + a % 524288) = kget 0 s.sm.mem.base a) ∧
      (∀ a, inGranule b g a = false → inGranule b (spareFirst + k) a = false → kget 0 t.sm.mem.base a = kget 0 s.sm.mem.base a) := by
  have ha := acceptCmd_frame s .admin c.seq
  have hsm := ha.sm_eq (by decide) (by decide)
  obtain ⟨hentry, hrecord, hsteps, -, -, hmoved, helse⟩ := retireGranule_retired b g k c.seq
    (fun j hj => (congrArg Stack.wc (stackOf_eq_of_sm hsm j)).trans (hwc j hj)) (canonical_of_sm hsm hw)
  rw [hsm] at hmoved helse
  exact ⟨_, execPageRetire_of_unowned hc hb hg hr hs hf ho, hentry, hrecord, hsteps.trans (ha .steps (by decide)), hmoved, helse⟩

theorem retirementCopy_settled {n : Option Nat} {e : Nat × Nat × Nat} (hp : pendingRetire s b g = some (n, e))
    (hbusy : ∀ m, n = some m → ctxBusy s m = false) (hwork : higherWork s b 4 = false) (hr : kfind s.store.retired (granKey b g) = none)
    (hf : freeSpare s b = some k) (hwc : ∀ j < 8, (stackOf s j).wc = []) (hw : MemoryCanonical s) :
    ∃ t, exec (.retirementCopy b g [] []) s = .next t ∧ kfind t.store.retired (granKey b g) = some k ∧
      StoreWrite.retire b g k (some e.2.2) ∈ t.store.writing ∧
      (∀ m x, n = some m → ctxOf s m = some x → ∃ x', ctxOf t m = some x' ∧ x'.retiring = x.retiring.erase e) ∧
      (n = none → t.sm.retiring = s.sm.retiring.erase e) ∧ t.steps = s.steps ∧
      (∀ a, inGranule b g a = true → kget 0 t.sm.mem.base ((spareFirst + k) * 524288 + a % 524288) = kget 0 s.sm.mem.base a) := by
  obtain ⟨hmem, hstk, hdrop⟩ := dropRetire_keeps s n e
  obtain ⟨hentry, hrecord, hsteps, hctxs, hretiring, hmoved, -⟩ := retireGranule_retired (s := dropRetire s n e) b g k e.2.2
    (fun j hj => by rw [stackOf, hstk]; exact hwc j hj) (by rw [MemoryCanonical, hmem]; exact hw)
  rw [hmem] at hmoved
  refine ⟨_, execRetirementCopy_of_pending hp hbusy hwork hr hf, hentry, hrecord, ?_, ?_, hsteps.trans hdrop, hmoved⟩
  · rintro m x rfl hx
    refine ⟨{ x with retiring := x.retiring.erase e }, ?_, rfl⟩
    rw [ctxOf, hctxs]
    exact (ctxOf_updCtx s m m _).trans (by rw [if_pos rfl, hx]; rfl)
  · rintro rfl
    exact hretiring

end Retirement

/-! ### Lines that the bearings write (R237, R240, R252) -/

theorem wcOut_of_plain {s : State} {b : Nat} {e : WcEntry} (h : e.plain = true) (v : Ecc) :
    wcOut s b e v = cleanCws (wcDrop s b e.line) (((List.range 4).filter e.full).map (e.line * 4 + ·)) := by
  unfold wcOut
  rw [if_pos h]

/-- One verdict without fault on a line that is not poisoned. -/
theorem checkLines_ok {s : State} {pa : Nat} (h : linePoisoned s pa = false) (src : MemSource) : checkLines s [pa] [.ok] src = (s, none) := by
  show checkLine [.ok] src (s, none) (0, pa) = _
  unfold checkLine
  rw [h]
  rfl

theorem wcOut_of_ok {s : State} {b : Nat} {e : WcEntry} (h : e.plain = false) (hp : linePoisoned s (e.line * 128) = false) :
    wcOut s b e .ok = wcDrop s b e.line := by
  have hd : linePoisoned (wcDrop s b e.line) (e.line * 128) = false := hp
  unfold wcOut
  dsimp only
  rw [if_neg (by rw [h]; exact Bool.false_ne_true), show Ecc.alone .ok = .ok from rfl, checkLines_ok hd]

theorem line_of_find {l : List WcEntry} {line : Nat} {e : WcEntry} (h : (l.find? fun e => decide (e.line = line)) = some e) : e.line = line := by
  have hp := List.find?_some h
  exact of_decide_eq_true hp

/-- An entry taken out of the buffer of its stack leaves none of its line. -/
theorem line_ne_of_mem_wcDrop {s : State} {b line : Nat} {d : WcEntry} (h : d ∈ (stackOf (wcDrop s b line) b).wc) : d.line ≠ line := by
  rw [wcDrop, stackOf_setStack, if_pos rfl] at h
  exact of_decide_eq_true (List.mem_filter.mp h).2

/-- A plain write of some codewords cleans them alone. -/
theorem mem_poison_cleanCws {s : State} {cs : List Nat} {w : Nat} : w ∈ (cleanCws s cs).sm.poison ↔ w ∈ s.sm.poison ∧ w ∉ cs := by
  show w ∈ s.sm.poison.filter _ ↔ _
  rw [List.mem_filter]
  simp

theorem mem_fullCws {e : WcEntry} {w : Nat} :
    w ∈ ((List.range 4).filter e.full).map (e.line * 4 + ·) ↔ ∃ i < 4, e.full i = true ∧ w = 4 * e.line + i := by
  simp only [List.mem_map, List.mem_filter, List.mem_range]
  constructor
  · rintro ⟨i, ⟨hi, hf⟩, rfl⟩
    exact ⟨i, hi, hf, by omega⟩
  · rintro ⟨i, hi, hf, rfl⟩
    exact ⟨i, ⟨hi, hf⟩, by omega⟩

section Lines

variable {s : State} {b line : Nat}

theorem execWriteCombiningIdleFlush_of_entry {e : WcEntry} (hf : s.boot.fatal = false)
    (he : ((stackOf s b).wc.find? fun e => decide (e.line = line)) = some e) (v : Ecc) :
    exec (.writeCombiningIdleFlush b line v) s = .next (wcOut s b e v) := by
  show execWriteCombiningIdleFlush b line v s = _
  unfold execWriteCombiningIdleFlush
  rw [he]
  dsimp only
  rw [hf, if_neg Bool.false_ne_true]

theorem idleFlush_plain {e : WcEntry} (hf : s.boot.fatal = false) (he : ((stackOf s b).wc.find? fun e => decide (e.line = line)) = some e)
    (hp : e.plain = true) (v : Ecc) :
    ∃ t, exec (.writeCombiningIdleFlush b line v) s = .next t ∧ (∀ d ∈ (stackOf t b).wc, d.line ≠ line) ∧ t = { s with sm := t.sm } ∧
      t.sm.mem = s.sm.mem ∧ (∀ w, w ∈ t.sm.poison ↔ w ∈ s.sm.poison ∧ ¬ ∃ i < 4, e.full i = true ∧ w = 4 * line + i) := by
  obtain rfl := line_of_find he
  refine ⟨_, execWriteCombiningIdleFlush_of_entry hf he v, ?_⟩
  rw [wcOut_of_plain hp]
  exact ⟨fun _ => line_ne_of_mem_wcDrop, rfl, rfl, fun w => mem_poison_cleanCws.trans (and_congr_right' (not_congr mem_fullCws))⟩

theorem idleFlush_merged {e : WcEntry} (hf : s.boot.fatal = false) (he : ((stackOf s b).wc.find? fun e => decide (e.line = line)) = some e)
    (hp : e.plain = false) (hl : linePoisoned s (line * 128) = false) :
    ∃ t, exec (.writeCombiningIdleFlush b line .ok) s = .next t ∧ (∀ d ∈ (stackOf t b).wc, d.line ≠ line) ∧ t = { s with sm := t.sm } ∧
      t.sm.mem = s.sm.mem ∧ t.sm.poison = s.sm.poison := by
  obtain rfl := line_of_find he
  refine ⟨_, execWriteCombiningIdleFlush_of_entry hf he .ok, ?_⟩
  rw [wcOut_of_ok hp hl]
  exact ⟨fun _ => line_ne_of_mem_wcDrop, rfl, rfl, rfl⟩

theorem execCorrectedRewrite_of_owed (hf : s.boot.fatal = false) (h : ((stackOf s b).rewrites.any fun q => decide (q.1 = line)) = true) :
    exec (.correctedRewrite b line) s =
      .next (setStack s b { stackOf s b with rewrites := (stackOf s b).rewrites.filter fun q => decide (q.1 ≠ line) }) :=
  if_pos (by rw [hf, h]; rfl)

theorem execRefresh_of_powered (hf : s.boot.fatal = false) (h : s.boot.powered = true) :
    exec (.refresh b) s =
      .next (setStack s b { stackOf s b with refreshes := min max64 ((stackOf s b).refreshes + 1), fast := (stackOf s b).hot }) :=
  congrArg Host.Outcome.next (if_pos (by rw [hf, h]; rfl))

end Lines

/-! ### Patrol scrubbing (R241) -/

/-- A memory event counts on its stack and changes nothing else there. -/
theorem stackOf_noteMem (s : State) (event pa sym cw : Nat) (ms : MemSource) : stackOf (noteMem s event pa ms sym cw).1 (paStack pa) =
    { stackOf s (paStack pa) with
      eventCounts := kset 0 (stackOf s (paStack pa)).eventCounts event (satAdd max32 (kget 0 (stackOf s (paStack pa)).eventCounts event) 1) } := by
  rw [noteMem, stackOf_setStack, if_pos rfl]

theorem stackOf_logMem (s : State) (event pa sym cw : Nat) (ms : MemSource) :
    stackOf (logMem s event pa ms sym cw).1 (paStack pa) = stackOf (noteMem s event pa ms sym cw).1 (paStack pa) :=
  stackOf_eq_of_sm ((logErr_frame _ _ _ _).sm_eq (by decide) (by decide)) _

/-- The record of a fresh uncorrectable codeword leaves stacked memory as its poison and its count do. -/
theorem sm_noteUncorrectable (s : State) (pa cw : Nat) (src : MemSource) :
    (noteUncorrectable s pa cw src).1.sm = (noteMem (poisonLine s pa) 2 pa src 63 cw).1.sm := by
  have hlog : (logMem (poisonLine s pa) 2 pa src 63 cw).1.sm = (noteMem (poisonLine s pa) 2 pa src 63 cw).1.sm :=
    (logErr_frame _ _ _ _).sm_eq (by decide) (by decide)
  unfold noteUncorrectable
  dsimp only
  split
  · exact ((sendVector_frame _ _).sm_eq (by decide) (by decide)).trans hlog
  · exact hlog

theorem checkLines_fresh_uncorrectable {s : State} {pa : Nat} (h : linePoisoned s pa = false) (cw : Nat) (src : MemSource) :
    checkLines s [pa] [.uncorrectable 0 cw] src =
      ((noteUncorrectable s pa cw src).1, some (noteUncorrectable s pa cw src).2) := by
  show checkLine [.uncorrectable 0 cw] src (s, none) (0, pa) = _
  unfold checkLine
  rw [h]
  rfl

section Scrub

variable {s : State} {line : Nat}

/-- The state in which a scrub of a line leaves its stack's patrol. -/
def patrolled (s : State) (line : Nat) : State :=
  setStack s (paStack (line * 128)) { stackOf s (paStack (line * 128)) with patrol := line + 1 }

theorem stackOf_patrolled : stackOf (patrolled s line) (paStack (line * 128)) = { stackOf s (paStack (line * 128)) with patrol := line + 1 } := by
  rw [patrolled, stackOf_setStack, if_pos rfl]

variable (hf : s.boot.fatal = false) (hi : inStructures (line * 128) = false) (hl : linePoisoned s (line * 128) = false)
  (hw : higherWork s (paStack (line * 128)) 7 = false)

include hf hi hl hw

theorem execPatrolScrub_ok (tw : Bool) : exec (.patrolScrub (paStack (line * 128)) line .ok tw) s = .next (patrolled s line) := by
  have hp : linePoisoned (patrolled s line) (line * 128) = false := hl
  show execPatrolScrub _ line .ok tw s = _
  unfold execPatrolScrub
  dsimp only
  rw [if_neg (by rw [hf, hw]; simp), if_neg (by rw [hi]; exact Bool.false_ne_true), show Ecc.alone .ok = .ok from rfl,
    show setStack s (paStack (line * 128)) _ = patrolled s line from rfl, checkLines_ok hp]

theorem patrolScrub_uncorrectable (tw : Bool) (cw : Nat) :
    ∃ t, exec (.patrolScrub (paStack (line * 128)) line (.uncorrectable 0 cw) tw) s = .next t ∧
      t.sm = (noteMem (poisonLine (patrolled s line) (line * 128)) 2 (line * 128) .patrol 63 cw).1.sm := by
  have hp : linePoisoned (patrolled s line) (line * 128) = false := hl
  have hsm := sm_noteUncorrectable (patrolled s line) (line * 128) cw .patrol
  show ∃ t, execPatrolScrub _ line (.uncorrectable 0 cw) tw s = .next t ∧ _
  unfold execPatrolScrub
  dsimp only
  rw [if_neg (by rw [hf, hw]; simp), if_neg (by rw [hi]; exact Bool.false_ne_true),
    show Ecc.alone (.uncorrectable 0 cw) = .uncorrectable 0 cw from rfl, show setStack s (paStack (line * 128)) _ = patrolled s line from rfl,
    checkLines_fresh_uncorrectable hp]
  dsimp only
  split
  · refine ⟨_, rfl, ?_⟩
    split
    · exact ((postEvent_frame _ _ _).sm_eq (by decide) (by decide)).trans hsm
    · exact hsm
  · exact ⟨_, rfl, hsm⟩

end Scrub

/-! ### The end of every step (R362) -/

theorem steps_replyStep (s : State) (x : Step) (y : Reply) : (replyStep s x y).steps = s.steps.filter fun z => decide (z.id ≠ x.id) := by
  have hstop (t : State) : (stoppingEnd (dropStep t x.id) x.ctx).steps = t.steps.filter fun z => decide (z.id ≠ x.id) :=
    stoppingEnd_frame _ _ .steps (by decide)
  have hend (t : State) (y : Reply) : (endCmd (bookStep t x) (.ctx x.ctx) x.seq y).steps = t.steps :=
    Eq.trans (endCmd_frame (bookStep t x) _ _ _ .steps (by decide)) (bookStep_frame t x .steps (by decide))
  unfold replyStep
  dsimp only
  rw [hstop, hend]
  split
  · rw [writeResult_frame _ _ _ _ .steps (by decide)]
  · rfl

/-- The part of the end of a step before its reply. -/
def unclaimed (s : State) (x : Step) (status : Nat) : State :=
  let s := bookFiller s x
  let s := if x.state.live ∨ x.state = .hold then openWrites { learnKill (slopeChange s) x with pm := dropDies s.pm x.id } x else s
  let s := if status = stArithTrap then noteSums s x else s
  dropFlight s x

theorem endStep_eq (s : State) (x : Step) (y : Reply) :
    endStep s x y = replyStep (wcRelease (unclaimed s x y.status) x.id) (x.ended y.status) y := rfl

theorem unclaimed_frame (s : State) (x : Step) (status : Nat) : Frame [.host, .ctxs, .pm, .mem, .slory, .power, .free] s (unclaimed s x status) := by
  have hopen : Frame [.host, .ctxs, .pm, .mem, .slory, .power, .free] s
      (if x.state.live ∨ x.state = .hold then
          openWrites { learnKill (slopeChange (bookFiller s x)) x with pm := dropDies (bookFiller s x).pm x.id } x
        else bookFiller s x) := by
    have hbook := (bookFiller_frame s x).mono (m := [.host, .ctxs, .pm, .mem, .slory, .power, .free]) (by decide)
    split
    · refine (openWrites_frame _ _).after (by decide) (.upd rfl ?_)
      exact (learnKill_frame _ _).after (by decide) ((slopeChange_frame _).after (by decide) hbook)
    · exact hbook
  unfold unclaimed
  refine (dropFlight_frame _ _).after (by decide) ?_
  dsimp only
  split
  · exact (noteSums_frame _ _).after (by decide) hopen
  · exact hopen

theorem steps_endStep (s : State) (x : Step) (y : Reply) : (endStep s x y).steps = s.steps.filter fun z => decide (z.id ≠ x.id) := by
  rw [endStep_eq, steps_replyStep, ended_id]
  exact congrArg _ (unclaimed_frame s x y.status .steps (by decide))

theorem stk_eq_of_frame {l : List Part} {s t : State} (h : Frame l s t) (hs : Part.sm ∉ l) : t.sm.stk = s.sm.stk := by
  have hsm : { t.sm with mem := s.sm.mem } = s.sm := h .sm hs
  exact (congrArg Stacked.stk hsm :)

theorem lost_eq_of_frame {l : List Part} {s t : State} (h : Frame l s t) (hs : Part.sm ∉ l) (b : Nat) :
    (stackOf t b).lost = (stackOf s b).lost := by rw [stackOf, stk_eq_of_frame h hs, stackOf]

/-- A stack whose entries of step `st` are held by no step. -/
def released (st : Nat) (k : Stack) : Stack := { k with wc := k.wc.map fun e => if e.step = some st then { e with step := none } else e }

theorem lost_wcRelease (s : State) (st b : Nat) : (stackOf (wcRelease s st) b).lost = (stackOf s b).lost := by
  have hmap := kfind_map (released st) s.sm.stk b
  show ((kfind (s.sm.stk.map fun e => (e.1, released st e.2)) b).getD {}).lost = ((kfind s.sm.stk b).getD {}).lost
  rw [hmap]
  cases kfind s.sm.stk b with
  | none => rfl
  | some k => rfl

theorem lost_endStep (s : State) (x : Step) (y : Reply) (b : Nat) : (stackOf (endStep s x y) b).lost = (stackOf s b).lost := by
  rw [endStep_eq, lost_eq_of_frame (replyStep_frame _ _ _) (by decide), lost_wcRelease, lost_eq_of_frame (unclaimed_frame _ _ _) (by decide)]

/-- The end of one step of a module that becomes device-fatal. -/
def fatalStep (s : State) (x : Step) : State :=
  if x.state = .committed then replyStep s x { status := stDeviceFatal, committed := true } else endStep s x (plain stDeviceFatal)

theorem fatalSteps_eq (s : State) : fatalSteps s = s.steps.foldl fatalStep s := rfl

theorem steps_fatalStep (s : State) (x : Step) : (fatalStep s x).steps = s.steps.filter fun z => decide (z.id ≠ x.id) := by
  unfold fatalStep
  split
  · exact steps_replyStep _ _ _
  · exact steps_endStep _ _ _

theorem lost_fatalStep (s : State) (x : Step) (b : Nat) : (stackOf (fatalStep s x) b).lost = (stackOf s b).lost := by
  unfold fatalStep
  split
  · exact lost_eq_of_frame (replyStep_frame _ _ _) (by decide) b
  · exact lost_endStep _ _ _ b

/-- The steps that have ended are gone, and no step is new. -/
theorem mem_steps_foldl_fatalStep {l : List Step} {s : State} {z : Step} (h : z ∈ (l.foldl fatalStep s).steps) :
    z ∈ s.steps ∧ ∀ x ∈ l, z.id ≠ x.id := by
  induction l generalizing s with
  | nil => exact ⟨h, fun _ hx => absurd hx List.not_mem_nil⟩
  | cons x l ih =>
    obtain ⟨hz, hl⟩ := ih h
    rw [steps_fatalStep] at hz
    obtain ⟨hz, hx⟩ := List.mem_filter.mp hz
    exact ⟨hz, List.forall_mem_cons.mpr ⟨of_decide_eq_true hx, hl⟩⟩

theorem steps_fatalSteps (s : State) : (fatalSteps s).steps = [] := by
  refine List.eq_nil_iff_forall_not_mem.mpr fun z hz => ?_
  obtain ⟨hz, hne⟩ := mem_steps_foldl_fatalStep (fatalSteps_eq s ▸ hz)
  exact hne z hz rfl

theorem lost_fatalSteps (s : State) (b : Nat) : (stackOf (fatalSteps s) b).lost = (stackOf s b).lost :=
  List.foldlRecOn (motive := fun u => (stackOf u b).lost = (stackOf s b).lost) s.steps fatalStep rfl fun u hu x _ => (lost_fatalStep u x b).trans hu

/-! ### The device-fatal module and a lost stack (R247, R426) -/

/-- The module becomes device-fatal: no step is left, and what the stacks and the model store say is lost stays. -/
structure WentFatal (s t : State) : Prop where
  fatal : t.boot.fatal = true
  steps : t.steps = []
  lost : ∀ b, (stackOf t b).lost = (stackOf s b).lost
  lostStacks : t.store.lostStacks = s.store.lostStacks

/-- What follows the end of the steps: rings, ports and messages. -/
def afterSteps (s : State) (code : Nat) (detail : BitVec 128) : State :=
  let s := (s.rings.map fun q => RingId.ctx q.1).foldl fatalRing (fatalRing s .admin)
  emit (emit (emit (idlePorts s) .viral) (.faultN true)) (.pldmEvent code detail)

theorem afterSteps_frame (s : State) (code : Nat) (detail : BitVec 128) :
    Frame [.msix, .host, .admin, .rings, .ctxs, .ports, .power, .free, .out] s (afterSteps s code detail) := by
  unfold afterSteps
  dsimp only
  refine (emit_frame _ _).after (by decide) ((emit_frame _ _).after (by decide) ((emit_frame _ _).after (by decide) ?_))
  refine (idlePorts_frame _).after (by decide) (Frame.foldl _ _ (fun _ _ => (fatalRing_frame _ _).mono (by decide)) ?_)
  exact (fatalRing_frame _ _).mono (by decide)

/-- A module that becomes device-fatal is marked so first; then its steps end. -/
theorem becomeFatal_eq_afterSteps {s : State} (h : s.boot.fatal = false) (code : Nat) (ctx : Option Nat) (detail : BitVec 128) :
    ∃ u, becomeFatal s code ctx detail = afterSteps (fatalSteps u) code detail ∧ u.boot.fatal = true ∧ u.sm = s.sm ∧
      u.store.lostStacks = s.store.lostStacks := by
  unfold becomeFatal
  rw [if_neg (by rw [h]; exact Bool.false_ne_true)]
  refine ⟨raiseVector _ 257, rfl, ?_⟩
  exact ⟨Eq.trans (congrArg Boot.fatal (raiseVector_frame _ 257 .boot (by decide))) rfl,
    (raiseVector_frame _ 257).sm_eq (by decide) (by decide),
    Eq.trans (congrArg Store.lostStacks (raiseVector_frame _ 257 .store (by decide) : _ = (_ : State).store)) rfl⟩

theorem becomeFatal_wentFatal {s : State} (h : s.boot.fatal = false) (code : Nat) (ctx : Option Nat) (detail : BitVec 128) :
    WentFatal s (becomeFatal s code ctx detail) := by
  obtain ⟨u, heq, hboot, hsm, hstore⟩ := becomeFatal_eq_afterSteps h code ctx detail
  have hafter := afterSteps_frame (fatalSteps u) code detail
  have hsteps := fatalSteps_frame u
  rw [heq]
  constructor
  case fatal => exact (congrArg Boot.fatal (Eq.trans (hafter .boot (by decide)) (hsteps .boot (by decide)))).trans hboot
  case steps => exact Eq.trans (hafter .steps (by decide)) (steps_fatalSteps u)
  case lost => exact fun b => by rw [lost_eq_of_frame hafter (by decide), lost_fatalSteps, stackOf, hsm, stackOf]
  case lostStacks => exact (congrArg Store.lostStacks (Eq.trans (hafter .store (by decide)) (hsteps .store (by decide)))).trans hstore

theorem logFatal_wentFatal {s : State} (h : s.boot.fatal = false) (code : Nat) (ctx : Option Nat) (detail : BitVec 128) :
    WentFatal s (logFatal s code ctx detail) := by
  have hlog := logErr_frame s code ctx detail
  have hboot : (logErr s code ctx detail).boot.fatal = false := (congrArg Boot.fatal (hlog .boot (by decide))).trans h
  obtain ⟨hfatal, hsteps, hlost, hstacks⟩ := becomeFatal_wentFatal hboot code ctx detail
  exact ⟨hfatal, hsteps, fun b => (hlost b).trans (lost_eq_of_frame hlog (by decide) b),
    hstacks.trans (congrArg Store.lostStacks (hlog .store (by decide)))⟩

/-- A stack declared lost: it is on record, and the module is device-fatal with no step left. -/
structure Lost (t : State) (b : Nat) : Prop where
  lost : (stackOf t b).lost = true
  recorded : b ∈ t.store.lostStacks
  fatal : t.boot.fatal = true
  steps : t.steps = []

theorem loseStack_lost {s : State} (h : s.boot.fatal = false) (b event : Nat) (rec : BitVec 128) : Lost (loseStack s b event rec) b := by
  unfold loseStack
  dsimp only
  generalize hm : ({ setStack s b _ with store := _ } : State) = m
  obtain ⟨hfatal, hsteps, hlost, hstacks⟩ := logFatal_wentFatal (s := m) (by rw [← hm]; exact h) (0x0100 + event)
    (if rec.getLsbD 14 then some ((rec >>> 16).toNat % 256) else none) rec
  refine ⟨?_, ?_, hfatal, hsteps⟩
  · rw [hlost, ← hm]
    show (stackOf (setStack s b _) b).lost = true
    rw [stackOf_setStack, if_pos rfl]
  · rw [hstacks, ← hm]
    show b ∈ if _ then _ else _
    split
    · next hc => exact List.contains_iff_mem.mp hc
    · exact List.mem_append_right _ (List.mem_singleton_self b)

/-! ### Transfers that fail (R246, R247) -/

section Transfers

variable {s : State} {pa src : Nat} (hf : s.boot.fatal = false) (hl : (stackOf s (paStack pa)).lost = false)

/-- The state in which a repeated transfer leaves its stack: one more retry, and the failures in a row. -/
def retried (s : State) (pa n : Nat) : State :=
  setStack s (paStack pa) { stackOf s (paStack pa) with
    retries := satAdd max64 (stackOf s (paStack pa)).retries 1
    parityTry := kset 0 (stackOf s (paStack pa)).parityTry (pa / 128) n }

theorem stackOf_retried (s : State) (pa n : Nat) : stackOf (retried s pa n) (paStack pa) = { stackOf s (paStack pa) with
    retries := satAdd max64 (stackOf s (paStack pa)).retries 1
    parityTry := kset 0 (stackOf s (paStack pa)).parityTry (pa / 128) n } := by
  rw [retried, stackOf_setStack, if_pos rfl]

include hf hl

theorem not_lost_or_fatal : ¬ ((stackOf s (paStack pa)).lost = true ∨ s.boot.fatal = true) := by
  rw [hl, hf]
  simp

theorem parityRetry_succeeds : ∃ t, exec (.parityRetry pa src true) s = .next t ∧ kget 0 (stackOf t (paStack pa)).parityTry (pa / 128) = 0 ∧
    t.steps = s.steps ∧ (stackOf t (paStack pa)).retries = satAdd max64 (stackOf s (paStack pa)).retries 1 := by
  obtain ⟨t, ht, hsteps, m, hm⟩ : ∃ t, exec (.parityRetry pa src true) s = .next t ∧ t.steps = s.steps ∧
      ∃ m, stackOf t (paStack pa) = { stackOf (retried s pa 0) (paStack pa) with eventCounts := m } := by
    refine ⟨if 1 < kget 0 (stackOf s (paStack pa)).parityTry (pa / 128) + 1 then (logMem (retried s pa 0) 3 pa (sourceOf src) 63 0).1
      else retried s pa 0, (if_neg (not_lost_or_fatal hf hl)).trans (if_pos rfl), ?_⟩
    split
    · exact ⟨logMem_frame _ _ _ _ _ _ .steps (by decide), _, (stackOf_logMem _ _ _ _ _ _).trans (stackOf_noteMem _ _ _ _ _ _)⟩
    · exact ⟨rfl, (stackOf (retried s pa 0) (paStack pa)).eventCounts, rfl⟩
  rw [stackOf_retried] at hm
  refine ⟨t, ht, ?_, hsteps, by rw [hm]⟩
  rw [hm]
  show kget 0 (kset 0 _ (pa / 128) 0) (pa / 128) = 0
  rw [kget_kset, if_pos rfl]

theorem parityRetry_fails (h : kget 0 (stackOf s (paStack pa)).parityTry (pa / 128) < 2) :
    ∃ t, exec (.parityRetry pa src false) s = .next t ∧ t = { s with sm := t.sm } ∧
      kget 0 (stackOf t (paStack pa)).parityTry (pa / 128) = kget 0 (stackOf s (paStack pa)).parityTry (pa / 128) + 1 := by
  refine ⟨retried s pa (kget 0 (stackOf s (paStack pa)).parityTry (pa / 128) + 1), ?_, rfl, ?_⟩
  · show execParityRetry pa src false s = _
    unfold execParityRetry
    dsimp only
    rw [if_neg (not_lost_or_fatal hf hl), if_neg Bool.false_ne_true, if_pos (Nat.succ_lt_succ h)]
    rfl
  · rw [stackOf_retried, kget_kset, if_pos rfl]

theorem parityRetry_exhausted (h : kget 0 (stackOf s (paStack pa)).parityTry (pa / 128) = 2) :
    ∃ t, exec (.parityRetry pa src false) s = .next t ∧ Lost t (paStack pa) := by
  refine ⟨_, ?_, loseStack_lost (s := (noteMem (retried s pa 3) 4 pa (sourceOf src) 63 0).1) hf (paStack pa) 4
    (noteMem (retried s pa 3) 4 pa (sourceOf src) 63 0).2⟩
  show execParityRetry pa src false s = _
  unfold execParityRetry
  dsimp only
  rw [if_neg (not_lost_or_fatal hf hl), if_neg Bool.false_ne_true, h, if_neg (by decide)]
  rfl

theorem channelNoResponse_loses : ∃ t, exec (.channelNoResponse pa src) s = .next t ∧ Lost t (paStack pa) :=
  ⟨_, if_neg (not_lost_or_fatal hf hl), loseStack_lost (s := (noteMem s 4 pa (sourceOf src) 63 0).1) hf (paStack pa) 4
    (noteMem s 4 pa (sourceOf src) 63 0).2⟩

end Transfers

/-! ### The obligation -/

/-- What a scrub that meets a fresh uncorrectable codeword leaves. -/
theorem patrolScrub_poisons {s : State} {b line : Nat} (hf : s.boot.fatal = false) (hb : paStack (line * 128) = b)
    (hi : inStructures (line * 128) = false) (hl : linePoisoned s (line * 128) = false) (hw : higherWork s b 7 = false) (tw : Bool) (cw : Nat) :
    ∃ t, exec (.patrolScrub b line (.uncorrectable 0 cw) tw) s = .next t ∧ linePoisoned t (line * 128) = true ∧ t.sm.mem = s.sm.mem ∧
      (stackOf t b).patrol = line + 1 ∧ kget 0 (stackOf t b).eventCounts 2 = satAdd max32 (kget 0 (stackOf s b).eventCounts 2) 1 := by
  subst hb
  obtain ⟨t, ht, hsm⟩ := patrolScrub_uncorrectable hf hi hl hw tw cw
  have hstack := (stackOf_eq_of_sm hsm (paStack (line * 128))).trans (stackOf_noteMem _ _ _ _ _ _)
  have hpoison := linePoisoned_eq_of_poison (s := poisonLine (patrolled s line) (line * 128)) (t := t)
    ((congrArg Stacked.poison hsm :)) (line * 128)
  have hcount : stackOf (poisonLine (patrolled s line) (line * 128)) (paStack (line * 128)) = _ := stackOf_patrolled
  rw [hcount] at hstack
  refine ⟨t, ht, hpoison.trans (linePoisoned_poisonLine _ _), (congrArg Stacked.mem hsm :), by rw [hstack], ?_⟩
  rw [hstack]
  exact (kget_kset ..).trans (if_pos rfl)

/-- Settles O53, by what each row does to its granule, line or stack: a granule that moves keeps its bytes because memory is canonical and
no two of its bytes move to one place; a stack that is lost ends every step. -/
theorem bearingsKeepMemoryWhole : Obligations.BearingsKeepMemoryWhole := by
  unfold Obligations.BearingsKeepMemoryWhole
  refine ⟨?retire, ?copy, ?lines, ?transfers⟩
  case retire =>
    intro s c b g k hc hb hg hr hs hf ho hwc hw
    exact pageRetire_settled hc hb hg hr hs hf ho hwc hw
  case copy =>
    intro s b g k n e hp hbusy hwork hr hf hs hwc hw
    exact retirementCopy_settled hp hbusy hwork hr hf hwc hw
  case lines =>
    intro s b line hf
    refine ⟨fun e he hp v => idleFlush_plain hf he hp v, fun e he hp hl => idleFlush_merged hf he hp hl, execCorrectedRewrite_of_owed hf,
      execRefresh_of_powered hf, fun hb hi hl hw => ⟨fun tw => ?_, patrolScrub_poisons hf hb hi hl hw⟩⟩
    subst hb
    exact execPatrolScrub_ok hf hi hl hw tw
  case transfers =>
    intro s pa src hf hl
    refine ⟨parityRetry_succeeds hf hl, parityRetry_fails hf hl, fun c hc => ?_⟩
    obtain ⟨t, ht, hlost, hrecorded, hfatal, hsteps⟩ : ∃ t, exec c s = .next t ∧ Lost t (paStack pa) := by
      rcases hc with ⟨rfl, h⟩ | rfl
      · exact parityRetry_exhausted hf hl h
      · exact channelNoResponse_loses hf hl
    exact ⟨t, ht, hlost, hrecorded, hfatal, hsteps⟩

end Sys2Proof.Bearings


/-! PROOFS of the port family, the rules its statements share: what each operation on a port makes of it, and what it leaves. -/

namespace Sys2Proof.PortRules

set_option Elab.async false

open Sys2Proof.Machine Sys2Proof.Safety Sys2Proof.Laws

/-! ### Masks of priorities -/

theorem testBit_add_two_pow {m k : Nat} (h : m.testBit k = false) (j : Nat) : (m + 2 ^ k).testBit j = (decide (j = k) || m.testBit j) := by
  rcases Nat.lt_trichotomy j k with hj | rfl | hj
  · rw [Nat.add_comm, Nat.testBit_two_pow_add_gt hj, decide_eq_false (by omega), Bool.false_or]
  · rw [Nat.add_comm, Nat.testBit_two_pow_add_eq, h, decide_eq_true rfl]
    rfl
  · obtain ⟨i, rfl⟩ : ∃ i, j = i + (k + 1) := ⟨j - (k + 1), by omega⟩
    have hsum : (m + 2 ^ k) / 2 ^ k = m / 2 ^ k + 1 := Nat.add_div_right m (Nat.two_pow_pos k)
    have heven : m / 2 ^ k % 2 = 0 := by simpa [Nat.testBit_eq_decide_div_mod_eq] using h
    have hhigh : (m + 2 ^ k) / 2 ^ (k + 1) = m / 2 ^ (k + 1) := by
      rw [Nat.pow_succ, ← Nat.div_div_eq_div_mul, ← Nat.div_div_eq_div_mul, hsum]
      omega
    rw [Nat.testBit_add, Nat.testBit_add, hhigh, decide_eq_false (by omega), Bool.false_or]

theorem testBit_setBit (m k j : Nat) : (setBit m k).testBit j = (decide (j = k) || m.testBit j) := by
  unfold setBit
  split
  · next h =>
    by_cases hj : j = k
    · rw [hj, h, Bool.or_true]
    · rw [decide_eq_false hj, Bool.false_or]
  · next h => exact testBit_add_two_pow (Bool.eq_false_iff.mpr h) j

theorem testBit_clearBit (m k j : Nat) : (clearBit m k).testBit j = (!decide (j = k) && m.testBit j) := by
  unfold clearBit
  split
  · next h =>
    have hsum : m - 2 ^ k + 2 ^ k = m := Nat.sub_add_cancel (Nat.ge_two_pow_of_testBit h)
    have hclear : (m - 2 ^ k).testBit k = false := by
      have := Nat.testBit_two_pow_add_eq (m - 2 ^ k) k
      rw [Nat.add_comm, hsum, h] at this
      simpa using this.symm
    have hbits := testBit_add_two_pow hclear j
    rw [hsum] at hbits
    by_cases hj : j = k
    · rw [hj, hclear, decide_eq_true rfl]
      rfl
    · rw [hbits, decide_eq_false hj]
      rfl
  · next h =>
    by_cases hj : j = k
    · rw [hj, Bool.eq_false_iff.mpr h, Bool.and_false]
    · rw [decide_eq_false hj]
      rfl

theorem testBit_clearBit_of_ne {m i j : Nat} (h : j ≠ i) : (clearBit m i).testBit j = m.testBit j := by
  rw [testBit_clearBit, decide_eq_false h]
  rfl

theorem testBit_clearBit_self (m i : Nat) : (clearBit m i).testBit i = false := by
  rw [testBit_clearBit, decide_eq_true rfl]
  rfl

/-! ### Reading a port -/

@[simp] theorem portOf_setPort_self (s : State) (q : Nat) (p : Port) : portOf (setPort s q p) q = p :=
  (portOf_setPort s q q p).trans (if_pos rfl)

theorem portOf_setPort_of_ne (s : State) {q k : Nat} (p : Port) (h : k ≠ q) : portOf (setPort s q p) k = portOf s k :=
  (portOf_setPort s q k p).trans (if_neg h)

theorem portOf_of_frame {l : List Part} {s t : State} (h : Frame l s t) (hp : Part.ports ∉ l) (q : Nat) : portOf t q = portOf s q :=
  congrArg (kget ({} : Port) · q) (h .ports hp)

@[simp] theorem portOf_emit (s : State) (o : Output) (q : Nat) : portOf (emit s o) q = portOf s q := rfl

@[simp] theorem portOf_raiseVector (s : State) (v q : Nat) : portOf (raiseVector s v) q = portOf s q :=
  portOf_of_frame (raiseVector_frame s v) (by decide) q

@[simp] theorem portOf_logErr (s : State) (code : Nat) (ctx : Option Nat) (detail : BitVec 128) (q : Nat) :
    portOf (logErr s code ctx detail) q = portOf s q := portOf_of_frame (logErr_frame s code ctx detail) (by decide) q

/-! ### From a frame to the vocabulary of the statements -/

theorem onlyLinks_of_frame {s t : State} (h : Frame [.msix, .ports, .slory, .out] s t) :
    t = { s with msix := t.msix, ports := t.ports, slory := t.slory, out := t.out } := by
  have hsm := h.sm_eq (by decide) (by decide)
  cases s; cases t
  simp only [State.mk.injEq]
  exact ⟨h .pending (by decide), h .boot (by decide), h .clk (by decide), h .regs (by decide), h .err (by decide), trivial,
    h .host (by decide), h .admin (by decide), h .rings (by decide), h .ctxs (by decide), h .steps (by decide), h .sched (by decide),
    h .pm (by decide), hsm, trivial, trivial, h .store (by decide), h .power (by decide), h .mgmt (by decide), h .diag (by decide),
    h .free (by decide), trivial⟩

theorem onlyPortsMsixOut_of_frame {s t : State} (h : Frame [.ports, .msix, .out] s t) :
    t = { s with ports := t.ports, msix := t.msix, out := t.out } :=
  (onlyLinks_of_frame (h.mono (by decide))).trans (by rw [h .slory (by decide)])

theorem onlyPortsOut_of_frame {s t : State} (h : Frame [.ports, .out] s t) : t = { s with ports := t.ports, out := t.out } :=
  (onlyPortsMsixOut_of_frame (h.mono (by decide))).trans (by rw [h .msix (by decide)])

theorem onlyPortsSlory_of_frame {s t : State} (h : Frame [.ports, .slory] s t) : t = { s with ports := t.ports, slory := t.slory } :=
  (onlyLinks_of_frame (h.mono (by decide))).trans (by rw [h .msix (by decide), h .out (by decide)])

theorem onlyPorts_of_frame {s t : State} (h : Frame [.ports] s t) : t = { s with ports := t.ports } :=
  (onlyPortsOut_of_frame (h.mono (by decide))).trans (by rw [h .out (by decide)])

/-! ### Counters (R269) -/

/-- The port with counter `i` advanced by `n`. -/
def bumped (p : Port) (i n : Nat) : Port := { p with counters := kset 0 p.counters i (satAdd max64 (kget 0 p.counters i) n) }

@[simp] theorem portOf_bumpPort_self (s : State) (q i n : Nat) : portOf (bumpPort s q i n) q = bumped (portOf s q) i n :=
  portOf_setPort_self s q _

theorem portOf_bumpPort_of_ne (s : State) {q k : Nat} (i n : Nat) (h : k ≠ q) : portOf (bumpPort s q i n) k = portOf s k :=
  portOf_setPort_of_ne s _ h

@[simp] theorem kget_bumped (p : Port) (i n j : Nat) :
    kget 0 (bumped p i n).counters j = if j = i then satAdd max64 (kget 0 p.counters i) n else kget 0 p.counters j :=
  kget_kset 0 p.counters i j _

theorem bumped_eq (p : Port) (i n : Nat) : bumped p i n = { p with counters := (bumped p i n).counters } := rfl

/-- From `p` to `r` nothing but counters changed, and of these only those of `S`. -/
def CountsOnly (S : Nat → Prop) (p r : Port) : Prop :=
  r = { p with counters := r.counters } ∧ ∀ j, ¬ S j → kget 0 r.counters j = kget 0 p.counters j

section CountsOnly

variable {S T : Nat → Prop} {p r u : Port}

theorem CountsOnly.refl (S : Nat → Prop) (p : Port) : CountsOnly S p p := ⟨rfl, fun _ _ => rfl⟩

theorem CountsOnly.trans (h : CountsOnly S p r) (k : CountsOnly S r u) : CountsOnly S p u := by
  refine ⟨k.1.trans ?_, fun j hj => (k.2 j hj).trans (h.2 j hj)⟩
  rw [h.1]

theorem CountsOnly.mono (h : CountsOnly S p r) (hS : ∀ j, S j → T j) : CountsOnly T p r := ⟨h.1, fun j hj => h.2 j fun hs => hj (hS j hs)⟩

theorem CountsOnly.bumped (h : CountsOnly S p r) {i : Nat} (hi : S i) (n : Nat) : CountsOnly S p (bumped r i n) :=
  h.trans ⟨rfl, fun j hj => (kget_bumped r i n j).trans (if_neg (by rintro rfl; exact hj hi))⟩

theorem CountsOnly.foldl {β : Type} {s : State} {q : Nat} (f : State → β → State) (l : List β)
    (hf : ∀ (t : State) (x : β), x ∈ l → CountsOnly S (portOf t q) (portOf (f t x) q)) : CountsOnly S (portOf s q) (portOf (l.foldl f s) q) :=
  List.foldlRecOn (motive := fun t => CountsOnly S (portOf s q) (portOf t q)) l f (CountsOnly.refl S _) fun t ht x hx => ht.trans (hf t x hx)

end CountsOnly

/-- A frame that no check of its length or its FCS drops is counted as received intact (R269). -/
theorem countIntact_eq (s : State) (q : Nat) (express : Bool) {c : RxClass} (h : ∀ i, c ≠ .drop i) :
    countIntact s q express c = bumpPort s q (if express then 13 else 14) 1 := by
  unfold countIntact
  rw [if_neg (by simp [h])]

/-! ### Transmit buffers (R262, R266) -/

/-- From `p` to `r` the frame `f` joined the express frames, in the buffer or outside it; a full buffer is counted. -/
def ExpressQueued (f : TxFrame) (p r : Port) : Prop :=
  r = { p with express := r.express, expressWait := r.expressWait, counters := r.counters } ∧
  r.express ++ r.expressWait = p.express ++ p.expressWait ++ [f] ∧ ∀ k, k ≠ 9 → kget 0 r.counters k = kget 0 p.counters k

/-- From `p` to `r` the frame `f` joined the pre-emptable frames. -/
def BulkQueued (f : TxFrame) (p r : Port) : Prop :=
  r = { p with bulk := r.bulk, bulkWait := r.bulkWait } ∧ r.bulk ++ r.bulkWait = p.bulk ++ p.bulkWait ++ [f]

theorem enqueueFrame_express (s : State) (q : Nat) (f : TxFrame) : ExpressQueued f (portOf s q) (portOf (enqueueFrame s q true f) q) := by
  unfold enqueueFrame
  dsimp only
  rw [if_pos rfl]
  split
  · next h =>
    rw [portOf_setPort_self]
    exact ⟨rfl, by simp [h.1], fun _ _ => rfl⟩
  · rw [portOf_bumpPort_self, portOf_setPort_self]
    exact ⟨rfl, (List.append_assoc ..).symm, fun k hk => (kget_bumped ..).trans (if_neg hk)⟩

theorem enqueueFrame_bulk (s : State) (q : Nat) (f : TxFrame) : BulkQueued f (portOf s q) (portOf (enqueueFrame s q false f) q) := by
  unfold enqueueFrame
  dsimp only
  rw [if_neg Bool.false_ne_true]
  split
  · next h =>
    rw [portOf_setPort_self]
    exact ⟨rfl, by simp [h.1]⟩
  · rw [portOf_setPort_self]
    exact ⟨rfl, (List.append_assoc ..).symm⟩

/-! ### Vectors (R337, R446) -/

/-- From `s` to `t` no message of vector `v` was taken back, and whether one went out within the microsecond stayed. -/
structure MessagesKept (v : Nat) (s t : State) : Prop where
  window : v ∈ t.msix.window ↔ v ∈ s.msix.window
  table : t.msix.table = s.msix.table
  owed : v ∈ s.msix.owed → v ∈ t.msix.owed
  pend : v ∈ s.msix.pend → v ∈ t.msix.pend
  out : ∀ o ∈ s.out, o ∈ t.out

theorem MessagesKept.trans {v : Nat} {s t u : State} (h : MessagesKept v s t) (k : MessagesKept v t u) : MessagesKept v s u :=
  ⟨k.window.trans h.window, k.table.trans h.table, k.owed ∘ h.owed, k.pend ∘ h.pend, fun o ho => k.out o (h.out o ho)⟩

theorem MessagesKept.of_frame {l : List Part} {s t : State} (h : Frame l s t) (hm : Part.msix ∉ l) (ho : Part.out ∉ l) (v : Nat) :
    MessagesKept v s t := by
  have hmsix : t.msix = s.msix := h .msix hm
  have hout : t.out = s.out := h .out ho
  constructor <;> simp [hmsix, hout]

theorem sendVector_keeps (s : State) (v w : Nat) : MessagesKept v s (sendVector s w) := by
  unfold sendVector
  dsimp only
  split
  · exact ⟨Iff.rfl, rfl, id, fun h => by dsimp only; split <;> simp [h], fun _ h => h⟩
  · exact ⟨Iff.rfl, rfl, id, id, fun _ h => List.mem_cons_of_mem _ h⟩

theorem raiseVector_keeps (s : State) {v w : Nat} (h : v ≠ w) : MessagesKept v s (raiseVector s w) := by
  unfold raiseVector
  split
  · exact ⟨Iff.rfl, rfl, fun h => by dsimp only; split <;> simp [h], id, fun _ h => h⟩
  · split
    · exact sendVector_keeps s v w
    · have hopened : MessagesKept v s { s with msix := { s.msix with window := s.msix.window ++ [w] } } :=
        ⟨by simp [h], rfl, id, id, fun _ h => h⟩
      exact hopened.trans (sendVector_keeps _ v w)

theorem logErr_keeps (s : State) (code : Nat) (ctx : Option Nat) (detail : BitVec 128) {v : Nat} (h : v ≠ 257) :
    MessagesKept v s (logErr s code ctx detail) := by
  have hlogged (e : ErrLog) : MessagesKept v s { s with err := e } := ⟨Iff.rfl, rfl, id, id, fun _ h => h⟩
  unfold logErr
  dsimp only
  split
  · exact hlogged _
  · split
    · exact (hlogged _).trans (raiseVector_keeps _ h)
    · split
      · exact hlogged _
      · exact (hlogged _).trans (raiseVector_keeps _ h)

theorem raiseVector_raised (s : State) (v : Nat) : VectorRaised s (raiseVector s v) v := by
  unfold VectorRaised raiseVector
  by_cases hw : v ∈ s.msix.window
  · rw [if_pos hw, if_pos (List.contains_iff_mem.mpr hw)]
    dsimp only
    split
    · next h => exact List.contains_iff_mem.mp h
    · exact List.mem_append_right _ (List.mem_singleton_self v)
  · rw [if_neg hw, if_neg (fun h => hw (List.contains_iff_mem.mp h))]
    by_cases hmask : (vecEntry s v).control.getLsbD 0 = true
    · rw [if_pos hmask, if_pos hmask]
      unfold sendVector
      dsimp only
      rw [if_pos hmask]
      dsimp only
      split
      · next h => exact List.contains_iff_mem.mp h
      · exact List.mem_append_right _ (List.mem_singleton_self v)
    · have hsame (w : List Nat) : vecEntry { s with msix := { s.msix with window := w } } v = vecEntry s v := rfl
      rw [if_neg hmask, if_neg hmask]
      unfold sendVector
      dsimp only
      rw [hsame, if_neg hmask]
      exact ⟨List.mem_append_right _ (List.mem_singleton_self v), List.mem_cons_self ..⟩

/-- What keeps the messages of a vector may stand before the vector is raised. -/
theorem vectorRaised_of_keeps {v : Nat} {s t u : State} (k : MessagesKept v s t) (h : VectorRaised t u v) : VectorRaised s u v := by
  have hentry : vecEntry t v = vecEntry s v := congrArg (kget ({} : MsixEntry) · v) k.table
  unfold VectorRaised at h ⊢
  rwa [hentry, if_congr k.window rfl rfl] at h

/-- What keeps the messages of a vector may follow once it is raised. -/
theorem vectorRaised_of_kept {v : Nat} {s t u : State} (h : VectorRaised s t v) (k : MessagesKept v t u) : VectorRaised s u v := by
  unfold VectorRaised at h ⊢
  split_ifs at h ⊢
  · exact k.owed h
  · exact k.pend h
  · exact ⟨k.window.mpr h.1, k.out _ h.2⟩

end Sys2Proof.PortRules


/-! PROOFS of the port family, transmission (O50). -/

namespace Sys2Proof.PortTransmission

set_option Elab.async false

open Sys2Proof.Machine Sys2Proof.Safety Sys2Proof.Laws Sys2Proof.PortRules

/-! ### Buffers that are refilled (R262, R266) -/

/-- From `p` to `r` frames moved from outside the buffers into them, in their order. -/
def Refilled (p r : Port) : Prop :=
  r = { p with express := r.express, expressWait := r.expressWait, bulk := r.bulk, bulkWait := r.bulkWait } ∧
  r.express ++ r.expressWait = p.express ++ p.expressWait ∧ r.bulk ++ r.bulkWait = p.bulk ++ p.bulkWait

theorem Refilled.trans {p r u : Port} (h : Refilled p r) (k : Refilled r u) : Refilled p u := by
  refine ⟨k.1.trans ?_, k.2.1.trans h.2.1, k.2.2.trans h.2.2⟩
  rw [h.1]

/-- The first frame that waits enters the buffer: the frames and their order stay. -/
theorem append_entered {l w : List TxFrame} {f : TxFrame} (h : w.head? = some f) : (l ++ [f]) ++ w.drop 1 = l ++ w := by
  obtain ⟨t, rfl⟩ := List.head?_eq_some_iff.mp h
  simp

theorem portOf_refillBuffers (s : State) (q : Nat) (p : Port) : Refilled p (portOf (refillBuffers (setPort s q p) q) q) := by
  unfold refillBuffers
  dsimp only
  simp only [portOf_setPort_self]
  have hrefl (p : Port) : Refilled p p := ⟨rfl, rfl, rfl⟩
  refine Refilled.trans (List.foldlRecOn (motive := Refilled p) _ _ (hrefl _) fun p hp f _ => hp.trans ?_)
    (List.foldlRecOn (motive := Refilled _) _ _ (hrefl _) fun p hp f _ => hp.trans ?_)
  · split
    · next h => exact ⟨rfl, append_entered h.2.2, rfl⟩
    · exact hrefl p
  · split
    · next h => exact ⟨rfl, rfl, append_entered h.2⟩
    · exact hrefl p

/-! ### A frame that is sent (R262, R269) -/

theorem sentFrame_out (s : State) (q : Nat) (express : Bool) (f : TxFrame) : (sentFrame s q express f).out = .frame q f.bytes :: s.out := by
  unfold sentFrame
  dsimp only
  split_ifs <;> rfl

/-- A frame sent is counted, with its octets, and in its class. -/
def SentCounted (express : Bool) (f : TxFrame) (p r : Port) : Prop :=
  r = { p with counters := r.counters } ∧ kget 0 r.counters 0 = satAdd max64 (kget 0 p.counters 0) 1 ∧
  kget 0 r.counters 1 = satAdd max64 (kget 0 p.counters 1) f.bytes.length ∧
  kget 0 r.counters (if express then 2 else 3) = satAdd max64 (kget 0 p.counters (if express then 2 else 3)) 1

theorem sentCounted (express : Bool) (f : TxFrame) (p : Port) :
    SentCounted express f p (bumped (bumped (bumped p 0 1) 1 f.bytes.length) (if express then 2 else 3) 1) := by
  have hcounts := (((CountsOnly.refl (fun _ => True) p).bumped (i := 0) trivial 1).bumped (i := 1) trivial f.bytes.length).bumped
    (i := if express then 2 else 3) trivial 1
  cases express <;> exact ⟨hcounts.1, by simp, by simp, by simp⟩

/-- A frame of a kind that is counted besides counts as any other. -/
theorem SentCounted.kind {express : Bool} {f : TxFrame} {p r : Port} (h : SentCounted express f p r) {i : Nat} (hi : 3 < i) :
    SentCounted express f p (bumped r i 1) := by
  obtain ⟨heq, hframes, hoctets, hclass⟩ := h
  have hother (j : Nat) (hj : j ≤ 3) : kget 0 (bumped r i 1).counters j = kget 0 r.counters j := (kget_bumped ..).trans (if_neg (by omega))
  refine ⟨?_, (hother 0 (by omega)).trans hframes, (hother 1 (by omega)).trans hoctets, (hother _ (by split <;> omega)).trans hclass⟩
  rw [bumped_eq, heq]

theorem portOf_sentFrame (s : State) (q : Nat) (express : Bool) (f : TxFrame) :
    SentCounted express f (portOf s q) (portOf (sentFrame s q express f) q) := by
  have hsent := sentCounted express f (portOf s q)
  unfold sentFrame
  dsimp only
  rw [portOf_emit]
  split
  · simpa only [portOf_bumpPort_self] using hsent.kind (i := 5) (by omega)
  · split
    · simpa only [portOf_bumpPort_self] using hsent.kind (i := 6) (by omega)
    · simpa only [portOf_bumpPort_self] using hsent

/-! ### Frames that start and frames that end -/

/-- An express frame that has started: it stands on the wire, and what waits fills the room it left. -/
theorem startExpress_started (s : State) (q : Nat) (p : Port) (f : TxFrame) : ∃ r, portOf (startExpress s q p f) q = r ∧
    startExpress s q p f = { s with ports := (startExpress s q p f).ports } ∧ r.expressWire = some f ∧ r.onWire = p.onWire ∧ r.cut = p.cut ∧
    r.cuts = p.cuts ∧ r.express ++ r.expressWait = p.express.erase f ++ p.expressWait := by
  obtain ⟨heq, hexpress, -⟩ : Refilled { p with express := p.express.erase f, expressWire := some f } (portOf (startExpress s q p f) q) :=
    portOf_refillBuffers s q _
  exact ⟨_, rfl, rfl, by rw [heq], by rw [heq], by rw [heq], by rw [heq], hexpress⟩

/-- A pre-emptable frame that has started. -/
theorem startBulk_started (s : State) (q : Nat) (p : Port) (f : TxFrame) (b : KMap (Nat × Nat)) {t : State}
    (ht : t = refillBuffers (setPort s q { p with bulk := p.bulk.erase f, onWire := some f, buckets := b }) q) : ∃ r, portOf t q = r ∧
    t = { s with ports := t.ports } ∧ r.onWire = some f ∧ r.expressWire = p.expressWire ∧ r.buckets = b ∧
    r.bulk ++ r.bulkWait = p.bulk.erase f ++ p.bulkWait := by
  subst ht
  obtain ⟨heq, -, hbulk⟩ := portOf_refillBuffers s q { p with bulk := p.bulk.erase f, onWire := some f, buckets := b }
  exact ⟨_, rfl, rfl, by rw [heq], by rw [heq], by rw [heq], hbulk⟩

/-- A frame that is sent to its end from the wire of a port `p`. -/
theorem sentFrame_sent (s : State) (q : Nat) (p : Port) (express : Bool) (f : TxFrame) {t : State}
    (ht : t = sentFrame (setPort s q p) q express f) : ∃ r, portOf t q = r ∧ t.out = .frame q f.bytes :: s.out ∧
    t = { s with ports := t.ports, out := t.out } ∧ SentCounted express f p r := by
  subst ht
  have hcounted := portOf_sentFrame (setPort s q p) q express f
  rw [portOf_setPort_self] at hcounted
  exact ⟨_, rfl, sentFrame_out .., onlyPortsOut_of_frame ((setPort_frame s q p).mono (by decide) |>.trans (sentFrame_frame _ q express f)), hcounted⟩

/-! ### The cases of the MAC -/

section Mac

variable {s : State} {q : Nat} {p : Port} (hp : portOf s q = p) (hup : p.up = true) {f w : TxFrame}

include hp hup

theorem mac_completesExpress (hf : p.expressWire = some f) :
    exec (.frameTransmit q) s = .next (sentFrame (setPort s q { p with expressWire := none }) q true f) := by
  show execFrameTransmit q s = _
  simp only [execFrameTransmit, hp, hup, hf, Bool.not_true, Bool.false_eq_true, if_false]

theorem mac_startsExpress (hidle : p.expressWire = none) (hf : p.ready p.express = some f) (hwire : p.onWire = none ∨ p.cut = true) :
    exec (.frameTransmit q) s = .next (startExpress s q p f) := by
  show execFrameTransmit q s = _
  simp only [execFrameTransmit, hp, hup, hidle, hf, Bool.not_true, Bool.false_eq_true, if_false]
  rcases hwire with hw | hcut
  · rw [hw]
  · cases p.onWire with
    | none => rfl
    | some w => exact if_pos hcut

theorem mac_cutsBulk (hidle : p.expressWire = none) (hf : p.ready p.express = some f) (hw : p.onWire = some w) (hcut : p.cut = false)
    (hcan : p.canCut w = true) : exec (.frameTransmit q) s = .next (startExpress s q { p with cut := true, cuts := p.cuts + 1 } f) := by
  show execFrameTransmit q s = _
  simp only [execFrameTransmit, hp, hup, hidle, hf, hw, hcut, hcan, Bool.not_true, Bool.false_eq_true, if_false, if_true]

theorem mac_completesBulk (hidle : p.expressWire = none) (hw : p.onWire = some w) (hcut : p.cut = false)
    (hstay : p.ready p.express = none ∨ p.canCut w = false) : exec (.frameTransmit q) s = .next (finishBulk s q w) := by
  show execFrameTransmit q s = _
  simp only [execFrameTransmit, hp, hup, hidle, hw, hcut, Bool.not_true, Bool.false_eq_true, if_false]
  cases hready : p.ready p.express with
  | none => rfl
  | some f => exact if_neg (by simp [hstay.resolve_left (by simp [hready])])

theorem mac_resumesBulk (hidle : p.expressWire = none) (hw : p.onWire = some w) (hcut : p.cut = true) (hnone : p.ready p.express = none) :
    exec (.frameTransmit q) s = .next (bumpPort (setPort s q { p with cut := false }) q 4 1) := by
  show execFrameTransmit q s = _
  simp only [execFrameTransmit, hp, hup, hidle, hnone, hw, hcut, Bool.not_true, Bool.false_eq_true, if_false, if_true]

theorem mac_startsBulk (hidle : p.expressWire = none) (hnone : p.ready p.express = none) (hw : p.onWire = none) (hf : bulkReady s q = some f) :
    exec (.frameTransmit q) s =
      .next (refillBuffers (setPort s q { p with bulk := p.bulk.erase f, onWire := some f, buckets := spend s q f }) q) := by
  show execFrameTransmit q s = _
  simp only [execFrameTransmit, hp, hup, hidle, hnone, hw, hf, Bool.not_true, Bool.false_eq_true, if_false]

theorem mac_idles (hidle : p.expressWire = none) (hnone : p.ready p.express = none) (hw : p.onWire = none) (hf : bulkReady s q = none) :
    exec (.frameTransmit q) s = .next s := by
  show execFrameTransmit q s = _
  simp only [execFrameTransmit, hp, hup, hidle, hnone, hw, hf, Bool.not_true, Bool.false_eq_true, if_false]

end Mac

/-- Settles O50, by the cases of what the MAC does next. The cut sizes, a bucket's first level (its depth is R257's) and one event of the
MAC per FRAME_TRANSMIT are the model's choices (log entry 94). -/
theorem portsTransmitExpressFirst : Obligations.PortsTransmitExpressFirst := by
  unfold Obligations.PortsTransmitExpressFirst
  intro s q p hp hup
  refine ⟨fun f hf => ?_, fun hidle => ⟨fun f hf hwire => ?_, fun f w hf hw hcut hcan => ?_, fun w hw hcut hstay => ?_,
    fun w hw hcut hnone => ?_, fun f hnone hw hf => ?_, fun hnone hw hf => mac_idles hp hup hidle hnone hw hf⟩⟩
  · obtain ⟨r, hr, hout, hports, hcounted⟩ := sentFrame_sent s q { p with expressWire := none } true f rfl
    exact ⟨_, r, mac_completesExpress hp hup hf, hr, hout, hports, hcounted⟩
  · obtain ⟨r, hr, hports, hstarted⟩ := startExpress_started s q p f
    exact ⟨_, r, mac_startsExpress hp hup hidle hf hwire, hr, hports, hstarted⟩
  · obtain ⟨r, hr, hports, hwire, hon, hcuts⟩ := startExpress_started s q { p with cut := true, cuts := p.cuts + 1 } f
    exact ⟨_, r, mac_cutsBulk hp hup hidle hf hw hcut hcan, hr, hports, hwire, hon.trans hw, hcuts⟩
  · obtain ⟨r, hr, hout, hports, heq, hcounted⟩ := sentFrame_sent s q { p with onWire := none, cut := false, cuts := 0 } false w
      (t := finishBulk s q w) (by rw [finishBulk, hp])
    exact ⟨_, r, mac_completesBulk hp hup hidle hw hcut hstay, hr, hout, hports, by rw [hcut]; exact heq, hcounted⟩
  · refine ⟨_, _, mac_resumesBulk hp hup hidle hw hcut hnone, rfl, rfl, ?_⟩
    rw [portOf_bumpPort_self, portOf_setPort_self]
    exact ⟨rfl, kget_bumped ..⟩
  · obtain ⟨r, hr, hports, hon, hwire, hbuckets, hbulk⟩ := startBulk_started s q p f (spend s q f) rfl
    exact ⟨_, r, mac_startsBulk hp hup hidle hnone hw hf, hr, hports, hon, hwire.trans hidle, hbuckets, hbulk⟩

end Sys2Proof.PortTransmission


/-! PROOFS of the port family, flow control (O51): what counting a pause leaves of a port, and what a PFC frame, the end of a pause and a
storm make of the priorities that are paused. -/

namespace Sys2Proof.FlowControl

set_option Elab.async false

open Sys2Proof.Machine Sys2Proof.Safety Sys2Proof.Laws Sys2Proof.Checkpoints Sys2Proof.PortRules

/-! ### Counting the quanta of a pause (R269) -/

/-- From `p` to `r` quanta of pauses were counted. -/
def QuantaCounted (p r : Port) : Prop := CountsOnly (fun j => j = 7 ∨ j = 8) { p with counted := r.counted } r

theorem QuantaCounted.refl (p : Port) : QuantaCounted p p := CountsOnly.refl _ p

theorem QuantaCounted.trans {p r u : Port} (h : QuantaCounted p r) (k : QuantaCounted r u) : QuantaCounted p u := by
  refine ⟨k.1.trans ?_, fun j hj => (k.2 j hj).trans (h.2 j hj)⟩
  rw [h.1]

theorem portOf_countPause (s : State) (q prio n : Nat) :
    CountsOnly (fun j => j = 7 ∨ j = 8) (portOf s q) (portOf (countPause s q prio n) q) := by
  have hrefl := CountsOnly.refl (fun j => j = 7 ∨ j = 8) (portOf s q)
  unfold countPause
  dsimp only
  split_ifs
  · rw [portOf_bumpPort_self, portOf_bumpPort_self]
    exact (hrefl.bumped (.inl rfl) n).bumped (.inr rfl) n
  · rw [portOf_bumpPort_self]
    exact hrefl.bumped (.inr rfl) n
  · rw [portOf_bumpPort_self]
    exact hrefl.bumped (.inl rfl) n
  · exact hrefl

theorem portOf_settlePause (s : State) (q prio : Nat) : QuantaCounted (portOf s q) (portOf (settlePause q s prio) q) := by
  unfold settlePause
  dsimp only
  split
  · obtain ⟨heq, hcounters⟩ := portOf_countPause s q prio
      ((portOf s q).elapsed prio s.clk.uptime - kget 0 (portOf s q).counted prio)
    rw [portOf_setPort_self]
    refine ⟨?_, hcounters⟩
    rw [heq]
  · exact QuantaCounted.refl _

/-! ### Pauses that a PFC frame sets (R267, R431) -/

/-- From `p` to `r` pauses changed, and their quanta were counted. -/
structure PausesOnly (p r : Port) : Prop where
  rcd : r.rcd = p.rcd
  ignore : r.ignore = p.ignore
  counters : ∀ j, j ≠ 7 → j ≠ 8 → kget 0 r.counters j = kget 0 p.counters j

theorem PausesOnly.trans {p r u : Port} (h : PausesOnly p r) (k : PausesOnly r u) : PausesOnly p u :=
  ⟨k.rcd.trans h.rcd, k.ignore.trans h.ignore, fun j h7 h8 => (k.counters j h7 h8).trans (h.counters j h7 h8)⟩

theorem portOf_pausePrio (s : State) (q i n : Nat) : PausesOnly (portOf s q) (portOf (pausePrio s q i n) q) ∧
    ∀ j, (portOf (pausePrio s q i n) q).paused.testBit j = if j = i then decide (n ≠ 0) else (portOf s q).paused.testBit j := by
  obtain ⟨heq, hcounters⟩ := portOf_settlePause s q i
  have hpaused : (portOf (settlePause q s i) q).paused = (portOf s q).paused := by rw [heq]
  unfold pausePrio
  dsimp only
  rw [portOf_setPort_self]
  refine ⟨⟨by rw [heq], by rw [heq], fun j h7 h8 => hcounters j (by omega)⟩, fun j => ?_⟩
  by_cases hn : n = 0
  · rw [if_pos hn, testBit_clearBit, hpaused]
    by_cases hj : j = i <;> simp [hj, hn]
  · rw [if_neg hn, testBit_setBit, hpaused]
    by_cases hj : j = i <;> simp [hj, hn]

/-- Whether priority `i` of a port is paused once PFC frame `f` has been obeyed for it. -/
def obeyedBit (f : Bytes) (p : Port) (i : Nat) : Bool :=
  if (beNat (slice f 16 2)).testBit i && p.rcd.pfcRx.testBit i && !p.ignore.testBit i then decide (beNat (slice f (18 + 2 * i) 2) ≠ 0)
  else p.paused.testBit i

/-- What PFC frame `f` does to priority `i` of port `q`. -/
def obeyPrio (q : Nat) (f : Bytes) (s : State) (i : Nat) : State :=
  if (beNat (slice f 16 2)).testBit i ∧ (portOf s q).rcd.pfcRx.testBit i ∧ !(portOf s q).ignore.testBit i then
    pausePrio s q i (beNat (slice f (18 + 2 * i) 2))
  else s

theorem obeyPfc_eq (s : State) (q : Nat) (f : Bytes) : obeyPfc s q f = (List.range 8).foldl (obeyPrio q f) s := rfl

theorem portOf_obeyPrio (s : State) (q : Nat) (f : Bytes) (i : Nat) : PausesOnly (portOf s q) (portOf (obeyPrio q f s i) q) ∧
    ∀ j, (portOf (obeyPrio q f s i) q).paused.testBit j = if j = i then obeyedBit f (portOf s q) i else (portOf s q).paused.testBit j := by
  unfold obeyPrio obeyedBit
  by_cases h : (beNat (slice f 16 2)).testBit i ∧ (portOf s q).rcd.pfcRx.testBit i ∧ !(portOf s q).ignore.testBit i
  · rw [if_pos h, if_pos (by simpa [and_assoc] using h)]
    exact portOf_pausePrio s q i _
  · rw [if_neg h, if_neg (by simpa [and_assoc] using h)]
    refine ⟨⟨rfl, rfl, fun _ _ _ => rfl⟩, fun j => ?_⟩
    split
    · next hj => rw [hj]
    · rfl

/-- The priorities below `n` obey a PFC frame one after the other. -/
theorem portOf_foldl_obeyPrio (s : State) (q : Nat) (f : Bytes) (n : Nat) :
    PausesOnly (portOf s q) (portOf ((List.range n).foldl (obeyPrio q f) s) q) ∧
    ∀ j, (portOf ((List.range n).foldl (obeyPrio q f) s) q).paused.testBit j =
      if j < n then obeyedBit f (portOf s q) j else (portOf s q).paused.testBit j := by
  induction n with
  | zero => exact ⟨⟨rfl, rfl, fun _ _ _ => rfl⟩, fun j => rfl⟩
  | succ n ih =>
    rw [List.range_succ, List.foldl_append]
    generalize (List.range n).foldl (obeyPrio q f) s = t at ih ⊢
    obtain ⟨hkept, hbits⟩ := ih
    obtain ⟨hkept', hbits'⟩ := portOf_obeyPrio t q f n
    have hown : obeyedBit f (portOf t q) n = obeyedBit f (portOf s q) n := by
      unfold obeyedBit
      rw [hkept.rcd, hkept.ignore, hbits n, if_neg (Nat.lt_irrefl n)]
    refine ⟨hkept.trans hkept', fun j => (hbits' j).trans ?_⟩
    rcases Nat.lt_trichotomy j n with hj | rfl | hj
    · rw [if_neg (by omega), hbits, if_pos hj, if_pos (by omega)]
    · rw [if_pos rfl, hown, if_pos (by omega)]
    · rw [if_neg (by omega), hbits, if_neg (by omega), if_neg (by omega)]

/-! ### What the rows do -/

/-- The port whose priority `i` is paused no longer. -/
def resumed (p : Port) (i : Nat) : Port :=
  { p with paused := clearBit p.paused i, quanta := kset 0 p.quanta i 0, counted := kset 0 p.counted i 0 }

section Rows

variable {s : State} {q : Nat} {p : Port}

theorem pfcFrame_obeyed (hp : portOf s q = p) {b : Bytes} (hup : p.up = true) (hc : classifyFrame p.rcd q b = .pfc) :
    ∃ t, exec (.pfcFrame q b) s = .next t ∧ t = { s with ports := t.ports } ∧ kget 0 (portOf t q).counters 19 = satAdd max64 (kget 0 p.counters 19) 1 ∧
      ∀ i < 8, (portOf t q).paused.testBit i = obeyedBit b p i := by
  subst hp
  have hexec : exec (.pfcFrame q b) s = .next (obeyPfc (bumpPort (countIntact s q true .pfc) q 19 1) q b) := by
    show execPfcFrame q b s = _
    unfold execPfcFrame
    rw [hc]
    exact if_pos ⟨hup, rfl⟩
  have hframe : Frame [.ports] s (obeyPfc (bumpPort (countIntact s q true .pfc) q 19 1) q b) :=
    ((countIntact_frame s q true .pfc).trans (bumpPort_frame _ q 19 1)).trans (obeyPfc_frame _ q b)
  obtain ⟨hkept, hbits⟩ := portOf_foldl_obeyPrio (bumpPort (countIntact s q true .pfc) q 19 1) q b 8
  have hport : portOf (bumpPort (countIntact s q true .pfc) q 19 1) q = bumped (bumped (portOf s q) 13 1) 19 1 := by
    rw [portOf_bumpPort_self, countIntact_eq s q true (fun _ => RxClass.noConfusion), if_pos rfl, portOf_bumpPort_self]
  rw [hport] at hkept hbits
  exact ⟨_, hexec, onlyPorts_of_frame hframe, (hkept.counters 19 (by decide) (by decide)).trans (by simp), fun i hi => (hbits i).trans (if_pos hi)⟩

theorem pauseFrame_counted (hp : portOf s q = p) {b : Bytes} (hup : p.up = true) (hc : classifyFrame p.rcd q b = .pause) :
    ∃ t, exec (.pauseFrame q b) s = .next t ∧ t = { s with ports := t.ports } ∧ portOf t q = { p with counters := (portOf t q).counters } ∧
      kget 0 (portOf t q).counters 20 = satAdd max64 (kget 0 p.counters 20) 1 := by
  subst hp
  have hexec : exec (.pauseFrame q b) s = .next (bumpPort (countIntact s q true .pause) q 20 1) := by
    show execPauseFrame q b s = _
    unfold execPauseFrame
    rw [hc]
    exact if_pos ⟨hup, rfl⟩
  have hport : portOf (bumpPort (countIntact s q true .pause) q 20 1) q = bumped (bumped (portOf s q) 13 1) 20 1 := by
    rw [portOf_bumpPort_self, countIntact_eq s q true (fun _ => RxClass.noConfusion), if_pos rfl, portOf_bumpPort_self]
  have hframe := (countIntact_frame s q true .pause).trans (bumpPort_frame _ q 20 1)
  refine ⟨_, hexec, onlyPorts_of_frame hframe, ?_⟩
  rw [hport]
  exact ⟨rfl, by simp⟩

theorem pauseExpiry_resumes (hp : portOf s q = p) {i : Nat} (hi : i < 8) (hpaused : p.paused.testBit i = true) :
    ∃ t, exec (.pauseExpiry q i) s = .next t ∧ t = { s with ports := t.ports } ∧ (portOf t q).paused.testBit i = false ∧
      (portOf t q).ignore = p.ignore ∧ ∀ j, j ≠ i → (portOf t q).paused.testBit j = p.paused.testBit j := by
  subst hp
  obtain ⟨u, hu, hexec⟩ : ∃ u, u = countPause s q i (kget 0 (portOf s q).quanta i - kget 0 (portOf s q).counted i) ∧
      exec (.pauseExpiry q i) s = .next (setPort u q (resumed (portOf u q) i)) := ⟨_, rfl, if_pos ⟨hi, hpaused⟩⟩
  have hcounted : CountsOnly _ (portOf s q) (portOf u q) := hu ▸ portOf_countPause s q i _
  have hframe : Frame [.ports] s u := hu ▸ countPause_frame s q i _
  refine ⟨_, hexec, onlyPorts_of_frame (hframe.trans (setPort_frame u q _)), ?_⟩
  rw [portOf_setPort_self, hcounted.1]
  exact ⟨testBit_clearBit_self _ i, rfl, fun j hj => testBit_clearBit_of_ne hj⟩

theorem pauseStorm_ignores (hp : portOf s q = p) {i : Nat} (hi : i < 8) (hpaused : p.paused.testBit i = true) :
    ∃ t, exec (.pauseStorm q i) s = .next t ∧ (portOf t q).paused.testBit i = false ∧ (portOf t q).ignore.testBit i = true ∧
      Logged s t 0x0604 none (Config.errDetail 0x0604 [q, i]) ∧ ∀ j, j ≠ i → (portOf t q).paused.testBit j = p.paused.testBit j := by
  subst hp
  obtain ⟨u, r, hu, hr, hexec⟩ : ∃ u r, u = settlePause q s i ∧ r = { resumed (portOf u q) i with ignore := setBit (portOf u q).ignore i } ∧
      exec (.pauseStorm q i) s = .next (logErr (setPort u q r) 0x0604 none (Config.errDetail 0x0604 [q, i])) :=
    ⟨_, _, rfl, rfl, if_pos ⟨hi, hpaused⟩⟩
  have hcounted : QuantaCounted (portOf s q) (portOf u q) := hu ▸ portOf_settlePause s q i
  have hframe : Frame [.ports] s (setPort u q r) := (hu ▸ settlePause_frame s q i : Frame [.ports] s u).trans (setPort_frame u q r)
  have hlogged := logged_congr (logErr_logged (setPort u q r) 0x0604 none (Config.errDetail 0x0604 [q, i])) (hframe .err (by decide))
    (hframe .clk (by decide)) rfl
  refine ⟨_, hexec, ?_, ?_, hlogged, fun j hj => ?_⟩ <;> rw [portOf_logErr, portOf_setPort_self, hr, hcounted.1]
  · exact testBit_clearBit_self _ i
  · exact (testBit_setBit ..).trans (by simp)
  · exact testBit_clearBit_of_ne hj

theorem pauseIgnoreEnd_obeys (hp : portOf s q = p) {i : Nat} (hi : p.ignore.testBit i = true) :
    ∃ t, exec (.pauseIgnoreEnd q i) s = .next t ∧ portOf t q = { p with ignore := (portOf t q).ignore } ∧
      (portOf t q).ignore.testBit i = false ∧ ∀ j, j ≠ i → (portOf t q).ignore.testBit j = p.ignore.testBit j := by
  subst hp
  refine ⟨_, (if_pos hi : execPauseIgnoreEnd q i s = _), ?_⟩
  rw [portOf_setPort_self]
  exact ⟨rfl, testBit_clearBit_self _ i, fun j hj => testBit_clearBit_of_ne hj⟩

theorem pfcRepeat_sends (hp : portOf s q = p) {i : Nat} (hi : i < 8) (hup : p.up = true) (hon : p.pfcOn.testBit i = true)
    (hfull : 49152 ≤ kget 0 p.rxHeld i) :
    ∃ t r, exec (.pfcRepeat q i) s = .next t ∧ portOf t q = r ∧ t = { s with ports := t.ports } ∧
      r = { p with express := r.express, expressWait := r.expressWait, counters := r.counters } ∧
      r.express ++ r.expressWait = p.express ++ p.expressWait ++ [⟨pfcBytes p.rcd i 0xFFFF, none, none, 8⟩] := by
  subst hp
  have hexec : exec (.pfcRepeat q i) s = .next (sendPfc s q i 0xFFFF) := if_pos ⟨hup, hi, hon, hfull⟩
  obtain ⟨heq, hqueued, -⟩ := enqueueFrame_express s q ⟨pfcBytes (portOf s q).rcd i 0xFFFF, none, none, 8⟩
  exact ⟨_, _, hexec, rfl, onlyPorts_of_frame (sendPfc_frame s q i 0xFFFF), heq, hqueued⟩

end Rows

/-- Settles O51, by what each row does to the port that it names. -/
theorem flowControlPausesPriorities : Obligations.FlowControlPausesPriorities := by
  unfold Obligations.FlowControlPausesPriorities
  intro s q p hp
  exact ⟨fun b hup hc => pfcFrame_obeyed hp hup hc, fun b hup hc => pauseFrame_counted hp hup hc,
    fun i hi hpaused => ⟨pauseExpiry_resumes hp hi hpaused, pauseStorm_ignores hp hi hpaused⟩, fun i hi => pauseIgnoreEnd_obeys hp hi,
    fun i hi hup hon hfull => pfcRepeat_sends hp hi hup hon hfull⟩

end Sys2Proof.FlowControl


/-! PROOFS of the port family, reception (O52): what a received frame counts on its way through the classification, and where it ends. -/

namespace Sys2Proof.Reception

set_option Elab.async false

open Sys2Proof.Machine Sys2Proof.Safety Sys2Proof.Laws Sys2Proof.PortRules

section Rows

variable {s : State} {q : Nat} {p : Port} {b : Bytes}

/-! ### What a frame counts in front of the rows (R269) -/

/-- The counters of FEC, of fragments and of frames received intact. -/
def isIntake (j : Nat) : Prop := (13 ≤ j ∧ j ≤ 15) ∨ j = 21 ∨ 38 ≤ j

/-- A frame that the link delivered, counted so far. -/
def takenIn (s : State) (q : Nat) (b : Bytes) (express : Bool) (fragments codewords : Nat) (symbols : List Nat) : State :=
  countIntact (bumpPort (countFec s q codewords symbols) q 15 fragments) q express (classifyFrame (portOf s q).rcd q b)

theorem takenIn_frame (express : Bool) (fragments codewords : Nat) (symbols : List Nat) :
    Frame [.ports] s (takenIn s q b express fragments codewords symbols) :=
  ((countFec_frame s q codewords symbols).trans (bumpPort_frame _ q 15 fragments)).trans (countIntact_frame _ q express _)

theorem portOf_countFec (s : State) (q codewords : Nat) (symbols : List Nat) : CountsOnly isIntake (portOf s q) (portOf (countFec s q codewords symbols) q) := by
  have hwords : CountsOnly isIntake (portOf s q) (portOf (bumpPort s q 21 codewords) q) := by
    rw [portOf_bumpPort_self]
    exact (CountsOnly.refl _ _).bumped (.inr (.inl rfl)) codewords
  refine hwords.trans (CountsOnly.foldl _ _ fun t i _ => ?_)
  rw [portOf_bumpPort_self]
  exact (CountsOnly.refl _ _).bumped (.inr (.inr (by omega))) _

theorem portOf_takenIn (s : State) (q : Nat) (b : Bytes) (express : Bool) (fragments codewords : Nat) (symbols : List Nat) :
    CountsOnly isIntake (portOf s q) (portOf (takenIn s q b express fragments codewords symbols) q) := by
  have hfragments := (portOf_countFec s q codewords symbols).bumped (i := 15) (.inl (by omega)) fragments
  unfold takenIn countIntact
  split
  · rwa [portOf_bumpPort_self]
  · rw [portOf_bumpPort_self, portOf_bumpPort_self]
    exact hfragments.bumped (by unfold isIntake; split <;> omega) 1

theorem exec_ethernetFrameReceive_ok (hp : portOf s q = p) (hup : p.up = true) {c : RxClass} (hc : classifyFrame p.rcd q b = c)
    (express : Bool) (fragments codewords : Nat) (symbols : List Nat) :
    exec (.ethernetFrameReceive q (.ok express fragments codewords symbols) b) s =
      .next (actClass (takenIn s q b express fragments codewords symbols) q b c) := by
  subst hp hc
  exact if_neg (by simp [hup])

/-! ### The rows (R268) -/

/-- A frame that the link itself could not deliver advances one counter. -/
theorem receiveError_counted (hp : portOf s q = p) {e : Instr} {i k : Nat} (h : exec e s = .next (bumpPort s q i k)) :
    ∃ t, exec e s = .next t ∧ t = { s with ports := t.ports } ∧ portOf t q = { p with counters := (portOf t q).counters } ∧
      ∀ j, kget 0 (portOf t q).counters j = if j = i then satAdd max64 (kget 0 p.counters i) k else kget 0 p.counters j := by
  subst hp
  refine ⟨_, h, rfl, ?_⟩
  rw [portOf_bumpPort_self]
  exact ⟨rfl, kget_bumped _ i k⟩

/-- The counter of the row that drops a frame advances, and no counter of another row. -/
theorem bumpPort_after_intake {u : State} (h : CountsOnly isIntake (portOf s q) (portOf u q)) {i j : Nat} (hlo : 22 ≤ j) (hhi : j ≤ 37) :
    kget 0 (portOf (bumpPort u q i 1) q).counters j =
      if j = i then satAdd max64 (kget 0 (portOf s q).counters i) 1 else kget 0 (portOf s q).counters j := by
  have hkept : kget 0 (portOf u q).counters j = kget 0 (portOf s q).counters j := h.2 j (by unfold isIntake; omega)
  rw [portOf_bumpPort_self, kget_bumped]
  split
  · next hj => rw [← hj, hkept]
  · exact hkept

theorem droppedFrame_counted (hp : portOf s q = p) (hup : p.up = true) {i : Nat} (hc : classifyFrame p.rcd q b = .drop i)
    (express : Bool) (fragments codewords : Nat) (symbols : List Nat) :
    ∃ t, exec (.ethernetFrameReceive q (.ok express fragments codewords symbols) b) s = .next t ∧ t = { s with ports := t.ports } ∧
      ∀ j, 24 ≤ j → j ≤ 36 → kget 0 (portOf t q).counters j = if j = i then satAdd max64 (kget 0 p.counters i) 1 else kget 0 p.counters j := by
  have hexec := exec_ethernetFrameReceive_ok hp hup hc express fragments codewords symbols
  subst hp
  exact ⟨_, hexec, onlyPorts_of_frame ((takenIn_frame express fragments codewords symbols).trans (bumpPort_frame _ q i 1)),
    fun j hlo hhi => bumpPort_after_intake (portOf_takenIn s q b express fragments codewords symbols) (by omega) (by omega)⟩

/-! ### The way into the transport (R267, R268) -/

/-- The state in which a frame without a UDP checksum is counted. -/
def sumChecked (s : State) (q : Nat) (noSum : Bool) : State := if noSum then bumpPort s q 34 1 else s

theorem sumChecked_frame (s : State) (q : Nat) (noSum : Bool) : Frame [.ports] s (sumChecked s q noSum) := by
  unfold sumChecked
  split
  · exact bumpPort_frame s q 34 1
  · exact Frame.refl _ _

theorem portOf_sumChecked (s : State) (q : Nat) (noSum : Bool) : CountsOnly (fun j => j = 34) (portOf s q) (portOf (sumChecked s q noSum) q) := by
  unfold sumChecked
  split
  · rw [portOf_bumpPort_self]
    exact (CountsOnly.refl (fun j => j = 34) _).bumped rfl 1
  · exact CountsOnly.refl _ _

theorem sumChecked_node (s : State) (q : Nat) (noSum : Bool) : (sumChecked s q noSum).slory.node = s.slory.node :=
  congrArg Slory.node (sumChecked_frame s q noSum .slory (by decide))

/-- The octets of a frame that is taken are held for its priority. -/
def heldFor (p : Port) (f : RxFrame) : Port := { p with rxHeld := kset 0 p.rxHeld f.prio (kget 0 p.rxHeld f.prio + f.octets) }

/-- A frame that the receive buffer takes: it is counted, its octets are held, and it waits for the transport. -/
def buffered (s : State) (q : Nat) (f : RxFrame) : State :=
  let u := bumpPort (bumpPort s q 11 1) q 12 f.octets
  { setPort u q (heldFor (portOf u q) f) with slory := { s.slory with rx := s.slory.rx ++ [{ f with at_ := s.clk.cycles }] } }

theorem buffered_frame (s : State) (q : Nat) (f : RxFrame) : Frame [.ports, .slory] s (buffered s q f) := by
  have hcounted : Frame [.ports] s (bumpPort (bumpPort s q 11 1) q 12 f.octets) := (bumpPort_frame s q 11 1).trans (bumpPort_frame _ q 12 f.octets)
  unfold buffered
  dsimp only
  with_reducible refine Frame.upd rfl ?_
  exact (hcounted.trans (setPort_frame _ q _)).mono (by decide)

theorem portOf_buffered (s : State) (q : Nat) (f : RxFrame) :
    portOf (buffered s q f) q = heldFor (bumped (bumped (portOf s q) 11 1) 12 f.octets) f := by
  have hport : portOf (bumpPort (bumpPort s q 11 1) q 12 f.octets) q = bumped (bumped (portOf s q) 11 1) 12 f.octets := by
    rw [portOf_bumpPort_self, portOf_bumpPort_self]
  rw [← hport]
  exact portOf_setPort_self _ q _

/-- Below its limits or above them, a priority's PFC frame is an express frame more: only the counter of a full buffer may advance. -/
theorem pfcCheck_counters (s : State) (q prio : Nat) {j : Nat} (hj : j ≠ 9) :
    kget 0 (portOf (pfcCheck s q prio) q).counters j = kget 0 (portOf s q).counters j := by
  have hsent (r : Port) (quanta : Nat) (hr : r.counters = (portOf s q).counters) :
      kget 0 (portOf (sendPfc (setPort s q r) q prio quanta) q).counters j = kget 0 (portOf s q).counters j := by
    obtain ⟨-, -, hcounters⟩ := enqueueFrame_express (setPort s q r) q
      ⟨pfcBytes (portOf (setPort s q r) q).rcd prio quanta, none, none, 8⟩
    exact (hcounters j hj).trans (by rw [portOf_setPort_self, hr])
  unfold pfcCheck
  dsimp only
  split_ifs
  · rfl
  · exact hsent _ _ rfl
  · exact hsent _ _ rfl
  · rfl

theorem acceptUdp_otherPort {noSum : Bool} {f : RxFrame} {port : Nat} (h : ∀ nd, s.slory.node = some nd → port ≠ nd.port) :
    acceptUdp s q noSum f port = bumpPort (sumChecked s q noSum) q 35 1 := by
  have hnode := sumChecked_node s q noSum
  unfold acceptUdp
  unfold sumChecked at hnode ⊢
  dsimp only
  rw [hnode]
  cases hn : s.slory.node with
  | none => rfl
  | some nd => exact if_pos (by simpa using h nd hn)

theorem acceptUdp_full {noSum : Bool} {f : RxFrame} {nd : NodeRec} (hn : s.slory.node = some nd) (hp : (portOf (sumChecked s q noSum) q).rxHeld = p.rxHeld)
    (hfull : 524288 < rxTotal p + f.octets) : acceptUdp s q noSum f nd.port = bumpPort (sumChecked s q noSum) q 36 1 := by
  have hnode := sumChecked_node s q noSum
  unfold rxTotal at hfull
  unfold acceptUdp rxTotal
  unfold sumChecked at hnode hp ⊢
  dsimp only
  rw [hnode, hn, hp, if_neg (by simp), if_pos hfull]

theorem acceptUdp_fits {noSum : Bool} {f : RxFrame} {nd : NodeRec} (hn : s.slory.node = some nd) (hp : (portOf (sumChecked s q noSum) q).rxHeld = p.rxHeld)
    (hfits : rxTotal p + f.octets ≤ 524288) : acceptUdp s q noSum f nd.port = pfcCheck (buffered (sumChecked s q noSum) q f) q f.prio := by
  have hnode := sumChecked_node s q noSum
  unfold rxTotal at hfits
  unfold acceptUdp rxTotal
  unfold sumChecked at hnode hp ⊢
  dsimp only
  rw [hnode, hn, hp, if_neg (by simp), if_neg (by omega)]
  rfl

theorem exec_udp (hp : portOf s q = p) (hup : p.up = true) {noSum : Bool} {f : RxFrame} {port : Nat}
    (hc : classifyFrame p.rcd q b = .udp noSum f port) (express : Bool) (fragments codewords : Nat) (symbols : List Nat) :
    ∃ u, exec (.ethernetFrameReceive q (.ok express fragments codewords symbols) b) s = .next (acceptUdp u q noSum f port) ∧
      Frame [.ports] s u ∧ CountsOnly (fun j => isIntake j ∨ j = 34) p (portOf (sumChecked u q noSum) q) := by
  have hexec := exec_ethernetFrameReceive_ok hp hup hc express fragments codewords symbols
  subst hp
  exact ⟨_, hexec, takenIn_frame express fragments codewords symbols,
    ((portOf_takenIn s q b express fragments codewords symbols).mono fun _ => .inl).trans ((portOf_sumChecked _ q noSum).mono fun _ => .inr)⟩

theorem refusedUdp_counted (hp : portOf s q = p) (hup : p.up = true) {noSum : Bool} {f : RxFrame} {port i : Nat}
    (hc : classifyFrame p.rcd q b = .udp noSum f port)
    (hi : ((∀ nd, s.slory.node = some nd → port ≠ nd.port) ∧ i = 35) ∨
      ((∃ nd, s.slory.node = some nd ∧ port = nd.port) ∧ 524288 < rxTotal p + f.octets ∧ i = 36))
    (express : Bool) (fragments codewords : Nat) (symbols : List Nat) :
    ∃ t, exec (.ethernetFrameReceive q (.ok express fragments codewords symbols) b) s = .next t ∧ t = { s with ports := t.ports } ∧
      kget 0 (portOf t q).counters i = satAdd max64 (kget 0 p.counters i) 1 := by
  obtain ⟨u, hexec, hframe, hcounted⟩ := exec_udp hp hup hc express fragments codewords symbols
  have hnode : u.slory.node = s.slory.node := congrArg Slory.node (hframe .slory (by decide))
  have hrefused : acceptUdp u q noSum f port = bumpPort (sumChecked u q noSum) q i 1 ∧ ¬ (isIntake i ∨ i = 34) := by
    rcases hi with ⟨hother, rfl⟩ | ⟨⟨nd, hn, rfl⟩, hfull, rfl⟩
    · exact ⟨acceptUdp_otherPort (by rwa [hnode]), by unfold isIntake; omega⟩
    · exact ⟨acceptUdp_full (hnode.trans hn) (by rw [hcounted.1]) hfull, by unfold isIntake; omega⟩
  rw [hrefused.1] at hexec
  refine ⟨_, hexec, onlyPorts_of_frame ((hframe.trans (sumChecked_frame u q noSum)).trans (bumpPort_frame _ q i 1)), ?_⟩
  rw [portOf_bumpPort_self, kget_bumped, if_pos rfl, hcounted.2 i hrefused.2]

theorem acceptedUdp_waits (hp : portOf s q = p) (hup : p.up = true) {noSum : Bool} {f : RxFrame} {nd : NodeRec}
    (hc : classifyFrame p.rcd q b = .udp noSum f nd.port) (hn : s.slory.node = some nd) (hfits : rxTotal p + f.octets ≤ 524288)
    (express : Bool) (fragments codewords : Nat) (symbols : List Nat) :
    ∃ t, exec (.ethernetFrameReceive q (.ok express fragments codewords symbols) b) s = .next t ∧
      t = { s with ports := t.ports, slory := t.slory } ∧ t.slory = { s.slory with rx := s.slory.rx ++ [{ f with at_ := s.clk.cycles }] } ∧
      kget 0 (portOf t q).counters 11 = satAdd max64 (kget 0 p.counters 11) 1 := by
  obtain ⟨u, hexec, hframe, hcounted⟩ := exec_udp hp hup hc express fragments codewords symbols
  have hslory : u.slory = s.slory := hframe .slory (by decide)
  rw [acceptUdp_fits (hslory ▸ hn) (by rw [hcounted.1]) hfits] at hexec
  have hchecked := hframe.trans (sumChecked_frame u q noSum)
  have hwaits : Frame [.ports] (buffered (sumChecked u q noSum) q f) (pfcCheck (buffered (sumChecked u q noSum) q f) q f.prio) :=
    pfcCheck_frame _ q f.prio
  refine ⟨_, hexec, onlyPortsSlory_of_frame (((hchecked.mono (by decide)).trans (buffered_frame _ q f)).trans (hwaits.mono (by decide))), ?_, ?_⟩
  · have hclk : (sumChecked u q noSum).clk = s.clk := hchecked .clk (by decide)
    have hrx : (sumChecked u q noSum).slory = s.slory := hchecked .slory (by decide)
    have hsame : (pfcCheck (buffered (sumChecked u q noSum) q f) q f.prio).slory = (buffered (sumChecked u q noSum) q f).slory :=
      hwaits .slory (by decide)
    rw [hsame, buffered, hrx, hclk]
  · have hkept : kget 0 (portOf (sumChecked u q noSum) q).counters 11 = kget 0 p.counters 11 := hcounted.2 11 (by unfold isIntake; omega)
    rw [pfcCheck_counters _ q _ (by decide), portOf_buffered]
    exact (kget_bumped ..).trans ((if_neg (by decide)).trans ((kget_bumped ..).trans (by rw [if_pos rfl, hkept])))

/-! ### Questions that the port answers (R268 rows 10 and 13) -/

/-- A question is counted, and a frame `g` answers it where it is for this port. -/
def answered (s : State) (q : Nat) (asked : Bool) (g : TxFrame) : State :=
  let u := bumpPort (bumpPort s q 14 1) q 30 1
  if asked then enqueueFrame u q false g else u

theorem answered_queued (hp : portOf s q = p) {asked : Bool} {g : TxFrame} {e : Instr} (h : exec e s = .next (answered s q asked g)) :
    ∃ t, exec e s = .next t ∧ t = { s with ports := t.ports } ∧ kget 0 (portOf t q).counters 30 = satAdd max64 (kget 0 p.counters 30) 1 ∧
      (portOf t q).bulk ++ (portOf t q).bulkWait = p.bulk ++ p.bulkWait ++ (if asked then [g] else []) := by
  subst hp
  have hport : portOf (bumpPort (bumpPort s q 14 1) q 30 1) q = bumped (bumped (portOf s q) 14 1) 30 1 := by
    rw [portOf_bumpPort_self, portOf_bumpPort_self]
  have hcounter : kget 0 (bumped (bumped (portOf s q) 14 1) 30 1).counters 30 = satAdd max64 (kget 0 (portOf s q).counters 30) 1 := by simp
  have hframe := (bumpPort_frame s q 14 1).trans (bumpPort_frame _ q 30 1)
  refine ⟨_, h, ?_⟩
  unfold answered
  cases asked with
  | false =>
    refine ⟨onlyPorts_of_frame hframe, ?_⟩
    dsimp only
    rw [if_neg Bool.false_ne_true, hport, if_neg Bool.false_ne_true, List.append_nil]
    exact ⟨hcounter, rfl⟩
  | true =>
    obtain ⟨heq, hqueued⟩ := enqueueFrame_bulk (bumpPort (bumpPort s q 14 1) q 30 1) q g
    refine ⟨onlyPorts_of_frame (hframe.trans (enqueueFrame_frame _ q false g)), ?_⟩
    rw [hport] at heq hqueued
    dsimp only
    rw [if_pos rfl, if_pos rfl]
    exact ⟨by rw [heq]; exact hcounter, hqueued⟩

theorem answered_rcd (s : State) (q : Nat) : (portOf (bumpPort (bumpPort s q 14 1) q 30 1) q).rcd = (portOf s q).rcd := by
  rw [portOf_bumpPort_self, portOf_bumpPort_self]
  rfl

theorem exec_arpRequest (hp : portOf s q = p) (hup : p.up = true) {r : Bool} (hc : classifyFrame p.rcd q b = .arp r) :
    exec (.arpRequest q b) s = .next (answered s q r ⟨arpReply p.rcd b, none, none, classPrio p.rcd false⟩) := by
  subst hp
  have hasked : exec (.arpRequest q b) s = .next (actClass (countIntact s q false (.arp r)) q b (.arp r)) := by
    show execArpRequest q b s = _
    unfold execArpRequest
    rw [hc]
    exact if_pos ⟨hup, by cases r <;> simp⟩
  rw [hasked, countIntact_eq s q false fun _ => RxClass.noConfusion, ← answered_rcd s q]
  rfl

theorem exec_neighbourSolicitation (hp : portOf s q = p) (hup : p.up = true) {r : Bool} (hc : classifyFrame p.rcd q b = .solicit r) :
    exec (.neighbourSolicitation q b) s = .next (answered s q r ⟨advertisement p.rcd b, none, none, classPrio p.rcd false⟩) := by
  subst hp
  have hasked : exec (.neighbourSolicitation q b) s = .next (actClass (countIntact s q false (.solicit r)) q b (.solicit r)) := by
    show execNeighbourSolicitation q b s = _
    unfold execNeighbourSolicitation
    rw [hc]
    exact if_pos ⟨hup, by cases r <;> simp⟩
  rw [hasked, countIntact_eq s q false fun _ => RxClass.noConfusion, ← answered_rcd s q]
  rfl

theorem exec_receiveError (hp : portOf s q = p) (hup : p.up = true) {e : PhyStatus} {i k : Nat}
    (he : (∃ n, e = .fecError n ∧ i = 22 ∧ k = n + 1) ∨ (e = .pcsError ∧ i = 23 ∧ k = 1) ∨ (e = .assemblyError ∧ i = 16 ∧ k = 1) ∨
      (e = .smdError ∧ i = 17 ∧ k = 1)) : exec (.ethernetFrameReceive q e b) s = .next (bumpPort s q i k) := by
  subst hp
  have hlive : ¬ (!(portOf s q).up) = true := by simp [hup]
  rcases he with ⟨n, rfl, rfl, rfl⟩ | ⟨rfl, rfl, rfl⟩ | ⟨rfl, rfl, rfl⟩ | ⟨rfl, rfl, rfl⟩ <;> exact if_neg hlive

end Rows

/-- Settles O52, by the row in which each classification ends; the layout of the neighbour advertisement is the model's choice, that of
RFC 4861 (log entry 30). -/
theorem receivedFramesAreClassified : Obligations.ReceivedFramesAreClassified := by
  unfold Obligations.ReceivedFramesAreClassified
  intro s q p b hp hup
  refine ⟨fun e i k he => receiveError_counted hp (exec_receiveError hp hup he), fun express fragments codewords symbols => ⟨?dropped, ?refused, ?waits⟩,
    fun r hc => answered_queued hp (exec_arpRequest hp hup hc), fun r hc => answered_queued hp (exec_neighbourSolicitation hp hup hc)⟩
  case dropped => exact fun i hc => droppedFrame_counted hp hup hc express fragments codewords symbols
  case refused => exact fun noSum f port i hc hi => refusedUdp_counted hp hup hc hi express fragments codewords symbols
  case waits => exact fun noSum f nd hc hn hfits => acceptedUdp_waits hp hup hc hn hfits express fragments codewords symbols

end Sys2Proof.Reception


/-! PROOFS of the port family, the link and its configuration (O49): what a link that goes down leaves of its port, what a record makes of
the port that it names, and that FABRIC_CONFIG reaches each port it names once. -/

namespace Sys2Proof.PortLinks

set_option Elab.async false

open Sys2Proof.Machine Sys2Proof.Safety Sys2Proof.Laws Sys2Proof.Timetables Sys2Proof.Checkpoints Sys2Proof.PortRules Sys2Proof.FlowControl

/-! ### A link that goes down (R262, R269, R270) -/

theorem portOf_settlePort (s : State) (q : Nat) : QuantaCounted (portOf s q) (portOf (settlePort s q) q) :=
  List.foldlRecOn (motive := fun t => QuantaCounted (portOf s q) (portOf t q)) _ _ (QuantaCounted.refl _)
    fun t ht i _ => ht.trans (portOf_settlePause t q i)

/-- What is left of a port whose link is lost, but for its counters. -/
def linkLost (p : Port) : Port :=
  { p with
    up := false, onWire := none, expressWire := none, cut := false, cuts := 0, preempt := false, verify := 0, linkChange := true, paused := 0
    quanta := [], pausedAt := [], counted := [], express := p.express.filter fun f => decide (f.prio ≠ 9) }

/-- Frames on the wire of a port. -/
def wireFrames (p : Port) : Nat := b2n p.onWire.isSome + b2n p.expressWire.isSome

theorem dropLink_of_down {s : State} {q : Nat} (h : (portOf s q).up = false) : dropLink s q = s := if_neg (by simp [h])

/-- A link that was up: its quanta are counted, the loss and the frames lost too, and vector 258 is raised. -/
theorem dropLink_of_up {s : State} {q : Nat} (h : (portOf s q).up = true) : ∃ t u, Frame [.ports] s t ∧ dropLink s q = raiseVector t 258 ∧
    QuantaCounted (portOf s q) u ∧ portOf t q = linkLost (bumped (bumped u 37 1) 10 (wireFrames (portOf s q))) := by
  have hframe := ((settlePort_frame s q).trans (bumpPort_frame _ q 37 1)).trans (bumpPort_frame _ q 10 (wireFrames (portOf s q)))
  refine ⟨_, _, hframe.trans (setPort_frame _ q _), if_pos h, portOf_settlePort s q, ?_⟩
  rw [portOf_setPort_self, ← portOf_bumpPort_self, ← portOf_bumpPort_self]
  rfl

theorem portOf_dropLink_of_up {s : State} {q : Nat} (h : (portOf s q).up = true) : ∃ u, QuantaCounted (portOf s q) u ∧
    portOf (dropLink s q) q = linkLost (bumped (bumped u 37 1) 10 (wireFrames (portOf s q))) := by
  obtain ⟨t, u, -, hdrop, hu, hport⟩ := dropLink_of_up h
  exact ⟨u, hu, by rw [hdrop, portOf_raiseVector, hport]⟩

theorem dropLink_raised {s : State} {q : Nat} (h : (portOf s q).up = true) : VectorRaised s (dropLink s q) 258 := by
  obtain ⟨t, -, hframe, hdrop, -⟩ := dropLink_of_up h
  rw [hdrop]
  exact vectorRaised_of_keeps (MessagesKept.of_frame hframe (by decide) (by decide) 258) (raiseVector_raised t 258)

theorem dropLink_up (s : State) (q : Nat) : (portOf (dropLink s q) q).up = false := by
  cases h : (portOf s q).up with
  | false => rw [dropLink_of_down h, h]
  | true =>
    obtain ⟨u, -, hport⟩ := portOf_dropLink_of_up h
    rw [hport]
    rfl

/-! ### Other ports -/

section Others

variable {q k : Nat} (h : k ≠ q)

include h

theorem portOf_countPause_of_ne (s : State) (i n : Nat) : portOf (countPause s q i n) k = portOf s k := by
  unfold countPause
  dsimp only
  split_ifs <;> simp only [portOf_bumpPort_of_ne _ _ _ h]

theorem portOf_settlePause_of_ne (s : State) (i : Nat) : portOf (settlePause q s i) k = portOf s k := by
  unfold settlePause
  dsimp only
  split
  · rw [portOf_setPort_of_ne _ _ h, portOf_countPause_of_ne h]
  · rfl

theorem portOf_settlePort_of_ne (s : State) : portOf (settlePort s q) k = portOf s k :=
  List.foldlRecOn (motive := fun t => portOf t k = portOf s k) _ _ rfl fun t ht i _ => (portOf_settlePause_of_ne h t i).trans ht

theorem portOf_dropLink_of_ne (s : State) : portOf (dropLink s q) k = portOf s k := by
  unfold dropLink
  dsimp only
  split
  · rw [portOf_raiseVector, portOf_setPort_of_ne _ _ h, portOf_bumpPort_of_ne _ _ _ h, portOf_bumpPort_of_ne _ _ _ h, portOf_settlePort_of_ne h]
  · rfl

theorem portOf_applyPortRec_of_ne (s : State) (r : PortRec) : portOf (applyPortRec s q r) k = portOf s k :=
  (portOf_setPort_of_ne _ _ h).trans (portOf_dropLink_of_ne h s)

end Others

/-! ### FABRIC_CONFIG (R258 to R260, R273) -/

/-- A port as its record `r` leaves it: down, with empty buffers, and training unless LANES is 0. -/
def Configured (r : PortRec) (p : Port) : Prop :=
  p.rcd = r ∧ p.up = false ∧ p.training = decide (p.rcd.lanes ≠ 0) ∧
  p.express = [] ∧ p.expressWait = [] ∧ p.bulk = [] ∧ p.bulkWait = [] ∧ p.rxHeld = []

theorem applyPortRec_configured (s : State) (q : Nat) (r : PortRec) : Configured r (portOf (applyPortRec s q r) q) := by
  unfold applyPortRec
  dsimp only
  rw [portOf_setPort_self]
  exact ⟨rfl, dropLink_up s q, rfl, rfl, rfl, rfl, rfl, rfl⟩

theorem applyPortRec_node (s : State) (q : Nat) (r : PortRec) : (applyPortRec s q r).slory.node = s.slory.node := by
  have hdrop : (dropLink s q).slory = s.slory := dropLink_frame s q .slory (by decide)
  show (dropLink s q).slory.node = s.slory.node
  rw [hdrop]

/-- The records `rec i` applied to the ports `at i` for `i` below `n`. -/
def applyRecs (port : Nat → Nat) (rcd : Nat → PortRec) (s : State) (n : Nat) : State :=
  (List.range n).foldl (fun s i => applyPortRec s (port i) (rcd i)) s

section Records

variable (port : Nat → Nat) (rcd : Nat → PortRec) (s : State)

theorem applyRecs_succ (n : Nat) : applyRecs port rcd s (n + 1) = applyPortRec (applyRecs port rcd s n) (port n) (rcd n) := by
  unfold applyRecs
  rw [List.range_succ, List.foldl_append]
  rfl

theorem applyRecs_frame (n : Nat) : Frame [.msix, .ports, .slory, .out] s (applyRecs port rcd s n) :=
  Frame.foldl _ _ (fun t i => applyPortRec_frame t (port i) (rcd i)) (Frame.refl _ s)

theorem applyRecs_node (n : Nat) : (applyRecs port rcd s n).slory.node = s.slory.node :=
  List.foldlRecOn (motive := fun t => t.slory.node = s.slory.node) _ _ rfl fun t ht _ _ => (applyPortRec_node t _ _).trans ht

theorem portOf_applyRecs_of_ne {q n : Nat} (h : ∀ i < n, q ≠ port i) : portOf (applyRecs port rcd s n) q = portOf s q :=
  List.foldlRecOn (motive := fun t => portOf t q = portOf s q) _ _ rfl fun t ht i hi =>
    (portOf_applyPortRec_of_ne (h i (List.mem_range.mp hi)) t (rcd i)).trans ht

/-- Where no two records name one port, each port has the record that names it. -/
theorem applyRecs_configured {n : Nat} (hinj : ∀ i < n, ∀ j < n, port i = port j → i = j) :
    ∀ i < n, Configured (rcd i) (portOf (applyRecs port rcd s n) (port i)) := by
  induction n with
  | zero => exact fun i hi => absurd hi (by omega)
  | succ n ih =>
    intro i hi
    rw [applyRecs_succ]
    by_cases hlast : i = n
    · exact hlast ▸ applyPortRec_configured _ (port i) (rcd i)
    · rw [portOf_applyPortRec_of_ne fun e => hlast (hinj i hi n (by omega) e)]
      exact ih (fun i hi j hj => hinj i (by omega) j (by omega)) i (by omega)

end Records

/-- The ports that a FABRIC_CONFIG names. -/
def namedPorts (c : Cmd) : List Nat := (List.range 8).filter fun q => c.desc.getLsbD (288 + q)

/-- Offset of the record of the `i`-th port that a FABRIC_CONFIG names. -/
def recordOffset (c : Cmd) (i : Nat) : Nat := (if c.desc.getLsbD 296 then 288 else 0) + 64 * i

/-- The transport takes the node record that a FABRIC_CONFIG carries. -/
def nodeApplied (s : State) (c : Cmd) : State :=
  if c.desc.getLsbD 296 then { s with slory := { s.slory with node := some (nodeRecAt c.param) } } else s

/-- The state in which a FABRIC_CONFIG has been carried out. -/
def configured (s : State) (c : Cmd) : State :=
  applyRecs (fun i => (namedPorts c).getD i 0) (fun i => portRecAt c.param (recordOffset c i)) (nodeApplied s c) (namedPorts c).length

theorem namedPorts_inj (c : Cmd) : ∀ i < (namedPorts c).length, ∀ j < (namedPorts c).length, (namedPorts c).getD i 0 = (namedPorts c).getD j 0 → i = j := by
  intro i hi j hj h
  rw [List.getD_eq_getElem _ _ hi, List.getD_eq_getElem _ _ hj] at h
  exact (List.nodup_range.filter _).getElem_inj_iff.mp h

theorem nodeApplied_frame (s : State) (c : Cmd) : Frame [.slory] s (nodeApplied s c) := by
  unfold nodeApplied
  split
  · with_reducible refine Frame.upd rfl ?_
    exact Frame.refl _ _
  · exact Frame.refl _ _

theorem configured_frame (s : State) (c : Cmd) : Frame [.msix, .ports, .slory, .out] s (configured s c) :=
  ((nodeApplied_frame s c).mono (by decide)).trans (applyRecs_frame _ _ _ _)

theorem configured_node (s : State) (c : Cmd) :
    (configured s c).slory.node = if c.desc.getLsbD 296 then some (nodeRecAt c.param) else s.slory.node := by
  refine (applyRecs_node _ _ _ _).trans ?_
  unfold nodeApplied
  split <;> rfl

/-- The record that a port has once a FABRIC_CONFIG is carried out. -/
def laterRecord (s : State) (c : Cmd) (q : Nat) : PortRec :=
  match (namedPorts c).findIdx? (· == q) with
  | some i => portRecAt c.param (recordOffset c i)
  | none => (portOf s q).rcd

section FabricConfig

variable {s : State} {c : Cmd}

theorem exec_fabricConfig (hc : curCmd s .admin 0x00B0 = some c)
    (hrecs : ∀ i < (namedPorts c).length, portRecFault c.param ((namedPorts c).getD i 0) (recordOffset c i) = none)
    (hclaimed : ∀ q ∈ namedPorts c, portClaimed s q = false)
    (hnode : c.desc.getLsbD 296 = true → (∀ x ∈ s.steps, x.state.live = false ∧ x.state ≠ .hold) ∧ nodeRecFault c.param (laterRecord s c) = none) :
    exec (.fabricConfig .admin) s = .next (endOk (configured s c) .admin c 0) := by
  show execFabricConfig .admin s = _
  unfold execFabricConfig withCmd
  rw [hc]
  dsimp only
  split
  · next o ho =>
    obtain ⟨i, hi, hfault⟩ := List.exists_of_findSome?_eq_some ho
    exact absurd ((hrecs i (List.mem_range.mp hi)).symm.trans hfault) nofun
  split
  · next hany =>
    obtain ⟨q, hq, hclaim⟩ := List.any_eq_true.mp hany
    exact absurd ((hclaimed q hq).symm.trans hclaim) nofun
  split
  · next o ho =>
    have hfault : (if c.desc.getLsbD 296 then nodeRecFault c.param (laterRecord s c) else none) = none := by
      split
      · next hw => exact (hnode hw).2
      · rfl
    exact absurd (hfault.symm.trans ho) nofun
  split
  · next hbusy =>
    obtain ⟨hw, hany⟩ := (Bool.and_eq_true ..).mp hbusy
    obtain ⟨x, hx, hlive⟩ := List.any_eq_true.mp hany
    obtain ⟨hdead, hhold⟩ := (hnode hw).1 x hx
    simp [hdead, hhold] at hlive
  rfl

/-- What a FABRIC_CONFIG that is carried out leaves. -/
theorem configured_ended (hc : Current s .admin 0x00B0 c) :
    Ended s (endOk (configured s c) .admin c 0) .admin c 0 0 ∧ (endOk (configured s c) .admin c 0).steps = s.steps ∧
    (endOk (configured s c) .admin c 0).slory.node = (if c.desc.getLsbD 296 then some (nodeRecAt c.param) else s.slory.node) ∧
    ∀ q, portOf (endOk (configured s c) .admin c 0) q = portOf (configured s c) q := by
  have hframe := configured_frame s c
  have hend := endOk_frame (configured s c) .admin c 0
  have hslory : (endOk (configured s c) .admin c 0).slory = (configured s c).slory := hend .slory (by decide)
  have hsteps : (endOk (configured s c) .admin c 0).steps = (configured s c).steps := hend .steps (by decide)
  exact ⟨endOk_ended hc (hframe.ring (by decide) (by decide) _) (hframe .host (by decide)) 0, hsteps.trans (hframe .steps (by decide)),
    by rw [hslory, configured_node], portOf_of_frame hend (by decide)⟩

theorem configured_ports (s : State) (c : Cmd) :
    (∀ i < (namedPorts c).length, Configured (portRecAt c.param (recordOffset c i)) (portOf (configured s c) ((namedPorts c).getD i 0))) ∧
    ∀ q, q ∉ namedPorts c → portOf (configured s c) q = portOf s q := by
  refine ⟨applyRecs_configured _ _ _ (namedPorts_inj c), fun q hq => ?_⟩
  refine (portOf_applyRecs_of_ne _ _ _ fun i hi e => hq ?_).trans (portOf_of_frame (nodeApplied_frame s c) (by decide) q)
  rw [e, List.getD_eq_getElem _ _ hi]
  exact List.getElem_mem hi

end FabricConfig

/-! ### The link (R255, R260, R264, R270) -/

section Link

variable {s : State} {q : Nat} {p : Port} (hp : portOf s q = p)

include hp

/-- A port whose link has come up. -/
def linkUp (p : Port) (inverted : Nat) : Port :=
  { p with
    up := true, training := false, advert := none, polarity := inverted % 2 ^ laneCount p.rcd.lanes, linkChange := true
    verify := b2n (p.rcd.preemptEn && p.rcd.verifyEn), preempt := p.rcd.preemptEn && !p.rcd.verifyEn }

theorem portLinkUp_comesUp (inverted : Nat) (htrain : p.training = true) (hdown : p.up = false) (hlanes : p.rcd.lanes ≠ 0) :
    ∃ t r, exec (.portLinkUp q inverted) s = .next t ∧ portOf t q = r ∧ VectorRaised s t 258 ∧ t = { s with ports := t.ports, msix := t.msix, out := t.out } ∧
      r = { linkUp p inverted with express := r.express, expressWait := r.expressWait, counters := r.counters } ∧
      r.express ++ r.expressWait = p.express ++ p.expressWait ++
        (if p.rcd.preemptEn && p.rcd.verifyEn then [⟨verifyPacket false, none, none, 9⟩] else []) ∧
      ∀ k, k ≠ 9 → kget 0 r.counters k = kget 0 p.counters k := by
  subst hp
  obtain ⟨u, hexec, hu⟩ : ∃ u, exec (.portLinkUp q inverted) s = .next (raiseVector u 258) ∧
      u = if (portOf s q).rcd.preemptEn && (portOf s q).rcd.verifyEn then sendVerify (setPort s q (linkUp (portOf s q) inverted)) q false
        else setPort s q (linkUp (portOf s q) inverted) := ⟨_, if_pos ⟨htrain, by simp [hdown], hlanes⟩, rfl⟩
  have hset := setPort_frame s q (linkUp (portOf s q) inverted)
  have hframe : Frame [.ports] s u := by
    rw [hu]
    split
    · exact hset.trans (enqueueFrame_frame _ q true _)
    · exact hset
  refine ⟨_, _, hexec, rfl, vectorRaised_of_keeps (MessagesKept.of_frame hframe (by decide) (by decide) 258) (raiseVector_raised u 258),
    onlyPortsMsixOut_of_frame ((hframe.mono (by decide)).trans ((raiseVector_frame u 258).mono (by decide))), ?_⟩
  rw [portOf_raiseVector, hu]
  split
  · have hqueued := enqueueFrame_express (setPort s q (linkUp (portOf s q) inverted)) q ⟨verifyPacket false, none, none, 9⟩
    rw [portOf_setPort_self] at hqueued
    exact hqueued
  · rw [portOf_setPort_self]
    exact ⟨rfl, (List.append_nil _).symm, fun _ _ => rfl⟩

/-- A port that trains again. -/
def retraining (p : Port) : Port := { p with training := true, advert := advertised p.rcd }

theorem portLinkDown_trains (hup : p.up = true) :
    ∃ t r, exec (.portLinkDown q) s = .next t ∧ portOf t q = r ∧ r.up = false ∧ r.training = true ∧ r.advert = advertised p.rcd ∧ r.rcd = p.rcd ∧
      r.onWire = none ∧ r.expressWire = none ∧ r.cut = false ∧ r.preempt = false ∧ r.verify = 0 ∧ r.paused = 0 ∧ r.linkChange = true ∧ r.bulk = p.bulk ∧
      kget 0 r.counters 37 = satAdd max64 (kget 0 p.counters 37) 1 ∧
      kget 0 r.counters 10 = satAdd max64 (kget 0 p.counters 10) (b2n p.onWire.isSome + b2n p.expressWire.isSome) ∧
      VectorRaised s t 258 ∧ Logged s t 0x0601 none (BitVec.ofNat 128 q) ∧ ∀ k, k ≠ q → portOf t k = portOf s k := by
  subst hp
  obtain ⟨w, hw, hexec⟩ : ∃ w, w = logErr (dropLink s q) 0x0601 none (BitVec.ofNat 128 q) ∧
      exec (.portLinkDown q) s = .next (setPort w q (retraining (portOf w q))) := ⟨_, rfl, if_pos hup⟩
  have hset := setPort_frame w q (retraining (portOf w q))
  have hmessages : MessagesKept 258 (dropLink s q) (setPort w q (retraining (portOf w q))) :=
    (hw ▸ logErr_keeps _ _ _ _ (by decide) : MessagesKept 258 (dropLink s q) w).trans (MessagesKept.of_frame hset (by decide) (by decide) 258)
  have hlogged : Logged s (setPort w q (retraining (portOf w q))) 0x0601 none (BitVec.ofNat 128 q) := by
    have hdrop := dropLink_frame s q
    refine logged_congr (logErr_logged (dropLink s q) 0x0601 none (BitVec.ofNat 128 q)) (hdrop .err (by decide)) (hdrop .clk (by decide)) ?_
    rw [← hw]
    exact hset .err (by decide)
  have hothers (k : Nat) (hk : k ≠ q) : portOf (setPort w q (retraining (portOf w q))) k = portOf s k := by
    rw [portOf_setPort_of_ne _ _ hk, hw, portOf_logErr, portOf_dropLink_of_ne hk]
  obtain ⟨u, ⟨heq, hcounters⟩, hport⟩ := portOf_dropLink_of_up hup
  have hretrained : portOf (setPort w q (retraining (portOf w q))) q = retraining (linkLost (bumped (bumped u 37 1) 10 (wireFrames (portOf s q)))) := by
    rw [portOf_setPort_self, hw, portOf_logErr, hport]
  have hrcd : u.rcd = (portOf s q).rcd := by rw [heq]
  have hbulk : u.bulk = (portOf s q).bulk := by rw [heq]
  have hkept (j : Nat) (hj : 8 < j) : kget 0 u.counters j = kget 0 (portOf s q).counters j := hcounters j (by omega)
  have hdowns (n : Nat) : kget 0 (bumped (bumped u 37 1) 10 n).counters 37 = satAdd max64 (kget 0 (portOf s q).counters 37) 1 := by
    rw [kget_bumped, if_neg (by decide), kget_bumped, if_pos rfl, hkept 37 (by decide)]
  have hframes (n : Nat) : kget 0 (bumped (bumped u 37 1) 10 n).counters 10 = satAdd max64 (kget 0 (portOf s q).counters 10) n := by
    rw [kget_bumped, if_pos rfl, kget_bumped, if_neg (by decide), hkept 10 (by decide)]
  exact ⟨_, _, hexec, hretrained, rfl, rfl, congrArg advertised hrcd, hrcd, rfl, rfl, rfl, rfl, rfl, rfl, rfl, hbulk, hdowns _, hframes _,
    vectorRaised_of_kept (dropLink_raised hup) hmessages, hlogged, hothers⟩

theorem portTrainingTimeout_logged (htrain : p.training = true) (hdown : p.up = false) :
    ∃ t, exec (.portTrainingTimeout q) s = .next t ∧ Logged s t 0x0602 none (BitVec.ofNat 128 q) ∧ VectorRaised s t 258 ∧ OnlyLog s t := by
  subst hp
  obtain ⟨w, hw, hexec⟩ : ∃ w, w = logErr s 0x0602 none (BitVec.ofNat 128 q) ∧ exec (.portTrainingTimeout q) s = .next (raiseVector w 258) :=
    ⟨_, rfl, if_pos ⟨htrain, by simp [hdown]⟩⟩
  have hlogged : Logged s w 0x0602 none (BitVec.ofNat 128 q) := hw ▸ logErr_logged s _ _ _
  have hkeeps : MessagesKept 258 s w := hw ▸ logErr_keeps s _ _ _ (by decide)
  have hframe : Frame [.err, .msix, .out] s w := hw ▸ logErr_frame s _ _ _
  exact ⟨_, hexec, logged_congr hlogged rfl rfl (raiseVector_err w 258).symm, vectorRaised_of_keeps hkeeps (raiseVector_raised w 258),
    (hframe.trans ((raiseVector_frame w 258).mono (by decide))).onlyLog⟩

theorem verifyDone_succeeds (hup : p.up = true) (hverify : p.verify = 1) :
    exec (.verifyDone q true) s = .next (setPort s q { p with verify := 2, preempt := true }) := by
  subst hp
  exact if_pos ⟨hup, hverify⟩

theorem verifyDone_fails (hup : p.up = true) (hverify : p.verify = 1) :
    ∃ t, exec (.verifyDone q false) s = .next t ∧ portOf t q = { p with verify := 3, preempt := false } ∧
      Logged s t 0x0603 none (BitVec.ofNat 128 q) := by
  subst hp
  obtain ⟨u, hu, hexec⟩ : ∃ u, u = setPort s q { portOf s q with verify := 3, preempt := false } ∧
      exec (.verifyDone q false) s = .next (logErr u 0x0603 none (BitVec.ofNat 128 q)) := ⟨_, rfl, if_pos ⟨hup, hverify⟩⟩
  have hframe : Frame [.ports] s u := hu ▸ setPort_frame s q _
  exact ⟨_, hexec, by rw [portOf_logErr, hu, portOf_setPort_self],
    logged_congr (logErr_logged u 0x0603 none (BitVec.ofNat 128 q)) (hframe .err (by decide)) (hframe .clk (by decide)) rfl⟩

theorem verifyFrame_answered (hup : p.up = true) (respond : Bool) :
    ∃ t r, exec (.verifyFrame q respond) s = .next t ∧ portOf t q = r ∧ t = { s with ports := t.ports } ∧
      r = { p with express := r.express, expressWait := r.expressWait, counters := r.counters } ∧
      r.express ++ r.expressWait = p.express ++ p.expressWait ++ (if respond || !p.rcd.preemptEn then [] else [⟨verifyPacket true, none, none, 9⟩]) ∧
      kget 0 r.counters 18 = satAdd max64 (kget 0 p.counters 18) 1 := by
  subst hp
  have hport : portOf (bumpPort s q 18 1) q = bumped (portOf s q) 18 1 := portOf_bumpPort_self ..
  have hcounter : kget 0 (bumped (portOf s q) 18 1).counters 18 = satAdd max64 (kget 0 (portOf s q).counters 18) 1 := by rw [kget_bumped, if_pos rfl]
  obtain ⟨t, ht, hexec⟩ : ∃ t, t = (if respond || !(portOf (bumpPort s q 18 1) q).rcd.preemptEn then bumpPort s q 18 1
      else sendVerify (bumpPort s q 18 1) q true) ∧ exec (.verifyFrame q respond) s = .next t := ⟨_, rfl, if_pos hup⟩
  rw [hport, show (bumped (portOf s q) 18 1).rcd = (portOf s q).rcd from rfl] at ht
  refine ⟨t, _, hexec, rfl, ?_⟩
  by_cases hquiet : (respond || !(portOf s q).rcd.preemptEn) = true
  · rw [if_pos hquiet] at ht ⊢
    rw [ht, hport]
    exact ⟨rfl, rfl, (List.append_nil _).symm, hcounter⟩
  · rw [if_neg hquiet] at ht ⊢
    obtain ⟨heq, hqueued, hcounters⟩ := enqueueFrame_express (bumpPort s q 18 1) q ⟨verifyPacket true, none, none, 9⟩
    rw [hport] at heq hqueued hcounters
    rw [ht]
    exact ⟨onlyPorts_of_frame ((bumpPort_frame s q 18 1).trans (enqueueFrame_frame _ q true _)), heq, hqueued, (hcounters 18 (by decide)).trans hcounter⟩

end Link

/-- Settles O49: FABRIC_CONFIG by its records, which name each port once, and each event of the link by what it does to its port. The verify
packets and the readings behind the clauses on training are the model's choices (log entries 94 and 57). -/
theorem portsAreConfiguredAndTrain : Obligations.PortsAreConfiguredAndTrain := by
  unfold Obligations.PortsAreConfiguredAndTrain
  refine ⟨fun s c qs o hc hqs ho hrecs hclaimed hnode => ?config, fun s q p hp => ⟨?up, fun hup => portLinkDown_trains hp hup,
    fun htrain hdown => portTrainingTimeout_logged hp htrain hdown,
    fun hup hverify => ⟨verifyDone_succeeds hp hup hverify, verifyDone_fails hp hup hverify⟩, fun hup => verifyFrame_answered hp hup⟩⟩
  case config =>
    obtain rfl : o = recordOffset c := funext ho
    obtain rfl : qs = namedPorts c := hqs
    obtain ⟨hended, hsteps, hrecord, hports⟩ := configured_ended hc
    obtain ⟨hnamed, hothers⟩ := configured_ports s c
    refine ⟨_, exec_fabricConfig hc.1 hrecs hclaimed hnode, hended, hsteps, hrecord, fun i hi p hp => ?_, fun q hq => (hports q).trans (hothers q hq)⟩
    rw [← hp, hports]
    exact hnamed i hi
  case up => exact fun inverted htrain hdown hlanes => portLinkUp_comesUp hp inverted htrain hdown hlanes

end Sys2Proof.PortLinks


/-! PROOFS of the fabric lists' sends and receives (O43): an entry that sends a stream, a contribution or the norm begins one flow on its
abutment's port; one that takes a complete flow makes its bytes blocks of its stream (R276, R277, R282 to R286, R293). -/

namespace Sys2Proof.FabricFlows

open Sys2Proof.Machine Sys2Proof.Safety Sys2Proof.Laws Sys2Proof.DieMemories Sys2Proof.StationResults Sys2Proof.OrderedSums Sys2Proof.PierTurns
  Sys2Proof.Commits Sys2Proof.Keystones Sys2Proof.Checkpoints

/-! ### The step of an entry -/

section Issue

variable {s s' : State} {st q stall : Nat} {x y : Step} {u : UnitSt}

/-- An entry issues whatever else its step gains besides its units. -/
theorem issued_of_fabIssued (n : Nat) (hx : stepOf s st = some x) (hs : s'.steps = s.steps) (hid : y.id = x.id)
    (hu : y.units = (fabIssued x q u stall n).units) : Issued s (setStep s' y) st (2400 + q) stall 0 x u (settle s' y) := by
  have hunit : ∀ key, y.unit key = (fabIssued x q u stall n).unit key := fun key => congrArg (kget (α := UnitSt) {} · key) hu
  refine issued_of_samePlace hx hs (hid.trans (id_of_stepOf hx)) ?_ fun key hkey => ?_
  · rw [hunit, unit_fabIssued]
    exact .refl _
  · rw [hunit]
    exact (unit_setUnit x (2400 + q) key _).trans (if_neg hkey)

end Issue

/-! ### Flows toward a participant (R276, R282, R284, R286) -/

section Send

variable {s : State} {st q stall : Nat} {x : Step} {img : Image} {c : Ctx} {u : UnitSt} {k : FabIns} {nd : NodeRec} {b : Bytes}

theorem stepFlow_begins (hc : ctxOf s x.ctx = some c) (hnode : s.slory.node = some nd) (op q dst flow src : Nat) (b : Bytes) :
    ∃ f ∈ (stepFlow s x op q dst flow src b).slory.tx, f.op = op ∧ f.port = q ∧ f.stepId = some x.id ∧ f.srcIndex = src ∧
      f.key = ⟨c.tag.toNat, nd.domain, nd.node, dst, x.number, x.attempt, flow⟩ ∧
      f.frames = flowFrames (flowP s q) nd.domain nd.node f.key op src 0 b := by
  unfold stepFlow startFlow
  rw [hnode, hc]
  dsimp only
  exact exists_tx_pumpFlow (List.mem_append_right _ (List.mem_singleton_self _)) fun _ => ⟨rfl, rfl, rfl, rfl, rfl, rfl⟩

/-- The state once an entry of abutment `q` has issued and its flow has begun. -/
def flowSent (s : State) (x : Step) (q : Nat) (u : UnitSt) (stall op dst flow src : Nat) (b : Bytes) : State :=
  stepFlow (setStep s (fabIssued x q u stall b.length)) x op q dst flow src b

theorem flowSent_frame (s : State) (x : Step) (q : Nat) (u : UnitSt) (stall op dst flow src : Nat) (b : Bytes) :
    Frame [.steps, .ports, .slory] s (flowSent s x q u stall op dst flow src b) :=
  ((setStep_frame s _).mono (by decide)).trans ((stepFlow_frame _ _ _ _ _ _ _ _).mono (by decide))

theorem flowSent_issued (hx : stepOf s st = some x) (op dst flow src : Nat) (b : Bytes) :
    Issued s (flowSent s x q u stall op dst flow src b) st (2400 + q) stall 0 x u (settle s (fabIssued x q u stall b.length)) :=
  issued_of_steps_after (issued_of_fabIssued b.length hx rfl rfl rfl) (stepFlow_frame _ _ _ _ _ _ _ _ .steps (by decide))

theorem sendEntry_onTurn {fop : Nat} {d : Desc} (h : FabricTurn s st q x img c u k) (ht : OnTime img x u k.cycle stall) (hf : k.fop = fop)
    (hd : descOf img x k.desc = some d) (hb : sendBytes s img x k.desc d k.cycle = some b) (op : Nat) :
    sendEntry fop op st q stall s = flowSent s x q u stall op k.node k.flow 0 b := by
  unfold sendEntry
  rw [nextFab_onTurn h hf]
  dsimp only
  rw [hd, Option.bind_some, hb]
  exact issueOr_onTime _ _ ht

theorem execRedSend_onTurn (h : FabricTurn s st q x img c u k) (ht : OnTime img x u k.cycle stall) (hf : k.fop = 3)
    (hnode : s.slory.node = some nd) (hb : redBytes s c img x k = some b) :
    execRedSend st q stall s = .next (if nd.node = k.node then ownContribution (setStep s (fabIssued x q u stall b.length)) x k b
      else flowSent s x q u stall 2 k.node k.flow k.srcIndex b) := by
  unfold execRedSend
  rw [nextFab_onTurn h hf]
  dsimp only
  rw [hb]
  dsimp only
  rw [issueOr_onTime _ _ ht, hnode]
  simp only [Option.map_some, Option.some.injEq]
  rfl

theorem execNorm_onTurn (h : FabricTurn s st q x img c u k) (ht : OnTime img x u k.cycle stall) (hf : k.fop = 7)
    (hnode : s.slory.node = some nd) (hdone : acceptsDone img x = true) :
    execNorm st q stall s = .next (flowSent s x q u stall 2 img.leader k.flow ((img.parts.findIdx? (· == nd.node)).getD 0)
      (leBytes 8 (moduleNorm x))) := by
  unfold execNorm
  rw [nextFab_onTurn h hf]
  dsimp only
  rw [if_pos hdone, issueOr_onTime _ _ ht, hnode, flowSent, length_leBytes]
  rfl

end Send

/-! ### The owner's own contribution (R284) -/

section Own

variable {s : State} {x : Step} {c : Ctx} {k : FabIns} {nd : NodeRec} {b : Bytes}

/-- The flow in which the owner's own contribution stands. -/
def ownFlow (s : State) (x : Step) (c : Ctx) (k : FabIns) (nd : NodeRec) (b : Bytes) : RxFlow :=
  { id := s.slory.nextFlow, key := ⟨c.tag.toNat, nd.domain, nd.node, nd.node, x.number, x.attempt, k.flow⟩, op := 2
    data := [(0, b)], last := some 0, stepId := some x.id, srcIndex := k.srcIndex }

theorem ownFlow_mem_ownContribution (hc : ctxOf s x.ctx = some c) (hnode : s.slory.node = some nd) :
    ownFlow s x c k nd b ∈ (ownContribution s x k b).slory.rxFlows := by
  unfold ownContribution
  rw [hnode, hc]
  exact List.mem_append_right _ (List.mem_singleton_self _)

theorem bytes_ownFlow : (ownFlow s x c k nd b).bytes = b := by
  show slice [] 0 0 ++ b ++ List.drop (0 + b.length) [] = b
  rw [List.drop_nil, List.append_nil]
  rfl

theorem complete_ownFlow : (ownFlow s x c k nd b).complete = true := rfl

end Own

/-! ### Received flows (R277, R285, R293) -/

section Receive

variable {s : State} {st q stall : Nat} {x : Step} {img : Image} {c : Ctx} {u : UnitSt} {k : FabIns} {f : RxFlow} {d : Desc} {b : Bytes}

/-- The step once an entry has taken the bytes `b` into stream `k.desc`. -/
def receivedStep (x : Step) (q : Nat) (u : UnitSt) (stall : Nat) (k : FabIns) (d : Desc) (b : Bytes) : Step :=
  produce (fabIssued x q u stall b.length) k.desc (recvBlocks d k.cycle b)

theorem stream_receivedStep (x : Step) (q : Nat) (u : UnitSt) (stall : Nat) (k : FabIns) (d : Desc) (b : Bytes) (j : Nat) :
    (receivedStep x q u stall k d b).stream j =
      if j = k.desc then { x.stream k.desc with blocks := (x.stream k.desc).blocks ++ recvBlocks d k.cycle b } else x.stream j :=
  stream_produce _ _ _ _

theorem units_receivedStep (x : Step) (q : Nat) (u : UnitSt) (stall : Nat) (k : FabIns) (d : Desc) (b : Bytes) :
    (receivedStep x q u stall k d b).units = (fabIssued x q u stall b.length).units := rfl

theorem id_receivedStep (x : Step) (q : Nat) (u : UnitSt) (stall : Nat) (k : FabIns) (d : Desc) (b : Bytes) :
    (receivedStep x q u stall k d b).id = x.id := rfl

/-- What a receive leaves in its step, whatever the stream notes besides its blocks. -/
theorem receivedStep_issued {s' : State} {t : StreamSt} (hx : stepOf s st = some x) (hs : s'.steps = s.steps)
    (ht : t.blocks = ((receivedStep x q u stall k d b).stream k.desc).blocks) :
    ∃ y, Issued s (setStep s' ((receivedStep x q u stall k d b).setStream k.desc t)) st (2400 + q) stall 0 x u y ∧
      (y.stream k.desc).blocks = (x.stream k.desc).blocks ++ recvBlocks d k.cycle b ∧ ∀ j, j ≠ k.desc → y.stream j = x.stream j := by
  refine ⟨_, issued_of_fabIssued (y := (receivedStep x q u stall k d b).setStream k.desc t) b.length hx hs
    (id_receivedStep x q u stall k d b) (units_receivedStep x q u stall k d b), ?_, fun j hj => ?_⟩
  · rw [settle_stream, stream_setStream, if_pos rfl, ht, stream_receivedStep, if_pos rfl]
  · rw [settle_stream, stream_setStream, if_neg hj, stream_receivedStep, if_neg hj]

/-- The step once RECV has taken the bytes `b`. -/
def recvStep (img : Image) (x : Step) (q : Nat) (u : UnitSt) (stall : Nat) (k : FabIns) (d : Desc) (b : Bytes) : Step :=
  let y := receivedStep x q u stall k d b
  y.setStream k.desc { y.stream k.desc with list := carriesList img k.desc }

theorem execRecv_onTurn (h : FabricTurn s st q x img c u k) (ht : OnTime img x u k.cycle stall) (hf : k.fop = 2)
    (hrx : stepRx s x 1 k.flow (fun f => decide (f.key.src = k.node)) = some f) (hd : descOf img x k.desc = some d) :
    execRecv st q stall s = .next (setStep s (recvStep img x q u stall k d f.bytes)) := by
  unfold execRecv
  rw [nextFab_onTurn h hf]
  dsimp only
  rw [hrx, hd]
  dsimp only
  rw [issueOr_onTime _ _ ht]
  rfl

/-- The local stores once block `i` of a split stream stands in its span's. -/
def splitBlock (img : Image) (st cyc : Nat) (d : Desc) (bs : List StreamBlock) (m : Vers Byte) (i : Nat) : Vers Byte :=
  match bs[i]? with
  | some b => vwriteRun m st cyc (locBase d.span + blockAddr img d i) b.bytes
  | none => m

/-- The local stores once all blocks of a split stream stand in its span's. -/
def splitLoc (img : Image) (st cyc : Nat) (d : Desc) (bs : List StreamBlock) (m : Vers Byte) : Vers Byte :=
  (List.range bs.length).foldl (splitBlock img st cyc d bs) m

/-- The last block written reads back in the next nominal cycle: no later block stands over it. -/
theorem vread_splitLoc_last (img : Image) (st cyc : Nat) (d : Desc) {bs : List StreamBlock} (m : Vers Byte) {i : Nat} {b : StreamBlock}
    (hi : i + 1 = bs.length) (hb : bs[i]? = some b) {e : Nat} (he : e < b.bytes.length) :
    vread 0 (splitLoc img st cyc d bs m) st (cyc + 1) (locBase d.span + blockAddr img d i + e) = b.bytes.getD e 0 := by
  rw [splitLoc, ← hi, List.range_succ, List.foldl_append, List.foldl_cons, List.foldl_nil, splitBlock, hb]
  exact vread_vwriteRun_next 0 _ _ _ _ _ he

theorem getElem?_recvBlocks {cyc i : Nat} {b : Bytes} (hi : i < (recvBlocks d cyc b).length) :
    (recvBlocks d cyc b)[i]? = some ⟨slice b (d.blockBytes * i) d.blockBytes, d.stash, cyc⟩ := by
  rw [List.getElem?_eq_getElem hi]
  simp only [recvBlocks, List.getElem_map, List.getElem_range]

/-- The state once SPLIT_RECV has put the bytes `b` into the local store of the stream's span, its step not yet set. -/
def splitLanded (s : State) (img : Image) (st : Nat) (k : FabIns) (d : Desc) (b : Bytes) : State :=
  { s with pm := { s.pm with loc := splitLoc img st k.cycle d (recvBlocks d k.cycle b) s.pm.loc } }

/-- A stream whose next `n` blocks stand in memory as well. -/
def splitStream (y : Step) (i n : Nat) : StreamSt := { y.stream i with memPos := (y.stream i).memPos + n }

/-- The step once SPLIT_RECV has taken the bytes `b`: its stream's blocks stand in memory too. -/
def splitStep (x : Step) (q : Nat) (u : UnitSt) (stall : Nat) (k : FabIns) (d : Desc) (b : Bytes) : Step :=
  (receivedStep x q u stall k d b).setStream k.desc (splitStream (receivedStep x q u stall k d b) k.desc (recvBlocks d k.cycle b).length)

theorem execSplitRecv_onTurn (h : FabricTurn s st q x img c u k) (ht : OnTime img x u k.cycle stall) (hf : k.fop = 6)
    (hrx : stepRx s x 4 k.flow (fun f => decide (f.key.src = k.node)) = some f) (hd : descOf img x k.desc = some d) :
    execSplitRecv st q stall s = .next (setStep (splitLanded s img st k d f.bytes) (splitStep x q u stall k d f.bytes)) := by
  obtain rfl : x.id = st := id_of_stepOf h.step
  unfold execSplitRecv
  rw [nextFab_onTurn h hf]
  dsimp only
  rw [hrx, hd]
  dsimp only
  rw [issueOr_onTime _ _ ht]
  rfl

end Receive

/-- Settles O43: each send by the one flow that it begins, the owner's own contribution by the flow it stands in, each receive by the blocks
it adds to its stream. -/
theorem fabricEntriesSendAndReceive : Obligations.FabricEntriesSendAndReceive := by
  unfold Obligations.FabricEntriesSendAndReceive
  refine ⟨?send, ?own, ?recv, ?splitRecv⟩
  case send =>
    intro s st q stall x img c u k nd b i op dst src hturn htime hnode hentry
    have hexec : exec i s = .next (flowSent s x q u stall op dst k.flow src b) := by
      rcases hentry with ⟨hf, rfl, rfl, rfl, rfl, d, hd, hb⟩ | ⟨hf, rfl, rfl, rfl, rfl, d, hd, hb⟩ | ⟨hf, rfl, rfl, rfl, rfl, hne, hb⟩ |
        ⟨hf, rfl, rfl, rfl, rfl, hdone, rfl⟩
      · exact congrArg Host.Outcome.next (sendEntry_onTurn hturn htime hf hd hb 1)
      · exact congrArg Host.Outcome.next (sendEntry_onTurn hturn htime hf hd hb 4)
      · exact (execRedSend_onTurn hturn htime hf hnode hb).trans (by rw [if_neg hne.symm])
      · exact execNorm_onTurn hturn htime hf hnode hdone
    have hframe := flowSent_frame s x q u stall op dst k.flow src b
    obtain ⟨f, hmem, hop, hport, hstep, hsrc, hkey, hframes⟩ :=
      stepFlow_begins (s := setStep s (fabIssued x q u stall b.length)) hturn.ctx hnode op q dst k.flow src b
    rw [id_of_stepOf hturn.step] at hstep
    exact ⟨_, _, hexec, flowSent_issued hturn.step op dst k.flow src b, hframe .pm (by decide), hframe.sm_eq (by decide) (by decide),
      hframe .ctxs (by decide), f, hmem, hop, hport, hstep, hsrc, hkey, hframes⟩
  case own =>
    intro s st q stall x img c u k nd b hturn htime hnode hfop hown hb
    have hexec := execRedSend_onTurn hturn htime hfop hnode hb
    rw [if_pos hown.symm] at hexec
    have hissued := issued_of_fabIssued (y := fabIssued x q u stall b.length) b.length hturn.step rfl rfl rfl
    exact ⟨_, _, _, hexec, issued_of_steps_after hissued (ownContribution_frame _ _ _ _ .steps (by decide)),
      ownFlow_mem_ownContribution (s := setStep s _) hturn.ctx hnode, rfl, rfl, rfl,
      congrArg some (id_of_stepOf hturn.step), bytes_ownFlow, complete_ownFlow⟩
  case recv =>
    intro s st q stall x img c u k f d hturn htime hfop hrx hd
    obtain ⟨y, hissued, hblocks, hothers⟩ := receivedStep_issued (q := q) (u := u) (stall := stall) (k := k) (d := d) (b := f.bytes)
      (t := { (receivedStep x q u stall k d f.bytes).stream k.desc with list := carriesList img k.desc }) hturn.step rfl rfl
    exact ⟨_, y, execRecv_onTurn hturn htime hfop hrx hd, hissued, (setStep_frame s _).onlySteps, hblocks, hothers⟩
  case splitRecv =>
    intro s st q stall x img c u k f d hturn htime hfop hrx hd
    obtain ⟨y, hissued, hblocks, -⟩ := receivedStep_issued (s' := splitLanded s img st k d f.bytes) (q := q) (u := u) (stall := stall) (k := k)
      (d := d) (b := f.bytes) (t := splitStream (receivedStep x q u stall k d f.bytes) k.desc (recvBlocks d k.cycle f.bytes).length) hturn.step rfl rfl
    exact ⟨_, y, execSplitRecv_onTurn hturn htime hfop hrx hd, hissued, rfl, rfl, hblocks,
      fun i hi hlast e he => vread_splitLoc_last img st k.cycle d s.pm.loc hlast (getElem?_recvBlocks hi) he⟩

end Sys2Proof.FabricFlows


/-! PROOFS of the host and board families, the queue and the reset state (O1, O26). -/

namespace Sys2Proof.ResetState

open Sys2Proof.Machine Sys2Proof.Safety

/-- Settles O1: the queue is not empty, so the step is its front command on the rest. -/
theorem stepRunsFrontCommand : Obligations.StepRunsFrontCommand := by
  intro c rest s
  rfl

/-- Settles O26: each value is the one that the reset state is written with, and stacked memory lists no byte. -/
theorem resetStateAndCanonicalMemory : Obligations.ResetStateAndCanonicalMemory := by
  refine ⟨?_, kwf_nil 0⟩
  repeat' apply And.intro
  all_goals rfl

end Sys2Proof.ResetState
namespace Sys2Proof.RegisterReads

open Sys2Proof.Machine Sys2Proof.Safety

/-- A port whose express priority has been paused for ten quanta, none of them counted yet. -/
def pausedPort : Port := { rcd := { lanes := 4 }, up := true, paused := 1, quanta := [(0, 10)] }

/-- A module in READY, its link up, 1 ms after the pause of port 0 began. -/
def pausedModule : State := { ports := [(0, pausedPort)], host := { up := true }, boot := { ready := true }, clk := { uptime := 100000 } }

theorem regValue_pausedModule : regValue pausedModule 0x20038 = some 0 := rfl

/-- The read counts the quanta of the pause under way first (R269). -/
theorem barRead_pausedModule : (barRead pausedModule 0x20038 8).out = [.regRead 0x20038 8 10] := by decide

/-- Refutes O18: a read of a counter of pause quanta first counts those of the pause under way, so port 0 of `pausedModule` answers 10 where the
register held 0 before the access. -/
theorem not_registerReadsAnswer : ¬ Obligations.RegisterReadsAnswer := by
  rintro ⟨hread, -⟩
  obtain ⟨⟨t, ht, hout, -⟩, -⟩ := hread pausedModule 0x20038 0 Instr.rcRegisterRead (List.mem_cons_self ..) rfl rfl rfl regValue_pausedModule
  have hnext : barRead pausedModule 0x20038 8 = t := Host.Outcome.next.inj ht
  rw [← hnext, barRead_pausedModule] at hout
  exact absurd hout (by decide)

end Sys2Proof.RegisterReads


/-! PROOFS of the host family, the rules its statements share: a state in terms of the parts that an operation may change, what the error
log keeps of an occurrence, and a register write that reaches its register (R325, R427, R434). -/

namespace Sys2Proof.HostRules

set_option Elab.async false

open Sys2Proof.Machine Sys2Proof.Safety Sys2Proof.Laws

/-! ### From a frame to the vocabulary of the statements -/

/-- The state `s` with the parts in `l` as they are in `t`. -/
def overlay (l : List Part) (s t : State) : State :=
  { pending := if Part.pending ∈ l then t.pending else s.pending
    boot := if Part.boot ∈ l then t.boot else s.boot
    clk := if Part.clk ∈ l then t.clk else s.clk
    regs := if Part.regs ∈ l then t.regs else s.regs
    err := if Part.err ∈ l then t.err else s.err
    msix := if Part.msix ∈ l then t.msix else s.msix
    host := if Part.host ∈ l then t.host else s.host
    admin := if Part.admin ∈ l then t.admin else s.admin
    rings := if Part.rings ∈ l then t.rings else s.rings
    ctxs := if Part.ctxs ∈ l then t.ctxs else s.ctxs
    steps := if Part.steps ∈ l then t.steps else s.steps
    sched := if Part.sched ∈ l then t.sched else s.sched
    pm := if Part.pm ∈ l then t.pm else s.pm
    sm := if Part.mem ∈ l ∨ Part.sm ∈ l then t.sm else s.sm
    ports := if Part.ports ∈ l then t.ports else s.ports
    slory := if Part.slory ∈ l then t.slory else s.slory
    store := if Part.store ∈ l then t.store else s.store
    power := if Part.power ∈ l then t.power else s.power
    mgmt := if Part.mgmt ∈ l then t.mgmt else s.mgmt
    diag := if Part.diag ∈ l then t.diag else s.diag
    free := if Part.free ∈ l then t.free else s.free
    out := if Part.out ∈ l then t.out else s.out }

theorem eq_ite_of_same {α : Type} {p : Prop} [Decidable p] {a b : α} (h : ¬ p → b = a) : b = if p then b else a := by
  split
  · rfl
  · next hp => exact h hp

/-- Within a frame the next state is the former one but for the frame's parts. -/
theorem eq_overlay {l : List Part} {s t : State} (h : Frame l s t) : t = overlay l s t := by
  have hsm (hp : ¬ (Part.mem ∈ l ∨ Part.sm ∈ l)) : t.sm = s.sm := h.sm_eq (fun hm => hp (.inl hm)) (fun hs => hp (.inr hs))
  cases s; cases t
  simp only [overlay, State.mk.injEq]
  exact ⟨eq_ite_of_same (h .pending), eq_ite_of_same (h .boot), eq_ite_of_same (h .clk), eq_ite_of_same (h .regs), eq_ite_of_same (h .err),
    eq_ite_of_same (h .msix), eq_ite_of_same (h .host), eq_ite_of_same (h .admin), eq_ite_of_same (h .rings), eq_ite_of_same (h .ctxs),
    eq_ite_of_same (h .steps), eq_ite_of_same (h .sched), eq_ite_of_same (h .pm), eq_ite_of_same hsm, eq_ite_of_same (h .ports),
    eq_ite_of_same (h .slory), eq_ite_of_same (h .store), eq_ite_of_same (h .power), eq_ite_of_same (h .mgmt), eq_ite_of_same (h .diag),
    eq_ite_of_same (h .free), eq_ite_of_same (h .out)⟩

/-! ### The error log -/

/-- What an occurrence leaves in the log depends on the log before it, its clock and the log after it. -/
theorem logged_congr {s u t v : State} {code : Nat} {ctx : Option Nat} {detail : BitVec 128} (h : Logged u t code ctx detail)
    (herr : u.err = s.err) (hclk : u.clk = s.clk) (hlog : v.err = t.err) : Logged s v code ctx detail := by
  unfold Logged at h ⊢
  rwa [herr, hclk, ← hlog] at h

/-- An occurrence is logged also where the log and the clock are those of a former state. -/
theorem logErr_logged_since {s u : State} (code : Nat) (ctx : Option Nat) (detail : BitVec 128) (herr : u.err = s.err) (hclk : u.clk = s.clk) :
    Logged s (logErr u code ctx detail) code ctx detail := logged_congr (logErr_logged u code ctx detail) herr hclk rfl

/-! ### A register write -/

theorem gated_of_ready {s : State} (h : s.boot.ready = true) (off : Nat) : gated s off = false := by
  simp [gated, h]

/-- An aligned access to an implemented register is well formed. -/
theorem malformed_of_register {s : State} {off size : Nat} (hsize : size = 4 ∨ size = 8) (halign : off % size = 0)
    (hreg : (regValue s (off - off % 8)).isSome = true) : malformed s off size = false := by
  have hnone : (regValue s (off - off % 8)).isNone = false := by
    rw [← Option.not_isSome, hreg]
    rfl
  unfold malformed
  rw [decide_eq_true hsize, decide_eq_true halign, hnone, Bool.and_false]
  rfl

theorem idReg_noLatch (s : State) (o : Nat) : idReg (noLatch s) o = idReg s o := rfl

theorem doorbellReg_noLatch (s : State) (r : RingId) : doorbellReg (noLatch s) r = doorbellReg s r := by cases r <;> rfl

theorem errReg_noLatch (s : State) (o : Nat) : errReg (noLatch s) o = errReg s o := rfl

theorem fabricReg_noLatch (s : State) (o : Nat) : fabricReg (noLatch s) o = fabricReg s o := rfl

theorem powerReg_noLatch (s : State) (o : Nat) : powerReg (noLatch s) o = powerReg s o := rfl

theorem bootReg_noLatch (s : State) (o : Nat) : bootReg (noLatch s) o = bootReg s o := rfl

theorem msixReg_noLatch (s : State) (o : Nat) : msixReg (noLatch s) o = msixReg s o := rfl

/-- No register shows the read latch. -/
theorem regValue_noLatch (s : State) (o : Nat) : regValue (noLatch s) o = regValue s o := by
  unfold regValue
  rw [idReg_noLatch, doorbellReg_noLatch, doorbellReg_noLatch, errReg_noLatch, fabricReg_noLatch, powerReg_noLatch, bootReg_noLatch, msixReg_noLatch]

/-- A write to a register in READY, with the link up, has the register's effect. -/
theorem barWrite_of_register {s : State} {off size : Nat} (f : State → State) (hup : s.host.up = true) (hready : s.boot.ready = true)
    (hsize : size = 4 ∨ size = 8) (halign : off % size = 0) (hreg : (regValue s (off - off % 8)).isSome = true) :
    barWrite s off size f = f (noLatch s) := by
  have hm : malformed (noLatch s) off size = false :=
    malformed_of_register hsize halign (by rw [regValue_noLatch]; exact hreg)
  rcases barWrite_cases s off size f with ⟨hdown, -⟩ | ⟨hbad, -⟩ | ⟨hgate, -⟩ | ⟨-, -, -, h⟩
  · exact absurd (hup.symm.trans hdown) (by decide)
  · exact absurd (hm.symm.trans hbad) (by decide)
  · exact absurd ((gated_of_ready (s := noLatch s) hready off).symm.trans hgate) (by decide)
  · exact h

end Sys2Proof.HostRules


/-! PROOFS of the host family, doorbells (O19). -/

namespace Sys2Proof.Doorbells

set_option Elab.async false

open Sys2Proof.Machine Sys2Proof.Safety Sys2Proof.Laws Sys2Proof.HostRules

/-! ### The fields of a doorbell (R332, R333, R441) -/

/-- A tail that is at most the ring's length ahead of CMD_HEAD. -/
def tailValid (g : Ring) (v : BitVec 32) : Bool := decide ((v - g.cmdHead).toNat ≤ 2 ^ g.rcd.cmdLog2)

/-- A head between STATUS_HEAD and STATUS_TAIL. -/
def headValid (g : Ring) (v : BitVec 32) : Bool := decide ((v - g.statusHead).toNat ≤ (g.statusTail - g.statusHead).toNat)

/-- A count of ignored fields after a field that was `valid`. -/
def ignored (valid : Bool) (n : Nat) : Nat := if valid then n else satAdd max32 n 1

/-- The ring once a doorbell has written `v` to CMD_TAIL. -/
def tailWritten (g : Ring) (v : BitVec 32) : Ring :=
  { g with cmdTail := if tailValid g v then v else g.cmdTail, dbErrors := ignored (tailValid g v) g.dbErrors }

/-- The ring once a doorbell has written `v` to STATUS_HEAD. -/
def headWritten (g : Ring) (v : BitVec 32) : Ring :=
  { g with statusHead := if headValid g v then v else g.statusHead, dbErrors := ignored (headValid g v) g.dbErrors
           coalArmed := if headValid g v then g.coalArmed && decide (v ≠ g.statusTail) else g.coalArmed }

/-! ### The bits that a write sets (R434) -/

theorem writeBits_whole (high : Bool) (v : BitVec 64) : writeBits 8 high v = (BitVec.allOnes 64, v) := rfl

theorem writeBits_low (v : BitVec 64) : writeBits 4 false v = (0xFFFFFFFF#64, v &&& 0xFFFFFFFF#64) := rfl

theorem writeBits_high (v : BitVec 64) : writeBits 4 true v = (0xFFFFFFFF00000000#64, (v &&& 0xFFFFFFFF#64) <<< 32) := rfl

theorem toNat_and_low (v : BitVec 64) : (v &&& 0xFFFFFFFF#64).toNat = v.toNat % 2 ^ 32 := by
  rw [BitVec.toNat_and]
  exact Nat.and_two_pow_sub_one_eq_mod v.toNat 32

theorem setWidth_low (v : BitVec 64) : (v &&& 0xFFFFFFFF#64).setWidth 32 = v.setWidth 32 := by
  apply BitVec.eq_of_toNat_eq
  rw [BitVec.toNat_setWidth, BitVec.toNat_setWidth, toNat_and_low, Nat.mod_mod]

theorem setWidth_high (v : BitVec 64) : (((v &&& 0xFFFFFFFF#64) <<< 32) >>> 32).setWidth 32 = v.setWidth 32 := by
  apply BitVec.eq_of_toNat_eq
  rw [BitVec.toNat_setWidth, BitVec.toNat_setWidth, BitVec.toNat_ushiftRight, BitVec.toNat_shiftLeft, toNat_and_low, Nat.shiftLeft_eq,
    Nat.shiftRight_eq_div_pow]
  omega

/-- The ring after a doorbell: each field that is written is tested, the tail first. -/
def ringWritten (g : Ring) (tail head : Option (BitVec 32)) : Ring :=
  head.elim (tail.elim g (tailWritten g)) (headWritten (tail.elim g (tailWritten g)))

section Written

variable (g : Ring) (tail head : Option (BitVec 32))

theorem ringWritten_cmdTail :
    (ringWritten g tail head).cmdTail = if tail.map (tailValid g) = some true then tail.getD 0 else g.cmdTail := by
  cases tail <;> cases head <;> simp [ringWritten, tailWritten, headWritten]

theorem ringWritten_statusHead :
    (ringWritten g tail head).statusHead = if head.map (headValid g) = some true then head.getD 0 else g.statusHead := by
  cases tail <;> cases head <;> simp [ringWritten, tailWritten, headWritten, headValid]

theorem ignored_eq (valid : Bool) (n : Nat) : ignored valid n = if valid = false then satAdd max32 n 1 else n := by
  cases valid <;> rfl

theorem ringWritten_dbErrors : (ringWritten g tail head).dbErrors =
    (let n := if tail.map (tailValid g) = some false then satAdd max32 g.dbErrors 1 else g.dbErrors
     if head.map (headValid g) = some false then satAdd max32 n 1 else n) := by
  cases tail <;> cases head <;> simp [ringWritten, tailWritten, headWritten, headValid, ignored_eq]

/-- A doorbell changes its two fields, the count of ignored ones, and whether the coalescing time runs. -/
theorem ringWritten_rest : ringWritten g tail head =
    { g with cmdTail := (ringWritten g tail head).cmdTail, statusHead := (ringWritten g tail head).statusHead
             dbErrors := (ringWritten g tail head).dbErrors, coalArmed := (ringWritten g tail head).coalArmed } := by
  cases tail <;> cases head <;> rfl

end Written

section Fields

variable {s : State} {r : RingId} {g : Ring} (h : ringOf s r = some g) (v : BitVec 32)

include h

theorem ringOf_badDoorbell : ringOf (badDoorbell s r) r = some { g with dbErrors := satAdd max32 g.dbErrors 1 } := by
  unfold badDoorbell
  rw [(logErr_frame _ _ _ _).ring (by decide) (by decide), ringOf_updRing, if_pos rfl, h]
  rfl

theorem ringOf_writeTail : ringOf (writeTail s r g v) r = some (tailWritten g v) := by
  unfold writeTail tailWritten tailValid
  by_cases hv : (v - g.cmdHead).toNat ≤ 2 ^ g.rcd.cmdLog2
  · rw [if_pos hv, ringOf_setRing, if_pos rfl, decide_eq_true hv]
    rfl
  · rw [if_neg hv, ringOf_badDoorbell h, decide_eq_false hv]
    rfl

theorem ringOf_writeHead : ringOf (writeHead s r g v) r = some (headWritten g v) := by
  unfold writeHead headWritten headValid
  by_cases hv : (v - g.statusHead).toNat ≤ (g.statusTail - g.statusHead).toNat
  · rw [if_pos hv, ringOf_setRing, if_pos rfl, decide_eq_true hv]
    rfl
  · rw [if_neg hv, ringOf_badDoorbell h, decide_eq_false hv]
    rfl

theorem ringOf_doorbell (size : Nat) (high : Bool) (v : BitVec 64) (tail head : Option (BitVec 32))
    (hform : (size = 8 ∧ high = false ∧ tail = some (v.setWidth 32) ∧ head = some ((v >>> 32).setWidth 32)) ∨
      (size = 4 ∧ high = false ∧ tail = some (v.setWidth 32) ∧ head = none) ∨
      (size = 4 ∧ high = true ∧ tail = none ∧ head = some (v.setWidth 32))) :
    ringOf (doorbell s r size high v) r = some (ringWritten g tail head) := by
  unfold doorbell
  rw [h]
  dsimp only
  rcases hform with ⟨rfl, rfl, rfl, rfl⟩ | ⟨rfl, rfl, rfl, rfl⟩ | ⟨rfl, rfl, rfl, rfl⟩
  · have ht := ringOf_writeTail h (v.setWidth 32)
    rw [writeBits_whole]
    dsimp only
    rw [if_pos (by decide), if_pos (by decide), ht]
    exact ringOf_writeHead ht _
  · rw [writeBits_low]
    dsimp only
    rw [if_neg (by decide), if_pos (by decide), setWidth_low]
    exact ringOf_writeTail h _
  · rw [writeBits_high]
    dsimp only
    rw [if_pos (by decide), if_neg (by decide), h]
    dsimp only
    rw [setWidth_high]
    exact ringOf_writeHead h _

end Fields

/-! ### The write -/

/-- A doorbell is a register of its own. -/
theorem regValue_doorbell {o : Nat} (h : 0x1000 ≤ o) (h' : o ≤ 0x1800) : (regValue s o).isSome = true := by
  unfold regValue
  rw [if_neg (by omega)]
  split
  · rfl
  · rw [if_pos (by omega)]
    rfl

theorem exec_doorbell {s : State} {r : RingId} {size : Nat} {high : Bool} {v : BitVec 64} {i : Instr} (hup : s.host.up = true)
    (hready : s.boot.ready = true) (hi : (∃ n < 256, r = .ctx n ∧ i = .dbCtx n size high v) ∨ (r = .admin ∧ i = .dbAdmin size high v))
    (hform : (size = 8 ∧ high = false) ∨ size = 4) : exec i s = .next (doorbell (noLatch s) r size high v) := by
  have hwrite (o : Nat) (h0 : o % 8 = 0) (h : 0x1000 ≤ o) (h' : o ≤ 0x1800) :
      barWrite s (halfOff o high) size (fun s => doorbell s r size high v) = doorbell (noLatch s) r size high v := by
    have hbase : halfOff o high - halfOff o high % 8 = o := by unfold halfOff; split <;> omega
    refine barWrite_of_register _ hup hready (by omega) ?_ (by rw [hbase]; exact regValue_doorbell h h')
    rcases hform with ⟨rfl, rfl⟩ | rfl
    · exact h0
    · unfold halfOff; split <;> omega
  rcases hi with ⟨n, hn, rfl, rfl⟩ | ⟨rfl, rfl⟩
  · show execDbCtx n size high v s = _
    unfold execDbCtx
    rw [if_pos hn, hwrite (0x1000 + 8 * n) (by omega) (by omega) (by omega)]
  · show execDbAdmin size high v s = _
    unfold execDbAdmin
    rw [hwrite 0x1800 (by decide) (by decide) (by decide)]

/-- Settles O19: each field that is written is taken where its test allows it, and counted otherwise. -/
theorem doorbellTakesValidIndices : Obligations.DoorbellTakesValidIndices := by
  intro s r g size high v i tail head hup hready hg hi hform
  have hring := ringOf_doorbell (s := noLatch s) (r := r) (g := g) (by cases r <;> exact hg) size high v tail head hform
  exact ⟨_, _, exec_doorbell hup hready hi (by tauto), hring, ringWritten_cmdTail g tail head, ringWritten_statusHead g tail head,
    ringWritten_dbErrors g tail head, ringWritten_rest g tail head, eq_overlay (doorbell_frame (noLatch s) r size high v)⟩

end Sys2Proof.Doorbells


/-! PROOFS of the host family, the MSI-X messages (O20). The layout of the table's entries is the model's choice (log entry 3). -/

namespace Sys2Proof.MsixMessages

set_option Elab.async false

open Sys2Proof.Machine Sys2Proof.Safety Sys2Proof.Laws Sys2Proof.PortRules Sys2Proof.HostRules Sys2Proof.Doorbells

/-! ### The table (R324, R337) -/

theorem regValue_table {s : State} {o : Nat} (h : o < 0x2000) : (regValue s (0x80000 + o)).isSome = true := by
  unfold regValue msixReg
  rw [if_neg (by omega), if_neg (by omega), if_neg (by omega), if_neg (by omega), if_neg (by omega), if_neg (by omega), if_neg (by omega),
    if_pos (by omega), if_pos (by omega)]
  rfl

/-- An aligned write of 8 bytes to the table in READY, with the link up, takes effect whole. -/
theorem exec_msixTableWrite {s : State} {o : Nat} (v : BitVec 64) (hup : s.host.up = true) (hready : s.boot.ready = true) (ho : o < 0x2000)
    (h8 : o % 8 = 0) : exec (.msixTableWrite o 8 v) s = .next (msixWrite (noLatch s) o (BitVec.allOnes 64, v)) := by
  show execMsixTableWrite o 8 v s = _
  unfold execMsixTableWrite
  have hbase : 0x80000 + o - (0x80000 + o) % 8 = 0x80000 + o := by omega
  rw [if_pos ho, barWrite_of_register _ hup hready (.inr rfl) (by omega) (by rw [hbase]; exact regValue_table ho), writeBits_whole]
  rw [show o - o % 8 = o by omega]

theorem mergeBits_whole (old v : BitVec 64) : mergeBits old (BitVec.allOnes 64, v) = v := by
  unfold mergeBits
  rw [BitVec.not_allOnes, BitVec.and_zero, BitVec.zero_or, BitVec.and_allOnes]

theorem table_sendVector (s : State) (vec : Nat) : (sendVector s vec).msix.table = s.msix.table := (sendVector_keeps s vec vec).table

theorem table_raiseVector (s : State) (vec : Nat) : (raiseVector s vec).msix.table = s.msix.table :=
  (raiseVector_keeps s (Nat.succ_ne_self vec)).table

/-- The state once entry `vec` of the table has been set. -/
def entrySet (s : State) (vec : Nat) (e : MsixEntry) : State := { s with msix := { s.msix with table := kset {} s.msix.table vec e } }

theorem vecEntry_entrySet (s : State) (vec k : Nat) (e : MsixEntry) : vecEntry (entrySet s vec e) k = if k = vec then e else vecEntry s k :=
  kget_kset _ _ _ _ _

/-- The written entry stands in the table, whatever its write sends. -/
theorem vecEntry_writeEntry (s : State) (vec k : Nat) (e : MsixEntry) : vecEntry (writeEntry s vec e) k = if k = vec then e else vecEntry s k := by
  have htable : (writeEntry s vec e).msix.table = (entrySet s vec e).msix.table := by
    unfold writeEntry
    dsimp only
    split
    · split
      · exact table_raiseVector _ vec
      · exact table_sendVector _ vec
    · rfl
  unfold vecEntry
  rw [htable]
  exact vecEntry_entrySet s vec k e

theorem writeEntry_of_same_mask {s : State} {vec : Nat} {e : MsixEntry} (h : e.control = (vecEntry s vec).control) :
    writeEntry s vec e = entrySet s vec e := by
  unfold writeEntry
  dsimp only
  rw [h]
  cases (vecEntry s vec).control.getLsbD 0 <;> rfl

theorem sendVector_of_unmasked {s : State} {vec : Nat} (h : (vecEntry s vec).control.getLsbD 0 = false) :
    sendVector s vec = emit s (.msix vec (vecEntry s vec).addr (vecEntry s vec).data) := by
  unfold sendVector
  dsimp only
  rw [if_neg (by rw [h]; exact Bool.false_ne_true)]

/-- A masked vector becomes pending, and no message goes out (R337). -/
theorem sendVector_of_masked {s : State} {vec : Nat} (h : (vecEntry s vec).control.getLsbD 0 = true) :
    vec ∈ (sendVector s vec).msix.pend ∧ (sendVector s vec).out = s.out ∧ (sendVector s vec).msix.owed = s.msix.owed := by
  unfold sendVector
  dsimp only
  rw [if_pos h]
  refine ⟨?_, rfl, rfl⟩
  dsimp only
  split
  · next hc => exact List.contains_iff_mem.mp hc
  · exact List.mem_append_right _ (List.mem_singleton_self vec)

/-- Unmasking a pending vector of a ring sends its message and clears the bit (R337). -/
theorem writeEntry_unmasks {s : State} {vec : Nat} {e : MsixEntry} (hmask : (vecEntry s vec).control.getLsbD 0 = true)
    (hopen : e.control.getLsbD 0 = false) (hpend : vec ∈ s.msix.pend) (hring : vec < 257) :
    (writeEntry s vec e).out = .msix vec e.addr e.data :: s.out ∧ vec ∉ (writeEntry s vec e).msix.pend := by
  unfold writeEntry
  dsimp only
  rw [hmask, hopen, List.contains_iff_mem.mpr hpend, if_pos (by decide : (true && !false && true) = true), if_neg (by omega)]
  have hentry (m : Msix) (h : m.table = kset {} s.msix.table vec e) : vecEntry { s with msix := m } vec = e := by
    unfold vecEntry
    dsimp only
    rw [h, kget_kset, if_pos rfl]
  rw [sendVector_of_unmasked (by rw [hentry _ rfl]; exact hopen), hentry _ rfl]
  exact ⟨rfl, by simp [emit]⟩

/-! ### The messages of rings and of vectors 257 to 259 (R338, R446) -/

theorem sendRing_eq {s : State} {r : RingId} {g : Ring} (h : ringOf s r = some g) :
    sendRing s r = sendVector (setRing s r { g with coalBase := g.statusTail, coalArmed := false }) r.vector := by
  unfold sendRing
  rw [h]

theorem vecEntry_of_frame {l : List Part} {s t : State} (h : Frame l s t) (hm : Part.msix ∉ l) (v : Nat) : vecEntry t v = vecEntry s v := by
  have e : t.msix = s.msix := h .msix hm
  unfold vecEntry
  rw [e]

theorem ringOf_sendRing {s : State} {r : RingId} {g : Ring} (h : ringOf s r = some g) :
    ringOf (sendRing s r) r = some { g with coalBase := g.statusTail, coalArmed := false } := by
  rw [sendRing_eq h, (sendVector_frame _ _).ring (by decide) (by decide), ringOf_setRing, if_pos rfl]

/-- A message of a ring goes out, or becomes pending where the vector is masked. -/
theorem sendRing_out {s : State} {r : RingId} {g : Ring} (h : ringOf s r = some g) :
    if (vecEntry s r.vector).control.getLsbD 0 then r.vector ∈ (sendRing s r).msix.pend ∧ (sendRing s r).out = s.out
    else (sendRing s r).out = .msix r.vector (vecEntry s r.vector).addr (vecEntry s r.vector).data :: s.out := by
  have hset := setRing_frame s r { g with coalBase := g.statusTail, coalArmed := false }
  have hentry := vecEntry_of_frame hset (by decide) r.vector
  have hout : (setRing s r { g with coalBase := g.statusTail, coalArmed := false }).out = s.out := hset .out (by decide)
  rw [sendRing_eq h]
  split
  · next hmask =>
    obtain ⟨hpend, hsame, -⟩ := sendVector_of_masked (hentry ▸ hmask)
    exact ⟨hpend, hsame.trans hout⟩
  · next hmask =>
    rw [sendVector_of_unmasked (by rw [hentry]; simpa using hmask), hentry, ← hout]
    rfl

/-- The state once the microsecond of vector `vec` has ended. -/
def windowEnded (s : State) (vec : Nat) : State :=
  { s with msix := { s.msix with window := s.msix.window.filter fun k => decide (k ≠ vec), owed := s.msix.owed.filter fun k => decide (k ≠ vec) } }

theorem not_mem_filter_ne (l : List Nat) (k : Nat) : k ∉ l.filter fun j => decide (j ≠ k) := by simp

theorem exec_msixRateWindow {s : State} {vec : Nat} (h : vec ∈ s.msix.window) :
    exec (.msixRateWindow vec) s = .next (if s.msix.owed.contains vec then raiseVector (windowEnded s vec) vec else windowEnded s vec) := by
  show execMsixRateWindow vec s = _
  unfold execMsixRateWindow
  rw [if_pos (List.contains_iff_mem.mpr h)]
  rfl

theorem raiseVector_of_masked {s : State} {vec : Nat} (hw : vec ∉ s.msix.window) (hmask : (vecEntry s vec).control.getLsbD 0 = true) :
    raiseVector s vec = sendVector s vec := by
  unfold raiseVector
  rw [if_neg (fun h => hw (List.contains_iff_mem.mp h)), if_pos hmask]

theorem raiseVector_of_unmasked {s : State} {vec : Nat} (hw : vec ∉ s.msix.window) (hmask : (vecEntry s vec).control.getLsbD 0 = false) :
    raiseVector s vec =
      emit { s with msix := { s.msix with window := s.msix.window ++ [vec] } } (.msix vec (vecEntry s vec).addr (vecEntry s vec).data) := by
  unfold raiseVector
  rw [if_neg (fun h => hw (List.contains_iff_mem.mp h)), if_neg (by rw [hmask]; exact Bool.false_ne_true)]
  exact sendVector_of_unmasked (s := { s with msix := { s.msix with window := s.msix.window ++ [vec] } }) hmask

/-- Settles O20: a table entry by its write, a ring's message by its vector's mask, a rate window by what it owes. The layout of the table is
the model's choice (log entry 3). -/
theorem msixMessagesFollowTheTable : Obligations.MsixMessagesFollowTheTable := by
  refine ⟨?table, ?coal, ?window⟩
  case table =>
    intro s vec v hup hready hvec
    constructor
    · have hwrite : msixWrite (noLatch s) (16 * vec) (BitVec.allOnes 64, v) = entrySet (noLatch s) vec { vecEntry s vec with addr := v } := by
        unfold msixWrite
        dsimp only
        rw [if_neg (by omega), if_pos (by omega), mergeBits_whole, show 16 * vec / 16 = vec by omega]
        exact writeEntry_of_same_mask rfl
      refine ⟨_, (exec_msixTableWrite v hup hready (by omega) (by omega)).trans (congrArg _ hwrite), ?_, fun k hk => ?_, rfl, rfl⟩
      · exact (vecEntry_entrySet _ _ _ _).trans (if_pos rfl)
      · exact (vecEntry_entrySet _ _ _ _).trans (if_neg hk)
    · have hwrite : msixWrite (noLatch s) (16 * vec + 8) (BitVec.allOnes 64, v) =
          writeEntry (noLatch s) vec { vecEntry s vec with data := v.setWidth 32, control := (v >>> 32).setWidth 32 } := by
        unfold msixWrite
        dsimp only
        rw [if_neg (by omega), if_neg (by omega), mergeBits_whole, show (16 * vec + 8) / 16 = vec by omega]
        rfl
      refine ⟨_, (exec_msixTableWrite v hup hready (by omega) (by omega)).trans (congrArg _ hwrite), ?_, fun hmask hopen hpend => ?_⟩
      · exact (vecEntry_writeEntry _ _ _ _).trans (if_pos rfl)
      · exact writeEntry_unmasks (s := noLatch s) hmask (by simpa using hopen) hpend hvec
  case coal =>
    intro s r g hg harmed hfresh
    refine ⟨sendRing s r, ?_, ringOf_sendRing hg, sendRing_out hg⟩
    show execCoalUs r s = _
    unfold execCoalUs
    rw [hg]
    exact if_pos ⟨harmed, hfresh⟩
  case window =>
    intro s vec hw
    have hgone : vec ∉ (windowEnded s vec).msix.window := not_mem_filter_ne _ _
    have hpaid : vec ∉ (windowEnded s vec).msix.owed := not_mem_filter_ne _ _
    refine ⟨_, exec_msixRateWindow hw, ?_⟩
    by_cases howed : vec ∈ s.msix.owed
    · rw [if_pos (List.contains_iff_mem.mpr howed)]
      refine ⟨eq_overlay (raiseVector_frame (windowEnded s vec) vec), ?_, fun h => absurd howed h, fun _ hopen => ?_, fun _ hmask => ?_⟩
      · cases hmask : (vecEntry (windowEnded s vec) vec).control.getLsbD 0 with
        | true =>
          rw [raiseVector_of_masked hgone hmask, (sendVector_of_masked hmask).2.2]
          exact hpaid
        | false =>
          rw [raiseVector_of_unmasked hgone hmask]
          exact hpaid
      · rw [raiseVector_of_unmasked hgone hopen]
        exact ⟨List.mem_append_right _ (List.mem_singleton_self vec), rfl⟩
      · obtain ⟨hpend, hsame, -⟩ := sendVector_of_masked (s := windowEnded s vec) hmask
        rw [raiseVector_of_masked hgone hmask]
        exact ⟨hpend, hsame⟩
    · rw [if_neg (fun h => howed (List.contains_iff_mem.mp h))]
      exact ⟨rfl, hpaid, fun _ => ⟨hgone, rfl⟩, fun h => absurd h howed, fun h => absurd h howed⟩

end Sys2Proof.MsixMessages


/-! PROOFS of the host family, the error log's window, the W1C bits and the administrative ring's record (O21, O22). -/

namespace Sys2Proof.HostRegisters

set_option Elab.async false

open Sys2Proof.Machine Sys2Proof.Safety Sys2Proof.Laws Sys2Proof.PortRules Sys2Proof.HostRules Sys2Proof.Doorbells

/-! ### Writes of the error log's window (R443 to R445) -/

section Window

variable {s : State} (v : BitVec 64) (hup : s.host.up = true) (hready : s.boot.ready = true)

include hup hready

/-- A whole write of a register in READY, with the link up. -/
theorem barWrite_whole {o : Nat} (f : State → State) (h8 : o % 8 = 0) (hreg : (regValue s o).isSome = true) :
    barWrite s o 8 f = f (noLatch s) :=
  barWrite_of_register f hup hready (.inr rfl) h8 (by rwa [h8, Nat.sub_zero])

theorem exec_errLogSelect : exec (.errLogSelect 8 false v) s = .next (selectSlot (noLatch s) (v.toNat % 1024)) := by
  show execErrLogSelect 8 false v s = _
  unfold execErrLogSelect
  rw [show halfOff 0x10028 false = 0x10028 from rfl, barWrite_whole hup hready _ (by decide) rfl, writeBits_whole]
  dsimp only
  rw [if_pos (by decide), BitVec.toNat_setWidth]

theorem exec_errLogAck : exec (.errLogAck 8 false v) s = .next (ackLog (noLatch s) (v.toNat % 2 ^ 63) (v.getLsbD 63)) := by
  show execErrLogAck 8 false v s = _
  unfold execErrLogAck
  rw [show halfOff 0x10030 false = 0x10030 from rfl, barWrite_whole hup hready _ (by decide) rfl, writeBits_whole]
  dsimp only
  rw [BitVec.toNat_setWidth]

theorem exec_w1cWrite {o : Nat} (sets : BitVec 64) (h8 : o % 8 = 0) (hreg : (regValue s o).isSome = true) :
    exec (.w1cWrite o 8 v sets) s = .next (w1c (noLatch s) o v sets) := by
  show execW1cWrite o 8 v sets s = _
  unfold execW1cWrite
  rw [barWrite_whole hup hready _ h8 hreg, h8, Nat.sub_zero, writeBits_whole]

end Window

/-- An entry that an acknowledgement keeps. -/
theorem ackLog_keeps (prior newer ack : Bool) : (if prior then !ack else newer) = !(if prior then ack else !newer) := by
  cases prior <;> cases newer <;> rfl

theorem slots_ackLog (s : State) (time : Nat) (prior : Bool) : (ackLog s time prior).err.slots =
    s.err.slots.filter fun q => !(if q.2.prior then prior else decide (q.2.time ≤ time)) := by
  unfold ackLog
  dsimp only
  congr 1
  funext q
  rw [ackLog_keeps, ← decide_not]
  simp only [not_lt]

/-! ### Bits cleared by writing 1 (R437, R446, R448) -/

/-- The bits of a W1C register after a write of `m` in whose cycle hardware sets `sets`. -/
theorem testBit_w1c_events (events b : Nat) (m sets : BitVec 64) (hb : b < 10) :
    ((((BitVec.ofNat 64 events &&& ~~~m) ||| sets) &&& 0x3FF#64).toNat).testBit b = (sets.getLsbD b || (events.testBit b && !m.getLsbD b)) := by
  have hmask : (0x3FF#64).getLsbD b = true := by interval_cases b <;> rfl
  rw [BitVec.testBit_toNat, BitVec.getLsbD_and, hmask, Bool.and_true, BitVec.getLsbD_or, BitVec.getLsbD_and, BitVec.getLsbD_not,
    BitVec.getLsbD_ofNat, decide_eq_true (by omega : b < 64), Bool.true_and, Bool.true_and, Bool.or_comm]

theorem w1c_events (s : State) (m sets : BitVec 64) {b : Nat} (hb : b < 10) :
    (w1c s 0x30008 m sets).power.events.testBit b = (sets.getLsbD b || (s.power.events.testBit b && !m.getLsbD b)) := by
  have hpower : (w1c s 0x30008 m sets).power.events = (((BitVec.ofNat 64 s.power.events &&& ~~~m) ||| sets) &&& 0x3FF#64).toNat := by
    unfold w1c
    rw [if_neg (by decide), if_pos rfl]
    dsimp only
    split
    · exact congrArg Power.events (raiseVector_frame _ 259 .power (by decide))
    · rfl
  rw [hpower, testBit_w1c_events _ _ _ _ hb]

theorem regValue_portStatus (s : State) {q : Nat} (hq : q < 8) : (regValue s (0x20800 + 0x1000 * q)).isSome = true := by
  unfold regValue fabricReg
  rw [if_neg (by omega), if_neg (by omega), if_neg (by omega), if_neg (by omega), if_pos (by omega), if_pos (by omega), if_neg (by omega),
    if_pos (by omega)]
  rfl

theorem w1c_linkChange (s : State) (m sets : BitVec 64) {q : Nat} (hq : q < 8) :
    (portOf (w1c s (0x20800 + 0x1000 * q) m sets) q).linkChange = (sets.getLsbD 16 || ((portOf s q).linkChange && !m.getLsbD 16)) := by
  unfold w1c
  rw [if_neg (by omega), if_neg (by omega), if_pos (by omega), show (0x20800 + 0x1000 * q - 0x20000) / 0x1000 = q by omega]
  dsimp only
  split
  · rw [portOf_raiseVector, portOf_setPort_self]
  · rw [portOf_setPort_self]

/-- Settles O21: each write by the register it reaches. -/
theorem errorLogWindowAndW1c : Obligations.ErrorLogWindowAndW1c := by
  intro s v hup hready
  refine ⟨⟨_, exec_errLogSelect v hup hready, rfl, rfl, rfl⟩, ⟨_, exec_errLogAck v hup hready, slots_ackLog _ _ _, rfl⟩,
    ⟨_, exec_w1cWrite v hup hready 0 (by decide) rfl, ?_⟩,
    fun sets => ⟨_, exec_w1cWrite v hup hready sets (by decide) rfl, fun b hb => w1c_events _ _ _ hb⟩,
    fun q hq sets => ⟨_, exec_w1cWrite v hup hready sets (by omega) (regValue_portStatus s hq), w1c_linkChange _ _ _ hq⟩⟩
  unfold w1c
  rw [if_pos rfl, if_neg (by decide)]
  simp [noLatch]

end Sys2Proof.HostRegisters


/-! PROOFS of the host family, the administrative ring's record and its installation (O22). That ST_BUSY answers while any fetched command of
the ring is unreplied is the model's reading (log entry 36). -/

namespace Sys2Proof.AdminRing

set_option Elab.async false

open Sys2Proof.Machine Sys2Proof.Safety Sys2Proof.Laws Sys2Proof.HostRules Sys2Proof.Doorbells Sys2Proof.HostRegisters Sys2Proof.MsixMessages

/-! ### The record's four registers (R449) -/

/-- Word `k` of the record. -/
def word (rec : BitVec 256) (k : Nat) : BitVec 64 := (rec >>> (64 * k)).setWidth 64

/-- The record with word `k` replaced. -/
def withWord (rec : BitVec 256) (k : Nat) (v : BitVec 64) : BitVec 256 :=
  (rec &&& ~~~((BitVec.allOnes 64).setWidth 256 <<< (64 * k))) ||| (v.setWidth 256 <<< (64 * k))

theorem getLsbD_withWord (rec : BitVec 256) (k : Nat) (v : BitVec 64) {i : Nat} (hi : i < 256) :
    (withWord rec k v).getLsbD i = if 64 * k ≤ i ∧ i < 64 * (k + 1) then v.getLsbD (i - 64 * k) else rec.getLsbD i := by
  have hshift (x : BitVec 64) : (x.setWidth 256 <<< (64 * k)).getLsbD i = (!decide (i < 64 * k) && x.getLsbD (i - 64 * k)) := by
    rw [BitVec.getLsbD_shiftLeft, BitVec.getLsbD_setWidth, decide_eq_true hi, decide_eq_true (by omega : i - 64 * k < 256), Bool.true_and, Bool.true_and]
  unfold withWord
  rw [BitVec.getLsbD_or, BitVec.getLsbD_and, BitVec.getLsbD_not, hshift, hshift, BitVec.getLsbD_allOnes, decide_eq_true hi, Bool.true_and]
  by_cases hlow : i < 64 * k
  · rw [if_neg (by omega), decide_eq_true hlow]
    simp
  · by_cases hhigh : i < 64 * (k + 1)
    · rw [if_pos ⟨by omega, hhigh⟩, decide_eq_false hlow, decide_eq_true (by omega : i - 64 * k < 64)]
      simp
    · rw [if_neg (by omega), decide_eq_false hlow, decide_eq_false (by omega : ¬ i - 64 * k < 64), BitVec.getLsbD_of_ge v _ (by omega)]
      simp

theorem getLsbD_word (rec : BitVec 256) (k : Nat) {i : Nat} (hi : i < 64) : (word rec k).getLsbD i = rec.getLsbD (64 * k + i) := by
  rw [word, BitVec.getLsbD_setWidth, BitVec.getLsbD_ushiftRight, decide_eq_true hi, Bool.true_and]

/-- Writing a word leaves the other three. -/
theorem word_withWord (rec : BitVec 256) {j k : Nat} (hj : j < 4) (v : BitVec 64) :
    word (withWord rec k v) j = if j = k then v else word rec j := by
  refine BitVec.eq_of_getLsbD_eq fun i hi => ?_
  rw [getLsbD_word _ _ hi, getLsbD_withWord _ _ _ (by omega)]
  by_cases hjk : j = k
  · rw [if_pos (by omega), if_pos hjk, show 64 * j + i - 64 * k = i by omega]
  · rw [if_neg (by omega), if_neg hjk, getLsbD_word _ _ hi]

theorem regValue_adminWord (s : State) {k : Nat} (hk : k < 4) : regValue s (0x40100 + 8 * k) = some (word s.regs.adminRec k) := by
  interval_cases k <;> rfl

section Writes

variable {s : State} {v : BitVec 64} (hup : s.host.up = true) (hready : s.boot.ready = true)

include hup hready

theorem exec_registerWrite {k : Nat} (hk : k < 4) : exec (.registerWrite (0x40100 + 8 * k) 8 v) s =
    .next { s with regs := { s.regs with latch := none, adminRec := withWord s.regs.adminRec k v } } := by
  show execRegisterWrite (0x40100 + 8 * k) 8 v s = _
  unfold execRegisterWrite
  rw [barWrite_whole hup hready _ (by omega) (by rw [regValue_adminWord s hk]; rfl), writeBits_whole, show 0x40100 + 8 * k - (0x40100 + 8 * k) % 8 = 0x40100 + 8 * k by omega]
  unfold plainWrite
  rw [if_pos (by omega), if_pos (show (noLatch s).boot.ready = true from hready)]
  dsimp only
  rw [mergeBits_whole, show 8 * (0x40100 + 8 * k - 0x40100) = 64 * k by omega]
  rfl

theorem exec_rstAdminInstall (hgo : v.getLsbD 0 = true) : exec (.rstAdminInstall 8 false v) s = .next (installAdmin (noLatch s)) := by
  show execRstAdminInstall 8 false v s = _
  unfold execRstAdminInstall
  rw [show halfOff 0x40120 false = 0x40120 from rfl, barWrite_whole hup hready _ (by decide) rfl, writeBits_whole]
  dsimp only
  rw [hgo, if_neg (by decide), if_pos (show (noLatch s).boot.ready = true from hready)]

end Writes

/-! ### The installation (R334, R450) -/

theorem installAdmin_fault {s : State} {o : Nat} (h : ringFault (adminRecBytes s) (ctxSpans s) (allPages s) = some o) :
    installAdmin s = adminResult s stBadParam o := by
  unfold installAdmin
  rw [h]

theorem installAdmin_busy {s : State} {g : Ring} (h : ringFault (adminRecBytes s) (ctxSpans s) (allPages s) = none) (hg : s.admin = some g)
    (hc : g.cmds ≠ []) : installAdmin s = adminResult s stBusy 0 := by
  unfold installAdmin
  rw [h]
  dsimp only
  rw [if_pos (by rw [hg]; simpa using hc)]

/-- The record is installed where no ring stands or its commands have all replied. -/
theorem installAdmin_fits {s : State} (h : ringFault (adminRecBytes s) (ctxSpans s) (allPages s) = none) (hidle : ∀ g, s.admin = some g → g.cmds = []) :
    installAdmin s = writeCtrl (adminResult { s with admin := some { rcd := ringRecOf (adminRecBytes s) } } stOk 0) .admin [] := by
  unfold installAdmin
  rw [h]
  dsimp only
  rw [if_neg]
  cases hg : s.admin with
  | none => exact Bool.false_ne_true
  | some g => simp [hidle g hg]

/-- Every installation counts. -/
theorem installs_installAdmin (s : State) : (installAdmin s).regs.installs = satAdd max32 s.regs.installs 1 := by
  unfold installAdmin
  split
  · rfl
  · split
    · rfl
    · exact congrArg Regs.installs (writeCtrl_frame _ .admin [] .regs (by decide))

/-- Settles O22: the record word by word, the installation by its three outcomes. ST_BUSY for any fetched command of the ring that is
unreplied is the model's reading (log entry 36). -/
theorem adminRingInstallation : Obligations.AdminRingInstallation := by
  intro s v hup hready
  constructor
  · intro k hk
    refine ⟨_, exec_registerWrite hup hready hk, ?_, fun j hj hne => ?_, rfl⟩
    · rw [regValue_adminWord _ hk, word_withWord _ hk, if_pos rfl]
    · rw [regValue_adminWord _ hj, regValue_adminWord _ hj, word_withWord _ hj, if_neg hne]
  · intro hgo
    refine ⟨_, exec_rstAdminInstall hup hready hgo, installs_installAdmin _, fun o ho => ?_, fun hf g hg hc => ?_, fun hf hnone => ?_⟩
    · rw [installAdmin_fault (s := noLatch s) ho]
      exact ⟨rfl, rfl, rfl⟩
    · rw [installAdmin_busy (s := noLatch s) hf hg hc]
      exact ⟨rfl, rfl⟩
    · rw [installAdmin_fits (s := noLatch s) hf fun g hg => by rw [show s.admin = some g from hg] at hnone; cases hnone]
      have hframe := writeCtrl_frame (adminResult { noLatch s with admin := some { rcd := ringRecOf (adminRecBytes (noLatch s)) } } stOk 0) .admin []
      exact ⟨congrArg Regs.adminStatus (hframe .regs (by decide)), hframe .admin (by decide)⟩

end Sys2Proof.AdminRing


/-! PROOFS of the host family, the CXL link (O25), and what a FATAL error leaves in the boot state and the error log (R426). -/

namespace Sys2Proof.FatalErrors

set_option Elab.async false

open Sys2Proof.Machine Sys2Proof.Safety Sys2Proof.Laws Sys2Proof.Bearings

/-- A module that becomes device-fatal, marked so, before its steps end. -/
def markedFatal (s : State) (code : Nat) (ctx : Option Nat) (detail : BitVec 128) : State :=
  let fatalEntry : LogEntry := ⟨code, 5, false, ctx, 1, s.clk.uptime, detail⟩
  let earlier := (newestEntries s.err 16).filter fun e => !decide (e.code = code ∧ e.time = s.clk.uptime)
  { s with
    boot := { s.boot with fatal := true, viral := true, stage := 0xF0 }
    power := { s.power with slopeExempt := some s.clk.uptime }
    err := { s.err with fatalBit := true }
    store := { s.store with summary := (fatalEntry :: earlier).take 16 } }

theorem becomeFatal_eq_markedFatal {s : State} (h : s.boot.fatal = false) (code : Nat) (ctx : Option Nat) (detail : BitVec 128) :
    becomeFatal s code ctx detail = afterSteps (fatalSteps (raiseVector (markedFatal s code ctx detail) 257)) code detail := by
  unfold becomeFatal
  rw [if_neg (by rw [h]; exact Bool.false_ne_true)]
  rfl

/-- What becoming device-fatal marks stays: the end of the steps, the rings and the ports touch neither boot state, error log nor store. -/
theorem becomeFatal_frame_of_marked {s : State} (h : s.boot.fatal = false) (code : Nat) (ctx : Option Nat) (detail : BitVec 128) :
    Frame [.msix, .host, .admin, .rings, .ctxs, .steps, .pm, .mem, .sm, .ports, .slory, .power, .free, .out] (markedFatal s code ctx detail)
      (becomeFatal s code ctx detail) := by
  rw [becomeFatal_eq_markedFatal h]
  exact (afterSteps_frame _ _ _).after (by decide) ((fatalSteps_frame _).after (by decide) ((raiseVector_frame _ 257).mono (by decide)))

theorem boot_becomeFatal {s : State} (h : s.boot.fatal = false) (code : Nat) (ctx : Option Nat) (detail : BitVec 128) :
    (becomeFatal s code ctx detail).boot = { s.boot with fatal := true, viral := true, stage := 0xF0 } :=
  becomeFatal_frame_of_marked h code ctx detail .boot (by decide)

theorem err_becomeFatal {s : State} (h : s.boot.fatal = false) (code : Nat) (ctx : Option Nat) (detail : BitVec 128) :
    (becomeFatal s code ctx detail).err = { s.err with fatalBit := true } :=
  becomeFatal_frame_of_marked h code ctx detail .err (by decide)

theorem boot_logErr (s : State) (code : Nat) (ctx : Option Nat) (detail : BitVec 128) : (logErr s code ctx detail).boot = s.boot :=
  logErr_frame s code ctx detail .boot (by decide)

theorem boot_logFatal {s : State} (h : s.boot.fatal = false) (code : Nat) (ctx : Option Nat) (detail : BitVec 128) :
    (logFatal s code ctx detail).boot = { s.boot with fatal := true, viral := true, stage := 0xF0 } := by
  have hlog := boot_logErr s code ctx detail
  unfold logFatal
  rw [boot_becomeFatal (by rw [hlog]; exact h), hlog]

theorem fatalBit_logFatal {s : State} (h : s.boot.fatal = false) (code : Nat) (ctx : Option Nat) (detail : BitVec 128) :
    (logFatal s code ctx detail).err.fatalBit = true := by
  unfold logFatal
  rw [err_becomeFatal (by rw [boot_logErr]; exact h)]

theorem steps_logFatal {s : State} (h : s.boot.fatal = false) (code : Nat) (ctx : Option Nat) (detail : BitVec 128) :
    (logFatal s code ctx detail).steps = [] := (logFatal_wentFatal h code ctx detail).steps

end Sys2Proof.FatalErrors

namespace Sys2Proof.HostLinks

set_option Elab.async false

open Sys2Proof.Machine Sys2Proof.Safety Sys2Proof.Laws Sys2Proof.Commits Sys2Proof.PortRules Sys2Proof.HostRules Sys2Proof.FatalErrors

/-- The state once the link has come up in a mode, what waited in the landing on its way (R320, R430). -/
def linkedUp (s : State) (rate width : Nat) : State :=
  emit { s with
    boot := { s.boot with cxlTraining := false }
    host := { s.host with up := true, rate := rate, width := width
                          writes := s.host.writes.map fun w => if w.lost then w else { w with sent := true } } } (.linkUp true)

/-- The state once a retraining has put the link into a mode (R321). -/
def retrained (s : State) (rate width : Nat) : State :=
  { s with host := { s.host with rate := rate, width := width, retrains := satAdd 16777215 s.host.retrains 1 } }

theorem exec_cxlLinkUp {s : State} {rate width : Nat} (hp : s.boot.powered = true) (hr : s.boot.perstN = true) (hd : s.host.up = false)
    (hm : linkMode rate width = true) (ho : s.sched.owing = []) (hf : s.sched.follows = []) :
    exec (.cxlLinkUp rate width) s = .next (linkedUp s rate width) := by
  show execCxlLinkUp rate width s = _
  unfold execCxlLinkUp
  rw [hp, hr, hd, hm, if_pos (by decide)]
  exact congrArg _ (payOwed_of_none (s := linkedUp s rate width) ho hf)

theorem sent_or_lost_linkedUp (s : State) (rate width : Nat) : ∀ w ∈ (linkedUp s rate width).host.writes, w.sent = true ∨ w.lost = true := by
  intro w hw
  obtain ⟨v, -, rfl⟩ := List.mem_map.mp hw
  split
  · next h => exact .inr h
  · exact .inl rfl

/-- A retraining to a lower mode is logged; any other lets what waits begin. -/
theorem exec_cxlLinkRetrain {s : State} {rate width : Nat} (hu : s.host.up = true) (hm : linkMode rate width = true) (ho : s.sched.owing = [])
    (hf : s.sched.follows = []) : exec (.cxlLinkRetrain rate width) s = .next
      (if hostCapacity (retrained s rate width) < hostCapacity s then
        logErr (emit (takeFree (retrained s rate width)).2 (.aerCorrectable ((takeFree (retrained s rate width)).1.toNat % 2 ^ 32))) 0x0803 none
          (Config.errDetail 0x0803 [rate, width])
      else retrained s rate width) := by
  show execCxlLinkRetrain rate width s = _
  unfold execCxlLinkRetrain
  rw [hu, hm, if_pos (by decide)]
  show (if hostCapacity (retrained s rate width) < hostCapacity s then _ else _) = _
  split
  · rfl
  · exact congrArg _ (payOwed_of_none ho hf)

theorem hostCapacity_of_host {s t : State} (h : t.host = s.host) : hostCapacity t = hostCapacity s := by
  unfold hostCapacity
  rw [h]

/-- Settles O25, by what each event of the link does. -/
theorem linkEventsChangeTheLink : Obligations.LinkEventsChangeTheLink := by
  intro s
  refine ⟨fun rate width hp hr hd hm ho hf => ?up, fun rate width hu hm ho hf => ?retrain, fun hu => ?down, fun hd ht hp hf => ?fatal⟩
  case up =>
    exact ⟨_, exec_cxlLinkUp hp hr hd hm ho hf, rfl, rfl, rfl, sent_or_lost_linkedUp s rate width, List.mem_cons_self .., rfl⟩
  case retrain =>
    have hframe : Frame [.err, .msix, .free, .out] (retrained s rate width)
        (if hostCapacity (retrained s rate width) < hostCapacity s then
          logErr (emit (takeFree (retrained s rate width)).2 (.aerCorrectable ((takeFree (retrained s rate width)).1.toNat % 2 ^ 32))) 0x0803 none
            (Config.errDetail 0x0803 [rate, width])
        else retrained s rate width) := by
      split
      · exact (logErr_frame _ _ _ _).after (by decide) ((emit_frame _ _).after (by decide) ((takeFree_frame _).mono (by decide)))
      · exact Frame.refl _ _
    have hhost := hframe .host (by decide)
    refine ⟨_, exec_cxlLinkRetrain hu hm ho hf, (congrArg HostIf.up hhost).trans hu, congrArg HostIf.rate hhost, congrArg HostIf.width hhost,
      congrArg HostIf.retrains hhost, hframe .steps (by decide), fun hlower => ?_⟩
    have hlower : hostCapacity (retrained s rate width) < hostCapacity s := by
      rwa [hostCapacity_of_host hhost] at hlower
    rw [if_pos hlower]
    exact logErr_logged_since _ _ _ rfl rfl
  case down =>
    have hframe := logErr_frame (emit { s with host := { s.host with up := false, rate := 0, width := 0 } } (.linkUp false)) 0x0804 none 0
    refine ⟨_, if_pos hu, hframe .host (by decide), ?_, logErr_logged_since _ _ _ rfl rfl, hframe .steps (by decide), hframe .ctxs (by decide)⟩
    exact (logErr_keeps _ _ _ _ (by decide : 0 ≠ 257)).out _ (List.mem_cons_self ..)
  case fatal =>
    refine ⟨_, if_pos (by rw [hd, ht, hp]; rfl), steps_logFatal hf _ _ _, ?_, ?_, ?_, fatalBit_logFatal hf _ _ _⟩
    all_goals rw [boot_logFatal hf]

end Sys2Proof.HostLinks


/-! PROOFS of the host family, reads of host memory and requests from the host (O24). -/

namespace Sys2Proof.HostReads

set_option Elab.async false

open Sys2Proof.Machine Sys2Proof.Safety Sys2Proof.Laws Sys2Proof.Commits Sys2Proof.PierTurns Sys2Proof.StationElements Sys2Proof.TilesAhead
  Sys2Proof.PortRules Sys2Proof.HostRules

/-! ### A block that returns (R189, R191) -/

/-- The reads once the data of read `id` has come back. -/
def returned (rs : List HostRead) (id : Nat) (b : Bytes) : List HostRead := rs.map fun r => if r.id = id then { r with data := some b } else r

theorem filter_returned (rs : List HostRead) (id : Nat) (b : Bytes) :
    (returned rs id b).filter (fun r => decide (r.id ≠ id)) = rs.filter fun r => decide (r.id ≠ id) := by
  unfold returned
  rw [List.filter_map]
  have hid : (fun r : HostRead => decide (r.id ≠ id)) ∘ (fun r => if r.id = id then { r with data := some b } else r) =
      fun r : HostRead => decide (r.id ≠ id) := by
    funext r
    simp only [Function.comp]
    split <;> rfl
  rw [hid]
  refine (List.map_congr_left fun r hr => ?_).trans (List.map_id _)
  have hne : r.id ≠ id := by simpa using (List.mem_filter.mp hr).2
  rw [if_neg hne, id_eq]

section Stream

variable {s : State} {rd : HostRead} {st i : Nat} {x : Step} {img : Image} {d : Desc}
  (hrd : (s.host.reads.find? fun v => decide (v.id = rd.id)) = some rd)
  (hown : rd.owner = .stream st i (x.stream i).fetched.length) (hx : stepOf s st = some x) (hi : imageOf s x = some img) (hd : descOf img x i = some d)
  (honly : ∀ v ∈ s.host.reads, v.id ≠ rd.id → ∀ n, v.owner ≠ .stream st i n)

/-- The step once the stream's next block has come. -/
def tookBlock (x : Step) (i : Nat) (d : Desc) (b : Bytes) : Step :=
  { fetch x i [⟨slice b 0 d.blockBytes, d.stash, 0⟩] with
    activity := { (fetch x i [⟨slice b 0 d.blockBytes, d.stash, 0⟩]).activity with
      host := (fetch x i [⟨slice b 0 d.blockBytes, d.stash, 0⟩]).activity.host + ceilDiv b.length 128 } }

theorem takeBlock_eq (s : State) (x : Step) (i : Nat) (d : Desc) (b : Bytes) : takeBlock s x i d b = setStep s (tookBlock x i d b) := rfl

theorem stream_tookBlock (x : Step) (i : Nat) (d : Desc) (b : Bytes) :
    ((tookBlock x i d b).stream i).fetched = (x.stream i).fetched ++ [⟨slice b 0 d.blockBytes, d.stash, 0⟩] := by
  show ((x.setStream i _).stream i).fetched = _
  rw [stream_setStream, if_pos rfl]

/-- Where no read of the stream has data, nothing more is delivered. -/
theorem drainBlocks_done {s : State} {st i : Nat} (fuel : Nat) (h : ∀ v ∈ s.host.reads, ∀ n, v.owner ≠ .stream st i n) :
    drainBlocks st i false fuel s = s := by
  cases fuel with
  | zero => rfl
  | succ fuel =>
    unfold drainBlocks
    split
    · rfl
    · split
      · rfl
      · next x _ d _ =>
        dsimp only
        rw [List.find?_eq_none.mpr fun r hr => by simp [h r hr]]

/-- A stream of which every block has come reads no more. -/
theorem moreReads_done {s : State} {st i : Nat} {x : Step} {img : Image} {d : Desc} (hx : stepOf s st = some x) (hi : imageOf s x = some img)
    (hd : descOf img x i = some d) (h : streamLen img d ≤ (x.stream i).fetched.length) : moreReads s st i false = s := by
  unfold moreReads
  rw [hx]
  dsimp only
  rw [hi]
  dsimp only
  rw [if_neg Bool.false_ne_true]
  unfold readHostMore
  rw [hd]
  dsimp only
  rw [if_neg (by omega)]

theorem imageOf_settle (s t : State) (x : Step) : imageOf t (settle s x) = imageOf t x := by
  rcases settle_eq s x with h | ⟨-, h⟩ <;> rw [h]
  rfl

theorem descOf_settle (s : State) (img : Image) (x : Step) (i : Nat) : descOf img (settle s x) i = descOf img x i := by
  rcases settle_eq s x with h | ⟨-, h⟩ <;> rw [h]
  rfl

include hrd hown honly

/-- Of the reads of the stream only the one that has returned has the next block's data. -/
theorem find_returned (b : Bytes) : ∃ r, (returned s.host.reads rd.id b).find? (fun r =>
      decide (r.owner = .stream st i (x.stream i).fetched.length) && r.data.isSome) = some r ∧ r.id = rd.id ∧ r.data = some b := by
  have hmem : { rd with data := some b } ∈ returned s.host.reads rd.id b :=
    List.mem_map.mpr ⟨rd, List.mem_of_find?_eq_some hrd, if_pos rfl⟩
  cases hf : (returned s.host.reads rd.id b).find? (fun r => decide (r.owner = .stream st i (x.stream i).fetched.length) && r.data.isSome) with
  | none => exact absurd (List.find?_eq_none.mp hf _ hmem) (by simp [hown])
  | some r =>
    obtain ⟨v, hv, rfl⟩ := List.mem_map.mp (List.mem_of_find?_eq_some hf)
    have hp := List.find?_some hf
    by_cases hid : v.id = rd.id
    · rw [if_pos hid] at hf ⊢
      exact ⟨_, rfl, hid, rfl⟩
    · rw [if_neg hid, Bool.and_eq_true] at hp
      exact absurd (of_decide_eq_true hp.1) (honly v hv hid _)

include hx hi hd

/-- The next block of the stream reaches the deck, and its read is no longer in flight. -/
theorem blockReturned_eq (b : Bytes) (hlast : streamLen img d ≤ (x.stream i).fetched.length + 1) :
    blockReturned s rd st i false b =
      setStep { s with host := { s.host with reads := s.host.reads.filter fun v => decide (v.id ≠ rd.id) } } (tookBlock x i d b) := by
  obtain ⟨r, hfind, hid, hdata⟩ := find_returned hrd hown honly b
  have hdrain (n : Nat) : drainBlocks st i false (n + 1) { s with host := { s.host with reads := returned s.host.reads rd.id b } } =
      drainBlocks st i false n
        (setStep { s with host := { s.host with reads := s.host.reads.filter fun v => decide (v.id ≠ rd.id) } } (tookBlock x i d b)) := by
    rw [drainBlocks]
    dsimp only
    rw [show stepOf { s with host := { s.host with reads := returned s.host.reads rd.id b } } st = some x from hx]
    dsimp only
    rw [show imageOf { s with host := { s.host with reads := returned s.host.reads rd.id b } } x = some img from hi, Option.bind_some, hd]
    dsimp only
    rw [if_neg Bool.false_ne_true, hfind]
    dsimp only
    rw [hid, hdata, takeBlock_eq]
    unfold dropRead
    dsimp only
    rw [filter_returned]
    rfl
  have hid' : x.id = st := id_of_stepOf hx
  have hstep := stepOf_setStep_self (s := { s with host := { s.host with reads := s.host.reads.filter fun v => decide (v.id ≠ rd.id) } }) hx
    (show (tookBlock x i d b).id = st from hid')
  unfold blockReturned
  dsimp only
  rw [show s.host.reads.map (fun r => if r.id = rd.id then { r with data := some b } else r) = returned s.host.reads rd.id b from rfl, hdrain,
    drainBlocks_done, moreReads_done hstep (img := img) (d := d)]
  · rw [imageOf_settle]
    exact hi
  · rw [descOf_settle]
    exact hd
  · rw [settle_stream, stream_tookBlock, List.length_append]
    exact hlast
  · intro v hv n
    obtain ⟨hv, hne⟩ := List.mem_filter.mp hv
    exact honly v hv (of_decide_eq_true hne) n

end Stream

/-! ### Reads that are answered, fail, or have no answer in time (R342) -/

section Completion

variable {s : State} {rd : HostRead} (hrd : (s.host.reads.find? fun v => decide (v.id = rd.id)) = some rd) (hdata : rd.data = none)
  (hfailed : rd.failed = false)

include hrd hdata hfailed

theorem exec_hostReadCompletion_ok {st i n : Nat} (hahead : offloadAhead s rd = false) (hown : rd.owner = .stream st i n) (b : Bytes) :
    exec (.hostReadCompletion rd.id (.ok b)) s = .next (blockReturned s rd st i false b) := by
  show execHostReadCompletion rd.id (.ok b) s = _
  unfold execHostReadCompletion
  rw [hrd]
  dsimp only
  rw [hdata, hfailed, hahead, if_neg (by decide), hown]

theorem exec_hostReadCompletion_bad (hahead : offloadAhead s rd = false) {h : HostData} (hh : HostData.bytes h = none) :
    exec (.hostReadCompletion rd.id h) s = .next (readFailed s rd) := by
  show execHostReadCompletion rd.id h s = _
  unfold execHostReadCompletion
  rw [hrd]
  dsimp only
  rw [hdata, hfailed, hahead, if_neg (by decide)]
  cases h with
  | ok b => cases hh
  | _ => rfl

theorem exec_hostReadTimeout : exec (.hostReadTimeout rd.id) s = .next (readFailed s rd) := by
  show execHostReadTimeout rd.id s = _
  unfold execHostReadTimeout
  rw [hrd]
  dsimp only
  rw [hdata, hfailed, if_neg (by decide)]

end Completion

/-- A failed read of a step is marked, and ends nothing. -/
theorem readFailed_of_step {s : State} {rd : HostRead} {st i n : Nat} (h : rd.owner = .prefetch st i n ∨ rd.owner = .stream st i n) :
    readFailed s rd = { logErr s 0x0802 rd.ctx (BitVec.ofNat 128 rd.addr) with
      host := { s.host with reads := s.host.reads.map fun r => if r.id = rd.id then { r with failed := true } else r } } := by
  have hhost : (logErr s 0x0802 rd.ctx (BitVec.ofNat 128 rd.addr)).host = s.host := logErr_frame _ _ _ _ .host (by decide)
  unfold readFailed
  dsimp only
  rw [hhost]
  rcases h with h | h <;> rw [h]

/-! ### A station whose data cannot come (R342) -/

/-- A failed read that stands where a stream goes on ends the unit's step of one module. -/
theorem waitFor_of_failed_read {s : State} {st key stall dry a : Nat} {x : Step} {u : UnitSt} {img : Image} {rd : HostRead} {ds : List Nat}
    (hx : stepOf s st = some x) (hi : imageOf s x = some img) (hm : img.multi = false) (hrd : rd ∈ s.host.reads) (hf : rd.failed = true)
    (hown : rd.owner = .prefetch st a (x.stream a).fetched.length ∨ rd.owner = .stream st a (x.stream a).fetched.length) (ha : a ∈ ds) :
    stepOf (waitFor s x key u stall dry ds) st = none := by
  have hid := id_of_stepOf hx
  unfold waitFor
  cases hb : brokenRead s x ds with
  | none => exact absurd (List.find?_eq_none.mp hb rd hrd) (by rcases hown with h | h <;> simp [hf, h, hid, ha])
  | some r =>
    dsimp only
    rw [failStep_of_single _ hi hm, ← hid]
    exact stepOf_endStep_self s x _

/-- Settles O24: a block by its stream, a failed read by its owner, a request by its answer. -/
theorem hostReadsAndRequestsAreAnswered : Obligations.HostReadsAndRequestsAreAnswered := by
  refine ⟨fun s rd hrd hdata hfailed hahead => ⟨?block, ?failed⟩, ?station, fun s hup => ?requests⟩
  case block =>
    intro st i x img d b hown hx hi hd hlast honly
    refine ⟨_, _, (exec_hostReadCompletion_ok hrd hdata hfailed hahead hown b).trans
      (congrArg _ (blockReturned_eq hrd hown hx hi hd honly b hlast)), stepOf_setStep_self hx (id_of_stepOf hx :), ?_, rfl⟩
    rw [settle_stream, stream_tookBlock]
  case failed =>
    intro st i n e hown he
    have hexec : exec e s = .next (readFailed s rd) := by
      rcases he with rfl | ⟨h, hh, rfl⟩
      · exact exec_hostReadTimeout hrd hdata hfailed
      · exact exec_hostReadCompletion_bad hrd hdata hfailed hahead hh
    rw [readFailed_of_step hown] at hexec
    exact ⟨_, hexec, logErr_logged s _ _ _, logErr_frame s _ _ _ .steps (by decide), rfl⟩
  case station =>
    intro op hop s st sp stall x img c u ins rd hturn hvop hnone hm hrd hf hown
    obtain ⟨lanes, hexec⟩ := exec_vectorOp st sp stall s op hop
    have hi : imageOf s x = some img := by
      rw [imageOf, hturn.ctx]
      exact hturn.image
    refine ⟨_, hexec, ?_⟩
    unfold vecElem
    rw [nextIns_eq_some.mpr hturn]
    dsimp only
    rw [if_pos hvop, hnone]
    exact waitFor_of_failed_read hturn.step hi hm hrd hf hown (by simp)
  case requests =>
    refine ⟨fun addr => if_pos hup, fun addr => if_pos hup, fun aer => ⟨_, if_pos hup, ?_, logErr_logged_since _ _ _ rfl rfl, ?_⟩⟩
    · exact (logErr_keeps _ _ _ _ (by decide : 0 ≠ 257)).out _ (List.mem_cons_self ..)
    · exact ((logErr_frame _ _ _ _).after (by decide) ((emit_frame s _).mono (by decide))).onlyLog

end Sys2Proof.HostReads


/-! PROOFS of the host family, writes that the host observes or never does (O23). -/

namespace Sys2Proof.HostWrites

set_option Elab.async false

open Sys2Proof.Machine Sys2Proof.Safety Sys2Proof.Laws Sys2Proof.Commits Sys2Proof.Timetables Sys2Proof.TilesAhead Sys2Proof.ContextWork Sys2Proof.HostRules
  Sys2Proof.MsixMessages

/-! ### What an observed write releases (R344, R345, R381) -/

theorem foldl_eq_self {α β : Type} {f : α → β → α} {l : List β} {a : α} (h : ∀ b ∈ l, f a b = a) : l.foldl f a = a := by
  induction l with
  | nil => rfl
  | cons b l ih => rw [List.foldl_cons, h b (List.mem_cons_self ..), ih fun c hc => h c (List.mem_cons_of_mem b hc)]

/-- With no reply held nothing is released. -/
theorem releaseHeld_of_none_held {s : State} {r : RingId} (h : ∀ g, ringOf s r = some g → ∀ c ∈ g.cmds, c.held = none) : releaseHeld s r = s := by
  unfold releaseHeld
  split
  · rfl
  · next g hg =>
    exact foldl_eq_self fun c hc => by rw [h g hg c hc]

theorem finishDestroy_of_kept {s : State} {n : Nat} (h : ∀ k, ctxOf s n = some k → k.destroying = none) : finishDestroy s n = s := by
  unfold finishDestroy
  split
  · next k g hk _ => rw [h k hk]
  · rfl

theorem finishDestroy_of_no_ring {s : State} {n : Nat} (h : ringOf s (.ctx n) = none) : finishDestroy s n = s := by
  unfold finishDestroy
  rw [h]
  cases ctxOf s n <;> rfl

/-- The ring whose held replies a write of context `ctx` may release. -/
def ringOfWrites (ctx : Option Nat) : RingId :=
  match ctx with
  | some n => .ctx n
  | none => .admin

theorem ringOfWrites_ctxNo (r : RingId) : ringOfWrites r.ctxNo = r := by cases r <;> rfl

theorem writeSettled_of_kept {s : State} {w : HostWrite} (h : ∀ n, w.ctx = some n → ∀ k, ctxOf (releaseHeld s (.ctx n)) n = some k → k.destroying = none) :
    writeSettled s w = releaseHeld s (ringOfWrites w.ctx) := by
  unfold writeSettled ringOfWrites
  cases hc : w.ctx with
  | none => rfl
  | some n => exact finishDestroy_of_kept (h n hc)

theorem writeSettled_of_none_held {s : State} {w : HostWrite} (h : ∀ n, w.ctx = some n → ∀ k, ctxOf s n = some k → k.destroying = none)
    (hheld : ∀ g, ringOf s (ringOfWrites w.ctx) = some g → ∀ c ∈ g.cmds, c.held = none) : writeSettled s w = s := by
  have hrel := releaseHeld_of_none_held hheld
  rw [writeSettled_of_kept fun n hn k hk => h n hn k (by rw [hn] at hrel; rwa [show releaseHeld s (.ctx n) = s from hrel] at hk), hrel]

/-- Without its ring a write that is settled releases nothing. -/
theorem writeSettled_of_no_ring {s : State} {w : HostWrite} (h : ringOf s (ringOfWrites w.ctx) = none) : writeSettled s w = s := by
  have hrel : releaseHeld s (ringOfWrites w.ctx) = s := releaseHeld_of_none_held fun g hg => by rw [h] at hg; cases hg
  unfold writeSettled
  cases hc : w.ctx with
  | none =>
    rw [hc] at hrel
    exact hrel
  | some n =>
    rw [hc] at hrel h
    dsimp only
    rw [show releaseHeld s (.ctx n) = s from hrel]
    exact finishDestroy_of_no_ring h

/-! ### Observation -/

/-- The state once write `w` is out of flight, as the host has seen it. -/
def observed (s : State) (w : HostWrite) : State := emit (dropWrite s w.id) (.hostObserved w.path w.addr w.bytes)

section Go

variable {s : State} {w : HostWrite} (hw : (s.host.writes.find? fun v => decide (v.id = w.id)) = some w) (hl : w.lost = false)
  (hup : s.host.up = true) (hsent : w.sent = true) (hafter : ∀ v ∈ s.host.writes, v.id ∉ w.after)

include hw hl hup hsent hafter

/-- A write that waits for no other one is observed, whatever its path. -/
theorem exec_hostWriteGo : exec (.hostWriteGo w.id) s = .next (payOwed (writeSettled
    (match w.path, w.ring with | .ctrl, some r => ringInterrupt (observed s w) r w | _, _ => observed s w) w)) := by
  have hany : (s.host.writes.any fun v => w.after.contains v.id) = false := by simpa using hafter
  show execHostWriteGo w.id s = _
  unfold execHostWriteGo
  rw [hw]
  dsimp only
  rw [hl, hup, hsent, hany, if_neg Bool.false_ne_true, if_neg (by decide)]
  rfl

theorem exec_hostWriteGo_entry (hp : w.path ≠ .ctrl) : exec (.hostWriteGo w.id) s = .next (payOwed (writeSettled (observed s w) w)) := by
  rw [exec_hostWriteGo hw hl hup hsent hafter]
  split
  · next h _ => exact absurd h hp
  · rfl

end Go

/-- A control line whose entries make a message due interrupts its ring, unless one before it is still in flight (R338, R344). -/
theorem ringInterrupt_of_due {s : State} {r : RingId} {g : Ring} {w : HostWrite} (hg : ringOf s r = some g) (hdue : g.due (g.freshAt w.tail) = true)
    (hfirst : ∀ v ∈ s.host.writes, v.ring = some r → v.path = .ctrl → w.id ≤ v.id) : ringInterrupt s r w = sendRing s r := by
  have hearlier : (s.host.writes.any fun v => decide (v.ring = some r ∧ v.path = .ctrl ∧ v.id < w.id) && v.ofCtx r.ctxNo &&
      g.due (g.freshAt v.tail)) = false := by
    refine List.any_eq_false.mpr fun v hv h => ?_
    simp only [Bool.and_eq_true, decide_eq_true_eq] at h
    obtain ⟨⟨⟨hring, hpath, hlt⟩, -⟩, -⟩ := h
    exact absurd (hfirst v hv hring hpath) (by omega)
  have hcount : ¬ (g.rcd.coalCount = 0 ∨ g.freshAt w.tail = 0) := by
    unfold Ring.due at hdue
    have := of_decide_eq_true hdue
    omega
  unfold ringInterrupt
  rw [hg]
  dsimp only
  rw [hearlier, if_neg hcount, if_pos hdue, if_neg Bool.false_ne_true]

/-- No write of the context below `n` in flight: no reply waits for one. -/
theorem waits_eq_false {s : State} {r : RingId} {c : Cmd} {n : Nat} (h : ∀ v ∈ s.host.writes, v.ctx = r.ctxNo → n ≤ v.id) : c.waits s r n = false := by
  have hnone (v : HostWrite) (hv : v ∈ s.host.writes) (ho : v.ofCtx r.ctxNo = true) : n ≤ v.id := by
    unfold HostWrite.ofCtx at ho
    simp only [Bool.and_eq_true, decide_eq_true_eq] at ho
    exact h v hv ho.1.1
  have hopen : writesOpen s r.ctxNo n = false := List.any_eq_false.mpr fun v hv hp => by
    simp only [Bool.and_eq_true, decide_eq_true_eq] at hp
    exact absurd (hnone v hv hp.1) (by omega)
  have hslow : slowOpen s r.ctxNo n = false := List.any_eq_false.mpr fun v hv hp => by
    simp only [Bool.and_eq_true, decide_eq_true_eq] at hp
    exact absurd (hnone v hv hp.1) (by omega)
  unfold Cmd.waits
  rw [hopen, hslow, Bool.and_false, Bool.and_false]
  rfl

/-- The held reply of a ring's only command is written once its writes are observed. -/
theorem releaseHeld_of_observed {s : State} {r : RingId} {g : Ring} {c : Cmd} {y : Reply} {n : Nat} (hg : ringOf s r = some g) (hc : g.cmds = [c])
    (hy : c.held = some y) (hn : c.upTo = some n) (h : ∀ v ∈ s.host.writes, v.ctx = r.ctxNo → n ≤ v.id) :
    releaseHeld s r = postReply s r c.seq y := by
  have hbegun : begun g c = true := by
    unfold begun
    rw [hc, List.takeWhile_cons_of_neg (by simp)]
    rfl
  unfold releaseHeld
  rw [hg]
  dsimp only
  rw [hc, List.foldl_cons, List.foldl_nil, hy, hn]
  dsimp only
  rw [waits_eq_false h, hg, Option.map_some, hbegun]
  rfl

theorem ctxOf_postReply_none {s : State} {n : Nat} (h : ctxOf s n = none) (r : RingId) (seq : Nat) (y : Reply) : ctxOf (postReply s r seq y) n = none := by
  have hbook (u : State) (hu : ctxOf u n = none) (a : Activity) : ctxOf (bookQueue u r a) n = none := by
    cases r with
    | admin => exact hu
    | ctx m =>
      unfold bookQueue
      dsimp only
      rw [ctxOf_updCtx]
      split
      · next hm =>
        subst hm
        exact congrArg (Option.map _) hu
      · exact hu
  have hframe : Frame [.host, .admin, .rings] (bookAccepted s r seq) (postReply s r seq y) :=
    (postEntry_frame _ _ _ _).after (by decide) ((updRing_frame _ _ _).mono (by decide))
  rw [ctxOf_eq_of_frame hframe (by decide)]
  unfold bookAccepted
  split
  · exact hbook (takeFree (takeFree s).2).2 h _
  · exact h

/-- A reply leaves a context that is not being destroyed so. -/
theorem destroying_postReply {s : State} {n : Nat} (h : ∀ k, ctxOf s n = some k → k.destroying = none) (r : RingId) (seq : Nat) (y : Reply) :
    ∀ k, ctxOf (postReply s r seq y) n = some k → k.destroying = none := by
  intro k hk
  cases hs : ctxOf s n with
  | none =>
    rw [ctxOf_postReply_none hs] at hk
    cases hk
  | some j =>
    obtain ⟨e, he⟩ := energyOnly_postReply n s r seq y j hs
    rw [he] at hk
    cases hk
    exact h j hs

/-! ### Writes without GO (R431) -/

section Timeout

variable {s : State} {w : HostWrite} (hw : (s.host.writes.find? fun v => decide (v.id = w.id)) = some w) (hl : w.lost = false)

/-- The state once the loss of write `w` has been logged. -/
def lossLogged (s : State) (w : HostWrite) : State := logErr s 0x0802 w.ctx (BitVec.ofNat 128 w.addr)

theorem lossLogged_frame (s : State) (w : HostWrite) : Frame [.err, .msix, .out] s (lossLogged s w) := logErr_frame _ _ _ _

/-- A write that a context without a ring has lost is given up and releases nothing. -/
theorem writeSettled_lost {s : State} {w : HostWrite} (h : ringOf s (ringOfWrites w.ctx) = none) :
    writeSettled (dropWrite (lossLogged s w) w.id) w = dropWrite (lossLogged s w) w.id :=
  writeSettled_of_no_ring (Eq.trans ((lossLogged_frame s w).ring (by decide) (by decide) _) h)

include hw hl

/-- A status entry, an event entry or a control line goes on waiting. -/
theorem exec_goTimeout_entry (hp : w.path ∈ [HwPath.status, .event, .ctrl]) : exec (.goTimeout w.id) s = .next (lossLogged s w) := by
  show execGoTimeout w.id s = _
  unfold execGoTimeout
  rw [hw]
  dsimp only
  rw [hl, if_neg Bool.false_ne_true]
  simp only [List.mem_cons, List.not_mem_nil, or_false] at hp
  rcases hp with hp | hp | hp <;> rw [hp] <;> rfl

variable (hring : ringOf s (ringOfWrites w.ctx) = none)

include hring

theorem exec_goTimeout_ofStep (hp : w.path = .offload) {st : Nat} {x : Step} (hst : w.step = some st) (hx : stepOf s st = some x)
    (hrun : x.state = .running) : exec (.goTimeout w.id) s = .next (payOwed (failStep (dropWrite (lossLogged s w) w.id) x (memoryReply 1 w.addr))) := by
  have hx' : stepOf (dropWrite (lossLogged s w) w.id) st = some x := Eq.trans (stepOf_eq_of_frame (lossLogged_frame s w) (by decide) st) hx
  show execGoTimeout w.id s = _
  unfold execGoTimeout
  rw [hw]
  dsimp only
  rw [hl, if_neg Bool.false_ne_true, hp]
  dsimp only
  rw [show logErr s 0x0802 w.ctx (BitVec.ofNat 128 w.addr) = lossLogged s w from rfl, writeSettled_lost hring, hst, Option.bind_some, hx']
  dsimp only
  rw [if_pos (by rw [hrun]; rfl)]

theorem exec_goTimeout_offload (hp : w.path = .offload) (hst : w.step = none) :
    exec (.goTimeout w.id) s = .next (dropWrite (lossLogged s w) w.id) := by
  show execGoTimeout w.id s = _
  unfold execGoTimeout
  rw [hw]
  dsimp only
  rw [hl, if_neg Bool.false_ne_true, hp]
  dsimp only
  rw [show logErr s 0x0802 w.ctx (BitVec.ofNat 128 w.addr) = lossLogged s w from rfl, writeSettled_lost hring, hst]
  rfl

theorem exec_goTimeout_shadow (hp : w.path = .shadow) (hst : w.step = none) :
    exec (.goTimeout w.id) s = .next (dropAfter (spoilHeld (dropWrite (lossLogged s w) w.id) w) w.id) := by
  show execGoTimeout w.id s = _
  unfold execGoTimeout
  rw [hw]
  dsimp only
  rw [hl, if_neg Bool.false_ne_true, hp]
  dsimp only
  rw [show logErr s 0x0802 w.ctx (BitVec.ofNat 128 w.addr) = lossLogged s w from rfl, writeSettled_lost hring, hst]
  rfl

end Timeout

theorem stepOf_failStep_single {s : State} {x : Step} (y : Reply) (h : ∀ img, imageOf s x = some img → img.multi = false) :
    stepOf (failStep s x y) x.id = none := by
  cases hi : imageOf s x with
  | some img =>
    rw [failStep_of_single y hi (h img hi)]
    exact stepOf_endStep_self s x y
  | none =>
    unfold failStep
    rw [hi]
    exact stepOf_endStep_self s x y

theorem host_spoilHeld (s : State) (w : HostWrite) : (spoilHeld s w).host = s.host := spoilHeld_frame s w .host (by decide)

theorem ringOf_none_of_clauses {s : State} {w : HostWrite} (hc : ∀ n, w.ctx = some n → ringOf s (.ctx n) = none) (ha : w.ctx = none → s.admin = none) :
    ringOf s (ringOfWrites w.ctx) = none := by
  cases h : w.ctx with
  | none => exact ha h
  | some n => exact hc n h

/-- Settles O23: an observed write by what it releases, a lost one by its path. -/
theorem hostWritesSettleOrAreGivenUp : Obligations.HostWritesSettleOrAreGivenUp := by
  refine ⟨fun s w hw hl hup hsent hafter ho hf hkept => ⟨?entry, ?line, ?held⟩, fun s w hw hl ho hf => ⟨?stays, ?step, ?given⟩⟩
  case entry =>
    intro hp hheld
    have hring : ∀ g, ringOf (observed s w) (ringOfWrites w.ctx) = some g → ∀ c ∈ g.cmds, c.held = none := by
      cases hc : w.ctx <;> rw [hc] at hheld <;> exact hheld
    refine ⟨_, exec_hostWriteGo_entry hw hl hup hsent hafter hp, ?_⟩
    rw [writeSettled_of_none_held (s := observed s w) hkept hring]
    exact payOwed_of_none ho hf
  case line =>
    intro r g hp hr hc hg hheld hdue hfirst hmask
    have hg' : ringOf (observed s w) r = some g := by cases r <;> exact hg
    have hsent' := sendRing_frame (observed s w) r
    have hint : ringInterrupt (observed s w) r w = sendRing (observed s w) r :=
      ringInterrupt_of_due hg' hdue fun v hv => hfirst v (List.mem_filter.mp hv).1
    have hsettled : writeSettled (sendRing (observed s w) r) w = sendRing (observed s w) r := by
      refine writeSettled_of_none_held (fun n hn k hk => hkept n hn k ?_) fun g' hg'' => ?_
      · exact (ctxOf_eq_of_frame hsent' (by decide) n).symm.trans hk
      · rw [hc, ringOfWrites_ctxNo, ringOf_sendRing hg'] at hg''
        cases hg''
        exact hheld
    refine ⟨_, exec_hostWriteGo hw hl hup hsent hafter, ?_⟩
    rw [hp, hr]
    dsimp only
    have hsched : (sendRing (observed s w) r).sched = s.sched := hsent' .sched (by decide)
    rw [hint, hsettled, payOwed_of_none (hsched ▸ ho) (hsched ▸ hf)]
    have hout := sendRing_out hg'
    have hmask' : (vecEntry (observed s w) r.vector).control.getLsbD 0 = false := hmask
    rw [if_neg (by rw [hmask']; exact Bool.false_ne_true)] at hout
    rw [hout, ← hp]
    rfl
  case held =>
    intro r g c y k hp hc hg hone hy hk hlast
    have hg' : ringOf (observed s w) r = some g := by cases r <;> exact hg
    have hrel : releaseHeld (observed s w) r = postReply (observed s w) r c.seq y := by
      refine releaseHeld_of_observed hg' hone hy hk fun v hv hctx => ?_
      obtain ⟨hv, hne⟩ := List.mem_filter.mp hv
      by_contra hlt
      exact absurd (hlast v hv (hctx.trans hc.symm) (by omega)) (of_decide_eq_true hne)
    have hsettled : writeSettled (observed s w) w = postReply (observed s w) r c.seq y := by
      rw [writeSettled_of_kept, hc, ringOfWrites_ctxNo, hrel]
      intro n hn
      rw [hc] at hn
      rw [show RingId.ctx n = r by cases r <;> simp_all [RingId.ctxNo], hrel]
      exact destroying_postReply (s := observed s w) (hkept n (hc.trans hn)) _ _ _
    have hsched : (postReply (observed s w) r c.seq y).sched = s.sched := postReply_frame _ _ _ _ .sched (by decide)
    refine ⟨_, exec_hostWriteGo_entry hw hl hup hsent hafter hp, ?_⟩
    rw [hsettled, payOwed_of_none (hsched ▸ ho) (hsched ▸ hf)]
    obtain ⟨g', hg'', hcmds⟩ := postReply_cmds c.seq y hg'
    obtain ⟨-, -, v, hv, hid, hpath, -, hbytes⟩ := postReply_spec c.seq y hg'
    refine ⟨?_, v, hv, Nat.le_of_eq hid.symm, hpath, hbytes⟩
    rw [hg'', Option.map_some, hcmds, hone]
    simp
  case stays =>
    intro hp
    exact ⟨_, exec_goTimeout_entry hw hl hp, logErr_logged _ _ _ _, (lossLogged_frame s w).onlyLog⟩
  case step =>
    intro st x hp hst hx hrun hc ha hm
    have hfail := failStep_frame (dropWrite (lossLogged s w) w.id) x (memoryReply 1 w.addr)
    have hsched : (failStep (dropWrite (lossLogged s w) w.id) x (memoryReply 1 w.addr)).sched = s.sched :=
      Eq.trans (hfail .sched (by decide)) (lossLogged_frame s w .sched (by decide))
    refine ⟨_, exec_goTimeout_ofStep hw hl (ringOf_none_of_clauses hc ha) hp hst hx hrun, ?_⟩
    rw [payOwed_of_none (hsched ▸ ho) (hsched ▸ hf), ← id_of_stepOf hx]
    refine stepOf_failStep_single _ fun img hi => hm img ?_
    have hctx : ctxOf (dropWrite (lossLogged s w) w.id) x.ctx = ctxOf s x.ctx := ctxOf_eq_of_frame (lossLogged_frame s w) (by decide) _
    unfold imageOf at hi ⊢
    rwa [hctx] at hi
  case given =>
    intro after hkind hst hc ha
    have hring := ringOf_none_of_clauses hc ha
    have hhost : (lossLogged s w).host = s.host := lossLogged_frame s w .host (by decide)
    rcases hkind with ⟨hp, rfl⟩ | ⟨hp, rfl⟩
    · refine ⟨_, exec_goTimeout_offload hw hl hring hp hst, ?_⟩
      show (lossLogged s w).host.writes.filter _ = _
      rw [hhost]
      simp
    · refine ⟨_, exec_goTimeout_shadow hw hl hring hp hst, ?_⟩
      show (spoilHeld _ w).host.writes.filter _ = _
      rw [host_spoilHeld]
      show ((lossLogged s w).host.writes.filter _).filter _ = _
      rw [hhost, List.filter_filter]
      congr 1
      funext v
      rw [Bool.and_comm]
      simp

end Sys2Proof.HostWrites


/-! PROOFS of the command family, what posting and ending replies leaves of the rings and of the contexts (R334 to R336, R345, R353, R383). -/

namespace Sys2Proof.RingWork

set_option Elab.async false

open Sys2Proof.Machine Sys2Proof.Safety Sys2Proof.Laws Sys2Proof.Commits Sys2Proof.Timetables Sys2Proof.ContextWork

/-! ### Entries, replies and marks of one ring -/

/-- Work on the commands of ring `r`: the ring's other registers stand, but for STATUS_TAIL, and so do the other rings. -/
structure OnlyReplies (r : RingId) (s t : State) : Prop where
  own : ∀ g, ringOf s r = some g → ∃ cs n, ringOf t r = some { g with cmds := cs, statusTail := n }
  others : ∀ q, q ≠ r → ringOf t q = ringOf s q

theorem OnlyReplies.refl (r : RingId) (s : State) : OnlyReplies r s s := ⟨fun g hg => ⟨g.cmds, g.statusTail, hg⟩, fun _ _ => rfl⟩

theorem OnlyReplies.trans {r : RingId} {s t u : State} (h : OnlyReplies r s t) (k : OnlyReplies r t u) : OnlyReplies r s u := by
  refine ⟨fun g hg => ?_, fun q hq => (k.others q hq).trans (h.others q hq)⟩
  obtain ⟨cs, n, ht⟩ := h.own g hg
  obtain ⟨cs', n', hu⟩ := k.own _ ht
  exact ⟨cs', n', hu⟩

theorem OnlyReplies.of_ringOf {r : RingId} {s t : State} (h : ∀ q, ringOf t q = ringOf s q) : OnlyReplies r s t :=
  ⟨fun g hg => ⟨g.cmds, g.statusTail, (h r).trans hg⟩, fun q _ => h q⟩

theorem OnlyReplies.of_frame {l : List Part} {r : RingId} {s t : State} (h : Frame l s t) (ha : Part.admin ∉ l) (hr : Part.rings ∉ l) :
    OnlyReplies r s t := .of_ringOf fun q => h.ring ha hr q

theorem onlyReplies_updRing (s : State) (r : RingId) (f : Ring → Ring) (hf : ∀ g, ∃ cs n, f g = { g with cmds := cs, statusTail := n }) :
    OnlyReplies r s (updRing s r f) := by
  refine ⟨fun g hg => ?_, fun q hq => (ringOf_updRing s r q f).trans (if_neg hq)⟩
  obtain ⟨cs, n, h⟩ := hf g
  exact ⟨cs, n, by rw [ringOf_updRing, if_pos rfl, hg, Option.map_some, h]⟩

theorem onlyReplies_updCmd (s : State) (r : RingId) (seq : Nat) (f : Cmd → Cmd) : OnlyReplies r s (updCmd s r seq f) :=
  onlyReplies_updRing s r _ fun g => ⟨_, g.statusTail, rfl⟩

theorem onlyReplies_setRing {s : State} {r : RingId} {g : Ring} (hg : ringOf s r = some g) (cs : List Cmd) (n : BitVec 32) :
    OnlyReplies r s (setRing s r { g with cmds := cs, statusTail := n }) := by
  refine ⟨fun k hk => ?_, fun q hq => (ringOf_setRing s r q _).trans (if_neg hq)⟩
  rw [hg] at hk
  cases hk
  exact ⟨cs, n, (ringOf_setRing s r r _).trans (if_pos rfl)⟩

theorem onlyReplies_postEntry (s : State) (r : RingId) (path : HwPath) (b : Bytes) : OnlyReplies r s (postEntry s r path b) := by
  unfold postEntry
  split
  · exact .refl r s
  · next g hg =>
    dsimp only
    refine .trans ?_ (.of_frame (writeCtrl_frame _ r _) (by decide) (by decide))
    exact .trans (.of_frame (issueWrite_frame s _ _ _ (g.rcd.statusBase + 32 * (g.statusTail.toNat % 2 ^ g.rcd.statusLog2)) b []) (by decide) (by decide))
      (onlyReplies_setRing (g := g) ((issueWrite_frame s _ _ _ _ _ _).ring (by decide) (by decide) r |>.trans hg) g.cmds (g.statusTail + 1))

theorem onlyReplies_postReply (s : State) (r : RingId) (seq : Nat) (y : Reply) : OnlyReplies r s (postReply s r seq y) := by
  refine .trans (.of_ringOf fun q => bookAccepted_ring s r q seq) (.trans ?_ (onlyReplies_postEntry _ r _ _))
  exact onlyReplies_updRing _ r _ fun g => ⟨_, g.statusTail, rfl⟩

/-- The replies that a release posts: what every posted reply keeps, a release keeps. -/
theorem releaseHeld_induction {P : State → Prop} {s : State} (r : RingId) (h : P s) (hpost : ∀ u seq y, P u → P (postReply u r seq y)) :
    P (releaseHeld s r) := by
  unfold releaseHeld
  split
  · exact h
  · next g _ =>
    refine List.foldlRecOn (motive := P) g.cmds _ h fun u hu c _ => ?_
    split
    · split
      · exact hu
      · exact hpost u _ _ hu
    · exact hu

/-- What posted replies and marked commands keep, the end of a command keeps. -/
theorem endCmd_induction {P : State → Prop} {s : State} (r : RingId) (seq : Nat) (y : Reply) (h : P s)
    (hpost : ∀ u seq y, P u → P (postReply u r seq y)) (hmark : ∀ f, P (updCmd s r seq f)) : P (endCmd s r seq y) := by
  unfold endCmd
  split
  · exact h
  · dsimp only
    split
    · exact hmark _
    · exact releaseHeld_induction r (hpost s _ _ h) hpost

theorem onlyReplies_releaseHeld (s : State) (r : RingId) : OnlyReplies r s (releaseHeld s r) :=
  releaseHeld_induction r (.refl r s) fun u seq y hu => hu.trans (onlyReplies_postReply u r seq y)

theorem onlyReplies_endCmd (s : State) (r : RingId) (seq : Nat) (y : Reply) : OnlyReplies r s (endCmd s r seq y) :=
  endCmd_induction r seq y (.refl r s) (fun u seq y hu => hu.trans (onlyReplies_postReply u r seq y)) fun f => onlyReplies_updCmd s r seq f

theorem onlyReplies_acceptCmd (s : State) (r : RingId) (seq : Nat) : OnlyReplies r s (acceptCmd s r seq) :=
  (onlyReplies_updCmd s r seq _).trans (onlyReplies_releaseHeld _ r)

theorem onlyReplies_endOk (s : State) (r : RingId) (c : Cmd) (result : Nat) : OnlyReplies r s (endOk s r c result) :=
  (onlyReplies_acceptCmd s r c.seq).trans (onlyReplies_endCmd _ r c.seq _)

/-! ### The administrative ring books to no context (R383) -/

/-- From `s` to `t` the contexts stand, and of the power state the energy of the administrative queue alone may have changed. -/
structure AdminBooked (s t : State) : Prop where
  ctxs : t.ctxs = s.ctxs
  power : t.power = { s.power with adminQueue := t.power.adminQueue }

theorem AdminBooked.refl (s : State) : AdminBooked s s := ⟨rfl, rfl⟩

theorem AdminBooked.trans {s t u : State} (h : AdminBooked s t) (k : AdminBooked t u) : AdminBooked s u :=
  ⟨k.ctxs.trans h.ctxs, by rw [k.power, h.power]⟩

theorem AdminBooked.of_frame {l : List Part} {s t : State} (h : Frame l s t) (hc : Part.ctxs ∉ l) (hp : Part.power ∉ l) : AdminBooked s t := by
  have hpower : t.power = s.power := h .power hp
  exact ⟨h .ctxs hc, by rw [hpower]⟩

theorem AdminBooked.ctxOf {s t : State} (h : AdminBooked s t) (n : Nat) : ctxOf t n = ctxOf s n := congrArg (kfind · n) h.ctxs

theorem adminBooked_bookAccepted (s : State) (seq : Nat) : AdminBooked s (bookAccepted s .admin seq) := by
  unfold bookAccepted
  split
  · exact ⟨rfl, rfl⟩
  · exact .refl s

theorem adminBooked_postReply (s : State) (seq : Nat) (y : Reply) : AdminBooked s (postReply s .admin seq y) := by
  have hframe : Frame [.host, .admin, .rings] (bookAccepted s .admin seq) (postReply s .admin seq y) :=
    (postEntry_frame _ _ _ _).after (by decide) ((updRing_frame _ _ _).mono (by decide))
  exact (adminBooked_bookAccepted s seq).trans (.of_frame hframe (by decide) (by decide))

theorem adminBooked_releaseHeld (s : State) : AdminBooked s (releaseHeld s .admin) :=
  releaseHeld_induction .admin (.refl s) fun u seq y hu => hu.trans (adminBooked_postReply u seq y)

theorem adminBooked_endCmd (s : State) (seq : Nat) (y : Reply) : AdminBooked s (endCmd s .admin seq y) :=
  endCmd_induction .admin seq y (.refl s) (fun u seq y hu => hu.trans (adminBooked_postReply u seq y))
    fun f => .of_frame (updCmd_frame s .admin seq f) (by decide) (by decide)

theorem adminBooked_acceptCmd (s : State) (seq : Nat) : AdminBooked s (acceptCmd s .admin seq) :=
  (AdminBooked.of_frame (updCmd_frame s .admin seq _) (by decide) (by decide)).trans (adminBooked_releaseHeld _)

theorem adminBooked_endOk (s : State) (c : Cmd) (result : Nat) : AdminBooked s (endOk s .admin c result) :=
  (adminBooked_acceptCmd s c.seq).trans (adminBooked_endCmd _ c.seq _)

/-! ### The current command of the administrative ring -/

theorem withCmd_current {s : State} {r : RingId} {op : Nat} {c : Cmd} (h : Current s r op c) (f : Cmd → State) : withCmd s r op f = f c := by
  obtain ⟨hcur, -⟩ := h
  unfold withCmd
  rw [hcur]

end Sys2Proof.RingWork


/-! PROOFS of the command family, fetching commands, the sequence that a ring expects, NOP and FENCE (O29, O59). -/

namespace Sys2Proof.Fetching

set_option Elab.async false

open Sys2Proof.Machine Sys2Proof.Safety Sys2Proof.Laws Sys2Proof.Commits Sys2Proof.Timetables Sys2Proof.ContextWork Sys2Proof.StackedWrites Sys2Proof.StationResults
  Sys2Proof.HostRules Sys2Proof.HostWrites Sys2Proof.RingWork Sys2Proof.AdminRing

/-! ### The fetched entry (R334, R356, R359) -/

/-- Ring `g` once the entry at its head is fetched as command `c`. -/
def fetchedRing (g : Ring) (c : Cmd) : Ring :=
  { g with cmdHead := g.cmdHead + 1, expSeq := BitVec.ofNat 32 (c.seqNo + 1), cmds := g.cmds ++ [c] }

/-- The command with what the read of its parameter block returns. -/
def withParam (c : Cmd) (param : HostData) : Cmd := { c with param := ((param.bytes).getD []).take c.paramBytes }

/-- The fetched command is in its ring's list and the control line shows the new head. -/
def listed (s : State) (r : RingId) (g : Ring) (c : Cmd) : State :=
  writeCtrl (setRing s r (fetchedRing g c)) r (openEntries (setRing s r (fetchedRing g c)) r)

/-- The error entries of a command that fails a check, `y` its reply. -/
def fetchLogs (s : State) (r : RingId) (g : Ring) (c : Cmd) (y : Reply) : State :=
  let s := if decide (c.seqNo ≠ g.expSeq.toNat) && decide (y.status = stBadParam) then logErr s 0x0807 r.ctxNo (Config.errDetail 0x0807 [r.vector]) else s
  if y.status = stMemUe then logErr s 0x0802 r.ctxNo (BitVec.ofNat 128 c.paramAddr) else s

theorem fetched_of_pass {s : State} {r : RingId} {g : Ring} {c : Cmd} {param : HostData} (h : preCheck s r g (withParam c param) param = none) :
    fetched s r g c param = listed s r g (withParam c param) := by
  unfold fetched
  dsimp only
  rw [show preCheck s r g { c with param := ((param.bytes).getD []).take c.paramBytes } param = none from h]
  rfl

theorem fetched_of_fail {s : State} {r : RingId} {g : Ring} {c : Cmd} {param : HostData} {y : Reply} (h : preCheck s r g (withParam c param) param = some y) :
    fetched s r g c param = failFetched (fetchLogs (listed s r g (withParam c param)) r g (withParam c param) y) r (withParam c param) y := by
  unfold fetched
  dsimp only
  rw [show preCheck s r g { c with param := ((param.bytes).getD []).take c.paramBytes } param = some y from h]
  rfl

section Entry

variable {s : State} {r : RingId} {g : Ring}

theorem exec_commandFetch (hg : ringOf s r = some g) (he : eligible g = true) (hlive : ringLive s r = true) (b : Bytes) (p : HostData) :
    exec (.commandFetch r (.ok b) p) s = .next (fetched s r g (cmdOf b g.cmdHead.toNat s.clk.uptime) p) := by
  show execCommandFetch r (.ok b) p s = _
  unfold execCommandFetch
  rw [hg]
  dsimp only
  rw [he, hlive]
  rfl

theorem exec_commandFetch_unread (hg : ringOf s r = some g) (he : eligible g = true) (hlive : ringLive s r = true) {e : HostData}
    (hnone : e.bytes = none) (p : HostData) : exec (.commandFetch r e p) s = .next (fetchFailed s r g) := by
  show execCommandFetch r e p s = _
  unfold execCommandFetch
  rw [hg]
  dsimp only
  rw [he, hlive, Bool.and_self, if_pos rfl]
  split
  · cases hnone
  · rfl

theorem ringOf_listed (s : State) (r : RingId) (g : Ring) (c : Cmd) : ringOf (listed s r g c) r = some (fetchedRing g c) := by
  unfold listed
  rw [(writeCtrl_frame _ r _).ring (by decide) (by decide), ringOf_setRing, if_pos rfl]

theorem fetchLogs_frame (s : State) (r : RingId) (g : Ring) (c : Cmd) (y : Reply) : Frame [.err, .msix, .out] s (fetchLogs s r g c y) := by
  unfold fetchLogs
  dsimp only
  split <;> split
  · exact (logErr_frame _ _ _ _).after (by decide) (logErr_frame _ _ _ _)
  · exact logErr_frame _ _ _ _
  · exact logErr_frame _ _ _ _
  · exact .refl _ _

/-- The ring as the failing command finds it. -/
theorem ringOf_fetchLogs_listed (s : State) (r : RingId) (g : Ring) (c : Cmd) (y : Reply) :
    ringOf (fetchLogs (listed s r g c) r g c y) r = some (fetchedRing g c) :=
  ((fetchLogs_frame _ r g c y).ring (by decide) (by decide) r).trans (ringOf_listed s r g c)

theorem ctrlWrite_listed (s : State) (r : RingId) (g : Ring) (c : Cmd) :
    ∃ w ∈ (listed s r g c).host.writes, s.host.nextId ≤ w.id ∧ w.path = .ctrl ∧ w.addr = g.rcd.ctrlBase := by
  have hhost : (setRing s r (fetchedRing g c)).host = s.host := setRing_frame s r _ .host (by decide)
  unfold listed writeCtrl
  rw [ringOf_setRing, if_pos rfl]
  refine ⟨_, List.mem_append_right _ (List.mem_singleton_self _), ?_, rfl, rfl⟩
  dsimp only
  rw [hhost]

end Entry

/-! ### A command that fails a check (R356, R357, R360) -/

/-- The reply of a command that failed a check and has not begun. -/
def heldBack (r : RingId) (y : Reply) (c : Cmd) : Cmd :=
  { c with held := some { y with opcode := c.opcode, seq := c.seqNo, ctx := c.concerned r }, upTo := some 0 }

theorem onlyReplies_failFetched (s : State) (r : RingId) (c : Cmd) (y : Reply) : OnlyReplies r s (failFetched s r c y) := by
  unfold failFetched
  split
  · exact onlyReplies_endCmd s r c.seq y
  · exact onlyReplies_updCmd s r c.seq _

/-- Every listed command of position `seq` is refused: not accepted, its reply held. -/
def RefusedAt (r : RingId) (seq : Nat) (s : State) : Prop :=
  ∀ g, ringOf s r = some g → ∀ k ∈ g.cmds, k.seq = seq → k.accepted = false ∧ k.held ≠ none

theorem refusedAt_postReply {s : State} {r : RingId} {seq : Nat} (h : RefusedAt r seq s) (q : Nat) (y : Reply) : RefusedAt r seq (postReply s r q y) := by
  intro g' hg' k hk hseq
  cases hg : ringOf s r with
  | none =>
    have hb : ringOf (bookAccepted s r q) r = none := (bookAccepted_ring s r r q).trans hg
    have hnone : ringOf (postReply s r q y) r = none := by
      unfold postReply updRing postEntry
      rw [hb]
      dsimp only
      rw [hb]
      exact hb
    exact absurd (hg'.symm.trans hnone) (by simp)
  | some g =>
    obtain ⟨g'', hg'', hcmds⟩ := postReply_cmds q y hg
    rw [hg''] at hg'
    cases hg'
    rw [hcmds] at hk
    exact h g hg k (List.mem_filter.mp hk).1 hseq

theorem refusedAt_of_posted {s : State} {r : RingId} {g : Ring} (seq : Nat) (y : Reply) (hg : ringOf s r = some g) : RefusedAt r seq (postReply s r seq y) := by
  intro g' hg' k hk hseq
  obtain ⟨g'', hg'', hcmds⟩ := postReply_cmds seq y hg
  rw [hg''] at hg'
  cases hg'
  rw [hcmds] at hk
  exact absurd hseq (of_decide_eq_true (List.mem_filter.mp hk).2)

/-- Marking the one command of a position as held refuses it. -/
theorem refusedAt_updCmd {s : State} {r : RingId} {g : Ring} {c : Cmd} (hg : ringOf s r = some g) (hone : ∀ k ∈ g.cmds, k.seq = c.seq → k = c)
    (hacc : c.accepted = false) (f : Cmd → Cmd) (hf : (f c).accepted = c.accepted ∧ (f c).held ≠ none) : RefusedAt r c.seq (updCmd s r c.seq f) := by
  intro g' hg' k hk hseq
  rw [updCmd, ringOf_updRing, if_pos rfl, hg] at hg'
  cases hg'
  obtain ⟨d, hd, rfl⟩ := List.mem_map.mp hk
  by_cases hdc : d.seq = c.seq
  · rw [if_pos hdc, hone d hd hdc]
    exact ⟨hf.1.trans hacc, hf.2⟩
  · rw [if_neg hdc] at hseq
    exact absurd hseq hdc

theorem cmd_of_sole {g : Ring} {c : Cmd} (hin : c ∈ g.cmds) (hone : ∀ k ∈ g.cmds, k.seq = c.seq → k = c) : g.cmd c.seq = some c := by
  unfold Ring.cmd
  cases hfind : g.cmds.find? fun k => decide (k.seq = c.seq) with
  | none => simpa using List.find?_eq_none.mp hfind c hin
  | some d => rw [hone d (List.mem_of_find?_eq_some hfind) (by simpa using List.find?_some hfind)]

theorem refusedAt_failFetched {s : State} {r : RingId} {g : Ring} {c : Cmd} (hg : ringOf s r = some g) (hin : c ∈ g.cmds)
    (hone : ∀ k ∈ g.cmds, k.seq = c.seq → k = c) (hacc : c.accepted = false) (y : Reply) : RefusedAt r c.seq (failFetched s r c y) := by
  unfold failFetched
  split
  · have hcmd : ((ringOf s r).bind fun g => g.cmd c.seq) = some c := by rw [hg]; exact cmd_of_sole hin hone
    unfold endCmd
    rw [hcmd]
    dsimp only
    split
    · exact refusedAt_updCmd hg hone hacc _ ⟨rfl, Option.some_ne_none _⟩
    · exact releaseHeld_induction (P := RefusedAt r c.seq) r (refusedAt_of_posted c.seq _ hg) fun u q y hu => refusedAt_postReply hu q y
  · exact refusedAt_updCmd hg hone hacc _ ⟨rfl, Option.some_ne_none _⟩

/-- In the list of `fetchedRing` the new command is the only one of its position. -/
theorem eq_of_mem_fetchedRing {g : Ring} {c k : Cmd} (hnew : ∀ k ∈ g.cmds, k.seq ≠ c.seq) (hk : k ∈ (fetchedRing g c).cmds) (hseq : k.seq = c.seq) : k = c := by
  rcases List.mem_append.mp hk with h | h
  · exact absurd hseq (hnew k h)
  · exact List.mem_singleton.mp h

/-- A command out of sequence fails a check. -/
theorem preCheck_of_seq {s : State} {r : RingId} {g : Ring} {c : Cmd} (h : c.seqNo ≠ g.expSeq.toNat) (param : HostData) : ∃ y, preCheck s r g c param = some y := by
  unfold preCheck
  split
  · exact ⟨_, rfl⟩
  · split
    · exact ⟨_, rfl⟩
    · exact ⟨_, rfl⟩

/-- The ring keeps the sequence number after the fetched command's, whether or not that was accepted (R359). -/
theorem expSeq_fetched {s : State} {r : RingId} {g : Ring} (c : Cmd) (p : HostData) :
    ∃ g', ringOf (fetched s r g c p) r = some g' ∧ g'.expSeq = BitVec.ofNat 32 (c.seqNo + 1) := by
  cases hcheck : preCheck s r g (withParam c p) p with
  | none =>
    rw [fetched_of_pass hcheck]
    exact ⟨_, ringOf_listed s r g _, rfl⟩
  | some y =>
    rw [fetched_of_fail hcheck]
    obtain ⟨cs, n, h⟩ := (onlyReplies_failFetched _ r (withParam c p) y).own _ (ringOf_fetchLogs_listed s r g (withParam c p) y)
    exact ⟨_, h, rfl⟩

/-- A command out of sequence is refused (R356, R359). -/
theorem refusedAt_fetched {s : State} {r : RingId} {g : Ring} {c : Cmd} (hseq : c.seqNo ≠ g.expSeq.toNat) (hacc : c.accepted = false)
    (hnew : ∀ k ∈ g.cmds, k.seq ≠ c.seq) (p : HostData) : RefusedAt r c.seq (fetched s r g c p) := by
  obtain ⟨y, hy⟩ := preCheck_of_seq (s := s) (r := r) (c := withParam c p) hseq p
  rw [fetched_of_fail hy]
  exact refusedAt_failFetched (c := withParam c p) (ringOf_fetchLogs_listed s r g (withParam c p) y) (List.mem_append_right _ (List.mem_singleton_self _))
    (fun k hk hkc => eq_of_mem_fetchedRing hnew hk hkc) hacc y

/-! ### The ring that CTX_CREATE installs (R366) -/

/-- The state with the context `k` under number `n`, its frames reserved and its ring installed from record `rec`. -/
def created (s : State) (n : Nat) (k : Ctx) (rec : RingRec) : State :=
  { setCtx s n k with sm := { s.sm with reserved := s.sm.reserved ++ k.frames }, rings := kput s.rings n { rcd := rec } }

/-- CTX_CREATE either refuses, which leaves the contexts, or makes the context and answers its tag. -/
theorem ctxCreate_cases (s : State) (c : Cmd) (lists : List HostData) :
    AdminBooked s (ctxCreate s .admin c lists) ∨ ∃ ws fs, ctxCreate s .admin c lists =
      endOk (writeCtrl (created s (c.fld 295 288) (newCtx c ws fs) (ringRecOf c.param)) (.ctx (c.fld 295 288)) []) .admin c (c.fld 351 320) := by
  unfold ctxCreate
  dsimp only
  split
  · exact .inl (adminBooked_endCmd ..)
  split
  · exact .inl (adminBooked_endCmd ..)
  split
  · exact .inl (adminBooked_endCmd ..)
  split
  · exact .inl (adminBooked_endCmd ..)
  · exact .inl ((AdminBooked.of_frame (logErr_frame s _ _ _) (by decide) (by decide)).trans (adminBooked_endCmd ..))
  next ws _ =>
    split
    · exact .inl (adminBooked_endCmd ..)
    split
    · exact .inl (adminBooked_endCmd ..)
    split
    · exact .inl (adminBooked_endCmd ..)
    · next fs _ => exact .inr ⟨ws, fs, rfl⟩

theorem ringOf_created (s : State) (n : Nat) (k : Ctx) (rec : RingRec) : ringOf (created s n k rec) (.ctx n) = some { rcd := rec } :=
  kfind_kput_self s.rings n _

/-- Ending the command on the administrative ring leaves the new context's ring. -/
theorem ringOf_endOk_created (s : State) (n : Nat) (k : Ctx) (rec : RingRec) (c : Cmd) (result : Nat) :
    ringOf (endOk (writeCtrl (created s n k rec) (.ctx n) []) .admin c result) (.ctx n) = some { rcd := rec } := by
  rw [(onlyReplies_endOk _ .admin c result).others (.ctx n) (by simp), (writeCtrl_frame _ _ _).ring (by decide) (by decide), ringOf_created]

theorem exec_ctxCreate {s : State} {c : Cmd} (h : Current s .admin 0x0010 c) (lists : List HostData) :
    exec (.ctxCreate .admin lists) s = .next (ctxCreate s .admin c lists) := by
  show execCtxCreate .admin lists s = _
  unfold execCtxCreate
  rw [withCmd_current h]

/-- Settles O59: the ring of a new context, the administrative ring at its installation, and every fetched command. -/
theorem ringsExpectTheNextSeq : Obligations.RingsExpectTheNextSeq := by
  refine ⟨fun s t c lists hcur hfree hexec hmade => ?_, fun s v hup hready hgo hfit hidle => ?_, fun s r g b p hg he hlive => ?_⟩
  · rw [exec_ctxCreate hcur] at hexec
    injection hexec with hexec
    rcases ctxCreate_cases s c lists with hbooked | ⟨ws, fs, heq⟩
    · rw [← hexec, hbooked.ctxOf] at hmade
      exact absurd hfree hmade
    · rw [← hexec, heq]
      exact ⟨_, ringOf_endOk_created .., rfl⟩
  · have hfault : ringFault (adminRecBytes (noLatch s)) (ctxSpans (noLatch s)) (allPages (noLatch s)) = none := hfit
    refine ⟨_, { rcd := ringRecOf (adminRecBytes s) }, exec_rstAdminInstall hup hready hgo, ?_, rfl⟩
    rw [installAdmin_fits hfault hidle]
    exact (writeCtrl_frame _ .admin [] .admin (by decide)).trans rfl
  · intro c
    obtain ⟨g', hg', hexp⟩ := expSeq_fetched (s := s) (r := r) (g := g) c p
    refine ⟨_, g', exec_commandFetch hg he hlive b p, hg', hexp, fun hseq hnew => ?_⟩
    exact refusedAt_fetched hseq rfl hnew p g' hg'

end Sys2Proof.Fetching


/-! PROOFS of the command family, in which order fetched commands reply, and the two commands that only order (O29). -/

namespace Sys2Proof.CommandOrder

set_option Elab.async false

open Sys2Proof.Machine Sys2Proof.Safety Sys2Proof.Laws Sys2Proof.Commits Sys2Proof.Timetables Sys2Proof.ContextWork Sys2Proof.StackedWrites
  Sys2Proof.HostRules Sys2Proof.HostWrites Sys2Proof.RingWork Sys2Proof.Fetching Sys2Proof.Bearings

/-! ### Commands that pass or fail the checks -/

theorem preCheck_of_pass {s : State} {r : RingId} {g : Ring} {c : Cmd} (hfatal : s.boot.fatal = false) (hlegal : opLegal r c = true)
    (hseq : c.seqNo = g.expSeq.toNat) (hfield : fieldFault s r c = none) (hparam : c.paramBytes = 0) (param : HostData) : preCheck s r g c param = none := by
  unfold preCheck
  rw [hfatal, hlegal, hfield, if_neg Bool.false_ne_true, if_neg (by decide), if_neg (fun h => h hseq)]
  dsimp only
  rw [if_pos hparam]

theorem preCheck_of_illegal {s : State} {r : RingId} {g : Ring} {c : Cmd} (hfatal : s.boot.fatal = false) (hlegal : opLegal r c = false) (param : HostData) :
    preCheck s r g c param = some (fieldReply stBadOpcode 0 0) := by
  unfold preCheck
  rw [hfatal, hlegal, if_neg Bool.false_ne_true]
  rfl

/-- A command without a parameter block stays as it was fetched. -/
theorem withParam_of_none {c : Cmd} (h : c.paramBytes = 0) (hp : c.param = []) (param : HostData) : withParam c param = c := by
  unfold withParam
  rw [h, List.take_zero, ← hp]

theorem fetchLogs_of_illegal (s : State) (r : RingId) (g : Ring) (c : Cmd) : fetchLogs s r g c (fieldReply stBadOpcode 0 0) = s := by
  unfold fetchLogs
  rw [show decide ((fieldReply stBadOpcode 0 0).status = stBadParam) = false from rfl, Bool.and_false]
  rfl

theorem begun_fetchedRing {g : Ring} {c : Cmd} (hnew : ∀ k ∈ g.cmds, k.seq ≠ c.seq) (d : Cmd) (hd : d.seq = c.seq) :
    begun (fetchedRing g c) d = g.cmds.all fun k => k.accepted && opLong k.opcode := by
  unfold begun
  have htake : (fetchedRing g c).cmds.takeWhile (fun k => decide (k.seq ≠ d.seq)) = g.cmds := by
    show (g.cmds ++ [c]).takeWhile _ = _
    rw [List.takeWhile_append_of_pos fun k hk => by simpa [hd] using hnew k hk, List.takeWhile_cons_of_neg (by simp [hd]), List.append_nil]
  rw [htake]

/-- A change of the commands of a position that only the last one has. -/
theorem map_at_new {l : List Cmd} {c : Cmd} (hnew : ∀ k ∈ l, k.seq ≠ c.seq) (f : Cmd → Cmd) :
    (l ++ [c]).map (fun k => if k.seq = c.seq then f k else k) = l ++ [f c] := by
  rw [List.map_append, List.map_singleton, if_pos rfl, List.map_congr_left (g := fun k => k) fun k hk => if_neg (hnew k hk), List.map_id']

/-! ### A command whose opcode is not legal on the ring (R356, R357, R360) -/

section Illegal

variable {s : State} {r : RingId} {g : Ring} {c : Cmd} (hfatal : s.boot.fatal = false) (hlegal : opLegal r c = false)
  (hnew : ∀ k ∈ g.cmds, k.seq ≠ c.seq)

include hfatal hlegal

theorem fetched_of_illegal (p : HostData) : fetched s r g c p = failFetched (listed s r g (withParam c p)) r (withParam c p) (fieldReply stBadOpcode 0 0) := by
  rw [fetched_of_fail (preCheck_of_illegal (c := withParam c p) hfatal hlegal p), fetchLogs_of_illegal]

include hnew

/-- Behind commands that all reply on their own it replies at once. -/
theorem fetched_replies (hfence : c.cfence = false) (hacc : c.accepted = false) (hlong : ∀ k ∈ g.cmds, k.accepted = true ∧ opLong k.opcode = true ∧ k.held = none)
    (hheld : c.held = none) (p : HostData) : fetched s r g c p = postReply (listed s r g (withParam c p)) r c.seq
      { fieldReply stBadOpcode 0 0 with opcode := c.opcode, seq := c.seqNo, ctx := c.concerned r } := by
  have hring := ringOf_listed s r g (withParam c p)
  have hbegun : begun (fetchedRing g (withParam c p)) (withParam c p) = true := by
    rw [begun_fetchedRing (c := withParam c p) hnew _ rfl]
    exact List.all_eq_true.mpr fun k hk => by rw [(hlong k hk).1, (hlong k hk).2.1]; rfl
  have hcmd : ((ringOf (listed s r g (withParam c p)) r).bind fun g => g.cmd c.seq) = some (withParam c p) := by
    rw [hring]
    exact cmd_of_sole (c := withParam c p) (List.mem_append_right _ (List.mem_singleton_self _)) fun k hk hkc => eq_of_mem_fetchedRing hnew hk hkc
  have hwaits (u : State) (n : Nat) : (withParam c p).waits u r n = false := by
    unfold Cmd.waits
    rw [show (withParam c p).cfence = false from hfence, show (withParam c p).accepted = false from hacc]
    rfl
  rw [fetched_of_illegal hfatal hlegal]
  unfold failFetched
  rw [hring, Option.map_some, hbegun, Option.getD_some, if_pos rfl]
  show endCmd _ r c.seq _ = _
  unfold endCmd
  rw [hcmd]
  dsimp only
  rw [hwaits, if_neg Bool.false_ne_true, releaseHeld_of_none_held]
  · rfl
  · intro g' hg' k hk
    obtain ⟨g'', hg'', hcmds⟩ := postReply_cmds c.seq _ hring
    rw [hg''] at hg'
    cases hg'
    rw [hcmds] at hk
    rcases List.mem_append.mp (List.mem_filter.mp hk).1 with h | h
    · exact (hlong k h).2.2
    · rw [List.mem_singleton.mp h]
      exact hheld

/-- Behind a command that has not begun or is short it holds its reply. -/
theorem fetched_holds (hwait : ∃ k ∈ g.cmds, ¬ (k.accepted = true ∧ opLong k.opcode = true)) (p : HostData) :
    ringOf (fetched s r g c p) r = some { fetchedRing g (withParam c p) with cmds := g.cmds ++ [heldBack r (fieldReply stBadOpcode 0 0) (withParam c p)] } := by
  have hring := ringOf_listed s r g (withParam c p)
  have hbegun : begun (fetchedRing g (withParam c p)) (withParam c p) = false := by
    rw [begun_fetchedRing (c := withParam c p) hnew _ rfl]
    obtain ⟨k, hk, hnot⟩ := hwait
    exact List.all_eq_false.mpr ⟨k, hk, fun h => hnot (by simpa using h)⟩
  rw [fetched_of_illegal hfatal hlegal]
  unfold failFetched
  rw [hring, Option.map_some, hbegun, Option.getD_some, if_neg Bool.false_ne_true, updCmd, ringOf_updRing, if_pos rfl, hring, Option.map_some]
  exact congrArg (fun l => some { fetchedRing g (withParam c p) with cmds := l }) (map_at_new (c := withParam c p) hnew (heldBack r (fieldReply stBadOpcode 0 0)))

end Illegal

/-! ### An entry that cannot be read (R342) -/

/-- The state as an unread entry is passed over, before its event entry. -/
def passedOver (s : State) (r : RingId) (g : Ring) : State :=
  setRing (logErr s 0x0802 r.ctxNo (BitVec.ofNat 128 (g.rcd.cmdBase + 64 * (g.cmdHead.toNat % 2 ^ g.rcd.cmdLog2)))) r { g with cmdHead := g.cmdHead + 1 }

theorem fetchFailed_frame (s : State) (r : RingId) (g : Ring) : Frame [.host, .admin, .rings] (passedOver s r g) (fetchFailed s r g) :=
  (postEventOn_frame _ r _).after (by decide) ((writeCtrl_frame (passedOver s r g) r _).mono (by decide))

theorem fetchFailed_logged (s : State) (r : RingId) (g : Ring) :
    Logged s (fetchFailed s r g) 0x0802 r.ctxNo (BitVec.ofNat 128 (g.rcd.cmdBase + 64 * (g.cmdHead.toNat % 2 ^ g.rcd.cmdLog2))) := by
  refine logged_congr (logErr_logged s 0x0802 _ _) rfl rfl ?_
  exact Eq.trans (fetchFailed_frame s r g .err (by decide)) (setRing_frame _ r _ .err (by decide))

theorem ringOf_postEntry {s : State} {r : RingId} {g : Ring} (hg : ringOf s r = some g) (path : HwPath) (b : Bytes) :
    ringOf (postEntry s r path b) r = some { g with statusTail := g.statusTail + 1 } := by
  unfold postEntry
  rw [hg]
  dsimp only
  rw [(writeCtrl_frame _ r _).ring (by decide) (by decide), ringOf_setRing, if_pos rfl]

/-- An event entry leaves the ring's head and its commands. -/
theorem ringOf_postEventOn {s : State} {r : RingId} {g : Ring} (hg : ringOf s r = some g) (y : Reply) :
    (ringOf (postEventOn s r y) r).map (fun g => (g.cmdHead, g.cmds)) = some (g.cmdHead, g.cmds) := by
  unfold postEventOn
  rw [hg]
  dsimp only
  split
  · rw [ringOf_postEntry ((ringOf_setRing s r r _).trans (if_pos rfl))]
    rfl
  · rw [ringOf_setRing, if_pos rfl]
    rfl

theorem ringOf_fetchFailed (s : State) (r : RingId) (g : Ring) :
    (ringOf (fetchFailed s r g) r).map (fun g => (g.cmdHead, g.cmds)) = some (g.cmdHead + 1, g.cmds) := by
  have hg : ringOf (writeCtrl (passedOver s r g) r (openEntries (passedOver s r g) r)) r = some { g with cmdHead := g.cmdHead + 1 } := by
    rw [(writeCtrl_frame _ r _).ring (by decide) (by decide), passedOver, ringOf_setRing, if_pos rfl]
  exact ringOf_postEventOn hg _

/-! ### The fence (R239, R346) -/

/-- Between the states entries of the write-combining buffers have gone, and the buffers of the stacks alone changed. -/
structure WcShrunk (s t : State) : Prop where
  buffers : OnlyBuffers s t
  wc : ∀ b, ∀ e ∈ (stackOf t b).wc, e ∈ (stackOf s b).wc

theorem WcShrunk.refl (s : State) : WcShrunk s s := ⟨.refl s, fun _ _ h => h⟩

theorem WcShrunk.trans {s t u : State} (h : WcShrunk s t) (k : WcShrunk t u) : WcShrunk s u :=
  ⟨h.buffers.trans k.buffers, fun b e he => h.wc b e (k.wc b e he)⟩

theorem wcDrop_shrunk (s : State) (b line : Nat) : WcShrunk s (wcDrop s b line) := by
  refine ⟨setStack_onlyBuffers s b _, fun i e he => ?_⟩
  rw [wcDrop, stackOf_setStack] at he
  split at he
  · next hi => rw [hi]; exact (List.mem_filter.mp he).1
  · exact he

/-- With nothing poisoned and verdicts that are good, the write-out of an entry only drops its line. -/
theorem fenceOut_eq {s : State} (h : s.sm.poison = []) (b : Nat) (e : WcEntry) : fenceOut b (s, []) e = (wcDrop s b e.line, []) := by
  have hd : (wcDrop s b e.line).sm.poison = [] := h
  unfold fenceOut
  split
  · next hplain => rw [wcOut_of_plain hplain, cleanCws_of_poison_nil hd]
  · next hplain =>
    have hline : linePoisoned s (e.line * 128) = false := by rw [linePoisoned, h]; rfl
    exact congrArg (·, []) (wcOut_of_ok (Bool.eq_false_iff.mpr hplain) hline)

/-- One buffer's entries are written out. -/
theorem foldl_fenceOut {b : Nat} {l : List WcEntry} {s : State} (h : s.sm.poison = []) :
    ∃ t, l.foldl (fenceOut b) (s, []) = (t, []) ∧ WcShrunk s t ∧ ∀ e ∈ l, e ∉ (stackOf t b).wc := by
  induction l generalizing s with
  | nil => exact ⟨s, rfl, .refl s, fun e he => absurd he List.not_mem_nil⟩
  | cons e l ih =>
    obtain ⟨t, hfold, hshrunk, hgone⟩ := ih (s := wcDrop s b e.line) h
    refine ⟨t, by rw [List.foldl_cons, fenceOut_eq h, hfold], (wcDrop_shrunk s b e.line).trans hshrunk, fun d hd hmem => ?_⟩
    rcases List.mem_cons.mp hd with rfl | hl
    · exact line_ne_of_mem_wcDrop (hshrunk.wc b d hmem) rfl
    · exact hgone d hl hmem

/-- The fence over the buffers of a list of stacks. -/
theorem foldl_stacks {sel : WcEntry → Bool} {bs : List Nat} {s : State} (h : s.sm.poison = []) :
    ∃ t, bs.foldl (fun q b => ((stackOf q.1 b).wc.filter sel).foldl (fenceOut b) q) (s, []) = (t, []) ∧ WcShrunk s t ∧
      ∀ b ∈ bs, ∀ e ∈ (stackOf t b).wc, sel e = false := by
  induction bs generalizing s with
  | nil => exact ⟨s, rfl, .refl s, fun b hb => absurd hb List.not_mem_nil⟩
  | cons b bs ih =>
    obtain ⟨u, hout, hshrunk, hgone⟩ := foldl_fenceOut (b := b) (l := (stackOf s b).wc.filter sel) h
    obtain ⟨t, hrest, hshrunk', hgone'⟩ := ih (hshrunk.buffers.poison.trans h)
    refine ⟨t, by rw [List.foldl_cons, hout, hrest], hshrunk.trans hshrunk', fun i hi e he => ?_⟩
    rcases List.mem_cons.mp hi with rfl | hi
    · have hu := hshrunk'.wc i e he
      by_contra hsel
      exact hgone e (List.mem_filter.mpr ⟨hshrunk.wc i e hu, Bool.eq_true_of_not_eq_false hsel⟩) hu
    · exact hgone' i hi e he

theorem wcFence_spec {s : State} (h : s.sm.poison = []) (sel : WcEntry → Bool) :
    WcShrunk s (wcFence s sel []) ∧ ∀ b < 8, ∀ e ∈ (stackOf (wcFence s sel []) b).wc, sel e = false := by
  obtain ⟨t, hout, hshrunk, hgone⟩ := foldl_stacks (sel := sel) (bs := List.range 8) h
  have ht : wcFence s sel [] = t := congrArg Prod.fst hout
  rw [ht]
  exact ⟨hshrunk, fun b hb => hgone b (List.mem_range.mpr hb)⟩

theorem exec_fence {s : State} {n : Nat} {k : Ctx} {c : Cmd} (h : Current s (.ctx n) 0x0080 c) (hk : ctxOf s n = some k) :
    exec (.fence (.ctx n) []) s =
      .next (endOk (wcFence s (fun e => decide (e.ctx = n)) []) (.ctx n) c 0) := by
  show execFence (.ctx n) s [] = _
  unfold execFence
  rw [withCtxCmd_current h hk]
  rfl

/-- The command with the reply it holds until the writes below `upTo` are observed. -/
def holding (y : Reply) (upTo : Nat) (c : Cmd) : Cmd := { c with held := some y, upTo := some upTo }

/-- A fence behind open writes holds its reply until those are observed. -/
theorem endCmd_of_open {s : State} {n : Nat} {c : Cmd} {g : Ring} (hg : ringOf s (.ctx n) = some g) (hc : g.cmd c.seq = some c) (hacc : c.accepted = true)
    (hop : c.opcode = 0x0080) (hopen : writesOpen s (some n) s.host.nextId = true) (y : Reply) :
    ∃ g' c', ringOf (endCmd s (.ctx n) c.seq y) (.ctx n) = some g' ∧ g'.cmd c.seq = some c' ∧ c'.upTo = some s.host.nextId ∧
      (c'.held.map (·.status)) = some y.status := by
  have hwaits : c.waits s (.ctx n) s.host.nextId = true := by
    unfold Cmd.waits
    rw [hacc, hop, show writesOpen s (RingId.ctx n).ctxNo s.host.nextId = true from hopen]
    simp
  unfold endCmd
  rw [hg, Option.bind_some, hc]
  dsimp only
  rw [if_pos hwaits, updCmd, ringOf_updRing, if_pos rfl, hg, Option.map_some]
  let y' : Reply := { y with opcode := c.opcode, seq := c.seqNo, ctx := c.concerned (.ctx n) }
  exact ⟨_, holding y' s.host.nextId c, rfl, (cmd_map g c.seq (holding y' s.host.nextId) fun _ => rfl).trans (congrArg _ hc), rfl, rfl⟩

/-- Accepting a command of a ring that holds no reply back only marks it. -/
theorem acceptCmd_of_none_held {s : State} {r : RingId} (h : ∀ g, ringOf s r = some g → ∀ c ∈ g.cmds, c.held = none) (seq : Nat) :
    acceptCmd s r seq = updCmd s r seq (markAccepted s.clk.uptime) := by
  rw [acceptCmd_eq]
  refine releaseHeld_of_none_held fun g' hg' c hc => ?_
  rw [updCmd, ringOf_updRing, if_pos rfl] at hg'
  obtain ⟨g, hg, rfl⟩ := Option.map_eq_some_iff.mp hg'
  obtain ⟨d, hd, rfl⟩ := List.mem_map.mp hc
  split
  · exact h g hg d hd
  · exact h g hg d hd

theorem fence_settled {s : State} {n : Nat} {k : Ctx} {c : Cmd} (hcur : Current s (.ctx n) 0x0080 c) (hk : ctxOf s n = some k) (hp : s.sm.poison = [])
    (hheld : ∀ g, ringOf s (.ctx n) = some g → ∀ k ∈ g.cmds, k.held = none) :
    ∃ t, exec (.fence (.ctx n) []) s = .next t ∧ t.steps = s.steps ∧ t.sm.mem = s.sm.mem ∧
      (∀ b < 8, ∀ e ∈ (stackOf t b).wc, e.ctx ≠ n) ∧ (writesOpen s (some n) s.host.nextId = false → Ended s t (.ctx n) c 0 0) ∧
      (writesOpen s (some n) s.host.nextId = true →
        ∃ g c', ringOf t (.ctx n) = some g ∧ g.cmd c.seq = some c' ∧ c'.upTo = some s.host.nextId ∧ (c'.held.map (·.status)) = some 0) := by
  obtain ⟨⟨hbuffers, -⟩, hgone⟩ := wcFence_spec hp fun e => decide (e.ctx = n)
  generalize hu : wcFence s (fun e => decide (e.ctx = n)) [] = u at hbuffers hgone
  have hring : ringOf u (.ctx n) = ringOf s (.ctx n) := by rw [hbuffers]; rfl
  have hhost : u.host = s.host := by rw [hbuffers]
  have hsm : (endOk u (.ctx n) c 0).sm = u.sm := (endOk_frame u (.ctx n) c 0).sm_eq (by decide) (by decide)
  refine ⟨_, by rw [exec_fence hcur hk, hu], ?_, by rw [hsm, hbuffers], fun b hb e he => ?_, fun _ => endOk_ended hcur hring hhost 0, fun hopen => ?_⟩
  · exact Eq.trans (endOk_frame u (.ctx n) c 0 .steps (by decide)) (by rw [hbuffers])
  · rw [stackOf, hsm] at he
    exact of_decide_eq_false (hgone b hb e he)
  · have haccept : acceptCmd u (.ctx n) c.seq = updCmd u (.ctx n) c.seq (markAccepted u.clk.uptime) :=
      acceptCmd_of_none_held (fun g hg => hheld g (hring.symm.trans hg)) c.seq
    obtain ⟨-, -, -, hop, -⟩ := curCmd_some hcur.1
    obtain ⟨g, hg, hc⟩ := Option.bind_eq_some_iff.mp (acceptCmd_keeps_cmd hcur hring)
    have hsame : (acceptCmd u (.ctx n) c.seq).host = s.host := by
      rw [haccept]
      exact Eq.trans (updCmd_frame u _ _ _ .host (by decide)) hhost
    have hopen' : writesOpen (acceptCmd u (.ctx n) c.seq) (some n) (acceptCmd u (.ctx n) c.seq).host.nextId = true := by
      rw [writesOpen, hsame]
      exact hopen
    obtain ⟨g', c', hg', hc', hupTo, hstatus⟩ := endCmd_of_open (c := markAccepted u.clk.uptime c) hg hc rfl hop hopen' (plain stOk)
    exact ⟨g', c', hg', hc', hupTo.trans (by rw [hsame]), hstatus⟩

theorem nop_replies {s : State} {r : RingId} {c : Cmd} (h : Current s r 0x0001 c) : ∃ t, exec (.nop r) s = .next t ∧ Ended s t r c 0 0 ∧ t.steps = s.steps := by
  refine ⟨endOk s r c 0, ?_, endOk_ended h rfl rfl 0, endOk_frame s r c 0 .steps (by decide)⟩
  show execNop r s = _
  unfold execNop
  rw [withCmd_current h]

/-- Settles O29: the three outcomes of a fetch, NOP, and FENCE behind observed and behind open writes. -/
theorem commandsAreFetchedAndOrdered : Obligations.CommandsAreFetchedAndOrdered := by
  refine ⟨fun s r g b p hg he hlive => ?_, fun s r c => nop_replies, fun s n k c hcur hk hp hheld => fence_settled hcur hk hp hheld⟩
  intro c
  have hexec := exec_commandFetch hg he hlive b p
  refine ⟨fun hfatal hlegal hseq hfield hparam => ?_, fun hfatal hlegal hfence hnew => ⟨fun hlong => ?_, fun hwait => ?_⟩, fun e hnone => ?_⟩
  · have hwith : withParam c p = c := withParam_of_none hparam rfl p
    refine ⟨_, hexec.trans (congrArg _ (fetched_of_pass (preCheck_of_pass (c := withParam c p) hfatal ?_ ?_ ?_ ?_ p))), ?_, ctrlWrite_listed s r g _⟩
    · rwa [hwith]
    · rwa [hwith]
    · rwa [hwith]
    · rwa [hwith]
    · rw [ringOf_listed, show withParam (cmdOf b g.cmdHead.toNat s.clk.uptime) p = c from hwith, fetchedRing, hseq, BitVec.ofNat_add, BitVec.ofNat_toNat, BitVec.setWidth_eq]
      rfl
  · refine ⟨_, hexec.trans (congrArg _ (fetched_replies hfatal hlegal hnew hfence rfl hlong rfl p)), ?_⟩
    obtain ⟨-, -, w, hw, -, hpath, hring, hbytes⟩ := postReply_spec c.seq { fieldReply stBadOpcode 0 0 with opcode := c.opcode, seq := c.seqNo, ctx := c.concerned r }
      (ringOf_listed s r g (withParam c p))
    obtain ⟨g', hg', hcmds⟩ := postReply_cmds c.seq { fieldReply stBadOpcode 0 0 with opcode := c.opcode, seq := c.seqNo, ctx := c.concerned r }
      (ringOf_listed s r g (withParam c p))
    refine ⟨?_, w, hw, hpath, hring, hbytes⟩
    rw [hg', Option.map_some, hcmds]
    show some ((g.cmds ++ [withParam c p]).filter _) = _
    rw [List.filter_append, List.filter_eq_self.mpr fun k hk => decide_eq_true (hnew k hk), List.filter_cons_of_neg (by simp [withParam]), List.filter_nil, List.append_nil]
  · refine ⟨_, heldBack r (fieldReply stBadOpcode 0 0) (withParam c p), hexec, ?_, rfl, rfl, rfl⟩
    rw [fetched_holds hfatal hlegal hnew hwait p]
    rfl
  · exact ⟨_, exec_commandFetch_unread hg he hlive hnone p, ringOf_fetchFailed s r g, fetchFailed_logged s r g⟩

end Sys2Proof.CommandOrder


/-! PROOFS of the command family, CTX_CREATE, CTX_QUERY and GROUP_SET (O30), and what a command writes into its result buffer (R352). -/

namespace Sys2Proof.ContextCommands

set_option Elab.async false

open Sys2Proof.Machine Sys2Proof.Safety Sys2Proof.Laws Sys2Proof.Commits Sys2Proof.Timetables Sys2Proof.ContextWork Sys2Proof.RingWork Sys2Proof.Fetching

/-! ### The lines of a result buffer (R352) -/

theorem mem_hostRuns {fuel : Nat} : ∀ {a i : Nat} {b : Bytes}, a % 64 = 0 → i < fuel → 64 * i < b.length →
    (a + 64 * i, (b.drop (64 * i)).take 64) ∈ hostRuns fuel a b := by
  induction fuel with
  | zero => intro a i b _ hi; omega
  | succ fuel ih =>
    intro a i b ha hi hlen
    cases b with
    | nil => exact absurd hlen (Nat.not_lt_zero _)
    | cons x xs =>
      unfold hostRuns
      dsimp only
      rw [show 64 - a % 64 = 64 by omega]
      cases i with
      | zero => exact List.mem_cons_self ..
      | succ i =>
        refine List.mem_cons_of_mem _ ?_
        have hmem := ih (a := a + 64) (i := i) (b := (x :: xs).drop 64) (by omega) (by omega) (by rw [List.length_drop]; omega)
        rwa [List.drop_drop, show a + 64 + 64 * i = a + 64 * (i + 1) by ring, show 64 + 64 * i = 64 * (i + 1) by ring] at hmem

/-- One write of a result buffer, to where `loc` puts its address. -/
def resultLine (ctx : Option Nat) (r : RingId) (loc : Nat → Option Nat) (s : State) (q : Nat × Bytes) : State :=
  match loc q.1 with
  | some pa => issueWrite s ctx .result (some r) pa q.2 []
  | none => s

theorem resultLine_keeps (ctx : Option Nat) (r : RingId) (loc : Nat → Option Nat) (s : State) (q : Nat × Bytes) :
    (∀ w ∈ s.host.writes, w ∈ (resultLine ctx r loc s q).host.writes) ∧ s.host.nextId ≤ (resultLine ctx r loc s q).host.nextId := by
  unfold resultLine
  split
  · exact ⟨fun w hw => List.mem_append_left _ hw, Nat.le_succ _⟩
  · exact ⟨fun _ hw => hw, Nat.le_refl _⟩

/-- Each line of the list is in flight after the list. -/
theorem mem_writes_resultLines {ctx : Option Nat} {r : RingId} {loc : Nat → Option Nat} {q : Nat × Bytes} {pa : Nat} (hloc : loc q.1 = some pa) :
    ∀ {l : List (Nat × Bytes)} {s : State}, q ∈ l →
      ∃ w ∈ (l.foldl (resultLine ctx r loc) s).host.writes, s.host.nextId ≤ w.id ∧ w.path = .result ∧ w.addr = pa ∧ w.bytes = q.2 := by
  intro l
  induction l with
  | nil => intro s hq; cases hq
  | cons p l ih =>
    intro s hq
    rw [List.foldl_cons]
    rcases List.mem_cons.mp hq with rfl | hl
    · have hkeep := List.foldlRecOn (motive := fun u => ∀ w ∈ (resultLine ctx r loc s q).host.writes, w ∈ u.host.writes) l (resultLine ctx r loc)
        (fun _ hw => hw) fun u hu p _ w hw => (resultLine_keeps ctx r loc u p).1 w (hu w hw)
      refine ⟨{ id := s.host.nextId, ctx := ctx, path := .result, ring := some r, addr := pa, bytes := q.2, after := [], sent := s.host.up }, hkeep _ ?_,
        Nat.le_refl _, rfl, rfl, rfl⟩
      unfold resultLine
      rw [hloc]
      exact List.mem_append_right _ (List.mem_singleton_self _)
    · obtain ⟨w, hw, hid, hrest⟩ := ih (s := resultLine ctx r loc s p) hl
      exact ⟨w, hw, Nat.le_trans (resultLine_keeps ctx r loc s p).2 hid, hrest⟩

/-- An aligned result buffer receives its lines. -/
theorem resultWritten_lines (s : State) (ctx : Option Nat) (r : RingId) (loc : Nat → Option Nat) {addr : Nat} (ha : addr % 64 = 0) (b : Bytes) :
    ResultWritten s ((hostRuns (b.length / 64 + 2) addr b).foldl (resultLine ctx r loc) s) (fun o => loc (addr + o)) b :=
  fun _ _ hi hloc => mem_writes_resultLines hloc (mem_hostRuns ha (by omega) hi)

theorem resultWritten_admin (s : State) {addr : Nat} (ha : addr % 64 = 0) (b : Bytes) :
    ResultWritten s (writeResult s .admin addr b) (fun o => some (addr + o)) b := resultWritten_lines s none .admin some ha b

theorem resultWritten_ctx {s : State} {n : Nat} {k : Ctx} (hk : ctxOf s n = some k) {addr : Nat} (ha : addr % 64 = 0) (b : Bytes) :
    ResultWritten s (writeResult s (.ctx n) addr b) (fun o => hostAddr k (addr + o)) b := by
  have heq : writeResult s (.ctx n) addr b = (hostRuns (b.length / 64 + 2) addr b).foldl (resultLine (some n) (.ctx n) (hostAddr k)) s := by
    show writeHostAfter s n .result addr b [] = _
    unfold writeHostAfter
    rw [hk]
    rfl
  rw [heq]
  exact resultWritten_lines s (some n) (.ctx n) (hostAddr k) ha b

theorem mem_writes_acceptCmd {s : State} {w : HostWrite} (r : RingId) (seq : Nat) (h : w ∈ s.host.writes) : w ∈ (acceptCmd s r seq).host.writes := by
  rw [acceptCmd_eq]
  refine (releaseHeld_kept _ r).2.1 w ?_
  rwa [show (updCmd s r seq _).host = s.host from updCmd_frame s r seq _ .host (by decide)]

/-- What a command wrote stands when it ends. -/
theorem resultWritten_endOk {s u : State} {loc : Nat → Option Nat} {b : Bytes} (h : ResultWritten s u loc b) (r : RingId) (c : Cmd) (result : Nat) :
    ResultWritten s (endOk u r c result) loc b := fun i pa hi hloc =>
  have ⟨w, hw, hrest⟩ := h i pa hi hloc
  ⟨w, mem_writes_endCmd r c.seq _ (mem_writes_acceptCmd r c.seq hw), hrest⟩

/-! ### The frames of a new context (R374) -/

/-- The frames taken are as many as asked for, none in use, all of the range tried. -/
theorem takeFrames_spec {used : Nat → Bool} : ∀ {k f n : Nat} {fs : List Nat}, takeFrames used k f n = some fs →
    fs.length = n ∧ ∀ g ∈ fs, g < f + k ∧ used g = false := by
  intro k
  induction k with
  | zero =>
    intro f n fs h
    cases n with
    | zero => cases h; exact ⟨rfl, fun g hg => absurd hg List.not_mem_nil⟩
    | succ n => cases h
  | succ k ih =>
    intro f n fs h
    cases n with
    | zero => cases h; exact ⟨rfl, fun g hg => absurd hg List.not_mem_nil⟩
    | succ n =>
      unfold takeFrames at h
      split at h
      · obtain ⟨hlen, hall⟩ := ih h
        exact ⟨hlen, fun g hg => ⟨by have := (hall g hg).1; omega, (hall g hg).2⟩⟩
      · next hfree =>
        obtain ⟨gs, hgs, rfl⟩ := Option.map_eq_some_iff.mp h
        obtain ⟨hlen, hall⟩ := ih hgs
        refine ⟨by rw [List.length_cons, hlen], fun g hg => ?_⟩
        rcases List.mem_cons.mp hg with rfl | hg
        · exact ⟨by omega, Bool.eq_false_iff.mpr hfree⟩
        · exact ⟨by have := (hall g hg).1; omega, (hall g hg).2⟩

theorem newFrames_spec {s : State} {need : Nat} {fs : List Nat} (h : newFrames s need = some fs) :
    fs.length = need ∧ ∀ f ∈ fs, f < 130048 ∧ f ∉ s.sm.reserved ∧ f ∉ s.store.withdrawn := by
  obtain ⟨hlen, hall⟩ := takeFrames_spec h
  refine ⟨hlen, fun f hf => ?_⟩
  obtain ⟨hlt, hused⟩ := hall f hf
  rw [Bool.or_eq_false_iff] at hused
  exact ⟨by omega, by simpa using hused.1, by simpa using hused.2⟩

/-! ### The three commands (R366, R367, R293) -/

section Create

variable {s : State} {c : Cmd} {lists : List HostData} {ws : List Window} {fs : List Nat}

/-- CTX_CREATE that passes every check makes the context. -/
theorem ctxCreate_of_good (hfree : ctxOf s (c.fld 295 288) = none) (htag : ∀ q ∈ s.ctxs, q.2.tag.toNat ≠ c.fld 351 320)
    (hring : ringFault c.param (allSpans s) (allPages s) = none)
    (hwin : readWindows s c.param (ringSpans (ringRecOf c.param) ++ allSpans s) (c.fld 391 384) lists [] = .good ws)
    (hpages : total (ws.map (·.pages.length)) ≤ 65536) (hall : total (ws.map (·.pages.length)) + (allPages s).length ≤ 524288)
    (hclaims : claimsFault false (c.fld 383 352) c.param (32 + 32 * ws.length) (c.fld 407 392) [] = none) (hframes : newFrames s (c.fld 383 352) = some fs) :
    ctxCreate s .admin c lists =
      endOk (writeCtrl (created s (c.fld 295 288) (newCtx c ws fs) (ringRecOf c.param)) (.ctx (c.fld 295 288)) []) .admin c (c.fld 351 320) := by
  unfold ctxCreate
  dsimp only
  rw [hfree, if_neg (by simp), if_neg (by simpa using fun a b hab => htag (a, b) hab), hring]
  dsimp only
  rw [hwin]
  dsimp only
  rw [if_neg (by omega), hclaims]
  dsimp only
  rw [hframes]
  rfl

end Create

theorem exec_ctxQuery {s : State} {n : Nat} {k : Ctx} {c : Cmd} (h : Current s (.ctx n) 0x0012 c) (hk : ctxOf s n = some k) (hlen : 256 ≤ c.resultBytes) :
    exec (.ctxQuery (.ctx n)) s = .next (endOk (writeResult s (.ctx n) c.resultAddr (queryBytes s n k)) (.ctx n) c 0) := by
  show execCtxQuery (.ctx n) s = _
  unfold execCtxQuery
  rw [withCtxCmd_current h hk, if_neg (by omega)]

theorem exec_groupSet {s : State} {n : Nat} {k : Ctx} {c : Cmd} {nd : NodeRec} (h : Current s (.ctx n) 0x00B1 c) (hk : ctxOf s n = some k)
    (hbusy : ctxBusy s n = false) (hfault : groupFault c = none) (hnode : s.slory.node = some nd) (hmem : nd.node ∈ groupMembers c) :
    exec (.groupSet (.ctx n)) s = .next (endOk (setCtx s n { k with group := groupMembers c }) (.ctx n) c 0) := by
  show execGroupSet (.ctx n) s = _
  unfold execGroupSet
  rw [withCtxCmd_current h hk, hbusy, hfault, hnode, if_neg Bool.false_ne_true]
  dsimp only
  rw [if_pos (by simpa using hmem)]

theorem nextIdLe_writeCtrl (s : State) (r : RingId) (after : List Nat) : NextIdLe s (writeCtrl s r after) := by
  unfold writeCtrl
  split
  · exact Nat.le_refl _
  · exact Nat.le_succ _

/-- Settles O30: CTX_CREATE where every check passes, CTX_QUERY line by line, GROUP_SET. -/
theorem contextCommandsTakeEffect : Obligations.ContextCommandsTakeEffect := by
  refine ⟨fun s c lists ws fs hcur hfree htag hring hwin hpages hall hclaims hframes => ?_, fun s n k c hcur hk hlen halign => ?_,
    fun s n k c nd hcur hk hbusy hfault hnode hmem => ?_⟩
  · obtain ⟨hlen, hnew⟩ := newFrames_spec hframes
    have hexec := (exec_ctxCreate hcur lists).trans (congrArg _ (ctxCreate_of_good hfree htag hring hwin hpages hall hclaims hframes))
    generalize hu : writeCtrl (created s (c.fld 295 288) (newCtx c ws fs) (ringRecOf c.param)) (.ctx (c.fld 295 288)) [] = u at hexec
    have hmade : Frame [.host] (created s (c.fld 295 288) (newCtx c ws fs) (ringRecOf c.param)) u := hu ▸ writeCtrl_frame _ _ _
    have hctx : ctxOf u (c.fld 295 288) = some (newCtx c ws fs) := (ctxOf_eq_of_frame hmade (by decide) _).trans (kfind_kput_self _ _ _)
    have hsm : (endOk u .admin c (c.fld 351 320)).sm = u.sm := (endOk_frame u .admin c _).sm_eq (by decide) (by decide)
    have hadmin : ringOf u .admin = ringOf s .admin := hmade.ring (by decide) (by decide) .admin
    have hid : NextIdLe s u := hu ▸ nextIdLe_writeCtrl (created s _ _ _) _ _
    refine ⟨_, newCtx c ws fs, hexec, ((adminBooked_endOk u c _).ctxOf _).trans hctx, rfl, hlen, hnew, rfl, ?_, rfl, rfl, rfl, ?_, ?_,
      endOk_ended_of_nextIdLe hcur hadmin hid _⟩
    · exact (BitVec.toNat_ofNat ..).trans (Nat.mod_eq_of_lt (Nat.mod_lt _ (by decide)))
    · rw [← hu, ringOf_endOk_created]
    · rw [hsm, hmade.sm_eq (by decide) (by decide)]
      rfl
  · have hframe := writeResult_frame s (.ctx n) c.resultAddr (queryBytes s n k)
    refine ⟨_, exec_ctxQuery hcur hk hlen, endOk_ended_of_nextIdLe hcur (hframe.ring (by decide) (by decide) _) (nextIdLe_writeResult ..) 0, ?_, ?_,
      resultWritten_endOk (resultWritten_ctx hk halign _) _ _ _⟩
    · exact Eq.trans (endOk_frame _ _ _ _ .steps (by decide)) (hframe .steps (by decide))
    · exact Eq.trans ((endOk_frame _ _ _ _).sm_eq (by decide) (by decide)) (hframe.sm_eq (by decide) (by decide))
  · obtain ⟨e, he⟩ := ctxOf_endOk_setCtx s n { k with group := groupMembers c } (.ctx n) c 0
    exact ⟨_, _, exec_groupSet hcur hk hbusy hfault hnode hmem, endOk_ended hcur (setCtx_ring s n _ _) rfl 0, he, rfl, rfl⟩

end Sys2Proof.ContextCommands


/-! PROOFS of the command family, CTX_DESTROY and its scrub (O31). -/

namespace Sys2Proof.Destruction

set_option Elab.async false

open Sys2Proof.Machine Sys2Proof.Safety Sys2Proof.Laws Sys2Proof.Commits Sys2Proof.Timetables Sys2Proof.ContextWork Sys2Proof.RingWork Sys2Proof.Bearings

/-! ### Which contexts exist -/

/-- The same contexts exist in both states. -/
def SameCtxs (s t : State) : Prop := ∀ n, (ctxOf t n).isSome = (ctxOf s n).isSome

theorem SameCtxs.refl (s : State) : SameCtxs s s := fun _ => rfl

theorem SameCtxs.trans {s t u : State} (h : SameCtxs s t) (k : SameCtxs t u) : SameCtxs s u := fun n => (k n).trans (h n)

theorem SameCtxs.of_frame {l : List Part} {s t : State} (h : Frame l s t) (hc : Part.ctxs ∉ l) : SameCtxs s t :=
  fun n => congrArg Option.isSome (ctxOf_eq_of_frame h hc n)

theorem sameCtxs_updCtx (s : State) (n : Nat) (f : Ctx → Ctx) : SameCtxs s (updCtx s n f) := by
  intro m
  rw [ctxOf_updCtx]
  split
  · next h => rw [h, Option.isSome_map]
  · rfl

theorem sameCtxs_postReply (s : State) (r : RingId) (seq : Nat) (y : Reply) : SameCtxs s (postReply s r seq y) := by
  have hbook : SameCtxs s (bookAccepted s r seq) := by
    unfold bookAccepted
    split
    · cases r with
      | admin => exact fun _ => rfl
      | ctx n => exact sameCtxs_updCtx _ n _
    · exact .refl s
  refine hbook.trans (.of_frame (l := [.host, .admin, .rings]) ((postEntry_frame _ r _ _).after (by decide) ((updRing_frame _ r _).mono (by decide))) (by decide))

theorem sameCtxs_endCmd (s : State) (r : RingId) (seq : Nat) (y : Reply) : SameCtxs s (endCmd s r seq y) :=
  endCmd_induction r seq y (.refl s) (fun u seq y hu => hu.trans (sameCtxs_postReply u r seq y)) fun f => .of_frame (updCmd_frame s r seq f) (by decide)

theorem sameCtxs_learnKill (s : State) (x : Step) : SameCtxs s (learnKill s x) := by
  unfold learnKill
  split
  · exact .refl s
  · refine List.foldlRecOn (motive := SameCtxs s) _ _ (.refl s) fun u hu p _ => hu.trans ?_
    exact sameCtxs_updCtx (takeFree u).2 x.ctx _

/-- What each part of a step's end before its reply keeps, the whole keeps. -/
theorem unclaimed_induction {P : State → Prop} {s : State} (x : Step) (status : Nat) (h : P s) (hfill : P s → P (bookFiller s x))
    (hslope : ∀ u, P u → P (slopeChange u)) (hlearn : ∀ u, P u → P (learnKill u x)) (hdies : ∀ u pm, P u → P { u with pm := pm })
    (hopen : ∀ u, P u → P (openWrites u x)) (hsums : ∀ u, P u → P (noteSums u x)) (hdrop : ∀ u, P u → P (dropFlight u x)) : P (unclaimed s x status) := by
  have hlive : P (if x.state.live ∨ x.state = .hold then
        openWrites { learnKill (slopeChange (bookFiller s x)) x with pm := dropDies (bookFiller s x).pm x.id } x
      else bookFiller s x) := by
    split
    · exact hopen _ (hdies _ _ (hlearn _ (hslope _ (hfill h))))
    · exact hfill h
  refine hdrop _ ?_
  dsimp only
  split
  · exact hsums _ hlive
  · exact hlive

theorem sameCtxs_unclaimed (s : State) (x : Step) (status : Nat) : SameCtxs s (unclaimed s x status) :=
  unclaimed_induction x status (.refl s) (fun _ => .of_frame (bookFiller_frame s x) (by decide)) (fun u hu => hu.trans (.of_frame (slopeChange_frame u) (by decide)))
    (fun u hu => hu.trans (sameCtxs_learnKill u x)) (fun _ _ hu => hu) (fun u hu => hu.trans (.of_frame (openWrites_frame u x) (by decide)))
    (fun u hu => hu.trans (sameCtxs_updCtx u x.ctx _)) fun u hu => hu.trans (.of_frame (dropFlight_frame u x) (by decide))

theorem sameCtxs_stoppingEnd (s : State) (n : Nat) : SameCtxs s (stoppingEnd s n) := by
  unfold stoppingEnd
  split
  · exact .refl s
  · next k hk =>
    split
    · intro m
      rw [ctxOf_setCtx]
      split
      · next h => rw [h, hk]; rfl
      · rfl
    · exact .refl s

theorem sameCtxs_replyStep (s : State) (x : Step) (y : Reply) : SameCtxs s (replyStep s x y) := by
  have hend (t : State) (y : Reply) : SameCtxs t (stoppingEnd (dropStep (endCmd (bookStep t x) (.ctx x.ctx) x.seq y) x.id) x.ctx) :=
    ((sameCtxs_updCtx _ x.ctx _ : SameCtxs t (bookStep t x)).trans (sameCtxs_endCmd _ _ _ _)).trans
      ((SameCtxs.of_frame (dropStep_frame _ x.id) (by decide)).trans (sameCtxs_stoppingEnd _ x.ctx))
  unfold replyStep
  dsimp only
  split
  · exact (SameCtxs.of_frame (writeResult_frame _ _ _ _) (by decide)).trans (hend _ _)
  · exact hend _ _

theorem sameCtxs_endStep (s : State) (x : Step) (y : Reply) : SameCtxs s (endStep s x y) := by
  rw [endStep_eq]
  exact ((sameCtxs_unclaimed s x y.status).trans (.of_frame (wcRelease_frame _ x.id) (by decide))).trans (sameCtxs_replyStep _ _ _)

/-! ### Rows 1 and 2 of R381 -/

theorem sameCtxs_killSteps (s : State) (n : Nat) : SameCtxs s (killSteps s n) := by
  unfold killSteps
  exact List.foldlRecOn (motive := SameCtxs s) _ _ (.refl s) fun u hu x _ => hu.trans (sameCtxs_endStep u _ _)

theorem sameCtxs_killCmds (s : State) (r : RingId) : SameCtxs s (killCmds s r) := by
  unfold killCmds
  split
  · exact .refl s
  · refine List.foldlRecOn (motive := SameCtxs s) _ _ (.refl s) fun u hu c _ => hu.trans ?_
    split
    · exact .of_frame (updCmd_frame u r _ _) (by decide)
    · split
      · exact .refl u
      · exact sameCtxs_endCmd u r _ _

theorem sameCtxs_destroyTraffic (s : State) (n : Nat) (tag : BitVec 32) : SameCtxs s (destroyTraffic s n tag) := by
  unfold destroyTraffic
  split
  · exact .refl s
  · exact ((SameCtxs.of_frame (wcDiscard_frame s _) (by decide)).trans (.of_frame (dropTraffic_frame _ n tag) (by decide))).trans (sameCtxs_updCtx _ n _)

theorem id_getD_stepOf (s : State) (x : Step) : ((stepOf s x.id).getD x).id = x.id := by
  cases h : stepOf s x.id with
  | none => rfl
  | some y => exact id_of_stepOf h

/-- Ending a list of steps leaves the steps of other numbers. -/
theorem steps_foldl_endStep (l : List Step) (s : State) (y : Reply) :
    ∀ x ∈ (l.foldl (fun s x => endStep s ((stepOf s x.id).getD x) y) s).steps, x ∈ s.steps ∧ ∀ z ∈ l, x.id ≠ z.id := by
  induction l generalizing s with
  | nil => exact fun x hx => ⟨hx, fun z hz => absurd hz List.not_mem_nil⟩
  | cons z l ih =>
    intro x hx
    obtain ⟨hmem, hne⟩ := ih _ x hx
    rw [steps_endStep, List.mem_filter, decide_eq_true_eq, id_getD_stepOf] at hmem
    exact ⟨hmem.1, fun w hw => (List.mem_cons.mp hw).elim (fun h => h ▸ hmem.2) (hne w)⟩

/-- Only committed steps of the context are left. -/
theorem committed_of_mem_killSteps {s : State} {n : Nat} {x : Step} (hx : x ∈ (killSteps s n).steps) (hn : x.ctx = n) : x.state = .committed := by
  obtain ⟨hmem, hne⟩ := steps_foldl_endStep _ s _ x hx
  by_contra hstate
  exact hne x (List.mem_filter.mpr ⟨hmem, decide_eq_true ⟨hn, hstate⟩⟩) rfl

/-- What CTX_DESTROY leaves of the context itself. -/
def ending (seq : Nat) (k : Ctx) : Ctx :=
  { k with
    load := none, ckptWait := none, swapWait := none
    pendingMasters := [], pendingMoments := [], pendingCopies := [], pendingTensors := []
    destroying := some seq, scrubUnits := grantUnits k, scrubFrames := (k.pageMap.map (·.2)) }

theorem beginDestroy_spec {s : State} {n : Nat} (hn : (ctxOf s n).isSome = true) (k : Ctx) (seq : Nat) :
    (∃ j, ctxOf (beginDestroy s n k seq) n = some (ending seq j)) ∧ ∀ x ∈ (beginDestroy s n k seq).steps, x.ctx = n → x.state = .committed := by
  have hsame : SameCtxs s (destroyTraffic (killCmds (killSteps s n) (.ctx n)) n k.tag) :=
    ((sameCtxs_killSteps s n).trans (sameCtxs_killCmds _ _)).trans (sameCtxs_destroyTraffic _ _ _)
  have hsteps : (beginDestroy s n k seq).steps = (killSteps s n).steps :=
    Eq.trans (updCtx_frame _ n _ .steps (by decide))
      (Eq.trans (destroyTraffic_frame _ n k.tag .steps (by decide)) (killCmds_frame _ (.ctx n) .steps (by decide)))
  refine ⟨?_, fun x hx => committed_of_mem_killSteps (by rwa [hsteps] at hx)⟩
  obtain ⟨j, hj⟩ := Option.isSome_iff_exists.mp ((hsame n).trans hn)
  exact ⟨j, (ctxOf_updCtx _ n n _).trans ((if_pos rfl).trans (by rw [hj]; rfl))⟩

/-! ### The end of a destruction (R381 rows 5 and 6) -/

/-- A context that is being destroyed stands as it was, or is gone with its ring. -/
theorem finishDestroy_cases (s : State) (n : Nat) :
    finishDestroy s n = s ∨ (ctxOf (finishDestroy s n) n = none ∧ ringOf (finishDestroy s n) (.ctx n) = none ∧
      (finishDestroy s n).sm.poison = s.sm.poison) := by
  unfold finishDestroy
  split
  · split
    · exact .inl rfl
    · split
      · exact .inl rfl
      · refine .inr ⟨?_, ?_, ?_⟩
        · exact ((adminBooked_endCmd _ _ _).ctxOf n).trans ((kfind_kdel s.ctxs n n).trans (if_pos rfl))
        · exact ((onlyReplies_endCmd _ .admin _ _).others (.ctx n) (by simp)).trans ((kfind_kdel s.rings n n).trans (if_pos rfl))
        · rw [(endCmd_frame _ .admin _ _).sm_eq (by decide) (by decide)]
  · exact .inl rfl

theorem ctxOf_finishDestroy {s : State} {n : Nat} {k : Ctx} (h : ctxOf (finishDestroy s n) n = some k) : ctxOf s n = some k := by
  rcases finishDestroy_cases s n with heq | ⟨hgone, -⟩
  · rwa [heq] at h
  · rw [hgone] at h
    cases h

theorem poison_finishDestroy (s : State) (n : Nat) : (finishDestroy s n).sm.poison = s.sm.poison := by
  rcases finishDestroy_cases s n with heq | ⟨-, -, hpoison⟩
  · rw [heq]
  · exact hpoison

theorem mem_finishDestroy (s : State) (n : Nat) : (finishDestroy s n).sm.mem = s.sm.mem := finishDestroy_frame s n .mem (by decide)

theorem exec_ctxDestroy {s : State} {c : Cmd} {k : Ctx} (h : Current s .admin 0x0011 c) (hk : ctxOf s (c.fld 295 288) = some k) (hkept : k.destroying = none) :
    exec (.ctxDestroy .admin) s =
      .next (finishDestroy (beginDestroy (acceptCmd s .admin c.seq) (c.fld 295 288) k c.seq) (c.fld 295 288)) := by
  show execCtxDestroy .admin s = _
  unfold execCtxDestroy
  rw [withCmd_current h]
  dsimp only
  rw [hk]
  dsimp only
  rw [hkept, if_neg (by simp)]

/-! ### The scrub (R381 rows 3 and 4) -/

theorem kget_vclear {α : Type} (d : α) (v : Vers α) {lo n a : Nat} (hlo : lo ≤ a) (hhi : a < lo + n) : kget d (vclear v lo n).base a = d := by
  rw [vclear, kget_kclear, if_neg (by omega)]

theorem kget_vclear_outside {α : Type} (d : α) (v : Vers α) {lo n a : Nat} (h : a < lo ∨ lo + n ≤ a) : kget d (vclear v lo n).base a = kget d v.base a := by
  rw [vclear, kget_kclear, if_pos h]

theorem exec_unitScrub {s : State} {n p q : Nat} {k : Ctx} (hk : ctxOf s n = some k) (hd : k.destroying = some q) (hf : k.scrubFrames = [])
    (hp : p ∈ k.scrubUnits) (hsteps : ∀ x ∈ s.steps, x.ctx ≠ n) (hfree : unitClaimed s (.pier p) = false) :
    exec (.unitScrub n (.pier p)) s =
      .next (finishDestroy (updCtx (scrubUnit s (.pier p)) n fun c => { c with scrubUnits := c.scrubUnits.erase p }) n) := by
  have hnone : (s.steps.any fun x => decide (x.ctx = n)) = false := List.any_eq_false.mpr fun x hx => by simpa using hsteps x hx
  show execUnitScrub n (.pier p) s = _
  unfold execUnitScrub
  rw [hk]
  dsimp only
  rw [hnone, hfree, hd, if_pos ⟨rfl, hf, by simpa [UnitRef.key] using hp⟩]
  rfl

theorem exec_commandWork_destroy {s : State} {c : Cmd} {n f : Nat} {fs : List Nat} {k : Ctx} (host : List HostData)
    (hc : ((ringOf s .admin).bind fun g => g.cmd c.seq) = some c) (hacc : c.accepted = true) (hop : c.opcode = 0x0011)
    (hfind : (s.ctxs.find? fun q => decide (q.2.destroying = some c.seq)) = some (n, k)) (hf : k.scrubFrames = f :: fs)
    (hsteps : ∀ x ∈ s.steps, x.ctx ≠ n) (hhigher : ∀ b < 8, higherWork s b 5 = false) :
    exec (.commandWorkAccess .admin c.seq host) s = .next (finishDestroy (setCtx (scrubFrame s f) n { k with scrubFrames := fs }) n) := by
  have hnone : (s.steps.any fun x => decide (x.ctx = n)) = false := List.any_eq_false.mpr fun x hx => by simpa using hsteps x hx
  have hidle : ((List.range 8).any fun b => higherWork s b 5) = false := List.any_eq_false.mpr fun b hb => by simp [hhigher b (List.mem_range.mp hb)]
  show execCommandWorkAccess .admin c.seq s host = _
  unfold execCommandWorkAccess
  rw [show cmdBySeq s .admin c.seq = some c from hc]
  dsimp only
  rw [hacc, hidle, hop, if_neg (by decide), if_neg (by decide), if_neg (by decide), if_pos rfl]
  unfold destroyWork
  rw [hfind]
  dsimp only
  rw [hnone, if_neg Bool.false_ne_true, hf]

theorem mem_scrubFrame {s : State} (h : s.store.retired = []) (f : Nat) : (scrubFrame s f).sm.mem = vclear s.sm.mem (f * 2097152) 2097152 := by
  unfold scrubFrame scrubSpares
  rw [h]
  rfl

/-- Settles O31: what CTX_DESTROY leaves, a pier's scrub, and a frame's. -/
theorem contextDestructionScrubs : Obligations.ContextDestructionScrubs := by
  refine ⟨fun s c k hcur hk hkept => ?_, fun s n p k q hk hd hf hp hsteps hfree => ?_, fun s c n f fs k host hc hacc hop hfind hf hretired hsteps hhigher => ?_⟩
  · obtain ⟨e, hsome⟩ := energyOnly_acceptCmd (c.fld 295 288) s .admin c.seq k hk
    obtain ⟨⟨j, hj⟩, hcommitted⟩ := beginDestroy_spec (by rw [hsome]; rfl) k c.seq
    refine ⟨_, exec_ctxDestroy hcur hk hkept, fun x hx => ?_, fun k' hk' => ?_, fun hgone => ?_⟩
    · rw [finishDestroy_frame _ _ .steps (by decide)] at hx
      exact hcommitted x hx
    · have hstands := ctxOf_finishDestroy hk'
      rw [hj] at hstands
      cases hstands
      exact ⟨rfl, rfl, rfl⟩
    · rcases finishDestroy_cases (beginDestroy (acceptCmd s .admin c.seq) (c.fld 295 288) k c.seq) (c.fld 295 288) with heq | ⟨-, hring, -⟩
      · rw [heq, hj] at hgone
        cases hgone
      · exact hring
  · have hupd : Frame [.ctxs] (scrubUnit s (.pier p)) (updCtx (scrubUnit s (.pier p)) n fun c => { c with scrubUnits := c.scrubUnits.erase p }) := updCtx_frame _ n _
    have hpm : (finishDestroy (updCtx (scrubUnit s (.pier p)) n fun c => { c with scrubUnits := c.scrubUnits.erase p }) n).pm = scrubPier s.pm p :=
      Eq.trans (finishDestroy_frame _ n .pm (by decide)) (hupd .pm (by decide))
    refine ⟨_, exec_unitScrub hk hd hf hp hsteps hfree, ?_, ?_⟩
    · rw [mem_finishDestroy, hupd.sm_eq (by decide) (by decide)]
      rfl
    · rw [hpm]
      refine ⟨rfl, fun a hlo hhi => kget_vclear _ _ hlo (by omega), fun a ha => kget_vclear_outside _ _ (by omega), fun a hlo hhi => kget_vclear _ _ (by omega) (by omega),
        fun a hlo hhi => kget_vclear _ _ (by omega) (by omega), fun k' hk' => ?_⟩
      have hstands := ctxOf_finishDestroy hk'
      rw [ctxOf_updCtx, if_pos rfl, show ctxOf (scrubUnit s (.pier p)) n = some k from hk] at hstands
      cases hstands
      rfl
  · refine ⟨_, exec_commandWork_destroy host hc hacc hop hfind hf hsteps hhigher, ?_⟩
    rw [mem_finishDestroy, poison_finishDestroy, show (setCtx (scrubFrame s f) n { k with scrubFrames := fs }).sm.mem = _ from mem_scrubFrame hretired f]
    refine ⟨fun a hlo hhi => kget_vclear _ _ hlo (by omega), fun a ha => kget_vclear_outside _ _ (by omega), fun cw hcw => ?_, fun k' hk' => ?_⟩
    · exact of_decide_eq_true (List.mem_filter.mp hcw).2
    · have hstands := ctxOf_finishDestroy hk'
      rw [ctxOf_setCtx_self] at hstands
      cases hstands
      rfl

end Sys2Proof.Destruction


/-! PROOFS of the power family, the cap in force and what sets it (O60). -/

namespace Sys2Proof.PowerCaps

set_option Elab.async false

open Sys2Proof.Machine Sys2Proof.Safety Sys2Proof.Laws Sys2Proof.Timetables Sys2Proof.RingWork

/-! ### The least of four limits (R397) -/

theorem capInForce_mem (p : Power) : capInForce p ∈ [p.setCap, p.capLimit, p.thermalCap, p.flowCap] := by
  unfold capInForce
  rcases min_choice (min p.setCap p.capLimit) (min p.thermalCap p.flowCap) with h | h <;> rw [h]
  · rcases min_choice p.setCap p.capLimit with h | h <;> rw [h] <;> simp
  · rcases min_choice p.thermalCap p.flowCap with h | h <;> rw [h] <;> simp

theorem capInForce_le (p : Power) {w : Nat} (h : w ∈ [p.setCap, p.capLimit, p.thermalCap, p.flowCap]) : capInForce p ≤ w := by
  simp only [List.mem_cons, List.not_mem_nil, or_false] at h
  unfold capInForce
  omega

/-- Booked energy is no limit. -/
theorem capInForce_adminQueue (p : Power) (a : Nat) : capInForce { p with adminQueue := a } = capInForce p := rfl

/-! ### The boot sets the cap (R385, R397) -/

theorem firstCopy_of_mem {l : List FwCopy} {p : FwCopy → Bool} (h : ∃ c ∈ l.take 2, p c = true) : ∃ i, firstCopy l p = some i := by
  obtain ⟨c, hc, hp⟩ := h
  obtain ⟨i, hi, hget⟩ := List.getElem_of_mem hc
  rw [List.length_take] at hi
  rw [List.getElem_take] at hget
  refine Option.isSome_iff_exists.mp (List.find?_isSome.mpr ⟨i, List.mem_range.mpr (by omega), ?_⟩)
  rw [List.getElem?_eq_getElem (by omega), hget]
  exact hp

theorem power_takeRecord (s : State) : (takeRecord s).power.setCap = (takeRecord s).power.capLimit ∧
    (takeRecord s).power.capLimit = recordCap (takeRecord s).store.cfgForce.record := ⟨rfl, rfl⟩

/-- The state in which firmware copy `i` runs, before its configuration record. -/
def withFirmware (s : State) (i : Nat) : State :=
  let c := s.store.firmware.getD i {}
  let s := if i = 1 then logOpen s 0x0B01 else s
  { s with boot := { s.boot with stage := 0x04, fwCopy := i, fwMeas := shaBits c.bytes, fwVersion := c.version } }

theorem exec_loader {s : State} {i : Nat} (hstage : inStage s 0x03 = true) (h : firstCopy s.store.firmware (fwOk s) = some i) :
    exec .loader s = .next (takeRecord (withFirmware s i)) := by
  show execLoader s = _
  unfold execLoader
  rw [hstage, if_neg (by decide), h]
  rfl

/-! ### POWER_CAP_SET (R397) -/

theorem exec_powerCapSet {s : State} {c : Cmd} (h : Current s .admin 0x00A0 c) : exec (.powerCapSet .admin) s =
    .next (if s.power.capLimit < c.fld 299 288 then refuseField s .admin c stBadParam 288
      else endOk (setCapW s (c.fld 299 288)) .admin c (capInForce (setCapW s (c.fld 299 288)).power)) := by
  show execPowerCapSet .admin s = _
  unfold execPowerCapSet
  rw [withCmd_current h]

theorem capSet_refused {s : State} {c : Cmd} (h : Current s .admin 0x00A0 c) (hw : s.power.capLimit < c.fld 299 288) :
    ∃ t, exec (.powerCapSet .admin) s = .next t ∧ t.steps = s.steps ∧ t.power = { s.power with adminQueue := t.power.adminQueue } ∧
      Replied s t .admin c { status := 0x0002, opcode := c.opcode, seq := c.seqNo, kind := 1, detail0 := 0, detail1 := 36 } := by
  obtain ⟨hcur, hcmd, -⟩ := id h
  obtain ⟨-, -, -, hop, -⟩ := curCmd_some hcur
  have hnone : c.concerned .admin = none := by
    unfold Cmd.concerned
    rw [hop]
    rfl
  refine ⟨_, (exec_powerCapSet h).trans (congrArg _ (if_pos hw)), endCmd_frame s .admin _ _ .steps (by decide), (adminBooked_endCmd s c.seq _).power, ?_⟩
  have hreplied := endCmd_replied (fieldReply stBadParam 0 (288 / 8)) hcmd
  rwa [hnone] at hreplied

theorem capSet_taken {s : State} {c : Cmd} (h : Current s .admin 0x00A0 c) (hw : c.fld 299 288 ≤ s.power.capLimit) :
    ∃ t, exec (.powerCapSet .admin) s = .next t ∧ t.power.setCap = c.fld 299 288 ∧ t.power.capLimit = s.power.capLimit ∧ t.steps = s.steps ∧
      Ended s t .admin c 0 (capInForce t.power) := by
  have hpower := (adminBooked_endOk (setCapW s (c.fld 299 288)) c (capInForce (setCapW s (c.fld 299 288)).power)).power
  have hended := endOk_ended (u := setCapW s (c.fld 299 288)) h rfl rfl (capInForce (setCapW s (c.fld 299 288)).power)
  refine ⟨_, (exec_powerCapSet h).trans (congrArg _ (if_neg (by omega))), by rw [hpower]; rfl, by rw [hpower]; rfl, ?_, ?_⟩
  · exact endOk_frame (setCapW s _) .admin c _ .steps (by decide)
  · rw [hpower, capInForce_adminQueue]
    exact hended

/-- Settles O60. -/
theorem capInForceIsTheLeastLimit : Obligations.CapInForceIsTheLeastLimit := by
  refine ⟨fun p => ⟨capInForce_mem p, fun w => capInForce_le p⟩, fun s hp hf _ hstage hcopy => ?_, fun s c h => ⟨capSet_refused h, capSet_taken h⟩⟩
  obtain ⟨i, hi⟩ := firstCopy_of_mem hcopy
  exact ⟨_, exec_loader (by simp [inStage, hp, hf, hstage]) hi, power_takeRecord _⟩

end Sys2Proof.PowerCaps


/-! PROOFS of the power family, what sensors, trips and recovery do to the power state (O54). -/

namespace Sys2Proof.PowerSensors

set_option Elab.async false

open Sys2Proof.Machine Sys2Proof.Safety Sys2Proof.Laws Sys2Proof.Bearings Sys2Proof.PortRules Sys2Proof.RingWork Sys2Proof.FatalErrors Sys2Proof.Destruction

/-! ### The energy that ends book (R383) -/

/-- From `s` to `t` the power state has only booked energy, the filler of ended steps, their ramps and a change that the slope limit excuses. -/
def PowerBooked (s t : State) : Prop :=
  t.power = { s.power with
    filler := t.power.filler, stops := t.power.stops, attributed := t.power.attributed, adminQueue := t.power.adminQueue
    slopeExempt := t.power.slopeExempt }

theorem PowerBooked.refl (s : State) : PowerBooked s s := rfl

theorem PowerBooked.trans {s t u : State} (h : PowerBooked s t) (k : PowerBooked t u) : PowerBooked s u := by
  unfold PowerBooked at *
  rw [k, h]

theorem PowerBooked.of_eq {s t : State} (h : t.power = s.power) : PowerBooked s t := by
  unfold PowerBooked
  rw [h]

theorem PowerBooked.of_frame {l : List Part} {s t : State} (h : Frame l s t) (hp : Part.power ∉ l) : PowerBooked s t := .of_eq (h .power hp)

theorem power_updCtx (s : State) (n : Nat) (f : Ctx → Ctx) : (updCtx s n f).power = s.power := updCtx_frame s n f .power (by decide)

theorem powerBooked_bookAccepted (s : State) (r : RingId) (seq : Nat) : PowerBooked s (bookAccepted s r seq) := by
  unfold bookAccepted
  split
  · cases r with
    | admin => rfl
    | ctx n =>
      show PowerBooked s (updCtx _ n _)
      unfold PowerBooked
      rw [power_updCtx]
      rfl
  · exact .refl s

theorem powerBooked_postReply (s : State) (r : RingId) (seq : Nat) (y : Reply) : PowerBooked s (postReply s r seq y) :=
  (powerBooked_bookAccepted s r seq).trans ((PowerBooked.of_frame (updRing_frame _ r _) (by decide)).trans (.of_frame (postEntry_frame _ r _ _) (by decide)))

theorem powerBooked_endCmd (s : State) (r : RingId) (seq : Nat) (y : Reply) : PowerBooked s (endCmd s r seq y) :=
  endCmd_induction r seq y (.refl s) (fun u seq y hu => hu.trans (powerBooked_postReply u r seq y)) fun f => .of_frame (updCmd_frame s r seq f) (by decide)

theorem powerBooked_bookFiller (s : State) (x : Step) : PowerBooked s (bookFiller s x) := by
  unfold bookFiller
  split
  · rfl
  · exact .refl s

theorem powerBooked_unclaimed (s : State) (x : Step) (status : Nat) : PowerBooked s (unclaimed s x status) :=
  unclaimed_induction x status (.refl s) (fun _ => powerBooked_bookFiller s x) (fun u hu => hu.trans (rfl : PowerBooked u (slopeChange u)))
    (fun u hu => hu.trans (.of_frame (learnKill_frame u x) (by decide))) (fun _ _ hu => hu) (fun u hu => hu.trans (.of_frame (openWrites_frame u x) (by decide)))
    (fun u hu => hu.trans (.of_frame (noteSums_frame u x) (by decide))) fun u hu => hu.trans (.of_frame (dropFlight_frame u x) (by decide))

theorem powerBooked_bookStep (s : State) (x : Step) : PowerBooked s (bookStep s x) := by
  unfold bookStep PowerBooked
  dsimp only
  rw [power_updCtx]

theorem powerBooked_replyStep (s : State) (x : Step) (y : Reply) : PowerBooked s (replyStep s x y) := by
  have hend (t : State) (y : Reply) : PowerBooked t (stoppingEnd (dropStep (endCmd (bookStep t x) (.ctx x.ctx) x.seq y) x.id) x.ctx) :=
    ((powerBooked_bookStep t x).trans (powerBooked_endCmd _ _ _ _)).trans
      ((PowerBooked.of_frame (dropStep_frame _ x.id) (by decide)).trans (.of_frame (stoppingEnd_frame _ x.ctx) (by decide)))
  unfold replyStep
  dsimp only
  split
  · exact (PowerBooked.of_frame (writeResult_frame _ _ _ _) (by decide)).trans (hend _ _)
  · exact hend _ _

theorem powerBooked_endStep (s : State) (x : Step) (y : Reply) : PowerBooked s (endStep s x y) := by
  rw [endStep_eq]
  exact ((powerBooked_unclaimed s x y.status).trans (.of_frame (wcRelease_frame _ x.id) (by decide))).trans (powerBooked_replyStep _ _ _)

theorem powerBooked_fatalSteps (s : State) : PowerBooked s (fatalSteps s) := by
  rw [fatalSteps_eq]
  refine List.foldlRecOn (motive := PowerBooked s) _ _ (.refl s) fun u hu x _ => hu.trans ?_
  unfold fatalStep
  split
  · exact powerBooked_replyStep u x _
  · exact powerBooked_endStep u x _

theorem powerBooked_fatalRing (s : State) (r : RingId) : PowerBooked s (fatalRing s r) := by
  unfold fatalRing
  split
  · exact .refl s
  · exact List.foldlRecOn (motive := PowerBooked s) _ _ (.refl s) fun u hu c _ => hu.trans (powerBooked_postReply u r _ _)

theorem powerBooked_afterSteps (s : State) (code : Nat) (detail : BitVec 128) : PowerBooked s (afterSteps s code detail) := by
  have hrings : PowerBooked s ((s.rings.map fun q => RingId.ctx q.1).foldl fatalRing (fatalRing s .admin)) :=
    List.foldlRecOn (motive := PowerBooked s) _ _ (powerBooked_fatalRing s .admin) fun u hu r _ => hu.trans (powerBooked_fatalRing u r)
  unfold afterSteps
  exact hrings.trans (.of_eq (idlePorts_frame _ .power (by decide) :))

/-- Becoming device-fatal books what the ended steps and commands have used. -/
theorem powerBooked_logFatal (s : State) (code : Nat) (ctx : Option Nat) (detail : BitVec 128) : PowerBooked s (logFatal s code ctx detail) := by
  refine (PowerBooked.of_frame (logErr_frame s code ctx detail) (by decide)).trans ?_
  show PowerBooked (logErr s code ctx detail) (becomeFatal _ code ctx detail)
  by_cases hf : (logErr s code ctx detail).boot.fatal = true
  · unfold becomeFatal
    rw [if_pos hf]
    exact .refl _
  · rw [becomeFatal_eq_markedFatal (Bool.eq_false_iff.mpr hf)]
    refine PowerBooked.trans (t := markedFatal (logErr s code ctx detail) code ctx detail) rfl ?_
    exact ((PowerBooked.of_frame (raiseVector_frame _ 257) (by decide)).trans (powerBooked_fatalSteps _)).trans (powerBooked_afterSteps _ code detail)

theorem powerBooked_tripRails (s : State) (code : Nat) (detail : BitVec 128) : PowerBooked s (tripRails s code detail) :=
  (powerBooked_logFatal s code none detail).trans (.of_eq (raiseVector_frame (logFatal s code none detail) 259 .power (by decide)))

/-! ### PWR_STATE and recovery mode (R394, R411, R448) -/

/-- Mask `m` with bit `i` set to `v`. -/
def putBit (m i : Nat) (v : Bool) : Nat := if v then setBit m i else clearBit m i

theorem testBit_putBit (m i : Nat) (v : Bool) (j : Nat) : (putBit m i v).testBit j = if j = i then v else m.testBit j := by
  unfold putBit
  cases v
  · rw [if_neg Bool.false_ne_true, testBit_clearBit]
    by_cases h : j = i <;> simp [h]
  · rw [if_pos rfl, testBit_setBit]
    by_cases h : j = i <;> simp [h]

/-- A crossing changes its bit and the events of PWR_STATE, nothing else of the power state. -/
theorem power_changeBit (s : State) (i : Nat) (v both : Bool) (code : Nat) (detail : BitVec 128) : (changeBit s i v both code detail).power =
    { s.power with state := putBit s.power.state i v, events := (changeBit s i v both code detail).power.events } := by
  have hstate : s.power.state.testBit i ≠ v → (if v then s.power.state + 2 ^ i else s.power.state - 2 ^ i) = putBit s.power.state i v := by
    unfold putBit setBit clearBit
    cases v <;> intro h <;> simp_all
  unfold changeBit
  split
  · next h =>
    have hsame : putBit s.power.state i v = s.power.state := by
      unfold putBit setBit clearBit
      cases v <;> simp_all
    rw [hsame]
  · next h =>
    dsimp only
    rw [hstate h]
    split
    · rw [logErr_frame _ _ _ _ .power (by decide), raiseVector_frame _ _ .power (by decide)]
    · rw [raiseVector_frame _ _ .power (by decide)]

theorem power_cross (s : State) (g i code : Nat) (v : Bool) (reading : Int) : (cross s g i code v reading).power =
    { s.power with state := putBit s.power.state i v, events := (cross s g i code v reading).power.events } := by
  unfold cross
  dsimp only
  split
  · next h =>
    have hsame : putBit s.power.state i v = s.power.state := by
      unfold putBit setBit clearBit
      cases v <;> simp_all
    rw [hsame]
  · exact power_changeBit s i v true code _

/-- Entering recovery mode changes mode, recovery mark and events. -/
theorem power_enterRecovery (s : State) : (enterRecovery s).power =
    { s.power with recovery := true, mode := (enterRecovery s).power.mode, events := (enterRecovery s).power.events } := by
  unfold enterRecovery
  split
  · next h => rw [show ({ s.power with recovery := true } : Power) = s.power by rw [← h]]
  · dsimp only
    rw [logErr_frame _ _ _ _ .power (by decide), takeFree_frame _ .power (by decide), raiseVector_frame _ _ .power (by decide)]
    rfl

theorem power_applyStretch (s : State) : (applyStretch s).power = { s.power with stretch := (applyStretch s).power.stretch } := by
  unfold applyStretch
  split <;> rfl

/-! ### A group of sensors (R411 to R413) -/

/-- From `s` to `t` the readings and PWR_STATE stand, and recovery mode is not left. -/
structure KeepsReadings (s t : State) : Prop where
  temps : t.power.temps = s.power.temps
  state : t.power.state = s.power.state
  recovery : s.power.recovery = true → t.power.recovery = true

theorem KeepsReadings.trans {s t u : State} (h : KeepsReadings s t) (k : KeepsReadings t u) : KeepsReadings s u :=
  ⟨k.temps.trans h.temps, k.state.trans h.state, fun hr => k.recovery (h.recovery hr)⟩

theorem KeepsReadings.refl (s : State) : KeepsReadings s s := ⟨rfl, rfl, id⟩

theorem keepsReadings_enterRecovery (s : State) : KeepsReadings s (enterRecovery s) := by
  constructor <;> rw [power_enterRecovery]
  exact fun _ => rfl

theorem keepsReadings_applyStretch (s : State) : KeepsReadings s (applyStretch s) := by
  constructor <;> rw [power_applyStretch]
  exact id

theorem keepsReadings_tripRails (s : State) (code : Nat) (detail : BitVec 128) : KeepsReadings s (tripRails s code detail) := by
  constructor <;> rw [powerBooked_tripRails s code detail]
  exact id

/-- The reading of group `g` in the power state, with whether the group is at its limit. -/
def withReading (s : State) (g : Nat) (v : Int) (lim : Bool) : State :=
  { s with power := { s.power with
      temps := s.power.temps.set g v
      logicLimit := if g = 0 then lim else s.power.logicLimit
      dramLimit := if g = 0 then s.power.dramLimit else lim } }

/-- The three crossings of a reading, to `w`, `h` and `lim`. -/
def crossings (s : State) (g : Nat) (v : Int) (w h lim : Bool) : State :=
  cross (cross (cross s g (2 + 3 * g) 0x0A01 w v) g (3 + 3 * g) 0x0A02 h v) g (4 + 3 * g) 0x0A03 lim v

/-- Recovery mode and the stretch at a limit, `was` whether the group was at it before. -/
def limited (s : State) (lim was : Bool) : State :=
  let s := if lim then enterRecovery s else s
  applyStretch (if lim && !was then slopeChange s else s)

/-- Whether the group was at its limit before the reading. -/
def wasAtLimit (s : State) (g : Nat) : Bool := if g = 0 then s.power.logicLimit else s.power.dramLimit

/-- The state after the reading, before a trip. -/
def taken (s : State) (g : Nat) (v : Int) : State :=
  let lim := atLimit (wasAtLimit s g) (thresholds g).2.2.1 v
  limited (crossings (withReading s g v lim) g v (decide ((thresholds g).1 ≤ v)) (decide ((thresholds g).2.1 ≤ v)) lim) lim (wasAtLimit s g)

theorem groupRead_eq (s : State) (g : Nat) (v : Int) : groupRead s g v =
    if decide ((thresholds g).2.2.2 ≤ v) && (taken s g v).boot.railsOn then tripRails (taken s g v) 0x0A04 (Config.errDetail 0x0A04 [g, v]) else taken s g v := rfl

theorem keepsReadings_limited (s : State) (lim was : Bool) : KeepsReadings s (limited s lim was) := by
  have henter : KeepsReadings s (if lim then enterRecovery s else s) := by
    split
    · exact keepsReadings_enterRecovery s
    · exact .refl s
  refine .trans ?_ (keepsReadings_applyStretch _)
  split
  · exact henter.trans ⟨rfl, rfl, id⟩
  · exact henter

theorem recovery_limited (s : State) (was : Bool) : (limited s true was).power.recovery = true := by
  have henter : (enterRecovery s).power.recovery = true := by rw [power_enterRecovery]
  unfold limited
  rw [if_pos rfl, power_applyStretch]
  dsimp only
  split
  · exact henter
  · exact henter

theorem power_crossings (s : State) (g : Nat) (v : Int) (w h lim : Bool) : (crossings s g v w h lim).power =
    { s.power with
      state := putBit (putBit (putBit s.power.state (2 + 3 * g) w) (3 + 3 * g) h) (4 + 3 * g) lim
      events := (crossings s g v w h lim).power.events } := by
  unfold crossings
  rw [power_cross, power_cross, power_cross s]

theorem taken_frame (s : State) (g : Nat) (v : Int) : Frame [.err, .msix, .power, .free, .out] s (taken s g v) := by
  unfold taken limited crossings
  dsimp only
  refine (applyStretch_frame _).after (by decide) ?_
  have hcross (u : State) (w h lim : Bool) (hu : Frame [.err, .msix, .power, .free, .out] s u) :
      Frame [.err, .msix, .power, .free, .out] s
        (cross (cross (cross u g (2 + 3 * g) 0x0A01 w v) g (3 + 3 * g) 0x0A02 h v) g (4 + 3 * g) 0x0A03 lim v) :=
    (cross_frame _ _ _ _ _ _).after (by decide) ((cross_frame _ _ _ _ _ _).after (by decide) ((cross_frame _ _ _ _ _ _).after (by decide) hu))
  have hread (lim : Bool) : Frame [.err, .msix, .power, .free, .out] s (withReading s g v lim) := .upd rfl (.refl _ s)
  split <;> split
  · exact (slopeChange_frame _).after (by decide) ((enterRecovery_frame _).after (by decide) (hcross _ _ _ _ (hread _)))
  · exact (slopeChange_frame _).after (by decide) (hcross _ _ _ _ (hread _))
  · exact (enterRecovery_frame _).after (by decide) (hcross _ _ _ _ (hread _))
  · exact hcross _ _ _ _ (hread _)

/-- What a reading leaves in the power state, with or without a trip. -/
theorem groupRead_readings (s : State) (g : Nat) (v : Int) : KeepsReadings (taken s g v) (groupRead s g v) := by
  rw [groupRead_eq]
  split
  · exact keepsReadings_tripRails _ _ _
  · exact .refl _

theorem fatal_logFatal (s : State) (code : Nat) (ctx : Option Nat) (detail : BitVec 128) : (logFatal s code ctx detail).boot.fatal = true := by
  cases hf : s.boot.fatal with
  | true =>
    have hlog : (logErr s code ctx detail).boot.fatal = true := by rw [boot_logErr, hf]
    unfold logFatal becomeFatal
    rw [if_pos hlog, hlog]
  | false => rw [boot_logFatal hf]

theorem boot_tripRails (s : State) (code : Nat) (detail : BitVec 128) :
    (tripRails s code detail).boot = { (logFatal s code none detail).boot with railsOn := false, railsRemoved := true } := by
  have hraise : (raiseVector (logFatal s code none detail) 259).boot = (logFatal s code none detail).boot := raiseVector_frame _ 259 .boot (by decide)
  unfold tripRails
  rw [← hraise]

theorem steps_tripRails (s : State) (code : Nat) (detail : BitVec 128) : (tripRails s code detail).steps = (logFatal s code none detail).steps :=
  raiseVector_frame (logFatal s code none detail) 259 .steps (by decide)

theorem boot_groupRead_of_trip {s : State} {g : Nat} {v : Int} (hv : (thresholds g).2.2.2 ≤ v) (hrails : s.boot.railsOn = true) :
    (groupRead s g v).boot.railsOn = false ∧ (groupRead s g v).boot.fatal = true := by
  have hboot : (taken s g v).boot = s.boot := taken_frame s g v .boot (by decide)
  rw [groupRead_eq, if_pos (by rw [hboot, hrails, decide_eq_true hv]; rfl), boot_tripRails]
  exact ⟨rfl, fatal_logFatal _ _ _ _⟩

theorem groupRead_of_cool {s : State} {g : Nat} {v : Int} (hv : v < (thresholds g).2.2.2) : groupRead s g v = taken s g v := by
  rw [groupRead_eq, decide_eq_false (by omega), Bool.false_and, if_neg Bool.false_ne_true]

/-- A reading sets the group's temperature and its three bits, and recovery mode from the limit on. -/
theorem power_taken (s : State) (g : Nat) (v : Int) : let lim := atLimit (wasAtLimit s g) (thresholds g).2.2.1 v
    (taken s g v).power.temps = s.power.temps.set g v ∧
    (taken s g v).power.state = putBit (putBit (putBit s.power.state (2 + 3 * g) (decide ((thresholds g).1 ≤ v))) (3 + 3 * g)
      (decide ((thresholds g).2.1 ≤ v))) (4 + 3 * g) lim ∧
    (lim = true → (taken s g v).power.recovery = true) := by
  intro lim
  have hkeep := keepsReadings_limited (crossings (withReading s g v lim) g v (decide ((thresholds g).1 ≤ v)) (decide ((thresholds g).2.1 ≤ v)) lim) lim (wasAtLimit s g)
  have hcross := power_crossings (withReading s g v lim) g v (decide ((thresholds g).1 ≤ v)) (decide ((thresholds g).2.1 ≤ v)) lim
  refine ⟨hkeep.temps.trans (by rw [hcross]; rfl), hkeep.state.trans (by rw [hcross]; rfl), fun hlim => ?_⟩
  show (limited _ lim _).power.recovery = true
  rw [hlim]
  exact recovery_limited _ _

/-- What a statement asks of a group's reading. -/
theorem groupRead_spec (s : State) (g : Nat) (v : Int) :
    (groupRead s g v).power.temps = s.power.temps.set g v ∧
    (groupRead s g v).power.state.testBit (2 + 3 * g) = decide ((thresholds g).1 ≤ v) ∧
    (groupRead s g v).power.state.testBit (3 + 3 * g) = decide ((thresholds g).2.1 ≤ v) ∧
    (groupRead s g v).power.state.testBit (4 + 3 * g) = atLimit (wasAtLimit s g) (thresholds g).2.2.1 v ∧
    ((thresholds g).2.2.1 ≤ v → (groupRead s g v).power.recovery = true) ∧
    ((thresholds g).2.2.2 ≤ v → s.boot.railsOn = true → (groupRead s g v).boot.railsOn = false ∧ (groupRead s g v).boot.fatal = true) ∧
    (v < (thresholds g).2.2.2 → (groupRead s g v).boot = s.boot ∧ (groupRead s g v).steps = s.steps) := by
  obtain ⟨htemps, hstate, hrecovery⟩ := power_taken s g v
  obtain ⟨ktemps, kstate, krecovery⟩ := groupRead_readings s g v
  rw [kstate, hstate]
  refine ⟨ktemps.trans htemps, ?_, ?_, ?_, fun hv => krecovery (hrecovery ?_), boot_groupRead_of_trip, fun hv => ?_⟩
  · rw [testBit_putBit, if_neg (by omega), testBit_putBit, if_neg (by omega), testBit_putBit, if_pos rfl]
  · rw [testBit_putBit, if_neg (by omega), testBit_putBit, if_pos rfl]
  · rw [testBit_putBit, if_pos rfl]
  · unfold atLimit
    rw [decide_eq_true hv, Bool.true_or]
  · rw [groupRead_of_cool hv]
    exact ⟨taken_frame s g v .boot (by decide), taken_frame s g v .steps (by decide)⟩

section Sensors

variable {s : State} (hpow : s.boot.powered = true)

include hpow

/-- The logic sensors' group, and the DRAM sensors' (R410). -/
theorem exec_logicSensorRead (l : List Int) : exec (.logicSensorRead l) s =
    .next (groupRead { s with power := { s.power with logic := ksetRun 0 [] 0 (l.take 38) } } 0 (highest (l.take 38))) := by
  show execLogicSensorRead l s = _
  unfold execLogicSensorRead
  rw [if_pos hpow]

/-- Stack `b` with new readings of its sensors. -/
def withSensors (s : State) (b : Nat) (l : List Int) : State :=
  setStack s b { stackOf s b with sensors := l.take 8, hot := decide (1360 < highest (l.take 8)) }

omit hpow in
theorem sensors_withSensors (s : State) (b i : Nat) (l : List Int) :
    (stackOf (withSensors s b l) i).sensors = if i = b then l.take 8 else (stackOf s i).sensors := by
  unfold withSensors
  rw [stackOf_setStack]
  split <;> rfl

theorem exec_dramSensorRead {b : Nat} (hb : b < 8) (l : List Int) : exec (.dramSensorRead b l) s =
    .next (groupRead (withSensors s b l) 1 (highest ((List.range 8).flatMap fun i => if i = b then l.take 8 else (stackOf s i).sensors))) := by
  show execDramSensorRead b l s = _
  unfold execDramSensorRead
  rw [if_pos ⟨hpow, hb⟩]
  show Host.Outcome.next (groupRead (withSensors s b l) 1 (highest ((List.range 8).flatMap fun i => (stackOf (withSensors s b l) i).sensors))) = _
  simp only [sensors_withSensors]

/-! ### Coolant and its caps (R412, R414, R415) -/

omit hpow in
/-- A change that the slope limit excuses, where a cap has fallen. -/
theorem power_slopeChange_if (p : Prop) [Decidable p] : (if p then slopeChange s else s).power =
    { s.power with slopeExempt := (if p then slopeChange s else s).power.slopeExempt } ∧ (if p then slopeChange s else s).steps = s.steps := by
  split <;> exact ⟨rfl, rfl⟩

omit hpow in
/-- The power state after recovery mode has begun, where a condition for it holds. -/
theorem power_enterRecovery_if (p : Prop) [Decidable p] : (if p then enterRecovery s else s).power =
    { s.power with
      recovery := s.power.recovery || decide p, mode := (if p then enterRecovery s else s).power.mode, events := (if p then enterRecovery s else s).power.events } ∧
    (if p then enterRecovery s else s).steps = s.steps := by
  split
  · next h =>
    rw [decide_eq_true h, Bool.or_true]
    exact ⟨power_enterRecovery s, enterRecovery_frame s .steps (by decide)⟩
  · next h =>
    rw [decide_eq_false h, Bool.or_false]
    exact ⟨rfl, rfl⟩

omit hpow in
/-- The coolant readings in the power state. -/
def withCoolant (s : State) (inlet outlet : Int) (flow : Nat) : State :=
  let s := if flowCapOf flow < s.power.flowCap then slopeChange s else s
  { s with power := { s.power with temps := (s.power.temps.set 2 inlet).set 3 outlet, flow := flow, flowCap := flowCapOf flow } }

omit hpow in
/-- The crossing of 4.0 L/min. -/
def flowCrossed (s : State) (flow : Nat) : State := changeBit s 8 (decide (flow < 4000)) false 0x0A05 (BitVec.ofNat 128 flow)

theorem exec_coolantSensorRead (inlet outlet : Int) (flow : Nat) : exec (.coolantSensorRead inlet outlet flow) s =
    .next (applyStretch (if flow < 4000 then enterRecovery (flowCrossed (withCoolant s inlet outlet flow) flow)
      else flowCrossed (withCoolant s inlet outlet flow) flow)) := by
  show execCoolantSensorRead inlet outlet flow s = _
  unfold execCoolantSensorRead
  rw [if_pos hpow]
  rfl

theorem coolant_settles (inlet outlet : Int) (flow : Nat) : ∃ t, exec (.coolantSensorRead inlet outlet flow) s = .next t ∧ t.power.flow = flow ∧
    t.power.flowCap = (if flow < 4000 then 2500 * flow / 4000 else 2500) ∧ t.power.temps = (s.power.temps.set 2 inlet).set 3 outlet ∧
    t.power.state.testBit 8 = decide (flow < 4000) ∧ (flow < 4000 → t.power.recovery = true) ∧ t.steps = s.steps := by
  obtain ⟨hslope, hsame⟩ := power_slopeChange_if (s := s) (flowCapOf flow < s.power.flowCap)
  have hcross : (flowCrossed (withCoolant s inlet outlet flow) flow).power = _ := power_changeBit _ 8 (decide (flow < 4000)) false 0x0A05 _
  have hcrossed : (flowCrossed (withCoolant s inlet outlet flow) flow).steps = s.steps :=
    Eq.trans (changeBit_frame _ _ _ _ _ _ .steps (by decide)) hsame
  obtain ⟨hrecovery, hsteps⟩ := power_enterRecovery_if (s := flowCrossed (withCoolant s inlet outlet flow) flow) (flow < 4000)
  refine ⟨_, exec_coolantSensorRead hpow inlet outlet flow, ?_⟩
  rw [power_applyStretch, hrecovery, hcross]
  refine ⟨rfl, rfl, ?_, ?_, fun hlow => ?_, Eq.trans (applyStretch_frame _ .steps (by decide)) (hsteps.trans hcrossed)⟩
  · show (((if _ then slopeChange s else s).power.temps.set 2 inlet).set 3 outlet) = _
    rw [hslope]
  · exact (testBit_putBit _ 8 _ 8).trans (if_pos rfl)
  · dsimp only
    rw [decide_eq_true hlow, Bool.or_true]

theorem thermalCap_settles : let d := max (s.power.temps.getD 0 0 - 1600) (s.power.temps.getD 1 0 - 1440)
    ∃ t, exec .thermalCapUpdate s = .next t ∧ t.steps = s.steps ∧
      t.power.thermalCap = (if 0 ≤ d then max 600 (s.power.thermalCap - 25 * (1 + (d / 16).toNat))
        else if d < -32 then min 2500 (s.power.thermalCap + 25) else s.power.thermalCap) := by
  intro d
  obtain ⟨hslope, hsame⟩ := power_slopeChange_if (s := s) (nextThermalCap s.power < s.power.thermalCap)
  generalize hu : (if nextThermalCap s.power < s.power.thermalCap then slopeChange s else s) = u at hslope hsame
  have hnext : nextThermalCap u.power = nextThermalCap s.power := by rw [hslope]; rfl
  obtain ⟨hrecovery, hsteps⟩ := power_enterRecovery_if (s := { u with power := { u.power with thermalCap := nextThermalCap u.power } })
    ((u.power.logicLimit || u.power.dramLimit) = true)
  refine ⟨_, ?_, Eq.trans (applyStretch_frame _ .steps (by decide)) (hsteps.trans hsame), ?_⟩
  · show execThermalCapUpdate s = _
    unfold execThermalCapUpdate
    rw [if_pos hpow, hu]
  · rw [power_applyStretch, hrecovery]
    exact hnext

theorem flowTrip_fatal (hrails : s.boot.railsOn = true) (hflow : s.power.flow < 1000) (hf : s.boot.fatal = false) :
    ∃ t, exec .flowTrip s = .next t ∧ t.boot.railsOn = false ∧ t.boot.railsRemoved = true ∧ t.boot.fatal = true ∧ t.steps = [] := by
  refine ⟨tripRails s 0x0A06 (BitVec.ofNat 128 s.power.flow), ?_, ?_, ?_, ?_, ?_⟩
  · show execFlowTrip s = _
    unfold execFlowTrip
    rw [if_pos ⟨hpow, hrails, hflow⟩]
  · rfl
  · rfl
  · rw [boot_tripRails]
    exact fatal_logFatal _ _ _ _
  · rw [steps_tripRails, steps_logFatal hf]

theorem powerStage_fatal (stage : Nat) (hf : s.boot.fatal = false) :
    ∃ t, exec (.powerStageFault stage true) s = .next t ∧ t.boot.fatal = true ∧ t.steps = [] := by
  refine ⟨raiseVector (logFatal s 0x0904 none (BitVec.ofNat 128 stage)) 259, ?_, ?_, ?_⟩
  · show execPowerStageFault stage true s = _
    unfold execPowerStageFault
    rw [hpow]
    rfl
  · rw [raiseVector_frame _ 259 .boot (by decide), fatal_logFatal]
  · rw [raiseVector_frame _ 259 .steps (by decide), steps_logFatal hf]

theorem powerStage_alarm (stage : Nat) :
    ∃ t, exec (.powerStageFault stage false) s = .next t ∧ t.power.alarm = true ∧ t.power.recovery = true ∧ t.boot = s.boot ∧ t.steps = s.steps := by
  refine ⟨enterRecovery { s with power := { s.power with alarm := true } }, ?_, ?_⟩
  · show execPowerStageFault stage false s = _
    unfold execPowerStageFault
    rw [hpow]
    rfl
  · rw [power_enterRecovery]
    exact ⟨rfl, rfl, enterRecovery_frame _ .boot (by decide), enterRecovery_frame _ .steps (by decide)⟩

end Sensors

theorem recovery_exits {s : State} (hr : s.power.recovery = true) (hl : s.power.logicLimit = false) (hd : s.power.dramLimit = false) (hf : 4000 ≤ s.power.flow) :
    ∃ t, exec .recoveryExit s = .next t ∧ t.power.recovery = false ∧ t.power.alarm = false ∧ t.power.mode ≠ .recovery ∧ t = { s with power := t.power } := by
  refine ⟨setMode { s with power := { s.power with recovery := false, alarm := false, droopRecent := [] } }, ?_, rfl, rfl, ?_, rfl⟩
  · show execRecoveryExit s = _
    unfold execRecoveryExit
    rw [hr, hl, hd, decide_eq_true hf, if_pos (by rfl)]
  · unfold setMode modeNow
    dsimp only
    rw [if_neg Bool.false_ne_true]
    split
    · decide
    · split <;> decide

/-- Settles O54. -/
theorem sensorsGovernPower : Obligations.SensorsGovernPower := by
  intro s hpow
  refine ⟨fun g v c l was h => ?_, coolant_settles hpow, thermalCap_settles hpow, flowTrip_fatal hpow,
    fun stage => ⟨powerStage_fatal hpow stage, powerStage_alarm hpow stage⟩, recovery_exits⟩
  rcases h with ⟨rfl, rfl, rfl, rfl⟩ | ⟨b, hb, rfl, rfl, rfl, rfl⟩
  · exact ⟨_, exec_logicSensorRead hpow l, groupRead_spec _ 0 _⟩
  · exact ⟨_, exec_dramSensorRead hpow hb l, groupRead_spec (withSensors s b l) 1 _⟩

end Sys2Proof.PowerSensors


/-! PROOFS of the power family, measurement, falls, the cap controller and droop (O55). The means over the samples so far, and the factor 1.05
on the controller's stretch, are the model's readings (log entries 63 and 69). -/

namespace Sys2Proof.PowerControl

set_option Elab.async false

open Sys2Proof.Machine Sys2Proof.Safety Sys2Proof.Laws Sys2Proof.PowerSensors

/-! ### Measurement and falls (R402, R403) -/

/-- The filler firings of the floors of the falls, span after span. -/
def floors (l : List Nat) (q : State × Nat) : State × Nat := l.foldl (fun q sp => let r := floorFirings q.1 sp; (r.1, q.2 + r.2)) q

/-- The floors take free values alone. -/
theorem floors_free (l : List Nat) (q : State × Nat) : (floors l q).1 = { q.1 with free := (floors l q).1.free } := by
  refine List.foldlRecOn (motive := fun p : State × Nat => p.1 = { q.1 with free := p.1.free }) l _ rfl fun p hp sp _ => ?_
  have hstep : (floorFirings p.1 sp).1 = { p.1 with free := (floorFirings p.1 sp).1.free } := by
    unfold floorFirings
    dsimp only
    split <;> rfl
  dsimp only
  rw [hstep, hp]

theorem power_floors (l : List Nat) (q : State × Nat) : (floors l q).1.power = q.1.power := by rw [floors_free]

/-- The state with the samples `l` of the power, the last of `mw`, after `filler` firings. -/
def withSample (s : State) (l : List Nat) (mw filler : Nat) : State :=
  { s with power := { s.power with
      samples := l, mean10 := mean (l.take 10), mean1ms := mean (l.take 1000), prev1ms := mean (l.drop 1000)
      measured := satAdd max64 s.power.measured mw, filler := satAdd max64 s.power.filler (filler * Config.fillerFiring / 1000000)
      slopeExceeded := if decide (s.power.mode = .normal) && slopeBroken l && !slopeExcused s then satAdd max64 s.power.slopeExceeded 1
        else s.power.slopeExceeded } }

theorem withSample_of_free {s u : State} (h : u = { s with free := u.free }) (l : List Nat) (mw filler : Nat) :
    withSample u l mw filler = { s with power := (withSample u l mw filler).power, free := (withSample u l mw filler).free } := by
  rw [h]
  rfl

/-- The state once a fall on span `sp` is remembered. -/
def withFall (s : State) (sp avg : Nat) : State :=
  let s := if (spanHolders s sp).any fun q => !gapLearned s q.1 then slopeChange s else s
  { s with power := { s.power with
    falls := (sp, s.clk.uptime, avg) :: s.power.falls.filter fun f => decide (s.clk.uptime < f.2.1 + 200000) } }

theorem fall_settles {s : State} {sp avg : Nat} (hmode : s.power.mode = .normal ∨ s.power.mode = .recovery) (havg : 125 ≤ avg) (hsp : sp < 32) :
    ∃ t, exec (.fall sp avg) s = .next t ∧ t = { s with power := t.power } ∧ t.power.falls.head? = some (sp, s.clk.uptime, avg) := by
  have hslope : (if (spanHolders s sp).any fun q => !gapLearned s q.1 then slopeChange s else s).clk = s.clk := by split <;> rfl
  refine ⟨withFall s sp avg, ?_, ?_, congrArg (fun k : Clock => some (sp, k.uptime, avg)) hslope⟩
  · show execFall sp avg s = _
    unfold execFall
    rw [if_pos ⟨hmode, havg, hsp⟩]
    rfl
  · unfold withFall
    dsimp only
    split <;> rfl

theorem measurement_settles {s : State} (hpow : s.boot.powered = true) (mw : Nat) :
    ∃ t, exec (.powerMeasurement mw) s = .next t ∧ t = { s with power := t.power, free := t.free } ∧
    t.power.samples = (mw :: s.power.samples).take 2000 ∧ t.power.measured = satAdd max64 s.power.measured mw ∧
    t.power.mean10 = mean ((mw :: s.power.samples).take 10) ∧ t.power.mean1ms = mean ((mw :: s.power.samples).take 1000) ∧
    t.power.prev1ms = mean (((mw :: s.power.samples).take 2000).drop 1000) := by
  have hfree := floors_free (List.range 32) (s, 0)
  have htake (n : Nat) (hn : n ≤ 2000) : ((mw :: s.power.samples).take 2000).take n = (mw :: s.power.samples).take n := by
    rw [List.take_take, min_eq_left hn]
  refine ⟨withSample (floors (List.range 32) (s, 0)).1 ((mw :: s.power.samples).take 2000) mw (floors (List.range 32) (s, 0)).2, ?_, ?_, rfl, ?_, ?_, ?_, rfl⟩
  · show execPowerMeasurement mw s = _
    unfold execPowerMeasurement
    rw [if_pos hpow]
    unfold withSample floors
    with_reducible rfl
  · exact withSample_of_free hfree _ _ _
  · exact congrArg (fun p : Power => satAdd max64 p.measured mw) (power_floors (List.range 32) (s, 0))
  · exact congrArg mean (htake 10 (by decide))
  · exact congrArg mean (htake 1000 (by decide))

/-! ### The controller (R398, R400, R401) -/

/-- The stretch that the controller asks for. -/
def wantedS (s : State) (pfix sum : Nat) : Nat :=
  if decide (targetMw s < mean (s.power.samples.take 100)) then max (predictedS (targetMw s) pfix sum) (min 16000 (ceilDiv (s.power.controller * 105) 100))
  else predictedS (targetMw s) pfix sum

theorem power_walkS (s : State) (predicted walk : Nat) : walkS s predicted walk = { s with power := { s.power with slopeS := (walkS s predicted walk).power.slopeS } } := by
  unfold walkS
  split <;> rfl

/-- Without measured span powers nothing is corrected. -/
theorem correctSpans_nil (s : State) (target pfix : Nat) (es : List Nat) : correctSpans s target pfix es [] = s := by
  unfold correctSpans
  rfl

/-- The decision on the power state, from the spans' energies `es`, before the stretch takes effect. -/
def decided (s : State) (pfix walk : Nat) (es : List Nat) : State :=
  walkS { s with power := { s.power with
      pFix := pfix, controller := wantedS s pfix (total es)
      shares := ksetRun 0 [] 0 ((List.range 32).map fun i =>
        if (spanHolders s i).isEmpty && decide (fillerRate s i = 0) then 0 else shareOf (targetMw s) pfix (total es) (es.getD i 0))
      learnedNow := ksetRun 0 [] 0 es
      walk := if targetMw s ≤ 1000 * capInForce s.power then none else s.power.walk } } (pfix + total es * 1500 / wantedS s pfix (total es)) walk

/-- The whole decision. -/
def decision (s : State) (pfix walk : Nat) (es : List Nat) : State :=
  changeBit (applyStretch (decided s pfix walk es)) 9 (capUnmet (applyStretch (decided s pfix walk es)) pfix (total es)) false 0x0903
    (Config.errDetail 0x0903 [capInForce (applyStretch (decided s pfix walk es)).power, (applyStretch (decided s pfix walk es)).power.stretch])

theorem exec_capDecision {s : State} (hpow : s.boot.powered = true) (hrails : s.boot.railsRemoved = false) (pfix walk : Nat) :
    exec (.capDecision pfix [] walk) s = .next (decision s pfix walk ((List.range 32).map (spanEnergy s))) := by
  show execCapDecision pfix [] walk s = _
  unfold execCapDecision
  rw [if_neg (by simp [hpow, hrails])]
  dsimp only
  rw [correctSpans_nil]
  generalize (List.range 32).map (spanEnergy s) = es
  unfold decision decided wantedS
  with_reducible rfl

theorem decided_frame (s : State) (pfix walk : Nat) (es : List Nat) : Frame [.power] s (decided s pfix walk es) :=
  (walkS_frame _ _ _).after (by decide) (.upd rfl (.refl _ s))

theorem power_decided (s : State) (pfix walk : Nat) (es : List Nat) : (decided s pfix walk es).power.pFix = pfix ∧
    (decided s pfix walk es).power.controller = wantedS s pfix (total es) ∧ capInForce (decided s pfix walk es).power = capInForce s.power := by
  unfold decided
  rw [power_walkS]
  exact ⟨rfl, rfl, rfl⟩

/-- The stretch in force is the one that the state's limits, droop and controller require. -/
theorem stretch_applyStretch {s : State} (h : s.boot.railsRemoved = false) : applyStretch s = { s with power := { s.power with stretch := effectiveS s.power } } := by
  unfold applyStretch
  rw [h, if_neg Bool.false_ne_true]

theorem capDecision_settles {s : State} (hpow : s.boot.powered = true) (pfix walk : Nat) (hrails : s.boot.railsRemoved = false) :
    let sum := total ((List.range 32).map (spanEnergy s))
    let p := predictedS (targetMw s) pfix sum
    ∃ t, exec (.capDecision pfix [] walk) s = .next t ∧ t.steps = s.steps ∧ t.power.pFix = pfix ∧
      t.power.controller = (if targetMw s < mean (s.power.samples.take 100) then max p (min 16000 (ceilDiv (s.power.controller * 105) 100)) else p) ∧
      t.power.stretch = effectiveS t.power ∧ t.power.state.testBit 9 = decide (16000000 * capInForce s.power < 16000 * pfix + 1500 * sum) := by
  have hexec := exec_capDecision hpow hrails pfix walk
  generalize (List.range 32).map (spanEnergy s) = es at hexec ⊢
  intro sum p
  obtain ⟨hfix, hctrl, hcap⟩ := power_decided s pfix walk es
  have hframe := decided_frame s pfix walk es
  have hstretch : applyStretch (decided s pfix walk es) = _ := stretch_applyStretch (Eq.trans (congrArg Boot.railsRemoved (hframe .boot (by decide))) hrails)
  have hpower : (decision s pfix walk es).power = _ := power_changeBit (applyStretch (decided s pfix walk es)) 9 _ false 0x0903 _
  refine ⟨_, hexec, ?_, ?_⟩
  · exact Eq.trans (changeBit_frame _ _ _ _ _ _ .steps (by decide)) (Eq.trans (applyStretch_frame _ .steps (by decide)) (hframe .steps (by decide)))
  · rw [hpower, hstretch]
    refine ⟨hfix, hctrl.trans ?_, rfl, ?_⟩
    · unfold wantedS
      simp only [decide_eq_true_eq]
      rfl
    · refine (testBit_putBit _ 9 _ 9).trans ((if_pos rfl).trans ?_)
      exact congrArg (fun n => decide (16000000 * n < 16000 * pfix + 1500 * total es)) hcap

/-! ### Droop (R406, R407) -/

/-- The count of a detector. -/
def counted (s : State) (d : Nat) : State :=
  { s with power := { s.power with droop := kset 0 s.power.droop d (satAdd max64 (kget 0 s.power.droop d) 1) } }

theorem droop_counted (s : State) (d : Nat) : kget 0 (counted s d).power.droop d = satAdd max64 (kget 0 s.power.droop d) 1 := by
  unfold counted
  rw [kget_kset, if_pos rfl]

/-- The droops of the last millisecond, this one with them. -/
def recentDroops (s : State) : List Nat := (s.clk.uptime :: s.power.droopRecent).filter fun t => decide (s.clk.uptime < t + 100000)

theorem length_recentDroops (s : State) :
    (recentDroops s).length = (s.power.droopRecent.filter fun t => decide (s.clk.uptime < t + 100000)).length + 1 := by
  unfold recentDroops
  rw [List.filter_cons, if_pos (by simp), List.length_cons]

/-- A droop in normal mode, counted and logged. -/
def noted (s : State) (d : Nat) : State := logDroop { counted s d with power := { (counted s d).power with droopRecent := recentDroops s } } d

theorem power_logDroop (s : State) (d : Nat) : (logDroop s d).power = { s.power with droopLogged := (logDroop s d).power.droopLogged } := by
  unfold logDroop
  refine iteInduction (motive := fun u : State => u.power = { s.power with droopLogged := u.power.droopLogged }) (fun _ => rfl) fun _ => ?_
  rw [logErr_frame _ _ _ _ .power (by decide)]

theorem power_noted (s : State) (d : Nat) : (noted s d).power =
    { (counted s d).power with droopRecent := recentDroops s, droopLogged := (noted s d).power.droopLogged } := power_logDroop _ d

theorem le_effectiveS_of_hold {p : Power} (h : p.droopHold = true) : 2000 ≤ effectiveS p := by
  unfold effectiveS
  rw [h, if_pos rfl]
  omega

section Droop

variable {s : State} (hpow : s.boot.powered = true) {d : Nat} (hd : d < 34)

include hpow hd

theorem exec_droop : exec (.droop d) s = .next (if s.power.mode = .normal then (if 16 ≤ (recentDroops s).length then enterRecovery (noted s d) else noted s d)
    else applyStretch { counted s d with power := { (counted s d).power with droopHold := true } }) := by
  show execDroop d s = _
  unfold execDroop
  rw [if_pos ⟨hpow, hd⟩]
  dsimp only
  by_cases h : s.power.mode = .normal
  · rw [if_pos h, if_pos h]
    rfl
  · rw [if_neg h, if_neg h]
    rfl

theorem droop_counts (hmode : s.power.mode = .normal) (hfew : (s.power.droopRecent.filter fun t => decide (s.clk.uptime < t + 100000)).length < 15) :
    ∃ t, exec (.droop d) s = .next t ∧ kget 0 t.power.droop d = satAdd max64 (kget 0 s.power.droop d) 1 ∧ t.power.stretch = s.power.stretch ∧
      t.power.mode = .normal ∧ t.power.droopHold = s.power.droopHold := by
  refine ⟨_, (exec_droop hpow hd).trans (congrArg _ ((if_pos hmode).trans (if_neg (by rw [length_recentDroops]; omega)))), ?_⟩
  rw [power_noted]
  exact ⟨droop_counted s d, rfl, hmode, rfl⟩

theorem droop_recovers (hmode : s.power.mode = .normal) (hmany : 15 ≤ (s.power.droopRecent.filter fun t => decide (s.clk.uptime < t + 100000)).length) :
    ∃ t, exec (.droop d) s = .next t ∧ kget 0 t.power.droop d = satAdd max64 (kget 0 s.power.droop d) 1 ∧ t.power.recovery = true := by
  refine ⟨_, (exec_droop hpow hd).trans (congrArg _ ((if_pos hmode).trans (if_pos (by rw [length_recentDroops]; omega)))), ?_⟩
  rw [power_enterRecovery, power_noted]
  exact ⟨droop_counted s d, rfl⟩

theorem droop_stretches (hmode : s.power.mode ≠ .normal) (hrails : s.boot.railsRemoved = false) :
    ∃ t, exec (.droop d) s = .next t ∧ kget 0 t.power.droop d = satAdd max64 (kget 0 s.power.droop d) 1 ∧ t.power.droopHold = true ∧
      2000 ≤ t.power.stretch ∧ t = { s with power := t.power } := by
  refine ⟨_, (exec_droop hpow hd).trans (congrArg _ (if_neg hmode)), ?_⟩
  rw [stretch_applyStretch (s := { counted s d with power := { (counted s d).power with droopHold := true } }) hrails]
  exact ⟨droop_counted s d, rfl, le_effectiveS_of_hold rfl, rfl⟩

end Droop

theorem droopHold_ends {s : State} (h : s.power.droopHold = true) (hrails : s.boot.railsRemoved = false) :
    ∃ t, exec .droopHoldEnd s = .next t ∧ t.power.droopHold = false ∧ t.power.stretch = effectiveS t.power ∧ t = { s with power := t.power } := by
  refine ⟨applyStretch { s with power := { s.power with droopHold := false } }, ?_, ?_⟩
  · show execDroopHoldEnd s = _
    unfold execDroopHoldEnd
    rw [if_pos h]
  · rw [stretch_applyStretch (s := { s with power := { s.power with droopHold := false } }) hrails]
    exact ⟨rfl, rfl, rfl⟩

/-- Settles O55: measurement, falls, the decision, droop. The means over the samples so far and the factor 1.05 are the model's
(log entries 63 and 69). -/
theorem powerIsMeasuredAndControlled : Obligations.PowerIsMeasuredAndControlled := fun _ hpow =>
  ⟨measurement_settles hpow, fun _ _ => fall_settles, capDecision_settles hpow,
    fun _ hd => ⟨fun hmode _ => droop_counts hpow hd hmode, droop_recovers hpow hd, droop_stretches hpow hd⟩, droopHold_ends⟩

end Sys2Proof.PowerControl


/-! PROOFS of the startup family, the watchdogs (O57). That the second expiry counts up to 1 ms after the first, that moment with it, is the
model's choice (log entry 72). -/

namespace Sys2Proof.Watchdogs

set_option Elab.async false

open Sys2Proof.Machine Sys2Proof.Safety Sys2Proof.Laws Sys2Proof.Bearings Sys2Proof.HostRules Sys2Proof.FatalErrors Sys2Proof.PowerSensors

/-- A FATAL error of a module that was not fatal. -/
theorem logFatal_halts {s : State} (h : s.boot.fatal = false) (code : Nat) (ctx : Option Nat) (detail : BitVec 128) :
    (logFatal s code ctx detail).boot.fatal = true ∧ (logFatal s code ctx detail).boot.stage = 0xF0 ∧ (logFatal s code ctx detail).steps = [] :=
  ⟨fatal_logFatal .., by rw [boot_logFatal h], steps_logFatal h ..⟩

/-- The management controller's state with a first expiry of a core at this moment. -/
def expired (s : State) (core : Nat) : State := { s with mgmt := { s.mgmt with coreTries := kput s.mgmt.coreTries core s.clk.uptime } }

/-- An error logged after a change of the management controller's state alone. -/
theorem logErr_after_mgmt (s : State) (m : Mgmt) (code : Nat) (detail : BitVec 128) :
    (logErr { s with mgmt := m } code none detail).mgmt = m ∧ Logged s (logErr { s with mgmt := m } code none detail) code none detail ∧
    logErr { s with mgmt := m } code none detail =
      { s with
        mgmt := (logErr { s with mgmt := m } code none detail).mgmt, err := (logErr { s with mgmt := m } code none detail).err
        msix := (logErr { s with mgmt := m } code none detail).msix, out := (logErr { s with mgmt := m } code none detail).out } := by
  have hframe := logErr_frame { s with mgmt := m } code none detail
  have hmgmt : (logErr { s with mgmt := m } code none detail).mgmt = m := hframe .mgmt (by decide)
  refine ⟨hmgmt, logErr_logged_since code none detail rfl rfl, ?_⟩
  rw [hmgmt]
  exact eq_overlay hframe

section Powered

variable {s : State} (hpow : s.boot.powered = true)

include hpow

theorem exec_controlCoreWatchdog_first {core : Nat} (h : ∀ u, kfind s.mgmt.coreTries core = some u → u + 100000 < s.clk.uptime) :
    exec (.controlCoreWatchdog core) s = .next (logErr (expired s core) 0x0403 none (BitVec.ofNat 128 core)) := by
  show execControlCoreWatchdog core s = _
  unfold execControlCoreWatchdog
  rw [hpow, if_neg (by decide)]
  cases hk : kfind s.mgmt.coreTries core with
  | none => rfl
  | some u => exact if_neg (by have := h u hk; omega)

theorem exec_controlCoreWatchdog_second {core u : Nat} (hk : kfind s.mgmt.coreTries core = some u) (h : s.clk.uptime ≤ u + 100000) :
    exec (.controlCoreWatchdog core) s = .next (logFatal s 0x0404 none (BitVec.ofNat 128 core)) := by
  show execControlCoreWatchdog core s = _
  unfold execControlCoreWatchdog
  rw [hpow, if_neg (by decide), hk]
  exact if_pos h

theorem exec_managementControllerWatchdog (h : s.mgmt.restarting = false) :
    exec .managementControllerWatchdog s = .next (logErr { s with mgmt := { s.mgmt with restarting := true } } 0x0406 none 0) := by
  show execManagementControllerWatchdog s = _
  unfold execManagementControllerWatchdog
  rw [if_pos ⟨hpow, by rw [h]; rfl⟩]

theorem exec_controlCoreMemoryError (what : Nat) (corrected : Bool) : exec (.controlCoreMemoryError what corrected) s =
    .next (if corrected then logErr s 0x0401 none (BitVec.ofNat 128 what) else logFatal s 0x0402 none (BitVec.ofNat 128 what)) := by
  show execControlCoreMemoryError what corrected s = _
  unfold execControlCoreMemoryError
  rw [hpow, if_neg (by decide)]
  cases corrected <;> rfl

end Powered

theorem exec_commandProgressWatchdog {s : State} {r : RingId} {g : Ring} (hg : ringOf s r = some g) (he : eligible g = true) :
    exec (.commandProgressWatchdog r) s = .next (logFatal s 0x0405 none (Config.errDetail 0x0405 [r.vector])) := by
  show execCommandProgressWatchdog r s = _
  unfold execCommandProgressWatchdog
  rw [hg]
  exact if_pos he

/-- Settles O57. The moment 1 ms after the first expiry counts as within it, which is the model's choice (log entry 72). -/
theorem watchdogsLogOrHalt : Obligations.WatchdogsLogOrHalt := by
  intro s hpow
  refine ⟨fun core h => ?_, fun core u hk h hf => ⟨_, exec_controlCoreWatchdog_second hpow hk h, logFatal_halts hf ..⟩,
    fun r g hg he hf => ⟨_, exec_commandProgressWatchdog hg he, logFatal_halts hf ..⟩, fun h => ?_, rfl, fun what => ⟨?_, fun hf => ?_⟩⟩
  · obtain ⟨hmgmt, hlogged, heq⟩ := logErr_after_mgmt s (expired s core).mgmt 0x0403 (BitVec.ofNat 128 core)
    exact ⟨_, exec_controlCoreWatchdog_first hpow h, hlogged, (congrArg (kfind ·.coreTries core) hmgmt).trans (kfind_kput_self _ _ _), heq⟩
  · obtain ⟨hmgmt, hlogged, heq⟩ := logErr_after_mgmt s { s.mgmt with restarting := true } 0x0406 0
    exact ⟨_, exec_managementControllerWatchdog hpow h, hmgmt, hlogged, heq⟩
  · exact ⟨_, exec_controlCoreMemoryError hpow what true, logErr_logged s 0x0401 none (BitVec.ofNat 128 what),
      (logErr_frame s 0x0401 none (BitVec.ofNat 128 what)).onlyLog⟩
  · obtain ⟨hfatal, -, hsteps⟩ := logFatal_halts hf 0x0402 none (BitVec.ofNat 128 what)
    exact ⟨_, exec_controlCoreMemoryError hpow what false, hfatal, hsteps⟩

end Sys2Proof.Watchdogs


/-! PROOFS of the startup family, resets and the busbar's power (O27). -/

namespace Sys2Proof.Resets

set_option Elab.async false

open Sys2Proof.Machine Sys2Proof.Safety Sys2Proof.Laws Sys2Proof.HostRules Sys2Proof.Doorbells Sys2Proof.HostRegisters

/-! ### The model store across an interruption (R304, R423) -/

/-- From `s` to `t` the model store has lost slots' contents, retirements and withdrawals at most, and writes in flight. -/
def StoreCut (s t : State) : Prop :=
  t.store = { s.store with slots := t.store.slots, retired := t.store.retired, withdrawn := t.store.withdrawn, writing := t.store.writing }

theorem StoreCut.trans {s t u : State} (h : StoreCut s t) (k : StoreCut t u) : StoreCut s u := by
  unfold StoreCut at *
  rw [k, h]

theorem storeCut_cutWrite (s : State) (w : StoreWrite) : StoreCut s (cutWrite s w) := by
  cases w <;> rfl

/-- An interruption ends every store write. -/
theorem store_cutStore (s : State) : (cutStore s).store =
    { s.store with slots := (cutStore s).store.slots, retired := (cutStore s).store.retired, withdrawn := (cutStore s).store.withdrawn, writing := [] } := by
  have hfold : StoreCut s (s.store.writing.foldl cutWrite s) :=
    List.foldlRecOn (motive := StoreCut s) _ cutWrite rfl fun u hu w _ => hu.trans (storeCut_cutWrite u w)
  have hread : StoreCut s (cutReading (s.store.writing.foldl cutWrite s)) := hfold.trans rfl
  unfold StoreCut at hread
  unfold cutStore
  dsimp only
  rw [hread]

/-! ### A full device reset (R421, R424) -/

/-- The state after a reset, before the pins are driven. -/
def restarted (s : State) (cause : Nat) (linkStays : Bool) : State :=
  { wiped s linkStays with boot := { ({} : Boot) with
      powered := true, stage := if s.boot.railsRemoved then 0x01 else 0x02, cause := if s.boot.railsRemoved then 0x1 else cause, perstN := s.boot.perstN
      cold := s.boot.railsRemoved, railsOn := s.boot.railsOn, cxlTraining := !(wiped s linkStays).host.up } }

theorem releaseFault_frame (s t : State) : Frame [.out] t (releaseFault s t) := by
  unfold releaseFault
  split
  · exact emit_frame t _
  · exact .refl _ t

theorem fullReset_frame_restarted (s : State) (cause : Nat) (linkStays : Bool) : Frame [.out] (restarted s cause linkStays) (fullReset s cause linkStays) := by
  rw [show fullReset s cause linkStays = releaseFault s (if s.host.up && !(restarted s cause linkStays).host.up
    then emit (restarted s cause linkStays) (.linkUp false) else restarted s cause linkStays) from rfl]
  refine (releaseFault_frame s _).after (by decide) ?_
  split
  · exact emit_frame (restarted s cause linkStays) _
  · exact .refl _ (restarted s cause linkStays)

theorem mem_cutHost {h : HostIf} {linkStays : Bool} {w : HostWrite} (hw : w ∈ (cutHost h linkStays).writes) : w.lost = true ∧ w.sent = true := by
  obtain ⟨v, hv, rfl⟩ := List.mem_map.mp hw
  exact ⟨rfl, (List.mem_filter.mp hv).2⟩

/-- What a reset leaves of state `s`, under a cause of its own and with the link up or not. -/
structure WarmReset (s t : State) (cause : Nat) (linkUp : Bool) : Prop where
  boot : t.boot.stage = 0x02 ∧ t.boot.cause = cause ∧ t.boot.ready = false ∧ t.boot.fatal = false
  work : t.ctxs = [] ∧ t.rings = [] ∧ t.admin = none ∧ t.steps = [] ∧ t.sm = {} ∧ t.err = {} ∧ t.ports = [] ∧ t.slory = {} ∧ t.sched = {}
  link : t.host.up = linkUp
  writes : ∀ w ∈ t.host.writes, w.lost = true ∧ w.sent = true
  kept : t.pending = s.pending ∧ t.power.capLimit = s.power.capLimit
  store : t.store = { s.store with slots := t.store.slots, retired := t.store.retired, withdrawn := t.store.withdrawn, writing := [] }

theorem fullReset_warm {s : State} (h : s.boot.railsRemoved = false) (cause : Nat) (linkStays : Bool) :
    WarmReset s (fullReset s cause linkStays) cause (s.host.up && linkStays) := by
  have hframe := fullReset_frame_restarted s cause linkStays
  have hsm : (fullReset s cause linkStays).sm = {} := hframe.sm_eq (by decide) (by decide)
  have hboot : (fullReset s cause linkStays).boot = (restarted s cause linkStays).boot := hframe .boot (by decide)
  have hhost : (fullReset s cause linkStays).host = cutHost s.host linkStays := hframe .host (by decide)
  have hpower : (fullReset s cause linkStays).power = (restarted s cause linkStays).power := hframe .power (by decide)
  have hstore : (fullReset s cause linkStays).store = (cutStore s).store := hframe .store (by decide)
  refine ⟨?_, ⟨hframe .ctxs (by decide), hframe .rings (by decide), hframe .admin (by decide), hframe .steps (by decide), hsm, hframe .err (by decide),
    hframe .ports (by decide), hframe .slory (by decide), hframe .sched (by decide)⟩, ?_, fun w hw => ?_, ⟨hframe .pending (by decide), ?_⟩, ?_⟩
  · rw [hboot]
    unfold restarted
    rw [h]
    exact ⟨rfl, rfl, rfl, rfl⟩
  · rw [hhost]
    rfl
  · rw [hhost] at hw
    exact mem_cutHost hw
  · rw [hpower]
    rfl
  · rw [hstore]
    exact store_cutStore s

/-! ### The six causes -/

theorem exec_rstControl {s : State} {v : BitVec 64} (hup : s.host.up = true) (hkey : v.setWidth 32 = 0x4C5A0001#32) :
    exec (.rstControl 8 false v) s = .next (fullReset (noLatch s) 0x4 true) := by
  have hgate : gated (noLatch s) 0x40010 = false := by
    unfold gated
    rw [show (!decide ((0x40010 : Nat) < 0x1000 ∨ ((0x40000 : Nat) ≤ 0x40010 ∧ (0x40010 : Nat) < 0x50000))) = false from rfl, Bool.and_false, Bool.false_and]
  have hform : malformed (noLatch s) 0x40010 8 = false := malformed_of_register (.inr rfl) rfl rfl
  have hwrite (f : State → State) : barWrite s 0x40010 8 f = f (noLatch s) := by
    unfold barWrite
    rw [hup]
    dsimp only
    rw [hform, hgate]
    rfl
  show execRstControl 8 false v s = _
  unfold execRstControl
  rw [show halfOff 0x40010 false = 0x40010 from rfl, hwrite, writeBits_whole]
  dsimp only
  rw [decide_eq_true hkey, BitVec.getLsbD_allOnes]
  rfl

/-- A reset while the rails stand: what is executed is a full reset of the state, but for the read latch and PERST_N. -/
theorem exec_reset {s : State} {c : Instr} {cause : Nat} {v : BitVec 64} (hpow : s.boot.powered = true)
    (h : (c = .rstControl 8 false v ∧ v.setWidth 32 = 0x4C5A0001#32 ∧ s.host.up = true ∧ cause = 0x4) ∨
      (c = .perstNAssert ∧ cause = 0x2) ∨ (c = .flr ∧ s.host.up = true ∧ cause = 0x3) ∨ (c = .linkReset ∧ s.host.up = true ∧ cause = 0x6) ∨
      (c = .managementReset ∧ s.mgmt.restarting = false ∧ cause = 0x5) ∨ (c = .activateFirmware ∧ mgmtUp s = true ∧ s.mgmt.written ≠ [] ∧ cause = 0x5)) :
    ∃ regs perst, exec c s = .next (fullReset { s with regs := regs, boot := { s.boot with perstN := perst } } cause
      (decide (c ≠ .perstNAssert ∧ c ≠ .linkReset))) := by
  rcases h with ⟨rfl, hkey, hup, rfl⟩ | ⟨rfl, rfl⟩ | ⟨rfl, hup, rfl⟩ | ⟨rfl, hup, rfl⟩ | ⟨rfl, hrun, rfl⟩ | ⟨rfl, hmgmt, hwritten, rfl⟩
  · exact ⟨(noLatch s).regs, s.boot.perstN, (exec_rstControl hup hkey).trans rfl⟩
  · exact ⟨s.regs, false, if_pos hpow⟩
  · exact ⟨s.regs, s.boot.perstN, if_pos ⟨hpow, hup⟩⟩
  · exact ⟨s.regs, s.boot.perstN, if_pos ⟨hpow, hup⟩⟩
  · exact ⟨s.regs, s.boot.perstN, if_pos ⟨hpow, by rw [hrun]; rfl⟩⟩
  · exact ⟨s.regs, s.boot.perstN, if_pos ⟨hmgmt, hwritten⟩⟩

/-! ### The busbar (R453) -/

/-- The state without power, before the pins are driven. -/
def unpowered (s : State) : State :=
  { wiped s false with boot := { ({} : Boot) with powered := false, perstN := s.boot.perstN }, mgmt := { ({} : Mgmt) with strap := s.mgmt.strap } }

theorem losePower_frame_unpowered (s : State) : Frame [.out] (unpowered s) (losePower s) := by
  unfold losePower
  refine (releaseFault_frame s _).after (by decide) ?_
  split
  · exact emit_frame (unpowered s) _
  · exact .refl _ (unpowered s)

theorem losePower_keeps_store (s : State) : (losePower s).boot.powered = false ∧ (losePower s).boot.ready = false ∧ (losePower s).host.up = false ∧
    (losePower s).ctxs = [] ∧ (losePower s).rings = [] ∧ (losePower s).admin = none ∧ (losePower s).steps = [] ∧ (losePower s).sm = {} ∧
    (losePower s).store = { s.store with
      slots := (losePower s).store.slots, retired := (losePower s).store.retired, withdrawn := (losePower s).store.withdrawn, writing := [] } := by
  have hframe := losePower_frame_unpowered s
  have hboot : (losePower s).boot = (unpowered s).boot := hframe .boot (by decide)
  have hhost : (losePower s).host = cutHost s.host false := hframe .host (by decide)
  have hsm : (losePower s).sm = {} := hframe.sm_eq (by decide) (by decide)
  have hstore : (losePower s).store = (cutStore s).store := hframe .store (by decide)
  rw [hboot, hhost, hsm, hstore]
  exact ⟨rfl, rfl, Bool.and_false _, hframe .ctxs (by decide), hframe .rings (by decide), hframe .admin (by decide), hframe .steps (by decide), rfl,
    store_cutStore s⟩

/-- Settles O27: the six resets by their one effect, the loss of power by its two causes, power good and the release of PERST_N. -/
theorem resetsAndPowerKeepNonVolatileState : Obligations.ResetsAndPowerKeepNonVolatileState := by
  refine ⟨fun s c cause v hpow hrails h => ?_, fun s => ⟨fun c hc hpow => ?_, fun hoff => ⟨_, if_neg (by rw [hoff]; decide), rfl, rfl, rfl, rfl, rfl⟩, rfl⟩⟩
  · obtain ⟨regs, perst, hexec⟩ := exec_reset hpow h
    obtain ⟨⟨hstage, hcause, hready, hfatal⟩, ⟨hctxs, hrings, hadmin, hsteps, hsm, herr, hports, hslory, hsched⟩, hlink, hwrites, ⟨hpending, hcap⟩, hstore⟩ :=
      fullReset_warm (s := { s with regs := regs, boot := { s.boot with perstN := perst } }) hrails cause (decide (c ≠ .perstNAssert ∧ c ≠ .linkReset))
    exact ⟨_, hexec, hstage, hcause, hready, hfatal, hctxs, hrings, hadmin, hsteps, hsm, herr, hports, hslory, hsched, hlink, hwrites, hpending, hcap, hstore⟩
  · simp only [List.mem_cons, List.not_mem_nil, or_false] at hc
    rcases hc with rfl | rfl
    · exact ⟨_, if_pos hpow, losePower_keeps_store s⟩
    · exact ⟨_, if_pos hpow, losePower_keeps_store s⟩

end Sys2Proof.Resets


/-! PROOFS of the startup family, the boot sequence stage by stage (O28). -/

namespace Sys2Proof.BootStages

set_option Elab.async false

open Sys2Proof.Machine Sys2Proof.Safety Sys2Proof.Laws Sys2Proof.Bearings Sys2Proof.PortRules Sys2Proof.FatalErrors Sys2Proof.Watchdogs Sys2Proof.PowerSensors Sys2Proof.PowerCaps

theorem inStage_of {s : State} {k : Nat} (hpow : s.boot.powered = true) (hf : s.boot.fatal = false) (hstage : s.boot.stage = k) : inStage s k = true := by
  unfold inStage
  rw [hpow, hf, hstage, decide_eq_true rfl]
  rfl

/-! ### ROM and LOADER: the first copy that passes (R385, R389) -/

/-- Which of two copies is taken. -/
theorem firstCopy_pair (a b : FwCopy) (p : FwCopy → Bool) : firstCopy [a, b] p = if p a then some 0 else if p b then some 1 else none := by
  unfold firstCopy
  show List.find? _ [0, 1] = _
  cases ha : p a <;> cases hb : p b <;> simp [List.find?, ha, hb]

/-- The state in which loader copy `i` runs. -/
def withLoader (s : State) (i : Nat) : State :=
  let u := if i = 1 then logOpen s 0x0B01 else s
  { u with boot := { u.boot with stage := 0x03, loaderCopy := i, loaderMeas := shaBits (u.store.loader.getD i {}).bytes } }

/-- A boot that ends in RECOVERY asserts FAULT_N (R420, R458). -/
theorem bootRecovery_spec (s : State) : (bootRecovery s).boot.stage = 0xE0 ∧ Output.faultN true ∈ (bootRecovery s).out :=
  ⟨rfl, List.mem_cons_self ..⟩

/-- A stack as MEM_INIT leaves it. -/
def initialised (k : Stack) : Stack := { k with wc := [], rewrites := [], granuleCorr := [] }

theorem wc_initialised (m : KMap Stack) (b : Nat) : (kget {} (m.map fun q => (q.1, initialised q.2)) b).wc = [] := by
  unfold kget
  rw [kfind_map]
  cases kfind m b <;> rfl

/-- The bit of the interlock's event, once it is set. -/
theorem testBit_event (m : Nat) : (if m.testBit 9 then m else m + 512).testBit 9 = true := by
  split
  · assumption
  · next h =>
    rw [show (512 : Nat) = 2 ^ 9 from rfl, testBit_add_two_pow (Bool.eq_false_iff.mpr h)]
    rfl

section Copies

variable {s : State} (hpow : s.boot.powered = true) (hf : s.boot.fatal = false)

include hpow hf

theorem exec_rom (hpin : s.boot.perstN = true) (hstage : s.boot.stage = 0x01 ∨ s.boot.stage = 0x02) :
    exec .rom s = .next (match firstCopy s.store.loader (·.ok) with | none => bootRecovery s | some i => withLoader s i) := by
  have hin : (inStage s 0x01 || inStage s 0x02) = true := by
    rcases hstage with h | h
    · rw [inStage_of hpow hf h, Bool.true_or]
    · rw [inStage_of hpow hf h, Bool.or_true]
  show execRom s = _
  unfold execRom
  rw [hin, hpin, if_neg (by simp)]
  cases firstCopy s.store.loader (·.ok) <;> rfl

omit hpow hf in
theorem boot_withLoader (s : State) (i : Nat) : (withLoader s i).boot.stage = 0x03 ∧ (withLoader s i).boot.loaderCopy = i ∧
    (withLoader s i).boot.loaderMeas = shaBits (s.store.loader.getD i {}).bytes := by
  have hstore : (if i = 1 then logOpen s 0x0B01 else s).store = s.store := by
    split
    · exact logOpen_frame s _ .store (by decide)
    · rfl
  exact ⟨rfl, rfl, congrArg (fun k : Store => shaBits (k.loader.getD i {}).bytes) hstore⟩

theorem rom_boots (hpin : s.boot.perstN = true) (hstage : s.boot.stage = 0x01 ∨ s.boot.stage = 0x02) (a b : FwCopy) (hl : s.store.loader = [a, b]) :
    ∃ t, exec .rom s = .next t ∧ (a.ok = true → t.boot.stage = 0x03 ∧ t.boot.loaderCopy = 0 ∧ t.boot.loaderMeas = shaBits a.bytes) ∧
      (a.ok = false → b.ok = true → t.boot.stage = 0x03 ∧ t.boot.loaderCopy = 1 ∧ t.boot.loaderMeas = shaBits b.bytes) ∧
      (a.ok = false → b.ok = false → t.boot.stage = 0xE0 ∧ Output.faultN true ∈ t.out) := by
  refine ⟨_, exec_rom hpow hf hpin hstage, ?_⟩
  have hmeas (i : Nat) := boot_withLoader s i
  rw [hl] at hmeas
  rw [hl, firstCopy_pair]
  refine ⟨fun ha => ?_, fun ha hb => ?_, fun ha hb => ?_⟩
  · rw [if_pos ha]
    exact hmeas 0
  · rw [ha, hb]
    exact hmeas 1
  · rw [ha, hb]
    exact bootRecovery_spec s

theorem exec_loader_stage (hstage : s.boot.stage = 0x03) : exec .loader s =
    .next (match firstCopy s.store.firmware (fwOk s) with | none => bootRecovery s | some i => takeRecord (withFirmware s i)) := by
  cases h : firstCopy s.store.firmware (fwOk s) with
  | none =>
    show execLoader s = _
    unfold execLoader
    rw [inStage_of hpow hf hstage, if_neg (by decide), h]
  | some i => exact exec_loader (inStage_of hpow hf hstage) h

omit hpow hf in
/-- The record taken leaves the firmware measured and its counter, and never lowers its own. -/
theorem takeRecord_spec (s : State) : (takeRecord s).boot = { s.boot with cfgVersion := (takeRecord s).boot.cfgVersion } ∧
    (takeRecord s).store.fwCounter = s.store.fwCounter ∧ s.store.cfgCounter ≤ (takeRecord s).store.cfgCounter := by
  unfold takeRecord
  dsimp only
  split
  · exact ⟨rfl, rfl, Nat.le_max_left ..⟩
  · split
    · have hlog := logOpen_frame s 0x0B01
      rw [hlog .boot (by decide), hlog .store (by decide)]
      exact ⟨rfl, rfl, Nat.le_max_left ..⟩
    · have hlog := logErr_frame s 0x0B02 none (BitVec.ofNat 128 (recordVersion (s.store.cfg.getD 0 {}).record))
      rw [hlog .boot (by decide), hlog .store (by decide)]
      exact ⟨rfl, rfl, Nat.le_refl _⟩

omit hpow hf in
theorem withFirmware_spec (s : State) (i : Nat) : let t := takeRecord (withFirmware s i)
    t.boot.stage = 0x04 ∧ t.boot.fwMeas = shaBits (s.store.firmware.getD i {}).bytes ∧ t.boot.fwVersion = (s.store.firmware.getD i {}).version ∧
    s.store.cfgCounter ≤ t.store.cfgCounter ∧ t.store.fwCounter = s.store.fwCounter := by
  intro t
  obtain ⟨hboot, hfw, hcfg⟩ := takeRecord_spec (withFirmware s i)
  have hstore : (withFirmware s i).store = s.store := by
    unfold withFirmware
    dsimp only
    split
    · exact logOpen_frame s _ .store (by decide)
    · rfl
  refine ⟨by rw [hboot]; rfl, by rw [hboot]; rfl, by rw [hboot]; rfl, ?_, ?_⟩
  · rwa [hstore] at hcfg
  · rw [hfw, hstore]

theorem loader_boots (hstage : s.boot.stage = 0x03) (a b : FwCopy) (hl : s.store.firmware = [a, b]) :
    ∃ t, exec .loader s = .next t ∧
      (fwOk s a = true → t.boot.stage = 0x04 ∧ t.boot.fwMeas = shaBits a.bytes ∧ t.boot.fwVersion = a.version) ∧
      (fwOk s a = false → fwOk s b = true → t.boot.stage = 0x04 ∧ t.boot.fwMeas = shaBits b.bytes ∧ t.boot.fwVersion = b.version) ∧
      (fwOk s a = false → fwOk s b = false → t.boot.stage = 0xE0 ∧ Output.faultN true ∈ t.out) ∧
      s.store.cfgCounter ≤ t.store.cfgCounter ∧ t.store.fwCounter = s.store.fwCounter := by
  have hspec (i : Nat) := withFirmware_spec s i
  refine ⟨_, exec_loader_stage hpow hf hstage, ?_⟩
  rw [hl] at hspec
  rw [hl, firstCopy_pair]
  cases ha : fwOk s a with
  | true =>
    obtain ⟨h4, hmeas, hversion, hcfg, hfw⟩ := hspec 0
    exact ⟨fun _ => ⟨h4, hmeas, hversion⟩, fun h => absurd h (by decide), fun h => absurd h (by decide), hcfg, hfw⟩
  | false =>
    cases hb : fwOk s b with
    | true =>
      obtain ⟨h4, hmeas, hversion, hcfg, hfw⟩ := hspec 1
      exact ⟨fun h => absurd h (by decide), fun _ _ => ⟨h4, hmeas, hversion⟩, fun _ h => absurd h (by decide), hcfg, hfw⟩
    | false => exact ⟨fun h => absurd h (by decide), fun _ h => absurd h (by decide), fun _ _ => bootRecovery_spec s, Nat.le_refl _, rfl⟩

/-! ### FIRMWARE to RAILS (R250, R415, R417) -/

theorem firmware_boots (hstage : s.boot.stage = 0x04) : exec .firmware s = .next { s with boot := { s.boot with stage := 0x05 } } :=
  if_pos (inStage_of hpow hf hstage)

omit hpow hf in
/-- The state once RECORDS has counted the boot and reported the summary. -/
def reported (s : State) : State :=
  { s with
    store := { s.store with bootCounter := satAdd max32 s.store.bootCounter 1, summary := [], trip := none }
    err := placeSummary s.err (s.store.summary.filter (decide <| ·.code ≠ 0)) }

theorem records_boot (hstage : s.boot.stage = 0x05) (hbad : s.store.badRecords = 0) :
    ∃ t, exec .records s = .next t ∧ t.boot.stage = 0x06 ∧ t.store.bootCounter = satAdd max32 s.store.bootCounter 1 ∧ t.store.summary = [] := by
  have hnone : (reported s).store.badRecords = 0 := hbad
  refine ⟨enterStage (reported s) 0x06, ?_, rfl, rfl, rfl⟩
  show execRecords s = _
  unfold execRecords
  rw [inStage_of hpow hf hstage, if_neg (by decide)]
  show (if 2 ≤ (reported s).store.badRecords then _ else if (reported s).store.badRecords = 1 then _ else Host.Outcome.next (enterStage (reported s) 0x06)) = _
  rw [hnone, if_neg (by decide), if_neg (by decide)]

theorem interlock_boots (hstage : s.boot.stage = 0x06) (hcool : coolantMet s.power = true) :
    exec .interlock s = .next { s with boot := { s.boot with stage := if s.boot.railsOn then 0x08 else 0x07 } } := by
  show execInterlock s = _
  unfold execInterlock
  rw [inStage_of hpow hf hstage, hcool, Bool.and_self, if_pos rfl]
  rfl

theorem interlock_warns (hstage : s.boot.stage = 0x06) :
    ∃ t, exec .interlockWarning s = .next t ∧ t.power.events.testBit 9 = true ∧ t.boot = s.boot := by
  refine ⟨_, if_pos (inStage_of hpow hf hstage), ?_, raiseVector_frame _ 259 .boot (by decide)⟩
  rw [raiseVector_frame _ 259 .power (by decide)]
  exact testBit_event s.power.events

theorem rails_boot (hstage : s.boot.stage = 0x07) : exec .rails s = .next { s with boot := { s.boot with stage := 0x08, railsOn := true } } :=
  if_pos (inStage_of hpow hf hstage)

/-! ### STACK_TRAIN to READY (R251, R390, R419) -/

theorem stackTrain_boots (hstage : s.boot.stage = 0x08) (hlost : s.store.lostStacks = []) :
    exec (.stackTrain []) s = .next { s with boot := { s.boot with stage := 0x09 } } := by
  show execStackTrain [] s = _
  unfold execStackTrain
  rw [inStage_of hpow hf hstage, if_neg (by decide), hlost]
  rfl

theorem memInit_boots (hstage : s.boot.stage = 0x09) :
    ∃ t, exec .memInit s = .next t ∧ t.boot.stage = 0x0A ∧ (∀ a, kget 0 t.sm.mem.base a = 0) ∧ t.sm.poison = [] ∧
      (∀ b, (stackOf t b).wc = []) ∧ t.sm.reserved = s.sm.reserved ∧ t = { s with boot := t.boot, sm := t.sm } := by
  refine ⟨_, if_pos (inStage_of hpow hf hstage), rfl, fun _ => rfl, rfl, fun b => ?_, rfl, rfl⟩
  exact wc_initialised s.sm.stk b

theorem selfTest_passes (hstage : s.boot.stage = 0x0A) :
    ∃ t, exec (.selfTest true) s = .next t ∧ t.boot.stage = 0x0B ∧ s.store.fwCounter ≤ t.store.fwCounter ∧
      ((s.store.firmware[s.boot.fwCopy]?).getD {}).floor ≤ t.store.fwCounter := by
  refine ⟨{ enterStage s 0x0B with store := { s.store with fwCounter := max s.store.fwCounter (s.store.firmware.getD s.boot.fwCopy {}).floor } }, ?_, rfl,
    Nat.le_max_left .., ?_⟩
  · show execSelfTest true s = _
    unfold execSelfTest
    rw [inStage_of hpow hf hstage]
    rfl
  · rw [← List.getD_eq_getElem?_getD]
    exact Nat.le_max_right ..

theorem selfTest_fails (hstage : s.boot.stage = 0x0A) : ∃ t, exec (.selfTest false) s = .next t ∧ t.boot.fatal = true ∧ t.boot.stage = 0xF0 := by
  refine ⟨fatalOpen s 0x0B03, ?_, ?_⟩
  · show execSelfTest false s = _
    unfold execSelfTest
    rw [inStage_of hpow hf hstage]
    rfl
  · obtain ⟨hfatal, hfell, -⟩ := logFatal_halts (s := (takeFree s).2) hf 0x0B03 none ((takeFree s).1.setWidth 128)
    exact ⟨hfatal, hfell⟩

theorem exec_identity (hlo : 0x06 ≤ s.boot.stage) (hhi : s.boot.stage ≤ 0x0B) (hid : s.boot.idReady = false) (ok : Bool) :
    exec (.identity ok) s = .next (if ok then { s with boot := { s.boot with idReady := true } } else logFatal s 0x0B04 none 0) := by
  show execIdentity ok s = _
  unfold execIdentity
  rw [hpow, hf, hid, decide_eq_true ⟨hlo, hhi⟩]
  rfl

theorem ready_boots (hstage : s.boot.stage = 0x0B) (hid : s.boot.idReady = true) :
    ∃ t, exec .ready s = .next t ∧ t.boot.stage = 0x0C ∧ t.boot.ready = true ∧ t.boot.readyTime = s.clk.uptime := by
  refine ⟨_, if_pos (by rw [inStage_of hpow hf hstage, hid]; rfl), ?_⟩
  rw [repairSlots_frame _ .boot (by decide), setMode_frame _ .boot (by decide)]
  exact ⟨rfl, rfl, rfl⟩

end Copies

/-- Settles O28. -/
theorem bootAdvancesToReady : Obligations.BootAdvancesToReady :=
  ⟨fun _ hpow hf hpin => ⟨rom_boots hpow hf hpin, loader_boots hpow hf, firmware_boots hpow hf, records_boot hpow hf, interlock_boots hpow hf,
    fun hstage _ => interlock_warns hpow hf hstage, rails_boot hpow hf⟩,
  fun s hpow hf => ⟨stackTrain_boots hpow hf, memInit_boots hpow hf, fun hstage => ⟨selfTest_passes hpow hf hstage, selfTest_fails hpow hf hstage⟩,
    fun hlo hhi hid => ⟨exec_identity hpow hf hlo hhi hid true, _, exec_identity hpow hf hlo hhi hid false, fatal_logFatal s 0x0B04 none 0⟩, ready_boots hpow hf⟩⟩

end Sys2Proof.BootStages


/-! PROOFS of the startup family, the management bus (O58). The message layouts are the model's (log entry 31). -/

namespace Sys2Proof.ManagementBus

set_option Elab.async false

open Sys2Proof.Machine Sys2Proof.Safety Sys2Proof.Laws Sys2Proof.Resets

section Up

variable {s : State} (hup : mgmtUp s = true)

include hup

/-! ### Addresses and messages (R461, R462) -/

theorem exec_i3cAddressAssignment {a : Nat} (ha : a < 128) :
    exec (.i3cAddressAssignment a) s = .next { s with mgmt := { s.mgmt with dynAddr := some a }, out := .i3cAddress a :: s.out } := if_pos ⟨hup, ha⟩

theorem mctp_setEid {msg : Bytes} (hcmd : msgByte msg 2 = 0x01) (hzero : msgByte msg 4 ≠ 0) (hall : msgByte msg 4 ≠ 255) :
    ∃ t o, exec (.mctpControlMessage msg) s = .next t ∧ t = { s with mgmt := { s.mgmt with eid := msgByte msg 4 }, out := .mctp o :: s.out } ∧ o.getD 3 0 = 0 := by
  refine ⟨_, ctrlResponse msg 0 [0#8, BitVec.ofNat 8 (msgByte msg 4), 0#8], ?_, rfl, rfl⟩
  show execMctpControlMessage msg s = _
  unfold execMctpControlMessage
  rw [hup, if_neg (by decide), hcmd]
  exact if_neg (by simp [hzero, hall])

theorem mctp_unknown {msg : Bytes} (hcmd : msgByte msg 2 ∉ [1, 2, 4, 5]) :
    ∃ t o, exec (.mctpControlMessage msg) s = .next t ∧ t = { s with out := .mctp o :: s.out } ∧ o.getD 3 0 = 0x05 := by
  simp only [List.mem_cons, List.not_mem_nil, or_false, not_or] at hcmd
  obtain ⟨h1, h2, h4, h5⟩ := hcmd
  refine ⟨_, ctrlResponse msg 0x05 [], ?_, rfl, rfl⟩
  show execMctpControlMessage msg s = _
  unfold execMctpControlMessage
  rw [hup, if_neg (by decide)]
  split
  · contradiction
  · contradiction
  · contradiction
  · contradiction
  · rfl

theorem pldm_setTid {msg : Bytes} (hcmd : msgByte msg 3 = 0x01) :
    ∃ t o, exec (.pldmBase msg) s = .next t ∧ t = { s with mgmt := { s.mgmt with tid := msgByte msg 4 }, out := .pldm o :: s.out } ∧ o.getD 4 0 = 0 := by
  refine ⟨_, pldmResponse msg 0 [], ?_, rfl, rfl⟩
  show execPldmBase msg s = _
  unfold execPldmBase
  rw [hup, if_neg (by decide), hcmd]
  rfl

theorem pldm_unknown {msg : Bytes} (hcmd : msgByte msg 3 ∉ [1, 2, 3, 4, 5]) :
    ∃ t o, exec (.pldmBase msg) s = .next t ∧ t = { s with out := .pldm o :: s.out } ∧ o.getD 4 0 = 0x05 := by
  simp only [List.mem_cons, List.not_mem_nil, or_false, not_or] at hcmd
  obtain ⟨h1, h2, h3, h4, h5⟩ := hcmd
  refine ⟨_, pldmResponse msg 0x05 [], ?_, rfl, rfl⟩
  show execPldmBase msg s = _
  unfold execPldmBase
  rw [hup, if_neg (by decide)]
  split
  · contradiction
  · contradiction
  · contradiction
  · contradiction
  · contradiction
  · rfl

theorem exec_pldmSensorReading (id : Nat) : exec (.pldmSensorReading id) s =
    .next (emit s (match sensorValue s id with | some v => .pldmSensor id v | none => .pldm [0x80#8])) := by
  show execPldmSensorReading id s = _
  unfold execPldmSensorReading
  rw [hup, if_neg (by decide)]
  cases sensorValue s id <;> rfl

omit hup in
theorem sensorValue_of_known {id : Nat} {v : Int} (h : (id, v) ∈ [(1, (s.power.mean10 : Int)), (2, (capInForce s.power : Int)), (3, (s.power.stretch : Int)),
    (4, s.power.temps.getD 0 0), (5, s.power.temps.getD 1 0), (6, s.power.temps.getD 2 0), (7, s.power.temps.getD 3 0), (8, (s.power.flow : Int)),
    (9, (s.boot.stage : Int)), (10, (s.err.slots.length : Int))]) : sensorValue s id = some v := by
  simp only [List.mem_cons, Prod.mk.injEq, List.not_mem_nil, or_false] at h
  rcases h with ⟨rfl, rfl⟩ | ⟨rfl, rfl⟩ | ⟨rfl, rfl⟩ | ⟨rfl, rfl⟩ | ⟨rfl, rfl⟩ | ⟨rfl, rfl⟩ | ⟨rfl, rfl⟩ | ⟨rfl, rfl⟩ | ⟨rfl, rfl⟩ | ⟨rfl, rfl⟩ <;> rfl

omit hup in
theorem sensorValue_of_unknown {id : Nat} (h : id = 0 ∨ 10 < id) : sensorValue s id = none := by
  rcases h with rfl | h
  · rfl
  · obtain ⟨k, rfl⟩ : ∃ k, id = k + 11 := ⟨id - 11, by omega⟩
    rfl

/-! ### Firmware update (R388, R389, R463, R464) -/

theorem update_notOffered {c : Nat} (img : Bytes) (h : offered s c = false) : exec (.pldmFirmwareUpdate c img) s = .next (updateEnd s c 3) := by
  show execPldmFirmwareUpdate c img s = _
  unfold execPldmFirmwareUpdate
  rw [hup, h]
  rfl

omit hup in
theorem offered_object {c : Nat} (hstage : s.boot.stage ≠ 0xF0) (hc : 1 ≤ c ∧ c ≤ 3) : offered s c = true := by
  unfold offered
  rw [decide_eq_true hstage, decide_eq_true hc]
  rfl

omit hup in
theorem offered_store {i : Nat} (hstage : s.boot.stage ≠ 0xF0) (hrecovery : s.boot.stage ≠ 0xE0) (hi : i < 16) : offered s (0x10 + i) = true := by
  unfold offered
  rw [decide_eq_true hstage, decide_eq_true hrecovery, decide_eq_true (show 0x10 ≤ 0x10 + i ∧ 0x10 + i ≤ 0x1F by omega)]
  simp

omit hup in
theorem notOffered_of_other {c : Nat} (h : c = 0 ∨ (4 ≤ c ∧ c < 0x10) ∨ 0x20 ≤ c) : offered s c = false := by
  unfold offered
  rw [decide_eq_false (show ¬ (1 ≤ c ∧ c ≤ 3) by omega), decide_eq_false (show ¬ (0x10 ≤ c ∧ c ≤ 0x1F) by omega)]
  simp

omit hup in
theorem written_writeObject (s : State) (c : Nat) (img : Bytes) : c ∈ (writeObject s c img).mgmt.written := by
  unfold writeObject
  dsimp only
  have hwritten (p q : Store) : (if c = 1 then { s with store := p } else { s with store := q }).mgmt = s.mgmt := by split <;> rfl
  rw [hwritten]
  split
  · next h => exact List.contains_iff_mem.mp h
  · exact List.mem_append_right _ (List.mem_singleton_self c)

theorem update_loader (img : Bytes) (hstage : s.boot.stage ≠ 0xF0) : ∃ t, exec (.pldmFirmwareUpdate 1 img) s = .next t ∧ t.boot = s.boot ∧
    (if Config.vendorSigned img = true then 1 ∈ t.mgmt.written ∧ t.store = { s.store with loader := t.store.loader } ∧ (t.store.loader.map (·.bytes)) = [img, img]
      else t = { s with out := .updateResult 1 1 :: s.out }) := by
  have hexec : exec (.pldmFirmwareUpdate 1 img) s = .next (if Config.vendorSigned img then updateEnd (writeObject s 1 img) 1 0 else updateEnd s 1 1) := by
    show execPldmFirmwareUpdate 1 img s = _
    unfold execPldmFirmwareUpdate
    rw [hup, offered_object hstage (by decide)]
    rfl
  refine ⟨_, hexec, ?_⟩
  by_cases hsigned : Config.vendorSigned img = true
  · rw [if_pos hsigned, if_pos hsigned]
    exact ⟨rfl, written_writeObject s 1 img, rfl, rfl⟩
  · rw [if_neg hsigned, if_neg hsigned]
    exact ⟨rfl, rfl⟩

theorem update_firmware (img : Bytes) (hstage : s.boot.stage ≠ 0xF0) : ∃ t, exec (.pldmFirmwareUpdate 2 img) s = .next t ∧ t.boot = s.boot ∧
    (if Config.vendorSigned img = true ∧ s.store.fwCounter ≤ Config.objectVersion img ∧ recordFloor s.store.cfgForce.record ≤ Config.objectVersion img then
        2 ∈ t.mgmt.written ∧ t.store = { s.store with firmware := t.store.firmware } ∧ (t.store.firmware.map (·.bytes)) = [img, img]
      else t = { s with out := .updateResult 2 1 :: s.out }) := by
  have hexec : exec (.pldmFirmwareUpdate 2 img) s = .next (if Config.vendorSigned img && decide (s.store.fwCounter ≤ Config.objectVersion img) &&
      decide (recordFloor s.store.cfgForce.record ≤ Config.objectVersion img) then updateEnd (writeObject s 2 img) 2 0 else updateEnd s 2 1) := by
    show execPldmFirmwareUpdate 2 img s = _
    unfold execPldmFirmwareUpdate
    rw [hup, offered_object hstage (by decide)]
    rfl
  refine ⟨_, hexec, ?_⟩
  have hiff : (Config.vendorSigned img && decide (s.store.fwCounter ≤ Config.objectVersion img) &&
      decide (recordFloor s.store.cfgForce.record ≤ Config.objectVersion img)) = true ↔
      Config.vendorSigned img = true ∧ s.store.fwCounter ≤ Config.objectVersion img ∧ recordFloor s.store.cfgForce.record ≤ Config.objectVersion img := by
    simp [and_assoc]
  by_cases hsigned : Config.vendorSigned img = true ∧ s.store.fwCounter ≤ Config.objectVersion img ∧ recordFloor s.store.cfgForce.record ≤ Config.objectVersion img
  · rw [if_pos (hiff.mpr hsigned), if_pos hsigned]
    exact ⟨rfl, written_writeObject s 2 img, rfl, rfl⟩
  · rw [if_neg (fun h => hsigned (hiff.mp h)), if_neg hsigned]
    exact ⟨rfl, rfl⟩

theorem update_record (img : Bytes) (hstage : s.boot.stage ≠ 0xF0) : ∃ t, exec (.pldmFirmwareUpdate 3 img) s = .next t ∧ t.boot = s.boot ∧
    (if (img.take 8192).length = 8192 ∧ recordLegal s (img.take 8192) = true ∧ recordSigner s img ≠ 0 then
        t.store = { s.store with cfg := t.store.cfg, ownerOnce := t.store.ownerOnce } ∧ (t.store.cfg.map (·.record)) = [img.take 8192, img.take 8192]
      else t = { s with out := .updateResult 3 1 :: s.out }) := by
  have hexec : exec (.pldmFirmwareUpdate 3 img) s = .next (updateRecord s img) := by
    show execPldmFirmwareUpdate 3 img s = _
    unfold execPldmFirmwareUpdate
    rw [hup, offered_object hstage (by decide)]
    rfl
  refine ⟨_, hexec, ?_⟩
  unfold updateRecord
  dsimp only
  by_cases h : (img.take 8192).length = 8192 ∧ recordLegal s (img.take 8192) = true ∧ recordSigner s img ≠ 0
  · have hrecord : (CfgRec.mk (img.take 8192) true).record = img.take 8192 := by
      unfold CfgRec.record
      exact if_neg fun hnil => absurd (h.1.symm.trans (congrArg List.length hnil)) (by decide)
    rw [if_pos h, if_pos h]
    exact ⟨rfl, rfl, congrArg (fun b => [b, b]) hrecord⟩
  · rw [if_neg h, if_neg h]
    exact ⟨rfl, rfl⟩

section Store

variable {i : Nat} (hi : i < 16) (hstage : s.boot.stage ≠ 0xF0) (hrecovery : s.boot.stage ≠ 0xE0)

include hi hstage hrecovery

theorem exec_updateStore (img : Bytes) : exec (.pldmFirmwareUpdate (0x10 + i) img) s = .next (updateStore s i img) := by
  show execPldmFirmwareUpdate (0x10 + i) img s = _
  unfold execPldmFirmwareUpdate
  rw [hup, offered_store hstage hrecovery hi, if_neg (by decide), if_neg (by decide), if_neg (by omega), if_neg (by omega), if_neg (by omega), Nat.add_sub_cancel_left]

theorem updateStore_busy (img : Bytes) (h : (kget {} s.store.slots i).busy = true ∨ (kget {} s.store.slots i).repair = true ∨ slotRead s i = true) :
    exec (.pldmFirmwareUpdate (0x10 + i) img) s = .next { s with out := .updateResult (0x10 + i) 2 :: s.out } := by
  rw [exec_updateStore hup hi hstage hrecovery]
  unfold updateStore
  dsimp only
  rw [if_pos (by simpa [or_assoc] using h)]
  rfl

theorem updateStore_writes {img head : Bytes} {m : KMap Bytes} (hhead : head = img.take (imgData img)) (hm : m = imageBlocksOf img head)
    (hbusy : (kget {} s.store.slots i).busy = false) (hrepair : (kget {} s.store.slots i).repair = false) (hread : slotRead s i = false) :
    if storeImageFault head = none ∧ imageTrusted s head = true ∧ (∀ k < imgBlocks head, blockTrusted head k (kget [] m k) = true) ∧
        extentsUsed s i + 2 * ceilDiv (imgBytes head) (2 ^ 30) ≤ 4032 then
      ∃ t, exec (.pldmFirmwareUpdate (0x10 + i) img) s = .next t ∧ kget {} t.store.slots i = { a := { head := head, blocks := m }, busy := true } ∧
        t = { s with store := { s.store with slots := t.store.slots, writing := s.store.writing ++ [.copyA i none] } }
    else exec (.pldmFirmwareUpdate (0x10 + i) img) s = .next { s with out := .updateResult (0x10 + i) 1 :: s.out } := by
  have hidle : ((kget {} s.store.slots i).busy || (kget {} s.store.slots i).repair || slotRead s i) = false := by rw [hbusy, hrepair, hread]; rfl
  have hiff : ((storeImageFault head).isSome || !imageTrusted s head || !(List.range (imgBlocks head)).all (fun k => blockTrusted head k (kget [] m k)) ||
      decide (4032 < extentsUsed s i + 2 * ceilDiv (imgBytes head) (2 ^ 30))) = true ↔
      ¬ (storeImageFault head = none ∧ imageTrusted s head = true ∧ (∀ k < imgBlocks head, blockTrusted head k (kget [] m k) = true) ∧
        extentsUsed s i + 2 * ceilDiv (imgBytes head) (2 ^ 30) ≤ 4032) := by
    rw [← Bool.not_eq_false]
    refine not_congr ?_
    simp only [Bool.or_eq_false_iff, Bool.not_eq_false', Option.isSome_eq_false_iff, Option.isNone_iff_eq_none, List.all_eq_true, List.mem_range,
      decide_eq_false_iff_not, Nat.not_lt, and_assoc]
  have hexec : exec (.pldmFirmwareUpdate (0x10 + i) img) s = .next (if ((storeImageFault head).isSome || !imageTrusted s head ||
      !(List.range (imgBlocks head)).all (fun k => blockTrusted head k (kget [] m k)) ||
      decide (4032 < extentsUsed s i + 2 * ceilDiv (imgBytes head) (2 ^ 30))) then updateEnd s (0x10 + i) 1
      else storeWrite (setSlot s i { a := { head := head, blocks := m }, busy := true }) (.copyA i none)) := by
    rw [exec_updateStore hup hi hstage hrecovery]
    unfold updateStore
    dsimp only
    rw [← hhead, ← hm, hidle, if_neg Bool.false_ne_true]
  split
  · next h =>
    refine ⟨_, hexec.trans (congrArg _ (if_neg fun hbad => hiff.mp hbad h)), ?_, rfl⟩
    exact (kget_kput {} s.store.slots i i _).trans (if_pos rfl)
  · next h => exact hexec.trans (congrArg _ (if_pos (hiff.mpr h)))

end Store

theorem activates (hwritten : s.mgmt.written ≠ []) (hrails : s.boot.railsRemoved = false) :
    ∃ t, exec .activateFirmware s = .next t ∧ t.boot.stage = 0x02 ∧ t.boot.cause = 0x5 ∧ t.ctxs = [] ∧ t.steps = [] := by
  obtain ⟨⟨hstage, hcause, -⟩, ⟨hctxs, -, -, hsteps, -⟩, -⟩ := fullReset_warm hrails 0x5 true
  exact ⟨_, if_pos ⟨hup, hwritten⟩, hstage, hcause, hctxs, hsteps⟩

end Up

/-- Settles O58. Message layouts are the model's (log entry 31). -/
theorem managementBusAnswers : Obligations.ManagementBusAnswers := by
  intro s hup
  refine ⟨fun a => exec_i3cAddressAssignment hup, fun msg => ⟨mctp_setEid hup, mctp_unknown hup⟩, fun msg => ⟨pldm_setTid hup, pldm_unknown hup⟩,
    fun typ => if_pos hup, fun id v h => ?_, fun id h => ?_, fun img hstage => ⟨update_loader hup img hstage, update_firmware hup img hstage,
    update_record hup img hstage, fun i hi hrecovery => ⟨updateStore_busy hup hi hstage hrecovery img, fun head m => updateStore_writes hup hi hstage hrecovery⟩,
    activates hup, fun c h => update_notOffered hup img (notOffered_of_other h)⟩⟩
  · rw [exec_pldmSensorReading hup, sensorValue_of_known h]
    rfl
  · rw [exec_pldmSensorReading hup, sensorValue_of_unknown h]
    rfl

end Sys2Proof.ManagementBus


/-! PROOFS of the command family, SCHED_LOAD, its placement and SCHED_UNLOAD (O32). -/

namespace Sys2Proof.ScheduleImages

set_option Elab.async false

open Sys2Proof.Machine Sys2Proof.Safety Sys2Proof.Laws Sys2Proof.Commits Sys2Proof.Timetables Sys2Proof.ContextWork Sys2Proof.RingWork Sys2Proof.Fetching

/-! ### Answers to accepted commands -/

/-- A command that stands on its ring is answered with what its end replies, also where its work has written to the host. -/
theorem endCmd_ended {s u : State} {r : RingId} {c : Cmd} (h : ((ringOf u r).bind fun g => g.cmd c.seq) = some c) (hid : s.host.nextId ≤ u.host.nextId)
    (y : Reply) : Ended s (endCmd u r c.seq y) r c y.status y.result := by
  obtain ⟨g, hg, hreplied⟩ := endCmd_replied y h
  refine ⟨{ y with opcode := c.opcode, seq := c.seqNo, ctx := c.concerned r }, rfl, rfl, rfl, rfl, g, hg, ?_⟩
  exact hreplied.imp_left fun ⟨hgone, w, hw, hle, hwrite⟩ => ⟨hgone, w, hw, Nat.le_trans hid hle, hwrite⟩

theorem cmd_updCmd {s : State} {r : RingId} {c : Cmd} (h : ((ringOf s r).bind fun g => g.cmd c.seq) = some c) (f : Cmd → Cmd) (hf : ∀ c, (f c).seq = c.seq) :
    ((ringOf (updCmd s r c.seq f) r).bind fun g => g.cmd c.seq) = some (f c) := by
  obtain ⟨g, hg, hc⟩ := Option.bind_eq_some_iff.mp h
  rw [updCmd, ringOf_updRing, if_pos rfl, hg]
  exact (cmd_map g c.seq f hf).trans (congrArg _ hc)

/-! ### SCHED_LOAD (R150, R155, R156, R366, R374) -/

/-- A page that is mapped takes frames from the context's own. -/
theorem frames_mapPage (c : Ctx) (p : Nat) : (mapPage c p).frames = c.frames ∧ (mapPage c p).images = c.images := by
  unfold mapPage
  split
  · exact ⟨rfl, rfl⟩
  · split <;> exact ⟨rfl, rfl⟩

theorem frames_foldl_mapPage (ps : List Nat) (c : Ctx) : (ps.foldl mapPage c).frames = c.frames :=
  List.foldlRecOn (motive := fun d : Ctx => d.frames = c.frames) ps mapPage rfl fun d hd p _ => (frames_mapPage d p).1.trans hd

theorem exec_schedLoad {s : State} {n : Nat} {k : Ctx} {c : Cmd} {b : Bytes} {im : Image} (h : Current s (.ctx n) 0x0020 c) (hk : ctxOf s n = some k)
    (hempty : kfind k.images (c.fld 291 288) = none) (hgeneral : inGeneral k false (c.fld 383 320) (leAt b 8 4) = true)
    (hfault : imageFault b s k (loadedBinds k) = none) (him : im = withUses b k (withNulls (imageIn b)) (ownNode s))
    (hclaims : firstExcess k.grants (imageClaims im) = none) (hclash : reservedClash s im = none)
    (hframes : k.drawn + (newPages k (dataPages im (usesIn b (directory b) im (ownNode s)))).length + imageFrames im ≤ k.frames.length) :
    exec (.schedLoad (.ctx n) (.ok b)) s = .next (updCmd (acceptCmd (loadImage s n k (c.fld 291 288) im
      (newPages k (dataPages im (usesIn b (directory b) im (ownNode s))))) (.ctx n) c.seq) (.ctx n) c.seq fun c => { c with jobs := 1 }) := by
  subst him
  show execSchedLoad (.ctx n) (.ok b) s = _
  unfold execSchedLoad
  rw [withCtxCmd_current h hk, hempty, if_neg (by decide)]
  dsimp only
  unfold schedLoad
  rw [hgeneral, if_neg (by decide), hfault]
  dsimp only
  rw [hclaims]
  dsimp only
  rw [hclash]
  dsimp only
  rw [if_neg (by omega)]

theorem ctxOf_loadImage (s : State) (n : Nat) (k : Ctx) (slot : Nat) (img : Image) (ps : List Nat) : ∃ k', ctxOf (loadImage s n k slot img ps) n = some k' ∧
    kfind k'.images slot = some { img with frames := imageFrames img } ∧ k'.frames = k.frames :=
  ⟨_, ctxOf_setCtx_self s n _, kfind_kput_self _ _ _, frames_foldl_mapPage ps k⟩

theorem schedLoad_accepted {s : State} {n : Nat} {c : Cmd} (h : Current s (.ctx n) 0x0020 c) (k : Ctx) (img : Image) (ps : List Nat) :
    let t := updCmd (acceptCmd (loadImage s n k (c.fld 291 288) img ps) (.ctx n) c.seq) (.ctx n) c.seq fun c => { c with jobs := 1 }
    ∃ k' g c', ctxOf t n = some k' ∧ kfind k'.images (c.fld 291 288) = some { img with frames := imageFrames img } ∧ k'.frames = k.frames ∧
      ringOf t (.ctx n) = some g ∧ g.cmd c.seq = some c' ∧ c'.accepted = true ∧ c'.held = none ∧ t.steps = s.steps ∧ t.sm = s.sm := by
  intro t
  obtain ⟨k', hk', himg, hframes⟩ := ctxOf_loadImage s n k (c.fld 291 288) img ps
  have hload : Frame [.ctxs] s (loadImage s n k (c.fld 291 288) img ps) := setCtx_frame _ _ _
  obtain ⟨e, he⟩ := energyOnly_acceptCmd n _ (.ctx n) c.seq k' hk'
  have hupd : Frame [.admin, .rings] _ t := updCmd_frame _ (.ctx n) c.seq _
  have hcmd := acceptCmd_keeps_cmd h (hload.ring (by decide) (by decide) (.ctx n))
  obtain ⟨g, hg, hc⟩ := Option.bind_eq_some_iff.mp (cmd_updCmd (c := markAccepted _ c) hcmd (fun c => { c with jobs := 1 }) fun _ => rfl)
  refine ⟨_, g, _, (ctxOf_eq_of_frame hupd (by decide) n).trans he, himg, hframes, hg, hc, rfl, (held_of_current h :), ?_, ?_⟩
  · exact Eq.trans (hupd .steps (by decide)) (Eq.trans (acceptCmd_frame _ _ _ .steps (by decide)) (hload .steps (by decide)))
  · exact (hupd.sm_eq (by decide) (by decide)).trans (((acceptCmd_frame _ _ _).sm_eq (by decide) (by decide)).trans (hload.sm_eq (by decide) (by decide)))

/-! ### Placement (R140, R200) -/

theorem mapM_bytes {host : List HostData} (h : ∀ d ∈ host, d.bytes.isSome = true) : ∃ bs, host.mapM HostData.bytes = some bs := by
  induction host with
  | nil => exact ⟨[], rfl⟩
  | cons d host ih =>
    obtain ⟨b, hb⟩ := Option.isSome_iff_exists.mp (h d (List.mem_cons_self ..))
    obtain ⟨bs, hbs⟩ := ih fun e he => h e (List.mem_cons_of_mem _ he)
    exact ⟨b :: bs, by rw [List.mapM_cons, hb, hbs]; rfl⟩

theorem exec_commandWork_sched {s : State} {n : Nat} {k : Ctx} {c : Cmd} {img : Image} {host : List HostData} {bs : List Bytes} (hk : ctxOf s n = some k)
    (hc : ((ringOf s (.ctx n)).bind fun g => g.cmd c.seq) = some c) (hacc : c.accepted = true) (hop : c.opcode = 0x0020)
    (himg : kfind k.images (c.fld 291 288) = some img) (hplaced : img.placed = false) (hlen : (img.binds.filter (hostFilled img)).length ≤ host.length)
    (hbs : host.mapM HostData.bytes = some bs) (hhigher : ∀ b < 8, higherWork s b 5 = false) :
    exec (.commandWorkAccess (.ctx n) c.seq host) s =
      .next (endCmd (placeImage s n k (c.fld 291 288) img bs) (.ctx n) c.seq { status := stOk, result := img.reserved }) := by
  have hidle : ((List.range 8).any fun b => higherWork s b 5) = false := List.any_eq_false.mpr fun b hb => by simp [hhigher b (List.mem_range.mp hb)]
  show execCommandWorkAccess (.ctx n) c.seq s host = _
  unfold execCommandWorkAccess
  rw [show cmdBySeq s (.ctx n) c.seq = some c from hc]
  dsimp only
  rw [hacc, hidle, hop, if_neg (by decide), if_pos rfl]
  unfold schedPlaced
  dsimp only
  rw [hk]
  dsimp only
  rw [himg]
  dsimp only
  rw [if_neg (by rw [hplaced]; simp; omega), hbs]

theorem placeImage_spec {s : State} {n : Nat} {k : Ctx} (hk : ctxOf s n = some k) (slot : Nat) (img : Image) (bs : List Bytes) :
    ∃ k', ctxOf (placeImage s n k slot img bs) n = some k' ∧ kfind k'.images slot = some { img with placed := true } := by
  unfold placeImage
  dsimp only
  rw [ctxOf_updCtx, if_pos rfl]
  generalize hq : List.foldl _ _ _ = q
  have hkept : ctxOf q.1 n = some k := by
    rw [← hq]
    refine List.foldlRecOn (motive := fun q : State × List Bytes => ctxOf q.1 n = some k) _ _ hk fun q hq w _ => ?_
    split
    · exact (ctxOf_eq_of_frame (fillResident_frame _ _ _ _ _) (by decide) n).trans hq
    · exact (ctxOf_eq_of_frame (fillResident_frame _ _ _ _ _) (by decide) n).trans hq
  rw [hkept]
  exact ⟨_, rfl, kfind_kput_self _ _ _⟩

/-! ### SCHED_UNLOAD (R366) -/

theorem exec_schedUnload {s : State} {n : Nat} {k : Ctx} {c : Cmd} {img : Image} (h : Current s (.ctx n) 0x0021 c) (hk : ctxOf s n = some k)
    (himg : kfind k.images (c.fld 291 288) = some img) (hplaced : img.placed = true) (hsteps : ∀ x ∈ s.steps, x.ctx = n → x.slot ≠ c.fld 291 288) :
    exec (.schedUnload (.ctx n)) s = .next (endOk (removeImage s n (c.fld 291 288)) (.ctx n) c 0) := by
  have hunused : slotUsed s n (c.fld 291 288) = false := List.any_eq_false.mpr fun x hx => by simpa using hsteps x hx
  have hloaded : loadedImage k (c.fld 291 288) = some img := by
    unfold loadedImage
    rw [himg]
    exact if_pos hplaced
  show execSchedUnload (.ctx n) s = _
  unfold execSchedUnload
  rw [withCtxCmd_current h hk]
  dsimp only
  rw [hloaded]
  dsimp only
  rw [hunused, if_neg Bool.false_ne_true]

theorem removeImage_spec {s : State} {n : Nat} {k : Ctx} {slot : Nat} {img : Image} (hk : ctxOf s n = some k) (himg : kfind k.images slot = some img) :
    ∃ k', ctxOf (removeImage s n slot) n = some k' ∧ k'.images = kdel k.images slot := by
  unfold removeImage
  rw [hk, Option.bind_some, himg]
  dsimp only
  rw [ctxOf_updCtx, if_pos rfl]
  exact ⟨_, congrArg (Option.map _) hk, rfl⟩

/-- Settles O32: SCHED_LOAD that passes, its placement by command work, SCHED_UNLOAD. -/
theorem scheduleImagesLoadAndUnload : Obligations.ScheduleImagesLoadAndUnload := by
  refine ⟨fun s n k c b im h hk hempty hgeneral hfault him hclaims hclash hframes => ?_,
    fun s n k c img host hk hc hacc hop himg hplaced hlen hhost hhigher => ?_, fun s n k c img h hk himg hplaced hsteps => ?_⟩
  · obtain ⟨k', g, c', hrest⟩ := schedLoad_accepted h k im (newPages k (dataPages im (usesIn b (directory b) im (ownNode s))))
    exact ⟨_, k', g, c', exec_schedLoad h hk hempty hgeneral hfault him hclaims hclash hframes, hrest⟩
  · obtain ⟨bs, hbs⟩ := mapM_bytes hhost
    have hplace := placeImage_frame s n k (c.fld 291 288) img bs
    obtain ⟨k', hk', himg'⟩ := placeImage_spec hk (c.fld 291 288) img bs
    obtain ⟨e, he⟩ := energyOnly_endCmd n _ (.ctx n) c.seq { status := stOk, result := img.reserved } k' hk'
    have hcmd : ((ringOf (placeImage s n k (c.fld 291 288) img bs) (.ctx n)).bind fun g => g.cmd c.seq) = some c := by
      rw [hplace.ring (by decide) (by decide)]
      exact hc
    have hhost : (placeImage s n k (c.fld 291 288) img bs).host = s.host := hplace .host (by decide)
    exact ⟨_, _, _, exec_commandWork_sched hk hc hacc hop himg hplaced hlen hbs hhigher, endCmd_ended hcmd (by rw [hhost]) _, he, himg', rfl,
      ((endCmd_frame _ _ _ _).sm_eq (by decide) (by decide)).trans (hplace.sm_eq (by decide) (by decide))⟩
  · have hremove := removeImage_frame s n (c.fld 291 288)
    obtain ⟨k', hk', himages⟩ := removeImage_spec hk himg
    obtain ⟨e, he⟩ := energyOnly_endOk n _ (.ctx n) c 0 k' hk'
    refine ⟨_, _, exec_schedUnload h hk himg hplaced hsteps, endOk_ended h (hremove.ring (by decide) (by decide) _) (hremove .host (by decide)) 0, he, ?_, fun j hj => ?_,
      ((endOk_frame _ _ _ _).sm_eq (by decide) (by decide)).trans (hremove.sm_eq (by decide) (by decide))⟩
    · exact (congrArg (kfind · _) himages).trans ((kfind_kdel _ _ _).trans (if_pos rfl))
    · exact (congrArg (kfind · j) himages).trans ((kfind_kdel _ _ _).trans (if_neg hj))

end Sys2Proof.ScheduleImages


/-! PROOFS of the command family, STEP_RUN and STEP_KILL (O33). -/

namespace Sys2Proof.StepCommands

set_option Elab.async false

open Sys2Proof.Machine Sys2Proof.Safety Sys2Proof.Laws Sys2Proof.Commits Sys2Proof.Timetables Sys2Proof.ContextWork Sys2Proof.Bearings Sys2Proof.RingWork
  Sys2Proof.Fetching Sys2Proof.ScheduleImages Sys2Proof.Checkpoints Sys2Proof.Destruction

/-! ### A command that stands while others of its ring end -/

/-- `c` is the one command of its position on ring `r`. -/
def Sole (r : RingId) (c : Cmd) (s : State) : Prop := ∃ g, ringOf s r = some g ∧ c ∈ g.cmds ∧ ∀ d ∈ g.cmds, d.seq = c.seq → d = c

theorem sole_of_current {s : State} {r : RingId} {op : Nat} {c : Cmd} (h : Current s r op c) : Sole r c s := by
  obtain ⟨-, -, hone⟩ := h
  obtain ⟨g, hg, hfilter⟩ := Option.map_eq_some_iff.mp hone
  have hiff (d : Cmd) : d ∈ g.cmds ∧ d.seq = c.seq ↔ d = c := by
    rw [← List.mem_singleton (a := d), ← hfilter, List.mem_filter, decide_eq_true_eq]
  exact ⟨g, hg, ((hiff c).mpr rfl).1, fun d hd hs => (hiff d).mp ⟨hd, hs⟩⟩

theorem Sole.cmd {r : RingId} {c : Cmd} {s : State} (h : Sole r c s) : ((ringOf s r).bind fun g => g.cmd c.seq) = some c := by
  obtain ⟨g, hg, hin, hone⟩ := h
  rw [hg]
  exact cmd_of_sole hin hone

theorem Sole.of_ringOf {r : RingId} {c : Cmd} {s t : State} (h : Sole r c s) (hr : ringOf t r = ringOf s r) : Sole r c t := by
  obtain ⟨g, hg, hrest⟩ := h
  exact ⟨g, hr.trans hg, hrest⟩

theorem sole_postReply {r : RingId} {c : Cmd} {s : State} (h : Sole r c s) {seq : Nat} (hne : seq ≠ c.seq) (y : Reply) : Sole r c (postReply s r seq y) := by
  obtain ⟨g, hg, hin, hone⟩ := h
  obtain ⟨g', hg', hcmds⟩ := postReply_cmds seq y hg
  refine ⟨g', hg', ?_, fun d hd => hone d ?_⟩
  · rw [hcmds]
    exact List.mem_filter.mpr ⟨hin, decide_eq_true hne.symm⟩
  · rw [hcmds] at hd
    exact (List.mem_filter.mp hd).1

/-- A command whose reply is not held stays as held replies are released. -/
theorem sole_releaseHeld {r : RingId} {c : Cmd} {s : State} (h : Sole r c s) (hheld : c.held = none) : Sole r c (releaseHeld s r) := by
  obtain ⟨g, hg, hin, hone⟩ := id h
  unfold releaseHeld
  rw [hg]
  refine List.foldlRecOn (motive := Sole r c) g.cmds _ h fun u hu d hd => ?_
  split
  · next y n hy _ =>
    split
    · exact hu
    · exact sole_postReply hu (fun hs => by rw [hone d hd hs, hheld] at hy; cases hy) y
  · exact hu

theorem sole_updCmd_of_ne {r : RingId} {c : Cmd} {s : State} (h : Sole r c s) {seq : Nat} (hne : seq ≠ c.seq) (f : Cmd → Cmd) (hf : ∀ c, (f c).seq = c.seq) :
    Sole r c (updCmd s r seq f) := by
  obtain ⟨g, hg, hin, hone⟩ := h
  have hu : ringOf (updCmd s r seq f) r = some { g with cmds := g.cmds.map fun d => if d.seq = seq then f d else d } := by
    rw [updCmd, ringOf_updRing, if_pos rfl, hg]
    rfl
  refine ⟨_, hu, List.mem_map.mpr ⟨c, hin, if_neg hne.symm⟩, fun d hd hs => ?_⟩
  obtain ⟨b, hb, rfl⟩ := List.mem_map.mp hd
  by_cases hbs : b.seq = seq
  · rw [if_pos hbs, hf] at hs
    exact absurd (hbs.symm.trans hs) hne
  · rw [if_neg hbs] at hs ⊢
    exact hone b hb hs

/-- The end of another command leaves one whose reply is not held. -/
theorem sole_endCmd_of_ne {r : RingId} {c : Cmd} {s : State} (h : Sole r c s) (hheld : c.held = none) {seq : Nat} (hne : seq ≠ c.seq) (y : Reply) :
    Sole r c (endCmd s r seq y) := by
  unfold endCmd
  split
  · exact h
  · dsimp only
    split
    · exact sole_updCmd_of_ne h hne _ fun _ => rfl
    · exact sole_releaseHeld (sole_postReply h hne _) hheld

theorem sole_updCmd_self {r : RingId} {c : Cmd} {s : State} (h : Sole r c s) (f : Cmd → Cmd) (hf : ∀ c, (f c).seq = c.seq) : Sole r (f c) (updCmd s r c.seq f) := by
  obtain ⟨g, hg, hin, hone⟩ := h
  have hu : ringOf (updCmd s r c.seq f) r = some { g with cmds := g.cmds.map fun d => if d.seq = c.seq then f d else d } := by
    rw [updCmd, ringOf_updRing, if_pos rfl, hg]
    rfl
  refine ⟨_, hu, List.mem_map.mpr ⟨c, hin, if_pos rfl⟩, fun d hd hs => ?_⟩
  obtain ⟨b, hb, rfl⟩ := List.mem_map.mp hd
  by_cases hbs : b.seq = c.seq
  · rw [if_pos hbs, hone b hb hbs]
  · rw [if_neg hbs, hf] at hs
    exact absurd hs hbs

theorem sole_acceptCmd {r : RingId} {c : Cmd} {s : State} (h : Sole r c s) (hheld : c.held = none) :
    Sole r (markAccepted s.clk.uptime c) (acceptCmd s r c.seq) := by
  rw [acceptCmd_eq]
  exact sole_releaseHeld (sole_updCmd_self h _ fun _ => rfl) hheld

/-! ### The numbers of host writes -/

theorem NextIdLe.trans {s t u : State} (h : NextIdLe s t) (k : NextIdLe t u) : NextIdLe s u := Nat.le_trans h k

theorem nextIdLe_postEntry (s : State) (r : RingId) (path : HwPath) (b : Bytes) : NextIdLe s (postEntry s r path b) := by
  cases hg : ringOf s r with
  | none =>
    unfold postEntry
    rw [hg]
    exact Nat.le_refl _
  | some g =>
    obtain ⟨-, -, -, hle⟩ := postEntry_spec path b hg
    exact hle

theorem nextIdLe_postReply (s : State) (r : RingId) (seq : Nat) (y : Reply) : NextIdLe s (postReply s r seq y) :=
  ((nextIdLe_of_frame (bookAccepted_frame s r seq) (by decide)).trans (nextIdLe_of_frame (updRing_frame _ r _) (by decide))).trans (nextIdLe_postEntry _ r _ _)

theorem nextIdLe_endCmd (s : State) (r : RingId) (seq : Nat) (y : Reply) : NextIdLe s (endCmd s r seq y) :=
  endCmd_induction r seq y (Nat.le_refl _) (fun u seq y hu => NextIdLe.trans hu (nextIdLe_postReply u r seq y)) fun f => nextIdLe_of_frame (updCmd_frame s r seq f) (by decide)

theorem nextIdLe_unclaimed (s : State) (x : Step) (status : Nat) : NextIdLe s (unclaimed s x status) :=
  unclaimed_induction (P := NextIdLe s) x status (Nat.le_refl _) (fun _ => nextIdLe_of_frame (bookFiller_frame s x) (by decide))
    (fun _ hu => hu) (fun u hu => NextIdLe.trans hu (nextIdLe_of_frame (learnKill_frame u x) (by decide))) (fun _ _ hu => hu)
    (fun u hu => NextIdLe.trans hu (nextIdLe_of_frame (openWrites_frame u x) (by decide)))
    (fun u hu => NextIdLe.trans hu (nextIdLe_of_frame (noteSums_frame u x) (by decide))) fun _ hu => hu

/-! ### The end of a step and the commands of its ring -/

theorem ended_ctx (x : Step) (status : Nat) : (x.ended status).ctx = x.ctx := by
  unfold Step.ended
  split <;> rfl

theorem ended_seq (x : Step) (status : Nat) : (x.ended status).seq = x.seq := by
  unfold Step.ended
  split <;> rfl

theorem sole_replyStep {c : Cmd} {s : State} {x : Step} (h : Sole (.ctx x.ctx) c s) (hheld : c.held = none) (hne : x.seq ≠ c.seq) (y : Reply) :
    Sole (.ctx x.ctx) c (replyStep s x y) := by
  have hring : ringOf (replyStep s x y) (.ctx x.ctx) = ringOf (endCmd (answeredState s x) (.ctx x.ctx) x.seq (stepReply x y)) (.ctx x.ctx) :=
    ((stoppingEnd_frame _ _).ring (by decide) (by decide) _).trans ((dropStep_frame _ _).ring (by decide) (by decide) _)
  exact (sole_endCmd_of_ne (h.of_ringOf ((answeredState_frame s x).ring (by decide) (by decide) _)) hheld hne _).of_ringOf hring

theorem nextIdLe_replyStep (s : State) (x : Step) (y : Reply) : NextIdLe s (replyStep s x y) := by
  have hhost : (replyStep s x y).host = (endCmd (answeredState s x) (.ctx x.ctx) x.seq (stepReply x y)).host := stoppingEnd_frame _ _ .host (by decide)
  unfold NextIdLe
  rw [hhost]
  exact Nat.le_trans (nextIdLe_answeredState s x) (nextIdLe_endCmd _ _ _ _)

/-- Before its reply the end of a step leaves its ring. -/
theorem ringOf_unclaimed (s : State) (x : Step) (status : Nat) (r : RingId) : ringOf (wcRelease (unclaimed s x status) x.id) r = ringOf s r :=
  ((wcRelease_frame _ x.id).ring (by decide) (by decide) _).trans ((unclaimed_frame s x status).ring (by decide) (by decide) _)

/-- The end of a step leaves a command of its ring that is not the step's own. -/
theorem sole_endStep {c : Cmd} {s : State} {x : Step} (h : Sole (.ctx x.ctx) c s) (hheld : c.held = none) (hne : x.seq ≠ c.seq) (y : Reply) :
    Sole (.ctx x.ctx) c (endStep s x y) := by
  rw [endStep_eq, ← ended_ctx x y.status]
  rw [← ended_ctx x y.status] at h
  exact sole_replyStep (h.of_ringOf (ringOf_unclaimed s x y.status _)) hheld (by rwa [ended_seq]) y

theorem nextIdLe_endStep (s : State) (x : Step) (y : Reply) : NextIdLe s (endStep s x y) := by
  rw [endStep_eq]
  exact NextIdLe.trans (nextIdLe_unclaimed s x y.status) (nextIdLe_replyStep (wcRelease (unclaimed s x y.status) x.id) _ y)

/-- The STEP_RUN of a step that ends is answered at once (R368). -/
theorem endStep_posts {s : State} {x : Step} {g : Ring} {q : Cmd} (y : Reply) (hg : ringOf s (.ctx x.ctx) = some g) (hq : g.cmd x.seq = some q)
    (hop : q.opcode = 0x0040) (hf : q.cfence = false) : ∃ w ∈ (endStep s x y).host.writes, s.host.nextId ≤ w.id ∧ w.path = .status ∧
      w.bytes = replyBytes { stepReply (x.ended y.status) y with opcode := q.opcode, seq := q.seqNo, ctx := some x.ctx } := by
  have hring := (ringOf_unclaimed s x y.status (.ctx x.ctx)).trans hg
  rw [endStep_eq]
  obtain ⟨w, hw, hid, hpath, hbytes⟩ := replyStep_posts (s := wcRelease (unclaimed s x y.status) x.id) (x := x.ended y.status) y
    (by rw [ended_ctx]; exact hring) (by rw [ended_seq]; exact hq) hop hf
  rw [ended_ctx] at hbytes
  exact ⟨w, hw, Nat.le_trans (nextIdLe_unclaimed s x y.status) hid, hpath, hbytes⟩

/-! ### STEP_RUN (R366) -/

theorem exec_stepRun {s : State} {n : Nat} {k : Ctx} {c : Cmd} {img : Image} (h : Current s (.ctx n) 0x0040 c) (hk : ctxOf s n = some k)
    (himg : loadedImage k (c.fld 291 288) = some img) (hspoiled : img.spoiled = false) (hfault : stepRunFault s k c img = none) :
    ∃ u, exec (.stepRun (.ctx n)) s = .next { u with steps := u.steps ++ [newStep u n c], sched := { u.sched with nextStep := u.sched.nextStep + 1 } } ∧
      u.steps = s.steps ∧ u.sched = s.sched ∧ Sole (.ctx n) (markAccepted s.clk.uptime c) u := by
  have hset : Frame [.ctxs] s (setCtx s n ((boundPages k img (bindingList c)).foldl mapPage k)) := setCtx_frame _ _ _
  have haccept := acceptCmd_frame (setCtx s n ((boundPages k img (bindingList c)).foldl mapPage k)) (.ctx n) c.seq
  refine ⟨acceptCmd (setCtx s n ((boundPages k img (bindingList c)).foldl mapPage k)) (.ctx n) c.seq, ?_, haccept .steps (by decide), haccept .sched (by decide),
    sole_acceptCmd ((sole_of_current h).of_ringOf (hset.ring (by decide) (by decide) _)) (held_of_current h)⟩
  show execStepRun (.ctx n) s = _
  unfold execStepRun
  rw [withCtxCmd_current h hk, himg, Option.filter_some, hspoiled, Bool.not_false, if_pos rfl]
  dsimp only
  rw [hfault]

theorem stepRun_queues {s : State} {n : Nat} {k : Ctx} {c : Cmd} {img : Image} (h : Current s (.ctx n) 0x0040 c) (hk : ctxOf s n = some k)
    (himg : loadedImage k (c.fld 291 288) = some img) (hspoiled : img.spoiled = false) (hfault : stepRunFault s k c img = none) :
    ∃ t x g c', exec (.stepRun (.ctx n)) s = .next t ∧ t.steps = s.steps ++ [x] ∧ x.state = .queued ∧ x.ctx = n ∧ x.slot = c.fld 291 288 ∧
      x.number = c.fld 351 320 ∧ x.bindings = bindingList c ∧ x.resultAddr = c.resultAddr ∧ x.resultBytes = c.resultBytes ∧ x.attempt = 0 ∧
      x.id = s.sched.nextStep ∧ t.sched.nextStep = s.sched.nextStep + 1 ∧ ringOf t (.ctx n) = some g ∧ g.cmd c.seq = some c' ∧ c'.accepted = true := by
  obtain ⟨u, hexec, hsteps, hsched, hsole⟩ := exec_stepRun h hk himg hspoiled hfault
  obtain ⟨g, hg, hc⟩ := Option.bind_eq_some_iff.mp hsole.cmd
  exact ⟨_, newStep u n c, g, _, hexec, congrArg (· ++ [newStep u n c]) hsteps, rfl, rfl, rfl, rfl, rfl, rfl, rfl, rfl, congrArg (·.nextStep) hsched,
    congrArg (·.nextStep + 1) hsched, hg, hc, rfl⟩

/-! ### STEP_KILL (R173, R366) -/

/-- The step that STEP_KILL names is the one its TARGET's STEP_RUN began. -/
theorem find_target {s : State} {x : Step} {n : Nat} {p : Step → Bool} (hx : stepOf s x.id = some x) (hn : x.ctx = n) (hp : p x = true)
    (honly : ∀ y ∈ s.steps, y.ctx = n → y.id ≠ x.id → p y = false) : ((s.steps.filter fun x => decide (x.ctx = n)).find? p) = some x := by
  obtain ⟨-, before, after, hsteps, hbefore⟩ := List.find?_eq_some_iff_append.mp hx
  have hnone : (before.filter fun x => decide (x.ctx = n)).find? p = none := by
    refine List.find?_eq_none.mpr fun y hy => ?_
    obtain ⟨hy, hctx⟩ := List.mem_filter.mp hy
    rw [honly y (hsteps ▸ List.mem_append_left _ hy) (of_decide_eq_true hctx) (by simpa using hbefore y hy)]
    exact Bool.false_ne_true
  rw [hsteps, List.filter_append, List.find?_append, hnone, List.filter_cons_of_pos (by simpa using hn), List.find?_cons_of_pos hp]
  rfl

theorem exec_stepKill {s : State} {n : Nat} {k : Ctx} {c : Cmd} {x : Step} {g : Ring} {q : Cmd} (h : Current s (.ctx n) 0x0041 c) (hk : ctxOf s n = some k)
    (hg : ringOf s (.ctx n) = some g) (hone : c.fld 320 320 = 0) (hx : stepOf s x.id = some x) (hn : x.ctx = n) (hq : g.cmd x.seq = some q)
    (htarget : q.seqNo = c.fld 319 288)
    (honly : ∀ y ∈ s.steps, y.ctx = n → y.id ≠ x.id → (g.cmd y.seq).map Cmd.seqNo ≠ some (c.fld 319 288)) :
    exec (.stepKill (.ctx n)) s = .next (endOk (payOwed (killStep s x)) (.ctx n) c 0) := by
  have hfind : ((s.steps.filter fun x => decide (x.ctx = n)).find?
      fun x => decide (((ringOf s (.ctx n)).bind fun g => (g.cmd x.seq).map Cmd.seqNo) = some (c.fld 319 288))) = some x := by
    refine find_target hx hn ?_ fun y hy hctx hid => ?_
    · rw [hg, Option.bind_some, hq, Option.map_some, htarget, decide_eq_true rfl]
    · rw [hg, Option.bind_some]
      exact decide_eq_false (honly y hy hctx hid)
  show execStepKill (.ctx n) s = _
  unfold execStepKill
  rw [withCtxCmd_current h hk]
  dsimp only
  rw [if_neg (by omega), hfind]

/-- An accepted command whose reply is not held ends with ST_OK, also where its work has changed its ring. -/
theorem endOk_ended_of_sole {s u : State} {r : RingId} {c : Cmd} (h : Sole r c u) (hheld : c.held = none) (hid : NextIdLe s u) (result : Nat) :
    Ended s (endOk u r c result) r c stOk result :=
  endCmd_ended (c := markAccepted u.clk.uptime c) (sole_acceptCmd h hheld).cmd (Nat.le_trans hid (nextId_le_acceptCmd u r c.seq)) { status := stOk, result := result }

theorem stepOf_endStep_of_ne {s : State} {x : Step} {i : Nat} (hi : i ≠ x.id) (y : Reply) : stepOf (endStep s x y) i = stepOf s i := by
  unfold stepOf
  rw [steps_endStep, List.find?_filter]
  congr 1
  funext z
  by_cases hz : z.id = i
  · simp [hz, hi]
  · simp [hz]

theorem stepKill_ends {s : State} {n : Nat} {k : Ctx} {c q : Cmd} {x : Step} {g : Ring} (h : Current s (.ctx n) 0x0041 c) (hk : ctxOf s n = some k)
    (hg : ringOf s (.ctx n) = some g) (hone : c.fld 320 320 = 0) (hx : stepOf s x.id = some x) (hn : x.ctx = n) (hq : g.cmd x.seq = some q)
    (htarget : q.seqNo = c.fld 319 288) (hseq : x.seq ≠ c.seq)
    (honly : ∀ y ∈ s.steps, y.ctx = n → y.id ≠ x.id → (g.cmd y.seq).map Cmd.seqNo ≠ some (c.fld 319 288))
    (hcommit : x.state ≠ .committed) (hhold : x.state ≠ .hold) (hpast : pastCommit s x = false) (howing : s.sched.owing = []) (hfollows : s.sched.follows = [])
    (hop : q.opcode = 0x0040) (hfence : q.cfence = false) :
    ∃ t, exec (.stepKill (.ctx n)) s = .next t ∧ stepOf t x.id = none ∧ (∀ i, i ≠ x.id → stepOf t i = stepOf s i) ∧ Ended s t (.ctx n) c 0 0 ∧
      ∃ w ∈ t.host.writes, s.host.nextId ≤ w.id ∧ w.path = .status ∧
        w.bytes = replyBytes { stepReply (x.ended stKilled) { status := stKilled } with opcode := q.opcode, seq := q.seqNo, ctx := some n } := by
  have hkill : killStep s x = endStep s x (plain stKilled) := by
    unfold killStep
    rw [if_neg (by simp [hcommit, hhold, hpast])]
  have hsched : (endStep s x (plain stKilled)).sched = s.sched := endStep_frame s x _ .sched (by decide)
  have hpay : payOwed (killStep s x) = endStep s x (plain stKilled) := by
    rw [hkill]
    exact payOwed_of_none (by rw [hsched, howing]) (by rw [hsched, hfollows])
  have hexec := exec_stepKill h hk hg hone hx hn hq htarget honly
  rw [hpay] at hexec
  have hend := endOk_frame (endStep s x (plain stKilled)) (.ctx n) c 0
  subst hn
  have hsole : Sole (.ctx x.ctx) c (endStep s x (plain stKilled)) := sole_endStep (sole_of_current h) (held_of_current h) hseq _
  obtain ⟨w, hw, hid, hpath, hbytes⟩ := endStep_posts (plain stKilled) hg hq hop hfence
  refine ⟨_, hexec, ?_, fun i hi => ?_, endOk_ended_of_sole hsole (held_of_current h) (nextIdLe_endStep s x _) 0,
    w, mem_writes_endCmd _ _ _ (ContextCommands.mem_writes_acceptCmd _ _ hw), hid, hpath, hbytes⟩
  · rw [stepOf_eq_of_frame hend (by decide), stepOf_endStep_self]
  · rw [stepOf_eq_of_frame hend (by decide), stepOf_endStep_of_ne hi]

/-- Settles O33: STEP_RUN that passes, and STEP_KILL of a step before its commit point. -/
theorem stepsAreQueuedAndKilled : Obligations.StepsAreQueuedAndKilled :=
  ⟨fun _ _ _ _ _ h hk himg hspoiled hfault => stepRun_queues h hk himg hspoiled hfault,
    fun _ _ _ _ _ _ _ h hk hg hone hx hn hq htarget hseq honly hcommit hhold hpast howing hfollows hop hfence =>
      stepKill_ends h hk hg hone hx hn hq htarget hseq honly hcommit hhold hpast howing hfollows hop hfence⟩

end Sys2Proof.StepCommands


/-! PROOFS of the service commands, ENERGY_READ, ATTEST_REPORT, DIAG_RUN and what a command's timeout leaves (O56). -/

namespace Sys2Proof.ServiceCommands

set_option Elab.async false

open Sys2Proof.Machine Sys2Proof.Safety Sys2Proof.Laws Sys2Proof.Commits Sys2Proof.Timetables Sys2Proof.ContextWork Sys2Proof.Bearings Sys2Proof.RingWork
  Sys2Proof.Checkpoints Sys2Proof.ContextCommands Sys2Proof.ScheduleImages Sys2Proof.StepCommands Sys2Proof.PowerSensors Sys2Proof.OptimiserWords

/-! ### Commands that write a result buffer (R352) -/

/-- A command that writes its result buffer and replies ST_OK. -/
theorem writeResult_endOk {s u : State} {r : RingId} {op : Nat} {c : Cmd} (h : Current s r op c) (hu : Frame [.free] s u) (b : Bytes) (result : Nat)
    {loc : Nat → Option Nat} (hwritten : ResultWritten s (writeResult u r c.resultAddr b) loc b) :
    let t := endOk (writeResult u r c.resultAddr b) r c result
    Ended s t r c stOk result ∧ t.steps = s.steps ∧ ResultWritten s t loc b := by
  intro t
  have hwrite := writeResult_frame u r c.resultAddr b
  have hid : NextIdLe s (writeResult u r c.resultAddr b) := (nextIdLe_of_frame hu (by decide)).trans (nextIdLe_writeResult u r c.resultAddr b)
  refine ⟨endOk_ended_of_nextIdLe h ((hwrite.ring (by decide) (by decide) r).trans (hu.ring (by decide) (by decide) r)) hid result, ?_,
    resultWritten_endOk hwritten r c result⟩
  exact Eq.trans (endOk_frame _ r c result .steps (by decide)) (Eq.trans (hwrite .steps (by decide)) (hu .steps (by decide)))

theorem exec_energyRead_admin {s : State} {c : Cmd} (h : Current s .admin 0x00A1 c) (hlen : 2304 ≤ c.resultBytes) :
    exec (.energyRead .admin) s = .next (endOk (writeResult s .admin c.resultAddr (moduleEnergyBytes s)) .admin c 0) := by
  show execEnergyRead .admin s = _
  unfold execEnergyRead
  rw [withCmd_current h]
  dsimp only
  rw [if_neg (by omega)]

theorem exec_energyRead_ctx {s : State} {n : Nat} {k : Ctx} {c : Cmd} (h : Current s (.ctx n) 0x00A1 c) (hk : ctxOf s n = some k) (hlen : 128 ≤ c.resultBytes) :
    exec (.energyRead (.ctx n)) s = .next (endOk (writeResult s (.ctx n) c.resultAddr (energyBytes s.clk.uptime k.energy)) (.ctx n) c 0) := by
  show execEnergyRead (.ctx n) s = _
  unfold execEnergyRead
  rw [withCmd_current h]
  dsimp only
  rw [hk]
  dsimp only
  rw [if_neg (by omega)]

/-- The bytes that ATTEST_REPORT writes about `who` (R393). -/
def attestBytes (s : State) (c : Cmd) (who : Option (Nat × Ctx)) : Bytes :=
  reportBody s c.param who ++ slice (Config.identitySign (Config.freeValue s.free) (reportBody s c.param who)) 0 512 ++ certBytes

theorem exec_attestReport_admin {s : State} {c : Cmd} (h : Current s .admin 0x00C0 c) (hlen : 8192 ≤ c.resultBytes) :
    exec (.attestReport .admin) s = .next (endOk (writeResult (takeFree s).2 .admin c.resultAddr (attestBytes s c none)) .admin c reportLength) := by
  show execAttestReport .admin s = _
  unfold execAttestReport
  rw [withCmd_current h]
  dsimp only
  rw [if_neg Bool.false_ne_true, if_neg (by omega)]
  rfl

theorem exec_attestReport_ctx {s : State} {n : Nat} {k : Ctx} {c : Cmd} (h : Current s (.ctx n) 0x00C0 c) (hk : ctxOf s n = some k)
    (hlive : k.destroying = none) (hlen : 8192 ≤ c.resultBytes) :
    exec (.attestReport (.ctx n)) s =
      .next (endOk (writeResult (takeFree s).2 (.ctx n) c.resultAddr (attestBytes s c (some (n, k)))) (.ctx n) c reportLength) := by
  show execAttestReport (.ctx n) s = _
  unfold execAttestReport
  rw [withCmd_current h]
  dsimp only
  rw [hk, Option.map_some]
  dsimp only
  rw [if_neg (by simp [hlive]), if_neg (by omega)]
  rfl

/-! ### DIAG_RUN and the end of its test (R394, R395) -/

theorem diagRun_enters {s : State} {c : Cmd} (h : Current s .admin 0x00F0 c) (hctxs : s.ctxs = []) (hdiag : s.diag = none)
    (hrecovery : s.power.recovery = false) (hready : s.boot.ready = true) :
    ∃ t g c' d, exec (.diagRun .admin) s = .next t ∧ t.power.mode = .test ∧ t.diag = some d ∧ t.admin = some g ∧ g.cmd c.seq = some c' ∧
      c'.accepted = true ∧ c'.held = none ∧ t.sm = s.sm := by
  have hframe := acceptCmd_frame s .admin c.seq
  obtain ⟨g, hg, hc⟩ := Option.bind_eq_some_iff.mp (acceptCmd_keeps_cmd h rfl)
  have hexec : exec (.diagRun .admin) s = .next (setMode { acceptCmd s .admin c.seq with
      diag := some ⟨c.seq, c.fld 295 288⟩, power := { s.power with testing := true } }) := by
    show execDiagRun .admin s = _
    unfold execDiagRun
    rw [withCmd_current h, if_neg (by simp [hctxs, hdiag])]
  refine ⟨_, g, _, _, hexec, ?_, rfl, hg, hc, rfl, (held_of_current h :), hframe.sm_eq (by decide) (by decide)⟩
  have hboot : (acceptCmd s .admin c.seq).boot = s.boot := hframe .boot (by decide)
  show modeNow _ = .test
  unfold modeNow
  dsimp only
  rw [hrecovery, hboot, hready]
  rfl

theorem mode_endTest (s : State) : (endTest s).power.mode ≠ .test := by
  show modeNow { s with diag := none, power := { s.power with testing := false } } ≠ .test
  unfold modeNow
  dsimp only
  rw [if_neg Bool.false_ne_true]
  split
  · exact PMode.noConfusion
  · split <;> exact PMode.noConfusion

/-- Test mode is left whatever the command that ends it replies. -/
theorem endCmd_endTest_leaves (s : State) (f : Nat) (seq : Nat) (y : Reply) : let t := endCmd { endTest s with free := f } .admin seq y
    t.diag = none ∧ t.power.testing = false ∧ t.power.mode ≠ .test := by
  intro t
  have hpower : PowerBooked { endTest s with free := f } t := powerBooked_endCmd _ .admin seq y
  have hdiag : t.diag = none := endCmd_frame _ .admin seq y .diag (by decide)
  unfold PowerBooked at hpower
  exact ⟨hdiag, by rw [hpower]; rfl, by rw [hpower]; exact mode_endTest s⟩

theorem diagTestComplete_leaves {s : State} (failed : Nat) {c : Cmd} {d : Diag} (hd : s.diag = some d)
    (hc : ((ringOf s .admin).bind fun g => g.cmd c.seq) = some c) (hseq : d.seq = c.seq) :
    ∃ t, exec (.diagTestComplete failed) s = .next t ∧ Ended s t .admin c 0 failed ∧ t.diag = none ∧ t.power.testing = false ∧ t.power.mode ≠ .test := by
  obtain ⟨u, hu, hid, hexec⟩ : ∃ u, Frame [.host, .free] s u ∧ NextIdLe s u ∧ exec (.diagTestComplete failed) s =
      .next (endCmd (endTest u) .admin c.seq { status := stOk, result := failed }) := by
    have htest := testResults_frame s
    have hwrite := writeResult_frame (testResults s).1 .admin c.resultAddr (testResults s).2
    have hexec : exec (.diagTestComplete failed) s = .next (endCmd (endTest (if 64 ≤ c.resultBytes then
        writeResult (testResults s).1 .admin c.resultAddr (testResults s).2 else s)) .admin c.seq { status := stOk, result := failed }) := by
      show execDiagTestComplete failed s = _
      unfold execDiagTestComplete
      rw [hd]
      dsimp only
      rw [hseq, show (s.admin.bind fun g => g.cmd c.seq) = some c from hc]
    split at hexec
    · exact ⟨_, (htest.mono (by decide)).trans (hwrite.mono (by decide)), (nextIdLe_of_frame htest (by decide)).trans (nextIdLe_writeResult ..), hexec⟩
    · exact ⟨s, .refl _ s, Nat.le_refl _, hexec⟩
  have hring : ringOf (endTest u) .admin = ringOf s .admin :=
    ((endTest_frame u).ring (by decide) (by decide) .admin).trans (hu.ring (by decide) (by decide) .admin)
  exact ⟨_, hexec, endCmd_ended (by rw [hring]; exact hc) (NextIdLe.trans hid (nextIdLe_of_frame (endTest_frame u) (by decide))) _,
    endCmd_endTest_leaves u u.free c.seq _⟩

/-! ### Commands that their timeout ends (R369) -/

section Timeout

variable {s : State} {r : RingId} {n : Nat} {c : Cmd}

/-- The work that a timeout ends is that of the command's opcode. -/
theorem execCommandTimeout_accepted (hc : ((ringOf s r).bind fun g => g.cmd c.seq) = some c) (hacc : c.accepted = true) (hheld : c.held = none) :
    exec (.commandTimeout r c.seq) s =
      match (generalizing := false) r, c.opcode with
      | .ctx n, 0x0020 => .next (endCmd (removeImage s n (c.fld 291 288)) r c.seq timeoutReply)
      | .ctx n, 0x0050 => .next (abortLoad s n timeoutReply)
      | .admin, 0x0050 => .next (installTimeout s c)
      | .ctx n, 0x0070 => .next (ckptTimeout s n c.seq)
      | .ctx _, 0x0072 => .next (endCmd s r c.seq timeoutReply)
      | .admin, 0x0090 => .next (payOwed (retireTimeout s c.seq))
      | .admin, 0x00F0 => .next (diagTimeout s c.seq)
      | _, _ => .next s := by
  show execCommandTimeout r c.seq s = _
  unfold execCommandTimeout
  rw [hc]
  dsimp only
  rw [hacc, hheld]
  exact (if_neg (by decide)).trans rfl

/-- The context's ring still has the command after work that leaves the rings. -/
theorem endCmd_ended_of_frame {l : List Part} {u : State} (hc : ((ringOf s r).bind fun g => g.cmd c.seq) = some c) (hu : Frame l s u)
    (hadmin : Part.admin ∉ l) (hrings : Part.rings ∉ l) (hid : NextIdLe s u) (y : Reply) : Ended s (endCmd u r c.seq y) r c y.status y.result :=
  endCmd_ended (by rw [hu.ring hadmin hrings]; exact hc) hid y

theorem schedLoad_timesOut (hc : ((ringOf s (.ctx n)).bind fun g => g.cmd c.seq) = some c) (hacc : c.accepted = true) (hheld : c.held = none)
    (hop : c.opcode = 0x0020) : ∃ t, exec (.commandTimeout (.ctx n) c.seq) s = .next t ∧ Ended s t (.ctx n) c stTimeout 0 ∧
      ∀ k', ctxOf t n = some k' → kfind k'.images (c.fld 291 288) = none := by
  have hexec := execCommandTimeout_accepted hc hacc hheld
  rw [hop] at hexec
  have hremove := removeImage_frame s n (c.fld 291 288)
  refine ⟨_, hexec, endCmd_ended_of_frame hc hremove (by decide) (by decide) (nextIdLe_of_frame hremove (by decide)) timeoutReply, fun k' hk' => ?_⟩
  have himages : ∀ k, ctxOf (removeImage s n (c.fld 291 288)) n = some k → kfind k.images (c.fld 291 288) = none := by
    intro k hk
    cases himg : (ctxOf s n).bind fun k => kfind k.images (c.fld 291 288) with
    | none =>
      have hsame : removeImage s n (c.fld 291 288) = s := by
        unfold removeImage
        rw [himg]
      rw [hsame] at hk
      rwa [hk, Option.bind_some] at himg
    | some img =>
      obtain ⟨k₀, hk₀, himg⟩ := Option.bind_eq_some_iff.mp himg
      obtain ⟨k₁, hk₁, hdel⟩ := removeImage_spec hk₀ himg
      rw [hk] at hk₁
      cases hk₁
      rw [hdel, kfind_kdel, if_pos rfl]
  have hsame := Destruction.sameCtxs_endCmd (removeImage s n (c.fld 291 288)) (.ctx n) c.seq timeoutReply n
  rw [hk', Option.isSome_some] at hsame
  obtain ⟨k, hk⟩ := Option.isSome_iff_exists.mp hsame.symm
  obtain ⟨e, he⟩ := energyOnly_endCmd n _ (.ctx n) c.seq timeoutReply k hk
  cases he.symm.trans hk'
  exact himages k hk

theorem ckptRestore_timesOut {k : Ctx} (hc : ((ringOf s (.ctx n)).bind fun g => g.cmd c.seq) = some c) (hacc : c.accepted = true) (hheld : c.held = none)
    (hop : c.opcode = 0x0072) (hk : ctxOf s n = some k) : ∃ t k', exec (.commandTimeout (.ctx n) c.seq) s = .next t ∧
      Ended s t (.ctx n) c stTimeout 0 ∧ ctxOf t n = some k' ∧ k' = { k with energy := k'.energy } := by
  have hexec := execCommandTimeout_accepted hc hacc hheld
  rw [hop] at hexec
  obtain ⟨e, he⟩ := energyOnly_endCmd n s (.ctx n) c.seq timeoutReply k hk
  exact ⟨_, _, hexec, endCmd_ended hc (Nat.le_refl _) timeoutReply, he, rfl⟩

/-- A stream that its timeout ends leaves no base or stop behind. -/
theorem ckptStream_timesOut {k : Ctx} {q : CkptStream} (hc : ((ringOf s (.ctx n)).bind fun g => g.cmd c.seq) = some c) (hacc : c.accepted = true)
    (hheld : c.held = none) (hop : c.opcode = 0x0070) (hk : ctxOf s n = some k) (hq : k.sender = some q) (hstop : q.stopping = none) :
    ∃ t k', exec (.commandTimeout (.ctx n) c.seq) s = .next t ∧ Ended s t (.ctx n) c stTimeout 0 ∧ ctxOf t n = some k' ∧ k'.sender = none ∧
      k'.ckptWait = none ∧ ∀ f ∈ t.slory.tx, ¬ (f.op = 5 ∧ f.ctx = n) := by
  have hexec := execCommandTimeout_accepted hc hacc hheld
  rw [hop] at hexec
  have hwork : ckptTimeout s n c.seq = endCmd (endSender (setCtx s n { k with ckptWait := none }) n q) (.ctx n) c.seq timeoutReply := by
    unfold ckptTimeout
    rw [hk]
    dsimp only
    split
    · next p hp =>
      cases hp.symm.trans hq
      rfl
    · next hp => cases hp.symm.trans hq
  replace hexec := hexec.trans (congrArg Host.Outcome.next hwork)
  generalize hu : endSender (setCtx s n { k with ckptWait := none }) n q = u at hexec
  unfold endSender at hu
  rw [hstop] at hu
  dsimp only at hu
  have hkeep : Frame [.ctxs, .slory] s u := by
    rw [← hu]
    exact ((setCtx_frame s n _).mono (by decide)).trans (((updCtx_frame _ n _).mono (by decide)).trans (.upd rfl (.refl _ _)))
  have hctx : ctxOf u n = some { k with ckptWait := none, sender := none } := by
    rw [← hu]
    show ctxOf (updCtx _ n _) n = _
    rw [ctxOf_updCtx, if_pos rfl, ctxOf_setCtx_self]
    rfl
  have htx : ∀ f ∈ u.slory.tx, ¬ (f.op = 5 ∧ f.ctx = n) := by
    intro f hf
    rw [← hu] at hf
    exact of_decide_eq_false ((Bool.not_eq_true' _).mp (List.mem_filter.mp hf).2)
  obtain ⟨e, he⟩ := energyOnly_endCmd n u (.ctx n) c.seq timeoutReply _ hctx
  have hslory : (endCmd u (.ctx n) c.seq timeoutReply).slory = u.slory := endCmd_frame u (.ctx n) c.seq _ .slory (by decide)
  refine ⟨_, _, hexec, endCmd_ended_of_frame hc hkeep (by decide) (by decide) (nextIdLe_of_frame hkeep (by decide)) timeoutReply, he, rfl, rfl, ?_⟩
  rw [hslory]
  exact htx

/-- An installation that its timeout ends leaves its slot empty. -/
theorem install_timesOut (hc : ((ringOf s .admin).bind fun g => g.cmd c.seq) = some c) (hacc : c.accepted = true) (hheld : c.held = none)
    (hop : c.opcode = 0x0050) (hinstall : installCmd s (c.fld 295 292) = some c) :
    ∃ t, exec (.commandTimeout .admin c.seq) s = .next t ∧ Ended s t .admin c stTimeout 0 ∧ kget {} t.store.slots (c.fld 295 292) = {} := by
  have hexec := execCommandTimeout_accepted hc hacc hheld
  rw [hop] at hexec
  replace hexec : exec (.commandTimeout .admin c.seq) s = .next (installTimeout s c) := hexec
  unfold installTimeout at hexec
  dsimp only at hexec
  generalize hu : ({ s with host := _, store := _ } : State) = u at hexec
  have hkeep : Frame [.host, .store] s u := by
    rw [← hu]
    exact .upd rfl (.refl _ _)
  have hid : NextIdLe s u := by
    rw [← hu]
    exact Nat.le_refl _
  have hcmd : installCmd u (c.fld 295 292) = some c := by
    rw [← hu]
    exact hinstall
  unfold endInstall at hexec
  rw [hcmd] at hexec
  have hset : Frame [.host, .store] s (setSlot u (c.fld 295 292) {}) := hkeep.trans ((setSlot_frame u _ _).mono (by decide))
  refine ⟨_, hexec, endCmd_ended_of_frame hc hset (by decide) (by decide) (NextIdLe.trans hid (nextIdLe_of_frame (setSlot_frame u _ _) (by decide))) timeoutReply, ?_⟩
  rw [endCmd_frame _ .admin c.seq timeoutReply .store (by decide)]
  show kget {} (kput u.store.slots _ _) _ = _
  rw [kget_kput, if_pos rfl]

theorem diagRun_timesOut (hc : ((ringOf s .admin).bind fun g => g.cmd c.seq) = some c) (hacc : c.accepted = true) (hheld : c.held = none)
    (hop : c.opcode = 0x00F0) : ∃ t failed, exec (.commandTimeout .admin c.seq) s = .next t ∧ Ended s t .admin c stTimeout failed ∧ t.diag = none ∧
      t.power.testing = false ∧ t.power.mode ≠ .test := by
  have hexec := execCommandTimeout_accepted hc hacc hheld
  rw [hop] at hexec
  have htest : Frame [.power, .diag, .free] s (takeFree (endTest s)).2 := ((endTest_frame s).mono (by decide)).trans ((takeFree_frame _).mono (by decide))
  exact ⟨_, _, hexec, endCmd_ended_of_frame hc htest (by decide) (by decide) (nextIdLe_of_frame htest (by decide)) _,
    endCmd_endTest_leaves s (s.free + 1) c.seq _⟩

/-! ### A retirement that its timeout ends (R250, R369) -/

theorem undoRetire_keeps {u : State} {key : Nat} (seq : Nat) (w : StoreWrite) (h : kfind u.store.retired key = none) :
    kfind (undoRetire seq u w).store.retired key = none := by
  unfold undoRetire
  split
  · split
    · show kfind (kdel u.store.retired _) key = none
      rw [kfind_kdel]
      split
      · rfl
      · exact h
    · exact h
  · exact h

theorem undoRetire_own (u : State) (seq b g k : Nat) : kfind (undoRetire seq u (.retire b g k (some seq))).store.retired (granKey b g) = none := by
  show kfind (if seq = seq then _ else u : State).store.retired _ = none
  rw [if_pos rfl]
  show kfind (kdel u.store.retired _) _ = none
  rw [kfind_kdel, if_pos rfl]

theorem undoRetires_retired (seq : Nat) {b g k : Nat} : ∀ {l : List StoreWrite} {u : State}, StoreWrite.retire b g k (some seq) ∈ l →
    kfind (l.foldl (undoRetire seq) u).store.retired (granKey b g) = none := by
  intro l
  induction l with
  | nil => intro u h; cases h
  | cons w l ih =>
    intro u h
    rw [List.foldl_cons]
    rcases List.mem_cons.mp h with rfl | h
    · exact List.foldlRecOn (motive := fun t : State => kfind t.store.retired (granKey b g) = none) l (undoRetire seq) (undoRetire_own u seq b g k)
        fun t ht w _ => undoRetire_keeps seq w ht
    · exact ih h

/-- The state in which the command of a retirement ends by timeout. -/
def unretired (s : State) (seq : Nat) : State :=
  let u := s.store.writing.foldl (undoRetire seq) s
  { u with
    ctxs := u.ctxs.map fun q => (q.1, { q.2 with retiring := q.2.retiring.filter fun e => decide (e.2.2 ≠ seq) })
    sm := { u.sm with retiring := u.sm.retiring.filter fun e => decide (e.2.2 ≠ seq) }
    store := { u.store with writing := u.store.writing.filter (notRetire seq) } }

theorem retireTimeout_eq (s : State) (seq : Nat) : retireTimeout s seq = endCmd (unretired s seq) .admin seq timeoutReply := rfl

theorem unretired_frame (s : State) (seq : Nat) : Frame [.ctxs, .mem, .sm, .store] s (unretired s seq) :=
  Frame.upd rfl (.foldl (undoRetire seq) s.store.writing (fun u w => (undoRetire_frame u seq w).mono (by decide)) (.refl _ s))

theorem retiring_unretired {s : State} {seq n : Nat} {k : Ctx} (hk : ctxOf (unretired s seq) n = some k) : ∀ e ∈ k.retiring, e.2.2 ≠ seq := by
  intro e he
  have hmap := kfind_map (fun c : Ctx => { c with retiring := c.retiring.filter fun e => decide (e.2.2 ≠ seq) })
    (s.store.writing.foldl (undoRetire seq) s).ctxs n
  obtain ⟨c, -, rfl⟩ := Option.map_eq_some_iff.mp (hmap.symm.trans hk)
  exact of_decide_eq_true (List.mem_filter.mp he).2

theorem pageRetire_timesOut (hc : ((ringOf s .admin).bind fun g => g.cmd c.seq) = some c) (hacc : c.accepted = true) (hheld : c.held = none)
    (hop : c.opcode = 0x0090) (howing : s.sched.owing = []) (hfollows : s.sched.follows = []) :
    ∃ t, exec (.commandTimeout .admin c.seq) s = .next t ∧ Ended s t .admin c stTimeout 0 ∧
      (∀ b g k, StoreWrite.retire b g k (some c.seq) ∉ t.store.writing) ∧
      (∀ b g k, StoreWrite.retire b g k (some c.seq) ∈ s.store.writing → kfind t.store.retired (granKey b g) = none) ∧
      (∀ e ∈ t.sm.retiring, e.2.2 ≠ c.seq) ∧ ∀ n k', ctxOf t n = some k' → ∀ e ∈ k'.retiring, e.2.2 ≠ c.seq := by
  have hexec := execCommandTimeout_accepted hc hacc hheld
  rw [hop] at hexec
  have hsched : (retireTimeout s c.seq).sched = s.sched := retireTimeout_frame s c.seq .sched (by decide)
  replace hexec := hexec.trans (congrArg Host.Outcome.next (payOwed_of_none (by rw [hsched, howing]) (by rw [hsched, hfollows])))
  rw [retireTimeout_eq] at hexec
  have hundo := unretired_frame s c.seq
  have hend := endCmd_frame (unretired s c.seq) .admin c.seq timeoutReply
  have hstore : (endCmd (unretired s c.seq) .admin c.seq timeoutReply).store = (unretired s c.seq).store := hend .store (by decide)
  refine ⟨_, hexec, endCmd_ended_of_frame hc hundo (by decide) (by decide) (nextIdLe_of_frame hundo (by decide)) timeoutReply,
    fun b g k hw => ?_, fun b g k hw => ?_, fun e he => ?_, fun n k' hk' => ?_⟩
  · rw [hstore] at hw
    have hnot : notRetire c.seq (.retire b g k (some c.seq)) = true := (List.mem_filter.mp hw).2
    exact of_decide_eq_true hnot rfl
  · rw [hstore]
    exact undoRetires_retired c.seq hw
  · rw [hend.sm_eq (by decide) (by decide)] at he
    exact of_decide_eq_true (List.mem_filter.mp he).2
  · rw [(adminBooked_endCmd _ c.seq timeoutReply).ctxOf] at hk'
    exact retiring_unretired hk'

/-! ### A load that ends early (R311, R318, R369) -/

/-- A tensor left unloaded where its number is `num`. -/
def unloaded (num : Nat) (q : Tensor) : Tensor := if q.num = num then { q with loaded := false } else q

theorem unloaded_spec (num : Nat) (q : Tensor) : (unloaded num q).num = q.num ∧ (q.num = num → (unloaded num q).loaded = false) ∧
    (q.loaded = false → (unloaded num q).loaded = false) := by
  unfold unloaded
  split
  · exact ⟨rfl, fun _ => rfl, fun _ => rfl⟩
  · next h => exact ⟨rfl, fun h' => absurd h' h, id⟩

/-- Each listed tensor is unloaded; a number that stands stood before. -/
theorem mem_unloadAll : ∀ {l ts : List Tensor} {q : Tensor}, q ∈ l.foldl (fun ts t => ts.map (unloaded t.num)) ts →
    ∃ p ∈ ts, p.num = q.num ∧ (p.loaded = false ∨ (∃ t ∈ l, t.num = q.num) → q.loaded = false) := by
  intro l
  induction l with
  | nil => exact fun {ts q} hq => ⟨q, hq, rfl, fun h => h.elim id fun ⟨_, ht, _⟩ => nomatch ht⟩
  | cons t l ih =>
    intro ts q hq
    obtain ⟨p, hp, hnum, hall⟩ := ih hq
    obtain ⟨o, ho, rfl⟩ := List.mem_map.mp hp
    obtain ⟨hsame, hown, hkeep⟩ := unloaded_spec t.num o
    refine ⟨o, ho, hsame.symm.trans hnum, fun h => hall ?_⟩
    rcases h with h | ⟨u, hu, hun⟩
    · exact .inl (hkeep h)
    · rcases List.mem_cons.mp hu with rfl | hu
      · exact .inl (hown (hsame.symm.trans (hnum.trans hun.symm)))
      · exact .inr ⟨u, hu, hun⟩

/-- The context whose load has gone has the tensors `ts`. -/
def HasTensors (n : Nat) (ts : List Tensor) (s : State) : Prop := ∃ c, ctxOf s n = some c ∧ c.load = none ∧ c.tensors = ts

theorem HasTensors.of_ctxOf {n : Nat} {ts : List Tensor} {s t : State} (h : HasTensors n ts s) (ht : ctxOf t n = ctxOf s n) : HasTensors n ts t := by
  obtain ⟨c, hc, hrest⟩ := h
  exact ⟨c, ht.trans hc, hrest⟩

theorem HasTensors.updCtx {n : Nat} {ts : List Tensor} {s : State} (h : HasTensors n ts s) {f : Ctx → Ctx} {g : List Tensor → List Tensor}
    (hload : ∀ c, (f c).load = c.load) (htensors : ∀ c, (f c).tensors = g c.tensors) : HasTensors n (g ts) (updCtx s n f) := by
  obtain ⟨c, hc, hnone, rfl⟩ := h
  refine ⟨f c, ?_, (hload c).trans hnone, htensors c⟩
  rw [ctxOf_updCtx, if_pos rfl, hc]
  rfl

/-- An update of the context's words alone, after free values. -/
theorem HasTensors.updWords {n : Nat} {ts : List Tensor} {s u : State} (h : HasTensors n ts s) (hu : ctxOf u n = ctxOf s n) {f : Ctx → Ctx}
    (hf : ∀ c, WordsOnly c (f c)) : HasTensors n ts (Machine.updCtx u n f) :=
  HasTensors.updCtx (g := id) (h.of_ctxOf hu) (fun c => by rw [hf c]) fun c => by
    rw [hf c]
    rfl

theorem hasTensors_loseTensor {n : Nat} {ts : List Tensor} {s : State} (h : HasTensors n ts s) (words : Bool) (t : Tensor) :
    HasTensors n (ts.map (unloaded t.num)) (loseTensor n words s t) := by
  unfold loseTensor
  dsimp only
  refine HasTensors.updCtx (g := fun ts => ts.map (unloaded t.num)) ?_ (fun _ => rfl) fun _ => rfl
  have hcopies := List.foldlRecOn (motive := HasTensors n ts) t.ages.eraseDups (fun s k => Machine.updCtx (takeFrees s (64 * t.blocks)).2 n fun c =>
    { c with copies := ksetRun 0 c.copies (copyKey t.num k 0) ((takeFrees s (64 * t.blocks)).1.map fun v => v.setWidth 16) }) h
    fun u hu k _ => hu.updWords (u := (takeFrees u (64 * t.blocks)).2) rfl fun _ => rfl
  split
  · refine List.foldlRecOn (motive := HasTensors n ts) _ _ hcopies fun u hu p _ => ?_
    refine List.foldlRecOn (motive := HasTensors n ts) _ _ hu fun u hu j _ => ?_
    exact hu.updWords (u := (takeFrees u 64).2) rfl fun c => putBlock_wordsOnly c _ _ _ _ _
  · exact hcopies

/-- The tensors that a load's records name. -/
def LoadJob.named (j : LoadJob) (c : Ctx) : List Tensor := j.records.filterMap fun r => tensorOf c r.1

/-- The state in which the command of a load ends early. -/
def loadCut (s : State) (n : Nat) (c : Ctx) (j : LoadJob) : State :=
  if j.direct then (LoadJob.named j c).foldl (loseTensor n (decide (j.source ≠ 3))) (dropLoad s n c j) else dropLoad s n c j

theorem abortLoad_eq {k : Ctx} {j : LoadJob} (hk : ctxOf s n = some k) (hj : k.load = some j) (y : Reply) :
    abortLoad s n y = endCmd (loadCut s n k j) (.ctx n) j.seq y := by
  unfold abortLoad
  rw [hk]
  dsimp only
  split
  · next h => cases h.symm.trans hj
  · next i h =>
    cases h.symm.trans hj
    rfl

theorem loadCut_frame (s : State) (n : Nat) (k : Ctx) (j : LoadJob) : Frame [.host, .ctxs, .slory, .free] s (loadCut s n k j) := by
  have hdrop : Frame [.host, .ctxs, .slory, .free] s (dropLoad s n k j) := (dropLoad_frame s n k j).mono (by decide)
  unfold loadCut
  split
  · exact .foldl _ _ (fun u t => (loseTensor_frame u n _ t).mono (by decide)) hdrop
  · exact hdrop

theorem nextIdLe_loadCut (s : State) (n : Nat) (k : Ctx) (j : LoadJob) : NextIdLe s (loadCut s n k j) := by
  unfold loadCut
  split
  · exact List.foldlRecOn (motive := NextIdLe s) _ _ (Nat.le_refl _) fun u hu t _ => NextIdLe.trans hu (nextIdLe_of_frame (loseTensor_frame u n _ t) (by decide))
  · exact Nat.le_refl _

theorem hasTensors_dropLoad (s : State) (n : Nat) (k : Ctx) (j : LoadJob) : HasTensors n k.tensors (dropLoad s n k j) :=
  ⟨_, ctxOf_setCtx_self s n _, rfl, rfl⟩

theorem hasTensors_loadCut (s : State) (n : Nat) (k : Ctx) {j : LoadJob} (hdirect : j.direct = true) :
    HasTensors n ((LoadJob.named j k).foldl (fun ts t => ts.map (unloaded t.num)) k.tensors) (loadCut s n k j) := by
  unfold loadCut
  rw [if_pos hdirect]
  have hfold : ∀ (l ts : List Tensor) (u : State), HasTensors n ts u →
      HasTensors n (l.foldl (fun ts t => ts.map (unloaded t.num)) ts) (l.foldl (loseTensor n (decide (j.source ≠ 3))) u) := by
    intro l
    induction l with
    | nil => exact fun ts u h => h
    | cons t l ih => exact fun ts u h => ih _ _ (hasTensors_loseTensor h _ t)
  exact hfold _ _ _ (hasTensors_dropLoad s n k j)

/-- After the fold over the records' tensors every tensor that a record names is unloaded. -/
theorem unloaded_of_named {j : LoadJob} {k : Ctx} {q : Tensor} (hq : q ∈ (LoadJob.named j k).foldl (fun ts t => ts.map (unloaded t.num)) k.tensors)
    (hnamed : ∃ e ∈ j.records, e.1 = q.num) : q.loaded = false := by
  obtain ⟨p, hp, hnum, hall⟩ := mem_unloadAll hq
  obtain ⟨e, he, heq⟩ := hnamed
  obtain ⟨t, ht⟩ := Option.isSome_iff_exists.mp (List.find?_isSome.mpr ⟨p, hp, decide_eq_true (hnum.trans heq.symm)⟩ : (tensorOf k e.1).isSome)
  exact hall (.inr ⟨t, List.mem_filterMap.mpr ⟨e, he, ht⟩, (of_decide_eq_true (List.find?_some (p := fun t : Tensor => decide (t.num = e.1)) ht) : t.num = e.1).trans heq⟩)

/-- The end of a load but ST_OK leaves the context none; of a PENDING one the context as it was, of a DIRECT one its tensors unloaded. -/
theorem abortLoad_spec {k : Ctx} {j : LoadJob} (hk : ctxOf s n = some k) (hj : k.load = some j) (y : Reply) :
    ∃ k', ctxOf (abortLoad s n y) n = some k' ∧ k'.load = none ∧
      (j.direct = false → k' = { k with load := none, drawn := k.drawn - j.reserved, energy := k'.energy }) ∧
      (j.direct = true → ∀ q ∈ k'.tensors, (∃ e ∈ j.records, e.1 = q.num) → q.loaded = false) := by
  rw [abortLoad_eq hk hj]
  cases hdirect : j.direct with
  | false =>
    have hcut : ctxOf (loadCut s n k j) n = some { k with load := none, drawn := k.drawn - j.reserved } := by
      unfold loadCut
      rw [hdirect, if_neg Bool.false_ne_true]
      exact ctxOf_setCtx_self s n _
    obtain ⟨e, he⟩ := energyOnly_endCmd n _ (.ctx n) j.seq y _ hcut
    exact ⟨_, he, rfl, fun _ => rfl, fun h => nomatch h⟩
  | true =>
    obtain ⟨c, hc, hnone, htensors⟩ := hasTensors_loadCut s n k hdirect
    obtain ⟨e, he⟩ := energyOnly_endCmd n _ (.ctx n) j.seq y _ hc
    exact ⟨_, he, hnone, fun h => (nomatch h), fun _ q hq hnamed => unloaded_of_named (htensors ▸ hq) hnamed⟩

theorem weightsLoad_timesOut {k : Ctx} {j : LoadJob} (hc : ((ringOf s (.ctx n)).bind fun g => g.cmd c.seq) = some c) (hacc : c.accepted = true)
    (hheld : c.held = none) (hop : c.opcode = 0x0050) (hk : ctxOf s n = some k) (hj : k.load = some j) (hseq : j.seq = c.seq) :
    ∃ t k', exec (.commandTimeout (.ctx n) c.seq) s = .next t ∧ Ended s t (.ctx n) c stTimeout 0 ∧ ctxOf t n = some k' ∧ k'.load = none ∧
      (j.direct = false → k' = { k with load := none, drawn := k.drawn - j.reserved, energy := k'.energy }) ∧
      (j.direct = true → ∀ q ∈ k'.tensors, (∃ e ∈ j.records, e.1 = q.num) → q.loaded = false) := by
  have hexec := execCommandTimeout_accepted hc hacc hheld
  rw [hop] at hexec
  obtain ⟨k', hrest⟩ := abortLoad_spec hk hj timeoutReply
  refine ⟨_, k', hexec, ?_, hrest⟩
  rw [abortLoad_eq hk hj, hseq]
  exact endCmd_ended_of_frame hc (loadCut_frame s n k j) (by decide) (by decide) (nextIdLe_loadCut s n k j) timeoutReply

end Timeout

/-- Settles O56: the records of ENERGY_READ and ATTEST_REPORT, DIAG_RUN and its end, and what each timeout of R369 leaves. -/
theorem serviceCommandsReply : Obligations.ServiceCommandsReply := by
  refine ⟨fun s c hcur hlen halign => ?_, fun s n k c hcur hk hlen halign => ?_, fun s r c who loc hcur hlen halign hwho => ?_,
    fun s c hcur hctxs hdiag hrecovery hready => diagRun_enters hcur hctxs hdiag hrecovery hready,
    fun s failed c d hd hc hseq => diagTestComplete_leaves failed hd hc hseq, fun s r c hc hacc hheld howing hfollows => ?_⟩
  · exact ⟨_, exec_energyRead_admin hcur hlen, writeResult_endOk hcur (.refl _ s) _ 0 (resultWritten_admin s halign _)⟩
  · exact ⟨_, exec_energyRead_ctx hcur hk hlen, writeResult_endOk hcur (.refl _ s) _ 0 (resultWritten_ctx hk halign _)⟩
  · rcases hwho with ⟨rfl, rfl, rfl⟩ | ⟨n, k, rfl, hk, hlive, rfl, rfl⟩
    · exact ⟨_, exec_attestReport_admin hcur hlen, writeResult_endOk hcur (takeFree_frame s) _ _ (resultWritten_admin (takeFree s).2 halign _)⟩
    · exact ⟨_, exec_attestReport_ctx hcur hk hlive hlen,
        writeResult_endOk hcur (takeFree_frame s) _ _ (resultWritten_ctx (s := (takeFree s).2) hk halign _)⟩
  · refine ⟨fun n hr hop => ?_, fun n k hr hop hk => ?_, fun n k j hr hop hk hj hseq => ?_, fun n k q hr hop hk hq hstop => ?_,
      fun hr hop hinstall => ?_, fun hr hop => ?_, fun hr hop => ?_⟩ <;> subst hr
    · exact schedLoad_timesOut hc hacc hheld hop
    · exact ckptRestore_timesOut hc hacc hheld hop hk
    · exact weightsLoad_timesOut hc hacc hheld hop hk hj hseq
    · exact ckptStream_timesOut hc hacc hheld hop hk hq hstop
    · exact install_timesOut hc hacc hheld hop hinstall
    · exact pageRetire_timesOut hc hacc hheld hop howing hfollows
    · exact diagRun_timesOut hc hacc hheld hop

end Sys2Proof.ServiceCommands


/-! PROOFS of the model store's services, SERVICE_STOP, SERVICE_START, WEIGHTS_SWAP and the pointer switch (O38). -/

namespace Sys2Proof.ServiceStates

set_option Elab.async false

open Sys2Proof.Machine Sys2Proof.Safety Sys2Proof.Laws Sys2Proof.Commits Sys2Proof.Timetables Sys2Proof.ContextWork Sys2Proof.Bearings Sys2Proof.RingWork
  Sys2Proof.Checkpoints Sys2Proof.ContextCommands Sys2Proof.ScheduleImages Sys2Proof.StepCommands Sys2Proof.Destruction Sys2Proof.OptimiserWords

/-! ### A part of a context that work leaves -/

/-- Context `n` stands, and `f` of it is `v`. -/
def CtxIs {α : Type} (n : Nat) (f : Ctx → α) (v : α) (s : State) : Prop := (ctxOf s n).map f = some v

section CtxIs

variable {α : Type} {n : Nat} {f : Ctx → α} {v : α} {s t : State}

theorem CtxIs.of_ctxOf (h : CtxIs n f v s) (ht : ctxOf t n = ctxOf s n) : CtxIs n f v t := by
  unfold CtxIs
  rw [ht]
  exact h

theorem CtxIs.of_frame {l : List Part} (h : CtxIs n f v s) (ht : Frame l s t) (hc : Part.ctxs ∉ l) : CtxIs n f v t := h.of_ctxOf (ctxOf_eq_of_frame ht hc n)

theorem CtxIs.updCtx (h : CtxIs n f v s) (m : Nat) {g : Ctx → Ctx} (hg : ∀ c, f (g c) = f c) : CtxIs n f v (updCtx s m g) := by
  unfold CtxIs
  rw [ctxOf_updCtx]
  split
  · next hm =>
    subst hm
    rw [Option.map_map, show f ∘ g = f from funext hg]
    exact h
  · exact h

theorem CtxIs.endCmd (h : CtxIs n f v s) (hf : ∀ (c : Ctx) e, f { c with energy := e } = f c) (r : RingId) (seq : Nat) (y : Reply) :
    CtxIs n f v (endCmd s r seq y) := by
  obtain ⟨k, hk, rfl⟩ := Option.map_eq_some_iff.mp h
  obtain ⟨e, he⟩ := energyOnly_endCmd n s r seq y k hk
  unfold CtxIs
  rw [he]
  exact congrArg some (hf k e)

theorem CtxIs.acceptCmd (h : CtxIs n f v s) (hf : ∀ (c : Ctx) e, f { c with energy := e } = f c) (r : RingId) (seq : Nat) : CtxIs n f v (acceptCmd s r seq) := by
  obtain ⟨k, hk, rfl⟩ := Option.map_eq_some_iff.mp h
  obtain ⟨e, he⟩ := energyOnly_acceptCmd n s r seq k hk
  unfold CtxIs
  rw [he]
  exact congrArg some (hf k e)

end CtxIs

/-! ### The service state while steps end (R314, R315) -/

/-- The service of context `n` is `v`. -/
abbrev ServiceIs (n : Nat) (v : Service) : State → Prop := CtxIs n Ctx.service v

theorem serviceIs_learnKill {n : Nat} {v : Service} {s : State} (h : ServiceIs n v s) (x : Step) : ServiceIs n v (learnKill s x) := by
  unfold learnKill
  split
  · exact h
  · refine List.foldlRecOn (motive := ServiceIs n v) _ _ h fun u hu p _ => ?_
    refine CtxIs.updCtx (s := (takeFree u).2) hu x.ctx fun c => ?_
    unfold learnPhase
    split <;> rfl

theorem serviceIs_unclaimed {n : Nat} {v : Service} {s : State} (h : ServiceIs n v s) (x : Step) (status : Nat) : ServiceIs n v (unclaimed s x status) :=
  unclaimed_induction x status h (fun h => h.of_frame (bookFiller_frame s x) (by decide)) (fun u hu => hu.of_frame (slopeChange_frame u) (by decide))
    (fun _ hu => serviceIs_learnKill hu x) (fun _ _ hu => hu) (fun u hu => hu.of_frame (openWrites_frame u x) (by decide))
    (fun _ hu => hu.updCtx x.ctx fun _ => rfl) fun u hu => hu.of_frame (dropFlight_frame u x) (by decide)

theorem serviceIs_answeredState {n : Nat} {v : Service} {s : State} (h : ServiceIs n v s) (x : Step) : ServiceIs n v (answeredState s x) := by
  have hbook {t : State} (ht : ServiceIs n v t) : ServiceIs n v (bookStep t x) := CtxIs.updCtx (by exact ht) x.ctx fun _ => rfl
  unfold answeredState
  split
  · exact hbook (h.of_frame (writeResult_frame _ _ _ _) (by decide))
  · exact hbook h

/-- The state in which a step has ended, before its context is seen to be idle. -/
def gone (s : State) (x : Step) (y : Reply) : State :=
  dropStep (endCmd (answeredState (wcRelease (unclaimed s x y.status) x.id) (x.ended y.status)) (.ctx x.ctx) x.seq
    (stepReply (x.ended y.status) y)) x.id

theorem endStep_gone (s : State) (x : Step) (y : Reply) : endStep s x y = stoppingEnd (gone s x y) x.ctx := by
  have hreply (t : State) (z : Step) : replyStep t z y = stoppingEnd (dropStep (endCmd (answeredState t z) (.ctx z.ctx) z.seq (stepReply z y)) z.id) z.ctx := rfl
  rw [endStep_eq, hreply, ended_id, ended_ctx, ended_seq]
  rfl

theorem serviceIs_gone {n : Nat} {v : Service} {s : State} (h : ServiceIs n v s) (x : Step) (y : Reply) : ServiceIs n v (gone s x y) := by
  have hfree := (serviceIs_unclaimed h x y.status).of_frame (wcRelease_frame _ x.id) (by decide)
  exact ((serviceIs_answeredState hfree (x.ended y.status)).endCmd (fun _ _ => rfl) _ _ _).of_frame (dropStep_frame _ x.id) (by decide)

theorem steps_gone (s : State) (x : Step) (y : Reply) : (gone s x y).steps = s.steps.filter fun z => decide (z.id ≠ x.id) := by
  rw [← steps_endStep s x y, endStep_gone]
  exact (stoppingEnd_frame _ _ .steps (by decide)).symm

/-- The service is stopping, or has stopped with no step left. -/
def Halting (n : Nat) (s : State) : Prop := ServiceIs n .stopping s ∨ (ServiceIs n .stopped s ∧ ∀ y ∈ s.steps, y.ctx ≠ n)

theorem halting_stoppingEnd {n : Nat} {s : State} (h : Halting n s) : ServiceIs n (if s.steps.any fun y => decide (y.ctx = n) then .stopping else .stopped) (stoppingEnd s n) := by
  unfold stoppingEnd
  rcases h with h | ⟨h, hnone⟩
  · obtain ⟨k, hk, hserv⟩ := Option.map_eq_some_iff.mp h
    rw [hk]
    dsimp only
    rw [hserv]
    cases hany : s.steps.any fun y => decide (y.ctx = n) with
    | true =>
      rw [if_pos rfl, if_neg (by decide)]
      exact h
    | false =>
      rw [if_neg Bool.false_ne_true, if_pos ⟨rfl, rfl⟩]
      unfold ServiceIs CtxIs
      rw [ctxOf_setCtx_self]
      rfl
  · obtain ⟨k, hk, hserv⟩ := Option.map_eq_some_iff.mp h
    have hany : (s.steps.any fun y => decide (y.ctx = n)) = false := List.any_eq_false.mpr fun y hy => by simpa using hnone y hy
    rw [hk]
    dsimp only
    rw [hserv, hany, if_neg Bool.false_ne_true, if_neg (by decide)]
    exact h

theorem Halting.stoppingEnd {n : Nat} {s : State} (h : Halting n s) : Halting n (stoppingEnd s n) := by
  have hsteps : (Machine.stoppingEnd s n).steps = s.steps := stoppingEnd_frame s n .steps (by decide)
  have hserv := halting_stoppingEnd h
  cases hany : s.steps.any fun y => decide (y.ctx = n) with
  | true =>
    rw [hany, if_pos rfl] at hserv
    exact .inl hserv
  | false =>
    rw [hany, if_neg Bool.false_ne_true] at hserv
    refine .inr ⟨hserv, fun y hy => ?_⟩
    rw [hsteps] at hy
    simpa using List.any_eq_false.mp hany y hy

theorem Halting.gone {n : Nat} {s : State} (h : Halting n s) (x : Step) (y : Reply) : Halting n (gone s x y) :=
  h.imp (serviceIs_gone · x y) fun ⟨hserv, hnone⟩ => ⟨serviceIs_gone hserv x y, fun z hz => hnone z (List.mem_filter.mp (steps_gone s x y ▸ hz)).1⟩

/-! ### SERVICE_STOP (R315) -/

/-- The queued steps of a context that no re-run holds. -/
def queuedSteps (s : State) (n : Nat) : List Step := s.steps.filter fun x => decide (x.ctx = n ∧ x.state = .queued) && !x.rerun

/-- The steps that a SERVICE_STOP with DRAIN = 0 ends. -/
def stopSteps (l : List Step) (s : State) : State := l.foldl (fun s x => endStep s x (plain stCtxStopped)) s

theorem stopService_running {s : State} {n : Nat} {k : Ctx} (hk : ctxOf s n = some k) (hrun : k.service = .running) (drain : Bool) :
    stopService s n drain = stoppingEnd (stopSteps (if drain then [] else queuedSteps s n) (setCtx s n { k with service := .stopping })) n := by
  unfold stopService
  rw [hk]
  dsimp only
  rw [if_neg (by simp [hrun])]
  cases drain <;> rfl

/-- Queued steps of one context end and leave the service halting, the other steps and the command that stops them. -/
theorem stopSteps_spec {n : Nat} {c : Cmd} (hheld : c.held = none) : ∀ {l : List Step} {s : State}, (∀ x ∈ l, x.ctx = n ∧ x.seq ≠ c.seq) →
    Halting n s → Sole (.ctx n) c s → Halting n (stopSteps l s) ∧ Sole (.ctx n) c (stopSteps l s) ∧ NextIdLe s (stopSteps l s) ∧
      ∀ z, z ∈ (stopSteps l s).steps ↔ z ∈ s.steps ∧ ∀ x ∈ l, z.id ≠ x.id := by
  intro l
  induction l with
  | nil => exact fun {s} _ hs hc => ⟨hs, hc, Nat.le_refl _, fun z => ⟨fun hz => ⟨hz, fun _ hx => nomatch hx⟩, And.left⟩⟩
  | cons x l ih =>
    intro s hl hs hc
    obtain ⟨hx, hne⟩ := hl x (List.mem_cons_self ..)
    have hhalt : Halting n (endStep s x (plain stCtxStopped)) := by
      rw [endStep_gone, hx]
      exact (hs.gone x _).stoppingEnd
    subst hx
    obtain ⟨hend, hsole, hid, hsteps⟩ := ih (s := endStep s x (plain stCtxStopped)) (fun z hz => hl z (List.mem_cons_of_mem _ hz)) hhalt
      (sole_endStep hc hheld hne _)
    refine ⟨hend, hsole, NextIdLe.trans (nextIdLe_endStep s x _) hid, fun z => (hsteps z).trans ?_⟩
    rw [steps_endStep, List.mem_filter, decide_eq_true_eq, List.forall_mem_cons, and_assoc]

theorem sole_setCtx {s : State} {r : RingId} {c : Cmd} (h : Sole r c s) (n : Nat) (k : Ctx) : Sole r c (setCtx s n k) := h.of_ringOf (setCtx_ring s n k r)

theorem halting_stopping (s : State) (n : Nat) (k : Ctx) : Halting n (setCtx s n { k with service := .stopping }) := by
  refine .inl ?_
  unfold ServiceIs CtxIs
  rw [ctxOf_setCtx_self]
  rfl

theorem exec_serviceStop {s : State} {n : Nat} {k : Ctx} {c : Cmd} (h : Current s (.ctx n) 0x0052 c) (hk : ctxOf s n = some k) :
    exec (.serviceStop (.ctx n)) s = .next (endOk (stopService s n (c.desc.getLsbD 288)) (.ctx n) c 0) := by
  show execServiceStop (.ctx n) s = _
  unfold execServiceStop
  rw [withCtxCmd_current h hk]

/-- A service that stops ends the steps of `l`, and is then stopped where no step of its context is left. -/
theorem serviceStop_ends {s : State} {n : Nat} {k : Ctx} {c : Cmd} {l : List Step} (h : Current s (.ctx n) 0x0052 c) (hk : ctxOf s n = some k)
    (hrun : k.service = .running) (hl : l = if c.desc.getLsbD 288 then [] else queuedSteps s n) (hseq : ∀ x ∈ l, x.ctx = n ∧ x.seq ≠ c.seq) :
    ∃ t k', exec (.serviceStop (.ctx n)) s = .next t ∧ Ended s t (.ctx n) c 0 0 ∧ ctxOf t n = some k' ∧
      t.steps = (stopSteps l (setCtx s n { k with service := .stopping })).steps ∧ (∀ z, z ∈ t.steps ↔ z ∈ s.steps ∧ ∀ x ∈ l, z.id ≠ x.id) ∧
      k'.service = (if t.steps.any fun y => decide (y.ctx = n) then .stopping else .stopped) := by
  have hheld := held_of_current h
  have hexec := exec_serviceStop h hk
  rw [stopService_running hk hrun, ← hl] at hexec
  generalize hu : stopSteps l (setCtx s n { k with service := .stopping }) = u at hexec
  obtain ⟨hhalt, hsole, hid, hsteps⟩ := stopSteps_spec hheld hseq (halting_stopping s n k) (sole_setCtx (sole_of_current h) n _)
  rw [hu] at hhalt hsole hid hsteps
  have hstop := stoppingEnd_frame u n
  have hend := endOk_frame (stoppingEnd u n) (.ctx n) c 0
  have hkeep : (endOk (stoppingEnd u n) (.ctx n) c 0).steps = u.steps := Eq.trans (hend .steps (by decide)) (hstop .steps (by decide))
  have hserv := ((halting_stoppingEnd hhalt).acceptCmd (fun _ _ => rfl) (.ctx n) c.seq).endCmd (fun _ _ => rfl) (.ctx n) c.seq { status := stOk, result := 0 }
  obtain ⟨k', hk', hserv⟩ := Option.map_eq_some_iff.mp hserv
  refine ⟨_, k', hexec, endOk_ended_of_sole (hsole.of_ringOf (hstop.ring (by decide) (by decide) _)) hheld ?_ 0, hk', hkeep, ?_, ?_⟩
  · exact NextIdLe.trans hid (nextIdLe_of_frame hstop (by decide))
  · rw [hkeep]
    exact hsteps
  · rw [hkeep]
    exact hserv

/-! ### SERVICE_START and WEIGHTS_SWAP (R316, R317) -/

theorem exec_serviceStart {s : State} {n : Nat} {k : Ctx} {c : Cmd} (h : Current s (.ctx n) 0x0053 c) (hk : ctxOf s n = some k) (hstop : k.service = .stopped)
    (hswap : k.swapWait = none) (hloaded : ∀ t ∈ k.tensors, t.loaded = true) (hload : ∀ j, k.load = some j → j.direct = false)
    (hslow : slowOpen s (some n) s.host.nextId = false) :
    exec (.serviceStart (.ctx n)) s = .next (endOk (setCtx s n { k with service := .running }) (.ctx n) c 0) := by
  have hall : (k.tensors.any fun t => !t.loaded) = false := List.any_eq_false.mpr fun t ht => by simp [hloaded t ht]
  have hdirect : (k.load.map fun j => j.direct).getD false = false := by
    cases hj : k.load with
    | none => rfl
    | some j => exact hload j hj
  show execServiceStart (.ctx n) s = _
  unfold execServiceStart
  rw [withCtxCmd_current h hk]
  split
  · next hs => cases hs.symm.trans hstop
  · next hs => cases hs.symm.trans hstop
  · rw [hswap, hall, hdirect, hslow, if_neg (by decide), if_neg (by decide), if_neg (by decide)]

theorem weightsSwap_stops {s : State} {n : Nat} {k : Ctx} {c : Cmd} (h : Current s (.ctx n) 0x0051 c) (hk : ctxOf s n = some k) (hrun : k.service = .running)
    (hswap : k.swapWait = none) (hpending : k.pendingTensors ≠ []) (hsteps : ∀ x ∈ s.steps, x.ctx ≠ n) :
    ∃ t k' g c', exec (.weightsSwap (.ctx n)) s = .next t ∧ ctxOf t n = some k' ∧ k'.service = .stopped ∧ (k'.swapWait.map (·.1)) = some c.seq ∧
      k'.pendingTensors = k.pendingTensors ∧ ringOf t (.ctx n) = some g ∧ g.cmd c.seq = some c' ∧ c'.accepted = true := by
  have hexec : exec (.weightsSwap (.ctx n)) s = .next (stopService (acceptCmd (setCtx s n { k with swapWait := some (c.seq, c.desc.getLsbD 288) }) (.ctx n) c.seq)
      n (c.desc.getLsbD 288)) := by
    show execWeightsSwap (.ctx n) s = _
    unfold execWeightsSwap
    rw [withCtxCmd_current h hk, hswap, if_neg (by decide), if_neg hpending]
  generalize hu : acceptCmd (setCtx s n { k with swapWait := some (c.seq, c.desc.getLsbD 288) }) (.ctx n) c.seq = u at hexec
  obtain ⟨e, hctx⟩ := hu ▸ energyOnly_acceptCmd n (setCtx s n { k with swapWait := some (c.seq, c.desc.getLsbD 288) }) (.ctx n) c.seq _ (ctxOf_setCtx_self s n _)
  have hcmd := hu ▸ acceptCmd_keeps_cmd h (setCtx_ring s n { k with swapWait := some (c.seq, c.desc.getLsbD 288) } (.ctx n))
  have husteps : u.steps = s.steps := hu ▸ acceptCmd_frame _ (.ctx n) c.seq .steps (by decide)
  have hnone : (u.steps.any fun y => decide (y.ctx = n)) = false := List.any_eq_false.mpr fun y hy => by simpa using hsteps y (husteps ▸ hy)
  have hqueued : queuedSteps u n = [] := List.filter_eq_nil_iff.mpr fun y hy => by simp [hsteps y (husteps ▸ hy)]
  rw [stopService_running hctx hrun, hqueued, ite_self] at hexec
  have hstopped : stoppingEnd (stopSteps [] (setCtx u n { k with swapWait := some (c.seq, c.desc.getLsbD 288), energy := e, service := .stopping })) n =
      setCtx (setCtx u n { k with swapWait := some (c.seq, c.desc.getLsbD 288), energy := e, service := .stopping }) n
        { k with swapWait := some (c.seq, c.desc.getLsbD 288), energy := e, service := .stopped } := by
    show stoppingEnd (setCtx u n _) n = _
    unfold stoppingEnd
    rw [ctxOf_setCtx_self]
    dsimp only
    rw [if_pos]
    exact ⟨rfl, by rw [show (setCtx u n _).steps = u.steps from rfl, hnone]; rfl⟩
  obtain ⟨g, hg, hc⟩ := Option.bind_eq_some_iff.mp hcmd
  refine ⟨_, _, g, _, hexec.trans (congrArg Host.Outcome.next hstopped), ctxOf_setCtx_self _ n _, rfl, rfl, rfl, ?_, hc, rfl⟩
  rw [setCtx_ring, setCtx_ring]
  exact hg

/-! ### The pointer switch (R317) -/

/-- What the pointer switch advances, and the stream that it would break. -/
abbrev GenIs (n : Nat) (gen : BitVec 32) : State → Prop := CtxIs n (fun c => (c.loadGen, c.sender)) (gen, none)

theorem WordsOnly.genSender {c d : Ctx} (h : WordsOnly c d) : (d.loadGen, d.sender) = (c.loadGen, c.sender) := by rw [h]

theorem genIs_takeWords {n : Nat} {gen : BitVec 32} {s : State} (h : GenIs n gen s) (t : Tensor) (ms : List (List (BitVec 32)))
    (ps : List (List (List (BitVec 32)))) : GenIs n gen (takeWords s n t ms ps) := by
  have hput (c : Ctx) (pl : Nat) (ws : List (List (BitVec 32))) :
      WordsOnly c ((List.range ws.length).foldl (fun c j => putBlock c (liveSlot c t.num j) pl t.num j (ws.getD j [])) c) :=
    .foldl (fun c j => putBlock_wordsOnly c _ _ _ _ _) _ c
  unfold takeWords
  dsimp only
  refine CtxIs.updCtx ?_ n fun c => ?_
  · split
    · exact CtxIs.of_frame (l := [.host]) h (writeSlow_frame s n t ms) (by decide)
    · exact h
  · refine WordsOnly.genSender (WordsOnly.trans (c' := if t.slow then c else _) ?_ (.foldl (fun c p => hput c (p + 1) (ps.getD p [])) _ _))
    split
    · exact .refl c
    · exact hput c 0 ms

theorem genIs_switchTensor {n : Nat} {gen : BitVec 32} {s : State} (h : GenIs n gen s) (k : Nat) : GenIs n gen (switchTensor s n k) := by
  unfold switchTensor
  split
  · exact h
  · next c hc =>
    split
    · exact h
    · next t _ =>
      have hcopy (put : KMap (BitVec 16) → Nat → KMap (BitVec 16)) : GenIs n gen (setCtx s n (takeCopy c t put)) := by
        unfold GenIs CtxIs at h ⊢
        rw [hc] at h
        rw [ctxOf_setCtx_self]
        refine Eq.trans (congrArg some ?_) h
        unfold takeCopy wholeCopy
        dsimp only
        split <;> rfl
      dsimp only
      have hclean (put : KMap (BitVec 16) → Nat → KMap (BitVec 16)) (q : Nat) (b : Bool) : GenIs n gen (cleanTensor (setCtx s n (takeCopy c t put)) c t q b) :=
        (hcopy put).of_frame (cleanTensor_frame _ c t q b) (by decide)
      split
      · exact hclean _ _ _
      · exact genIs_takeWords (hclean _ _ _) t _ _

theorem nextIdLe_switchTensor (s : State) (n k : Nat) : NextIdLe s (switchTensor s n k) := by
  have hslow (u : State) (t : Tensor) (ws : List (List (BitVec 32))) : NextIdLe u (writeSlow u n t ws) := by
    unfold writeSlow
    split
    · exact Nat.le_refl _
    · exact NextIdLe.trans (nextIdLe_foldl _ (fun u j => nextIdLe_writeHostAfter ..) _ u) (nextIdLe_writeHostAfter ..)
  have hwords (u : State) (t : Tensor) (ms : List (List (BitVec 32))) (ps : List (List (List (BitVec 32)))) : NextIdLe u (takeWords u n t ms ps) := by
    unfold takeWords
    dsimp only
    refine NextIdLe.trans ?_ (nextIdLe_of_frame (updCtx_frame _ n _) (by decide))
    split
    · exact hslow u t ms
    · exact Nat.le_refl _
  unfold switchTensor
  split
  · exact Nat.le_refl _
  · split
    · exact Nat.le_refl _
    · dsimp only
      have hclean (u : State) (c : Ctx) (t : Tensor) (d : Ctx) (q : Nat) (b : Bool) : NextIdLe u (cleanTensor (setCtx u n d) c t q b) :=
        NextIdLe.trans (nextIdLe_of_frame (setCtx_frame u n d) (by decide)) (nextIdLe_of_frame (cleanTensor_frame _ c t q b) (by decide))
      split
      · exact hclean s _ _ _ _ _
      · exact NextIdLe.trans (hclean s _ _ _ _ _) (hwords _ _ _ _)

theorem breakStream_of_none {s : State} {n : Nat} (h : ∀ k, ctxOf s n = some k → k.sender = none) (status : Nat) : breakStream s n status = s := by
  unfold breakStream
  split
  · rfl
  · next c hc =>
    split
    · rfl
    · next k hk => cases (h c hc).symm.trans hk

/-- The state in which every pending copy has become current and the wait has ended. -/
def copiesTaken (s : State) (n : Nat) (pending : List Nat) : State :=
  updCtx (pending.foldl (fun s k => switchTensor s n k) s) n fun c => { dropPending c (c.pendingTensors.map (· % 4096)) with swapWait := none }

/-- The state in which WEIGHTS_SWAP replies. -/
def switched (s : State) (n : Nat) (pending : List Nat) : State :=
  switchDone (refill (copiesTaken s n pending) n fun _ _ => true) n

/-- The record of a switch in the weight log (R392). -/
def logSwitch (gen : Nat) (c : Ctx) : Ctx := { c with weightLog := shaBits (leBytes 64 c.weightLog.toNat ++ leBytes 4 gen) }

theorem logSwitch_keeps (gen : Nat) (c : Ctx) : (logSwitch gen c).swapWait = c.swapWait ∧ (logSwitch gen c).pendingTensors = c.pendingTensors ∧
    (logSwitch gen c).loadGen = c.loadGen := by
  unfold logSwitch
  exact ⟨rfl, rfl, rfl⟩

theorem exec_pointerSwitch {s : State} {n : Nat} {k : Ctx} {seq : Nat} {d : Bool} (hk : ctxOf s n = some k) (hwait : k.swapWait = some (seq, d))
    (hstop : k.service = .stopped) (hidle : ctxBusy s n = false) :
    exec (.pointerSwitch n) s =
      .next (endCmd (updCtx (switched s n k.pendingTensors) n (logSwitch (((ctxOf (switched s n k.pendingTensors) n).map fun c => c.loadGen.toNat).getD 0)))
        (.ctx n) seq { status := stOk, result := ((ctxOf (switched s n k.pendingTensors) n).map fun c => c.loadGen.toNat).getD 0 }) := by
  show execPointerSwitch n s = _
  unfold execPointerSwitch
  rw [hk]
  dsimp only
  split
  · next h => cases h.symm.trans hwait
  · next q b h =>
    cases h.symm.trans hwait
    rw [hstop, hidle, if_neg (by decide)]
    rfl

/-- The switch leaves nothing pending, ends the wait and advances the load generation. -/
theorem switched_spec {s : State} {n : Nat} {k : Ctx} (hk : ctxOf s n = some k) (hsender : k.sender = none) (pending : List Nat) :
    ∃ k', ctxOf (switched s n pending) n = some k' ∧ k'.swapWait = none ∧ k'.pendingTensors = [] ∧ k'.loadGen = k.loadGen + 1 ∧
      Frame [.pm, .host, .ctxs, .sm] s (switched s n pending) ∧ NextIdLe s (switched s n pending) := by
  have hstart : GenIs n k.loadGen s := by
    unfold GenIs CtxIs
    rw [hk, Option.map_some, hsender]
  have hfold : GenIs n k.loadGen (pending.foldl (fun s k => switchTensor s n k) s) :=
    List.foldlRecOn (motive := GenIs n k.loadGen) _ _ hstart fun u hu q _ => genIs_switchTensor hu q
  obtain ⟨c, hc, hgen⟩ := Option.map_eq_some_iff.mp hfold
  obtain ⟨hgen, hnone⟩ := Prod.mk.inj hgen
  have htaken : ctxOf (copiesTaken s n pending) n = some { dropPending c (c.pendingTensors.map (· % 4096)) with swapWait := none } := by
    unfold copiesTaken
    rw [ctxOf_updCtx, if_pos rfl, hc]
    rfl
  have hrefill := refill_frame (copiesTaken s n pending) n fun _ _ => true
  have hadvance : ctxOf (updCtx (refill (copiesTaken s n pending) n fun _ _ => true) n fun c => { c with loadGen := c.loadGen + 1, diverged := false }) n =
      some { dropPending c (c.pendingTensors.map (· % 4096)) with swapWait := none, loadGen := c.loadGen + 1, diverged := false } := by
    rw [ctxOf_updCtx, if_pos rfl, ctxOf_eq_of_frame hrefill (by decide), htaken]
    rfl
  have hswitched : switched s n pending =
      updCtx (refill (copiesTaken s n pending) n fun _ _ => true) n fun c => { c with loadGen := c.loadGen + 1, diverged := false } := by
    refine breakStream_of_none (fun q hq => ?_) stOk
    rw [hadvance] at hq
    cases hq
    exact hnone
  have hmove : Frame [.pm, .host, .ctxs, .sm] s (pending.foldl (fun s k => switchTensor s n k) s) :=
    .foldl _ _ (fun u q => (switchTensor_frame u n q).mono (by decide)) (.refl _ s)
  have hframe : Frame [.pm, .ctxs] (pending.foldl (fun s k => switchTensor s n k) s) (switched s n pending) := by
    rw [hswitched]
    exact ((updCtx_frame _ n _).mono (by decide)).trans ((hrefill.mono (by decide)).trans ((updCtx_frame _ n _).mono (by decide)))
  have hid : NextIdLe s (pending.foldl (fun s k => switchTensor s n k) s) := nextIdLe_foldl _ (fun u q => nextIdLe_switchTensor u n q) _ s
  refine ⟨_, hswitched ▸ hadvance, rfl, ?_, congrArg (· + 1) hgen, hmove.trans (hframe.mono (by decide)),
    NextIdLe.trans hid (nextIdLe_of_frame hframe (by decide))⟩
  refine List.filter_eq_nil_iff.mpr fun q hq => ?_
  simpa using ⟨q, hq, rfl⟩

theorem pointerSwitch_replies {s : State} {n : Nat} {k : Ctx} {q : Cmd} {g : Ring} {d : Bool} (hk : ctxOf s n = some k) (hwait : k.swapWait = some (q.seq, d))
    (hstop : k.service = .stopped) (hidle : ctxBusy s n = false) (hg : ringOf s (.ctx n) = some g) (hq : g.cmd q.seq = some q) (hsender : k.sender = none) :
    ∃ t k', exec (.pointerSwitch n) s = .next t ∧ ctxOf t n = some k' ∧ k'.swapWait = none ∧ k'.pendingTensors = [] ∧ k'.loadGen = k.loadGen + 1 ∧
      Ended s t (.ctx n) q 0 (k.loadGen + 1).toNat := by
  obtain ⟨c, hc, hnone, hpending, hgen, hframe, hid⟩ := switched_spec hk hsender k.pendingTensors
  have hexec := exec_pointerSwitch hk hwait hstop hidle
  rw [hc, Option.map_some, Option.getD_some, hgen] at hexec
  have hlog := updCtx_frame (switched s n k.pendingTensors) n (logSwitch (k.loadGen + 1).toNat)
  have hctx : ctxOf (updCtx (switched s n k.pendingTensors) n (logSwitch (k.loadGen + 1).toNat)) n = some (logSwitch (k.loadGen + 1).toNat c) := by
    rw [ctxOf_updCtx, if_pos rfl, hc, Option.map_some]
  obtain ⟨hsame₁, hsame₂, hsame₃⟩ := logSwitch_keeps (k.loadGen + 1).toNat c
  rw [hnone] at hsame₁
  rw [hpending] at hsame₂
  rw [hgen] at hsame₃
  generalize updCtx (switched s n k.pendingTensors) n (logSwitch (k.loadGen + 1).toNat) = u at hexec hlog hctx
  generalize logSwitch (k.loadGen + 1).toNat c = c' at hctx hsame₁ hsame₂ hsame₃
  obtain ⟨e, he⟩ := energyOnly_endCmd n u (.ctx n) q.seq { status := stOk, result := (k.loadGen + 1).toNat } c' hctx
  refine ⟨_, _, hexec, he, hsame₁, hsame₂, hsame₃, endCmd_ended ?_ (NextIdLe.trans hid (nextIdLe_of_frame hlog (by decide))) { status := stOk, result := _ }⟩
  rw [hlog.ring (by decide) (by decide), hframe.ring (by decide) (by decide), hg]
  exact hq

/-- Settles O38: SERVICE_STOP with and without DRAIN, SERVICE_START, WEIGHTS_SWAP and its pointer switch. -/
theorem serviceStopsSwapsAndStarts : Obligations.ServiceStopsSwapsAndStarts := by
  refine ⟨fun s n k c hcur hk hrun hdrain => ?_, fun s n k c hcur hk hrun hdrain hseq hnodup => ?_,
    fun s n k c hcur hk hstop hswap hloaded hload hslow => ?_, fun s n k c hcur hk hrun hswap hpending hsteps => weightsSwap_stops hcur hk hrun hswap hpending hsteps,
    fun s n k q g d hk hwait hstop hidle hg hq _ hsender => pointerSwitch_replies hk hwait hstop hidle hg hq hsender⟩
  · obtain ⟨t, k', hexec, hended, hk', hsteps, -, hserv⟩ := serviceStop_ends hcur hk hrun (l := []) (by rw [hdrain, if_pos rfl]) fun _ hx => nomatch hx
    replace hsteps : t.steps = s.steps := hsteps
    rw [hsteps] at hserv
    exact ⟨t, k', hexec, hended, hk', hsteps, hserv⟩
  · have hqueued (x : Step) : x ∈ queuedSteps s n ↔ x ∈ s.steps ∧ x.ctx = n ∧ x.state = .queued ∧ x.rerun = false := by
      simp [queuedSteps, List.mem_filter, and_assoc]
    obtain ⟨t, k', hexec, hended, hk', -, hsteps, hserv⟩ := serviceStop_ends hcur hk hrun (l := queuedSteps s n)
      (by rw [hdrain, if_neg Bool.false_ne_true]) fun x hx => by
        obtain ⟨hin, hctx, hstate, -⟩ := (hqueued x).mp hx
        exact ⟨hctx, hseq x hin hctx hstate⟩
    refine ⟨t, k', hexec, hended, hk', fun x => (hsteps x).trans (and_congr_right fun hx => ?_), hserv⟩
    refine ⟨fun h hq => h x ((hqueued x).mpr ⟨hx, hq⟩) rfl, fun h y hy hid => h ?_⟩
    obtain ⟨hin, hq⟩ := (hqueued y).mp hy
    rw [List.inj_on_of_nodup_map hnodup hx hin hid]
    exact hq
  · obtain ⟨e, he⟩ := ctxOf_endOk_setCtx s n { k with service := .running } (.ctx n) c 0
    exact ⟨_, _, exec_serviceStart hcur hk hstop hswap hloaded hload hslow, endOk_ended hcur (setCtx_ring s n _ _) rfl 0, he, rfl⟩

end Sys2Proof.ServiceStates


/-! PROOFS of the model store's transfers, WEIGHTS_LOAD and what the store's reads and writes complete (O39). -/

namespace Sys2Proof.StoreTransfers

set_option Elab.async false

open Sys2Proof.Machine Sys2Proof.Safety Sys2Proof.Laws Sys2Proof.Commits Sys2Proof.Timetables Sys2Proof.ContextWork Sys2Proof.Bearings Sys2Proof.RingWork
  Sys2Proof.HostRules Sys2Proof.Checkpoints Sys2Proof.ScheduleImages Sys2Proof.ServiceCommands Sys2Proof.ServiceStates

/-! ### Slots of the store -/

theorem slot_setSlot (s : State) (i : Nat) (x : StoreSlot) (j : Nat) : kget {} (setSlot s i x).store.slots j = if j = i then x else kget {} s.store.slots j :=
  kget_kput {} s.store.slots i j x

theorem slot_setSlot_self (s : State) (i : Nat) (x : StoreSlot) : kget {} (setSlot s i x).store.slots i = x := by
  rw [slot_setSlot, if_pos rfl]

theorem filter_kput_of_ne {α : Type} (m : KMap α) (k : Nat) (v : α) : ((kput m k v).filter fun e => decide (e.1 ≠ k)) = m.filter fun e => decide (e.1 ≠ k) := by
  induction m with
  | nil => simp [kput]
  | cons e m ih =>
    obtain ⟨j, w⟩ := e
    unfold kput
    split
    · simp
    · split
      · next h =>
        subst h
        simp
      · rw [List.filter_cons, List.filter_cons, ih]

/-- The extents of the other slots are what they were. -/
theorem extentsUsed_setSlot (s : State) (i : Nat) (x : StoreSlot) : extentsUsed (setSlot s i x) i = extentsUsed s i := by
  unfold extentsUsed
  rw [show (setSlot s i x).store.slots = kput s.store.slots i x from rfl, filter_kput_of_ne]

/-! ### WEIGHTS_LOAD into the store (R303) -/

/-- The state in which an installation reads its blocks. -/
def installing (s : State) (c : Cmd) (h : Bytes) : State :=
  setSlot (acceptCmd (setSlot s (c.fld 295 292) {}) .admin c.seq) (c.fld 295 292) { a := { head := h }, busy := true }

theorem exec_weightsLoad_store {s : State} {c : Cmd} {h : Bytes} (hcur : Current s .admin 0x0050 c) (hbusy : (kget {} s.store.slots (c.fld 295 292)).busy = false)
    (hrepair : (kget {} s.store.slots (c.fld 295 292)).repair = false) (hread : slotRead s (c.fld 295 292) = false) (hfault : storeImageFault h = none)
    (htrust : imageTrusted s h = true) (hfits : extentsUsed s (c.fld 295 292) + 2 * ceilDiv (imgBytes h) (2 ^ 30) ≤ 4032) (hblocks : imgBlocks h ≠ 0) :
    exec (.weightsLoad .admin (.ok h)) s = .next (installRead (installing s c h) (c.fld 295 292) 0 (c.fld 415 352) h) := by
  have htrust' : imageTrusted (setSlot s (c.fld 295 292) {}) h = true := by
    unfold imageTrusted at htrust ⊢
    exact htrust
  show execWeightsLoad .admin (.ok h) s = _
  unfold execWeightsLoad
  rw [withCmd_current hcur]
  dsimp only
  unfold storeLoad
  dsimp only
  rw [hbusy, hrepair, hread, if_neg (by decide), hfault]
  dsimp only
  rw [htrust', extentsUsed_setSlot, if_neg (by decide), if_neg (by omega), if_neg hblocks]
  unfold installing
  rfl

theorem slot_installing (s : State) (c : Cmd) (h : Bytes) (i : Nat) : kget {} (installing s c h).store.slots i =
    if i = c.fld 295 292 then { a := { head := h }, busy := true } else kget {} s.store.slots i := by
  have hstore : (acceptCmd (setSlot s (c.fld 295 292) {}) .admin c.seq).store = (setSlot s (c.fld 295 292) {}).store := acceptCmd_frame _ .admin c.seq .store (by decide)
  unfold installing
  rw [slot_setSlot, hstore, slot_setSlot]
  split <;> rfl

theorem weightsLoad_installs {s : State} {c : Cmd} {h : Bytes} (hcur : Current s .admin 0x0050 c) (hbusy : (kget {} s.store.slots (c.fld 295 292)).busy = false)
    (hrepair : (kget {} s.store.slots (c.fld 295 292)).repair = false) (hread : slotRead s (c.fld 295 292) = false) (hfault : storeImageFault h = none)
    (htrust : imageTrusted s h = true) (hfits : extentsUsed s (c.fld 295 292) + 2 * ceilDiv (imgBytes h) (2 ^ 30) ≤ 4032) (hblocks : imgBlocks h ≠ 0) :
    ∃ t, exec (.weightsLoad .admin (.ok h)) s = .next t ∧ kget {} t.store.slots (c.fld 295 292) = { a := { head := h }, busy := true } ∧
      (∀ i, i ≠ c.fld 295 292 → kget {} t.store.slots i = kget {} s.store.slots i) ∧
      ∃ rd ∈ t.host.reads, rd.owner = .install (c.fld 295 292) 0 ∧ rd.addr = c.fld 415 352 + imgData h := by
  refine ⟨_, exec_weightsLoad_store hcur hbusy hrepair hread hfault htrust hfits hblocks, ?_, fun i hi => ?_,
    { id := (installing s c h).host.nextId, ctx := none, owner := .install (c.fld 295 292) 0, addr := c.fld 415 352 + imgData h + 0 * storeBlock, len := storeBlock },
    List.mem_append_right _ (List.mem_singleton_self _), rfl, by rw [Nat.zero_mul, Nat.add_zero]⟩
  · exact (slot_installing s c h _).trans (if_pos rfl)
  · exact (slot_installing s c h i).trans (if_neg hi)

/-! ### WEIGHTS_LOAD into a context (R305, R307, R318) -/

theorem withBase_keeps (s : State) (j : LoadJob) : let i := LoadJob.withBase s j
    i.direct = j.direct ∧ i.head = j.head ∧ i.seq = j.seq ∧ i.source = j.source ∧ i.records = j.records := by
  intro i
  unfold i LoadJob.withBase
  split
  · split <;> exact ⟨rfl, rfl, rfl, rfl, rfl⟩
  · exact ⟨rfl, rfl, rfl, rfl, rfl⟩

theorem staged_keeps (j : LoadJob) (k : Ctx) : (j.staged k).direct = j.direct ∧ (j.staged k).head = j.head ∧ (j.staged k).seq = j.seq := by
  unfold LoadJob.staged
  split <;> exact ⟨rfl, rfl, rfl⟩

theorem loadEffect_direct {k : Ctx} {j : LoadJob} (h : j.direct = true) : loadEffect k j =
    ({ k with tensors := k.tensors.map fun t => if (j.records.map (·.1)).contains t.num then { t with loaded := false } else t }, j) := by
  unfold loadEffect
  dsimp only
  rw [if_pos h]

section DirectLoad

variable {s : State} {n : Nat} {k : Ctx} {c : Cmd} {h : Bytes}

/-- The load of an image of the store is accepted, its directory relayed and its next block asked for. -/
theorem beginLoad_direct (hload : k.load = none) (hdirect : c.desc.getLsbD 291 = true) (hsource : c.fld 290 289 = 0) (hstop : k.service = .stopped)
    (hdrawn : k.drawn ≤ k.frames.length) : ∃ (e : Ctx) (j : LoadJob), Frame [.ports, .slory, .host] (acceptCmd (setCtx s n { e with load := some j }) (.ctx n) c.seq)
      (beginLoad s n k (.ctx n) c h) ∧ j.direct = true ∧ j.head = h ∧ j.seq = c.seq ∧
      e.tensors = k.tensors.map fun t => if ((loadRecords c.param (c.fld 335 320)).map (·.1)).contains t.num then { t with loaded := false } else t := by
  obtain ⟨hdir, hhead, hseq, hsrc, hrecords⟩ := withBase_keeps s (newLoad c h)
  have hjob : ((newLoad c h).withBase s).direct = true := hdir.trans hdirect
  have hzero : ((newLoad c h).withBase s).source = 0 := hsrc.trans hsource
  have hkept : (loadEffect k ((newLoad c h).withBase s)).2 = (newLoad c h).withBase s := by rw [loadEffect_direct hjob]
  obtain ⟨hsdir, hshead, hsseq⟩ := staged_keeps (loadEffect k ((newLoad c h).withBase s)).2 (loadEffect k ((newLoad c h).withBase s)).1
  rw [hkept] at hsdir hshead hsseq
  refine ⟨(loadEffect k ((newLoad c h).withBase s)).1, ((newLoad c h).withBase s).staged (loadEffect k ((newLoad c h).withBase s)).1, ?_,
    hsdir.trans hjob, hshead.trans hhead, hsseq.trans hseq, ?_⟩
  · unfold beginLoad
    dsimp only
    rw [hload, hjob, hstop, if_neg (by decide), if_neg (by decide), if_neg (by rw [loadEffect_direct hjob]; exact Nat.not_lt.mpr hdrawn), hzero,
      if_neg (by decide), if_pos rfl, hkept]
    with_reducible refine Frame.after (readNext_frame _ n _) (by decide) (.foldl _ _ (fun u i => ?_) (.refl _ _))
    exact (sendSegment_frame u n i _ _).mono (by decide)
  · rw [loadEffect_direct hjob, hrecords]
    rfl

theorem exec_weightsLoad_context (hd : HostData) (hcur : Current s (.ctx n) 0x0050 c) (hk : ctxOf s n = some k) (hsource : c.fld 290 289 = 0)
    (hvalid : (kget {} s.store.slots (c.fld 295 292)).a.valid = true) (hhead : (kget {} s.store.slots (c.fld 295 292)).a.head = h)
    (hdamaged : (kget {} s.store.slots (c.fld 295 292)).damaged = false) (hbusy : (kget {} s.store.slots (c.fld 295 292)).busy = false)
    (hrepair : (kget {} s.store.slots (c.fld 295 292)).repair = false)
    (hrecords : ((List.range (loadRecords c.param (c.fld 335 320)).length).findSome? (recordFault k c.param 0 (loadRecords c.param (c.fld 335 320)))) = none)
    (hfault : storeImageFault h = none) (htrust : imageTrusted s h = true) (himage : recordsImageFault k h (loadRecords c.param (c.fld 335 320)) = none)
    (hbase : baseFault s h (loadRecords c.param (c.fld 335 320)) = none) :
    exec (.weightsLoad (.ctx n) hd) s = .next (beginLoad s n k (.ctx n) c h) := by
  have himageLoad : contextLoad s n k (.ctx n) c hd = imageLoad s n k (.ctx n) c h true := by
    unfold contextLoad
    dsimp only
    rw [hsource, hvalid, hdamaged, hbusy, hrepair, if_neg (by simp), if_neg (by decide), if_neg (by decide), hrecords]
    exact congrArg (imageLoad s n k (.ctx n) c · true) hhead
  show execWeightsLoad (.ctx n) hd s = _
  unfold execWeightsLoad
  rw [withCmd_current hcur]
  dsimp only
  rw [hk]
  dsimp only
  rw [himageLoad]
  unfold imageLoad
  rw [hfault]
  dsimp only
  rw [htrust, if_neg (by decide), himage]
  dsimp only
  rw [hbase]

theorem weightsLoad_starts (hd : HostData) (hexec : exec (.weightsLoad (.ctx n) hd) s = .next (beginLoad s n k (.ctx n) c h))
    (hload : k.load = none) (hdirect : c.desc.getLsbD 291 = true) (hsource : c.fld 290 289 = 0) (hstop : k.service = .stopped)
    (hdrawn : k.drawn ≤ k.frames.length) : ∃ t k' j, exec (.weightsLoad (.ctx n) hd) s = .next t ∧ ctxOf t n = some k' ∧ k'.load = some j ∧ j.direct = true ∧
      j.head = h ∧ j.seq = c.seq ∧ (∀ q ∈ k'.tensors, (loadRecords c.param (c.fld 335 320)).any (fun r => decide (r.1 = q.num)) = true → q.loaded = false) ∧
      t.store = s.store ∧ t.steps = s.steps := by
  obtain ⟨e, j, hbegin, hjdirect, hjhead, hjseq, htensors⟩ := beginLoad_direct (s := s) (n := n) (h := h) hload hdirect hsource hstop hdrawn
  obtain ⟨energy, hctx⟩ := energyOnly_acceptCmd n (setCtx s n { e with load := some j }) (.ctx n) c.seq _ (ctxOf_setCtx_self s n _)
  have haccept : Frame [.host, .admin, .rings, .ctxs, .power, .free] s (acceptCmd (setCtx s n { e with load := some j }) (.ctx n) c.seq) :=
    ((setCtx_frame s n _).mono (by decide)).trans (acceptCmd_frame _ (.ctx n) c.seq)
  refine ⟨_, _, j, hexec, (ctxOf_eq_of_frame hbegin (by decide) n).trans hctx, rfl, hjdirect, hjhead, hjseq, fun q hq hnamed => ?_,
    Eq.trans (hbegin .store (by decide)) (haccept .store (by decide)), Eq.trans (hbegin .steps (by decide)) (haccept .steps (by decide))⟩
  replace hq : q ∈ e.tensors := hq
  rw [htensors] at hq
  obtain ⟨p, hp, rfl⟩ := List.mem_map.mp hq
  split
  · rfl
  · next hout =>
    rw [if_neg hout] at hnamed
    obtain ⟨r, hr, hnum⟩ := List.any_eq_true.mp hnamed
    exact absurd (List.contains_iff_mem.mpr (List.mem_map.mpr ⟨r, hr, of_decide_eq_true hnum⟩)) hout

end DirectLoad

/-! ### Writes into the store (R303, R304, R319) -/

/-- The state in which a store write has left the writes in flight. -/
def written (s : State) (i : Nat) : State := { s with store := { s.store with writing := s.store.writing.eraseIdx i } }

theorem exec_storeWriteCompletion {s : State} {i : Nat} {w : StoreWrite} (h : s.store.writing[i]? = some w) :
    exec (.storeWriteCompletion i) s = .next (storeWritten (written s i) w) := by
  show execStoreWriteCompletion i s = _
  unfold execStoreWriteCompletion
  rw [h]
  rfl

theorem finishInstall_spec (s : State) (slot : Nat) : let x := kget {} (finishInstall s slot none).store.slots slot
    x.a.valid = true ∧ x.b.valid = true ∧ x.busy = false := by
  intro x
  have hx : x = { kget {} s.store.slots slot with
      a := { (kget {} s.store.slots slot).a with valid := true }, b := { (kget {} s.store.slots slot).b with valid := true }, busy := false, damaged := false } :=
    slot_setSlot_self s slot _
  rw [hx]
  exact ⟨rfl, rfl, rfl⟩

/-- A completed repair of a block leaves the good copy and gives its bytes to the other. -/
theorem storeWritten_repairBlock {s : State} {slot blk : Nat} {toB : Bool} {b : Bytes} (h : kfind ((kget {} s.store.slots slot).copy !toB).blocks blk = some b) :
    ∃ x, storeWritten s (.repairBlock slot blk toB) = setSlot s slot x ∧ kfind (x.copy toB).blocks blk = some b ∧
      x.copy (!toB) = (kget {} s.store.slots slot).copy !toB := by
  unfold storeWritten
  dsimp only
  rw [h]
  refine ⟨_, rfl, ?_, ?_⟩
  · cases toB <;> exact kfind_kput_self _ _ _
  · cases toB <;> rfl

/-! ### Reads of the store (R299, R319) -/

section Read

variable {s : State} {n blk : Nat} {c : Ctx} {j : LoadJob}

theorem reads_own (hsource : j.source = 0) (hown : blk < baseFrom) (hnext : j.nextBlock c = some blk) : j.reads c blk = some (j.slot, j.head) := by
  unfold LoadJob.reads
  rw [if_pos hown, if_pos ⟨hsource, hnext⟩]

/-- The first read of a block that its load waits for is that of copy A. -/
theorem exec_storeReadCompletion (good : Bool) (hk : ctxOf s n = some c) (hj : c.load = some j) (hreads : j.reads c blk = some (j.slot, j.head))
    (hown : blk < baseFrom) (hretry : blk ∉ j.retry) (ha : (kget {} s.store.slots j.slot).a.valid = true) :
    exec (.storeReadCompletion n blk good) s = .next (
      if good && blockTrusted j.head blk (kget [] (kget {} s.store.slots j.slot).a.blocks blk) then
        keepBlock s n blk (kget [] (kget {} s.store.slots j.slot).a.blocks blk)
      else if (kget {} s.store.slots j.slot).b.valid then setCtx s n { c with load := some { j with retry := j.retry ++ [blk] } }
      else blockLost s n j.slot blk) := by
  have hfresh : j.retry.contains blk = false := by simpa using hretry
  show execStoreReadCompletion n blk good s = _
  unfold execStoreReadCompletion
  rw [hk]
  dsimp only
  rw [hj, Option.bind_some, hreads, Option.map_some]
  dsimp only
  rw [hfresh, ha, Nat.mod_eq_of_lt hown]
  have hread : (kget {} s.store.slots j.slot).copy (!(true != false)) = (kget {} s.store.slots j.slot).a := rfl
  have hother : (kget {} s.store.slots j.slot).copy (!(!(true != false))) = (kget {} s.store.slots j.slot).b := rfl
  rw [hread, hother]
  cases good && blockTrusted j.head blk (kget [] (kget {} s.store.slots j.slot).a.blocks blk) with
  | true => rfl
  | false => cases (kget {} s.store.slots j.slot).b.valid <;> rfl

/-- A good block is kept. -/
theorem keepBlock_spec (hk : ctxOf s n = some c) (hj : c.load = some j) (b : Bytes) :
    ∃ k l, ctxOf (keepBlock s n blk b) n = some k ∧ k.load = some l ∧ kfind l.blocks blk = some b := by
  unfold keepBlock
  rw [hk]
  dsimp only
  split
  · next h => cases h.symm.trans hj
  · next l _ =>
    refine ⟨_, _, (ctxOf_eq_of_frame (sendSegment_frame _ n _ b _) (by decide) n).trans (ctxOf_setCtx_self s n _), rfl, ?_⟩
    split <;> exact kfind_kput_self _ _ _

/-- A block that both copies have lost ends the load, marks its slot and is logged. -/
theorem blockLost_spec (hk : ctxOf s n = some c) (hj : c.load = some j) (slot : Nat) : ∃ k, ctxOf (blockLost s n slot blk) n = some k ∧ k.load = none ∧
    (kget {} (blockLost s n slot blk).store.slots slot).damaged = true ∧ Logged s (blockLost s n slot blk) 0x0502 (some n) (BitVec.ofNat 128 blk) := by
  have hlog := logErr_frame (setSlot s slot { kget {} s.store.slots slot with damaged := true }) 0x0502 (some n) (BitVec.ofNat 128 blk)
  obtain ⟨k, hkept, hnone, -⟩ := abortLoad_spec ((ctxOf_eq_of_frame hlog (by decide) n).trans hk) hj (memoryReply 2 blk)
  have habort := abortLoad_frame (logErr (setSlot s slot { kget {} s.store.slots slot with damaged := true }) 0x0502 (some n) (BitVec.ofNat 128 blk)) n (memoryReply 2 blk)
  have hlogged : Logged s (logErr (setSlot s slot { kget {} s.store.slots slot with damaged := true }) 0x0502 (some n) (BitVec.ofNat 128 blk)) 0x0502 (some n)
      (BitVec.ofNat 128 blk) := logErr_logged_since 0x0502 (some n) _ rfl rfl
  refine ⟨k, hkept, hnone, ?_, HostRules.logged_congr hlogged rfl rfl (habort .err (by decide))⟩
  unfold blockLost
  dsimp only
  rw [habort .store (by decide), hlog .store (by decide), slot_setSlot_self]

end Read

/-- Settles O39: WEIGHTS_LOAD into store and context, the writes of an installation and of repairs, and a load's reads. -/
theorem storeTransfersComplete : Obligations.StoreTransfersComplete := by
  refine ⟨⟨fun s c h hcur hbusy hrepair hread hfault htrust hfits hblocks => weightsLoad_installs hcur hbusy hrepair hread hfault htrust hfits hblocks,
    fun s n k c h hd hcur hk hsource hvalid hhead hdamaged hbusy hrepair hrecords hfault htrust himage hbase hload hdirect hstop hdrawn => ?_⟩,
    fun s i slot cmd hw => ?_, fun s i slot cmd hw => exec_storeWriteCompletion hw, fun s i slot hw => ?_, fun s i slot hw => ?_,
    fun s i slot blk toB b hw hb => ?_, fun s n blk c j hk hj hsource hown hnext hreceivers hretry ha => ?_⟩
  · exact weightsLoad_starts hd
      (exec_weightsLoad_context hd hcur hk hsource hvalid hhead hdamaged hbusy hrepair hrecords hfault htrust himage hbase) hload hdirect hsource hstop hdrawn
  · exact ⟨_, exec_storeWriteCompletion hw, rfl, congrArg StoreSlot.b (slot_setSlot_self (written s i) slot _)⟩
  · obtain ⟨ha, hb, hbusy⟩ := finishInstall_spec (written s i) slot
    exact ⟨_, exec_storeWriteCompletion hw, ha, hb, hbusy, rfl⟩
  · have hslot := slot_setSlot_self (written s i) slot { kget {} s.store.slots slot with
      a := if (kget {} s.store.slots slot).a.valid then (kget {} s.store.slots slot).a else (kget {} s.store.slots slot).b
      b := if (kget {} s.store.slots slot).a.valid then (kget {} s.store.slots slot).a else (kget {} s.store.slots slot).b, repair := false }
    exact ⟨_, exec_storeWriteCompletion hw, congrArg StoreSlot.repair hslot, (congrArg StoreSlot.a hslot).trans (congrArg StoreSlot.b hslot).symm,
      congrArg StoreSlot.a hslot, rfl⟩
  · obtain ⟨x, hwritten, hgiven, hgood⟩ := storeWritten_repairBlock (s := written s i) (toB := toB) hb
    have hexec := exec_storeWriteCompletion hw
    rw [hwritten] at hexec
    have hslot := slot_setSlot_self (written s i) slot x
    exact ⟨_, hexec, by rw [hslot]; exact hgiven, by rw [hslot]; exact hgood, rfl⟩
  · have hexec (good : Bool) := exec_storeReadCompletion good hk hj (reads_own hsource hown hnext) hown hretry ha
    refine ⟨fun b hb htrust => ?_, fun hvalid => ?_, fun hlost => ?_⟩
    · have hgood := hexec true
      rw [hb, htrust, Bool.and_self, if_pos rfl] at hgood
      obtain ⟨k, l, hkept⟩ := keepBlock_spec (blk := blk) hk hj b
      exact ⟨_, k, l, hgood, hkept⟩
    · have hbad := hexec false
      rwa [Bool.false_and, if_neg Bool.false_ne_true, hvalid, if_pos rfl] at hbad
    · have hbad := hexec false
      rw [Bool.false_and, if_neg Bool.false_ne_true, hlost, if_neg Bool.false_ne_true] at hbad
      obtain ⟨k, hkept⟩ := blockLost_spec (blk := blk) hk hj j.slot
      exact ⟨_, k, hbad, hkept⟩

end Sys2Proof.StoreTransfers
